-- ==== Sys2Proof/Word.lean ====
section
/-! DEFINITION. The words of the machine and their plainest arithmetic. CFG space and the command fields are
little-endian and every register is 32 bits wide (00_scope.md, Registers). -/

namespace Sys2Proof

/-- A CFG register or a 4-byte word of memory. -/
abbrev Word := BitVec 32

/-- One byte of DEV space. -/
abbrev Byte := BitVec 8

/-- A 16-bit word: halves of descriptors and 16-bit number formats. -/
abbrev Half := BitVec 16

/-- A 64-bit word: TIMEBASE values, seeds. -/
abbrev DWord := BitVec 64

end Sys2Proof
end

