-- ==== Sys2Proof/Syntax.lean ====
section
/-! DEFINITION. The commands of the block: one constructor of `Instr` for each row of spec/opcode_table.json, in the
table's order, with what arrives with the command as its operands. A command is a write of a register, a frame of the
host link, a signal at a pin, an operation of a task program, or an event that the spec names. -/

namespace Sys2Proof

/-- A logical core (R5): die Cd, cluster k, core c. -/
structure CoreName where
  die : Fin 2
  cluster : Fin 8
  core : Fin 16
  deriving DecidableEq, Repr

/-- A context slot of a logical core. -/
structure SlotName where
  at_ : CoreName
  slot : Fin 4
  deriving DecidableEq, Repr

/-- What the header of a compiled synthesizer declares (R75, Binding the synthesizer): halo in keyframe rows, greatest
output width, greatest lines per slice, adapter bytes. -/
structure ModelHeader where
  halo : Nat
  maxWidth : Nat
  maxLines : Nat
  adapterBytes : Nat
  deriving DecidableEq, Repr

/-- A slice tag (R45): output, frame counter, slice. -/
structure SliceTag where
  output : Fin 4
  frame : Word
  slice : Fin 64
  deriving DecidableEq, Repr

/-- The registers that `syn_en` = 1 locks (R68). -/
inductive SynLocked where
  | geom | model | bankLo | bankHi | histLo | histHi | oringLo | oringHi | oringSize | launchLo | launchHi
  | adpLaunchLo | adpLaunchHi
  deriving DecidableEq, Repr

/-- The registers whose writes are tested while `syn_en` = 1 (R68). -/
inductive SynTested where
  | budget | margin | conf
  deriving DecidableEq, Repr

/-- Element formats of weights (Table 4.1): codebook formats name the type of their entries. -/
inductive WFmt where
  | int8 | e4m3 | e5m2 | bf16 | fp16 | int4 | cb8Int8 | cb8E4m3 | cb8E5m2 | cb4Int8 | cb4E4m3 | cb4E5m2
  deriving DecidableEq, Repr

/-- Element formats of activations and of stored results. -/
inductive AFmt where
  | int8 | e4m3 | e5m2 | bf16 | fp16
  deriving DecidableEq, Repr

/-- An engine of a slot: the queue that runs the command (R94). -/
structure EngineName where
  slot : SlotName
  engine : Fin 4
  deriving DecidableEq, Repr

/-- LDW (Table 4.2): a weight tile. Offsets are in the slot's core-memory share. -/
structure LdwCmd where
  fmt : WFmt
  /-- First byte of the tile (channel by channel, lowest reduction index first), or of its slab for a codebook format (Table 5.4). -/
  addr : BitVec 24
  /-- Codebook formats: the tile of the slab, the codebook table, the `esc` attribute, and how many weights of each
  group of the slab are real (R138). -/
  tile : Fin 8
  table : BitVec 24
  esc : Bool
  real : Fin 129
  deriving DecidableEq, Repr

/-- MMA (Table 4.2). -/
structure MmaCmd where
  afmt : AFmt
  /-- Offset of the first activation row and the distance between rows. -/
  addr : BitVec 24
  pitch : BitVec 24
  rows : BitVec 11
  accRow : BitVec 10
  overwrite : Bool
  /-- R93: stream tag of a shared activation read. -/
  bcast : Option Byte
  deriving DecidableEq, Repr

/-- CONV and DWC (Table 4.2, R156–R159): one filter tap and channel block of a convolution over a run of output pixels. -/
structure ConvCmd where
  afmt : AFmt
  /-- CB32 rather than CB16 (R154). -/
  cb32 : Bool
  addr : BitVec 24
  height : BitVec 16
  width : BitVec 16
  /-- Channel block of the tensor. -/
  block : BitVec 16
  /-- R159: band of filter rows and of columns of the pass, which shifts the input by (7 × passRow, 7 × passCol) ×
  dilation. -/
  passRow : Fin 5
  passCol : Fin 5
  /-- Tap row and column within the pass, at most 7 × 7. -/
  tapRow : Fin 7
  tapCol : Fin 7
  /-- Stride − 1 and dilation − 1. -/
  stride : Fin 4
  dilation : Fin 4
  padTop : BitVec 16
  padLeft : BitVec 16
  outWidth : BitVec 16
  /-- First output pixel, in raster order, and their number. -/
  first : BitVec 32
  rows : BitVec 11
  accRow : BitVec 10
  overwrite : Bool
  /-- R133: the code that padding positions take. -/
  zeroCode : BitVec 16
  blkdiag : Fin 5
  bcast : Option Byte
  deriving DecidableEq, Repr

/-- What ACC does to its rows (Table 4.2). -/
inductive AccOp where
  | zero
  /-- Add a vector of 16 entries at an offset of the slot's core-memory share. -/
  | addVector (addr : BitVec 24)
  /-- Add rows spilled to core memory (R160). -/
  | addMemory (addr : BitVec 24)
  /-- Add another row range. -/
  | addRows (row : BitVec 10)
  deriving DecidableEq, Repr

/-- RQ (Table 4.2, R142–R144). -/
structure RqCmd where
  /-- INT mode (R142) or FP mode (R143). -/
  intMode : Bool
  target : AFmt
  rounding : Fin 5
  accRow : BitVec 10
  rows : BitVec 11
  /-- R161: the first lane of the channel range that the command takes, and how many. -/
  lane : Fin 16
  lanes : Fin 17
  /-- R160, R166: requantisation is bypassed, and the entries are written as they are, INT32 or FP32. -/
  bypass : Bool
  /-- Parameters of the channels of the range (Table 5.6), destination of its first channel and distance between rows, in the
  slot's core-memory share. -/
  params : BitVec 24
  dst : BitVec 24
  pitch : BitVec 24
  lo : Word
  hi : Word
  /-- FP mode: the accumulators are INT32, taken at their exact value. -/
  accInt : Bool
  /-- The working copy of the tensor's scale history record (R145), and whether the command is dynamic (R143). -/
  record : Option (BitVec 24 × Bool)
  deriving DecidableEq, Repr

/-- A command in the queue of an engine (R94, Table 4.2). -/
inductive EngineCmd where
  | ldw (cmd : LdwCmd)
  | mma (cmd : MmaCmd)
  | conv (cmd : ConvCmd)
  | dwc (cmd : ConvCmd)
  | acc (row : BitVec 10) (rows : BitVec 11) (fp : Bool) (op : AccOp)
  | gap (row : BitVec 10) (rows : BitVec 11) (into : BitVec 10) (fp : Bool)
  | rq (cmd : RqCmd)
  | sig (event : Fin 32)
  | waite (event : Fin 32) (target : BitVec 16)
  deriving DecidableEq, Repr

/-- A hamper of a slot, counted from the slot's first. -/
structure HamperName where
  slot : SlotName
  hamper : Fin 32
  deriving DecidableEq, Repr

/-- Comparisons. -/
inductive CmpOp where
  | eq | ne | lt | le | gt | ge
  deriving DecidableEq, Repr

/-- FP32 operations (Table 4.3). -/
inductive FpOp where
  | add | mul | fma | min | max | abs | select | rcp | rsqrt | sqrt | exp2 | log2 | sin | cos
  | compare (c : CmpOp)
  deriving DecidableEq, Repr

/-- Integer and logic operations (Table 4.3). -/
inductive IntOp where
  | add | sub | mulLow | mulHigh (signed : Bool) | mulWide (signed : Bool) | shl | shr | sar | and | or | xor | popcount
  | bitField (lo : Fin 32) (len : Fin 33)
  | compare (c : CmpOp) (signed : Bool)
  deriving DecidableEq, Repr

/-- Formats of SIMT conversions (Table 4.3). -/
inductive CvtFmt where
  | fp32 | int32 | fp16 | bf16 | e4m3 | e5m2 | int8
  deriving DecidableEq, Repr

/-- Hamper exchange operations (Table 4.3, R96). -/
inductive ExchangeOp where
  | shuffle | broadcast (lane : Fin 32) | voteAny | voteAll | ballot
  | reduceAddFp | reduceAddInt | reduceMaxFp | reduceMaxInt
  deriving DecidableEq, Repr

/-- Atomic operations (Table 4.3). -/
inductive AtomicOp where
  | add | min | max | and | or | xor | exchange | compareExchange | addFp
  deriving DecidableEq, Repr

/-- Which memory a SIMT address is an offset into (R97). -/
inductive SimtSpace where
  | core | cluster
  deriving DecidableEq, Repr

/-- Control instructions (Table 4.3, R95). -/
inductive BranchOp where
  /-- Branch on a register: threads with a non-zero value take it. -/
  | branch (cond : Fin 64)
  | reconverge
  | exit
  /-- Keep active the threads with a non-zero register. -/
  | predicate (cond : Fin 64)
  | call
  | ret
  deriving DecidableEq, Repr

/-- Who waits on an event counter (R109). -/
inductive Waiter where
  | control
  | hamper (h : Fin 32)
  deriving DecidableEq, Repr

/-- What a task program does first: it sets its halo words to 0 (R162), and the task sequencer sets the scale in force in the
working copies of the records that its first steps use (R147). -/
structure TaskStart where
  words : List (BitVec 48)
  /-- Master record, and its working copies. -/
  records : List (BitVec 48 × List (BitVec 48))
  deriving DecidableEq, Repr

/-- A dispatch decision (R264): for which partition, and what a task that it starts does first. -/
structure TaskTurn where
  part : Fin 16
  start : TaskStart
  deriving DecidableEq, Repr

/-- A task: its queue, and its entry's sequence number. -/
structure TaskName where
  queue : Fin 16384
  seq : Word
  deriving DecidableEq, Repr

/-- A sketch unit, box unit or cluster (die, cluster). -/
structure ClusterName where
  die : Fin 2
  cluster : Fin 8
  deriving DecidableEq, Repr

/-- A shaded fragment that reaches retire (R185): its pixel, its primitive, and what its program wrote. -/
structure Fragment where
  x : BitVec 13
  y : BitVec 12
  prim : Nat
  color : Vector Word 4
  /-- Where the program writes it. -/
  depth : Option Word
  discard : Bool
  deriving DecidableEq, Repr

/-- Shaded fragments that reach a retire unit (R185); with them every fragment of a primitive before `through` has come. -/
structure QuadBatch where
  fragments : List Fragment
  through : Nat
  deriving DecidableEq, Repr

/-- The texture of a sample request (R187): one bound to a slot when a primitive of the task's pass was drawn, or one that the
request describes (Table 7.6). -/
inductive TexRef where
  | bound (slot : Fin 16) (prim : Nat)
  | desc (bytes : List Byte)
  deriving DecidableEq, Repr

/-- Who submits a chain (R194). -/
inductive ChainFrom where
  | host
  | task (at_ : SlotName)
  | sketch (queue : Fin 16384) (seq : Word)
  | capture (stream : Fin 16) (buffer : Fin 8)
  deriving DecidableEq, Repr

/-- What a sink answers while its output trains (R215, R217): EDID bytes as read, and the DPCD maximum rate code, lanes
code and ASSR support, unless the capability read fails. -/
structure SinkAnswer where
  edid : List Byte
  dpcd : Option (Fin 4 × Fin 3 × Bool)
  deriving DecidableEq, Repr

/-- How an AUX transaction is answered (R216): ack, nack, or the defer limit. -/
inductive AuxReply where
  | ack | nack | deferLimit
  deriving DecidableEq, Repr

/-- Where a pipe fails (R231). -/
inductive PipeFault where
  /-- An uncorrectable error in its fetch buffer, line buffers or LUT: its timing generator runs on. -/
  | buffers
  /-- The self-check of its timing generator. -/
  | timing
  deriving DecidableEq, Repr

/-- The packets of CSI_LONG_PACKET by data type (R240): the image data types that the receivers accept, the Line Start and Line
End packets that they accept and ignore, and every other type. -/
inductive PacketType where
  | raw8 | raw10 | raw12 | raw14 | raw16 | lineStart | lineEnd
  | other (code : Fin 64)
  deriving DecidableEq, Repr

/-- A hub array that reset's MBIST cannot repair, by its block (R300). -/
inductive HubFault where
  | pipe (n : Fin 5)
  /-- A vision engine, by physical index: F0–F4 0–4, stereo engines 8–9, builders 12–15. -/
  | engine (n : Fin 16)
  /-- Hub SRAM, the scheduler, SYN or the SCT responder. -/
  | vital
  deriving DecidableEq, Repr

/-- A lane that fails link training (R302): by PRBS or by eye margin; lanes 64–67 are redundant. -/
structure LaneFault where
  pair : Fin 7
  module : Fin 4
  dir : Fin 2
  lane : Fin 68
  eye : Bool
  deriving DecidableEq, Repr

/-- One direction of a mesh link or local port with errors (R304): the wires that show them, and whether it still fails when it is
tested again after its repair. -/
structure MeshFault where
  die : Fin 2
  router : Fin 8
  port : Fin 5
  dir : Fin 2
  wires : Nat
  again : Bool
  deriving DecidableEq, Repr

/-- A row with a mismatch (R305); `repaired` by post-package repair or not. -/
structure RowFault where
  stack : Fin 2
  channel : Fin 8
  bank : Fin 16
  row : BitVec 24
  repaired : Bool
  deriving DecidableEq, Repr

/-- What self-test finds in a cluster (R306). -/
inductive BistFault where
  /-- A physical core: fails logic BIST, or has an array that soft repair mends or cannot mend. -/
  | core (cluster : Fin 8) (slot : Fin 17) (logic : Bool) (repaired : Bool)
  /-- Cluster memory or the cluster controller. -/
  | clusterMemory (cluster : Fin 8) (repaired : Bool)
  | sketch (cluster : Fin 8) (repaired : Bool)
  | box (cluster : Fin 8) (repaired : Bool)
  deriving DecidableEq, Repr

/-- A firmware target (R311): a control core, an engine sequencer of a core, a cluster controller or a sketch unit. -/
inductive FwTarget where
  | core (die : Fin 2) (cluster : Fin 8) (slot : Fin 17)
  | sequencer (die : Fin 2) (cluster : Fin 8) (slot : Fin 17) (engine : Fin 4)
  | controller (die : Fin 2) (cluster : Fin 8)
  | sketch (die : Fin 2) (cluster : Fin 8)
  deriving DecidableEq, Repr

/-- What a target returns after a round (R311): whether the digest of the image that it has assembled is right, and the bitmap of the
packets that it misses. -/
structure FwStatus where
  target : FwTarget
  digestGood : Bool
  missing : BitVec 128
  deriving DecidableEq, Repr

/-- How a received frame carries SCT (R326): at layer 2, or over UDP. Sources, destinations, and what the checks
of R326 look at. -/
inductive Encap where
  | l2 (etherType : BitVec 16)
  | udp4 (src dst : BitVec 32) (srcPort dstPort : BitVec 16) (options fragment zeroSum badSum : Bool)
  | udp6 (src dst : BitVec 128) (srcPort dstPort : BitVec 16) (fragment badSum : Bool)
  deriving DecidableEq, Repr

/-- A host frame as received by a port (R322, R326, R327). The op (Table 14.4) is the command's own name. -/
structure RxFrame where
  port : Fin 2
  src : BitVec 48
  dst : BitVec 48
  /-- 802.1Q tags, outermost first: PCP in [15:13], VID in [11:0]. -/
  tags : List (BitVec 16)
  encap : Encap
  /-- Bytes on the wire, from the first header byte to the FCS. -/
  wireLen : Nat
  fcsGood : Bool
  /-- R324: sequence number of the R-TAG, where there is one. -/
  rtag : Option (BitVec 16)
  /-- Header bytes 0, 1 and 3 (Table 14.3). -/
  subtype : Byte
  version : Byte
  stream : Byte
  seq : BitVec 16
  len : BitVec 16
  /-- Header bytes 8 to 15. -/
  rest : BitVec 64
  payload : List Byte
  tag : List Byte
  deriving DecidableEq, Repr

/-- The corrected errors of Table 16.4, each with the counter it raises (R365, Table 16.8). -/
inductive CorrectedKind where
  | dramEcc (stack : Fin 4)
  | linkEcc (stack : Fin 4)
  | scratchpad
  | coreMemory (die : Fin 2) (cluster : Fin 8) (slot : Fin 17)
  deriving DecidableEq, Repr

/-- Who reads, for an error that ends its reader (Table 16.2). -/
inductive Reader where
  | task (queue : Fin 16384) (seq : BitVec 32)
  | sct
  | pipe (pipe : Fin 5)
  | engine (engine : Fin 16)
  | hub
  | none
  deriving DecidableEq, Repr

/-- Where an uncorrectable on-chip error lies (R431). -/
inductive ArrayPlace where
  /-- Core memory, cluster memory or hub SRAM: the DEV address. -/
  | memory (addr : BitVec 48)
  /-- Register file, accumulator memory or engine queue entry of a slot. -/
  | slotArray (die : Fin 2) (cluster : Fin 8) (core : Fin 16) (slot : Fin 4) (kind : Fin 3) (entry : Nat)
  /-- Instruction scratchpad word; the firmware area when `firmware`. -/
  | scratchpad (die : Fin 2) (cluster : Fin 8) (core : Fin 16) (slot : Fin 4) (firmware : Bool)
  deriving DecidableEq, Repr

/-- What the patrol scrubber finds in a block (R357). -/
inductive ScrubResult where
  | clean | correctable | uncorrectable
  deriving DecidableEq, Repr

/-- A link whose receiver checks flits (Table 16.2). -/
inductive LinkName where
  | module (pair : Fin 7) (module : Fin 4)
  | mesh (die : Fin 2) (router : Fin 8) (port : Fin 5)
  deriving DecidableEq, Repr

/-- What triggers a global stop (R389): a write of DBG_STOP (the whole word), a breakpoint, or an error. -/
inductive StopCause where
  | write (value : Word)
  | breakpoint
  | error
  deriving DecidableEq, Repr

/-- JTAG instructions (R426, R390). -/
inductive JtagInstr where
  | bypass | idcode | sample | extest
  | scan (die : Fin 5) (chain : Byte)
  deriving DecidableEq, Repr

/-- A switched power domain (Table 19.4): a physical core, a sketch unit, a pipe, an output, a vision engine by physical
index, or capture. -/
inductive DomainName where
  | core (die : Fin 2) (cluster : Fin 8) (slot : Fin 17)
  | sketch (die : Fin 2) (cluster : Fin 8)
  | pipe (n : Fin 5)
  | output (n : Fin 4)
  | engine (n : Fin 16)
  | capture
  deriving DecidableEq, Repr

/-- A command (a row of the table). -/
inductive Instr where
  /-- RESET_RELEASE (R300): RESET_N rises with the strap balls at these levels (R422); `faults`: hub arrays that MBIST cannot repair. -/
  | resetRelease (straps : Byte) (faults : List HubFault)
  /-- RESET_N_ASSERT (R423): RESET_N has been low for 10 µs. -/
  | resetNAssert
  /-- REFCLK_LOSS (R424): REFCLK has stopped for more than 5 µs. -/
  | refclkLoss
  /-- REGISTER_WRITE (R9): a register is written. -/
  | registerWrite (addr : Word) (value : Word)
  /-- SLICE_RELEASE (R40): R(s) of an output's next slice comes. -/
  | sliceRelease (output : Fin 4)
  /-- KEYFRAME_DIRECT_END (R56): a keyframe-direct copy completes, or ends in error. -/
  | keyframeDirectEnd (tag : SliceTag) (good : Bool)
  /-- SOA_ARRIVAL (R39): a pipe begins to send active line 0. -/
  | soaArrival (pipe : Fin 5)
  /-- TAGGED_SLICE_WRITE (R45): a write to a slice buffer entry arrives. Offsets count the pixels first, then the
  confidence plane. -/
  | taggedSliceWrite (tag : SliceTag) (offset : BitVec 24) (data : List Byte)
  /-- SLICE_DONE_WORD (R51): a slice-done word arrives. -/
  | sliceDoneWord (tag : SliceTag) (word : Word)
  /-- FALLBACK_POINT (R51): F(s) comes. -/
  | fallbackPoint (tag : SliceTag)
  /-- WARP_END (R54): the warp of a slice ends. -/
  | warpEnd (tag : SliceTag)
  /-- WARP_DEADLINE (R51): D(s) comes. -/
  | warpDeadline (tag : SliceTag)
  /-- SLICE_FETCH (R57): the pipe is four line periods before t_scan of a slice. -/
  | sliceFetch (tag : SliceTag)
  /-- SLICE_WRITEBACK_END (R48): scan-out and write-back of a slice end. -/
  | sliceWritebackEnd (tag : SliceTag)
  /-- FRAME_ACTIVE_END (R234): a pipe has sent the last active line. -/
  | frameActiveEnd (pipe : Fin 5)
  /-- VBLANK_START (R237): vertical blanking starts on a pipe. -/
  | vblankStart (pipe : Fin 5)
  /-- LINE_MATCH (R237): the scan of a pipe reaches `line_match`. -/
  | lineMatch (pipe : Fin 5)
  /-- SYN_ENABLE (R66): SYN_CTRL is written with `syn_en` = 1; `value` is the whole word. -/
  | synEnable (output : Fin 4) (value : Word)
  /-- SYN_ENABLE_CHECK_END (R66): the enable check completes; `header` is what the model's header declares. -/
  | synEnableCheckEnd (output : Fin 4) (header : ModelHeader)
  /-- SYN_DISABLE (R63): SYN_CTRL is written with `syn_en` = 0; `value` is the whole word. -/
  | synDisable (output : Fin 4) (value : Word)
  /-- SYN_LOCKED_WRITE (R68): a register that `syn_en` locks is written. -/
  | synLockedWrite (output : Fin 4) (reg : SynLocked) (value : Word)
  /-- SYN_TESTED_WRITE (R68): SYN_BUDGET, SYN_MARGIN or SYN_CONF is written. -/
  | synTestedWrite (output : Fin 4) (reg : SynTested) (value : Word)
  /-- BANK_PUBLISH (R73): SYN_BANK_PUB is written. -/
  | bankPublish (output : Fin 4) (bank : Fin 2)
  /-- BANK_COPY_END (R73): the copies of a latched bank end. -/
  | bankCopyEnd (output : Fin 4) (bank : Fin 2)
  /-- ADAPT_JOB_LAUNCH (R81): SYN finds everything ready for a job. -/
  | adaptJobLaunch (output : Fin 4)
  /-- ADAPT_REPORT (R83): an adaptation report arrives (Table 3.10); `task` is the reporting task. -/
  | adaptReport (output : Fin 4) (ref : Word) (flags : Byte) (lossA lossB : Word)
  /-- ADAPT_JOB_TIMEOUT (R86): the job timeout passes. -/
  | adaptJobTimeout (output : Fin 4)
  /-- ADAPT_REARM (R87): SYN_ADP_CTRL is written with `rearm` = 1. -/
  | adaptRearm (output : Fin 4)
  /-- ADAPT_MODE_WRITE (R88): `adp_mode` is written. -/
  | adaptModeWrite (output : Fin 4) (mode : Fin 4)
  /-- ENGINE_LDW (R92): the engine loads a weight tile. -/
  | engineLdw (at_ : EngineName) (cmd : LdwCmd)
  /-- ENGINE_MMA (R90): the engine streams activation rows through the current tile. -/
  | engineMma (at_ : EngineName) (cmd : MmaCmd)
  /-- ENGINE_CONV (R93): MMA with hardware address generation. -/
  | engineConv (at_ : EngineName) (cmd : ConvCmd)
  /-- ENGINE_DWC (R157): depthwise, on the diagonal of the array. -/
  | engineDwc (at_ : EngineName) (cmd : ConvCmd)
  /-- ENGINE_ACC (R90): the engine zeroes rows or adds to them, as INT32 or FP32. -/
  | engineAcc (at_ : EngineName) (row : BitVec 10) (rows : BitVec 11) (fp : Bool) (op : AccOp)
  /-- ENGINE_GAP (R166): the engine adds rows into one running row. -/
  | engineGap (at_ : EngineName) (row : BitVec 10) (rows : BitVec 11) (into : BitVec 10) (fp : Bool)
  /-- ENGINE_RQ (R142): the engine requantises rows to core memory. -/
  | engineRq (at_ : EngineName) (cmd : RqCmd)
  /-- ENGINE_SIG (R94): the engine adds 1 to an event counter. -/
  | engineSig (at_ : EngineName) (event : Fin 32)
  /-- ENGINE_WAITE (R94): the engine holds its queue until an event counter reaches a target. -/
  | engineWaite (at_ : EngineName) (event : Fin 32) (target : BitVec 16)
  /-- SIMT_FP_ARITH: an FP32 arithmetic or transcendental instruction. -/
  | simtFpArith (at_ : HamperName) (op : FpOp) (rd ra rb rc : Fin 64)
  /-- SIMT_INTEGER: an integer or logic instruction. -/
  | simtInteger (at_ : HamperName) (op : IntOp) (rd ra rb : Fin 64)
  /-- SIMT_CONVERT (R134): a conversion with a rounding mode. -/
  | simtConvert (at_ : HamperName) (src dst : CvtFmt) (rounding : Fin 5) (sat : Bool) (rd ra : Fin 64)
  /-- SIMT_HAMPER_EXCHANGE (R96): a shuffle, broadcast, vote or reduction. -/
  | simtHamperExchange (at_ : HamperName) (op : ExchangeOp) (rd ra rb : Fin 64)
  /-- SIMT_LOAD_STORE (R97): a load or store of 4, 8 or 16 bytes per thread (`words` − 1 = 0, 1, 3). -/
  | simtLoadStore (at_ : HamperName) (store : Bool) (space : SimtSpace) (words : Fin 4) (rd ra : Fin 64)
  /-- SIMT_ATOMIC (R95): an atomic operation; `rb` the operand, `rc` the new value of compare-exchange. -/
  | simtAtomic (at_ : HamperName) (op : AtomicOp) (space : SimtSpace) (rd ra rb rc : Fin 64)
  /-- SIMT_BRANCH (R95): a control instruction. -/
  | simtBranch (at_ : HamperName) (op : BranchOp)
  /-- SIMT_BARRIER (R98): the active threads of a hamper arrive at a barrier of their group. -/
  | simtBarrier (at_ : HamperName) (barrier : Fin 16)
  /-- SIMT_FENCE (R98): a fence; `accepted` when the earlier cluster-memory stores have been accepted. -/
  | simtFence (at_ : HamperName)
  /-- EVENT_WAIT (R109): a wait on a slot event counter. -/
  | eventWait (at_ : SlotName) (waiter : Waiter) (event : Fin 32) (target : BitVec 16)
  /-- EVENT_SIGNAL (R109): a signal to a slot event counter. -/
  | eventSignal (at_ : SlotName) (event : Fin 32)
  /-- FLAG_WAIT (R163): a wait on a halo ready or consumed word in cluster memory. -/
  | flagWait (at_ : SlotName) (addr : BitVec 48) (target : Word)
  /-- SIMT_SAMPLE (R187): a texture sample request; coordinates in `ra` and `ra` + 1, results from `rd`. -/
  | simtSample (at_ : HamperName) (texture : TexRef) (rd ra : Fin 64)
  /-- EBREAK (R384): an ebreak in a task program. -/
  | ebreak (at_ : SlotName) (pc : Word)
  /-- DMA_SUBMIT (R114): a task program issues a descriptor of 64 bytes on a channel of its slot. -/
  | dmaSubmit (at_ : SlotName) (channel : Fin 4) (desc : List Byte)
  /-- DMA_DESCRIPTOR_COMPLETE (R116): the oldest descriptor in flight on a channel ends. -/
  | dmaDescriptorComplete (at_ : SlotName) (channel : Fin 4)
  /-- BOX_CALL_SUBMIT (R168): a task program submits the descriptor at a DEV address. -/
  | boxCallSubmit (at_ : SlotName) (addr : BitVec 48)
  /-- BOX_DECODE (R170): the running call of a box unit, a DECODE, does its work. -/
  | boxDecode (die : Fin 2) (cluster : Fin 8)
  /-- BOX_NMS (R173): the running call, an NMS, does its work. -/
  | boxNms (die : Fin 2) (cluster : Fin 8)
  /-- BOX_CALL_END (R168): the running call ends after `clocks` fabric clocks. -/
  | boxCallEnd (die : Fin 2) (cluster : Fin 8) (clocks : Word)
  /-- SEM_ACQUIRE (R273): the task in a slot acquires units of a semaphore. -/
  | semAcquire (at_ : SlotName) (sem : Fin 4096) (units : BitVec 16)
  /-- SEM_RELEASE (R273): the task in a slot releases units. -/
  | semRelease (at_ : SlotName) (sem : Fin 4096) (units : BitVec 16)
  /-- SEM_ACQUIRE_TIMEOUT (R273): a blocked acquire times out. -/
  | semAcquireTimeout (at_ : SlotName) (sem : Fin 4096)
  /-- SEM_FORCE_REL (R275): SCH_SEMk_CTRL is written with `force_rel`. -/
  | semForceRel (sem : Fin 4096)
  /-- SEM_CLR_ABANDONED (R275): SCH_SEMk_CTRL is written with `clr_abandoned`. -/
  | semClrAbandoned (sem : Fin 4096)
  /-- TOKEN_RECORD_WRITE (R125): an iteration of a token loop produces a token; `reason` 0 none, 1 stop token,
  5 page pool exhausted. -/
  | tokenRecordWrite (queue : Fin 16384) (seq : Word) (token : Word) (reason : Fin 6)
  /-- TOKEN_ITERATION_END (R124): an iteration of a token loop ends. -/
  | tokenIterationEnd (queue : Fin 16384) (seq : Word)
  /-- TOKEN_LOOP_CANCEL (R126): SCH_CTXc_CANCEL is written. -/
  | tokenLoopCancel (ctx : Fin 64) (value : Word)
  /-- SLOT_COUNTER_READ (R381): a task program reads a slot counter. -/
  | slotCounterRead (at_ : SlotName) (counter : Fin 4)
  /-- TRACE_MARKER (R388): a task program, or host software by TRC_MARK, writes a marker of 16 bytes. -/
  | traceMarker (source : Option SlotName) (value : BitVec 128)
  /-- LAYER_STEP_END (R146): a step of a layer ends; `master` is its scale history record, `copies` the working copies. -/
  | layerStepEnd (queue : Fin 16384) (seq : Word) (master : BitVec 48) (copies : List (BitVec 48))
  /-- SLOT_SWITCH (R100): a core switches to the slot that R265 chooses. -/
  | slotSwitch (core : CoreName)
  /-- TASK_DISPATCH (R264): the scheduler makes its next dispatch decision for a partition. -/
  | taskDispatch (turn : TaskTurn)
  /-- GROUP_DISPATCH (R112): the next group of a task goes to a core; `returned` are slots whose invocation of the program of
  an engine-only task has returned. -/
  | groupDispatch (task : TaskName) (returned : List SlotName)
  /-- TASK_COMPLETE (R113): a task ends with a status. -/
  | taskComplete (queue : Fin 16384) (seq : Word) (status : Byte)
  /-- TASK_TIMEOUT (R113): a task's timeout expires. -/
  | taskTimeout (queue : Fin 16384) (seq : Word)
  /-- DEADLINE_ABORT (R261): a task with `dl_abort` still runs at its deadline. -/
  | deadlineAbort (queue : Fin 16384) (seq : Word)
  /-- QUANTUM_EXPIRY (R265): SCH_QUANTUM expires on a core. -/
  | quantumExpiry (core : CoreName)
  /-- WAIT_YIELD (R265): a slot has waited 1 µs. -/
  | waitYield (at_ : SlotName)
  /-- EVICTION_END (R268): the write of a slot's lay-by record ends, or meets an uncorrectable error at an address. -/
  | evictionEnd (at_ : SlotName) (error : Option (BitVec 48))
  /-- RESTORE_START (R269): an evicted slot that competes as a ready task starts its restore. -/
  | restoreStart (at_ : SlotName) (queue : Fin 16384) (seq : Word)
  /-- RESTORE_END (R269): a restore ends, or meets an uncorrectable error at an address. -/
  | restoreEnd (at_ : SlotName) (error : Option (BitVec 48))
  /-- DEPENDENCY_CANCEL (R263): the next entry of a queue has a failed dependency. -/
  | dependencyCancel (queue : Fin 16384)
  /-- TRANSFER_RELEASE (R280): a held transfer asks again. -/
  | transferRelease (transfer : Nat)
  /-- REGULATOR_REFILL (R280): a 1 µs period of TIMEBASE starts. -/
  | regulatorRefill
  /-- QUEUE_ENABLE (R256): SCH_CTXc_QCTL is written with `enable`. -/
  | queueEnable (ctx : Fin 64) (value : Word)
  /-- QUEUE_DISABLE (R256): SCH_CTXc_QCTL is written with `disable` alone. -/
  | queueDisable (ctx : Fin 64) (value : Word)
  /-- DOORBELL (R257): SCH_DBq of a submission queue is written. -/
  | doorbell (queue : Fin 16384) (count : Word)
  /-- CQ_CONSUMER_DOORBELL (R258): SCH_DBq of a `cq_only` queue is written. -/
  | cqConsumerDoorbell (queue : Fin 16384) (count : Word)
  /-- ENTRY_TASK (R260): the scheduler takes the next entry of a queue, op 0x01. -/
  | entryTask (queue : Fin 16384)
  /-- COOL_BOX_LOAD (R277): the next entry of a queue is handled, op 0x02. -/
  | coolBoxLoad (queue : Fin 16384)
  /-- COOL_BOX_LOAD_END (R277): the last segment of a load is copied. -/
  | coolBoxLoadEnd (part : Fin 16) (handle : BitVec 16)
  /-- COOL_BOX_PIN (R278): the next entry of a queue is handled, op 0x03. -/
  | coolBoxPin (queue : Fin 16384)
  /-- COOL_BOX_UNPIN (R278): the next entry of a queue is handled, op 0x04. -/
  | coolBoxUnpin (queue : Fin 16384)
  /-- COOL_BOX_DROP (R278): the next entry of a queue is handled, op 0x05. -/
  | coolBoxDrop (queue : Fin 16384)
  /-- ENTRY_MARKER (R260): the next entry of a queue is handled, op 0x06. -/
  | entryMarker (queue : Fin 16384)
  /-- MODEL_RELOAD_END (R279): a reload ends. -/
  | modelReloadEnd (part : Fin 16) (handle : BitVec 16)
  /-- PARK (R270): SCH_PARTp_PARK is written with `park` = 1. -/
  | park (part : Fin 16)
  /-- PARK_END (R270): the evictions and saves of a park end. -/
  | parkEnd (part : Fin 16)
  /-- UNPARK (R270): SCH_PARTp_PARK is written with `park` = 0. -/
  | unpark (part : Fin 16)
  /-- CTX_RESTART (R272): SCH_CTXc_RESTART is written. -/
  | ctxRestart (ctx : Fin 64)
  /-- SKETCH_PASS_SUBMIT (R191): the render task in a slot submits a pass of its descriptor. -/
  | sketchPassSubmit (at_ : SlotName) (pass : Fin 4)
  /-- PASS_RESUME (R191): a stopped pass of a lead sketch unit resumes. -/
  | passResume (lead : ClusterName)
  /-- SCENE_NOP (R176): the lead's next command is a NOP. -/
  | sceneNop (lead : ClusterName)
  /-- SCENE_END (R176): the lead's next command is END. -/
  | sceneEnd (lead : ClusterName)
  /-- SCENE_SET_CLEAR (R176). -/
  | sceneSetClear (lead : ClusterName)
  /-- SCENE_SET_LAYER (R176). -/
  | sceneSetLayer (lead : ClusterName)
  /-- SCENE_SET_STATE (R176). -/
  | sceneSetState (lead : ClusterName)
  /-- SCENE_BIND_PROG (R176). -/
  | sceneBindProg (lead : ClusterName)
  /-- SCENE_BIND_TEX (R176). -/
  | sceneBindTex (lead : ClusterName)
  /-- SCENE_BIND_BUF (R176). -/
  | sceneBindBuf (lead : ClusterName)
  /-- SCENE_DRAW (R178): with the output records of the vertices that the draw shades. The lead is named by its die
  and cluster. -/
  | sceneDraw (die : Fin 2) (cluster : Fin 8) (shaded : List (List Byte))
  /-- SCENE_DRAW_SURFACE (R176): two triangles. -/
  | sceneDrawSurface (die : Fin 2) (cluster : Fin 8)
  /-- QUAD_RETIRE (R185): shaded quads of tiles that a sketch unit owns reach retire. -/
  | quadRetire (unit : ClusterName) (lead : ClusterName) (quads : QuadBatch) (stalls : Word)
  /-- PASS_END (R188): the last tile of a pass is stored. -/
  | passEnd (lead : ClusterName)
  /-- VIS_CHAIN_SUBMIT (R194): a chain reaches the dispatcher from host software, a task program, a sketch unit or
  capture. -/
  | visChainSubmit (source : ChainFrom) (addr : BitVec 48)
  /-- PYRAMID_STAGE (R200): the stage that runs on a pyramid builder does its work. -/
  | pyramidStage (builder : Fin 4)
  /-- FLOW_STAGE (R202): the stage that runs on a flow engine does its work. -/
  | flowStage (engine : Fin 5)
  /-- STEREO_STAGE (R208): the stage that runs on a stereo engine does its work. -/
  | stereoStage (engine : Fin 2)
  /-- VIS_STAGE_END (R195): a running stage ends after `ns`. -/
  | visStageEnd (engine : Fin 16) (ns : Word)
  /-- VIS_STAGE_STOP (R197): a running stage is at the end of its band. -/
  | visStageStop (engine : Fin 16)
  /-- VIS_STAGE_RESUME (R197): no stage of higher priority waits for an engine that holds a stopped stage. -/
  | visStageResume (engine : Fin 16)
  /-- VIS_ENGINE_FAIL (R207): an uncorrectable error in the internal buffers of an engine. -/
  | visEngineFail (engine : Fin 16)
  /-- VIS_CHAIN_TIMEOUT (R199): the timeout of a chain expires. -/
  | visChainTimeout (chain : Nat)
  /-- COMMIT_ARM (R227): DSP_COMMIT is written with `go` = 1; `value` is the whole word. -/
  | commitArm (pipe : Fin 5) (value : Word)
  /-- COMMIT_LINE (R228): the commit line of a pipe's present frame starts. -/
  | commitLine (pipe : Fin 5)
  /-- DSP_DECLARE (R235): DSP_DECLARE is written. -/
  | dspDeclare (pipe : Fin 5) (value : Word)
  /-- LINE_UNDERRUN (R232): a layer has no data for pixel `x` of a line. -/
  | lineUnderrun (pipe : Fin 5) (line : BitVec 12) (x : BitVec 13)
  /-- PIPE_FAIL (R231): a pipe fails. -/
  | pipeFail (pipe : Fin 5) (fault : PipeFault)
  /-- TAKEOVER_SWITCH (R231): the output switches to pipe P4. -/
  | takeoverSwitch
  /-- PCLK_RELOCK (R221): the pixel PLL of a pipe has relocked. -/
  | pclkRelock (pipe : Fin 5)
  /-- LTOL_REPORT (R233): a pipe reports; the scan is at the start of `line`, and of each layer `buffered` lines are in
  the fetch buffer, in scan order. -/
  | ltolReport (pipe : Fin 5) (line : BitVec 12) (buffered : Vector Nat 8)
  /-- TRAIN (R215): EDP_CTRL is written with `train` = 1. `sink` is what the panel answers; without one no HPD comes. -/
  | train (output : Fin 4) (value : Word) (sink : Option SinkAnswer)
  /-- HPD_WAIT_TIMEOUT (R215): 100 ms have passed without HPD. -/
  | hpdWaitTimeout (output : Fin 4)
  /-- TRAIN_END (R215): training ends. `failed` names the phase that failed its 5 attempts at each rate and lane count
  tried, in order: clock recovery (`false`) or equalisation (`true`). -/
  | trainEnd (output : Fin 4) (failed : List Bool)
  /-- IRQ_HPD (R215): a trained link's sink raises IRQ_HPD; `good` is its link status, `sink` what it answers. -/
  | irqHpd (output : Fin 4) (good : Bool) (sink : SinkAnswer)
  /-- AUX_DPCD_READ (R216): EDP_AUX_CMD is written with `go` and op 0; EDP_AUX_ADDR holds the address. -/
  | auxDpcdRead (output : Fin 4) (length : Fin 16)
  /-- AUX_DPCD_WRITE (R216): op 1. -/
  | auxDpcdWrite (output : Fin 4) (length : Fin 16)
  /-- AUX_I2C_READ (R216): op 2. -/
  | auxI2cRead (output : Fin 4) (length : Fin 16)
  /-- AUX_I2C_SEGMENT_WRITE (R216): op 3. -/
  | auxI2cSegmentWrite (output : Fin 4) (length : Fin 16)
  /-- AUX_REPLY (R216): a reply to the transaction, with its data. -/
  | auxReply (output : Fin 4) (reply : AuxReply) (data : List Byte)
  /-- AUX_TIMEOUT (R216): 400 µs have passed without a reply. -/
  | auxTimeout (output : Fin 4)
  /-- CSI_FRAME_START (R243): a Frame Start packet arrives on a virtual channel; `corrected`: its header had one wrong
  bit. -/
  | csiFrameStart (rx : Fin 4) (vc : Fin 16) (corrected : Bool)
  /-- CSI_LONG_PACKET (R242): a line arrives; its pixels are as the CSI-2 packet layer unpacks them. A packet of a
  type that carries no such line has none. -/
  | csiLongPacket (rx : Fin 4) (vc : Fin 16) (dt : PacketType) (corrected : Bool) (crcGood : Bool) (pixels : List Half)
  /-- CSI_FRAME_END (R244): a Frame End packet arrives. -/
  | csiFrameEnd (rx : Fin 4) (vc : Fin 16) (corrected : Bool)
  /-- CSI_HEADER_ERROR (R241): a header with an uncorrectable error arrives. -/
  | csiHeaderError (rx : Fin 4)
  /-- LINE_BUFFER_OVERRUN (R241): back-pressure fills a receiver's line buffer. -/
  | lineBufferOverrun (rx : Fin 4)
  /-- CAPTURE_FRAME_TIMEOUT (R244): CAP_Vn_TMO expires. -/
  | captureFrameTimeout (stream : Fin 16)
  /-- CAPTURE_RELEASE (R245): CAP_Vn_REL is written. -/
  | captureRelease (stream : Fin 16) (mask : Byte)
  /-- CAPTURE_DISABLE (R246): CAP_Vn_CTRL is written with `en` = 0; `value` is the whole word. -/
  | captureDisable (stream : Fin 16) (value : Word)
  /-- TDM_FRAME (R248): a frame of the expected length arrives, each slot in the low bits of a word. -/
  | tdmFrame (port : Fin 2) (slots : List Word)
  /-- TDM_RESYNC (R248): a frame sync arrives at an unexpected bit count. -/
  | tdmResync (port : Fin 2)
  /-- TDM_FS_LOST (R248): no frame sync has arrived for 1 ms. -/
  | tdmFsLost (port : Fin 2)
  /-- AUDIO_RD_WRITE (R249): CAP_An_RD is written. -/
  | audioRdWrite (stream : Fin 8) (value : Word)
  /-- FSYNC_ENABLE (R247): CAP_FSk_CTRL is written with `en` = 1; `value` is the whole word. -/
  | fsyncEnable (output : Fin 4) (value : Word)
  /-- FSYNC_EDGE (R247): an edge value of an FSYNC output has come. -/
  | fsyncEdge (output : Fin 4)
  /-- I2C_COMMAND (R250): I2C_CMD is written with `go` = 1; `value` is the whole word. -/
  | i2cCommand (ctrl : Fin 4) (value : Word)
  /-- I2C_COMMAND_END (R250): a command ends with a result, 0 to 4, and the bytes read. -/
  | i2cCommandEnd (ctrl : Fin 4) (result : Fin 5) (data : List Byte)
  /-- QZI_VERIFY (R291): BRG_QZI_CTRL is written with `verify` = 1. -/
  | qziVerify
  /-- QZI_VERIFY_END (R291): the running verification ends. -/
  | qziVerifyEnd
  /-- QZI_SEAL (R293): BRG_QZI_CTRL is written with `seal` = 1. -/
  | qziSeal
  /-- DIE_POWER_UP (R297): `pwr_c0`, `pwr_c1`, `pwr_m0` or `pwr_m1` is written 1. -/
  | diePowerUp (die : Fin 4)
  /-- DIE_POWER_UP_END (R292): rails in regulation and PLLs locked in time, or not. -/
  | diePowerUpEnd (die : Fin 4) (good : Bool)
  /-- LINK_TRAINING (R302): `links` is written 1. -/
  | linkTraining
  /-- LINK_TRAINING_END (R303): the test ends with these faults. -/
  | linkTrainingEnd (lanes : List LaneFault) (mesh : List MeshFault)
  /-- DRAM_TRAINING (R305): `dram_m0` or `dram_m1` is written 1. -/
  | dramTraining (die : Fin 2)
  /-- DRAM_TRAINING_END (R305): training and row test end with these faults. -/
  | dramTrainingEnd (die : Fin 2) (channelFailed : Bool) (rows : List RowFault)
  /-- SELF_TEST (R306): `bist_c0` or `bist_c1` is written 1. -/
  | selfTest (die : Fin 2)
  /-- SELF_TEST_END (R306): MBIST and logic BIST end with these faults. -/
  | selfTestEnd (die : Fin 2) (faults : List BistFault)
  /-- FIRMWARE_BROADCAST (R310): `fw` is written 1. -/
  | firmwareBroadcast
  /-- FIRMWARE_BROADCAST_END (R311, R312): the statuses collected after rounds 0 to 8, of the targets that are not complete. -/
  | firmwareBroadcastEnd (rounds : List (List FwStatus))
  /-- REPORT_RING_SET (R313): BRG_RPT_SIZE is written. -/
  | reportRingSet (value : Word)
  /-- RAMBLER_TEST_DUE (R314): the time of the next test has come. -/
  | ramblerTestDue
  /-- RAMBLER_REQ (R314): BRG_RAM_REQ is written. -/
  | ramblerReq (value : Word)
  /-- RAMBLER_SLACK_CHECK (R316): the check of every 1 µs. -/
  | ramblerSlackCheck
  /-- RAMBLER_MOVE_END (R315): the move ends. -/
  | ramblerMoveEnd
  /-- RAMBLER_TEST_END (R319): the test ends; `repaired`: soft repair mended an array. -/
  | ramblerTestEnd (pass : Bool) (repaired : Bool)
  /-- RAMBLER_WAIT_EXPIRY (R317): BRG_RAM_WAIT has passed. -/
  | ramblerWaitExpiry
  /-- SCT_REG_READ (R328): a REG_READ frame arrives. -/
  | sctRegRead (f : RxFrame)
  /-- SCT_REG_WRITE (R328): a REG_WRITE frame arrives. -/
  | sctRegWrite (f : RxFrame)
  /-- SCT_MEM_WRITE (R328): a MEM_WRITE frame arrives. -/
  | sctMemWrite (f : RxFrame)
  /-- SCT_MEM_READ (R328): a MEM_READ frame arrives. -/
  | sctMemRead (f : RxFrame)
  /-- SCT_DOORBELL (R328): a DOORBELL frame arrives. -/
  | sctDoorbell (f : RxFrame)
  /-- SCT_ACK (R338): an ACK frame arrives. -/
  | sctAck (f : RxFrame)
  /-- STREAM_RETRANSMIT (R338): SCT_RTO expires for a device stream. -/
  | streamRetransmit (stream : Byte)
  /-- EVENT_FLUSH (R339): the event coalescing time expires, or 64 records are pending. -/
  | eventFlush
  /-- RESULT_FLUSH (R341): the result coalescing time of a context expires, or a last record is written. -/
  | resultFlush (ctx : Fin 64)
  /-- ETH_LINK_CHANGE (R321): a port's link goes up at a speed code, or down. -/
  | ethLinkChange (port : Fin 2) (up : Bool) (speed : Fin 4) (halfDuplex : Bool)
  /-- ARP_REQUEST (R326): a request for an IPv4 address arrives. -/
  | arpRequest (port : Fin 2) (sender : BitVec 48) (senderIp targetIp : BitVec 32)
  /-- NEIGHBOR_SOLICITATION (R326): a solicitation for an IPv6 address arrives. -/
  | neighborSolicitation (port : Fin 2) (sender : BitVec 48) (senderIp targetIp : BitVec 128)
  /-- GPTP_SYNC (R346): a Sync arrives in a domain on a port; `offset` is the reference time minus TIMEBASE. -/
  | gptpSync (port : Fin 2) (optionalDomain : Bool) (offset : Int)
  /-- PPS_IN_EDGE (R346): PPS_IN has an edge, rising or falling. -/
  | ppsInEdge (rising : Bool)
  /-- PPS_LOSS (R346): 1.5 s have passed without an edge. -/
  | ppsLoss
  /-- HOLDOVER_TIMEOUT (R349): TIM_HOLD_TMO has passed without an offset. -/
  | holdoverTimeout
  /-- TIM_ADJ (R348): TIM_ADJ is written. -/
  | timAdj (value : Word)
  /-- TIM_SET (R348): TIM_SET_HI is written. -/
  | timSet (value : Word)
  /-- LAUNCH_INSTANT (R350): an instant of a launch channel comes. -/
  | launchInstant (channel : Fin 4)
  /-- CORRECTED_ERROR (R356): a correctable error of a code of Table 16.4 is found by a unit. -/
  | correctedError (kind : CorrectedKind) (unit : BitVec 16) (loc : Option (BitVec 48))
  /-- DRAM_UNCORRECTABLE (R357): a read of a DRAM block finds an uncorrectable error. -/
  | dramUncorrectable (addr : BitVec 48) (reader : Reader)
  /-- ONCHIP_UNCORRECTABLE (R431): an uncorrectable error is found in an on-chip array. -/
  | onchipUncorrectable (place : ArrayPlace) (reader : Reader)
  /-- COOL_BOX_ERROR (R359): an uncorrectable error hits a cool box share. -/
  | coolBoxError (die : Fin 2) (cluster : Fin 8) (part : Fin 16) (handle : BitVec 16)
  /-- PATROL_SCRUB (R357): the scrubber reads the row that holds a block; `found` is what it finds there. -/
  | patrolScrub (addr : BitVec 48) (found : ScrubResult)
  /-- FLIT_CRC_ERROR (R358): a receiver finds a bad flit CRC; `replays` counts the replays of this flit so far. -/
  | flitCrcError (link : LinkName) (replays : Fin 16)
  /-- MODULE_RETRAIN_END (R358): a UCIe retrain ends. -/
  | moduleRetrainEnd (pair : Fin 7) (module : Fin 4) (good : Bool)
  /-- MESH_LINK_FAIL (R358): a mesh link still fails after 8 replays. -/
  | meshLinkFail (die : Fin 2) (router : Fin 8) (port : Fin 4)
  /-- CORE_FAIL_IN_SERVICE (R360): a physical core fails in service. -/
  | coreFailInService (die : Fin 2) (cluster : Fin 8) (slot : Fin 17)
  /-- CLUSTER_WITHDRAW (R361): a cluster controller or an unshared cluster memory array fails. -/
  | clusterWithdraw (die : Fin 2) (cluster : Fin 8)
  /-- ERROR_RING_SET (R363): the error ring becomes set. -/
  | errorRingSet
  /-- PARTITION_RESET (R370): host software writes bits of ERR_PRST, or (with a code) a class 2 error resets one. -/
  | partitionReset (part : Fin 16) (code : Option (Fin 21))
  /-- PARTITION_RESET_END (R370): a partition reset ends. -/
  | partitionResetEnd (part : Fin 16)
  /-- FATAL_STATE_ENTRY (R373): a class 3 error occurs. -/
  | fatalStateEntry (code : Fin 21) (unit : BitVec 16) (loc : Option (BitVec 64))
  /-- FATAL_TIMEOUT (R374): ERR_FATAL_TMO has expired with `auto_rst` set. -/
  | fatalTimeout
  /-- DEVICE_RESET_REQUEST (R374): ERR_DEVRST is written. -/
  | deviceResetRequest (value : Word)
  /-- UNLOCK_SUBMIT (R379): DBG_TOKEN_HI is written. -/
  | unlockSubmit (value : Word)
  /-- UNLOCK_END (R379): the verification of a token ends. -/
  | unlockEnd
  /-- DEBUG_LOCK (R380): DBG_LOCK is written with `lock` = 1. -/
  | debugLock
  /-- BREAKPOINT_ARM (R384): DBG_BPb_CTRL is written with `bp_en` = 1; `value` is the whole word. -/
  | breakpointArm (unit : Fin 16) (value : Word)
  /-- BREAKPOINT_HIT (R385): the control core of a slot comes to an instruction at `pc`. -/
  | breakpointHit (at_ : SlotName) (pc : Word)
  /-- DEBUG_RESUME (R386): DBG_RUN is written with `resume`; `all`: every slot of the task. -/
  | debugResume (at_ : SlotName) (all : Bool)
  /-- DEBUG_STEP (R386): DBG_RUN is written with `step`. -/
  | debugStep (at_ : SlotName) (all : Bool)
  /-- GLOBAL_STOP (R389): a stop trigger. -/
  | globalStop (cause : StopCause)
  /-- GLOBAL_STOP_RELEASE (R391): DBG_STOP is written with `release`; `value` is the whole word. -/
  | globalStopRelease (value : Word)
  /-- SCAN_DATA_READ (R390): DBG_SCAN_DATA is read. -/
  | scanDataRead
  /-- PMC_SNAP (R382): PMC_CTRL is written with `snap` = 1; `value` is the whole word. -/
  | pmcSnap (value : Word)
  /-- PMC_SAMPLE_TICK (R382): the snapshot period has passed. -/
  | pmcSampleTick
  /-- PMC_COUNTER_WRAP (R382): a counter that counts clocks, flits or bytes wraps. -/
  | pmcCounterWrap (counter : Fin 32)
  /-- PC_SAMPLE (R383): a sampling period ends on a core; what its control core and hampers show. -/
  | pcSample (core : CoreName) (channel : Fin 4) (pc : Word) (stall : Fin 16)
  /-- TRACE_RING_ENABLE (R388): TRC_RINGr_CFG is written with `en` = 1; `value` is the whole word. -/
  | traceRingEnable (ring : Fin 2) (value : Word)
  /-- SEC_PROVISION (R399): SEC_CTRL is written with `provision` = 1. -/
  | secProvision
  /-- SEC_UNWRAP (R400): `unwrap` = 1. -/
  | secUnwrap
  /-- SEC_ATTEST (R401): `attest` = 1. -/
  | secAttest
  /-- SEC_SK_LOAD (R403): `sk_load` = 1. -/
  | secSkLoad
  /-- SEC_SK_COMMIT (R403): `sk_commit` = 1. -/
  | secSkCommit
  /-- SEC_OPERATION_END (R404): the running operation ends; `trngOk`: the TRNG's health tests pass. -/
  | secOperationEnd (trngOk : Bool)
  /-- PSTATE_TARGET (R411): PWR_CLUi_PSTATE is written. -/
  | pstateTarget (cluster : Fin 16) (value : Word)
  /-- DVFS_TRANSITION_END (R411): a transition ends. -/
  | dvfsTransitionEnd (cluster : Fin 16)
  /-- POWER_CHECK (R412): the check of every 100 µs; the mean package power in mW. -/
  | powerCheck (mean : Word)
  /-- CURRENT_FAST_LIMIT (R413): VDD_CMPd has been above its ceiling for 2 µs, or (`over` false) below 95 % of it for
  100 µs. -/
  | currentFastLimit (die : Fin 2) (high : Bool)
  /-- RAIL_CURRENT_POLL (R413): currents read, in 100 mA; none where the regulator does not answer. -/
  | railCurrentPoll (currents : Vector (Option Half) 12)
  /-- THERMAL_SAMPLE (R415): the sensors' readings, signed, in 1/16 °C. -/
  | thermalSample (temps : Vector Half 25)
  /-- POWER_GOOD_LOSS (R416): PG_CMP0, PG_CMP1 or PG_MEM falls. -/
  | powerGoodLoss (rail : Fin 3)
  /-- DOMAIN_GATE (R408): a domain has met its condition for its time. -/
  | domainGate (domain : DomainName)
  /-- DOMAIN_WAKE_END (R409): a domain has woken. -/
  | domainWakeEnd (domain : DomainName)
  /-- SELF_REFRESH_ENTRY (R417): a stack has had no request for PWR_SR_IDLE µs; free bytes of each receiver's line
  buffer. -/
  | selfRefreshEntry (stack : Fin 4) (free : Vector Nat 4)
  /-- SELF_REFRESH_EXIT (R417): a request or a tolerance wakes a stack; clocks that requests waited. -/
  | selfRefreshExit (stack : Fin 4) (stall : Word)
  /-- REFCLK_RETURN (R424): REFCLK has run again for 1 ms. -/
  | refclkReturn (straps : Byte) (faults : List HubFault)
  /-- SYNC_RECEIPT_TIMEOUT (R346): Sync stays away for its receipt timeout, or the port leaves slave state. -/
  | syncReceiptTimeout
  /-- HPD_LOSS (R215): an output's HPD falls. -/
  | hpdLoss (output : Fin 4)
  /-- JTAG_INSTRUCTION (R426): an instruction is shifted in. -/
  | jtagInstruction (instr : JtagInstr)
  /-- GATE_CONTROL_INTERVAL (R324): the present interval of a port's gate control list expires. -/
  | gateControlInterval (port : Fin 2)
  /-- FRER_RESET_TIMEOUT (R324): the reset timeout of a recovery stream expires. -/
  | frerResetTimeout (stream : Fin 16)
  deriving DecidableEq, Repr

end Sys2Proof
end

