-- ==== Sys2Proof/Config.lean ====
section
/-! DEFINITION. What one device fixes and the spec does not give: free values, none of which has a body. -/

namespace Sys2Proof.Config

/-- R394: the SHA-256 digest words of the Zogaval root key, held in mask ROM; the spec gives no value. -/
opaque rootDigest : Nat → BitVec 32

/-- Table 4.3: which of the numbers within 2 ulp a stepping gives for an operation (0 exp2, 1 log2, 2 sin, 3 cos). -/
opaque approx (op : Nat) (a : BitVec 32) : Nat

/-- R13: the number, before it is reduced to the working modules of a die pair, that a destination address selects; the spec
says only that it is a fixed function of the address. -/
opaque moduleOf (pair addr : Nat) : Nat

/-- R397: the 256-bit seed that the fuzzy extractor recovers from a PUF capture and helper data; the spec does not say how. -/
opaque pufSeed (capture : Nat) (helper : List Byte) : BitVec 256

/-- The free values of the model: value number `i`, of any width, wherever the spec leaves a value open. -/
opaque freeBits (n i : Nat) : BitVec n

/-- R43: the byte of a slot's core-memory share at which SYN's input stage places a tensor of Table 2.3 (0 kf, 1 flow,
2 hist, 3 state, 4 scal); the spec gives the tensors no address. FREE VALUE (log 32). -/
opaque inputPlace : Nat → Nat

/-- R121: the places, core and slot, that a compiled schedule states for a task; the spec gives the schedule no form, and
the task's code image stands for it. FREE VALUE (log 15). -/
opaque staticPlaces (image : List Byte) : List (Nat × Nat)

/-- R162, R147: what a statically scheduled task does first: the halo words that it sets to 0, and the records, each with its
working copies, whose scales in force are set. FREE VALUE (log 15). -/
opaque staticWords (image : List Byte) : List (BitVec 48)
opaque staticRecords (image : List Byte) : List (BitVec 48 × List (BitVec 48))

/-- R178: whether a primitive whose corners have a positive sense in the target shows its front; the spec does not say. FREE
VALUE (log 74). -/
opaque frontIsPositive : Bool

/-- R188: the motion, coordinate `c`, at a pixel whose previous position lies at infinity. FREE VALUE (log 74). -/
opaque motionAtInfinity (x y c : Nat) : BitVec 16

/-- R180: how bin memory writes the allocation state (0), the head and tail of a list (1), a primitive record (2) and a link to a
chunk (3), as one number of the size that the spec gives; it gives their form to none. FREE VALUE (log 29). -/
opaque binForm (kind : Nat) (content : List Nat) : Nat

/-- R187: the FP32 value that sRGB decoding gives for a component `num / den`. FREE VALUE (log 74). -/
opaque srgbDecode (num den : Nat) : BitVec 32

/-- R277: where in a cluster's cool box share a segment of a model is put, in units of 64 bytes, by partition, handle, segment and
cluster. The spec does not say (log 17). -/
opaque coolPlace (part handle segment cluster : Nat) : Nat

/-- R295: frames that a queue of a port holds; the spec does not say (log 68). -/
opaque portQueueFrames : Nat

end Sys2Proof.Config
end

