-- ==== Sys2Proof/Machine/Bits.lean ====
section
/-! DEFINITION. Bit fields of a register and byte strings. Multi-byte fields are little-endian (00_scope.md, Registers;
R327). -/

namespace Sys2Proof.Machine

/-- The field [hi:lo] of a word, as a number. -/
def bits (w : Word) (hi lo : Nat) : Nat := w.toNat / 2 ^ lo % 2 ^ (hi + 1 - lo)

/-- A word with ones in [hi:lo]. -/
def fieldMask (hi lo : Nat) : Word := BitVec.ofNat 32 ((2 ^ (hi + 1 - lo) - 1) * 2 ^ lo)

/-- The word `w` with `v` in its field [hi:lo]. -/
def setBits (w : Word) (hi lo v : Nat) : Word :=
  (w &&& ~~~(fieldMask hi lo)) ||| (BitVec.ofNat 32 (v % 2 ^ (hi + 1 - lo) * 2 ^ lo))

/-- 1 for true. -/
def b2n (b : Bool) : Nat := if b then 1 else 0

/-- Bit `i` of a number. -/
def natBit (v i : Nat) : Bool := v / 2 ^ i % 2 == 1

/-- The low `n` bytes of `v`, least significant first. -/
def leBytes : Nat → Nat → List Byte
  | 0, _ => []
  | n + 1, v => BitVec.ofNat 8 v :: leBytes n (v / 256)

/-- The number whose little-endian bytes are given. -/
def ofLe : List Byte → Nat
  | [] => 0
  | b :: bs => b.toNat + 256 * ofLe bs

/-- The low `n` bytes of `v`, most significant first. -/
def beBytes (n v : Nat) : List Byte := (leBytes n v).reverse

/-- The number whose big-endian bytes are given. -/
def ofBe (bs : List Byte) : Nat := ofLe bs.reverse

/-- `n` bytes of a byte string from offset `o`; bytes past its end are 0. -/
def sliceBytes (bs : List Byte) (o n : Nat) : List Byte :=
  let t := (bs.drop o).take n
  t ++ List.replicate (n - t.length) 0

/-- The little-endian number of `n` bytes at offset `o` of a byte string. -/
def leAt (bs : List Byte) (o n : Nat) : Nat := ofLe ((bs.drop o).take n)

/-- A signed number in `n` bits, two's complement. -/
def signedOf (n v : Nat) : Int :=
  let u := v % 2 ^ n
  if u < 2 ^ (n - 1) then (u : Int) else (u : Int) - (2 ^ n : Nat)

/-- The `n`-bit two's complement of an integer, as a number. -/
def twosNat (n : Nat) (i : Int) : Nat := (i % (2 ^ n : Nat)).toNat

/-- An integer limited to a range. -/
def clampInt (lo hi v : Int) : Int := if v < lo then lo else if hi < v then hi else v

/-- A signed integer limited to 32 bits, as a word ("signed, saturating"). -/
def satWord (v : Int) : Word := BitVec.ofInt 32 (clampInt (-2147483648) 2147483647 v)

/-- Rounding a quotient up. -/
def ceilDiv (a b : Nat) : Nat := (a + b - 1) / b

/-- Rounding a number up to a multiple. -/
def roundUp (a m : Nat) : Nat := ceilDiv a m * m

/-- Is `n` a power of two? -/
def isPow2 (n : Nat) : Bool := n != 0 && 2 ^ n.log2 == n

/-- Do two half-open ranges share a byte or unit? -/
def overlaps (a n b m : Nat) : Bool := a < b + m && b < a + n

/-- Do two ranges (first, count), of which neither is empty, share a unit? -/
def rangesMeet (a b : Nat × Nat) : Bool := a.2 != 0 && b.2 != 0 && overlaps a.1 a.2 b.1 b.2

/-- Replace the first element that satisfies a test, or add one at the end. -/
def upsert {α : Type} (p : α → Bool) (new : α) : List α → List α
  | [] => [new]
  | x :: xs => if p x then new :: xs else x :: upsert p new xs

/-- Change the elements that satisfy a test. -/
def mapIf {α : Type} (p : α → Bool) (f : α → α) (xs : List α) : List α := xs.map fun x => if p x then f x else x

/-- The numbers `a`, `a + 1`, … , `a + n - 1`. -/
def rangeFrom (a : Nat) : Nat → List Nat
  | 0 => []
  | n + 1 => a :: rangeFrom (a + 1) n

/-- Lexicographic order of two keys. -/
def keyLt : List Nat → List Nat → Bool
  | [], [] => false
  | [], _ => true
  | _, [] => false
  | a :: as, b :: bs => if a < b then true else if b < a then false else keyLt as bs

/-- The element with the least key, the first of those with equal keys. -/
def leastBy {α : Type} (key : α → List Nat) : List α → Option α
  | [] => none
  | x :: xs =>
    match leastBy key xs with
    | none => some x
    | some y => if keyLt (key y) (key x) then some y else some x

/-- Insert an element before the first one with a greater key. -/
def insertBy {α : Type} (key : α → List Nat) (x : α) : List α → List α
  | [] => [x]
  | y :: ys => if keyLt (key x) (key y) then x :: y :: ys else y :: insertBy key x ys

/-- A list in order of its keys; elements with equal keys keep their order. -/
def sortBy {α : Type} (key : α → List Nat) (xs : List α) : List α := xs.foldl (fun acc x => insertBy key x acc) []

/-- An element of a vector by number; a default past its end. -/
def vecGet {α : Type} {n : Nat} (v : Vector α n) (i : Nat) (d : α) : α := if h : i < n then v[i] else d

/-- Replace an element of a vector by number; nothing changes past its end. -/
def vecSet {α : Type} {n : Nat} (v : Vector α n) (i : Nat) (x : α) : Vector α n := if h : i < n then v.set i x else v

/-- Is a later than b, as 32-bit numbers that wrap (R32)? -/
def after32 (a b : Word) : Bool := let k := (a - b).toNat; decide (1 ≤ k) && decide (k < 2 ^ 31)

/-- Bytes repeated. -/
def zeros (n : Nat) : List Byte := List.replicate n 0

/-- Set a byte in a list of (offset, byte) with rising offsets; offsets already listed keep the new byte. -/
def putCell : List (Nat × Byte) → Nat → Byte → List (Nat × Byte)
  | [], a, b => [(a, b)]
  | (k, v) :: t, a, b =>
    if a < k then (a, b) :: (k, v) :: t else if k = a then (a, b) :: t else (k, v) :: putCell t a b

/-- Set consecutive bytes. -/
def putCells (m : List (Nat × Byte)) (a : Nat) : List Byte → List (Nat × Byte)
  | [] => m
  | b :: bs => putCells (putCell m a b) (a + 1) bs

/-- A list from 0 that holds every byte of a string. -/
def cellsOf (bs : List Byte) : List (Nat × Byte) := putCells [] 0 bs

/-- Map with the place of each element. -/
def mapPlaces {α β : Type} (f : Nat → α → β) (i : Nat) : List α → List β
  | [] => []
  | x :: xs => f i x :: mapPlaces f (i + 1) xs

end Sys2Proof.Machine
end

