-- ==== Sys2Proof/Machine/RegSpec.lean ====
section
/-! DEFINITION. What the spec says of one register of the map (R9, Table 0.5): where its instances lie in CFG space,
which bits each access code gives, and the value after reset. -/

namespace Sys2Proof.Machine

/-- One register of the map, with all its instances. -/
structure Reg where
  /-- CFG address of the first instance (R24). -/
  base : Nat
  /-- For each index of the register: how many values it takes and the distance between two instances. -/
  dims : List (Nat × Nat) := []
  /-- Bits with access code RW. -/
  rw : BitVec 32 := 0
  /-- Bits with access code RWL. -/
  rwl : BitVec 32 := 0
  /-- Bits with access code W1C. -/
  w1c : BitVec 32 := 0
  /-- Bits with access code WO: a read returns 0. -/
  wo : BitVec 32 := 0
  /-- Bits with access code RC: a read clears. -/
  rc : BitVec 32 := 0
  /-- A shadowed display register (R227): a commit applies it. -/
  shadowed : Bool := false
  /-- The value after reset, by instance. -/
  reset : List Nat → BitVec 32 := fun _ => 0

/-- The CFG address of an instance. -/
def regOffset : List (Nat × Nat) → List Nat → Nat
  | (_, stride) :: ds, i :: ix => i * stride + regOffset ds ix
  | _, _ => 0

/-- The CFG address of instance `ix` of register `r`. -/
def regAddr (r : Reg) (ix : List Nat) : Nat := r.base + regOffset r.dims ix

/-- The indices of the instance that lies `off` bytes above the first one, if there is one. -/
def locateOffset : List (Nat × Nat) → Nat → Option (List Nat)
  | [], off => if off = 0 then some [] else none
  | (n, stride) :: ds, off =>
    if off / stride < n then (locateOffset ds (off % stride)).map (off / stride :: ·) else none

/-- The indices of the instance of `r` at CFG address `a`, if there is one. -/
def locate (r : Reg) (a : Nat) : Option (List Nat) :=
  if r.base ≤ a then locateOffset r.dims (a - r.base) else none

/-- Does the spec give this instance a register? VIS has no engines 5 to 7, 10 and 11 (R24), and only ETH0 has recovery
streams (Table 14.7). -/
def regExists (r : Reg) (ix : List Nat) : Bool :=
  if 0x300000 ≤ r.base ∧ r.base < 0x310000 then
    match ix with | n :: _ => n < 5 || n == 8 || n == 9 || (12 ≤ n && n < 16) | [] => false
  else if 0x42C00 ≤ r.base ∧ r.base < 0x42D00 then ix.headD 0 == 0
  else true

/-- The first register of a list that has an instance at CFG address `a`. -/
def findReg : List Reg → Nat → Option (Reg × List Nat)
  | [], _ => none
  | r :: rs, a =>
    match locate r a with
    | some ix => if regExists r ix then some (r, ix) else findReg rs a
    | none => findReg rs a

/-- CORE_ID (Table 4.7): physical slot in [4:0], cluster in [7:5], die in [8]. -/
def coreIdReset : List Nat → BitVec 32
  | [d, k, j] => BitVec.ofNat 32 (j + 32 * k + 256 * d)
  | _ => 0

/-- CLC_LMAPi (Table 4.8): logical core c on physical slot c at reset. -/
def lmapReset : List Nat → BitVec 32
  | [_, _, i] => BitVec.ofNat 32 (0x03020100 + i * 0x04040404)
  | _ => 0

/-- VIS_ENG_STATUS (Table 8.10 and its map): `mapped` and the engine's own index; F4 serves no index. -/
def visEngReset : List Nat → BitVec 32
  | [n] =>
    if n < 4 then BitVec.ofNat 32 (0x20 + 256 * n)
    else if n = 8 ∨ n = 9 then BitVec.ofNat 32 (0x20 + 256 * (n - 8))
    else if 12 ≤ n ∧ n < 16 then BitVec.ofNat 32 (0x20 + 256 * (n - 12))
    else 0
  | _ => 0

/-- DSP_MAP (Table 9.7): pipe Pn drives Dn at reset, pipe P4 drives nothing (R212). -/
def dspMapReset : List Nat → BitVec 32
  | [n] => if n < 4 then BitVec.ofNat 32 (4 + n) else 0
  | _ => 0

/-- PWR_RAILr_CEIL: the maximum current of Table 19.1 in units of 100 mA. -/
def railCeilReset : List Nat → BitVec 32
  | [r] => ([750, 750, 140, 400, 180, 80, 120, 60, 10, 10, 60, 20] : List (BitVec 32)).getD r 0
  | _ => 0

end Sys2Proof.Machine
end

