-- ==== Sys2Proof/Machine/Regs.lean ====
section
/-! DEFINITION. The register map of the spec (the register tables of every chapter, at the block bases
of R24), one definition per register: its CFG address, its index ranges, its access masks (Table 0.5)
and its reset value. -/

namespace Sys2Proof.Machine.R

/-- Table 3.4, R60: Device-wide 32-bit slice counter (R60); wraps -/
def SYN_SLICE_COUNT : Reg := { base := 0x1c0000 }

/-- Table 3.4, R60: [3:0] output enabled; [7:4] adaptation running: bit n is 1 while output n has enabled = 1 and mode 2 in … -/
def SYN_SUMMARY : Reg := { base := 0x1c0004 }

/-- Table 3.5, R66: Control, see map -/
def SYN_CTRL : Reg := { base := 0x1c1000, dims := [(4, 0x400)], rw := 0x3f, reset := fun _ => 0x30 }

/-- Table 3.5, R66: Slicing and keyframes, see map -/
def SYN_GEOM : Reg := { base := 0x1c1004, dims := [(4, 0x400)], rw := 0xf37f, reset := fun _ => 0x2016 }

/-- Table 3.5, R66: B in ns -/
def SYN_BUDGET : Reg := { base := 0x1c1008, dims := [(4, 0x400)], rw := 0xffffffff }

/-- Table 3.5, R66: [17:0] M in ns (40,000); [31:18] 0 -/
def SYN_MARGIN : Reg := { base := 0x1c100c, dims := [(4, 0x400)], rw := 0x3ffff, reset := fun _ => 0x9c40 }

/-- Table 3.5, R66: [7:0] c_min (64); [15:8] q (16); [31:16] 0 -/
def SYN_CONF : Reg := { base := 0x1c1010, dims := [(4, 0x400)], rw := 0xffff, reset := fun _ => 0x1040 }

/-- Table 3.5, R66: Queue assignment, see map -/
def SYN_QUEUE : Reg := { base := 0x1c1014, dims := [(4, 0x400)], rwl := 0xbfffbfff }

/-- Table 3.5, R66: [15:0] model handle, 0 = none; [23:16] entry index; [31:24] 0 -/
def SYN_MODEL : Reg := { base := 0x1c1018, dims := [(4, 0x400)], rw := 0xffffff }

/-- Table 3.5, R66: DEV address of bank 0, [31:0] and [47:32] -/
def SYN_BANK_LO : Reg := { base := 0x1c101c, dims := [(4, 0x400)], rw := 0xffffffff }

/-- Table 3.5, R66: DEV address of bank 0, [31:0] and [47:32] -/
def SYN_BANK_HI : Reg := { base := 0x1c1020, dims := [(4, 0x400)], rw := 0xffff }

/-- Table 3.5, R66: [0] bank to make current -/
def SYN_BANK_PUB : Reg := { base := 0x1c1024, dims := [(4, 0x400)], wo := 0x1 }

/-- Table 3.5, R66: DEV address of the history area, 4 KiB aligned -/
def SYN_HIST_LO : Reg := { base := 0x1c1028, dims := [(4, 0x400)], rw := 0xffffffff }

/-- Table 3.5, R66: DEV address of the history area, 4 KiB aligned -/
def SYN_HIST_HI : Reg := { base := 0x1c102c, dims := [(4, 0x400)], rw := 0xffffffff }

/-- Table 3.5, R66: DEV address of the origin ring, 32-byte aligned -/
def SYN_ORING_LO : Reg := { base := 0x1c1030, dims := [(4, 0x400)], rw := 0xffffffff }

/-- Table 3.5, R66: DEV address of the origin ring, 32-byte aligned -/
def SYN_ORING_HI : Reg := { base := 0x1c1034, dims := [(4, 0x400)], rw := 0xffffffff }

/-- Table 3.5, R66: [4:0] log2 of ring records, 4–16 -/
def SYN_ORING_SIZE : Reg := { base := 0x1c1038, dims := [(4, 0x400)], rw := 0x1f, reset := fun _ => 4 }

/-- Table 3.5, R66: [15:0] index of the next record written -/
def SYN_ORING_WR : Reg := { base := 0x1c103c, dims := [(4, 0x400)] }

/-- Table 3.5, R66: Records that overwrote an older record once the ring was full (R59), read or not; saturating event counter -/
def SYN_ORING_LOSS : Reg := { base := 0x1c1040, dims := [(4, 0x400)] }

/-- Table 3.5, R66: Status, see map -/
def SYN_STATUS : Reg := { base := 0x1c1044, dims := [(4, 0x400)] }

/-- Table 3.5, R66: [7:0] slice buffer entries available; [15:8] needed; [23:16] in use -/
def SYN_ENTRIES : Reg := { base := 0x1c1048, dims := [(4, 0x400)] }

/-- Table 3.5, R66: Measured T_frame, ns (R36) -/
def SYN_TFRAME : Reg := { base := 0x1c104c, dims := [(4, 0x400)] }

/-- Table 3.5, R66: Last SOA, TIMEBASE ns -/
def SYN_SOA_LO : Reg := { base := 0x1c1050, dims := [(4, 0x400)] }

/-- Table 3.5, R66: Last SOA, TIMEBASE ns -/
def SYN_SOA_HI : Reg := { base := 0x1c1054, dims := [(4, 0x400)] }

/-- Table 3.5, R66: Output frame counter n -/
def SYN_FRAME : Reg := { base := 0x1c1058, dims := [(4, 0x400)] }

/-- Table 3.5, R66: Index of the newer latched keyframe -/
def SYN_KF_INDEX : Reg := { base := 0x1c105c, dims := [(4, 0x400)] }

/-- Table 3.5, R66: Origin map of the frame being scanned (R58) -/
def SYN_OMAP_CUR : Reg := { base := 0x1c1060, dims := [(4, 0x400), (4, 0x4)] }

/-- Table 3.5, R66: Origin map of the last finished frame -/
def SYN_OMAP_LAST : Reg := { base := 0x1c1070, dims := [(4, 0x400), (4, 0x4)] }

/-- Table 3.5, R66: Origin counters for codes 0b00–0b11; wrap -/
def SYN_ORIG_CNT : Reg := { base := 0x1c1080, dims := [(4, 0x400), (4, 0x4)] }

/-- Table 3.5, R66: Event counters of R60, in this order at 4-byte steps; saturate -/
def SYN_CNT_MISSED : Reg := { base := 0x1c1090, dims := [(4, 0x400)] }

/-- Table 3.5, R66: Event counters of R60, in this order at 4-byte steps; saturate -/
def SYN_CNT_LOWCONF : Reg := { base := 0x1c1094, dims := [(4, 0x400)] }

/-- Table 3.5, R66: Event counters of R60, in this order at 4-byte steps; saturate -/
def SYN_CNT_SHORT : Reg := { base := 0x1c1098, dims := [(4, 0x400)] }

/-- Table 3.5, R66: Event counters of R60, in this order at 4-byte steps; saturate -/
def SYN_CNT_RELDROP : Reg := { base := 0x1c109c, dims := [(4, 0x400)] }

/-- Table 3.5, R66: Event counters of R60, in this order at 4-byte steps; saturate -/
def SYN_CNT_LATEWRITE : Reg := { base := 0x1c10a0, dims := [(4, 0x400)] }

/-- Table 3.5, R66: Event counters of R60, in this order at 4-byte steps; saturate -/
def SYN_CNT_GUARD : Reg := { base := 0x1c10a4, dims := [(4, 0x400)] }

/-- Table 3.5, R66: Event counters of R60, in this order at 4-byte steps; saturate -/
def SYN_CNT_REBASE : Reg := { base := 0x1c10a8, dims := [(4, 0x400)] }

/-- Table 3.5, R66: Event counters of R60, in this order at 4-byte steps; saturate -/
def SYN_CNT_LATEKF : Reg := { base := 0x1c10ac, dims := [(4, 0x400)] }

/-- Table 3.5, R66: Event counters of R60, in this order at 4-byte steps; saturate -/
def SYN_CNT_FAILKF : Reg := { base := 0x1c10b0, dims := [(4, 0x400)] }

/-- Table 3.5, R66: [8:0] sticky overflow of the nine counters above, in order; [9] of SYN_ORING_LOSS -/
def SYN_CNT_OVF : Reg := { base := 0x1c10b4, dims := [(4, 0x400)], w1c := 0x3ff }

/-- Table 3.5, R66: Adaptation control, see map -/
def SYN_ADP_CTRL : Reg := { base := 0x1c10c0, dims := [(4, 0x400)], rw := 0x1f0fff03, wo := 0x80000000, reset := fun _ => 0x8020000 }

/-- Table 3.5, R66: Revert threshold θ, unsigned 16.16 (0.1) -/
def SYN_ADP_THETA : Reg := { base := 0x1c10c4, dims := [(4, 0x400)], rw := 0xffffffff, reset := fun _ => 0x199a }

/-- Table 3.5, R66: [15:0] job timeout in ms (1,000); [19:16] fail_limit, 0 = never (3) -/
def SYN_ADP_LIMITS : Reg := { base := 0x1c10c8, dims := [(4, 0x400)], rw := 0xfffff, reset := fun _ => 0x303e8 }

/-- Table 3.5, R66: [15:0] cool box handle of adapter buffer A; [31:16] of buffer B -/
def SYN_ADP_BUF : Reg := { base := 0x1c10cc, dims := [(4, 0x400)], rw := 0xffffffff }

/-- Table 3.5, R66: DEV address of the capture area, 64 KiB aligned -/
def SYN_ADP_CAP_LO : Reg := { base := 0x1c10d0, dims := [(4, 0x400)], rw := 0xffffffff }

/-- Table 3.5, R66: DEV address of the capture area, 64 KiB aligned -/
def SYN_ADP_CAP_HI : Reg := { base := 0x1c10d4, dims := [(4, 0x400)], rw := 0xffffffff }

/-- Table 3.5, R66: [7:0] capture slot size in 64 KiB units -/
def SYN_ADP_CAP_SLOT : Reg := { base := 0x1c10d8, dims := [(4, 0x400)], rw := 0xff }

/-- Table 3.5, R66: DEV address of the reference surface -/
def SYN_ADP_REF_LO : Reg := { base := 0x1c10dc, dims := [(4, 0x400)], rw := 0xffffffff }

/-- Table 3.5, R66: DEV address of the reference surface -/
def SYN_ADP_REF_HI : Reg := { base := 0x1c10e0, dims := [(4, 0x400)], rw := 0xffffffff }

/-- Table 3.5, R66: Reference row pitch in bytes, multiple of 256 -/
def SYN_ADP_REF_PITCH : Reg := { base := 0x1c10e4, dims := [(4, 0x400)], rw := 0xffffffff }

/-- Table 3.5, R66: DEV address of the adaptation work area, 4 KiB aligned -/
def SYN_ADP_WORK_LO : Reg := { base := 0x1c10e8, dims := [(4, 0x400)], rw := 0xffffffff }

/-- Table 3.5, R66: DEV address of the adaptation work area, 4 KiB aligned -/
def SYN_ADP_WORK_HI : Reg := { base := 0x1c10ec, dims := [(4, 0x400)], rw := 0xffffffff }

/-- Table 3.5, R66: Adaptation status, see map -/
def SYN_ADP_STATUS : Reg := { base := 0x1c10f0, dims := [(4, 0x400)], reset := fun _ => 0xb0 }

/-- Table 3.5, R66: FP32 window means of the last decision -/
def SYN_ADP_MEAN_A : Reg := { base := 0x1c10f4, dims := [(4, 0x400)] }

/-- Table 3.5, R66: FP32 window means of the last decision -/
def SYN_ADP_MEAN_B : Reg := { base := 0x1c10f8, dims := [(4, 0x400)] }

/-- Table 3.5, R66: References captured; wraps -/
def SYN_ADP_REFS : Reg := { base := 0x1c10fc, dims := [(4, 0x400)] }

/-- Table 3.5, R66: Swaps applied; wraps -/
def SYN_ADP_SWAPS : Reg := { base := 0x1c1100, dims := [(4, 0x400)] }

/-- Table 3.5, R66: Skipped references, refused swaps, reverts, failed jobs; saturate -/
def SYN_ADP_CNT_SKIP : Reg := { base := 0x1c1104, dims := [(4, 0x400)] }

/-- Table 3.5, R66: Skipped references, refused swaps, reverts, failed jobs; saturate -/
def SYN_ADP_CNT_REFUSED : Reg := { base := 0x1c1108, dims := [(4, 0x400)] }

/-- Table 3.5, R66: Skipped references, refused swaps, reverts, failed jobs; saturate -/
def SYN_ADP_CNT_REVERT : Reg := { base := 0x1c110c, dims := [(4, 0x400)] }

/-- Table 3.5, R66: Skipped references, refused swaps, reverts, failed jobs; saturate -/
def SYN_ADP_CNT_FAIL : Reg := { base := 0x1c1110, dims := [(4, 0x400)] }

/-- Table 3.5, R66: Reports discarded; saturates -/
def SYN_ADP_CNT_BAD : Reg := { base := 0x1c1114, dims := [(4, 0x400)] }

/-- Table 3.5, R66: [4:0] sticky overflow of the five counters above, in order -/
def SYN_ADP_CNT_OVF : Reg := { base := 0x1c1118, dims := [(4, 0x400)], w1c := 0x1f }

/-- Table 3.5, R66: DEV address of the launch record of this output's slice tasks, 64-byte aligned (R436) -/
def SYN_LAUNCH_LO : Reg := { base := 0x1c1120, dims := [(4, 0x400)], rw := 0xffffffff }

/-- Table 3.5, R66: DEV address of the launch record of this output's slice tasks, 64-byte aligned (R436) -/
def SYN_LAUNCH_HI : Reg := { base := 0x1c1124, dims := [(4, 0x400)], rw := 0xffffffff }

/-- Table 3.5, R66: DEV address of the launch record of this output's adaptation jobs, 64-byte aligned; used when adp_q_valid = 1 -/
def SYN_ADP_LAUNCH_LO : Reg := { base := 0x1c1128, dims := [(4, 0x400)], rw := 0xffffffff }

/-- Table 3.5, R66: DEV address of the launch record of this output's adaptation jobs, 64-byte aligned; used when adp_q_valid = 1 -/
def SYN_ADP_LAUNCH_HI : Reg := { base := 0x1c112c, dims := [(4, 0x400)], rw := 0xffffffff }

/-- Table 3.5, R66: Slice s (0–63): [11:0] first line; [23:16] line count; [31:24] 0 -/
def SYN_SLICE : Reg := { base := 0x1c1200, dims := [(4, 0x400), (64, 0x4)] }

/-- Table 3.6, R77: [0] filter: 0 bilinear, 1 nearest; [31:1] 0 -/
def WRP_CTRL : Reg := { base := 0x100800, dims := [(5, 0x10000)], rw := 0x1 }

/-- Table 3.6, R77: DEV address of the last-output surface for even frames, 256-byte aligned -/
def WRP_LCO0_LO : Reg := { base := 0x100804, dims := [(5, 0x10000)], rw := 0xffffffff }

/-- Table 3.6, R77: DEV address of the last-output surface for even frames, 256-byte aligned -/
def WRP_LCO0_HI : Reg := { base := 0x100808, dims := [(5, 0x10000)], rw := 0xffffffff }

/-- Table 3.6, R77: The same, for odd frames -/
def WRP_LCO1_LO : Reg := { base := 0x10080c, dims := [(5, 0x10000)], rw := 0xffffffff }

/-- Table 3.6, R77: The same, for odd frames -/
def WRP_LCO1_HI : Reg := { base := 0x100810, dims := [(5, 0x10000)], rw := 0xffffffff }

/-- Table 3.6, R77: Row pitch in bytes; a multiple of 256 and at least W × 4 -/
def WRP_LCO_PITCH : Reg := { base := 0x100814, dims := [(5, 0x10000)], rw := 0xffffffff }

/-- Table 3.6, R77: See map -/
def WRP_STATUS : Reg := { base := 0x100818, dims := [(5, 0x10000)], w1c := 0x80000000 }

/-- Table 3.6, R77: Duration of the last warp, ns -/
def WRP_LAST_NS : Reg := { base := 0x10081c, dims := [(5, 0x10000)] }

/-- Table 3.6, R77: Warps completed; wraps -/
def WRP_COUNT : Reg := { base := 0x100820, dims := [(5, 0x10000)] }

/-- Table 3.6, R77: Warps ended in error; saturates, sticky overflow in [31] of WRP_STATUS -/
def WRP_ERR_COUNT : Reg := { base := 0x100824, dims := [(5, 0x10000)] }

/-- Table 3.6, R77: Frame counter of the last complete output -/
def WRP_LCO_FRAME : Reg := { base := 0x100828, dims := [(5, 0x10000)] }

/-- Table 4.7, R103: [4:0] physical slot; [7:5] cluster; [8] die: 0 C0, 1 C1; [31:9] 0 -/
def CORE_ID : Reg := { base := 0x10000000, dims := [(2, 0x10000000), (8, 0x1000000), (17, 0x80000)], reset := fun ix => coreIdReset ix }

/-- Table 4.7, R103: See map -/
def CORE_STATUS : Reg := { base := 0x10000004, dims := [(2, 0x10000000), (8, 0x1000000), (17, 0x80000)] }

/-- Table 4.7, R103: Memory shares of slot n (n = 0–3), see map -/
def CORE_SLOT_MEM : Reg := { base := 0x10000010, dims := [(2, 0x10000000), (8, 0x1000000), (17, 0x80000), (4, 0x8)], rwl := 0xf0f1f1f }

/-- Table 4.7, R103: Execution shares of slot n, see map -/
def CORE_SLOT_EXE : Reg := { base := 0x10000014, dims := [(2, 0x10000000), (8, 0x1000000), (17, 0x80000), (4, 0x8)], rwl := 0x8ff73f1f }

/-- Table 4.7, R103: Slot switches; wraps -/
def CORE_CNT_SWITCH : Reg := { base := 0x10000040, dims := [(2, 0x10000000), (8, 0x1000000), (17, 0x80000)] }

/-- Table 4.7, R103: Bank clocks lost (R105); wraps -/
def CORE_CNT_BANKCONF : Reg := { base := 0x10000044, dims := [(2, 0x10000000), (8, 0x1000000), (17, 0x80000)] }

/-- Table 4.7, R103: Bank collisions in static-schedule slots; saturates -/
def CORE_CNT_STATCONF : Reg := { base := 0x10000048, dims := [(2, 0x10000000), (8, 0x1000000), (17, 0x80000)] }

/-- Table 4.7, R103: Corrected core-memory errors; saturates -/
def CORE_CNT_MEMCE : Reg := { base := 0x1000004c, dims := [(2, 0x10000000), (8, 0x1000000), (17, 0x80000)] }

/-- Table 4.7, R103: [0] sticky overflow of CORE_CNT_STATCONF; [1] of CORE_CNT_MEMCE -/
def CORE_CNT_OVF : Reg := { base := 0x10000050, dims := [(2, 0x10000000), (8, 0x1000000), (17, 0x80000)], w1c := 0x3 }

/-- Table 4.7, R103: Compute clocks slot n stalled by DRAM refresh; wraps -/
def CORE_SLOT_REFSTALL : Reg := { base := 0x10000060, dims := [(2, 0x10000000), (8, 0x1000000), (17, 0x80000), (4, 0x8)] }

/-- Table 4.7, R103: Compute clocks slot n stalled by link retries; wraps -/
def CORE_SLOT_RETRYSTALL : Reg := { base := 0x10000064, dims := [(2, 0x10000000), (8, 0x1000000), (17, 0x80000), (4, 0x8)] }

/-- Table 4.8, R127: Logical cores 4i to 4i + 3 (i = 0–3), one byte each, see map -/
def CLC_LMAP : Reg := { base := 0x10c00000, dims := [(2, 0x10000000), (8, 0x1000000), (4, 0x4)], reset := fun ix => lmapReset ix }

/-- Table 4.8, R127: Cluster-memory share of partition p (p = 0–15): [7:0] first 64 KiB unit, 0–191; [15:8] units, 0–192; [31:16] 0 -/
def CLC_CSHARE : Reg := { base := 0x10c00100, dims := [(2, 0x10000000), (8, 0x1000000), (16, 0x4)], rwl := 0xffff }

/-- Table 4.8, R127: Cool box share of partition p, same layout -/
def CLC_CBSHARE : Reg := { base := 0x10c00140, dims := [(2, 0x10000000), (8, 0x1000000), (16, 0x4)], rwl := 0xffff }

/-- Table 6.2, R165: Compute clocks slot n waited on halo ready or consumed words (n = 0–3); wraps -/
def CORE_SLOT_HALOSTALL : Reg := { base := 0x10000080, dims := [(2, 0x10000000), (8, 0x1000000), (17, 0x80000), (4, 0x4)] }

/-- Table 6.7, R173: See map -/
def BOX_STATUS : Reg := { base := 0x10e00000, dims := [(2, 0x10000000), (8, 0x1000000)] }

/-- Table 6.7, R173: Calls ended; wraps -/
def BOX_CNT_CALLS : Reg := { base := 0x10e00004, dims := [(2, 0x10000000), (8, 0x1000000)] }

/-- Table 6.7, R173: Fabric clocks with a call running; wraps -/
def BOX_BUSY_CLK : Reg := { base := 0x10e00008, dims := [(2, 0x10000000), (8, 0x1000000)] }

/-- Table 6.7, R173: NMS calls truncated to 4,096; saturates -/
def BOX_CNT_TRUNC : Reg := { base := 0x10e0000c, dims := [(2, 0x10000000), (8, 0x1000000)] }

/-- Table 6.7, R173: Candidates dropped at list capacity; saturates -/
def BOX_CNT_DROP : Reg := { base := 0x10e00010, dims := [(2, 0x10000000), (8, 0x1000000)] }

/-- Table 6.7, R173: Calls aborted under R169 or R172; saturates -/
def BOX_CNT_ABORT : Reg := { base := 0x10e00014, dims := [(2, 0x10000000), (8, 0x1000000)] }

/-- Table 6.7, R173: [2:0] sticky overflow of the three counters above, in order -/
def BOX_CNT_OVF : Reg := { base := 0x10e00018, dims := [(2, 0x10000000), (8, 0x1000000)], w1c := 0x7 }

/-- Table 7.8, R193: See map -/
def SKU_STATUS : Reg := { base := 0x10d00000, dims := [(2, 0x10000000), (8, 0x1000000)] }

/-- Table 7.8, R193: Passes ended; wraps -/
def SKU_CNT_PASSES : Reg := { base := 0x10d00004, dims := [(2, 0x10000000), (8, 0x1000000)] }

/-- Table 7.8, R193: Tiles stored; wraps -/
def SKU_CNT_TILES : Reg := { base := 0x10d00008, dims := [(2, 0x10000000), (8, 0x1000000)] }

/-- Table 7.8, R193: Primitives binned as lead; wraps -/
def SKU_CNT_PRIMS : Reg := { base := 0x10d0000c, dims := [(2, 0x10000000), (8, 0x1000000)] }

/-- Table 7.8, R193: Texture samples delivered; wraps -/
def SKU_CNT_SAMPLES : Reg := { base := 0x10d00010, dims := [(2, 0x10000000), (8, 0x1000000)] }

/-- Table 7.8, R193: Sketch clocks stalled on retire (R185); wraps -/
def SKU_CNT_RETSTALL : Reg := { base := 0x10d00014, dims := [(2, 0x10000000), (8, 0x1000000)] }

/-- Table 7.8, R193: Partial renders as lead; saturates -/
def SKU_CNT_PARTIAL : Reg := { base := 0x10d00018, dims := [(2, 0x10000000), (8, 0x1000000)] }

/-- Table 7.8, R193: Pass stops for higher priority; saturates -/
def SKU_CNT_SUSPEND : Reg := { base := 0x10d0001c, dims := [(2, 0x10000000), (8, 0x1000000)] }

/-- Table 7.8, R193: Passes aborted (R192); saturates -/
def SKU_CNT_ABORT : Reg := { base := 0x10d00020, dims := [(2, 0x10000000), (8, 0x1000000)] }

/-- Table 7.8, R193: [2:0] sticky overflow of the three counters above, in order -/
def SKU_CNT_OVF : Reg := { base := 0x10d00024, dims := [(2, 0x10000000), (8, 0x1000000)], w1c := 0x7 }

/-- Table 7.8, R193: Ring offset of the last command rejected under R177 -/
def SKU_ERR_OFFSET : Reg := { base := 0x10d00028, dims := [(2, 0x10000000), (8, 0x1000000)] }

/-- Table 7.8, R193: [3:0] 1 opcode, 2 length, 3 unbound slot, 4 pass entry, 5 owner map, 6 texture descriptor, 7 bin memory … -/
def SKU_ERR_CODE : Reg := { base := 0x10d0002c, dims := [(2, 0x10000000), (8, 0x1000000)] }

/-- Table 8.9, R194: DEV address of a first descriptor, [31:0] -/
def VIS_CD_SUBMIT_LO : Reg := { base := 0x370000, wo := 0xffffffff }

/-- Table 8.9, R194: [15:0] address [47:32]; the write submits; [31:16] 0 -/
def VIS_CD_SUBMIT_HI : Reg := { base := 0x370004, wo := 0xffff }

/-- Table 8.9, R194: See map -/
def VIS_CD_STATUS : Reg := { base := 0x370008 }

/-- Table 8.9, R194: Physical flow engine, 0–4, of logical F0 [2:0], F1 [6:4], F2 [10:8], F3 [14:12]; other bits 0 -/
def VIS_CD_FMAP : Reg := { base := 0x37000c, reset := fun _ => 0x3210 }

/-- Table 8.9, R194: Chains ended; wraps -/
def VIS_CD_CNT_CHAINS : Reg := { base := 0x370010 }

/-- Table 8.9, R194: Chains not accepted; saturates -/
def VIS_CD_CNT_REJECT : Reg := { base := 0x370014 }

/-- Table 8.9, R194: Stages restarted under R207; saturates -/
def VIS_CD_CNT_RESTART : Reg := { base := 0x370018 }

/-- Table 8.9, R194: [1:0] sticky overflow of the two counters above, in order -/
def VIS_CD_CNT_OVF : Reg := { base := 0x37001c, w1c := 0x3 }

/-- Table 8.10, R194: See map -/
def VIS_ENG_STATUS : Reg := { base := 0x300000, dims := [(16, 0x10000)], reset := fun ix => visEngReset ix }

/-- Table 8.10, R194: Stages ended; wraps -/
def VIS_ENG_CNT_STAGES : Reg := { base := 0x300004, dims := [(16, 0x10000)] }

/-- Table 8.10, R194: Hub clocks with a stage running; wraps -/
def VIS_ENG_BUSY_CLK : Reg := { base := 0x300008, dims := [(16, 0x10000)] }

/-- Table 8.10, R194: Stops under R197; saturates -/
def VIS_ENG_CNT_SUSPEND : Reg := { base := 0x30000c, dims := [(16, 0x10000)] }

/-- Table 8.10, R194: Stages aborted; saturates -/
def VIS_ENG_CNT_ABORT : Reg := { base := 0x300010, dims := [(16, 0x10000)] }

/-- Table 8.10, R194: Blocks or pixels marked no match; wraps -/
def VIS_ENG_CNT_NOMATCH : Reg := { base := 0x300014, dims := [(16, 0x10000)] }

/-- Table 8.10, R194: Blocks or pixels marked occluded; wraps -/
def VIS_ENG_CNT_OCCL : Reg := { base := 0x300018, dims := [(16, 0x10000)] }

/-- Table 8.10, R194: [1:0] sticky overflow of VIS_ENG_CNT_SUSPEND and VIS_ENG_CNT_ABORT -/
def VIS_ENG_CNT_OVF : Reg := { base := 0x30001c, dims := [(16, 0x10000)], w1c := 0x3 }

/-- Table 8.10, R194: Duration of the last stage, ns -/
def VIS_ENG_LAST_NS : Reg := { base := 0x300020, dims := [(16, 0x10000)] }

/-- Table 9.7, R239: See map -/
def DSP_CTRL : Reg := { base := 0x100000, dims := [(5, 0x10000)], rw := 0x1f, reset := fun _ => 0xa }

/-- Table 9.7, R239: See map -/
def DSP_STATUS : Reg := { base := 0x100004, dims := [(5, 0x10000)] }

/-- Table 9.7, R239: See map -/
def DSP_MAP : Reg := { base := 0x100008, dims := [(5, 0x10000)], rwl := 0x3fff, reset := fun ix => dspMapReset ix }

/-- Table 9.7, R239: [0] L6 assured; [1] L7 assured; [7:2] 0; [13:8] actx, context for assured fetches; [31:14] 0 -/
def DSP_ASR : Reg := { base := 0x10000c, dims := [(5, 0x10000)], rwl := 0x3f03 }

/-- Table 9.7, R239: Commit control -/
def DSP_COMMIT : Reg := { base := 0x100010, dims := [(5, 0x10000)], rw := 0xfff, w1c := 0xc0000, wo := 0x10000, reset := fun _ => 0xfff }

/-- Table 9.7, R239: [0] output window change; [1] L6 change; [2] L7 change (R235) -/
def DSP_DECLARE : Reg := { base := 0x100014, dims := [(5, 0x10000)], wo := 0x7 }

/-- Table 9.7, R239: [11:0] line_match -/
def DSP_LINE_MATCH : Reg := { base := 0x100018, dims := [(5, 0x10000)], rw := 0xfff }

/-- Table 9.7, R239: [0] start of blanking; [1] line match; [2] frame done; [3] underrun -/
def DSP_IRQ_EN : Reg := { base := 0x10001c, dims := [(5, 0x10000)], rw := 0xf }

/-- Table 9.7, R239: Bits as DSP_IRQ_EN -/
def DSP_IRQ_STATUS : Reg := { base := 0x100020, dims := [(5, 0x10000)], w1c := 0xf }

/-- Table 9.7, R239: [15:0] latency tolerance, 100 ns units (R233) -/
def DSP_LTOL : Reg := { base := 0x100024, dims := [(5, 0x10000)], reset := fun _ => 0xffff }

/-- Table 9.7, R239: Output frame counter n; wraps -/
def DSP_FRAME : Reg := { base := 0x100028, dims := [(5, 0x10000)] }

/-- Table 9.7, R239: Last SOA, TIMEBASE ns -/
def DSP_SOA_LO : Reg := { base := 0x10002c, dims := [(5, 0x10000)] }

/-- Table 9.7, R239: Last SOA, TIMEBASE ns -/
def DSP_SOA_HI : Reg := { base := 0x100030, dims := [(5, 0x10000)] }

/-- Table 9.7, R239: SOA at which the last flip took effect -/
def DSP_FLIP_LO : Reg := { base := 0x100034, dims := [(5, 0x10000)] }

/-- Table 9.7, R239: SOA at which the last flip took effect -/
def DSP_FLIP_HI : Reg := { base := 0x100038, dims := [(5, 0x10000)] }

/-- Table 9.7, R239: Frame counter of that SOA -/
def DSP_FLIP_FRAME : Reg := { base := 0x10003c, dims := [(5, 0x10000)] }

/-- Table 9.7, R239: Shadowed. [12:0] h_active; [15:13] 0; [27:16] h_fp; [31:28] 0 -/
def DSP_TIMING_H : Reg := { base := 0x100040, dims := [(5, 0x10000)], rw := 0xfff1fff, shadowed := true }

/-- Table 9.7, R239: Shadowed. [11:0] h_sync; [15:12] 0; [27:16] h_bp; [30:28] 0; [31] h_pol, 1 = active high -/
def DSP_TIMING_H2 : Reg := { base := 0x100044, dims := [(5, 0x10000)], rw := 0x8fff0fff, shadowed := true }

/-- Table 9.7, R239: Shadowed. [11:0] v_active; [15:12] 0; [27:16] v_fp; [31:28] 0 -/
def DSP_TIMING_V : Reg := { base := 0x100048, dims := [(5, 0x10000)], rw := 0xfff0fff, shadowed := true }

/-- Table 9.7, R239: Shadowed. [11:0] v_sync; [15:12] 0; [27:16] v_bp; [30:28] 0; [31] v_pol -/
def DSP_TIMING_V2 : Reg := { base := 0x10004c, dims := [(5, 0x10000)], rw := 0x8fff0fff, shadowed := true }

/-- Table 9.7, R239: Shadowed. [29:0] pixel clock in Hz; [31:30] 0 -/
def DSP_PCLK : Reg := { base := 0x100050, dims := [(5, 0x10000)], rw := 0x3fffffff, shadowed := true }

/-- Table 9.7, R239: Shadowed. [0] lut_en; [3:1] syn_layer, 0–5; [4] syn_sel; [31:5] 0 -/
def DSP_COMPOSE : Reg := { base := 0x100054, dims := [(5, 0x10000)], rw := 0x1f, shadowed := true }

/-- Table 9.7, R239: Shadowed. [23:0] R [23:16], G [15:8], B [7:0] -/
def DSP_BGCOLOR : Reg := { base := 0x100058, dims := [(5, 0x10000)], rw := 0xffffff, shadowed := true }

/-- Table 9.7, R239: Shadowed. Blanket colour, layout as DSP_BGCOLOR -/
def DSP_BLANKET : Reg := { base := 0x10005c, dims := [(5, 0x10000)], rw := 0xffffff, shadowed := true }

/-- Table 9.7, R239: Shadowed. [12:0] x; [15:13] 0; [28:16] y; [31:29] 0 -/
def DSP_SIG_WIN0 : Reg := { base := 0x100060, dims := [(5, 0x10000)], rw := 0x1fff1fff, shadowed := true }

/-- Table 9.7, R239: Shadowed. [12:0] x; [15:13] 0; [28:16] y; [31:29] 0 -/
def DSP_SIG_WIN1 : Reg := { base := 0x100064, dims := [(5, 0x10000)], rw := 0x1fff1fff, shadowed := true }

/-- Table 9.7, R239: Shadowed. [7:0] n_frz, 1–255, 0 acts as 4; [8] frz_en; [9] exp6_en; [10] exp7_en; [31:11] 0 -/
def DSP_FRZ_CFG : Reg := { base := 0x100068, dims := [(5, 0x10000)], rw := 0x7ff, shadowed := true, reset := fun _ => 4 }

/-- Table 9.7, R239: Shadowed. Expected signature of L6, L7 -/
def DSP_SIG_EXP6 : Reg := { base := 0x10006c, dims := [(5, 0x10000)], rw := 0xffffffff, shadowed := true }

/-- Table 9.7, R239: Shadowed. Expected signature of L6, L7 -/
def DSP_SIG_EXP7 : Reg := { base := 0x100070, dims := [(5, 0x10000)], rw := 0xffffffff, shadowed := true }

/-- Table 9.7, R239: Output signature of the last frame -/
def DSP_SIG_OUT : Reg := { base := 0x100074, dims := [(5, 0x10000)] }

/-- Table 9.7, R239: Assured signatures of the last frame -/
def DSP_SIG_L6 : Reg := { base := 0x100078, dims := [(5, 0x10000)] }

/-- Table 9.7, R239: Assured signatures of the last frame -/
def DSP_SIG_L7 : Reg := { base := 0x10007c, dims := [(5, 0x10000)] }

/-- Table 9.7, R239: [7:0] frz_run; [8] frozen; [9] L6 signature valid; [10] L7 signature valid; [31:11] 0 -/
def DSP_SIG_STATUS : Reg := { base := 0x100080, dims := [(5, 0x10000)] }

/-- Table 9.7, R239: Lines with underrun; saturates -/
def DSP_CNT_UNDERRUN : Reg := { base := 0x100090, dims := [(5, 0x10000)] }

/-- Table 9.7, R239: Late commits; saturates -/
def DSP_CNT_LATE : Reg := { base := 0x100094, dims := [(5, 0x10000)] }

/-- Table 9.7, R239: Refused commits; saturates -/
def DSP_CNT_REFUSED : Reg := { base := 0x100098, dims := [(5, 0x10000)] }

/-- Table 9.7, R239: Freeze events; saturates -/
def DSP_CNT_FREEZE : Reg := { base := 0x10009c, dims := [(5, 0x10000)] }

/-- Table 9.7, R239: Unexpected changes; saturates -/
def DSP_CNT_UNEXP : Reg := { base := 0x1000a0, dims := [(5, 0x10000)] }

/-- Table 9.7, R239: Signature mismatches; saturates -/
def DSP_CNT_SIGMIS : Reg := { base := 0x1000a4, dims := [(5, 0x10000)] }

/-- Table 9.7, R239: [5:0] sticky overflow of the six counters above, in order -/
def DSP_CNT_OVF : Reg := { base := 0x1000a8, dims := [(5, 0x10000)], w1c := 0x3f }

/-- Table 9.7, R239: Shadowed. Layer l (l = 0–7), see map -/
def DSP_L_CTRL : Reg := { base := 0x100100, dims := [(5, 0x10000), (8, 0x20)], rw := 0xff0f, shadowed := true, reset := fun _ => 0xff00 }

/-- Table 9.7, R239: Shadowed. DEV address, 64-byte aligned -/
def DSP_L_BASE_LO : Reg := { base := 0x100104, dims := [(5, 0x10000), (8, 0x20)], rw := 0xffffffff, shadowed := true }

/-- Table 9.7, R239: Shadowed. DEV address, 64-byte aligned -/
def DSP_L_BASE_HI : Reg := { base := 0x100108, dims := [(5, 0x10000), (8, 0x20)], rw := 0xffffffff, shadowed := true }

/-- Table 9.7, R239: Shadowed. Bytes, multiple of 64 -/
def DSP_L_PITCH : Reg := { base := 0x10010c, dims := [(5, 0x10000), (8, 0x20)], rw := 0xffffffff, shadowed := true }

/-- Table 9.7, R239: Shadowed. [12:0] x; [28:16] y; other bits 0 -/
def DSP_L_POS : Reg := { base := 0x100110, dims := [(5, 0x10000), (8, 0x20)], rw := 0x1fff1fff, shadowed := true }

/-- Table 9.7, R239: Shadowed. [12:0] width, 1–5,120; [28:16] height, 1–2,880 -/
def DSP_L_SIZE : Reg := { base := 0x100114, dims := [(5, 0x10000), (8, 0x20)], rw := 0x1fff1fff, shadowed := true }

/-- Table 9.7, R239: Shadowed. Entry i (0–255): [7:0] B, [15:8] G, [23:16] R; [31:24] 0 -/
def DSP_LUT : Reg := { base := 0x100400, dims := [(5, 0x10000), (256, 0x4)], rw := 0xffffff, shadowed := true, reset := fun ix => BitVec.ofNat 32 (ix.getD 1 0 * 0x010101) }

/-- Table 9.8, R239: [0] link_en; [1] train, WO; [2] assr_req; [3] auto_retrain; [5:4] lanes_max: 0 one, 1 two, 2 four; [7:6] … -/
def EDP_CTRL : Reg := { base := 0x180000, dims := [(4, 0x4000)], rw := 0xfd, wo := 0x2, reset := fun _ => 0xec }

/-- Table 9.8, R239: [2:0] source pipe; [3] mirror; [31:4] 0 -/
def EDP_SRC : Reg := { base := 0x180004, dims := [(4, 0x4000)], rwl := 0xf, reset := fun ix => BitVec.ofNat 32 (ix.getD 0 0) }

/-- Table 9.8, R239: [0] HPD; [1] trained; [3:2] lanes; [5:4] rate; [6] ASSR on; [7] id_valid; [11:8] train_fault; [12] … -/
def EDP_STATUS : Reg := { base := 0x180008, dims := [(4, 0x4000)] }

/-- Table 9.8, R239: [1:0] op: 0 DPCD read, 1 DPCD write, 2 I²C read, 3 I²C segment write; [7:4] length − 1; [8] go, WO; [31:9] 0 -/
def EDP_AUX_CMD : Reg := { base := 0x180010, dims := [(4, 0x4000)], rw := 0xf3, wo := 0x100 }

/-- Table 9.8, R239: DPCD ops: [19:0] address. I²C ops: [6:0] address; [15:8] offset; [23:16] segment -/
def EDP_AUX_ADDR : Reg := { base := 0x180014, dims := [(4, 0x4000)], rw := 0xffffff }

/-- Table 9.8, R239: [0] busy; [3:1] result: 0 ack, 1 nack, 2 defer limit, 3 timeout, 4 refused; [31:4] 0 -/
def EDP_AUX_STATUS : Reg := { base := 0x180018, dims := [(4, 0x4000)] }

/-- Table 9.8, R239: 16 data bytes, byte 0 in [7:0] of DATA0 -/
def EDP_AUX_DATA : Reg := { base := 0x180020, dims := [(4, 0x4000), (4, 0x4)], rw := 0xffffffff }

/-- Table 9.8, R239: Automatic retrains; saturates -/
def EDP_CNT_RETRAIN : Reg := { base := 0x180030, dims := [(4, 0x4000)] }

/-- Table 9.8, R239: AUX transactions ended in timeout; saturates -/
def EDP_CNT_AUXERR : Reg := { base := 0x180034, dims := [(4, 0x4000)] }

/-- Table 9.8, R239: [1:0] sticky overflow of the two counters above -/
def EDP_CNT_OVF : Reg := { base := 0x180038, dims := [(4, 0x4000)], w1c := 0x3 }

/-- Table 9.8, R239: [3:0] declared timings, 0–8 -/
def EDP_ID_COUNT : Reg := { base := 0x18003c, dims := [(4, 0x4000)] }

/-- Table 9.8, R239: Declared timing t (t = 0–7): [12:0] h_active, [28:16] v_active -/
def EDP_ID_TIM : Reg := { base := 0x180040, dims := [(4, 0x4000), (8, 0x8)] }

/-- Table 9.8, R239: [29:0] its pixel clock in Hz -/
def EDP_ID_PCLK : Reg := { base := 0x180044, dims := [(4, 0x4000), (8, 0x8)] }

/-- Table 9.8, R239: SHA-256 of the identity bytes, most significant word first -/
def EDP_ID_DIGEST : Reg := { base := 0x180080, dims := [(4, 0x4000), (8, 0x4)] }

/-- Table 10.3, R252: [0] en; [2:1] lanes: 0 one, 1 two, 2 four; [31:3] 0 -/
def CAP_RX_CTRL : Reg := { base := 0x200000, dims := [(4, 0x40)], rw := 0x7 }

/-- Table 10.3, R252: [0] clock lane active; [1] data lanes in stop state; [31:2] 0 -/
def CAP_RX_STATUS : Reg := { base := 0x200004, dims := [(4, 0x40)] }

/-- Table 10.3, R252: Headers corrected; saturates -/
def CAP_RX_CNT_ECC : Reg := { base := 0x200008, dims := [(4, 0x40)] }

/-- Table 10.3, R252: Headers uncorrectable; saturates -/
def CAP_RX_CNT_HDR : Reg := { base := 0x20000c, dims := [(4, 0x40)] }

/-- Table 10.3, R252: Long packets with bad CRC; saturates -/
def CAP_RX_CNT_CRC : Reg := { base := 0x200010, dims := [(4, 0x40)] }

/-- Table 10.3, R252: Packets discarded unrouted; saturates -/
def CAP_RX_CNT_UNROUTED : Reg := { base := 0x200014, dims := [(4, 0x40)] }

/-- Table 10.3, R252: Line buffer overruns; saturates -/
def CAP_RX_CNT_OVR : Reg := { base := 0x200018, dims := [(4, 0x40)] }

/-- Table 10.3, R252: [4:0] sticky overflow of the five counters above, in order -/
def CAP_RX_CNT_OVF : Reg := { base := 0x20001c, dims := [(4, 0x40)], w1c := 0x1f }

/-- Table 10.4, R252: [1:0] receiver; [5:2] virtual channel; [11:6] data type; [17:12] context; [18] valid; [22:19] partner … -/
def CAP_V_ROUTE : Reg := { base := 0x201000, dims := [(16, 0x100)], rwl := 0xffffff }

/-- Table 10.4, R252: [0] en; [1] auto_rel; [2] trig_en; [3] evt_en; [31:4] 0 -/
def CAP_V_CTRL : Reg := { base := 0x201004, dims := [(16, 0x100)], rw := 0xf, reset := fun _ => 2 }

/-- Table 10.4, R252: [12:0] width, 16–5,120; [27:16] height, 16–2,880; other bits 0 -/
def CAP_V_SIZE : Reg := { base := 0x201008, dims := [(16, 0x100)], rw := 0xfff1fff }

/-- Table 10.4, R252: DEV address of buffer 0, 256-byte aligned -/
def CAP_V_BASE_LO : Reg := { base := 0x20100c, dims := [(16, 0x100)], rw := 0xffffffff }

/-- Table 10.4, R252: DEV address of buffer 0, 256-byte aligned -/
def CAP_V_BASE_HI : Reg := { base := 0x201010, dims := [(16, 0x100)], rw := 0xffffffff }

/-- Table 10.4, R252: Bytes, multiple of 256, at least width × pixel size -/
def CAP_V_PITCH : Reg := { base := 0x201014, dims := [(16, 0x100)], rw := 0xffffffff }

/-- Table 10.4, R252: Bytes between buffers, multiple of 256 -/
def CAP_V_STRIDE : Reg := { base := 0x201018, dims := [(16, 0x100)], rw := 0xffffffff }

/-- Table 10.4, R252: [3:0] nbuf, 2–8 -/
def CAP_V_NBUF : Reg := { base := 0x20101c, dims := [(16, 0x100)], rw := 0xf, reset := fun _ => 2 }

/-- Table 10.4, R252: DEV address of the frame records, 32-byte aligned -/
def CAP_V_REC_LO : Reg := { base := 0x201020, dims := [(16, 0x100)], rw := 0xffffffff }

/-- Table 10.4, R252: DEV address of the frame records, 32-byte aligned -/
def CAP_V_REC_HI : Reg := { base := 0x201024, dims := [(16, 0x100)], rw := 0xffffffff }

/-- Table 10.4, R252: [7:0] buffers to release -/
def CAP_V_REL : Reg := { base := 0x201028, dims := [(16, 0x100)], wo := 0xff }

/-- Table 10.4, R252: [2i + 1 : 2i] state of buffer i: 0 free, 1 filling, 2 ready, 3 held -/
def CAP_V_STATE : Reg := { base := 0x20102c, dims := [(16, 0x100)] }

/-- Table 10.4, R252: Pair tolerance, ns (500,000) -/
def CAP_V_PAIR_TOL : Reg := { base := 0x201030, dims := [(16, 0x100)], rw := 0xffffffff, reset := fun _ => 0x7a120 }

/-- Table 10.4, R252: Frame timeout, µs (100,000); 0 = none -/
def CAP_V_TMO : Reg := { base := 0x201034, dims := [(16, 0x100)], rw := 0xffffffff, reset := fun _ => 0x186a0 }

/-- Table 10.4, R252: Frames ended; wraps -/
def CAP_V_FRAMES : Reg := { base := 0x201038, dims := [(16, 0x100)] }

/-- Table 10.4, R252: Saturate -/
def CAP_V_CNT_DROP : Reg := { base := 0x20103c, dims := [(16, 0x100)] }

/-- Table 10.4, R252: Saturate -/
def CAP_V_CNT_BAD : Reg := { base := 0x201040, dims := [(16, 0x100)] }

/-- Table 10.4, R252: Saturate -/
def CAP_V_CNT_PAIRFAIL : Reg := { base := 0x201044, dims := [(16, 0x100)] }

/-- Table 10.4, R252: Saturate -/
def CAP_V_CNT_TRIGFAIL : Reg := { base := 0x201048, dims := [(16, 0x100)] }

/-- Table 10.4, R252: [3:0] sticky overflow of the four counters above, in order -/
def CAP_V_CNT_OVF : Reg := { base := 0x20104c, dims := [(16, 0x100)], w1c := 0xf }

/-- Table 10.4, R252: DEV address of the chain for buffer i -/
def CAP_V_CHAIN_LO : Reg := { base := 0x201080, dims := [(16, 0x100), (8, 0x8)], rw := 0xffffffff }

/-- Table 10.4, R252: DEV address of the chain for buffer i -/
def CAP_V_CHAIN_HI : Reg := { base := 0x201084, dims := [(16, 0x100), (8, 0x8)], rw := 0xffffffff }

/-- Table 10.5, R252: [0] en; [5:1] slots − 1; [7:6] width: 0 16, 1 24, 2 32 bits; [8] frame sync active high; [9] sample on … -/
def CAP_AP_CFG : Reg := { base := 0x202000, dims := [(2, 0x40)], rw := 0x7ff }

/-- Table 10.5, R252: [0] locked; [1] lost; [31:16] measured frame rate, Hz -/
def CAP_AP_STATUS : Reg := { base := 0x202004, dims := [(2, 0x40)], w1c := 0x4 }

/-- Table 10.5, R252: Saturates; sticky overflow in CAP_APp_STATUS [2] -/
def CAP_AP_CNT_RESYNC : Reg := { base := 0x202008, dims := [(2, 0x40)] }

/-- Table 10.5, R252: [0] port; [5:1] first; [10:6] count − 1; [16:11] context; [17] valid; [31:18] 0 -/
def CAP_A_ROUTE : Reg := { base := 0x202200, dims := [(8, 0x40)], rwl := 0x3ffff }

/-- Table 10.5, R252: [0] en; [1] format: 0 INT16, 1 INT32; [2] evt_en: gap and port-lost events -/
def CAP_A_CTRL : Reg := { base := 0x202204, dims := [(8, 0x40)], rw := 0x7 }

/-- Table 10.5, R252: [12:0] frames per period, 16–4,096 -/
def CAP_A_PERIOD : Reg := { base := 0x202208, dims := [(8, 0x40)], rw := 0x1fff, reset := fun _ => 0x100 }

/-- Table 10.5, R252: DEV address of the ring, 256-byte aligned -/
def CAP_A_RING_LO : Reg := { base := 0x20220c, dims := [(8, 0x40)], rw := 0xffffffff }

/-- Table 10.5, R252: DEV address of the ring, 256-byte aligned -/
def CAP_A_RING_HI : Reg := { base := 0x202210, dims := [(8, 0x40)], rw := 0xffffffff }

/-- Table 10.5, R252: [8:0] nper, 2–256 -/
def CAP_A_NPER : Reg := { base := 0x202214, dims := [(8, 0x40)], rw := 0x1ff, reset := fun _ => 2 }

/-- Table 10.5, R252: Sequence number of the next period -/
def CAP_A_WR : Reg := { base := 0x202218, dims := [(8, 0x40)] }

/-- Table 10.5, R252: Next period the consumer reads -/
def CAP_A_RD : Reg := { base := 0x20221c, dims := [(8, 0x40)], rw := 0xffffffff }

/-- Table 10.5, R252: Periods discarded; saturates; sticky overflow in [0] of CAP_An_CNT_OVF at + 0x24 (W1C) -/
def CAP_A_CNT_GAP : Reg := { base := 0x202220, dims := [(8, 0x40)] }

/-- Table 10.5, R252: [0] sticky overflow of CAP_An_CNT_GAP -/
def CAP_A_CNT_OVF : Reg := { base := 0x202224, dims := [(8, 0x40)], w1c := 0x1 }

/-- Table 10.6, R252: [0] en; [1] active high; [31:2] 0 -/
def CAP_FS_CTRL : Reg := { base := 0x203000, dims := [(4, 0x20)], rw := 0x3 }

/-- Table 10.6, R252: First edge, TIMEBASE ns -/
def CAP_FS_START_LO : Reg := { base := 0x203004, dims := [(4, 0x20)], rw := 0xffffffff }

/-- Table 10.6, R252: First edge, TIMEBASE ns -/
def CAP_FS_START_HI : Reg := { base := 0x203008, dims := [(4, 0x20)], rw := 0xffffffff }

/-- Table 10.6, R252: ns -/
def CAP_FS_PERIOD : Reg := { base := 0x20300c, dims := [(4, 0x20)], rw := 0xffffffff }

/-- Table 10.6, R252: ns -/
def CAP_FS_WIDTH : Reg := { base := 0x203010, dims := [(4, 0x20)], rw := 0xffffffff }

/-- Table 10.6, R252: Next edge, TIMEBASE ns -/
def CAP_FS_NEXT_LO : Reg := { base := 0x203014, dims := [(4, 0x20)] }

/-- Table 10.6, R252: Next edge, TIMEBASE ns -/
def CAP_FS_NEXT_HI : Reg := { base := 0x203018, dims := [(4, 0x20)] }

/-- Table 10.7, R252: [0] en; [2:1] speed: 0 100 kHz, 1 400 kHz, 2 1 MHz -/
def I2C_CTRL : Reg := { base := 0x240000, dims := [(4, 0x100)], rw := 0x7, reset := fun _ => 1 }

/-- Table 10.7, R252: [6:0] address; [12:8] write length, 0–16; [21:16] read length, 0–32; [31] go, WO -/
def I2C_CMD : Reg := { base := 0x240004, dims := [(4, 0x100)], rw := 0x3f1f7f, wo := 0x80000000 }

/-- Table 10.7, R252: [0] busy; [3:1] result: 0 ok, 1 address nack, 2 data nack, 3 arbitration lost, 4 stretch timeout, 5 refused -/
def I2C_STATUS : Reg := { base := 0x240008, dims := [(4, 0x100)] }

/-- Table 10.7, R252: Clock-stretch limit, µs -/
def I2C_STRETCH : Reg := { base := 0x24000c, dims := [(4, 0x100)], rw := 0xffffffff, reset := fun _ => 0x61a8 }

/-- Table 10.7, R252: 32 bytes, byte 0 in [7:0] of DATA0 -/
def I2C_DATA : Reg := { base := 0x240010, dims := [(4, 0x100), (8, 0x4)], rw := 0xffffffff }

/-- Table 10.7, R252: Entry e (0–7): [6:0] address; [7] wr_ok; [8] valid -/
def I2C_ALLOW : Reg := { base := 0x240040, dims := [(4, 0x100), (8, 0x4)], rwl := 0x1ff }

/-- Table 10.7, R252: Results 1–4; result 5; saturate -/
def I2C_CNT_ERR : Reg := { base := 0x240060, dims := [(4, 0x100)] }

/-- Table 10.7, R252: Results 1–4; result 5; saturate -/
def I2C_CNT_REFUSED : Reg := { base := 0x240064, dims := [(4, 0x100)] }

/-- Table 10.7, R252: [1:0] sticky overflow of the two counters above -/
def I2C_CNT_OVF : Reg := { base := 0x240068, dims := [(4, 0x100)], w1c := 0x3 }

/-- Table 11.8, R284: [0] dispatch_en; [31:1] 0 -/
def SCH_CTRL : Reg := { base := 0x80000, rw := 0x1 }

/-- Table 11.8, R284: [15:0] rotation quantum, µs; 0 = no rotation (R265) -/
def SCH_QUANTUM : Reg := { base := 0x80004, rw := 0xffff, reset := fun _ => 0x64 }

/-- Table 11.8, R284: Evictions; wraps -/
def SCH_CNT_EVICT : Reg := { base := 0x80008 }

/-- Table 11.8, R284: Restores; wraps -/
def SCH_CNT_RESTORE : Reg := { base := 0x8000c }

/-- Table 11.8, R284: Lendings started; wraps -/
def SCH_CNT_LEND : Reg := { base := 0x80010 }

/-- Table 11.8, R284: [3:0] allowed P0–P3; [4] reproducible; [5] static; [6] valid -/
def SCH_PART_CFG : Reg := { base := 0x81000, dims := [(16, 0x40)], rwl := 0x7f }

/-- Table 11.8, R284: Partition seed (R137) -/
def SCH_PART_SEED_LO : Reg := { base := 0x81004, dims := [(16, 0x40)], rwl := 0xffffffff }

/-- Table 11.8, R284: Partition seed (R137) -/
def SCH_PART_SEED_HI : Reg := { base := 0x81008, dims := [(16, 0x40)], rwl := 0xffffffff }

/-- Table 11.8, R284: [0] park (R270) -/
def SCH_PART_PARK : Reg := { base := 0x8100c, dims := [(16, 0x40)], rw := 0x1 }

/-- Table 11.8, R284: [0] parked; [1] busy; [2] park_fault, the last park was refused (R270); [31:3] 0 -/
def SCH_PART_STATUS : Reg := { base := 0x81010, dims := [(16, 0x40)] }

/-- Table 11.8, R284: See map -/
def SCH_CTX_CFG : Reg := { base := 0x88000, dims := [(64, 0x100)], rwl := 0xff }

/-- Table 11.8, R284: Queue table base -/
def SCH_CTX_QTAB_LO : Reg := { base := 0x88004, dims := [(64, 0x100)], rwl := 0xffffffff }

/-- Table 11.8, R284: Queue table base -/
def SCH_CTX_QTAB_HI : Reg := { base := 0x88008, dims := [(64, 0x100)], rwl := 0xffffffff }

/-- Table 11.8, R284: Lay-by base, 4 KiB aligned -/
def SCH_CTX_LAYBY_LO : Reg := { base := 0x8800c, dims := [(64, 0x100)], rwl := 0xffffffff }

/-- Table 11.8, R284: Lay-by base, 4 KiB aligned -/
def SCH_CTX_LAYBY_HI : Reg := { base := 0x88010, dims := [(64, 0x100)], rwl := 0xffffffff }

/-- Table 11.8, R284: Size in 4 KiB units -/
def SCH_CTX_LAYBY_SIZE : Reg := { base := 0x88014, dims := [(64, 0x100)], rwl := 0xffffffff }

/-- Table 11.8, R284: See map -/
def SCH_CTX_STATUS : Reg := { base := 0x88018, dims := [(64, 0x100)] }

/-- Table 11.8, R284: [7:0] local queue; [8] enable; [9] disable -/
def SCH_CTX_QCTL : Reg := { base := 0x8801c, dims := [(64, 0x100)], wo := 0x3ff }

/-- Table 11.8, R284: [7:0] queue; [11:8] code of R256 -/
def SCH_CTX_QERR : Reg := { base := 0x88020, dims := [(64, 0x100)] }

/-- Table 11.8, R284: [7:0] local queue; [8] all queues. Token-loop cancel (R126) -/
def SCH_CTX_CANCEL : Reg := { base := 0x88024, dims := [(64, 0x100)], wo := 0x1ff }

/-- Table 11.8, R284: [0] restart after teardown -/
def SCH_CTX_RESTART : Reg := { base := 0x88028, dims := [(64, 0x100)], wo := 0x1 }

/-- Table 11.8, R284: Saturate -/
def SCH_CTX_CNT_DBREJ : Reg := { base := 0x8802c, dims := [(64, 0x100)] }

/-- Table 11.8, R284: Saturate -/
def SCH_CTX_CNT_DEPEXP : Reg := { base := 0x88030, dims := [(64, 0x100)] }

/-- Table 11.8, R284: Saturate -/
def SCH_CTX_CNT_LAYBYFULL : Reg := { base := 0x88034, dims := [(64, 0x100)] }

/-- Table 11.8, R284: [2:0] sticky overflow of the three counters above -/
def SCH_CTX_CNT_OVF : Reg := { base := 0x88038, dims := [(64, 0x100)], w1c := 0x7 }

/-- Table 11.8, R284: Table 11.6 in order, 64-bit, low word first -/
def SCH_CTX_ACCT : Reg := { base := 0x88040, dims := [(64, 0x100), (16, 0x4)] }

/-- Table 11.8, R284: Doorbell count of queue q (R257, R258) -/
def SCH_DB : Reg := { base := 0x90000, dims := [(16384, 0x4)], wo := 0xffffffff }

/-- Table 11.8, R284: [3:0] partition; [4] valid; [31:16] units -/
def SCH_SEM_CFG : Reg := { base := 0xa0000, dims := [(4096, 0x10)], rwl := 0xffff001f }

/-- Table 11.8, R284: [15:0] held; [21:16] owner; [22] owned; [23] abandoned; [31:24] waiters, saturating at 255 -/
def SCH_SEM_STATE : Reg := { base := 0xa0004, dims := [(4096, 0x10)] }

/-- Table 11.8, R284: [0] force_rel; [1] clr_abandoned -/
def SCH_SEM_CTRL : Reg := { base := 0xa0008, dims := [(4096, 0x10)], wo := 0x3 }

/-- Table 11.9, R284: [15:0] budget, 64-byte units per µs; [19:16] burst − 1; [20] borrow; [31:21] 0 -/
def BWR_REG_CFG : Reg := { base := 0x30200000, dims := [(2, 0x10000000), (2, 0x200), (16, 0x20)], rwl := 0x1fffff }

/-- Table 11.9, R284: [15:0] budget, 64-byte units per µs; [19:16] burst − 1; [20] borrow; [31:21] 0 -/
def DIE_REG_CFG : Reg := { base := 0x1f004000, dims := [(2, 0x10000000), (4, 0x200), (16, 0x20)], rwl := 0x1fffff }

/-- Table 11.9, R284: [15:0] budget, 64-byte units per µs; [19:16] burst − 1; [20] borrow; [31:21] 0 -/
def SCH_REG_CFG : Reg := { base := 0xb0000, dims := [(2, 0x200), (16, 0x20)], rwl := 0x1fffff }

/-- Table 11.9, R284: Bytes passed; wraps -/
def BWR_REG_BYTES_LO : Reg := { base := 0x30200004, dims := [(2, 0x10000000), (2, 0x200), (16, 0x20)] }

/-- Table 11.9, R284: Bytes passed; wraps -/
def BWR_REG_BYTES_HI : Reg := { base := 0x30200008, dims := [(2, 0x10000000), (2, 0x200), (16, 0x20)] }

/-- Table 11.9, R284: Bytes passed; wraps -/
def DIE_REG_BYTES_LO : Reg := { base := 0x1f004004, dims := [(2, 0x10000000), (4, 0x200), (16, 0x20)] }

/-- Table 11.9, R284: Bytes passed; wraps -/
def DIE_REG_BYTES_HI : Reg := { base := 0x1f004008, dims := [(2, 0x10000000), (4, 0x200), (16, 0x20)] }

/-- Table 11.9, R284: Bytes passed; wraps -/
def SCH_REG_BYTES_LO : Reg := { base := 0xb0004, dims := [(2, 0x200), (16, 0x20)] }

/-- Table 11.9, R284: Bytes passed; wraps -/
def SCH_REG_BYTES_HI : Reg := { base := 0xb0008, dims := [(2, 0x200), (16, 0x20)] }

/-- Table 11.9, R284: Bytes passed by borrowing; wraps -/
def BWR_REG_BORROW_LO : Reg := { base := 0x3020000c, dims := [(2, 0x10000000), (2, 0x200), (16, 0x20)] }

/-- Table 11.9, R284: Bytes passed by borrowing; wraps -/
def BWR_REG_BORROW_HI : Reg := { base := 0x30200010, dims := [(2, 0x10000000), (2, 0x200), (16, 0x20)] }

/-- Table 11.9, R284: Bytes passed by borrowing; wraps -/
def DIE_REG_BORROW_LO : Reg := { base := 0x1f00400c, dims := [(2, 0x10000000), (4, 0x200), (16, 0x20)] }

/-- Table 11.9, R284: Bytes passed by borrowing; wraps -/
def DIE_REG_BORROW_HI : Reg := { base := 0x1f004010, dims := [(2, 0x10000000), (4, 0x200), (16, 0x20)] }

/-- Table 11.9, R284: Bytes passed by borrowing; wraps -/
def SCH_REG_BORROW_LO : Reg := { base := 0xb000c, dims := [(2, 0x200), (16, 0x20)] }

/-- Table 11.9, R284: Bytes passed by borrowing; wraps -/
def SCH_REG_BORROW_HI : Reg := { base := 0xb0010, dims := [(2, 0x200), (16, 0x20)] }

/-- Table 11.9, R284: Periods in which a transfer was held; wraps -/
def BWR_REG_HELD : Reg := { base := 0x30200014, dims := [(2, 0x10000000), (2, 0x200), (16, 0x20)] }

/-- Table 11.9, R284: Periods in which a transfer was held; wraps -/
def DIE_REG_HELD : Reg := { base := 0x1f004014, dims := [(2, 0x10000000), (4, 0x200), (16, 0x20)] }

/-- Table 11.9, R284: Periods in which a transfer was held; wraps -/
def SCH_REG_HELD : Reg := { base := 0xb0014, dims := [(2, 0x200), (16, 0x20)] }

/-- Table 12.8, R291: See map -/
def BRG_QZI_CTRL : Reg := { base := 0x100, wo := 0x3 }

/-- Table 12.8, R291: See map -/
def BRG_QZI_STATUS : Reg := { base := 0x104 }

/-- Table 12.8, R291: Byte offset of the failing record or signature -/
def BRG_QZI_FAULT_OFF : Reg := { base := 0x108 }

/-- Table 12.8, R291: Image version of the applied image -/
def BRG_QZI_VERSION : Reg := { base := 0x10c }

/-- Table 12.8, R291: SHA-256 of the header, with the fields of R286 taken as zero, followed by the vendor and integrator … -/
def BRG_QZI_DIGEST : Reg := { base := 0x110, dims := [(8, 0x4)] }

/-- Table 12.8, R291: SHA-256 of the known-weak list; all 0 when there is none -/
def BRG_QZI_WDIGEST : Reg := { base := 0x130, dims := [(8, 0x4)] }

/-- Table 12.8, R291: Known-weak entries ignored (R290); saturates -/
def BRG_QZI_WEAK_IGN : Reg := { base := 0x150 }

/-- Table 13.7, R297: [3:0] assembly: 0 X, 1 C, 2 M, 3 S; [7:4] stepping digit; [11:8] stepping letter, 0 = A; [16:12] present: … -/
def BRG_ID : Reg := { base := 0x0 }

/-- Table 13.7, R297: [7:0] strap values latched at reset, as defined in *Package, balls and board*; [31:8] 0 -/
def BRG_STRAP : Reg := { base := 0x4 }

/-- Table 13.7, R297: See map -/
def BRG_READY : Reg := { base := 0x8 }

/-- Table 13.7, R297: See map -/
def BRG_BOOT_CTRL : Reg := { base := 0xc, wo := 0x3ff }

/-- Table 13.7, R297: [2i + 1 : 2i] state of step i in BRG_BOOT_CTRL bit order: 0 idle, 1 running, 2 done, 3 failed; [31:20] 0 -/
def BRG_BOOT_STATUS : Reg := { base := 0x10 }

/-- Table 13.7, R297: [7:0] code, Table 13.2; [11:8] step index; [31:12] 0 -/
def BRG_BOOT_FAULT : Reg := { base := 0x14 }

/-- Table 13.7, R297: Bit 8d + k: cluster k of die Cd withdrawn -/
def BRG_CLU_ABSENT : Reg := { base := 0x18 }

/-- Table 13.7, R297: Bit 8d + k: sketch unit absent -/
def BRG_SKU_ABSENT : Reg := { base := 0x1c }

/-- Table 13.7, R297: DEV address of the firmware bundle, 64-byte aligned -/
def BRG_FW_SRC_LO : Reg := { base := 0x20, rw := 0xffffffff }

/-- Table 13.7, R297: DEV address of the firmware bundle, 64-byte aligned -/
def BRG_FW_SRC_HI : Reg := { base := 0x24, rw := 0xffffffff }

/-- Table 13.7, R297: Firmware targets failed (R312) -/
def BRG_FW_FAILED : Reg := { base := 0x28 }

/-- Table 13.7, R297: DEV address of the report ring, 16-byte aligned -/
def BRG_RPT_LO : Reg := { base := 0x80, rw := 0xffffffff }

/-- Table 13.7, R297: DEV address of the report ring, 16-byte aligned -/
def BRG_RPT_HI : Reg := { base := 0x84, rw := 0xffffffff }

/-- Table 13.7, R297: [12:0] entries, a power of two from 16 to 4,096; 0 = none -/
def BRG_RPT_SIZE : Reg := { base := 0x88, rw := 0x1fff, w1c := 0x80000000 }

/-- Table 13.7, R297: Index of the next entry written; wraps -/
def BRG_RPT_WR : Reg := { base := 0x8c }

/-- Table 13.7, R297: Entries lost; saturates, with sticky overflow in [31] of BRG_RPT_SIZE -/
def BRG_RPT_LOSS : Reg := { base := 0x90 }

/-- Table 13.7, R297: [0] ram_en; [1] evt_en: rambler events; [31:2] 0 -/
def BRG_RAM_CTRL : Reg := { base := 0x200, rw := 0x3, reset := fun _ => 2 }

/-- Table 13.7, R297: [15:0] ms between test starts, 10–65,535 (1,000) -/
def BRG_RAM_PERIOD : Reg := { base := 0x204, rw := 0xffff, reset := fun _ => 0x3e8 }

/-- Table 13.7, R297: [15:0] guard in µs (100) -/
def BRG_RAM_GUARD : Reg := { base := 0x208, rw := 0xffff, reset := fun _ => 0x64 }

/-- Table 13.7, R297: [15:0] slack wait limit in ms (100) -/
def BRG_RAM_WAIT : Reg := { base := 0x20c, rw := 0xffff, reset := fun _ => 0x64 }

/-- Table 13.7, R297: [15:0] bit p: partition p has ram_borrow -/
def BRG_RAM_BORROW : Reg := { base := 0x210, rwl := 0xffff }

/-- Table 13.7, R297: [4:0] physical slot; [7:5] cluster; [8] die; [31] go -/
def BRG_RAM_REQ : Reg := { base := 0x214, wo := 0x800001ff }

/-- Table 13.7, R297: See map -/
def BRG_RAM_STATUS : Reg := { base := 0x218 }

/-- Table 13.7, R297: Tests completed; wraps -/
def BRG_RAM_CNT_TESTS : Reg := { base := 0x21c }

/-- Table 13.7, R297: Tests deferred; saturates -/
def BRG_RAM_CNT_DEFER : Reg := { base := 0x220 }

/-- Table 13.7, R297: Cores failed by the rambler; saturates -/
def BRG_RAM_CNT_FAIL : Reg := { base := 0x224 }

/-- Table 13.7, R297: [1:0] sticky overflow of the two counters above, in order -/
def BRG_RAM_CNT_OVF : Reg := { base := 0x228, w1c := 0x3 }

/-- Table 14.7, R321: [0] eth_en; [2:1] mode, Table 14.1; [31:3] 0 -/
def ETH_CTRL : Reg := { base := 0x40000, dims := [(2, 0x10000)], rw := 0x7 }

/-- Table 14.7, R321: [0] link up; [2:1] speed: 0 1, 1 2.5, 2 5, 3 10 Gbit/s; [3] negotiation complete; [4] half-duplex partner; … -/
def ETH_STATUS : Reg := { base := 0x40004, dims := [(2, 0x10000)] }

/-- Table 14.7, R321: MAC bytes 2–5, byte 5 in [7:0] -/
def ETH_MAC_LO : Reg := { base := 0x40008, dims := [(2, 0x10000)], rw := 0xffffffff, reset := fun ix => BitVec.ofNat 32 (0x47000000 + ix.getD 0 0) }

/-- Table 14.7, R321: [15:0] MAC bytes 0–1, byte 1 in [7:0]; [31:16] 0 -/
def ETH_MAC_HI : Reg := { base := 0x4000c, dims := [(2, 0x10000)], rw := 0xffff, reset := fun _ => 0x25a }

/-- Table 14.7, R321: [4p + 2 : 4p] queue of PCP p; other bits 0 -/
def ETH_PCPMAP : Reg := { base := 0x40010, dims := [(2, 0x10000)], rwl := 0x77777777, reset := fun _ => 0x76543210 }

/-- Table 14.7, R321: Frames received, sent; wrap -/
def ETH_CNT_RX : Reg := { base := 0x40020, dims := [(2, 0x10000)] }

/-- Table 14.7, R321: Frames received, sent; wrap -/
def ETH_CNT_TX : Reg := { base := 0x40024, dims := [(2, 0x10000)] }

/-- Table 14.7, R321: In this order at 4-byte steps; saturate -/
def ETH_CNT_FCS : Reg := { base := 0x40028, dims := [(2, 0x10000)] }

/-- Table 14.7, R321: In this order at 4-byte steps; saturate -/
def ETH_CNT_OVERSIZE : Reg := { base := 0x4002c, dims := [(2, 0x10000)] }

/-- Table 14.7, R321: In this order at 4-byte steps; saturate -/
def ETH_CNT_EGRESS_DROP : Reg := { base := 0x40030, dims := [(2, 0x10000)] }

/-- Table 14.7, R321: In this order at 4-byte steps; saturate -/
def ETH_CNT_DEST_DROP : Reg := { base := 0x40034, dims := [(2, 0x10000)] }

/-- Table 14.7, R321: In this order at 4-byte steps; saturate -/
def ETH_CNT_QCI_DROP : Reg := { base := 0x40038, dims := [(2, 0x10000)] }

/-- Table 14.7, R321: [4:0] sticky overflow of the five counters above, in order -/
def ETH_CNT_OVF : Reg := { base := 0x4003c, dims := [(2, 0x10000)], w1c := 0x1f }

/-- Table 14.7, R321: [0] qbv_en; [1] qbu_en; [2] frer_en, ETH0 only, for both ports; [3] dom2_en; [10:4] dom2, 1–127; [31:11] 0 -/
def ETH_TSN_CTRL : Reg := { base := 0x40040, dims := [(2, 0x10000)], rwl := 0x7ff }

/-- Table 14.7, R321: Qbv cycle, ns (1,000,000) -/
def ETH_CYCLE : Reg := { base := 0x40044, dims := [(2, 0x10000)], rwl := 0xffffffff, reset := fun _ => 0xf4240 }

/-- Table 14.7, R321: Qbv base time, TIMEBASE ns -/
def ETH_BASE_LO : Reg := { base := 0x40048, dims := [(2, 0x10000)], rwl := 0xffffffff }

/-- Table 14.7, R321: Qbv base time, TIMEBASE ns -/
def ETH_BASE_HI : Reg := { base := 0x4004c, dims := [(2, 0x10000)], rwl := 0xffffffff }

/-- Table 14.7, R321: [8:0] entries in use, 1–256 -/
def ETH_GCL_COUNT : Reg := { base := 0x40050, dims := [(2, 0x10000)], rwl := 0x1ff, reset := fun _ => 1 }

/-- Table 14.7, R321: [2:0] queue; [3] enable; [7:4] 0; [31:8] idle slope, kbit/s -/
def ETH_CBS0 : Reg := { base := 0x40060, dims := [(2, 0x10000)], rwl := 0xffffff0f }

/-- Table 14.7, R321: [2:0] queue; [3] enable; [7:4] 0; [31:8] idle slope, kbit/s -/
def ETH_CBS1 : Reg := { base := 0x40064, dims := [(2, 0x10000)], rwl := 0xffffff0f }

/-- Table 14.7, R321: [7:0] preemptable queues; [9:8] addFragSize; [31:10] 0 -/
def ETH_QBU : Reg := { base := 0x40070, dims := [(2, 0x10000)], rwl := 0x3ff }

/-- Table 14.7, R321: Cap of PCP p (p = 0–7): [13:0] Mbit/s, 0 = none -/
def ETH_CAP : Reg := { base := 0x40080, dims := [(2, 0x10000), (8, 0x4)], rwl := 0x3fff }

/-- Table 14.7, R321: [5:0] listed destinations, 0–32 (R325) -/
def ETH_DEST_COUNT : Reg := { base := 0x400a0, dims := [(2, 0x10000)], rwl := 0x3f }

/-- Table 14.7, R321: Destination d (d = 0–31): MAC bytes 2–5, as ETH_MAC_LO -/
def ETH_DEST_LO : Reg := { base := 0x400c0, dims := [(2, 0x10000), (32, 0x8)], rwl := 0xffffffff }

/-- Table 14.7, R321: [15:0] MAC bytes 0–1; [27:16] VID; [28] any VID; [31:29] 0 -/
def ETH_DEST_HI : Reg := { base := 0x400c4, dims := [(2, 0x10000), (32, 0x8)], rwl := 0x1fffffff }

/-- Table 14.7, R321: Entry e (e = 0–255): [7:0] open gates, queues 0–7; [8] hold for pre-emption; [31:9] 0 -/
def ETH_GCL_STATE : Reg := { base := 0x41000, dims := [(2, 0x10000), (256, 0x8)], rwl := 0x1ff, reset := fun _ => 0xff }

/-- Table 14.7, R321: Interval, ns -/
def ETH_GCL_TIME : Reg := { base := 0x41004, dims := [(2, 0x10000), (256, 0x8)], rwl := 0xffffffff, reset := fun ix => if ix.getD 1 0 = 0 then 0x000F4240 else 0 }

/-- Table 14.7, R321: Filter f (f = 0–63): DA bytes 2–5 -/
def ETH_QCI_DA : Reg := { base := 0x42000, dims := [(2, 0x10000), (64, 0x10)], rwl := 0xffffffff }

/-- Table 14.7, R321: [15:0] DA bytes 0–1; [27:16] VID; [30:28] PCP; [31] valid -/
def ETH_QCI_MATCH : Reg := { base := 0x42004, dims := [(2, 0x10000), (64, 0x10)], rwl := 0xffffffff }

/-- Table 14.7, R321: [4:0] meter; [5] meter enable; [15:6] 0; [29:16] maximum SDU in bytes, 0 = none; [31:30] 0 -/
def ETH_QCI_ACT : Reg := { base := 0x42008, dims := [(2, 0x10000), (64, 0x10)], rwl := 0x3fff003f }

/-- Table 14.7, R321: Frames dropped by filter f; saturates -/
def ETH_QCI_CNT : Reg := { base := 0x4200c, dims := [(2, 0x10000), (64, 0x10)] }

/-- Table 14.7, R321: Meter m (m = 0–31): [23:0] committed rate, kbit/s -/
def ETH_METER_CIR : Reg := { base := 0x42800, dims := [(2, 0x10000), (32, 0x8)], rwl := 0xffffff }

/-- Table 14.7, R321: Committed burst, bytes -/
def ETH_METER_CBS : Reg := { base := 0x42804, dims := [(2, 0x10000), (32, 0x8)], rwl := 0xffffffff }

/-- Table 14.7, R321: Recovery stream r (r = 0–15), ETH0 only: DA bytes 2–5 -/
def ETH_FRER_DA : Reg := { base := 0x42c00, dims := [(2, 0x10000), (16, 0x10)], rwl := 0xffffffff }

/-- Table 14.7, R321: [15:0] DA bytes 0–1; [27:16] VID; [31] valid -/
def ETH_FRER_MATCH : Reg := { base := 0x42c04, dims := [(2, 0x10000), (16, 0x10)], rwl := 0x8fffffff }

/-- Table 14.7, R321: [5:0] history, 1–32; [25:16] reset timeout, ms, 1–1,000 -/
def ETH_FRER_CFG : Reg := { base := 0x42c08, dims := [(2, 0x10000), (16, 0x10)], rwl := 0x3ff003f }

/-- Table 14.7, R321: Sequence numbers lost; saturates -/
def ETH_FRER_LOST : Reg := { base := 0x42c0c, dims := [(2, 0x10000), (16, 0x10)] }

/-- Table 14.8, R327: [1:0] ports: 0 bring-up port, 1 either port, 2 ETH1 only, 3 both under 802.1CB; [2] udp_en; [3] l2_en; [4] … -/
def SCT_CTRL : Reg := { base := 0x60000, rw := 0x3f, reset := fun _ => 0x18 }

/-- Table 14.8, R327: [0] sealed; [1] session key installed; [8:2] frames held, 0–63; [15:9] 0; [31:16] n_exp -/
def SCT_STATUS : Reg := { base := 0x60004 }

/-- Table 14.8, R327: Host stream epoch, 48 bits -/
def SCT_EPOCH_LO : Reg := { base := 0x60008 }

/-- Table 14.8, R327: Host stream epoch, 48 bits -/
def SCT_EPOCH_HI : Reg := { base := 0x6000c }

/-- Table 14.8, R327: [11:0] vid; [12] tag_tx; [15:13] pcp_rsp; [18:16] pcp_ev; [21:19] pcp_res; [31:22] 0 -/
def SCT_VLAN : Reg := { base := 0x60010, rw := 0x3fffff }

/-- Table 14.8, R327: [7:0] subtype -/
def SCT_L2 : Reg := { base := 0x60014, rw := 0xff, reset := fun _ => 0x5a }

/-- Table 14.8, R327: [15:0] UDP port (42,801) -/
def SCT_UDP_PORT : Reg := { base := 0x60018, rw := 0xffff, reset := fun _ => 0xa731 }

/-- Table 14.8, R327: IPv4 address, first octet in [31:24] -/
def SCT_IP4 : Reg := { base := 0x6001c, rw := 0xffffffff }

/-- Table 14.8, R327: IPv6 address, most significant word first -/
def SCT_IP6 : Reg := { base := 0x60020, dims := [(4, 0x4)], rw := 0xffffffff }

/-- Table 14.8, R327: [15:0] stream retransmission time, µs, 50–65,535 (500) -/
def SCT_RTO : Reg := { base := 0x60030, rw := 0xffff, reset := fun _ => 0x1f4 }

/-- Table 14.8, R327: [7:0] event coalescing, µs (20); [23:16] result coalescing, µs (50) -/
def SCT_COAL : Reg := { base := 0x60034, rw := 0xff00ff, reset := fun _ => 0x320014 }

/-- Table 14.8, R327: Host frames applied; wraps -/
def SCT_CNT_RX : Reg := { base := 0x60040 }

/-- Table 14.8, R327: In this order at 4-byte steps; saturate -/
def SCT_CNT_DUP : Reg := { base := 0x60044 }

/-- Table 14.8, R327: In this order at 4-byte steps; saturate -/
def SCT_CNT_AHEAD : Reg := { base := 0x60048 }

/-- Table 14.8, R327: In this order at 4-byte steps; saturate -/
def SCT_CNT_OOW : Reg := { base := 0x6004c }

/-- Table 14.8, R327: In this order at 4-byte steps; saturate -/
def SCT_CNT_AUTH : Reg := { base := 0x60050 }

/-- Table 14.8, R327: In this order at 4-byte steps; saturate -/
def SCT_CNT_MALFORMED : Reg := { base := 0x60054 }

/-- Table 14.8, R327: In this order at 4-byte steps; saturate -/
def SCT_CNT_EVLOSS : Reg := { base := 0x60058 }

/-- Table 14.8, R327: [5:0] sticky overflow of the six counters above, in order -/
def SCT_CNT_OVF : Reg := { base := 0x6005c, w1c := 0x3f }

/-- Table 14.8, R327: Bits as SCT_ALERT_STATUS; [0] reads 1 and ignores writes -/
def SCT_ALERT_EN : Reg := { base := 0x60080, rw := 0x7e, reset := fun _ => 0x43 }

/-- Table 14.8, R327: [0] pipe interrupts (R237); [1] partition-fatal or device-fatal error; [2] SCT port link down; [3] … -/
def SCT_ALERT_STATUS : Reg := { base := 0x60084, w1c := 0x7a }

/-- Table 14.8, R327: Context c (c = 0–63): DEV address of the result ring, 16-byte aligned -/
def SCT_RES_LO : Reg := { base := 0x60800, dims := [(64, 0x20)], rw := 0xffffffff }

/-- Table 14.8, R327: Context c (c = 0–63): DEV address of the result ring, 16-byte aligned -/
def SCT_RES_HI : Reg := { base := 0x60804, dims := [(64, 0x20)], rw := 0xffffffff }

/-- Table 14.8, R327: [0] enable; [5:1] k, 4–16; [31:6] 0 -/
def SCT_RES_CFG : Reg := { base := 0x60808, dims := [(64, 0x20)], rw := 0x3f }

/-- Table 14.8, R327: Records written; wraps -/
def SCT_RES_WR : Reg := { base := 0x6080c, dims := [(64, 0x20)] }

/-- Table 14.8, R327: Records acknowledged; wraps -/
def SCT_RES_ACK : Reg := { base := 0x60810, dims := [(64, 0x20)] }

/-- Table 15.4, R344: See map -/
def TIM_CTRL : Reg := { base := 0x20000, rw := 0x3f }

/-- Table 15.4, R344: See map -/
def TIM_STATUS : Reg := { base := 0x20004, w1c := 0x30 }

/-- Table 15.4, R344: TIMEBASE (R345) -/
def TIM_NOW_LO : Reg := { base := 0x20008 }

/-- Table 15.4, R344: TIMEBASE (R345) -/
def TIM_NOW_HI : Reg := { base := 0x2000c }

/-- Table 15.4, R344: TIMEBASE (R345) -/
def TIM_NOW_FRAC : Reg := { base := 0x20010 }

/-- Table 15.4, R344: a, signed, 2^−32 ns per ns -/
def TIM_RATE : Reg := { base := 0x20014 }

/-- Table 15.4, R344: Last offset, signed ns, saturating -/
def TIM_OFFSET : Reg := { base := 0x20018 }

/-- Table 15.4, R344: Step threshold, ns (1,000,000) -/
def TIM_STEP_THR : Reg := { base := 0x2001c, rw := 0xffffffff, reset := fun _ => 0xf4240 }

/-- Table 15.4, R344: [19:0] ppb, 1–1,000,000 (100,000) -/
def TIM_SLEW_MAX : Reg := { base := 0x20020, rw := 0xfffff, reset := fun _ => 0x186a0 }

/-- Table 15.4, R344: [3:0] kp; [11:8] ki; other bits 0 -/
def TIM_GAIN : Reg := { base := 0x20024, rw := 0xf0f, reset := fun _ => 0x401 }

/-- Table 15.4, R344: ns within the second, 0–999,999,999 -/
def TIM_PPS_OFS : Reg := { base := 0x20028, rw := 0xffffffff }

/-- Table 15.4, R344: ms (3,000) -/
def TIM_HOLD_TMO : Reg := { base := 0x2002c, rw := 0xffffffff, reset := fun _ => 0xbb8 }

/-- Table 15.4, R344: ns (100) -/
def TIM_LOCK_THR : Reg := { base := 0x20030, rw := 0xffffffff, reset := fun _ => 0x64 }

/-- Table 15.4, R344: Signed step, ns (R348) -/
def TIM_ADJ : Reg := { base := 0x20034, wo := 0xffffffff }

/-- Table 15.4, R344: Value to set. The write to HI applies it as a step -/
def TIM_SET_LO : Reg := { base := 0x20038, wo := 0xffffffff }

/-- Table 15.4, R344: Value to set. The write to HI applies it as a step -/
def TIM_SET_HI : Reg := { base := 0x2003c, wo := 0xffffffff }

/-- Table 15.4, R344: TIMEBASE at the last PPS_IN edge -/
def TIM_PPS_LAST_LO : Reg := { base := 0x20040 }

/-- Table 15.4, R344: TIMEBASE at the last PPS_IN edge -/
def TIM_PPS_LAST_HI : Reg := { base := 0x20044 }

/-- Table 15.4, R344: Steps; saturates -/
def TIM_CNT_STEP : Reg := { base := 0x20048 }

/-- Table 15.4, R344: Steps deferred; saturates -/
def TIM_CNT_DEFER : Reg := { base := 0x2004c }

/-- Table 15.4, R344: Holdover entries; saturates -/
def TIM_CNT_HOLD : Reg := { base := 0x20050 }

/-- Table 15.4, R344: [2:0] sticky overflow of the three counters above, in order -/
def TIM_CNT_OVF : Reg := { base := 0x20054, w1c := 0x7 }

/-- Table 15.4, R344: Channel k (k = 0–3): [0] en; [7:4] partition; [8] evt_en; [31] sticky overflow of TIM_LCHk_SKIP, W1C; … -/
def TIM_LCH_CFG : Reg := { base := 0x20100, dims := [(4, 0x20)], rw := 0x1f1, w1c := 0x80000000 }

/-- Table 15.4, R344: First instant, TIMEBASE ns -/
def TIM_LCH_START_LO : Reg := { base := 0x20104, dims := [(4, 0x20)], rw := 0xffffffff }

/-- Table 15.4, R344: First instant, TIMEBASE ns -/
def TIM_LCH_START_HI : Reg := { base := 0x20108, dims := [(4, 0x20)], rw := 0xffffffff }

/-- Table 15.4, R344: ns; 0 = once, else 10,000–1,000,000,000 -/
def TIM_LCH_PERIOD : Reg := { base := 0x2010c, dims := [(4, 0x20)], rw := 0xffffffff }

/-- Table 15.4, R344: Next instant -/
def TIM_LCH_NEXT_LO : Reg := { base := 0x20110, dims := [(4, 0x20)] }

/-- Table 15.4, R344: Next instant -/
def TIM_LCH_NEXT_HI : Reg := { base := 0x20114, dims := [(4, 0x20)] }

/-- Table 15.4, R344: Skipped instants; saturates, sticky overflow in CFG [31] -/
def TIM_LCH_SKIP : Reg := { base := 0x20118, dims := [(4, 0x20)] }

/-- Table 15.4, R344: Pipe p (p = 0–4): [0] en; [1] flk_locked, RO; [17:8] pull, ppm; other bits 0 -/
def TIM_FLK_CTRL : Reg := { base := 0x20200, dims := [(5, 0x20)], rw := 0x3ff01 }

/-- Table 15.4, R344: A grid point, TIMEBASE ns -/
def TIM_FLK_START_LO : Reg := { base := 0x20204, dims := [(5, 0x20)], rw := 0xffffffff }

/-- Table 15.4, R344: A grid point, TIMEBASE ns -/
def TIM_FLK_START_HI : Reg := { base := 0x20208, dims := [(5, 0x20)], rw := 0xffffffff }

/-- Table 15.4, R344: Grid period, ns and 2^−32 ns -/
def TIM_FLK_PERIOD : Reg := { base := 0x2020c, dims := [(5, 0x20)], rw := 0xffffffff }

/-- Table 15.4, R344: Grid period, ns and 2^−32 ns -/
def TIM_FLK_FRAC : Reg := { base := 0x20210, dims := [(5, 0x20)], rw := 0xffffffff }

/-- Table 15.4, R344: Last e, signed ns, saturating -/
def TIM_FLK_ERR : Reg := { base := 0x20214, dims := [(5, 0x20)] }

/-- Table 15.4, R344: Trim in force, signed ppb -/
def TIM_FLK_TRIM : Reg := { base := 0x20218, dims := [(5, 0x20)] }

/-- Table 16.8, R362: See map -/
def ERR_CTRL : Reg := { base := 0x500000, rw := 0xf, reset := fun _ => 2 }

/-- Table 16.8, R362: See map -/
def ERR_STATUS : Reg := { base := 0x500004, w1c := 0x2 }

/-- Table 16.8, R362: DEV address of the error ring, 32-byte aligned -/
def ERR_RING_LO : Reg := { base := 0x500008, rw := 0xffffffff }

/-- Table 16.8, R362: DEV address of the error ring, 32-byte aligned -/
def ERR_RING_HI : Reg := { base := 0x50000c, rw := 0xffffffff }

/-- Table 16.8, R362: [12:0] records, a power of two from 16 to 4,096; 0 = none -/
def ERR_RING_SIZE : Reg := { base := 0x500010, rw := 0x1fff }

/-- Table 16.8, R362: Sequence of the next record written; wraps -/
def ERR_RING_WR : Reg := { base := 0x500014 }

/-- Table 16.8, R362: Records lost; saturates -/
def ERR_RING_LOSS : Reg := { base := 0x500018 }

/-- Table 16.8, R362: [15:0] ms, 0–65,535 (1,000); 0 disables suppression (R365) -/
def ERR_CE_WINDOW : Reg := { base := 0x50001c, rw := 0xffff, reset := fun _ => 0x3e8 }

/-- Table 16.8, R362: [15:0] bit p resets partition p -/
def ERR_PRST : Reg := { base := 0x500020, wo := 0xffff }

/-- Table 16.8, R362: [15:0] bit p: reset of partition p running -/
def ERR_PRST_STATUS : Reg := { base := 0x500024 }

/-- Table 16.8, R362: [0] reset; [15:1] 0; [31:16] key, which must be 0xD5E7 or the write is ignored -/
def ERR_DEVRST : Reg := { base := 0x500028, wo := 0xffff0001 }

/-- Table 16.8, R362: [2:0] 0 power-on, 1 RESET_N, 2 ERR_DEVRST, 3 automatic after fatal, 4 thermal trip; [7:3] 0; [15:8] error … -/
def ERR_RESET_CAUSE : Reg := { base := 0x50002c }

/-- Table 16.8, R362: [15:0] ms before automatic reset (100) -/
def ERR_FATAL_TMO : Reg := { base := 0x500030, rw := 0xffff, reset := fun _ => 0x64 }

/-- Table 16.8, R362: Errors per class, in this order; saturate -/
def ERR_CNT_CORR : Reg := { base := 0x500040 }

/-- Table 16.8, R362: Errors per class, in this order; saturate -/
def ERR_CNT_CONT : Reg := { base := 0x500044 }

/-- Table 16.8, R362: Errors per class, in this order; saturate -/
def ERR_CNT_PFATAL : Reg := { base := 0x500048 }

/-- Table 16.8, R362: Errors per class, in this order; saturate -/
def ERR_CNT_DFATAL : Reg := { base := 0x50004c }

/-- Table 16.8, R362: [3:0] the four class counters; [4] ERR_RING_LOSS; [8:5] ERR_CNT_DRAMCE0–3; [15:9] ERR_CNT_D2DRTY0–6; [16] … -/
def ERR_CNT_OVF : Reg := { base := 0x500050, w1c := 0x3ffff }

/-- Table 16.8, R362: Corrected DRAM errors of stack s: 0 M0 stack 0, 1 M0 stack 1, 2 M1 stack 0, 3 M1 stack 1; saturates -/
def ERR_CNT_DRAMCE : Reg := { base := 0x500060, dims := [(4, 0x4)] }

/-- Table 16.8, R362: Flits replayed on die pair p, coded as in Table 13.5; saturates -/
def ERR_CNT_D2DRTY : Reg := { base := 0x500070, dims := [(7, 0x4)] }

/-- Table 16.8, R362: Mesh flits replayed; saturates -/
def ERR_CNT_MESHRTY : Reg := { base := 0x50008c }

/-- Table 16.8, R362: Corrected scratchpad errors; saturates -/
def ERR_CNT_SCRCE : Reg := { base := 0x500090 }

/-- Table 17.11, R378: Nonce, word 0 first -/
def DBG_NONCE : Reg := { base := 0x400000, dims := [(4, 0x4)] }

/-- Table 17.11, R378: Token address; HI [15:0] address [47:32]; the write to HI submits -/
def DBG_TOKEN_LO : Reg := { base := 0x400010, wo := 0xffffffff }

/-- Table 17.11, R378: Token address; HI [15:0] address [47:32]; the write to HI submits -/
def DBG_TOKEN_HI : Reg := { base := 0x400014, wo := 0xffff }

/-- Table 17.11, R378: See map -/
def DBG_UNLOCK : Reg := { base := 0x400018 }

/-- Table 17.11, R378: [0] debug unlock permitted; [1] global stop permitted; [2] PC sampling permitted; [31:3] 0. Set by the … -/
def DBG_POLICY : Reg := { base := 0x40001c, rwl := 0x7 }

/-- Table 17.11, R378: Granted context mask -/
def DBG_UNLOCK_CTX_LO : Reg := { base := 0x400020 }

/-- Table 17.11, R378: Granted context mask -/
def DBG_UNLOCK_CTX_HI : Reg := { base := 0x400024 }

/-- Table 17.11, R378: [0] lock (R380) -/
def DBG_LOCK : Reg := { base := 0x400028, wo := 0x1 }

/-- Table 17.11, R378: [0] stop; [1] release; [31:16] key -/
def DBG_STOP : Reg := { base := 0x400030, wo := 0xffff0003 }

/-- Table 17.11, R378: [0] stop_on_err -/
def DBG_STOP_CFG : Reg := { base := 0x400034, rw := 0x1 }

/-- Table 17.11, R378: [0] stopped; [2:1] cause: 1 write, 2 breakpoint, 3 error -/
def DBG_STOP_STATUS : Reg := { base := 0x400038 }

/-- Table 17.11, R378: [2:0] die: 0 H, 1 C0, 2 C1, 3 M0, 4 M1; [15:8] chain -/
def DBG_SCAN_SEL : Reg := { base := 0x400040, rw := 0xff07 }

/-- Table 17.11, R378: [7:0] chains of the die; [31:8] length of the selected chain, bits -/
def DBG_SCAN_INFO : Reg := { base := 0x400044 }

/-- Table 17.11, R378: Next 32 bits (R390) -/
def DBG_SCAN_DATA : Reg := { base := 0x400048 }

/-- Table 17.11, R378: Breakpoint b (b = 0–15), see map -/
def DBG_BP_CTRL : Reg := { base := 0x400100, dims := [(16, 0x10)], rw := 0x1ff }

/-- Table 17.11, R378: Code-image offset -/
def DBG_BP_PC : Reg := { base := 0x400104, dims := [(16, 0x10)], rw := 0xffffffff }

/-- Table 17.11, R378: [7:0] logical core as Table 17.6 byte 0x06; [8] any core -/
def DBG_BP_CORE : Reg := { base := 0x400108, dims := [(16, 0x10)], rw := 0x1ff }

/-- Table 17.11, R378: [7:0] logical core; [9:8] slot; [11:10] kind; [31:12] index (R386) -/
def DBG_INSP_SEL : Reg := { base := 0x400200, rw := 0xffffffff }

/-- Table 17.11, R378: Selected value -/
def DBG_INSP_DATA : Reg := { base := 0x400204 }

/-- Table 17.11, R378: [7:0] logical core; [9:8] slot; [10] resume; [11] step; [12] all slots of the task -/
def DBG_RUN : Reg := { base := 0x400208, wo := 0x1fff }

/-- Table 17.11, R378: Channel n (n = 0–3): [0] en; [6:1] context; [12:8] period, 10–24; [29:13] 0; [30] LOSS overflow, W1C; [31] … -/
def DBG_PCS_CFG : Reg := { base := 0x400300, dims := [(4, 0x20)], rw := 0x1f7f, w1c := 0xc0000000 }

/-- Table 17.11, R378: Ring DEV address, 16-byte aligned -/
def DBG_PCS_RING_LO : Reg := { base := 0x400304, dims := [(4, 0x20)], rw := 0xffffffff }

/-- Table 17.11, R378: Ring DEV address, 16-byte aligned -/
def DBG_PCS_RING_HI : Reg := { base := 0x400308, dims := [(4, 0x20)], rw := 0xffffffff }

/-- Table 17.11, R378: [4:0] log2 of the entries, 8–24 -/
def DBG_PCS_SIZE : Reg := { base := 0x40030c, dims := [(4, 0x20)], rw := 0x1f }

/-- Table 17.11, R378: Samples written; wraps -/
def DBG_PCS_WR : Reg := { base := 0x400310, dims := [(4, 0x20)] }

/-- Table 17.11, R378: Samples read by the host -/
def DBG_PCS_RD : Reg := { base := 0x400314, dims := [(4, 0x20)], rw := 0xffffffff }

/-- Table 17.11, R378: Saturate -/
def DBG_PCS_LOSS : Reg := { base := 0x400318, dims := [(4, 0x20)] }

/-- Table 17.11, R378: Saturate -/
def DBG_PCS_DROP : Reg := { base := 0x40031c, dims := [(4, 0x20)] }

/-- Table 17.12, R382: [0] en; [1] snap, WO -/
def PMC_CTRL : Reg := { base := 0x440000, rw := 0x1, wo := 0x2 }

/-- Table 17.12, R382: [23:0] snapshot period, µs; 0 = none -/
def PMC_SAMPLE : Reg := { base := 0x440004, rw := 0xffffff }

/-- Table 17.12, R382: Bit n: counter n wrapped -/
def PMC_OVF : Reg := { base := 0x440008, w1c := 0xffffffff }

/-- Table 17.12, R382: Counter n (n = 0–31): [3:0] kind; [11:4] unit index; [15:12] event; [19:16] part; [20] pfilt; [21] ovf_evt -/
def PMC_CNT_SEL : Reg := { base := 0x440100, dims := [(32, 0x8)], rw := 0x3fffff }

/-- Table 17.12, R382: Count; wraps -/
def PMC_CNT : Reg := { base := 0x440104, dims := [(32, 0x8)] }

/-- Table 17.12, R382: Snapshot of counter n -/
def PMC_SNAP : Reg := { base := 0x440200, dims := [(32, 0x4)] }

/-- Table 17.12, R382: TIMEBASE of the snapshot -/
def PMC_SNAP_TIME_LO : Reg := { base := 0x440280 }

/-- Table 17.12, R382: TIMEBASE of the snapshot -/
def PMC_SNAP_TIME_HI : Reg := { base := 0x440284 }

/-- Table 17.13, R388: Marker word; sent to every ring with source 9 -/
def TRC_MARK : Reg := { base := 0x480000, wo := 0xffffffff }

/-- Table 17.13, R388: Ring r (r = 0–1): [0] en; [9:1] source mask, bit s − 1 for source s; [29:10] 0; [30] LOSS overflow, W1C; … -/
def TRC_RING_CFG : Reg := { base := 0x480100, dims := [(2, 0x40)], rw := 0x3ff, w1c := 0xc0000000 }

/-- Table 17.13, R388: Context filter, bit c for context c -/
def TRC_RING_CTX_LO : Reg := { base := 0x480104, dims := [(2, 0x40)], rw := 0xffffffff }

/-- Table 17.13, R388: Context filter, bit c for context c -/
def TRC_RING_CTX_HI : Reg := { base := 0x480108, dims := [(2, 0x40)], rw := 0xffffffff }

/-- Table 17.13, R388: Ring DEV address, 32-byte aligned. The ring must lie wholly in usable DRAM or hub SRAM (R388) -/
def TRC_RING_LO : Reg := { base := 0x48010c, dims := [(2, 0x40)], rw := 0xffffffff }

/-- Table 17.13, R388: Ring DEV address, 32-byte aligned. The ring must lie wholly in usable DRAM or hub SRAM (R388) -/
def TRC_RING_HI : Reg := { base := 0x480110, dims := [(2, 0x40)], rw := 0xffffffff }

/-- Table 17.13, R388: [4:0] log2 of the records, 6–22 -/
def TRC_RING_SIZE : Reg := { base := 0x480114, dims := [(2, 0x40)], rw := 0x1f }

/-- Table 17.13, R388: Records written; wraps -/
def TRC_RING_WR : Reg := { base := 0x480118, dims := [(2, 0x40)] }

/-- Table 17.13, R388: Records read by the host -/
def TRC_RING_RD : Reg := { base := 0x48011c, dims := [(2, 0x40)], rw := 0xffffffff }

/-- Table 17.13, R388: Saturate -/
def TRC_RING_LOSS : Reg := { base := 0x480120, dims := [(2, 0x40)] }

/-- Table 17.13, R388: Saturate -/
def TRC_RING_DROP : Reg := { base := 0x480124, dims := [(2, 0x40)] }

/-- Table 18.8, R404: See map -/
def SEC_CTRL : Reg := { base := 0x30000, wo := 0x1f }

/-- Table 18.8, R404: See map -/
def SEC_STATUS : Reg := { base := 0x30004 }

/-- Table 18.8, R404: DEV address of the identity blob, in hub SRAM, 16-byte aligned -/
def SEC_ID_SRC_LO : Reg := { base := 0x30008, rw := 0xffffffff }

/-- Table 18.8, R404: DEV address of the identity blob, in hub SRAM, 16-byte aligned -/
def SEC_ID_SRC_HI : Reg := { base := 0x3000c, rw := 0xffffffff }

/-- Table 18.8, R404: Identity key digest, most significant word first -/
def SEC_ID_DIGEST : Reg := { base := 0x30010, dims := [(8, 0x4)] }

/-- Table 18.8, R404: Report destination (R401) -/
def SEC_ATT_DST_LO : Reg := { base := 0x30030, rw := 0xffffffff }

/-- Table 18.8, R404: Report destination (R401) -/
def SEC_ATT_DST_HI : Reg := { base := 0x30034, rw := 0xffffffff }

/-- Table 18.8, R404: Host nonce, byte 0 in [7:0] of NONCE0 -/
def SEC_ATT_NONCE : Reg := { base := 0x30040, dims := [(8, 0x4)], rw := 0xffffffff }

/-- Table 18.8, R404: Reports since reset; wraps -/
def SEC_ATT_COUNT : Reg := { base := 0x30060 }

/-- Table 18.8, R404: DEV address of the OAEP ciphertext, 16-byte aligned -/
def SEC_SK_SRC_LO : Reg := { base := 0x30068, rw := 0xffffffff }

/-- Table 18.8, R404: DEV address of the OAEP ciphertext, 16-byte aligned -/
def SEC_SK_SRC_HI : Reg := { base := 0x3006c, rw := 0xffffffff }

/-- Table 18.8, R404: Key check value of the current session key -/
def SEC_SK_KCV : Reg := { base := 0x30070 }

/-- Table 18.8, R404: Failed operations; saturates -/
def SEC_CNT_FAIL : Reg := { base := 0x30074 }

/-- Table 18.8, R404: [0] sticky overflow of SEC_CNT_FAIL -/
def SEC_CNT_OVF : Reg := { base := 0x30078, w1c := 0x1 }

/-- Table 18.8, R404: Root key digest -/
def SEC_ROOT_DIGEST : Reg := { base := 0x30080, dims := [(8, 0x4)], reset := fun ix => Config.rootDigest (ix.getD 0 0) }

/-- Table 19.9, R406: See map -/
def PWR_CTRL : Reg := { base := 0x10000, rw := 0x7, reset := fun _ => 5 }

/-- Table 19.9, R406: [0] power throttling; [1] fast limit on C0; [2] fast limit on C1; [3] thermal throttling; [15:8] domains … -/
def PWR_STATUS : Reg := { base := 0x10004 }

/-- Table 19.9, R406: [7:0] package ceiling, W (180) -/
def PWR_PKG_CEIL : Reg := { base := 0x10008, rwl := 0xff, reset := fun _ => 0xb4 }

/-- Table 19.9, R406: Mean over 100 µs, mW -/
def PWR_PKG_EST : Reg := { base := 0x1000c }

/-- Table 19.9, R406: [7:0] throttle temperature, °C (105) -/
def PWR_THR_TEMP : Reg := { base := 0x10010, rwl := 0xff, reset := fun _ => 0x69 }

/-- Table 19.9, R406: [7:0] trip temperature, °C (125) -/
def PWR_TRIP_TEMP : Reg := { base := 0x10014, rwl := 0xff, reset := fun _ => 0x7d }

/-- Table 19.9, R406: Idle time before core gating, µs; 0 = never -/
def PWR_GATE_IDLE : Reg := { base := 0x10018, rw := 0xffffffff }

/-- Table 19.9, R406: [15:0] PWR_SR_IDLE, µs (50); [31:16] PWR_SR_MARGIN, µs (20) -/
def PWR_SR_CFG : Reg := { base := 0x1001c, rw := 0xffffffff, reset := fun _ => 0x140032 }

/-- Table 19.9, R406: Rail r (Table 19.1): [15:0] current ceiling, 100 mA units -/
def PWR_RAIL_CEIL : Reg := { base := 0x10020, dims := [(12, 0x4)], rwl := 0xffff, reset := fun ix => railCeilReset ix }

/-- Table 19.9, R406: [15:0] last current, 100 mA units -/
def PWR_RAIL_CUR : Reg := { base := 0x10060, dims := [(12, 0x4)] }

/-- Table 19.9, R406: Cluster i = 8d + k -/
def PWR_CLU_PSTATE : Reg := { base := 0x10100, dims := [(16, 0x4)], rw := 0x7 }

/-- Table 19.9, R406: [15:0] signed, 1/16 °C -/
def PWR_TEMP : Reg := { base := 0x10200, dims := [(25, 0x4)] }

/-- Table 19.9, R406: Stack s: self-refresh entries; wraps -/
def PWR_SR_ENTRIES : Reg := { base := 0x10280, dims := [(4, 0x10)] }

/-- Table 19.9, R406: µs in self-refresh; wraps -/
def PWR_SR_TIME : Reg := { base := 0x10284, dims := [(4, 0x10)] }

/-- Table 19.9, R406: Memory controller clocks that requests waited on exit; wraps -/
def PWR_SR_WAKESTALL : Reg := { base := 0x10288, dims := [(4, 0x10)] }

/-- Table 19.9, R406: Power throttle episodes; saturates -/
def PWR_CNT_THROTTLE : Reg := { base := 0x10300 }

/-- Table 19.9, R406: Fast limit episodes; saturates -/
def PWR_CNT_FASTLIM : Reg := { base := 0x10304 }

/-- Table 19.9, R406: Power steps of static-schedule clusters; saturates -/
def PWR_CNT_STATTHR : Reg := { base := 0x10308 }

/-- Table 19.9, R406: [2:0] sticky overflow of the three counters above, in order -/
def PWR_CNT_OVF : Reg := { base := 0x1030c, w1c := 0x7 }

/-- Table 20.4, R427: [15:0] value driven on each GPIO ball; [31:16] 0 -/
def GPIO_OUT : Reg := { base := 0x250000, rw := 0xffff }

/-- Table 20.4, R427: [15:0] 1 = output; [31:16] 0 -/
def GPIO_OE : Reg := { base := 0x250004, rw := 0xffff }

/-- Table 20.4, R427: [15:0] level sampled at the ball, updated every management clock -/
def GPIO_IN : Reg := { base := 0x250008 }

/-- A part of `regTable`. -/
def table0 : List Reg :=
  [SYN_SLICE_COUNT, SYN_SUMMARY, SYN_CTRL, SYN_GEOM,
   SYN_BUDGET, SYN_MARGIN, SYN_CONF, SYN_QUEUE,
   SYN_MODEL, SYN_BANK_LO, SYN_BANK_HI, SYN_BANK_PUB,
   SYN_HIST_LO, SYN_HIST_HI, SYN_ORING_LO, SYN_ORING_HI,
   SYN_ORING_SIZE, SYN_ORING_WR, SYN_ORING_LOSS, SYN_STATUS,
   SYN_ENTRIES, SYN_TFRAME, SYN_SOA_LO, SYN_SOA_HI,
   SYN_FRAME, SYN_KF_INDEX, SYN_OMAP_CUR, SYN_OMAP_LAST,
   SYN_ORIG_CNT, SYN_CNT_MISSED, SYN_CNT_LOWCONF, SYN_CNT_SHORT,
   SYN_CNT_RELDROP, SYN_CNT_LATEWRITE, SYN_CNT_GUARD, SYN_CNT_REBASE,
   SYN_CNT_LATEKF, SYN_CNT_FAILKF, SYN_CNT_OVF, SYN_ADP_CTRL,
   SYN_ADP_THETA, SYN_ADP_LIMITS, SYN_ADP_BUF, SYN_ADP_CAP_LO,
   SYN_ADP_CAP_HI, SYN_ADP_CAP_SLOT, SYN_ADP_REF_LO, SYN_ADP_REF_HI,
   SYN_ADP_REF_PITCH, SYN_ADP_WORK_LO, SYN_ADP_WORK_HI, SYN_ADP_STATUS,
   SYN_ADP_MEAN_A, SYN_ADP_MEAN_B, SYN_ADP_REFS, SYN_ADP_SWAPS,
   SYN_ADP_CNT_SKIP, SYN_ADP_CNT_REFUSED, SYN_ADP_CNT_REVERT, SYN_ADP_CNT_FAIL,
   SYN_ADP_CNT_BAD, SYN_ADP_CNT_OVF, SYN_LAUNCH_LO, SYN_LAUNCH_HI]

/-- A part of `regTable`. -/
def table1 : List Reg :=
  [SYN_ADP_LAUNCH_LO, SYN_ADP_LAUNCH_HI, SYN_SLICE, WRP_CTRL,
   WRP_LCO0_LO, WRP_LCO0_HI, WRP_LCO1_LO, WRP_LCO1_HI,
   WRP_LCO_PITCH, WRP_STATUS, WRP_LAST_NS, WRP_COUNT,
   WRP_ERR_COUNT, WRP_LCO_FRAME, CORE_ID, CORE_STATUS,
   CORE_SLOT_MEM, CORE_SLOT_EXE, CORE_CNT_SWITCH, CORE_CNT_BANKCONF,
   CORE_CNT_STATCONF, CORE_CNT_MEMCE, CORE_CNT_OVF, CORE_SLOT_REFSTALL,
   CORE_SLOT_RETRYSTALL, CLC_LMAP, CLC_CSHARE, CLC_CBSHARE,
   CORE_SLOT_HALOSTALL, BOX_STATUS, BOX_CNT_CALLS, BOX_BUSY_CLK,
   BOX_CNT_TRUNC, BOX_CNT_DROP, BOX_CNT_ABORT, BOX_CNT_OVF,
   SKU_STATUS, SKU_CNT_PASSES, SKU_CNT_TILES, SKU_CNT_PRIMS,
   SKU_CNT_SAMPLES, SKU_CNT_RETSTALL, SKU_CNT_PARTIAL, SKU_CNT_SUSPEND,
   SKU_CNT_ABORT, SKU_CNT_OVF, SKU_ERR_OFFSET, SKU_ERR_CODE,
   VIS_CD_SUBMIT_LO, VIS_CD_SUBMIT_HI, VIS_CD_STATUS, VIS_CD_FMAP,
   VIS_CD_CNT_CHAINS, VIS_CD_CNT_REJECT, VIS_CD_CNT_RESTART, VIS_CD_CNT_OVF,
   VIS_ENG_STATUS, VIS_ENG_CNT_STAGES, VIS_ENG_BUSY_CLK, VIS_ENG_CNT_SUSPEND,
   VIS_ENG_CNT_ABORT, VIS_ENG_CNT_NOMATCH, VIS_ENG_CNT_OCCL, VIS_ENG_CNT_OVF]

/-- A part of `regTable`. -/
def table2 : List Reg :=
  [VIS_ENG_LAST_NS, DSP_CTRL, DSP_STATUS, DSP_MAP,
   DSP_ASR, DSP_COMMIT, DSP_DECLARE, DSP_LINE_MATCH,
   DSP_IRQ_EN, DSP_IRQ_STATUS, DSP_LTOL, DSP_FRAME,
   DSP_SOA_LO, DSP_SOA_HI, DSP_FLIP_LO, DSP_FLIP_HI,
   DSP_FLIP_FRAME, DSP_TIMING_H, DSP_TIMING_H2, DSP_TIMING_V,
   DSP_TIMING_V2, DSP_PCLK, DSP_COMPOSE, DSP_BGCOLOR,
   DSP_BLANKET, DSP_SIG_WIN0, DSP_SIG_WIN1, DSP_FRZ_CFG,
   DSP_SIG_EXP6, DSP_SIG_EXP7, DSP_SIG_OUT, DSP_SIG_L6,
   DSP_SIG_L7, DSP_SIG_STATUS, DSP_CNT_UNDERRUN, DSP_CNT_LATE,
   DSP_CNT_REFUSED, DSP_CNT_FREEZE, DSP_CNT_UNEXP, DSP_CNT_SIGMIS,
   DSP_CNT_OVF, DSP_L_CTRL, DSP_L_BASE_LO, DSP_L_BASE_HI,
   DSP_L_PITCH, DSP_L_POS, DSP_L_SIZE, DSP_LUT,
   EDP_CTRL, EDP_SRC, EDP_STATUS, EDP_AUX_CMD,
   EDP_AUX_ADDR, EDP_AUX_STATUS, EDP_AUX_DATA, EDP_CNT_RETRAIN,
   EDP_CNT_AUXERR, EDP_CNT_OVF, EDP_ID_COUNT, EDP_ID_TIM,
   EDP_ID_PCLK, EDP_ID_DIGEST, CAP_RX_CTRL, CAP_RX_STATUS]

/-- A part of `regTable`. -/
def table3 : List Reg :=
  [CAP_RX_CNT_ECC, CAP_RX_CNT_HDR, CAP_RX_CNT_CRC, CAP_RX_CNT_UNROUTED,
   CAP_RX_CNT_OVR, CAP_RX_CNT_OVF, CAP_V_ROUTE, CAP_V_CTRL,
   CAP_V_SIZE, CAP_V_BASE_LO, CAP_V_BASE_HI, CAP_V_PITCH,
   CAP_V_STRIDE, CAP_V_NBUF, CAP_V_REC_LO, CAP_V_REC_HI,
   CAP_V_REL, CAP_V_STATE, CAP_V_PAIR_TOL, CAP_V_TMO,
   CAP_V_FRAMES, CAP_V_CNT_DROP, CAP_V_CNT_BAD, CAP_V_CNT_PAIRFAIL,
   CAP_V_CNT_TRIGFAIL, CAP_V_CNT_OVF, CAP_V_CHAIN_LO, CAP_V_CHAIN_HI,
   CAP_AP_CFG, CAP_AP_STATUS, CAP_AP_CNT_RESYNC, CAP_A_ROUTE,
   CAP_A_CTRL, CAP_A_PERIOD, CAP_A_RING_LO, CAP_A_RING_HI,
   CAP_A_NPER, CAP_A_WR, CAP_A_RD, CAP_A_CNT_GAP,
   CAP_A_CNT_OVF, CAP_FS_CTRL, CAP_FS_START_LO, CAP_FS_START_HI,
   CAP_FS_PERIOD, CAP_FS_WIDTH, CAP_FS_NEXT_LO, CAP_FS_NEXT_HI,
   I2C_CTRL, I2C_CMD, I2C_STATUS, I2C_STRETCH,
   I2C_DATA, I2C_ALLOW, I2C_CNT_ERR, I2C_CNT_REFUSED,
   I2C_CNT_OVF, SCH_CTRL, SCH_QUANTUM, SCH_CNT_EVICT,
   SCH_CNT_RESTORE, SCH_CNT_LEND, SCH_PART_CFG, SCH_PART_SEED_LO]

/-- A part of `regTable`. -/
def table4 : List Reg :=
  [SCH_PART_SEED_HI, SCH_PART_PARK, SCH_PART_STATUS, SCH_CTX_CFG,
   SCH_CTX_QTAB_LO, SCH_CTX_QTAB_HI, SCH_CTX_LAYBY_LO, SCH_CTX_LAYBY_HI,
   SCH_CTX_LAYBY_SIZE, SCH_CTX_STATUS, SCH_CTX_QCTL, SCH_CTX_QERR,
   SCH_CTX_CANCEL, SCH_CTX_RESTART, SCH_CTX_CNT_DBREJ, SCH_CTX_CNT_DEPEXP,
   SCH_CTX_CNT_LAYBYFULL, SCH_CTX_CNT_OVF, SCH_CTX_ACCT, SCH_DB,
   SCH_SEM_CFG, SCH_SEM_STATE, SCH_SEM_CTRL, BWR_REG_CFG,
   DIE_REG_CFG, SCH_REG_CFG, BWR_REG_BYTES_LO, BWR_REG_BYTES_HI,
   DIE_REG_BYTES_LO, DIE_REG_BYTES_HI, SCH_REG_BYTES_LO, SCH_REG_BYTES_HI,
   BWR_REG_BORROW_LO, BWR_REG_BORROW_HI, DIE_REG_BORROW_LO, DIE_REG_BORROW_HI,
   SCH_REG_BORROW_LO, SCH_REG_BORROW_HI, BWR_REG_HELD, DIE_REG_HELD,
   SCH_REG_HELD, BRG_QZI_CTRL, BRG_QZI_STATUS, BRG_QZI_FAULT_OFF,
   BRG_QZI_VERSION, BRG_QZI_DIGEST, BRG_QZI_WDIGEST, BRG_QZI_WEAK_IGN,
   BRG_ID, BRG_STRAP, BRG_READY, BRG_BOOT_CTRL,
   BRG_BOOT_STATUS, BRG_BOOT_FAULT, BRG_CLU_ABSENT, BRG_SKU_ABSENT,
   BRG_FW_SRC_LO, BRG_FW_SRC_HI, BRG_FW_FAILED, BRG_RPT_LO,
   BRG_RPT_HI, BRG_RPT_SIZE, BRG_RPT_WR, BRG_RPT_LOSS]

/-- A part of `regTable`. -/
def table5 : List Reg :=
  [BRG_RAM_CTRL, BRG_RAM_PERIOD, BRG_RAM_GUARD, BRG_RAM_WAIT,
   BRG_RAM_BORROW, BRG_RAM_REQ, BRG_RAM_STATUS, BRG_RAM_CNT_TESTS,
   BRG_RAM_CNT_DEFER, BRG_RAM_CNT_FAIL, BRG_RAM_CNT_OVF, ETH_CTRL,
   ETH_STATUS, ETH_MAC_LO, ETH_MAC_HI, ETH_PCPMAP,
   ETH_CNT_RX, ETH_CNT_TX, ETH_CNT_FCS, ETH_CNT_OVERSIZE,
   ETH_CNT_EGRESS_DROP, ETH_CNT_DEST_DROP, ETH_CNT_QCI_DROP, ETH_CNT_OVF,
   ETH_TSN_CTRL, ETH_CYCLE, ETH_BASE_LO, ETH_BASE_HI,
   ETH_GCL_COUNT, ETH_CBS0, ETH_CBS1, ETH_QBU,
   ETH_CAP, ETH_DEST_COUNT, ETH_DEST_LO, ETH_DEST_HI,
   ETH_GCL_STATE, ETH_GCL_TIME, ETH_QCI_DA, ETH_QCI_MATCH,
   ETH_QCI_ACT, ETH_QCI_CNT, ETH_METER_CIR, ETH_METER_CBS,
   ETH_FRER_DA, ETH_FRER_MATCH, ETH_FRER_CFG, ETH_FRER_LOST,
   SCT_CTRL, SCT_STATUS, SCT_EPOCH_LO, SCT_EPOCH_HI,
   SCT_VLAN, SCT_L2, SCT_UDP_PORT, SCT_IP4,
   SCT_IP6, SCT_RTO, SCT_COAL, SCT_CNT_RX,
   SCT_CNT_DUP, SCT_CNT_AHEAD, SCT_CNT_OOW, SCT_CNT_AUTH]

/-- A part of `regTable`. -/
def table6 : List Reg :=
  [SCT_CNT_MALFORMED, SCT_CNT_EVLOSS, SCT_CNT_OVF, SCT_ALERT_EN,
   SCT_ALERT_STATUS, SCT_RES_LO, SCT_RES_HI, SCT_RES_CFG,
   SCT_RES_WR, SCT_RES_ACK, TIM_CTRL, TIM_STATUS,
   TIM_NOW_LO, TIM_NOW_HI, TIM_NOW_FRAC, TIM_RATE,
   TIM_OFFSET, TIM_STEP_THR, TIM_SLEW_MAX, TIM_GAIN,
   TIM_PPS_OFS, TIM_HOLD_TMO, TIM_LOCK_THR, TIM_ADJ,
   TIM_SET_LO, TIM_SET_HI, TIM_PPS_LAST_LO, TIM_PPS_LAST_HI,
   TIM_CNT_STEP, TIM_CNT_DEFER, TIM_CNT_HOLD, TIM_CNT_OVF,
   TIM_LCH_CFG, TIM_LCH_START_LO, TIM_LCH_START_HI, TIM_LCH_PERIOD,
   TIM_LCH_NEXT_LO, TIM_LCH_NEXT_HI, TIM_LCH_SKIP, TIM_FLK_CTRL,
   TIM_FLK_START_LO, TIM_FLK_START_HI, TIM_FLK_PERIOD, TIM_FLK_FRAC,
   TIM_FLK_ERR, TIM_FLK_TRIM, ERR_CTRL, ERR_STATUS,
   ERR_RING_LO, ERR_RING_HI, ERR_RING_SIZE, ERR_RING_WR,
   ERR_RING_LOSS, ERR_CE_WINDOW, ERR_PRST, ERR_PRST_STATUS,
   ERR_DEVRST, ERR_RESET_CAUSE, ERR_FATAL_TMO, ERR_CNT_CORR,
   ERR_CNT_CONT, ERR_CNT_PFATAL, ERR_CNT_DFATAL, ERR_CNT_OVF]

/-- A part of `regTable`. -/
def table7 : List Reg :=
  [ERR_CNT_DRAMCE, ERR_CNT_D2DRTY, ERR_CNT_MESHRTY, ERR_CNT_SCRCE,
   DBG_NONCE, DBG_TOKEN_LO, DBG_TOKEN_HI, DBG_UNLOCK,
   DBG_POLICY, DBG_UNLOCK_CTX_LO, DBG_UNLOCK_CTX_HI, DBG_LOCK,
   DBG_STOP, DBG_STOP_CFG, DBG_STOP_STATUS, DBG_SCAN_SEL,
   DBG_SCAN_INFO, DBG_SCAN_DATA, DBG_BP_CTRL, DBG_BP_PC,
   DBG_BP_CORE, DBG_INSP_SEL, DBG_INSP_DATA, DBG_RUN,
   DBG_PCS_CFG, DBG_PCS_RING_LO, DBG_PCS_RING_HI, DBG_PCS_SIZE,
   DBG_PCS_WR, DBG_PCS_RD, DBG_PCS_LOSS, DBG_PCS_DROP,
   PMC_CTRL, PMC_SAMPLE, PMC_OVF, PMC_CNT_SEL,
   PMC_CNT, PMC_SNAP, PMC_SNAP_TIME_LO, PMC_SNAP_TIME_HI,
   TRC_MARK, TRC_RING_CFG, TRC_RING_CTX_LO, TRC_RING_CTX_HI,
   TRC_RING_LO, TRC_RING_HI, TRC_RING_SIZE, TRC_RING_WR,
   TRC_RING_RD, TRC_RING_LOSS, TRC_RING_DROP, SEC_CTRL,
   SEC_STATUS, SEC_ID_SRC_LO, SEC_ID_SRC_HI, SEC_ID_DIGEST,
   SEC_ATT_DST_LO, SEC_ATT_DST_HI, SEC_ATT_NONCE, SEC_ATT_COUNT,
   SEC_SK_SRC_LO, SEC_SK_SRC_HI, SEC_SK_KCV, SEC_CNT_FAIL]

/-- A part of `regTable`. -/
def table8 : List Reg :=
  [SEC_CNT_OVF, SEC_ROOT_DIGEST, PWR_CTRL, PWR_STATUS,
   PWR_PKG_CEIL, PWR_PKG_EST, PWR_THR_TEMP, PWR_TRIP_TEMP,
   PWR_GATE_IDLE, PWR_SR_CFG, PWR_RAIL_CEIL, PWR_RAIL_CUR,
   PWR_CLU_PSTATE, PWR_TEMP, PWR_SR_ENTRIES, PWR_SR_TIME,
   PWR_SR_WAKESTALL, PWR_CNT_THROTTLE, PWR_CNT_FASTLIM, PWR_CNT_STATTHR,
   PWR_CNT_OVF, GPIO_OUT, GPIO_OE, GPIO_IN]

/-- Every register of the map, in the order of the spec's tables. -/
def regTable : List Reg :=
  table0 ++ table1 ++ table2 ++ table3 ++ table4 ++ table5 ++ table6 ++ table7 ++ table8

end Sys2Proof.Machine.R
end

