-- ==== Sys2Proof/Machine/State.lean ====
section
/-! DEFINITION. The state of the machine as plain data: the register map, DEV memory, and what the spec gives every block
beside its registers. Status registers that report live state hold it (they are that state's one home). -/

namespace Sys2Proof.Machine

/-! ### Device, image, time -/

/-- The four assemblies of Table 0.1. -/
inductive Assembly where
  | x | c | m | s
  deriving DecidableEq, Repr

/-- Device-wide state that no register holds. -/
structure DevState where
  /-- R2: which assembly the package is. -/
  assembly : Assembly
  /-- R423: the device is held in reset (RESET_N low, or REFCLK lost). -/
  inReset : Bool
  /-- R424: REFCLK has stopped and has not yet run again for 1 ms. -/
  refclkLost : Bool
  /-- R423: the RESET_N ball is low. -/
  resetLow : Bool
  /-- R422: the levels of the strap balls. -/
  straps : Word
  /-- R374: the cause of a device reset that has been asked for; it starts when the command has had its other effects. -/
  resetAsked : Option Nat
  deriving DecidableEq, Repr

/-- One region entry of a partition (Table 12.3). -/
structure Region where
  part : Nat
  base : Nat
  size : Nat
  read : Bool
  write : Bool
  shared : Bool
  deriving DecidableEq, Repr

/-- The display envelope of an output (R218, OUTPUT record). -/
structure Envelope where
  hActive : Nat
  vActive : Nat
  pclk : Nat
  rate : Nat
  idSrc : Bool
  pin : Bool
  digest : List Byte
  deriving DecidableEq, Repr

/-- One component of the firmware manifest (Table 18.3). -/
structure Component where
  ident : Nat
  version : Nat
  size : Nat
  digest : List Byte
  deriving DecidableEq, Repr

/-- One entry of the known-weak list (R290). -/
structure WeakEntry where
  kind : Nat
  loc : List Byte
  deriving DecidableEq, Repr

/-- What the applied image leaves outside the register map (R288, R291). -/
structure ImgState where
  regions : List Region
  /-- R22: log2 of the interleave granule in bytes. -/
  granuleLog : Nat
  /-- Envelope of each output, where an OUTPUT record gave one. -/
  envelopes : List (Nat × Envelope)
  manifest : List Component
  weak : List WeakEntry
  /-- R285: image version, vendor section digest and the key digests kept for attestation. -/
  vendorDigest : List Byte
  integratorKey : Nat
  debugKey : Nat
  /-- R292: the RWL values that the records give, by CFG address. -/
  values : List (Nat × Word)
  deriving DecidableEq, Repr

/-- One launch channel at work (R350): what was read when `en` rose. -/
structure Launch where
  running : Bool
  start : Nat
  period : Nat
  next : Nat
  done : Bool
  /-- Tasks that its launches have started (queue, sequence number). -/
  tasks : List (Nat × Word)
  deriving DecidableEq, Repr

/-- TIMEBASE and its servo (R344–R351). -/
structure TimState where
  /-- R344: TIMEBASE with its 32-bit fraction. -/
  base : BitVec 96
  /-- R347: frequency estimate and applied rate, 2^-32 ns per ns. -/
  fi : Int
  a : Int
  /-- R345: TIM_NOW_HI and TIM_NOW_FRAC as latched by the last read of TIM_NOW_LO. -/
  latchedHi : Word
  latchedFrac : Word
  /-- Table 15.4: the value written to TIM_SET_LO. -/
  setLo : Word
  /-- R347: TIMEBASE at the previous offset, moved with the steps since, and the consecutive offsets within TIM_LOCK_THR. -/
  lastOffset : Option Nat
  goodOffsets : Nat
  /-- R348: a step has been deferred in this episode. -/
  deferring : Bool
  /-- R346: consecutive PPS_IN edges 1 s ± 100 µs apart. -/
  ppsRun : Nat
  /-- TIMEBASE of the last PPS_IN edge, moved with the steps since. -/
  ppsLast : Option Nat
  /-- R346: the port that 802.1AS holds in slave state. -/
  slavePort : Option Nat
  launches : Vector Launch 4
  /-- R351: consecutive frames within 20 ns, per pipe. -/
  flkGood : Vector Nat 5
  deriving DecidableEq, Repr

/-! ### Slice synthesis -/

/-- A keyframe of an output, by the two reports that make it complete (R31). -/
structure Keyframe where
  index : Word
  /-- Target refresh (R78). -/
  refresh : Word
  /-- Status of the render task and of the flow job, where reported. -/
  render : Option Nat
  flow : Option Nat
  /-- R190: bundle base, pitch, display copy and scene time. -/
  base : Nat
  pitch : Nat
  disp : Nat
  dispPitch : Nat
  scene : Nat
  /-- Output of the chained flow stage: base and pitch (Table 8.4). -/
  vectors : Nat
  vecPitch : Nat
  /-- R32: slice 0 of its target refresh has been released. -/
  boundary : Bool
  deriving DecidableEq, Repr

/-- One released slice, until its entry is freed (R48). -/
structure SliceRun where
  frame : Word
  slice : Nat
  /-- D(s) and F(s), in 2^-32 ns (Table 2.1). -/
  deadline : Nat
  fallback : Nat
  /-- The task, when an entry was written (R40): queue and sequence number. -/
  task : Option (Nat × Word)
  /-- R45: the write window is open. -/
  window : Bool
  /-- A keyframe-direct copy runs (R56). -/
  direct : Bool
  /-- Bytes accepted, by offset: ARGB8888 pixels from 0, then the confidence plane; each offset once. -/
  data : List Host.Cell
  /-- R50, R57. -/
  origin : Option Nat
  final : Bool
  /-- R54: the transform records that the running warp has latched, and their bank. -/
  warp : Option (Nat × List Byte)
  /-- The bank sampled at R(s), its state vectors, and, once the input stage has read them, the tensors of Table 2.3 in its
  order. -/
  bank : Nat
  vectors : List Byte
  inputs : List (List Byte)
  /-- R46: history valid; scan time of the middle line, in 2^-32 ns. -/
  history : Bool
  mid : Nat
  /-- R73: the input stage, and the warp, still copy their bank. -/
  copying : Bool
  warpCopying : Bool
  deriving DecidableEq, Repr

/-- A frame under synthesis, until it has been recorded and written back. -/
structure FrameRec where
  frame : Word
  /-- R32: the latched pair, newer first; with one complete keyframe both are that one. -/
  pair : Option (Keyframe × Keyframe)
  count : Nat
  /-- R61: change expected, as SYN declares. -/
  change : Bool
  /-- R68: confidence settings of the frame. -/
  conf : Word
  /-- Slices whose origin is decided. -/
  origins : List (Nat × Nat)
  /-- Slices whose write-back has ended; one of them failed, so that the surface is no complete output; the origin
  record is appended. -/
  written : List Nat
  spoiled : Bool
  recorded : Bool
  deriving DecidableEq, Repr

/-- A slice task in flight (R46, R84), or an adaptation task whose job has been given up and that may still use its target
buffer; that one names no slice (64). -/
structure SliceUser where
  qid : Nat
  seq : Word
  frame : Word
  slice : Nat
  sel : Nat
  accepted : Bool
  deriving DecidableEq, Repr

/-- The adaptation work under way (R79–R86). -/
structure AdaptWork where
  ref : Word
  keyframe : Word
  /-- Target refresh of the reference keyframe. -/
  refresh : Word
  samples : List Nat
  /-- Samples not captured yet, by their place. -/
  left : List Nat
  sel : Nat
  /-- After launch: queue, sequence number. -/
  job : Option (Nat × Word)
  deriving DecidableEq, Repr

/-- One output of SYN. -/
structure SynOut where
  /-- R66: an enable check runs. -/
  checking : Bool
  /-- R238: a timing commit was pending when the check was started. -/
  commitPending : Bool
  /-- R75: the halo that the header of the enabled model declares. -/
  halo : Nat
  /-- R67: the first frame is not known yet, since no SOA has come. -/
  first : Bool
  /-- Frame and slice of the next release (R39, R40). -/
  nextFrame : Word
  nextSlice : Nat
  /-- R36: SOA of the last frame and the last four SOA intervals, newest first, in 2^-32 ns. -/
  soa : Option Nat
  intervals : List Nat
  runs : List SliceRun
  frames : List FrameRec
  /-- R68: B, M and the confidence settings in force since the last frame boundary. -/
  budget : Nat
  margin : Nat
  conf : Word
  keyframes : List Keyframe
  /-- R61: index of the newer keyframe of the previous frame; a bank has been published since the last declaration. -/
  lastNewer : Option Word
  published : Bool
  /-- R46: slices whose synthesis for a frame has completed well, each with its frame. -/
  histGood : List (Nat × Word)
  /-- R59: records since the enable. -/
  oringFill : Nat
  /-- R84, R87: the buffer of a pending swap is in `swapTo`; `sel` returns to 0 at the next frame boundary. -/
  swapTo : Nat
  toZero : Bool
  /-- Buffer that is the target of the outstanding job (0 none). -/
  claim : Nat
  /-- R85: reports in the window (loss_a, loss_b), oldest first; consecutive failed jobs. -/
  window : List (Word × Word)
  failedRun : Nat
  refNumber : Word
  work : Option AdaptWork
  /-- R88: references whose report mode 0 discards. -/
  ignore : List Word
  users : List SliceUser
  deriving DecidableEq, Repr

/-! ### Cores -/

/-- What a hamper's reconvergence stack holds (R95): the threads of the other side that have yet to run, and the mask to
restore. -/
structure StackEntry where
  other : Word
  mask : Word
  deriving DecidableEq, Repr

/-- A hamper at work (R95): 32 threads of one group. -/
structure Hamper where
  ident : Nat
  /-- Linear index of its group and its place in the group. -/
  group : Nat
  rank : Nat
  active : Word
  exited : Word
  stack : List StackEntry
  /-- R109: it waits for an event counter to reach a target. -/
  waiting : Option (Nat × Nat)
  deriving DecidableEq, Repr

/-- A barrier of a resident group (R98): threads that have arrived. -/
structure Barrier where
  group : Nat
  unit : Nat
  arrived : List Nat
  deriving DecidableEq, Repr

/-- A resident group of a task on a core (R99). -/
structure GroupRun where
  /-- Its linear index; of an engine-only group also what the first argument register holds at its start (R112). -/
  index : Nat
  /-- First byte of its group memory in the slot's core-memory share. -/
  memBase : Nat
  deriving DecidableEq, Repr

/-- A weight tile, decoded (R92): 16 output channels × `depth` reduction elements, channel by channel. -/
structure Tile where
  /-- The activations that it takes (Table 4.1): 0 INT8, 1 FP8, 2 BF16, 3 FP16. -/
  act : Nat
  depth : Nat
  /-- FP32 accumulation: the weights are FP32 codes, else two's complement integers (R92, R140). -/
  fp : Bool
  /-- R158: neither a codebook nor an INT4 format. -/
  plain : Bool
  weights : List Word
  deriving DecidableEq, Repr

/-- One engine, the part that belongs to one slot (R90, R94). -/
structure Engine where
  current : Tile
  idle : Option Tile
  /-- Accumulator rows of the slot's share, by row; a row that is not listed is 0. -/
  acc : List (Nat × List Word)
  /-- R431: rows in error. -/
  bad : List Nat
  /-- R94: the engine's queue waits at WAITE for this counter and target. -/
  waiting : Option (Nat × Nat)
  /-- R94: commands that wait behind it, at most 32. -/
  queue : List EngineCmd
  /-- R137: draws that each output lane has made since task start. -/
  draws : Vector Nat 16
  deriving DecidableEq, Repr

/-- An activation stream that the engines of a core share (R93): its tag, the rows read, and the engines that have taken
them. -/
structure ActStream where
  tag : Byte
  rows : List (List Nat)
  taken : List Nat
  deriving DecidableEq, Repr

/-- A byte that a thread has stored to cluster memory and not fenced (R98): only that thread reads it. -/
structure Unfenced where
  /-- group × 1,024 + its place in the group. -/
  thread : Nat
  addr : Nat
  byte : Byte
  deriving DecidableEq, Repr

/-- A DMA descriptor, decoded (Table 4.5). -/
structure DmaDesc where
  src : Nat
  dst : Nat
  inner : Nat
  count1 : Nat
  count2 : Nat
  srcStride1 : Nat
  srcStride2 : Nat
  dstStride1 : Nat
  dstStride2 : Nat
  mode : Nat
  signal : Bool
  fence : Bool
  event : Nat
  pageLog : Nat
  pageList : Nat
  deriving DecidableEq, Repr

/-- A descriptor in flight on a channel (R116). -/
structure DmaRun where
  channel : Nat
  desc : DmaDesc
  /-- Transfers of at most 4 KiB that have been made, and the one that a regulator holds (R280). -/
  next : Nat
  held : Option Nat
  /-- R102: its transfer was aborted when the slot was switched out; it is made again when the slot runs. -/
  aborted : Bool
  deriving DecidableEq, Repr

/-- Everything a slot holds that an eviction saves (R268). -/
structure SlotImage where
  hampers : List Hamper
  /-- Thread registers, key (hamper × 32 + lane) × 64 + register; 0 where not listed. -/
  regs : List (Nat × Word)
  /-- R431: thread registers in error, by their key. -/
  badRegs : List Nat
  /-- R137: draws that a thread has made, key hamper × 32 + lane. -/
  draws : List (Nat × Nat)
  events : Vector Half 32
  barriers : List Barrier
  engines : Vector Engine 4
  dma : List DmaRun
  /-- R381: slot counters 0–3. -/
  counters : Vector Word 4
  groups : List GroupRun
  streams : List ActStream
  unfenced : List Unfenced
  /-- R383, R384: the control core's PC in the slot. -/
  pc : Word
  deriving DecidableEq, Repr

/-! ### Box units and sketch units -/

/-- A call of a box unit (R168). -/
structure BoxCall where
  cluster : Nat
  core : Nat
  idx : Nat
  qid : Nat
  seq : Word
  prio : Nat
  desc : List Byte
  started : Bool
  running : Bool
  /-- Its work has been done and its writes made. -/
  done : Bool
  deriving DecidableEq, Repr

/-- Clear values and the state that scene commands set (Table 7.3). -/
structure SceneState where
  clear : List Word
  clearDepth : Word
  clearLayer : Nat
  layer : Nat
  motionNone : Bool
  idWrite : Bool
  blend : Nat
  depthFn : Nat
  depthWrite : Bool
  cull : Nat
  scissor : Nat × Nat × Nat × Nat
  program : Option (Nat × Nat × Nat)
  textures : List (Nat × List Byte)
  buffers : List (Nat × Nat × Nat)
  deriving DecidableEq, Repr

/-- A pixel of a target under way: colour R, G, B, coverage in FP16, depth in FP32, motion in FP16, layer. -/
structure Pixel where
  color : List Half
  depth : Word
  motion : List Half
  layer : Nat
  deriving DecidableEq, Repr

/-- A corner of a primitive, in homogeneous coordinates of its target: (x / w, y / w) is its place in pixels, z / w its depth, and
(px / pw, py / pw) its place one keyframe interval earlier (R178). The coordinates of one primitive have one scale, so that they
are integers. -/
structure Corner where
  x : Int
  y : Int
  z : Int
  w : Int
  px : Int
  py : Int
  pw : Int
  deriving DecidableEq, Repr

/-- A primitive's shape. -/
structure Triangle where
  a : Corner
  b : Corner
  c : Corner
  deriving DecidableEq, Repr

/-- A primitive that a draw has left to be binned: its shape, the tiles that it touches, and its shaded vertices, each with a
number within its draw and its output record. -/
structure Unbinned where
  shape : Triangle
  tiles : List Nat
  vertices : List (Nat × List Byte)
  deriving DecidableEq, Repr

/-- A primitive binned: its sequence number, its shape and the scene state it carries. -/
structure Binned where
  seq : Nat
  shape : Triangle
  scissor : Nat × Nat × Nat × Nat
  textures : List (Nat × List Byte)
  layer : Nat
  motionNone : Bool
  idWrite : Bool
  blend : Nat
  depthFn : Nat
  depthWrite : Bool
  tiles : List Nat
  deriving DecidableEq, Repr

/-- The list of a tile in bin memory (R180): its entries, and its first and last chunk, counted from 1 at the top of the pool. -/
structure TileList where
  tile : Nat
  count : Nat
  head : Nat
  tail : Nat
  deriving DecidableEq, Repr

/-- The ordered retire unit of a sketch unit (R185): the primitive before which every fragment has come, and the fragments of
later ones that it holds. -/
structure Retire where
  unit : Nat
  through : Nat
  held : List Fragment
  deriving DecidableEq, Repr

/-- Where a pass stands: its submission stalls (R191), it is pending, it bins, it is in the tile phase of a partial render or in
its last one, or it is stopped. -/
inductive PassPhase where
  | stalled | pending | binning | partialTiles | tiles | stopped
  deriving DecidableEq, Repr

/-- A pass of a render task (R174, R191). -/
structure Pass where
  qid : Nat
  seq : Word
  /-- Core and slot whose control core submitted it. -/
  site : Nat × Nat
  ctx : Nat
  prio : Nat
  number : Nat
  /-- The last pass of its task. -/
  last : Bool
  /-- The render descriptor and the pass entry as read (Tables 7.1, 7.2). -/
  desc : List Byte
  entry : List Byte
  mask : Nat
  lead : Nat
  /-- R184: the tile-owner map as read; none selects the default map. -/
  owners : Option (List Byte)
  phase : PassPhase
  /-- Bytes of the command range parsed so far, and whether binning has ended. -/
  parsed : Nat
  binDone : Bool
  scene : SceneState
  /-- What a pixel holds that no fragment has reached, once a primitive is binned. -/
  clear : Option Pixel
  /-- R182: primitives of the draw under way that wait for a partial render. -/
  todo : List Unbinned
  /-- Vertices of that draw whose output records are in the pool. -/
  inPool : List Nat
  prims : List Binned
  nextSeq : Nat
  /-- Pool use (R180): from its bottom and from its top, primitive records, and the tile lists since they were reset. -/
  poolLow : Nat
  poolHigh : Nat
  records : Nat
  entries : List TileList
  high : Nat
  retire : List Retire
  /-- Pixels of tiles in flight, by y × width + x. -/
  pixels : List (Nat × Pixel)
  /-- R182: tiles stored and not reloaded. -/
  stored : List Nat
  /-- R177: the status of a write that failed at a stop. -/
  fault : Option (Nat × Option Nat)
  started : Nat
  partials : Nat
  stops : Nat
  tilesStored : Nat
  primsTotal : Nat
  deriving DecidableEq, Repr

/-- What SYN takes from a render descriptor whose `syn_out` names an output (R190). -/
structure RenderTask where
  synOut : Nat
  refresh : Word
  base : Nat
  pitch : Nat
  disp : Nat
  dispPitch : Nat
  scene : Nat
  deriving DecidableEq, Repr

/-- What SYN learns when a completion record is posted (R31): the render task of a keyframe, or its flow job with base and
pitch of its vectors. -/
inductive KeyframeNote where
  | none
  | render (r : RenderTask)
  | flow (output : Nat) (refresh : Word) (vectors : Nat) (pitch : Nat)
  deriving DecidableEq, Repr

/-- What the passes of a render task add up to (Table 7.5). -/
structure RenderTotals where
  /-- The pass count of its descriptor, once a pass has been submitted. -/
  total : Nat
  passes : Nat
  prims : Nat
  partials : Nat
  stops : Nat
  tiles : Nat
  high : Nat
  started : Nat
  deriving DecidableEq, Repr

/-! ### Vision engines -/

/-- Where a stage of a chain stands (R195, R197). -/
inductive StageState where
  | waiting
  | running (engine : Nat)
  | stopped (engine : Nat)
  | ended
  deriving DecidableEq, Repr

/-- A stage of a chain: its descriptor as read (Tables 8.1, 8.3, 8.4, 8.6). -/
structure Stage where
  desc : List Byte
  state : StageState
  /-- Its work has been done and its writes made. -/
  done : Bool
  /-- R207: it has been restarted once. -/
  restarted : Bool
  /-- R207: the engine on which it starts again. -/
  pin : Option Nat
  deriving DecidableEq, Repr

/-- Who submitted a chain (R194). -/
inductive ChainSource where
  | host | task | sketch
  | capture (stream : Nat) (buffer : Nat)
  deriving DecidableEq, Repr

/-- How a chain ended: status, TIMEBASE, and what SYN learns when its record is posted (R198). -/
structure ChainEnd where
  status : Nat
  at_ : Nat
  note : KeyframeNote
  deriving DecidableEq, Repr

/-- A chain held by the dispatcher. -/
structure Chain where
  ident : Nat
  source : ChainSource
  ctx : Nat
  prio : Nat
  synOut : Nat
  queue : Option Nat
  tag : Word
  timeout : Nat
  refresh : Word
  stages : List Stage
  /-- R262: TIMEBASE at the start of its first stage, 0 before, and the time its stages have run. -/
  firstRun : Nat
  engineNs : Nat
  /-- Its end, until its record can be posted in submission order (R198). -/
  ended : Option ChainEnd
  deriving DecidableEq, Repr

/-- A submission that waits for a place (R211): its task, its descriptor and, where it stalls a control core, that core and
slot; a sketch unit's waits with none. -/
structure WaitingChain where
  qid : Nat
  seq : Word
  addr : Nat
  site : Option (Nat × Nat)
  deriving DecidableEq, Repr

/-- The dispatcher and its engines. -/
structure VisState where
  chains : List Chain
  nextChain : Nat
  /-- VIS_CD_SUBMIT_LO as last written. -/
  submitLo : Word
  /-- R211. -/
  waiting : List WaitingChain
  deriving DecidableEq, Repr

/-! ### Display pipes and outputs -/

/-- A slice as the pipe fetched it (R57): what its lines show. -/
structure ShownSlice where
  frame : Word
  slice : Nat
  /-- First output line, and lines. -/
  first : Nat
  lines : Nat
  /-- The entry's pixels (ARGB8888 by offset), or none: the slice was not final. -/
  pixels : Option (List Host.Cell)
  deriving DecidableEq, Repr

/-- A pipe, beside its registers (the shadow values are the registers). -/
structure DspPipe where
  /-- Applied values of the shadowed registers, by offset from the pipe's base; a register that is not listed has its
  reset value. -/
  applied : List (Nat × Word)
  /-- R228: values latched at the commit line, for the next SOA. -/
  latched : Option (List (Nat × Word))
  /-- The present frame's commit line has come; a first SOA has come since the timing generator started. -/
  linePassed : Bool
  began : Bool
  /-- Frame counter of the next SOA. -/
  nextFrame : Word
  /-- R221: the PLL relocks. -/
  relock : Bool
  /-- R294, R238: the output stops at the end of the frame; a stopped pipe waits for a commit. -/
  stopAtEnd : Bool
  needCommit : Bool
  /-- R231: the timing generator has failed. -/
  genFailed : Bool
  /-- R235: DSP_DECLARE as written, as latched for the next frame, and for the present frame. -/
  declared : Word
  declNext : Word
  declNow : Word
  /-- R235: assured layers changed by the commit that took effect at the present SOA (bit 1 L6, bit 2 L7). -/
  changed : Word
  /-- R229: a flip awaits its SOA. -/
  flip : Bool
  /-- Lines with underrun in the present frame: line, first pixel that is blanket. -/
  underruns : List (Nat × Nat)
  /-- Assured layers invalid in the present frame, and in the previous one (bit 0 L6, bit 1 L7). -/
  invalid : Word
  wasInvalid : Word
  /-- Signatures to compare with: output, L6, L7. -/
  prevOut : Option Word
  prev6 : Option Word
  prev7 : Option Word
  /-- Slices fetched in the present frame. -/
  shown : List ShownSlice
  /-- R351: signed grid error accumulated by the frame-lock loop, ppb. -/
  trim : Int
  deriving DecidableEq, Repr

/-- What a sink answers while its output trains (R215, R217). -/
structure Panel where
  edid : List Byte
  /-- DPCD maximum rate, lanes code and ASSR, where the read succeeds. -/
  dpcd : Option (Nat × Nat × Bool)
  deriving DecidableEq, Repr

/-- A declared timing (R217), with its totals. -/
structure Declared where
  hActive : Nat
  vActive : Nat
  pclk : Nat
  hTotal : Nat
  vTotal : Nat
  deriving DecidableEq, Repr

/-- An AUX transaction of the host (R216). -/
structure AuxTx where
  op : Nat
  addr : Nat
  len : Nat
  tries : Nat
  /-- It has been sent; before that it waits for training to end. -/
  sent : Bool
  deriving DecidableEq, Repr

/-- An output, beside its registers. -/
structure EdpOut where
  panel : Option Panel
  declared : List Declared
  aux : Option AuxTx
  /-- The training that runs replaces a link that was trained. -/
  again : Bool
  /-- R231: pipe P4 drives the output. -/
  p4 : Bool
  deriving DecidableEq, Repr

/-- Display. -/
structure DspState where
  pipes : Vector DspPipe 5
  outs : Vector EdpOut 4
  /-- R231: the pipe that pipe P4 takes over, and TIMEBASE of its failure, until the switch. -/
  takeover : Option (Nat × Nat)
  /-- R231: pipe P4 has replaced a pipe. -/
  replacing : Option Nat
  deriving DecidableEq, Repr

/-! ### Capture -/

/-- An open frame of a video stream (R244). -/
structure CapFrame where
  buffer : Nat
  start : Nat
  lines : Nat
  /-- A line was too long or there were too many. -/
  long : Bool
  /-- A line was short. -/
  short : Bool
  crc : Bool
  header : Bool
  corrected : Nat
  deriving DecidableEq, Repr

/-- A good frame of a pair that waits for its partner (R245). -/
structure PairWait where
  buffer : Nat
  start : Nat
  good : Bool
  deriving DecidableEq, Repr

/-- A video stream; the states of its buffers are in CAP_Vn_STATE. -/
structure VideoStream where
  frame : Option CapFrame
  last : Option Nat
  pair : Option PairWait
  /-- R245: an event of the present frame has been sent. -/
  told : Bool
  /-- R245: the index that the partner's Frame Start has taken for this stream's next frame; 8: that frame is dropped. -/
  common : Option Nat
  deriving DecidableEq, Repr

/-- An audio stream: the period under way (R249). -/
structure AudioStream where
  samples : List Byte
  frames : Nat
  first : Nat
  resync : Bool
  gap : Bool
  deriving DecidableEq, Repr

/-- A TDM port (R248). -/
structure AudioPort where
  lastSync : Option Nat
  /-- Frames of the expected length since the port was lost. -/
  good : Nat
  deriving DecidableEq, Repr

/-- An FSYNC output (R247): what was read when `en` rose. -/
structure Fsync where
  running : Bool
  start : Nat
  period : Nat
  width : Nat
  /-- Pulses sent, and TIMEBASE of the last leading edge. -/
  pulses : Nat
  lastEdge : Nat
  deriving DecidableEq, Repr

/-- A command of an I²C controller that runs (R250). -/
structure I2cRun where
  addr : Nat
  wlen : Nat
  rlen : Nat
  data : List Byte
  deriving DecidableEq, Repr

/-- Capture. -/
structure CapState where
  video : Vector VideoStream 16
  audio : Vector AudioStream 8
  ports : Vector AudioPort 2
  fsync : Vector Fsync 4
  i2c : Vector (Option I2cRun) 4
  deriving DecidableEq, Repr

/-! ### Scheduling -/

/-- A queue descriptor as cached at enable (Table 11.1). -/
structure QDesc where
  subBase : Nat
  cplBase : Nat
  logSize : Nat
  prio : Nat
  cqOnly : Bool
  serial : Bool
  maxInflight : Nat
  deriving DecidableEq, Repr

/-- A queue entry as read from the submission ring (Table 11.2). -/
structure Entry where
  seq : Word
  op : Nat
  dlValid : Bool
  dlAbort : Bool
  handle : Nat
  tag : Word
  deadline : Nat
  launch : Nat
  param : Nat
  /-- R263: valid dependencies (queue, sequence number). -/
  deps : List (Nat × Word)
  /-- R263, R369: some dependency was invalid when the doorbell was accepted. -/
  depBad : Bool
  /-- R261: slice tag (frame, slice, output). -/
  slice : Option (Word × Nat × Nat)
  input : Nat
  /-- R260: the entry lay in memory with an uncorrectable error, at this address. -/
  unreadable : Option Nat
  /-- TIMEBASE of the doorbell (R282, WAIT_NS). -/
  rungAt : Nat
  deriving DecidableEq, Repr

/-- A completion record before it is written (Table 11.3). -/
structure Completion where
  seq : Word
  tag : Word
  status : Nat
  dlValid : Bool
  preempted : Bool
  late : Bool
  engineUs : Nat
  firstRun : Nat
  doneAt : Nat
  note : KeyframeNote
  deriving DecidableEq, Repr

/-- An enabled queue (R256–R263). Counts are modulo 2^32. -/
structure Queue where
  ident : Nat
  desc : QDesc
  /-- Producer count last accepted. -/
  pLast : Word
  /-- Completions posted. -/
  posted : Word
  /-- R258: the host's consumer count of a `cq_only` queue. -/
  consumer : Word
  disabling : Bool
  /-- Entries rung and not taken, in order. -/
  rung : List Entry
  /-- Ended entries whose record waits for the record before it (R262), or for room (R258). -/
  ended : List Completion
  /-- Statuses of the last completions, for dependencies (R263). -/
  statuses : List (Word × Nat)
  deriving DecidableEq, Repr

/-- A launch record (Table 4.4). -/
structure Launch64 where
  code : Nat
  codeSize : Nat
  kernel : Nat
  gridX : Nat
  gridY : Nat
  gridZ : Nat
  groupSize : Nat
  barriers : Nat
  reload : Bool
  tokenLoop : Bool
  static : Bool
  groupMem : Nat
  width : Nat
  timeout : Nat
  param : Nat
  program : Nat
  maxTokens : Nat
  reserve : Nat
  deriving DecidableEq, Repr

/-- How far a token loop has come (R124–R126). -/
structure TokenLoop where
  seqId : Word
  index : Nat
  cancel : Bool
  /-- The present iteration has written its record. -/
  written : Bool
  /-- R125: since when it has stalled for a full result ring. -/
  stalled : Option Nat
  finished : Option Nat
  /-- R126: its timeout has expired, and its last record waits for room in the ring. -/
  timedOut : Bool
  deriving DecidableEq, Repr

/-- A task: an op 0x01 entry taken from its queue. -/
structure Task where
  qid : Nat
  entry : Entry
  ctx : Nat
  part : Nat
  /-- Own and effective priority (R274); 0 is P0. -/
  prio : Nat
  eff : Nat
  started : Bool
  launch : Launch64
  /-- Cores asked for (R110, R266) and, in reproducible mode, the cores it is bound to (R118). -/
  width : Nat
  cores : List Nat
  /-- Next group to dispatch and groups ended (R112). -/
  nextGroup : Nat
  groupsEnded : Nat
  firstRun : Nat
  preempted : Bool
  /-- TIMEBASE at task start (R137). -/
  startTime : Nat
  /-- Order of starting, for victim choice (R267). -/
  order : Nat
  engineNs : Nat
  /-- R279: the reload of its model is awaited. -/
  awaitsModel : Bool
  token : Option TokenLoop
  /-- TIMEBASE from which its timeout counts. -/
  timerStart : Nat
  /-- R150: master records whose layer runs again. -/
  replays : List Nat
  /-- R152: those records as they were before the step. -/
  stepBefore : List (Nat × List Byte)
  /-- R53, R87: the status that a task posts in place of 0x00. -/
  forced : Option Nat
  /-- R190: what SYN takes from its render descriptor, once it has submitted a pass. -/
  render : Option RenderTask
  rendered : RenderTotals
  deriving DecidableEq, Repr

/-- What a slot waits for (R265). -/
inductive SlotWait where
  | sem (k : Nat)
  | event (e : Nat) (target : Nat)
  | flag (addr : Nat) (target : Nat)
  /-- R94: a write of a command to a full queue of an engine. -/
  | engine (n : Nat) (cmd : EngineCmd)
  /-- R168: a write to a box unit that holds 64 pending calls. -/
  | boxFull (call : BoxCall)
  deriving DecidableEq, Repr

/-- Where a live slot stands. -/
inductive SlotPhase where
  | live | evicting | restoring
  deriving DecidableEq, Repr

/-- A slot that holds live task state (R266). -/
structure Slot where
  core : Nat
  idx : Nat
  qid : Nat
  seq : Word
  phase : SlotPhase
  /-- R267: the task for which it is being evicted. -/
  evictFor : Option (Nat × Word)
  wait : Option (SlotWait × Nat)
  yielded : Bool
  /-- R385: halted at a breakpoint; R386: to halt again after one instruction. -/
  halted : Bool
  stepping : Bool
  image : SlotImage
  /-- R169: box calls aborted by its eviction, to be submitted again. -/
  calls : List BoxCall
  deriving DecidableEq, Repr

/-- A lay-by record (R268): where the slot was, and all it held. -/
structure Layby where
  ctx : Nat
  slot : Slot
  /-- Which record of the context's region it is (R269); the slot's core-memory share is kept there. -/
  place : Nat
  /-- R270: written by a park. -/
  parked : Bool
  /-- TIMEBASE at which it was written (R282). -/
  since : Nat
  deriving DecidableEq, Repr

/-- A holder of semaphore units (R273, R274). -/
structure SemHold where
  qid : Nat
  seq : Word
  units : Nat
  deriving DecidableEq, Repr

/-- A blocked acquire (R273). -/
structure SemWait where
  qid : Nat
  seq : Word
  core : Nat
  idx : Nat
  units : Nat
  since : Nat
  deriving DecidableEq, Repr

/-- Who holds and who waits for a semaphore; its counts are in SCH_SEMk_STATE. -/
structure Sem where
  ident : Nat
  holders : List SemHold
  waiters : List SemWait
  deriving DecidableEq, Repr

/-- The outcome of the last acquire, as returned to the task program (R273, R275). -/
inductive AcquireResult where
  | granted | abandoned | failed
  deriving DecidableEq, Repr

/-- A model of the cool box (R277–R279). -/
structure Model where
  part : Nat
  handle : Nat
  /-- (source, size, cluster); cluster 255 is every cluster of the partition's share. -/
  segments : List (Nat × Nat × Nat)
  pinned : Bool
  resident : Bool
  /-- The entry whose load copies it now, with its queue. -/
  loading : Option (Nat × Entry)
  /-- R359: a reload runs. -/
  reloading : Bool
  /-- R75: an unpin waits for the output that names it. -/
  unpinDeferred : Bool
  lastUse : Nat
  ctx : Nat
  deriving DecidableEq, Repr

/-- A regulator's tokens (R280). -/
structure Bucket where
  kind : Nat
  index : Nat
  part : Nat
  tokens : Nat
  heldNow : Bool
  deriving DecidableEq, Repr

/-- A transfer held at its source (R280). -/
structure HeldTransfer where
  ident : Nat
  part : Nat
  prio : Nat
  bytes : Nat
  /-- The slot and channel of its descriptor. -/
  core : Nat
  idx : Nat
  channel : Nat
  /-- Regulators on its path (kind, index). -/
  path : List (Nat × Nat)
  deriving DecidableEq, Repr

/-- What a parked partition keeps (R270): the DEV address at which its cluster-memory shares are saved. -/
structure ParkSave where
  part : Nat
  base : Nat
  deriving DecidableEq, Repr

/-- What the instruction share of a slot holds (R107, R108): the code image last loaded, from where, and its bytes. -/
structure CodeHeld where
  /-- Its physical slot. -/
  site : Nat
  idx : Nat
  code : Nat
  size : Nat
  bytes : List Byte
  deriving DecidableEq, Repr

/-- The scheduler. -/
structure SchState where
  queues : List Queue
  tasks : List Task
  slots : List Slot
  /-- R100: the slot each core runs or last ran is in CORE_STATUS. -/
  layby : List Layby
  sems : List Sem
  lastAcquire : Option (Nat × Word × AcquireResult)
  models : List Model
  buckets : List Bucket
  transfers : List HeldTransfer
  nextTransfer : Nat
  parks : List ParkSave
  code : List CodeHeld
  /-- R264: the queue last served, by partition × 4 + priority. -/
  served : List (Nat × Nat)
  /-- What the arrays of a slot without a task hold: physical slot, index, contents. -/
  rest : List (Nat × Nat × SlotImage)
  /-- R282: TIMEBASE at which the running slot of a core began to run. -/
  runSince : List (Nat × Nat)
  /-- R105, R122: sites and slots that have run since reset, whose stall counters may have moved. -/
  ran : List (Nat × Nat)
  /-- Counts task starts, for R267's "most recently started". -/
  starts : Nat
  /-- Counts uses of models, for "least recently used" (R278). -/
  uses : Nat
  /-- R370, R373: dispatch is stopped for these partitions. -/
  stopped : List Nat
  deriving DecidableEq, Repr

/-! ### Bring-up and the rambler -/

/-- A report entry (Table 13.4). -/
structure Report where
  kind : Nat
  loc : List Byte
  cause : Nat
  action : Nat
  time : Nat
  deriving DecidableEq, Repr

/-- The rambler's test under way (R314–R319); its state, target and stand-in are in BRG_RAM_STATUS. -/
structure Rambler where
  /-- Next place of the cycle, and a requested slot (17 × (8 × die + cluster) + slot). -/
  cursor : Nat
  request : Option Nat
  /-- TIMEBASE of the last test start, and of the start of the present wait for slack. -/
  started : Option Nat
  waitFrom : Nat
  /-- The logical core under test, or none: the spare is tested in place. -/
  logical : Option Nat
  /-- R318: the donor's logical core. -/
  donor : Option Nat
  /-- R315: the slot registers of the stand-in before the test, to return to: CORE_SLOT_MEM and CORE_SLOT_EXE of each slot. -/
  saved : List Word
  /-- R319: the target failed and the donor serves until the moved tasks (queue, sequence number) have completed. -/
  serving : List (Nat × Word)
  /-- R320: the test ended because a core failed; the spare takes this logical core after the return. -/
  owed : Option Nat
  deriving DecidableEq, Repr

/-- A component of the firmware bundle (R310, R311): its digest, and its packets of 1,024 bytes as they were broadcast. -/
structure Firmware where
  ident : Nat
  digest : List Byte
  packets : List (List Byte)
  deriving DecidableEq, Repr

/-- Bring-up. The state of each step is in BRG_BOOT_STATUS. -/
structure BrgState where
  /-- R291: an image is being verified; R296: the host has written to its bytes meanwhile. -/
  verifying : Option (List Byte)
  touched : Bool
  /-- R313: entries held until the ring is set, and entries written since. -/
  held : List Report
  fill : Nat
  /-- Physical slots that have failed (17 × (8 × die + cluster) + slot). -/
  failed : List Nat
  /-- R303, R358: modules retired (pair, module). -/
  retired : List (Nat × Nat)
  /-- R358: TIMEBASE of the retrains of a module. -/
  retrains : List (Nat × Nat × Nat)
  /-- R358: modules that retrain (pair, module). -/
  retraining : List (Nat × Nat)
  /-- R303: lanes remapped: pair, module, direction, lane. -/
  remapped : List (Nat × Nat × Nat × Nat)
  /-- R307: the known-weak list that each step started with. -/
  weakAtStart : List (Nat × List WeakEntry)
  /-- R107, R310, R401: the components that the broadcast has loaded. -/
  firmware : List Firmware
  /-- R311: packets that each incomplete target misses after the last round. -/
  fwMissing : List (FwTarget × List Nat)
  /-- R315: core memory of physical slots that serve no logical core: bytes other than 0 by offset. -/
  shelf : List (Nat × List Host.Cell)
  /-- R300: the hub is unusable. -/
  hubBad : Bool
  /-- R300: withdrawn pipes whose `to_en` has not yet been 1. -/
  pipesOwed : List Nat
  rambler : Rambler
  deriving DecidableEq, Repr

/-! ### Host link -/

/-- Where a host frame came from, so that answers go back to it (R333). -/
structure HostAddr where
  port : Nat
  mac : BitVec 48
  encap : Encap
  deriving DecidableEq, Repr

/-- The kinds of frame that Shothen sends. -/
inductive TxKind where
  | response | event | result | resync | arpReply | neighborAdvert
  deriving DecidableEq, Repr

/-- One frame sent, or waiting behind a gate, by a port. -/
structure TxFrame where
  kind : TxKind
  /-- Ports it is sent on. -/
  ports : List Nat
  pcp : Nat
  /-- R333: its sequence number under 802.1CB, where it carries an R-TAG. -/
  rtag : Option Nat
  dst : HostAddr
  /-- R327: the SCT header, all 16 bytes (empty for ARP and neighbour replies). -/
  header : List Byte
  payload : List Byte
  /-- R336: the 16-byte tag, after SEAL. -/
  tag : List Byte
  deriving DecidableEq, Repr

/-- A sent frame of a device stream that has no acknowledgement yet (R338). -/
structure Outstanding where
  seq : Nat
  esn : Nat
  frame : TxFrame
  /-- Event records or token records it carries. -/
  records : Nat
  deriving DecidableEq, Repr

/-- One device stream (R338): 1 events, 0x40 + c results of context c. -/
structure Stream where
  ident : Nat
  /-- Extended sequence of the next frame. -/
  nextEsn : Nat
  outstanding : List Outstanding
  /-- TIMEBASE at which the oldest outstanding frame was last sent. -/
  lastSent : Nat
  deriving DecidableEq, Repr

/-- One event record (Table 14.5). -/
structure EventRec where
  cls : Nat
  inst : Nat
  code : Nat
  lostBefore : Bool
  seq : Nat
  lost : Nat
  time : Nat
  payload : List Byte
  deriving DecidableEq, Repr

/-- Numbering of one event source (R339, R340). -/
structure EventSource where
  cls : Nat
  inst : Nat
  nextSeq : Nat
  lost : Nat
  deriving DecidableEq, Repr

/-- A host frame held until it is next in turn, with the ESN inferred at arrival (R330, R343). -/
structure HeldFrame where
  esn : Nat
  op : Nat
  frame : RxFrame
  deriving DecidableEq, Repr

/-- A cached response (R330). -/
structure CachedResponse where
  seq : Nat
  frame : TxFrame
  deriving DecidableEq, Repr

/-- The SCT responder. n_exp, the epoch and the number held are in SCT_STATUS and SCT_EPOCH. -/
structure SctState where
  /-- R331: a sequenced host frame has been applied since device reset. -/
  applied : Bool
  held : List HeldFrame
  cache : List CachedResponse
  lastSource : Option HostAddr
  streams : List Stream
  /-- R340: event records pending, oldest first. -/
  events : List EventRec
  sources : List EventSource
  /-- R330: TIMEBASE of the last RESYNC. -/
  lastResync : Option Nat
  /-- R341: token records already handed to RESULT frames, per context with a ring. -/
  resultSent : List (Nat × Nat)
  /-- R341: TIMEBASE of the first unsent record, per context. -/
  resultWait : List (Nat × Nat)
  /-- R339: TIMEBASE of the first pending event record. -/
  eventWait : Nat
  deriving DecidableEq, Repr

/-- One 802.1CB recovery stream (R324): last accepted sequence and the history below it. -/
structure Recovery where
  ident : Nat
  last : Nat
  seen : List Nat
  deriving DecidableEq, Repr

/-- Ports. Link state is in ETH_STATUS. -/
structure EthState where
  /-- R324: position in the gate control list, per port, and the gates open now. -/
  gateEntry : Vector Nat 2
  gates : Vector Nat 2
  /-- R324: a new list waits for the next cycle start. -/
  newList : Vector Bool 2
  /-- R324: the list in force, per port: open gates and interval; empty before the first cycle. -/
  gcl : Vector (List (Nat × Nat)) 2
  /-- Frames waiting in a port queue behind a closed gate: (port, queue, frame). -/
  queued : List (Nat × Nat × TxFrame)
  /-- R295: (port, PCP, TIMEBASE): from when on the cap of the PCP lets its next frame leave. -/
  capUntil : List (Nat × Nat × Nat)
  /-- R324: 802.1Qci meters: (port, meter, bytes left × 8 × 10^6, TIMEBASE of the last update). -/
  meters : List (Nat × Nat × Nat × Nat)
  recovery : List Recovery
  /-- R324, R333: the R-TAG sequence of the next frame sent under 802.1CB. -/
  rtag : Nat
  /-- Every frame sent, oldest first. -/
  tx : List TxFrame
  deriving DecidableEq, Repr

/-! ### Errors -/

/-- An error record before it is written (Table 16.3). -/
structure ErrRec where
  seq : Nat
  cls : Nat
  code : Nat
  unit : Nat
  status : Nat
  ctx : Option Nat
  part : Option Nat
  loc : Option Nat
  lostBefore : Bool
  suppressed : Nat
  time : Nat
  deriving DecidableEq, Repr

/-- R365: the suppression window of one unit and code. -/
structure CeWindow where
  unit : Nat
  code : Nat
  start : Nat
  suppressed : Nat
  deriving DecidableEq, Repr

/-- Errors: what the ERR registers do not hold. -/
structure ErrState where
  /-- R363: records held while the ring is not set, oldest first. -/
  held : List ErrRec
  /-- R363: records received since the ring last became set; none while it is not set. -/
  fill : Option Nat
  /-- R363: a record has been lost since the last one written. -/
  lossFlag : Bool
  windows : List CeWindow
  /-- R374: TIMEBASE of entry to the fatal state and ERR_FATAL_TMO read then. -/
  fatalAt : Option (Nat × Nat)
  fatalCode : Nat
  /-- R373: the unit whose error it was. -/
  fatalUnit : Nat
  /-- R370: cause and code of each partition reset that runs. -/
  resets : List (Nat × Nat × Nat)
  /-- R357, R431: addressed protection words that hold an uncorrectable error, by their first address. -/
  bad : List Nat
  deriving DecidableEq, Repr

/-! ### Debug, security, power, pins -/

/-- Debug, counters and trace. -/
structure DbgState where
  /-- R379: address of the token under verification, and DBG_TOKEN_LO as written. -/
  token : Option Nat
  tokenLo : Word
  /-- The nonce when that token was submitted. -/
  tokenNonce : List Word
  /-- R389: TIMEBASE at which the device stopped. -/
  stoppedAt : Nat
  /-- R390: bits shifted of the selected scan chain. -/
  scanned : Nat
  /-- R383: samples taken by a core for a channel (core, channel, count), for the rotation. -/
  rotation : List (Nat × Nat × Nat)
  /-- R388: next sequence of each source of a ring (ring, source, sequence). -/
  sequences : List (Nat × Nat × Nat)
  /-- R390, R426: the JTAG instruction (code of the model: 0 BYPASS, 1 IDCODE, 2 SAMPLE/PRELOAD, 3 EXTEST, 4 SCAN) and
  its data register. -/
  jtag : Nat
  jtagData : Word
  deriving DecidableEq, Repr

/-- An RSA key pair of the key engine (R393, R398). -/
structure RsaKey where
  modulus : Nat
  p : Nat
  q : Nat
  dp : Nat
  dq : Nat
  qinv : Nat
  deriving DecidableEq, Repr

/-- The key engine (R397–R404). -/
structure SecState where
  /-- R397: the PUF capture of this reset, named by a free value's number. -/
  capture : Nat
  identity : Option RsaKey
  pendingKey : Option (List Byte)
  currentKey : Option (List Byte)
  /-- R337: the keys that replacements replaced, each with the ESN of the last host frame it applies to; newest first. -/
  oldKeys : List (Nat × List Byte)
  /-- The operation that runs: its bit in SEC_CTRL. -/
  op : Option Nat
  /-- The DEV address that the running operation took at its start. -/
  opAddr : Nat
  deriving DecidableEq, Repr

/-- A switched power domain (Table 19.4). -/
inductive Domain where
  /-- A physical core: 17 × (8 × die + cluster) + slot. -/
  | core (id : Nat)
  | sketch (cluster : Nat)
  | pipe (n : Nat)
  | output (n : Nat)
  | engine (n : Nat)
  | capture
  deriving DecidableEq, Repr

/-- Power, clocks and thermal; P-states are in PWR_CLUi_PSTATE. -/
structure PwrState where
  /-- EN_CMP0, EN_CMP1, EN_MEM. -/
  enCmp0 : Bool
  enCmp1 : Bool
  enMem : Bool
  /-- R410: VDD_CMP0 and VDD_CMP1 as requested, mV. -/
  vdd : Vector Nat 2
  gated : List Domain
  /-- R412: an episode runs; checks since the last step down. -/
  throttling : Bool
  belowFor : Nat
  /-- R413: rails over their ceiling at the last poll, and rails that have failed to answer. -/
  rails : List Nat
  silent : List Nat
  /-- R411: where the transition of each cluster leads, while one runs. -/
  dest : Vector Nat 16
  /-- R415: samples 3 °C below the threshold since the last step down, per cluster; sensors at or above the trip temperature
  at the last sample. -/
  coolFor : Vector Nat 16
  hot : List Nat
  /-- R416: a trip holds step 4 of bring-up until sensor 20 has cooled. -/
  tripped : Bool
  /-- R417: stacks in self-refresh, by TIMEBASE of entry. -/
  refresh : Vector (Option Nat) 4
  deriving DecidableEq, Repr

/-! ### The machine -/

/-- The whole state. -/
structure State where
  /-- Commands that wait, first in, first out. -/
  pending : List Instr
  /-- The model's own: counts the free values drawn. -/
  free : Nat
  /-- Registers whose value differs from their reset value, by CFG address, addresses rising. -/
  cfg : List (Nat × Word)
  /-- DEV memory (R20): bytes that are not 0, addresses rising; an unlisted byte reads 0. -/
  mem : List Host.Cell
  dev : DevState
  img : ImgState
  tim : TimState
  syn : Vector SynOut 4
  /-- R168: box unit calls, pending and running. -/
  boxes : List BoxCall
  /-- R174: passes of the sketch units. -/
  passes : List Pass
  vis : VisState
  dsp : DspState
  cap : CapState
  brg : BrgState
  eth : EthState
  sct : SctState
  err : ErrState
  sch : SchState
  dbg : DbgState
  sec : SecState
  pwr : PwrState
  deriving DecidableEq, Repr

/-- The ways the machine stops. -/
inductive Fault where
  /-- No meaning raises it: every command answers a next state (log 2). It stands so that the type has a value. Safe. -/
  | badOperand
  deriving DecidableEq, Repr

/-- Commands without a meaning. -/
inductive Refusal where
  /-- The command has no meaning in the model yet. Raised by `exec` alone; safe. -/
  | notModelled (mnemonic : String)
  deriving DecidableEq, Repr

/-! ### Reset -/

/-- An output of SYN with nothing under way. -/
def SynOut.reset : SynOut :=
  { checking := false, commitPending := false, halo := 0, first := false, nextFrame := 0, nextSlice := 0, soa := none, intervals := [], runs := [],
    frames := [], budget := 0, margin := 0, conf := 0, keyframes := [], lastNewer := none, published := false,
    histGood := [], oringFill := 0, swapTo := 0, toZero := false, claim := 0, window := [], failedRun := 0,
    refNumber := 0, work := none, ignore := [], users := [] }

/-- A pipe with nothing applied but the reset values. -/
def DspPipe.reset : DspPipe :=
  { applied := [], latched := none, linePassed := false, began := false, nextFrame := 0, relock := false,
    stopAtEnd := false, needCommit := false, genFailed := false, declared := 0, declNext := 0, declNow := 0,
    changed := 0, flip := false, underruns := [], invalid := 0, wasInvalid := 0, prevOut := none, prev6 := none,
    prev7 := none, shown := [], trim := 0 }

/-- An output with no panel. -/
def EdpOut.reset : EdpOut := { panel := none, declared := [], aux := none, again := false, p4 := false }

/-- A video stream with no frame. -/
def VideoStream.reset : VideoStream := { frame := none, last := none, pair := none, told := false, common := none }

/-- An audio stream with an empty period. -/
def AudioStream.reset : AudioStream := { samples := [], frames := 0, first := 0, resync := false, gap := false }

/-- R301: until the first verification passes, every context has one region, hub SRAM, with read permission. The
partition of every context is 0 then. -/
def Region.early : Region :=
  { part := 0, base := 0x800000000000, size := 0x800000, read := true, write := false, shared := false }

/-- R301, R432: no image. -/
def ImgState.reset : ImgState :=
  { regions := [Region.early], granuleLog := 12, envelopes := [], manifest := [], weak := [], vendorDigest := [],
    integratorKey := 0, debugKey := 0, values := [] }

/-- TIMEBASE stopped at 0, no source. -/
def TimState.reset : TimState :=
  { base := 0, fi := 0, a := 0, latchedHi := 0, latchedFrac := 0, setLo := 0, lastOffset := none, goodOffsets := 0,
    deferring := false, ppsRun := 0, ppsLast := none, slavePort := none,
    launches := Vector.replicate 4 { running := false, start := 0, period := 0, next := 0, done := false, tasks := [] },
    flkGood := Vector.replicate 5 0 }

/-- The machine right after reset: RESET_N is low, and the first command is RESET_RELEASE. -/
def State.reset : State :=
  { pending := []
    free := 0
    cfg := []
    mem := []
    dev := { assembly := .x, inReset := true, refclkLost := false, resetLow := true, straps := 0, resetAsked := none }
    img := ImgState.reset
    tim := TimState.reset
    syn := Vector.replicate 4 SynOut.reset
    boxes := []
    passes := []
    vis := { chains := [], nextChain := 0, submitLo := 0, waiting := [] }
    dsp := { pipes := Vector.replicate 5 DspPipe.reset, outs := Vector.replicate 4 EdpOut.reset, takeover := none,
             replacing := none }
    cap := { video := Vector.replicate 16 VideoStream.reset, audio := Vector.replicate 8 AudioStream.reset,
             ports := Vector.replicate 2 { lastSync := none, good := 0 },
             fsync := Vector.replicate 4 { running := false, start := 0, period := 0, width := 0, pulses := 0,
                                           lastEdge := 0 },
             i2c := Vector.replicate 4 none }
    brg := { verifying := none, touched := false, held := [], fill := 0, failed := [], retired := [], retrains := [], retraining := [], remapped := [],
             weakAtStart := [], firmware := [], fwMissing := [], shelf := [], hubBad := false, pipesOwed := [],
             rambler := { cursor := 0, request := none, started := none, waitFrom := 0, logical := none, donor := none, saved := [],
                          serving := [], owed := none } }
    eth := { gateEntry := Vector.replicate 2 0, gates := Vector.replicate 2 0xFF, newList := Vector.replicate 2 false, gcl := Vector.replicate 2 [],
             queued := [], capUntil := [], meters := [], recovery := [], rtag := 0, tx := [] }
    sct := { applied := false, held := [], cache := [], lastSource := none, streams := [], events := [], sources := [],
             lastResync := none, resultSent := [], resultWait := [], eventWait := 0 }
    err := { held := [], fill := none, lossFlag := false, windows := [], fatalAt := none, fatalCode := 0, fatalUnit := 0, resets := [],
             bad := [] }
    sch := { queues := [], tasks := [], slots := [], layby := [], sems := [], lastAcquire := none, models := [],
             buckets := [], transfers := [], nextTransfer := 0, parks := [], code := [], served := [], rest := [], runSince := [], ran := [], starts := 0,
             uses := 0, stopped := [] }
    dbg := { token := none, tokenLo := 0, tokenNonce := [], stoppedAt := 0, scanned := 0, rotation := [], sequences := [], jtag := 1,
             jtagData := 0 }
    sec := { capture := 0, identity := none, pendingKey := none, currentKey := none, oldKeys := [], op := none, opAddr := 0 }
    pwr := { enCmp0 := false, enCmp1 := false, enMem := false, vdd := Vector.replicate 2 0, gated := [],
             throttling := false, belowFor := 0, rails := [], silent := [], dest := Vector.replicate 16 0, coolFor := Vector.replicate 16 0, hot := [],
             tripped := false, refresh := Vector.replicate 4 none } }

end Sys2Proof.Machine
end

