-- ==== Sys2Proof/Machine/Ops.lean ====
section
/-! DEFINITION. The named operations over registers, DEV memory and TIMEBASE. -/

namespace Sys2Proof.Machine

/-! ### Updates of one part of the state -/

/-- Other contents for the queue. -/
def State.withPending (s : State) (x : List Instr) : State := { s with pending := x }

/-- Other contents for the counter of free values. -/
def State.withFree (s : State) (x : Nat) : State := { s with free := x }

/-- Other contents for the register file. -/
def State.withCfg (s : State) (x : List (Nat × Word)) : State := { s with cfg := x }

/-- Other contents for DEV memory. -/
def State.withMem (s : State) (x : List Host.Cell) : State := { s with mem := x }

/-- Other contents for the package and its pins. -/
def State.withDev (s : State) (x : DevState) : State := { s with dev := x }

/-- Other contents for the image in force. -/
def State.withImg (s : State) (x : ImgState) : State := { s with img := x }

/-- Other contents for TIMEBASE. -/
def State.withTim (s : State) (x : TimState) : State := { s with tim := x }

/-- Other contents for SYN. -/
def State.withSyn (s : State) (x : Vector SynOut 4) : State := { s with syn := x }

/-- Other contents for the box unit calls. -/
def State.withBoxes (s : State) (x : List BoxCall) : State := { s with boxes := x }

/-- Other contents for the passes of the sketch units. -/
def State.withPasses (s : State) (x : List Pass) : State := { s with passes := x }

/-- Other contents for the vision engines. -/
def State.withVis (s : State) (x : VisState) : State := { s with vis := x }

/-- Other contents for the pipes and outputs. -/
def State.withDsp (s : State) (x : DspState) : State := { s with dsp := x }

/-- Other contents for capture. -/
def State.withCap (s : State) (x : CapState) : State := { s with cap := x }

/-- Other contents for bring-up. -/
def State.withBrg (s : State) (x : BrgState) : State := { s with brg := x }

/-- Other contents for the ports. -/
def State.withEth (s : State) (x : EthState) : State := { s with eth := x }

/-- Other contents for the command transport. -/
def State.withSct (s : State) (x : SctState) : State := { s with sct := x }

/-- Other contents for error reporting. -/
def State.withErr (s : State) (x : ErrState) : State := { s with err := x }

/-- Other contents for the scheduler. -/
def State.withSch (s : State) (x : SchState) : State := { s with sch := x }

/-- Other contents for debug. -/
def State.withDbg (s : State) (x : DbgState) : State := { s with dbg := x }

/-- Other contents for the key engine. -/
def State.withSec (s : State) (x : SecState) : State := { s with sec := x }

/-- Other contents for power. -/
def State.withPwr (s : State) (x : PwrState) : State := { s with pwr := x }

/-! ### The register file -/

/-- The value listed for a key in a list with rising keys. -/
def cfgGet : List (Nat × Word) → Nat → Option Word
  | [], _ => none
  | (k, v) :: t, a => if k = a then some v else cfgGet t a

/-- Set the value for a key, keys rising. -/
def cfgSet : List (Nat × Word) → Nat → Word → List (Nat × Word)
  | [], a, w => [(a, w)]
  | (k, v) :: t, a, w =>
    if a < k then (a, w) :: (k, v) :: t else if k = a then (a, w) :: t else (k, v) :: cfgSet t a w

/-- The value a register instance holds. -/
def State.rd (s : State) (r : Reg) (ix : List Nat) : Word := (cfgGet s.cfg (regAddr r ix)).getD (r.reset ix)

/-- Give a register instance a value, whatever its access codes (hardware's own write). -/
def State.poke (s : State) (r : Reg) (ix : List Nat) (v : Word) : State :=
  { s with cfg := cfgSet s.cfg (regAddr r ix) v }

/-- The field [hi:lo] of a register instance. -/
def State.fld (s : State) (r : Reg) (ix : List Nat) (hi lo : Nat) : Nat := bits (s.rd r ix) hi lo

/-- Give the field [hi:lo] of a register instance a value. -/
def State.setFld (s : State) (r : Reg) (ix : List Nat) (hi lo v : Nat) : State :=
  s.poke r ix (setBits (s.rd r ix) hi lo v)

/-- Is bit `b` of a register instance 1? -/
def State.bit (s : State) (r : Reg) (ix : List Nat) (b : Nat) : Bool := s.fld r ix b b == 1

/-- Give bit `b` of a register instance a value. -/
def State.setBit (s : State) (r : Reg) (ix : List Nat) (b : Nat) (v : Bool) : State := s.setFld r ix b b (b2n v)

/-- A 64-bit value in a low and a high register. -/
def State.rd64 (s : State) (lo hi : Reg) (ix : List Nat) : Nat := (s.rd lo ix).toNat + 2 ^ 32 * (s.rd hi ix).toNat

/-- A DEV address in a low and a high register: [31:0] and [47:32]. -/
def State.rdAddr (s : State) (lo hi : Reg) (ix : List Nat) : Nat := (s.rd lo ix).toNat + 2 ^ 32 * bits (s.rd hi ix) 15 0

/-- Store a 64-bit value in a low and a high register. -/
def State.poke64 (s : State) (lo hi : Reg) (ix : List Nat) (v : Nat) : State :=
  (s.poke lo ix (BitVec.ofNat 32 v)).poke hi ix (BitVec.ofNat 32 (v / 2 ^ 32))

/-! ### TIMEBASE (R344) -/

/-- TIMEBASE in ns. -/
def State.now (s : State) : Nat := s.tim.base.toNat / 2 ^ 32

/-! ### DEV memory -/

/-- The first address of hub SRAM (Table 1.6). -/
def hubBase : Nat := 0x800000000000

/-- The bytes of hub SRAM. -/
def hubSize : Nat := 0x800000

/-- Cluster memory of cluster `k` on compute die `d`. -/
def clusterBase (d k : Nat) : Nat := 0x800010000000 + d * 0x08000000 + k * 0x01000000

/-- Core memory of logical core Cd.k.c. -/
def coreMemBase (d k c : Nat) : Nat := 0x800020000000 + d * 0x10000000 + k * 0x02000000 + c * 0x00200000

/-- What a DEV address lies in. -/
inductive Place where
  | dram
  | hub
  | cluster (d k : Nat)
  | core (d k c : Nat)
  | unpopulated
  deriving DecidableEq, Repr

/-- Compute dies of an assembly (Table 0.1). -/
def Assembly.computeDies : Assembly → Nat
  | .x => 2 | .c => 2 | .m => 1 | .s => 1

/-- Memory I/O dies of an assembly (Table 0.1). -/
def Assembly.memDies : Assembly → Nat
  | .x => 2 | .c => 1 | .m => 2 | .s => 1

/-- Usable DRAM in bytes (R2, Table 1.6): 31 GiB for each memory I/O die. -/
def Assembly.dramSize (a : Assembly) : Nat := a.memDies * 31 * 2 ^ 30

/-- Stacks (R22). -/
def Assembly.stacks (a : Assembly) : Nat := 2 * a.memDies

/-- Table 1.6. -/
def placeOf (asm : Assembly) (a : Nat) : Place :=
  if a < asm.dramSize then .dram
  else if hubBase ≤ a ∧ a < hubBase + hubSize then .hub
  else if 0x800010000000 ≤ a ∧ a < 0x800010000000 + asm.computeDies * 0x08000000 then
    let o := a - 0x800010000000
    if o % 0x01000000 < 0xC00000 then .cluster (o / 0x08000000) (o / 0x01000000 % 8) else .unpopulated
  else if 0x800020000000 ≤ a ∧ a < 0x800020000000 + asm.computeDies * 0x10000000 then
    let o := a - 0x800020000000
    if o % 0x00200000 < 0x180000 then .core (o / 0x10000000) (o / 0x02000000 % 8) (o / 0x00200000 % 16)
    else .unpopulated
  else .unpopulated

/-- Are the `n` bytes from `a` all populated (R20)? No two populated ranges of Table 1.6 touch, so they lie in one. -/
def populated (asm : Assembly) (a n : Nat) : Bool :=
  n == 0 || (placeOf asm a != .unpopulated && placeOf asm (a + n - 1) == placeOf asm a)

/-- The byte that a list of cells gives for an address: an unlisted byte is 0. -/
def cellsGet : List Host.Cell → Nat → Byte
  | [], _ => 0
  | (k, v) :: t, a => if k = a then v else cellsGet t a

/-- List a byte, addresses rising. -/
def cellsPut : List Host.Cell → Nat → Byte → List Host.Cell
  | [], a, b => [(a, b)]
  | (k, v) :: t, a, b =>
    if a < k then (a, b) :: (k, v) :: t else if k = a then (a, b) :: t else (k, v) :: cellsPut t a b

/-- List an address no longer. -/
def cellsDel : List Host.Cell → Nat → List Host.Cell
  | [], _ => []
  | (k, v) :: t, a => if k = a then cellsDel t a else (k, v) :: cellsDel t a

/-- Store one byte: a byte that is 0 is not listed. -/
def cellsSet (m : List Host.Cell) (a : Nat) (b : Byte) : List Host.Cell := if b = 0 then cellsDel m a else cellsPut m a b

/-- Store consecutive bytes. -/
def cellsWrite (m : List Host.Cell) (a : Nat) : List Byte → List Host.Cell
  | [] => m
  | b :: bs => cellsWrite (cellsSet m a b) (a + 1) bs

/-- The canonical form of a list of cells: addresses strictly rising, no byte 0. -/
def Memory.wf : List Host.Cell → Bool
  | [] => true
  | (k, v) :: t => v != 0 && (match t with | [] => true | (k', _) :: _ => decide (k < k')) && Memory.wf t

/-- The canonical form of memory. -/
def State.memWf (s : State) : Bool := Memory.wf s.mem

/-- The form of the register file: addresses strictly rising. -/
def cfgWf : List (Nat × Word) → Bool
  | [] => true
  | (k, _) :: t => (match t with | [] => true | (k', _) :: _ => decide (k < k')) && cfgWf t

/-- One byte of memory. -/
def State.byte (s : State) (a : Nat) : Byte := cellsGet s.mem a

/-- `n` bytes of memory from `a`. -/
def State.bytes (s : State) (a n : Nat) : List Byte := (rangeFrom a n).map s.byte

/-- A little-endian number of `n` bytes at `a`. -/
def State.le (s : State) (a n : Nat) : Nat := ofLe (s.bytes a n)

/-- Store bytes, with no check. -/
def State.store (s : State) (a : Nat) (bs : List Byte) : State := { s with mem := cellsWrite s.mem a bs }

/-- Set `n` bytes from `a` to 0. -/
def State.clear (s : State) (a n : Nat) : State :=
  { s with mem := s.mem.filter fun c => !(decide (a ≤ c.1) && decide (c.1 < a + n)) }

/-! ### Protection words (R357, R431) -/

/-- The bytes of one protection word at an address. -/
def protSize (asm : Assembly) (a : Nat) : Nat :=
  match placeOf asm a with
  | .dram => 64
  | .cluster _ _ => 64
  | _ => 32

/-- The protection word of an address, by its first address. -/
def protBase (asm : Assembly) (a : Nat) : Nat := a / protSize asm a * protSize asm a

/-- The words in error that `n` bytes from `a` touch. -/
def State.badIn (s : State) (a n : Nat) : List Nat :=
  s.err.bad.filter fun w => overlaps w (protSize s.dev.assembly w) a n

/-- The first word in error that a read of `n` bytes from `a` meets. -/
def State.readError (s : State) (a n : Nat) : Option Nat := (s.badIn a n).head?

/-- The first word in error of which a write of `n` bytes from `a` covers only a part: such a write is not performed
(R357, R431). -/
def State.writeError (s : State) (a n : Nat) : Option Nat :=
  ((s.badIn a n).filter fun w => !(decide (a ≤ w) && decide (w + protSize s.dev.assembly w ≤ a + n))).head?

/-- Mark the word of an address as in error. -/
def State.poison (s : State) (a : Nat) : State :=
  let w := protBase s.dev.assembly a
  if s.err.bad.contains w then s else { s with err := { s.err with bad := s.err.bad ++ [w] } }

/-- A word written whole ends its error. -/
def State.unpoison (s : State) (a n : Nat) : State :=
  { s with err := { s.err with bad := s.err.bad.filter fun w =>
      !(decide (a ≤ w) && decide (w + protSize s.dev.assembly w ≤ a + n)) } }

/-- Write a range to 0, whole, which ends its errors (R431). -/
def State.wipe (s : State) (a n : Nat) : State := (s.unpoison a n).clear a n

/-- The bytes other than 0 of a range, by offset. -/
def State.cellsIn (s : State) (a n : Nat) : List Host.Cell :=
  (s.mem.filter fun c => decide (a ≤ c.1) && decide (c.1 < a + n)).map fun c => (c.1 - a, c.2)

/-- Put bytes at their offsets from an address. -/
def State.putCellsAt (s : State) (a : Nat) (cs : List Host.Cell) : State :=
  cs.foldl (fun s c => s.store (a + c.1) [c.2]) s

/-- Copy `n` bytes of memory. -/
def State.copyRange (s : State) (src dst n : Nat) : State := (s.wipe dst n).putCellsAt dst (s.cellsIn src n)

/-- A write access of bytes: bytes that lie in a word in error which the access covers only in part are not written;
a word covered whole is written with fresh check bits. -/
def State.write (s : State) (a : Nat) (bs : List Byte) : State :=
  match s.writeError a bs.length with
  | none => (s.unpoison a bs.length).store a bs
  | some _ => s

/-- A write of a little-endian number in `n` bytes. -/
def State.writeLe (s : State) (a n v : Nat) : State := s.write a (leBytes n v)

/-! ### What runs at all -/

/-- R389: has a global stop stopped every clock but the keep-alive set? -/
def State.stopped (s : State) : Bool := s.bit R.DBG_STOP_STATUS [] 0

/-- R374: a device reset. What survives is ERR_RESET_CAUSE and hub SRAM; DRAM is again memory that nothing has written
(log 3). Frames already sent stay sent, and a trip is remembered (R416). -/
def State.deviceReset (s : State) (cause : Nat) : State :=
  let w := BitVec.ofNat 32 (cause + 256 * s.err.fatalCode + 65536 * s.fld R.ERR_STATUS [] 0 0)
  let t := { State.reset with
    pending := s.pending
    free := s.free
    mem := s.mem.filter fun c => decide (hubBase ≤ c.1) && decide (c.1 < hubBase + hubSize)
    dev := { State.reset.dev with assembly := s.dev.assembly, resetLow := s.dev.resetLow }
    eth := { State.reset.eth with tx := s.eth.tx }
    pwr := { State.reset.pwr with tripped := s.pwr.tripped } }
  t.poke R.ERR_RESET_CAUSE [] w

/-- The end of a command that may ask for a device reset: the queue is as it was, and the reset starts if it was asked
(R374). -/
def State.settle (t : State) (queue : List Instr) : State :=
  match t.dev.resetAsked with
  | some cause => { t.deviceReset cause with pending := queue }
  | none => { t with pending := queue, dev := { t.dev with inReset := false } }

/-- The end of every other command: it changes neither the queue nor the device's own pins. -/
def State.kept (t s : State) : State := { t with pending := s.pending, dev := s.dev }

/-- The effect of a command of a block that a global stop stops: none in reset or while stopped. -/
def State.live (s : State) (f : State → State) : Host.Outcome State Fault Refusal :=
  .next (if s.dev.inReset || s.stopped then s else (f s).kept s)

/-- The effect of a command of a block that the stop leaves running (R389): none in reset. -/
def State.awake (s : State) (f : State → State) : Host.Outcome State Fault Refusal :=
  .next (if s.dev.inReset then s else (f s).kept s)

/-- As `State.awake`, for a command that may ask for a device reset. -/
def State.mayReset (s : State) (f : State → State) : Host.Outcome State Fault Refusal :=
  .next (if s.dev.inReset then s else (f s).settle s.pending)

/-! ### Free values -/

/-- Draw a free value of `n` bits: what it is, nothing says. -/
def State.drawn (s : State) (n : Nat) : BitVec n := Config.freeBits n s.free

/-- The counter after a draw. -/
def State.draw (s : State) : State := { s with free := s.free + 1 }

end Sys2Proof.Machine
end

