-- ==== Sys2Proof/Machine/Flags.lean ====
section
/-! DEFINITION. What the blocks share to tell the host: counters with their overflow bits (R375), ALERT_N sources (R342)
and event records (R339, R340). -/

namespace Sys2Proof.Machine

/-- A 32-bit counter marked "wraps" counts `n` (R375). -/
def State.count (s : State) (r : Reg) (ix : List Nat) (n : Nat) : State := s.poke r ix (s.rd r ix + BitVec.ofNat 32 n)

/-- A 32-bit counter marked "saturates" counts `n` events; its sticky overflow bit is set when it reaches its top and by
every later event (R375). -/
def State.countSat (s : State) (r : Reg) (ix : List Nat) (n : Nat) (ovf : Reg) (oix : List Nat) (bit : Nat) : State :=
  if n = 0 then s
  else
    let v := min ((s.rd r ix).toNat + n) 0xFFFFFFFF
    let t := s.poke r ix (BitVec.ofNat 32 v)
    if v = 0xFFFFFFFF then t.setBit ovf oix bit true else t

/-- A counter marked "saturates" for which the spec gives no overflow bit. -/
def State.countTop (s : State) (r : Reg) (ix : List Nat) (n : Nat) : State :=
  s.poke r ix (BitVec.ofNat 32 (min ((s.rd r ix).toNat + n) 0xFFFFFFFF))

/-- A 64-bit counter counts `n`, wrapping (R375). -/
def State.count64 (s : State) (lo hi : Reg) (ix : List Nat) (n : Nat) : State := s.poke64 lo hi ix (s.rd64 lo hi ix + n)

/-- A 64-bit accounting counter of a context (Table 11.6): 0 ENGINE_NS, 1 BYTES, 2 ENERGY_UJ, 3 PREEMPT, 4 WAIT_NS,
5 CB_HIT, 6 CB_MISS, 7 CB_BYTES. Its low word comes first. -/
def State.account (s : State) (ctx counter n : Nat) : State :=
  let v := (s.rd R.SCH_CTX_ACCT [ctx, 2 * counter]).toNat + 2 ^ 32 * (s.rd R.SCH_CTX_ACCT [ctx, 2 * counter + 1]).toNat + n
  (s.poke R.SCH_CTX_ACCT [ctx, 2 * counter] (BitVec.ofNat 32 v)).poke R.SCH_CTX_ACCT [ctx, 2 * counter + 1]
    (BitVec.ofNat 32 (v / 2 ^ 32))

/-- A sticky ALERT_N source is set (R342). -/
def State.alert (s : State) (source : Nat) : State := s.setBit R.SCT_ALERT_STATUS [] source true

/-- Event records that are pending, or outstanding in EVENT frames (R340). -/
def State.eventsHeld (s : State) : Nat :=
  s.sct.events.length +
    ((s.sct.streams.filter fun st => st.ident == 1).map fun st => (st.outstanding.map (·.records)).sum).sum

/-- The numbering of an event source. -/
def State.eventSource (s : State) (cls inst : Nat) : EventSource :=
  (s.sct.sources.find? fun e => e.cls == cls && e.inst == inst).getD { cls := cls, inst := inst, nextSeq := 0, lost := 0 }

/-- Keep the numbering of an event source. -/
def State.putSource (s : State) (e : EventSource) : State :=
  s.withSct { s.sct with sources := upsert (fun x => x.cls == e.cls && x.inst == e.inst) e s.sct.sources }

/-- The numbering and queueing of an event record (R339, R340): it becomes pending, or, with 512 records held, is lost
and counted. -/
def State.queueEvent (s : State) (cls inst code : Nat) (payload : List Byte) : State :=
  let e := s.eventSource cls inst
  if s.eventsHeld < 512 then
    let r : EventRec :=
      { cls := cls, inst := inst, code := code, lostBefore := e.lost != 0, seq := e.nextSeq,
        lost := min e.lost 0xFFFF, time := s.now, payload := payload }
    let t := s.putSource { e with nextSeq := (e.nextSeq + 1) % 65536, lost := 0 }
    (t.withSct { t.sct with
        events := t.sct.events ++ [r]
        eventWait := if t.sct.events.isEmpty then s.now else t.sct.eventWait })
  else
    ((s.putSource { e with nextSeq := (e.nextSeq + 1) % 65536, lost := e.lost + 1 }).countSat
      R.SCT_CNT_EVLOSS [] 1 R.SCT_CNT_OVF [] 5).alert 3

/-- An event occurs. Its payload is the bytes that the event's definition gives; those it does not give are a free
value. -/
def State.event (s : State) (cls inst code : Nat) (payload : List Byte) : State :=
  if payload.length < 16 then
    s.draw.queueEvent cls inst code ((payload ++ leBytes 16 (s.drawn 128).toNat).take 16)
  else s.queueEvent cls inst code (payload.take 16)

/-- An event occurs to which the spec gives no code: the code is a free value. -/
def State.eventOpen (s : State) (cls inst : Nat) (payload : List Byte) : State :=
  s.draw.event cls inst (s.drawn 8).toNat payload

/-- The 32 bytes of an event record (Table 14.5). -/
def EventRec.encode (r : EventRec) : List Byte :=
  leBytes 1 r.cls ++ leBytes 1 r.inst ++ leBytes 1 r.code ++ leBytes 1 (b2n r.lostBefore) ++ leBytes 2 r.seq
    ++ leBytes 2 r.lost ++ leBytes 8 r.time ++ r.payload

end Sys2Proof.Machine
end

