-- ==== Sys2Proof/Machine/Records.lean ====
section
/-! DEFINITION. Error records (R355, R362–R365): every error is counted, recorded and reported through `State.raise`. -/

namespace Sys2Proof.Machine

/-- Does a range lie wholly in usable DRAM or hub SRAM? -/
def inDramOrHub (asm : Assembly) (a n : Nat) : Bool :=
  n != 0 && (decide (a + n ≤ asm.dramSize) || (decide (hubBase ≤ a) && decide (a + n ≤ hubBase + hubSize)))

/-- R363: is the error ring set? -/
def State.errRingSet (s : State) : Bool :=
  let n := s.fld R.ERR_RING_SIZE [] 12 0
  let base := s.rdAddr R.ERR_RING_LO R.ERR_RING_HI []
  s.bit R.ERR_CTRL [] 0 && isPow2 n && decide (16 ≤ n) && decide (n ≤ 4096) && base % 32 == 0
    && inDramOrHub s.dev.assembly base (32 * n)

/-- The 32 bytes of an error record (Table 16.3). -/
def ErrRec.encode (r : ErrRec) : List Byte :=
  leBytes 4 r.seq ++ leBytes 1 r.cls ++ leBytes 1 r.code ++ leBytes 2 r.unit ++ leBytes 1 r.status
    ++ leBytes 1 (r.ctx.getD 0xFF) ++ leBytes 1 (match r.part with | some p => 128 + p | none => 0)
    ++ leBytes 1 (b2n r.loc.isSome + 2 * b2n r.lostBefore) ++ leBytes 4 r.suppressed ++ leBytes 8 r.time
    ++ leBytes 8 (r.loc.getD 0)

/-- A record goes to its ring entry (R363): a full ring loses its oldest record, and the record after that one carries
the flag. -/
def State.putErrRec (s : State) (r : ErrRec) : State :=
  let n := s.fld R.ERR_RING_SIZE [] 12 0
  let base := s.rdAddr R.ERR_RING_LO R.ERR_RING_HI []
  let fill := s.err.fill.getD 0
  let t := s.write (base + 32 * (r.seq % n)) { r with lostBefore := r.lostBefore || decide (n < fill) }.encode
  let t := t.poke R.ERR_RING_WR [] (BitVec.ofNat 32 (r.seq + 1))
  let t := if n ≤ fill then t.countSat R.ERR_RING_LOSS [] 1 R.ERR_CNT_OVF [] 4 else t
  (t.withErr { t.err with fill := some (fill + 1) })

/-- A new record is written to the ring, or held (at most 64), or lost, and then the next record carries the flag
(R363). -/
def State.recordErr (s : State) (r : ErrRec) : State :=
  let r := { r with lostBefore := s.err.lossFlag }
  if s.err.fill.isSome then (s.withErr { s.err with lossFlag := false }).putErrRec r
  else if s.err.held.length < 64 then
    (s.withErr { s.err with held := s.err.held ++ [r], lossFlag := false }).setFld R.ERR_STATUS [] 8 2
      (s.err.held.length + 1)
  else
    (s.withErr { s.err with lossFlag := true }).countSat R.ERR_RING_LOSS [] 1 R.ERR_CNT_OVF [] 4

/-- Write held records, oldest first. -/
def State.putHeld (s : State) : List ErrRec → State
  | [] => s
  | r :: rs => State.putHeld (s.putErrRec r) rs

/-- R363: after a change of the ring's registers. A ring that becomes set receives the held records; `ring_fault` follows
its condition. -/
def State.updateErrRing (s : State) : State :=
  let set := s.errRingSet
  let s := s.setBit R.ERR_STATUS [] 9 (s.bit R.ERR_CTRL [] 0 && !set)
  if set then
    if s.err.fill.isSome then s
    else
      let held := s.err.held
      (((s.withErr { s.err with fill := some 0, held := [] }).setFld R.ERR_STATUS [] 8 2 0).putHeld held)
  else s.withErr { s.err with fill := none }

/-- The counter of an error class (Table 16.8). -/
def State.countClass (s : State) (cls : Nat) : State :=
  match cls with
  | 0 => s.countSat R.ERR_CNT_CORR [] 1 R.ERR_CNT_OVF [] 0
  | 1 => s.countSat R.ERR_CNT_CONT [] 1 R.ERR_CNT_OVF [] 1
  | 2 => s.countSat R.ERR_CNT_PFATAL [] 1 R.ERR_CNT_OVF [] 2
  | _ => s.countSat R.ERR_CNT_DFATAL [] 1 R.ERR_CNT_OVF [] 3

/-- R364: the event of a record. -/
def State.errEvent (s : State) (r : ErrRec) : State :=
  if s.bit R.ERR_CTRL [] 1 && (r.cls != 0 || s.bit R.ERR_CTRL [] 3) then
    s.event 0x0D r.cls r.code
      (leBytes 4 r.seq ++ leBytes 1 r.status ++ leBytes 1 (r.ctx.getD 0xFF)
        ++ leBytes 1 (match r.part with | some p => 128 + p | none => 0) ++ leBytes 1 0 ++ leBytes 8 (r.loc.getD 0))
  else s

/-- What an error is (Table 16.3). -/
structure ErrInfo where
  cls : Nat
  code : Nat
  unit : Nat
  status : Nat := 0
  ctx : Option Nat := none
  part : Option Nat := none
  loc : Option Nat := none

/-- R365: is a class 0 error within the window that its unit and code opened? -/
def State.suppressedBy (s : State) (e : ErrInfo) : Option CeWindow :=
  let w := s.fld R.ERR_CE_WINDOW [] 15 0
  if e.cls = 0 ∧ w ≠ 0 then
    s.err.windows.find? fun x => x.unit == e.unit && x.code == e.code && decide (s.now < x.start + w * 1000000)
  else none

/-- Errors of the unit and code suppressed since their last record. -/
def State.suppressedCount (s : State) (e : ErrInfo) : Nat :=
  match s.err.windows.find? fun x => x.unit == e.unit && x.code == e.code with
  | some w => w.suppressed
  | none => 0

/-- Keep the suppression window of a unit and code. -/
def State.putWindow (s : State) (w : CeWindow) : State :=
  s.withErr { s.err with windows := upsert (fun x => x.unit == w.unit && x.code == w.code) w s.err.windows }

/-- An error occurs: it is counted by class, recorded (unless R365 suppresses it) and reported. -/
def State.raise (s : State) (e : ErrInfo) : State :=
  let s := s.countClass e.cls
  let s := if e.cls = 2 then s.setBit R.ERR_STATUS [] 1 true else s
  let s := if 2 ≤ e.cls then s.alert 1 else s
  match s.suppressedBy e with
  | some w => s.putWindow { w with suppressed := w.suppressed + 1 }
  | none =>
    let r : ErrRec :=
      { seq := ((s.rd R.ERR_RING_WR []).toNat + s.err.held.length) % 2 ^ 32, cls := e.cls, code := e.code, unit := e.unit,
        status := e.status, ctx := e.ctx, part := e.part, loc := e.loc, lostBefore := false,
        suppressed := s.suppressedCount e, time := s.now }
    let s := if e.cls = 0 then s.putWindow { unit := e.unit, code := e.code, start := s.now, suppressed := 0 } else s
    (s.recordErr r).errEvent r

/-- The unit code of a hub block (Table 16.3): its CFG base. -/
def hubUnit (base : Nat) : Nat := base / 2 ^ 14 * 8 % 65536

/-- The unit code of a place on a compute die (Table 16.3). -/
def computeUnit (d k place : Nat) : Nat := (d + 1) + 8 * place + 256 * k

/-- The unit code of a memory die (Table 16.3): 0 and 1 the stacks, 2 BWR, 3 die control. -/
def memUnit (die place : Nat) : Nat := (die + 3) + 8 * place

/-- R22: the stack of a DRAM address, numbered as ERR_CNT_DRAMCEs (0 M0 stack 0, 1 M0 stack 1, 2 M1 stack 0,
3 M1 stack 1). -/
def State.stackOf (s : State) (a : Nat) : Nat :=
  let n := a / 2 ^ s.img.granuleLog
  match s.dev.assembly.memDies with
  | 2 => match n % 4 with | 0 => 0 | 1 => 2 | 2 => 1 | _ => 3
  | _ => n % 2

/-- The unit code of the controller of a stack. -/
def stackUnit (st : Nat) : Nat := memUnit (st / 2) (st % 2)

/-- The unit that holds the memory of a DEV address (R355). -/
def State.unitOf (s : State) (a : Nat) : Nat :=
  match placeOf s.dev.assembly a with
  | .dram => stackUnit (s.stackOf a)
  | .cluster d k => computeUnit d k 20
  | .core d k c => computeUnit d k (bits (s.rd R.CLC_LMAP [d, k, c / 4]) (8 * (c % 4) + 4) (8 * (c % 4)))
  | _ => hubUnit 0x00800000

/-! ### Trace rings (R388) -/

/-- The next sequence number of a source in a ring. -/
def State.traceSeq (s : State) (ring source : Nat) : Nat :=
  match s.dbg.sequences.find? fun e => e.1 == ring && e.2.1 == source with
  | some e => e.2.2
  | none => 0

/-- Append a record to one ring. A full ring overwrites its oldest record. -/
def State.traceTo (s : State) (ring source word : Nat) (payload : List Byte) : State :=
  let size := 2 ^ s.fld R.TRC_RING_SIZE [ring] 4 0
  let wr := s.rd R.TRC_RING_WR [ring]
  let q := s.traceSeq ring source
  let rec32 := leBytes 1 source ++ leBytes 1 0 ++ leBytes 2 q ++ leBytes 4 word ++ leBytes 8 s.now
    ++ sliceBytes payload 0 16
  let full := decide (size ≤ (wr - s.rd R.TRC_RING_RD [ring]).toNat)
  let t := s.write (s.rdAddr R.TRC_RING_LO R.TRC_RING_HI [ring] + 32 * (wr.toNat % size)) rec32
  let t := t.poke R.TRC_RING_WR [ring] (wr + 1)
  let t := if full then t.countSat R.TRC_RING_LOSS [ring] 1 R.TRC_RING_CFG [ring] 30 else t
  (t.withDbg { t.dbg with
      sequences := upsert (fun e => e.1 == ring && e.2.1 == source) (ring, source, (q + 1) % 65536) t.dbg.sequences })

/-- Does a ring take records of a source, and, for the sources that its filter limits, of a context? -/
def State.traceTakes (s : State) (ring source : Nat) (ctx : Option Nat) : Bool :=
  s.bit R.TRC_RING_CFG [ring] 0 && s.bit R.TRC_RING_CFG [ring] source &&
    match ctx with
    | some c => natBit (s.rd64 R.TRC_RING_CTX_LO R.TRC_RING_CTX_HI [ring]) c
    | none => true

/-- A trace record (Table 17.8): bytes 4–7 and the payload. -/
def State.trace (s : State) (source : Nat) (ctx : Option Nat) (word : Nat) (payload : List Byte) : State :=
  let s := if s.traceTakes 0 source ctx then s.traceTo 0 source word payload else s
  if s.traceTakes 1 source ctx then s.traceTo 1 source word payload else s

/-- Bytes 4–7 of a record of sources 1–5 and 9. -/
def traceWord (queue ctx core : Nat) : Nat := queue % 2 ^ 14 + 2 ^ 16 * (ctx % 64) + 2 ^ 24 * (core % 64)

/-! ### Global counters (R382) -/

/-- One global counter counts `n`; a wrap sets its bit of PMC_OVF and, with `ovf_evt` = 1, sends event 0x08. -/
def State.pmcOne (s : State) (i n : Nat) : State :=
  let v := (s.rd R.PMC_CNT [i]).toNat + n
  let s := s.poke R.PMC_CNT [i] (BitVec.ofNat 32 v)
  if v < 2 ^ 32 then s
  else
    let s := s.setBit R.PMC_OVF [] i true
    if s.bit R.PMC_CNT_SEL [i] 21 then s.event 0x0E 0 0x08 (leBytes 1 i) else s

/-- Does a global counter count a unit's event, of a partition where one is charged? -/
def State.pmcTakes (s : State) (kind unit event : Nat) (part : Option Nat) (i : Nat) : Bool :=
  s.fld R.PMC_CNT_SEL [i] 3 0 == kind && s.fld R.PMC_CNT_SEL [i] 11 4 == unit && s.fld R.PMC_CNT_SEL [i] 15 12 == event
    && (!s.bit R.PMC_CNT_SEL [i] 20 || part == some (s.fld R.PMC_CNT_SEL [i] 19 16))

/-- `n` events of Table 17.5 of a unit. -/
def State.pmcAdd (s : State) (kind unit event : Nat) (part : Option Nat) (n : Nat) : State :=
  if s.bit R.PMC_CTRL [] 0 then
    ((rangeFrom 0 32).filter (s.pmcTakes kind unit event part)).foldl (fun s i => s.pmcOne i n) s
  else s

/-- The code of an uncorrectable error at a DEV address (R355): 0x03 in DRAM, 0x05 on chip. -/
def State.codeOf (s : State) (a : Nat) : Nat := if placeOf s.dev.assembly a = .dram then 0x03 else 0x05

end Sys2Proof.Machine
end

