-- ==== Sys2Proof/Machine/Access.lean ====
section
/-! DEFINITION. Who may reach what: contexts and their partition (R253, R254), the shares of a slot (R103), and the check
of every DEV access made on behalf of a context (R20, R23). -/

namespace Sys2Proof.Machine

/-! ### Contexts and partitions -/

/-- The partition of a context. -/
def State.ctxPart (s : State) (c : Nat) : Nat := s.fld R.SCH_CTX_CFG [c] 3 0

/-- R253: is the context valid? -/
def State.ctxValid (s : State) (c : Nat) : Bool := s.bit R.SCH_CTX_CFG [c] 4

/-- R254: is the context resident? -/
def State.ctxResident (s : State) (c : Nat) : Bool := s.bit R.SCH_CTX_CFG [c] 5

/-- R254: the slot index that a resident context owns. -/
def State.ctxResSlot (s : State) (c : Nat) : Nat := s.fld R.SCH_CTX_CFG [c] 7 6

/-- R272: is the context torn down? -/
def State.ctxDown (s : State) (c : Nat) : Bool := s.bit R.SCH_CTX_STATUS [c] 0

/-- The contexts of a partition. -/
def State.partCtxs (s : State) (p : Nat) : List Nat :=
  (rangeFrom 0 64).filter fun c => s.ctxValid c && s.ctxPart c == p

/-- Is a partition in reproducible mode (R118)? -/
def State.reproducible (s : State) (p : Nat) : Bool := s.bit R.SCH_PART_CFG [p] 4

/-- Is a partition in static-schedule mode (R121)? -/
def State.isStatic (s : State) (p : Nat) : Bool := s.bit R.SCH_PART_CFG [p] 5

/-- Does the image allow a partition this priority? -/
def State.prioAllowed (s : State) (p prio : Nat) : Bool := decide (prio < 4) && s.bit R.SCH_PART_CFG [p] prio

/-! ### Cores and slots -/

/-- The number of a logical core: 128 × die + 16 × cluster + core. -/
def coreId (c : CoreName) : Nat := 128 * c.die.val + 16 * c.cluster.val + c.core.val

/-- The byte of CLC_LMAP for a logical core: physical slot in [4:0], absent in [7]. -/
def State.lmapByte (s : State) (core : Nat) : Nat :=
  s.fld R.CLC_LMAP [core / 128, core / 16 % 8, core % 16 / 4] (8 * (core % 4) + 7) (8 * (core % 4))

/-- The physical slot behind a logical core. -/
def State.physOf (s : State) (core : Nat) : Nat := s.lmapByte core % 32

/-- R29: is the logical core absent? -/
def State.coreAbsent (s : State) (core : Nat) : Bool := natBit (s.lmapByte core) 7

/-- The register indices of the physical slot behind a logical core. -/
def State.coreIx (s : State) (core : Nat) : List Nat := [core / 128, core / 16 % 8, s.physOf core]

/-- R361: has the cluster of a core been withdrawn? BRG_CLU_ABSENT bit 8d + k. -/
def State.clusterAbsent (s : State) (d k : Nat) : Bool := s.bit R.BRG_CLU_ABSENT [] (8 * d + k)

/-- The shares of one slot of a core (Tables 4.7). -/
structure SlotShare where
  memBase : Nat
  memUnits : Nat
  insBase : Nat
  insUnits : Nat
  hamBase : Nat
  hamCount : Nat
  accBase : Nat
  accUnits : Nat
  part : Nat
  valid : Bool
  deriving DecidableEq, Repr

/-- The shares as a physical slot's registers give them. -/
def State.shareAt (s : State) (d k j i : Nat) : SlotShare :=
  let m := s.rd R.CORE_SLOT_MEM [d, k, j, i]
  let e := s.rd R.CORE_SLOT_EXE [d, k, j, i]
  { memBase := bits m 4 0, memUnits := bits m 12 8, insBase := bits m 19 16, insUnits := bits m 27 24,
    hamBase := bits e 4 0, hamCount := bits e 13 8, accBase := bits e 18 16, accUnits := bits e 23 20,
    part := bits e 27 24, valid := bits e 31 31 == 1 }

/-- The shares of slot `i` of a logical core. -/
def State.share (s : State) (core i : Nat) : SlotShare := s.shareAt (core / 128) (core / 16 % 8) (s.physOf core) i

/-- R103: do two shares of a core overlap? -/
def SlotShare.clash (a b : SlotShare) : Bool :=
  rangesMeet (a.memBase, a.memUnits) (b.memBase, b.memUnits) || rangesMeet (a.insBase, a.insUnits) (b.insBase, b.insUnits)
    || rangesMeet (a.hamBase, a.hamCount) (b.hamBase, b.hamCount)
    || rangesMeet (a.accBase, a.accUnits) (b.accBase, b.accUnits)

/-- R103: does a valid slot's share overlap that of another valid slot of its core? -/
def State.slotFault (s : State) (core i : Nat) : Bool :=
  (s.share core i).valid && (rangeFrom 0 4).any fun j =>
    j != i && (s.share core j).valid && (s.share core i).clash (s.share core j)

/-- The logical cores that are present, in logical ID order. -/
def State.coresPresent (s : State) : List Nat :=
  (rangeFrom 0 (128 * s.dev.assembly.computeDies)).filter fun c =>
    !s.coreAbsent c && !s.clusterAbsent (c / 128) (c / 16 % 8)

/-- R25: the cores of a partition: those on which it holds at least one slot. -/
def State.partCores (s : State) (p : Nat) : List Nat :=
  s.coresPresent.filter fun c => (rangeFrom 0 4).any fun i => (s.share c i).valid && (s.share c i).part == p

/-- R254: is slot index `i` owned by a resident context of the partition? -/
def State.slotResident (s : State) (p i : Nat) : Bool :=
  (s.partCtxs p).any fun c => s.ctxResident c && s.ctxResSlot c == i

/-- R254: may tasks of context `c` run on slot `i` of a core? -/
def State.ctxMayUse (s : State) (c core i : Nat) : Bool :=
  let sh := s.share core i
  sh.valid && sh.part == s.ctxPart c
    && (if s.ctxResident c then i == s.ctxResSlot c else !s.slotResident (s.ctxPart c) i)

/-! ### The check of R23 -/

/-- Is every byte of a range in some region of the list? Each step of the walk goes to the end of a region that holds the
first byte left. -/
def coveredBy (rs : List Region) : Nat → Nat → Nat → Bool
  | 0, _, n => n == 0
  | fuel + 1, a, n =>
    n == 0 ||
      match leastBy (fun r => [2 ^ 64 - (r.base + r.size)])
          (rs.filter fun r => decide (r.base ≤ a) && decide (a < r.base + r.size)) with
      | none => false
      | some r => coveredBy rs fuel (r.base + r.size) (n - (r.base + r.size - a))

/-- R23: do the regions of a partition cover a range with a permission? -/
def State.regionsCover (s : State) (p a n : Nat) (write : Bool) : Bool :=
  let rs := s.img.regions.filter fun r => r.part == p && (if write then r.write else r.read)
  coveredBy rs (rs.length + 1) a n

/-- R167: does a range of cluster memory lie in the partition's share (64 KiB units of CLC_CSHARE)? -/
def State.clusterShareHolds (s : State) (p d k a n : Nat) : Bool :=
  let v := s.rd R.CLC_CSHARE [d, k, p]
  let lo := clusterBase d k + 65536 * bits v 7 0
  decide (lo ≤ a) && decide (a + n ≤ lo + 65536 * bits v 15 8)

/-- R23: does a range of core memory lie in the share of one slot that the context may use? -/
def State.coreShareHolds (s : State) (c d k core a n : Nat) : Bool :=
  let id := 128 * d + 16 * k + core
  (rangeFrom 0 4).any fun i =>
    s.ctxMayUse c id i &&
      let lo := coreMemBase d k core + 65536 * (s.share id i).memBase
      decide (lo ≤ a) && decide (a + n ≤ lo + 65536 * (s.share id i).memUnits)

/-- R299: can the blocks of the hub and the compute dies reach a range of DRAM: are `links` and the DRAM bits of its memory dies set? -/
def State.dramReady (s : State) (a n : Nat) : Bool :=
  let g := 2 ^ s.img.granuleLog
  s.bit R.BRG_READY [] 13 &&
    (rangeFrom (a / g) (min s.dev.assembly.stacks ((a + n - 1) / g + 1 - a / g))).all fun i =>
      s.bit R.BRG_READY [] (14 + s.stackOf (i * g) / 2)

/-- R20, R23: may a context make this access to `n` bytes from `a`? -/
def State.regionOk (s : State) (c a n : Nat) (write : Bool) : Bool :=
  populated s.dev.assembly a n &&
    match placeOf s.dev.assembly a with
    | .dram => s.regionsCover (s.ctxPart c) a n write
    | .hub => s.regionsCover (s.ctxPart c) a n write
    | .cluster d k => s.clusterShareHolds (s.ctxPart c) d k a n
    | .core d k core => s.coreShareHolds c d k core a n
    | .unpopulated => false

/-- Is an access by a context granted (R23), and can it reach the memory (R299)? -/
def State.accessOk (s : State) (c a n : Nat) (write : Bool) : Bool :=
  s.regionOk c a n write && (placeOf s.dev.assembly a != .dram || s.dramReady a n)

/-- The outcome of a read by a context: its bytes, or the status that ends the reader and, for an uncorrectable error,
its address. -/
inductive ReadResult where
  | ok (bs : List Byte)
  | denied
  | uncorrectable (addr : Nat)
  deriving DecidableEq, Repr

/-- A checked read. -/
def State.readFor (s : State) (c a n : Nat) : ReadResult :=
  if s.accessOk c a n false then
    match s.readError a n with
    | none => .ok (s.bytes a n)
    | some w => .uncorrectable w
  else .denied

/-- The outcome of a write by a context. -/
inductive WriteResult where
  | ok (s : State)
  | denied
  | uncorrectable (addr : Nat)
  deriving DecidableEq, Repr

/-- A checked write: denied, it has no effect. -/
def State.writeFor (s : State) (c a : Nat) (bs : List Byte) : WriteResult :=
  if s.accessOk c a bs.length true then
    match s.writeError a bs.length with
    | none => .ok (s.write a bs)
    | some w => .uncorrectable w
  else .denied

/-! ### Accesses of a task -/

/-- A result, or the status that ends the task with the address of the error. -/
abbrev Try (α : Type) := Except (Nat × Option Nat) α

/-- A read for a context, or the status that ends its task (R117). -/
def State.tryRead (s : State) (ctx a n : Nat) : Try (List Byte) :=
  match s.readFor ctx a n with
  | .ok bs => .ok bs
  | .denied => .error (0x13, none)
  | .uncorrectable e => .error (0x11, some e)

/-- A write for a context. -/
def State.tryWrite (s : State) (ctx a : Nat) (bs : List Byte) : Try State :=
  match s.writeFor ctx a bs with
  | .ok t => .ok t
  | .denied => .error (0x13, none)
  | .uncorrectable e => .error (0x11, some e)

end Sys2Proof.Machine
end

