-- ==== Sys2Proof/Machine/Sparing.lean ====
section
/-! DEFINITION. Physical slots behind logical cores (R21, R29, R127), and what the rambler keeps from the scheduler (R315,
R318, R319). -/

namespace Sys2Proof.Machine

/-! ### Logical and physical cores -/

/-- The number of a physical slot: 17 × (8 × die + cluster) + slot. -/
def siteOf (d k j : Nat) : Nat := 17 * (8 * d + k) + j

/-- The logical core that a physical slot serves. -/
def State.logicalAt (s : State) (d k j : Nat) : Option Nat :=
  (rangeFrom 0 16).find? fun c =>
    let id := 128 * d + 16 * k + c
    !s.coreAbsent id && s.physOf id == j

/-- Has a physical slot failed? -/
def State.siteFailed (s : State) (d k j : Nat) : Bool := s.brg.failed.contains (siteOf d k j)

/-- A physical slot is marked failed. -/
def State.failSite (s : State) (d k j : Nat) : State :=
  if s.siteFailed d k j then s else s.withBrg { s.brg with failed := s.brg.failed ++ [siteOf d k j] }

/-- Is the spare of a cluster free: it has passed, and serves no logical core? -/
def State.spareFree (s : State) (d k : Nat) : Bool := !s.siteFailed d k 16 && (s.logicalAt d k 16).isNone

/-- Give a logical core a physical slot in CLC_LMAP. -/
def State.mapCore (s : State) (core j : Nat) : State :=
  s.setFld R.CLC_LMAP [core / 128, core / 16 % 8, core % 16 / 4] (8 * (core % 4) + 7) (8 * (core % 4)) j

/-- Mark a logical core absent (R29). -/
def State.absentCore (s : State) (core : Nat) : State :=
  s.setBit R.CLC_LMAP [core / 128, core / 16 % 8, core % 16 / 4] (8 * (core % 4) + 7) true

/-- The slot registers of a physical slot: CORE_SLOT_MEM and CORE_SLOT_EXE of each slot. -/
def State.slotRegs (s : State) (d k j : Nat) : List Word :=
  ((rangeFrom 0 4).map fun i => [s.rd R.CORE_SLOT_MEM [d, k, j, i], s.rd R.CORE_SLOT_EXE [d, k, j, i]]).flatten

/-- Give a physical slot these slot registers. -/
def State.putSlotRegs (s : State) (d k j : Nat) (ws : List Word) : State :=
  (rangeFrom 0 4).foldl (fun (s : State) i =>
    (s.poke R.CORE_SLOT_MEM [d, k, j, i] (ws.getD (2 * i) 0)).poke R.CORE_SLOT_EXE [d, k, j, i] (ws.getD (2 * i + 1) 0)) s

/-- The physical slot behind a logical core, by number. -/
def State.siteAt (s : State) (core : Nat) : Nat := siteOf (core / 128) (core / 16 % 8) (s.physOf core)

/-- What the core memory of a physical slot holds, by offset: at the DEV addresses of the logical core that it serves, or aside. -/
def State.siteMem (s : State) (d k j : Nat) : List Host.Cell :=
  match s.logicalAt d k j with
  | some c => s.cellsIn (coreMemBase d k c) 0x180000
  | none => match s.brg.shelf.find? fun e => e.1 == siteOf d k j with | some e => e.2 | none => []

/-- Keep what the core memory of a physical slot holds. -/
def State.keepSiteMem (s : State) (d k j : Nat) (cells : List Host.Cell) : State :=
  match s.logicalAt d k j with
  | some c => (s.wipe (coreMemBase d k c) 0x180000).putCellsAt (coreMemBase d k c) cells
  | none => s.withBrg { s.brg with shelf := upsert (fun e => e.1 == siteOf d k j) (siteOf d k j, cells) s.brg.shelf }

/-- The code images that a physical slot holds go along with the live slots of a logical core that moves. -/
def State.moveCode (s : State) (src dst : Nat) (live : List Nat) : State :=
  let mine := (s.sch.code.filter fun e => e.site == src && live.contains e.idx).map fun e => { e with site := dst }
  s.withSch { s.sch with code := s.sch.code.filter (fun e => !(e.site == dst && live.contains e.idx)) ++ mine }

/-- A logical core is given another physical slot of its cluster: the state of its live slots is copied, and each slot without a live
task finds what the other physical slot holds (R315). -/
def State.remapCore (s : State) (core j : Nat) : State :=
  let d := core / 128
  let k := core / 16 % 8
  let j0 := s.physOf core
  let base := coreMemBase d k (core % 16)
  let live := (s.sch.slots.filter fun x => x.core == core).map (·.idx)
  let goes (o : Nat) : Bool := live.any fun i =>
    let sh := s.share core i
    decide (65536 * sh.memBase ≤ o) && decide (o < 65536 * (sh.memBase + sh.memUnits))
  let old := s.cellsIn base 0x180000
  let new := s.siteMem d k j
  let s := (s.moveCode (siteOf d k j0) (siteOf d k j) live).mapCore core j
  let s := (s.wipe base 0x180000).putCellsAt base (new.filter (fun c => !goes c.1) ++ old.filter fun c => goes c.1)
  s.keepSiteMem d k j0 old

/-- What the arrays of a physical slot hold after MBIST is what they hold before anything is written (log 7). -/
def State.clearSite (s : State) (site : Nat) : State :=
  let s := s.withBrg { s.brg with shelf := s.brg.shelf.filter fun e => e.1 != site }
  s.withSch { s.sch with
    rest := s.sch.rest.filter fun e => e.1 != site
    code := s.sch.code.filter fun e => e.site != site }

/-- R127: the slot registers of its physical slot are copied to another, and the logical core follows. -/
def State.moveCore (s : State) (core j : Nat) : State :=
  let d := core / 128
  let k := core / 16 % 8
  (s.putSlotRegs d k j (s.slotRegs d k (s.physOf core))).remapCore core j

/-! ### The rambler -/

/-- BRG_RAM_STATUS `state`: 0 idle, 1 waiting for slack, 2 moving, 3 testing, 4 waiting to return, 5 returning. -/
def State.ramState (s : State) : Nat := s.fld R.BRG_RAM_STATUS [] 2 0

/-- R316: is a core the source or the destination of a move under way? -/
def State.ramMoving (s : State) (core : Nat) : Bool :=
  (s.ramState == 2 || s.ramState == 5) && (s.brg.rambler.logical == some core || s.brg.rambler.donor == some core)

/-- R316, R318, R319: does the rambler keep new work from a core? -/
def State.ramHolds (s : State) (core : Nat) : Bool :=
  s.ramMoving core || s.brg.rambler.donor == some core
    || (!s.brg.rambler.serving.isEmpty && s.brg.rambler.logical == some core)

/-- R319: once the moved tasks have completed, a donor resumes its own ID and the target's logical core is absent. -/
def State.donorResume (s : State) : State :=
  let r := s.brg.rambler
  match r.donor, r.logical with
  | some dn, some core =>
    if s.ramState = 0 ∧ r.serving = [] then
      let s := s.putSlotRegs (dn / 128) (dn / 16 % 8) (s.physOf dn) r.saved
      let s := (s.absentCore core).setBit R.BRG_RAM_STATUS [] 17 false
      (s.withBrg { s.brg with rambler := { r with donor := none, logical := none, saved := [] } })
    else s
  | _, _ => s

end Sys2Proof.Machine
end

