-- ==== Sys2Proof/Machine/Float.lean ====
section
/-! DEFINITION. Number formats and their arithmetic, exact to the bit (R128–R137): values are decoded to exact numbers,
computed exactly and rounded once. -/

namespace Sys2Proof.Machine

/-! ### Formats (Table 5.1) -/

/-- A floating-point format: exponent bits, mantissa bits, bias, and whether it has infinities. -/
structure Fmt where
  ebits : Nat
  mbits : Nat
  bias : Nat
  hasInf : Bool
  deriving DecidableEq, Repr

/-- FP32. -/
def fp32 : Fmt := ⟨8, 23, 127, true⟩
/-- FP16. -/
def fp16 : Fmt := ⟨5, 10, 15, true⟩
/-- BF16. -/
def bf16 : Fmt := ⟨8, 7, 127, true⟩
/-- FP8 E4M3. -/
def e4m3 : Fmt := ⟨4, 3, 7, false⟩
/-- FP8 E5M2. -/
def e5m2 : Fmt := ⟨5, 2, 15, true⟩

/-- An exact value: a finite one is ± mant × 2^exp. Zeros keep their sign. -/
inductive Fl where
  | nan
  | inf (neg : Bool)
  | fin (neg : Bool) (mant : Nat) (exp : Int)
  deriving DecidableEq, Repr

/-- The canonical NaN of a format (R129). -/
def Fmt.nanCode (f : Fmt) : Nat :=
  if f.hasInf then (2 ^ f.ebits - 1) * 2 ^ f.mbits + 2 ^ (f.mbits - 1) else 2 ^ (f.ebits + f.mbits) - 1

/-- The code of an infinity. -/
def Fmt.infCode (f : Fmt) (neg : Bool) : Nat := b2n neg * 2 ^ (f.ebits + f.mbits) + (2 ^ f.ebits - 1) * 2 ^ f.mbits

/-- The code of the largest finite magnitude (Table 5.1). -/
def Fmt.maxCode (f : Fmt) : Nat := if f.hasInf then f.infCode false - 1 else 2 ^ (f.ebits + f.mbits) - 2

/-- The exact value of a code (R128). -/
def Fmt.decode (f : Fmt) (code : Nat) : Fl :=
  let m := code % 2 ^ f.mbits
  let e := code / 2 ^ f.mbits % 2 ^ f.ebits
  let neg := natBit code (f.ebits + f.mbits)
  if f.hasInf && e == 2 ^ f.ebits - 1 then (if m = 0 then .inf neg else .nan)
  else if !f.hasInf && e == 2 ^ f.ebits - 1 && m == 2 ^ f.mbits - 1 then .nan
  else if e = 0 then .fin neg m (1 - (f.bias : Int) - f.mbits)
  else .fin neg (m + 2 ^ f.mbits) ((e : Int) - f.bias - f.mbits)

/-- The exact value of an INT8 or INT32 number. -/
def flOfInt (i : Int) : Fl := .fin (decide (i < 0)) i.natAbs 0

/-! ### Rounding (R134, R136) -/

/-- Rounding modes (Table 5.2); SR carries its 16-bit random value. -/
inductive Rounding where
  | rne | rtz | rdn | rup
  | sr (r16 : Nat)
  deriving DecidableEq, Repr

/-- Does a magnitude `n + rem / den` round up? -/
def roundsUp (mode : Rounding) (neg : Bool) (n rem den : Nat) : Bool :=
  match mode with
  | .rne => decide (den < 2 * rem) || (2 * rem == den && n % 2 == 1)
  | .rtz => false
  | .rdn => neg && rem != 0
  | .rup => !neg && rem != 0
  | .sr r16 => decide (65536 ≤ rem * 65536 / den + r16)

/-- floor(log2 (num / den)) for positive numbers. -/
def ratLog2 (num den : Nat) : Int :=
  let l : Int := (num.log2 : Int) - den.log2
  let big := if 0 ≤ l then decide (den * 2 ^ l.toNat ≤ num) else decide (den ≤ num * 2 ^ (-l).toNat)
  if big then l else l - 1

/-- What a conversion gives for a finite overflow (Table 5.3). -/
def Fmt.overflow (f : Fmt) (mode : Rounding) (sat neg : Bool) : Nat :=
  let largest := b2n neg * 2 ^ (f.ebits + f.mbits) + f.maxCode
  if sat then largest
  else if !f.hasInf then f.nanCode
  else
    match mode with
    | .rne => f.infCode neg
    | .rtz => largest
    | .rdn => if neg then f.infCode true else largest
    | .rup => if neg then largest else f.infCode false
    | .sr _ => largest

/-- The magnitude num / den rounded to a place of the format, as a code with no upper bound. -/
def Fmt.roundMag (f : Fmt) (mode : Rounding) (neg : Bool) (num den : Nat) : Nat :=
  if num = 0 then 0
  else
    let q : Int := max (ratLog2 num den - f.mbits) (1 - (f.bias : Int) - f.mbits)
    let num' := if 0 ≤ q then num else num * 2 ^ (-q).toNat
    let den' := if 0 ≤ q then den * 2 ^ q.toNat else den
    let n := num' / den'
    let n := if roundsUp mode neg n (num' % den') den' then n + 1 else n
    let field := (q - (1 - (f.bias : Int) - f.mbits)).toNat
    if n < 2 ^ f.mbits then n else field * 2 ^ f.mbits + n

/-- Round ± num / den to a format. -/
def Fmt.round (f : Fmt) (mode : Rounding) (sat neg : Bool) (num den : Nat) : Nat :=
  let code := f.roundMag mode neg num den
  if f.maxCode < code then f.overflow mode sat neg else b2n neg * 2 ^ (f.ebits + f.mbits) + code

/-- The fraction of a magnitude m × 2^e. -/
def ratNum (m : Nat) (e : Int) : Nat := if 0 ≤ e then m * 2 ^ e.toNat else m
def ratDen (e : Int) : Nat := if 0 ≤ e then 1 else 2 ^ (-e).toNat

/-- Does the range of a format alter a value under Table 5.3? -/
def Fmt.alters (f : Fmt) (mode : Rounding) (sat : Bool) : Fl → Bool
  | .nan => false
  | .inf _ => sat || !f.hasInf
  | .fin neg m e => decide (f.maxCode < f.roundMag mode neg (ratNum m e) (ratDen e))

/-- Round an exact value to a format (R135). -/
def Fmt.encode (f : Fmt) (mode : Rounding) (sat : Bool) : Fl → Nat
  | .nan => f.nanCode
  | .inf neg =>
    if f.hasInf && !sat then f.infCode neg
    else if sat then b2n neg * 2 ^ (f.ebits + f.mbits) + f.maxCode
    else f.nanCode
  | .fin neg m e => f.round mode sat neg (ratNum m e) (ratDen e)

/-- A finite value rounded to an integer. -/
def roundInt (mode : Rounding) (neg : Bool) (m : Nat) (e : Int) : Int :=
  let num := ratNum m e
  let den := ratDen e
  let n := num / den
  let n := if roundsUp mode neg n (num % den) den then n + 1 else n
  if neg then -(n : Int) else n

/-- Round an exact value to an integer range; NaN gives 0 (Table 5.3). -/
def intOfFl (mode : Rounding) (lo hi : Int) : Fl → Int
  | .nan => 0
  | .inf neg => if neg then lo else hi
  | .fin neg m e => clampInt lo hi (roundInt mode neg m e)

/-- Does an integer range alter a value under Table 5.3? -/
def intAlters (mode : Rounding) (lo hi : Int) : Fl → Bool
  | .fin neg m e => let i := roundInt mode neg m e; decide (i < lo) || decide (hi < i)
  | _ => true

/-! ### Exact arithmetic on values -/

/-- A signed mantissa. -/
def signedMant (neg : Bool) (m : Nat) : Int := if neg then -(m : Int) else m

/-- The exact sum. A zero sum is +0 unless both terms are −0 (IEEE 754, RNE). -/
def Fl.add : Fl → Fl → Fl
  | .nan, _ => .nan
  | _, .nan => .nan
  | .inf a, .inf b => if a = b then .inf a else .nan
  | .inf a, _ => .inf a
  | _, .inf b => .inf b
  | .fin na ma ea, .fin nb mb eb =>
    if ma = 0 ∧ mb = 0 then .fin (na && nb) 0 0
    else
      let e := min ea eb
      let i := signedMant na ma * 2 ^ (ea - e).toNat + signedMant nb mb * 2 ^ (eb - e).toNat
      .fin (decide (i < 0)) i.natAbs e

/-- The exact product. -/
def Fl.mul : Fl → Fl → Fl
  | .nan, _ => .nan
  | _, .nan => .nan
  | .inf a, .inf b => .inf (a != b)
  | .inf a, .fin b m _ => if m = 0 then .nan else .inf (a != b)
  | .fin a m _, .inf b => if m = 0 then .nan else .inf (a != b)
  | .fin na ma ea, .fin nb mb eb => .fin (na != nb) (ma * mb) (ea + eb)

/-- The opposite value. -/
def Fl.neg : Fl → Fl
  | .nan => .nan
  | .inf n => .inf !n
  | .fin n m e => .fin (!n) m e

/-- The magnitude. -/
def Fl.abs : Fl → Fl
  | .nan => .nan
  | .inf _ => .inf false
  | .fin _ m e => .fin false m e

/-- Is it a NaN? -/
def Fl.isNan : Fl → Bool
  | .nan => true
  | _ => false

/-- Is it finite? -/
def Fl.isFinite : Fl → Bool
  | .fin _ _ _ => true
  | _ => false

/-- Is it ±0? -/
def Fl.isZero : Fl → Bool
  | .fin _ m _ => m == 0
  | _ => false

/-- Less than, on values that are not NaN; zeros are equal. -/
def Fl.lt : Fl → Fl → Bool
  | .nan, _ => false
  | _, .nan => false
  | .inf a, .inf b => a && !b
  | .inf a, .fin _ _ _ => a
  | .fin _ _ _, .inf b => !b
  | .fin na ma ea, .fin nb mb eb =>
    let e := min ea eb
    decide (signedMant na ma * 2 ^ (ea - e).toNat < signedMant nb mb * 2 ^ (eb - e).toNat)

/-- Equality of values; zeros are equal, NaN equals nothing. -/
def Fl.eq (a b : Fl) : Bool := !a.isNan && !b.isNan && !a.lt b && !b.lt a

/-! ### FP32 operations, each rounded RNE (R129) -/

/-- The value of an FP32 word. -/
def flOf (w : Word) : Fl := fp32.decode w.toNat

/-- An exact value rounded RNE to FP32. -/
def toFp32 (v : Fl) : Word := BitVec.ofNat 32 (fp32.encode .rne false v)

/-- FP32 addition. -/
def fadd (a b : Word) : Word := toFp32 ((flOf a).add (flOf b))
/-- FP32 subtraction. -/
def fsub (a b : Word) : Word := toFp32 ((flOf a).add (flOf b).neg)
/-- FP32 multiplication. -/
def fmul (a b : Word) : Word := toFp32 ((flOf a).mul (flOf b))
/-- FP32 fused multiply-add. -/
def ffma (a b c : Word) : Word := toFp32 (((flOf a).mul (flOf b)).add (flOf c))

/-- Division rounded RNE, with the special cases of R129. -/
def fdivFl (a b : Fl) : Word :=
  match a, b with
  | .nan, _ => toFp32 .nan
  | _, .nan => toFp32 .nan
  | .inf _, .inf _ => toFp32 .nan
  | .inf x, .fin y _ _ => toFp32 (.inf (x != y))
  | .fin x _ _, .inf y => toFp32 (.fin (x != y) 0 0)
  | .fin x ma ea, .fin y mb eb =>
    if mb = 0 then (if ma = 0 then toFp32 .nan else toFp32 (.inf (x != y)))
    else
      let e := ea - eb
      BitVec.ofNat 32 (if 0 ≤ e then fp32.round .rne false (x != y) (ma * 2 ^ e.toNat) mb
        else fp32.round .rne false (x != y) ma (mb * 2 ^ (-e).toNat))

/-- FP32 division. -/
def fdiv (a b : Word) : Word := fdivFl (flOf a) (flOf b)

/-- FP32 reciprocal. -/
def frcp (a : Word) : Word := fdivFl (.fin false 1 0) (flOf a)

/-- floor(sqrt n), bit by bit: `fuel` bits of result. -/
def isqrtLoop (n : Nat) : Nat → Nat → Nat
  | 0, r => r
  | k + 1, r => if (r + 2 ^ k) * (r + 2 ^ k) ≤ n then isqrtLoop n k (r + 2 ^ k) else isqrtLoop n k r

/-- floor(sqrt n). -/
def isqrt (n : Nat) : Nat := isqrtLoop n (n.log2 / 2 + 1) 0

/-- FP32 square root, correctly rounded. -/
def fsqrt (a : Word) : Word :=
  match flOf a with
  | .nan => toFp32 .nan
  | .inf neg => if neg then toFp32 .nan else toFp32 (.inf false)
  | .fin neg m e =>
    if m = 0 then a
    else if neg then toFp32 .nan
    else
      -- an even exponent, and 64 bits more than the result needs; an inexact root keeps a sticky half
      let odd := e % 2 != 0
      let m' := (if odd then 2 * m else m) * 2 ^ 64
      let e' := ((if odd then e - 1 else e) - 64) / 2
      let r := isqrt m'
      let sticky := b2n (r * r != m')
      toFp32 (.fin false (2 * r + sticky) (e' - 1))

/-- FP32 reciprocal square root, correctly rounded. -/
def frsqrt (a : Word) : Word :=
  match flOf a with
  | .nan => toFp32 .nan
  | .inf neg => if neg then toFp32 .nan else toFp32 (.fin false 0 0)
  | .fin neg m e =>
    if m = 0 then toFp32 (.inf neg)
    else if neg then toFp32 .nan
    else
      let odd := e % 2 != 0
      let m' := if odd then 2 * m else m
      let e' := if odd then e - 1 else e
      let num := 2 ^ 128
      let r := isqrt (num / m')
      let sticky := b2n (r * r * m' != num)
      toFp32 (.fin false (2 * r + sticky) (-64 - e' / 2 - 1))

/-- The larger operand, +0 over −0; a NaN gives the canonical NaN (R96). -/
def fmax (a b : Word) : Word :=
  if (flOf a).isNan || (flOf b).isNan then toFp32 .nan
  else if (flOf a).lt (flOf b) then b
  else if (flOf b).lt (flOf a) then a
  else a &&& b

/-- The smaller operand, −0 under +0; a NaN gives the canonical NaN. -/
def fmin (a b : Word) : Word :=
  if (flOf a).isNan || (flOf b).isNan then toFp32 .nan
  else if (flOf a).lt (flOf b) then a
  else if (flOf b).lt (flOf a) then b
  else a ||| b

/-- The magnitude of an FP32 word; a NaN gives the canonical NaN. -/
def fabs (a : Word) : Word := if (flOf a).isNan then toFp32 .nan else a &&& 0x7FFFFFFF

/-- A non-negative ratio of naturals rounded RNE to FP32. -/
def fp32OfRat (neg : Bool) (num den : Nat) : Word := BitVec.ofNat 32 (fp32.round .rne false neg num den)

/-- An integer rounded RNE to FP32. -/
def fp32OfInt (i : Int) : Word := fp32OfRat (decide (i < 0)) i.natAbs 1

/-- floor of a finite value. -/
def Fl.floor : Fl → Int
  | .fin neg m e =>
    let i := signedMant neg m
    if 0 ≤ e then i * 2 ^ e.toNat else i / (2 ^ (-e).toNat : Nat)
  | _ => 0

/-! ### Stochastic rounding draws (R137) -/

/-- The mixing function of R137. -/
def mix32 (x : Word) : Word :=
  let x := (x ^^^ (x >>> 16)) * 0x85EBCA6B
  let x := (x ^^^ (x >>> 13)) * 0xC2B2AE35
  x ^^^ (x >>> 16)

/-- The seed of a thread or engine lane. -/
def laneSeed (pseed : DWord) (seq index : Word) : Word :=
  mix32 (pseed.setWidth 32 ^^^ mix32 ((pseed >>> 32).setWidth 32 ^^^ mix32 (seq ^^^ mix32 index)))

/-- Draw number `i`; its low 16 bits are r16. -/
def laneDraw (seed i : Word) : Word := mix32 (seed ^^^ (i * 0x9E3779B9))

end Sys2Proof.Machine
end

