-- ==== Sys2Proof/Machine/Raster.lean ====
section
/-! DEFINITION. Primitives and pixels of a sketch unit: clip positions, facing and area, the tiles that a primitive touches, the
pixels that it covers, and what is interpolated at them (R178, R180, R185, R188). Everything is exact; a result is rounded once.
The spec fixes neither the view of clip coordinates nor the near plane (log 74). -/

namespace Sys2Proof.Machine

/-! ### Points and lines -/

/-- A point or a line of the target in homogeneous coordinates. -/
abbrev Point := Int × Int × Int

/-- The line through two points; the point where two lines meet. -/
def Point.cross (p q : Point) : Point :=
  (p.2.1 * q.2.2 - p.2.2 * q.2.1, p.2.2 * q.1 - p.1 * q.2.2, p.1 * q.2.1 - p.2.1 * q.1)

/-- On which side of a line a point lies: positive, on it, negative. -/
def Point.dot (p q : Point) : Int := p.1 * q.1 + p.2.1 * q.2.1 + p.2.2 * q.2.2

/-- A linear combination. -/
def Point.mix (i : Int) (p : Point) (j : Int) (q : Point) : Point :=
  (i * p.1 + j * q.1, i * p.2.1 + j * q.2.1, i * p.2.2 + j * q.2.2)

/-- The part of a convex polygon on one side of a line. -/
def cutPolygon (line : Point) (ps : List Point) : List Point :=
  ((ps.zip (ps.drop 1 ++ ps.take 1)).map fun e =>
    let i := line.dot e.1
    let j := line.dot e.2
    (if 0 ≤ i then [e.1] else [])
      ++ (if (i < 0 ∧ 0 < j) ∨ (0 < i ∧ j < 0) then [Point.mix j.natAbs e.1 i.natAbs e.2] else [])).flatten

/-- Does a convex polygon have an area? -/
def polygonArea : List Point → Bool
  | p :: q :: ps => ((q :: ps).zip ps).any fun e => p.dot (e.1.cross e.2) != 0
  | _ => false

/-! ### Corners (R178) -/

/-- The integer that an FP32 number is in units of 2^-149; none: it is not finite. -/
def fixOf (w : Word) : Option Int :=
  match flOf w with
  | .fin neg m e => some (signedMant neg m * 2 ^ (e + 149).toNat)
  | _ => none

/-- The corner that a vertex output record gives in a target of `wd` × `ht` pixels: x and y from −w to w span it, y upward
(PRESUMED, log 74). -/
def cornerOf (wd ht : Nat) (record : List Byte) : Option Corner := do
  let at_ (i : Nat) : Option Int := fixOf (BitVec.ofNat 32 (leAt record (4 * i) 4))
  let x ← at_ 0
  let y ← at_ 1
  let z ← at_ 2
  let w ← at_ 3
  let px ← at_ 4
  let py ← at_ 5
  let _ ← at_ 6
  let pw ← at_ 7
  pure { x := (x + w) * wd, y := (w - y) * ht, z := 2 * z, w := 2 * w,
         px := (px + pw) * wd, py := (pw - py) * ht, pw := 2 * pw }

/-- A corner of a surface's rectangle; it has not moved (DESIGN CHOICE, log 74). -/
def flatCorner (z : Int) (x y : Nat) : Corner :=
  let u : Int := 2 ^ 149
  { x := x * u, y := y * u, z := z, w := u, px := x * u, py := y * u, pw := u }

/-- The place of a corner. -/
def Corner.at_ (c : Corner) : Point := (c.x, c.y, c.w)

/-! ### Primitives -/

/-- Twice the area, up to a positive factor, and its sign. -/
def Triangle.det (t : Triangle) : Int := t.a.at_.dot (t.b.at_.cross t.c.at_)

/-- The weights of the corners at a point: what they weigh adds up to `det` times the point. -/
def Triangle.weights (t : Triangle) (p : Point) : Int × Int × Int :=
  ((t.b.at_.cross t.c.at_).dot p, (t.c.at_.cross t.a.at_).dot p, (t.a.at_.cross t.b.at_).dot p)

/-- A quantity of the corners, weighed. -/
def Triangle.weigh (t : Triangle) (p : Point) (f : Corner → Int) : Int :=
  let k := t.weights p
  k.1 * f t.a + k.2.1 * f t.b + k.2.2 * f t.c

/-- The lines that bound a primitive, and the near plane at z = w (log 74); inside is positive. -/
def Triangle.lines (t : Triangle) : List Point :=
  let s := t.det.sign
  let ea := t.b.at_.cross t.c.at_
  let eb := t.c.at_.cross t.a.at_
  let ec := t.a.at_.cross t.b.at_
  let gap (c : Corner) : Int := c.w - c.z
  let near := Point.mix 1 (Point.mix (gap t.a) ea (gap t.b) eb) (gap t.c) ec
  [ea, eb, ec, near].map fun l => (s * l.1, s * l.2.1, s * l.2.2)

/-- Is a primitive culled (Table 7.3: 1 back, 2 front), or without area (R178)? Which sense of its corners is the front is free. -/
def Triangle.dropped (t : Triangle) (cull : Nat) : Bool :=
  let front := decide (0 < t.det) == Config.frontIsPositive
  t.det == 0 || (cull == 1 && !front) || (cull == 2 && front)

/-- Does a primitive touch the rectangle from (x0, y0) up to (x1, y1)? The guard band of R178 cuts nothing that lies in the
target. -/
def Triangle.touches (t : Triangle) (x0 y0 x1 y1 : Nat) : Bool :=
  let corner (x y : Nat) : Point := (x, y, 1)
  polygonArea (t.lines.foldl (fun ps l => cutPolygon l ps) [corner x0 y0, corner x1 y0, corner x1 y1, corner x0 y1])

/-- The tiles of a target that a primitive touches (R180). -/
def Triangle.tilesIn (t : Triangle) (wd ht : Nat) : List Nat :=
  let across := ceilDiv wd 32
  (rangeFrom 0 (across * ceilDiv ht 32)).filter fun k =>
    let x := k % across * 32
    let y := k / across * 32
    t.touches x y (min wd (x + 32)) (min ht (y + 32))

/-! ### At a pixel -/

/-- The centre of a pixel. -/
def pixelCentre (x y : Nat) : Point := (2 * x + 1, 2 * y + 1, 2)

/-- Does a primitive cover the centre of a pixel? A centre on an edge may be covered (log 74). -/
def Triangle.covers (t : Triangle) (x y : Nat) : Bool := t.lines.all fun l => decide (0 ≤ l.dot (pixelCentre x y))

/-- A quotient rounded RNE to FP32, of a denominator other than 0. -/
def fp32OfQuot (num den : Int) : Word := fp32OfRat (decide (num < 0) != decide (den < 0)) num.natAbs den.natAbs

/-- A quotient rounded RNE to FP16, of a denominator other than 0. -/
def halfOfQuot (num den : Int) : Half :=
  BitVec.ofNat 16 (fp16.round .rne false (decide (num < 0) != decide (den < 0)) num.natAbs den.natAbs)

/-- The depth at a pixel, linear in the target. -/
def Triangle.depthAt (t : Triangle) (x y : Nat) : Word := fp32OfQuot (t.weigh (pixelCentre x y) Corner.z) (2 * t.det)

/-- R188: a coordinate of the pixel's centre minus that of its perspective-correct previous position, `at_` over `pw`. A previous
position at infinity has no place: the value is free (log 74). -/
def Triangle.moved (t : Triangle) (x y c : Nat) (at_ : Corner → Int) : Half :=
  let n := t.weigh (pixelCentre x y) at_
  let d := t.weigh (pixelCentre x y) Corner.pw
  if d = 0 then Config.motionAtInfinity x y c
  else halfOfQuot ((2 * (if c = 0 then x else y) + 1) * d - 2 * n) (2 * d)

/-- R188: the motion at a pixel. -/
def Triangle.motionAt (t : Triangle) (x y : Nat) : List Half := [t.moved x y 0 Corner.px, t.moved x y 1 Corner.py]

end Sys2Proof.Machine
end

