-- ==== Sys2Proof/Machine/Regulators.lean ====
section
/-! DEFINITION. The paths of memory traffic and the bandwidth regulators on them (R13, R18, R280). -/

namespace Sys2Proof.Machine

/-! ### Paths (R13, R22) -/

/-- The stack of a DRAM address (R22): 0 M0 stack 0, 1 M1 stack 0, 2 M0 stack 1, 3 M1 stack 1; with one memory die 0 and 1
are its stacks. -/
def State.stackIndex (s : State) (a : Nat) : Nat := a / 2 ^ s.img.granuleLog % s.dev.assembly.stacks

/-- Die and stack of a stack index. -/
def State.stackPlace (s : State) (i : Nat) : Nat × Nat := if s.dev.assembly.memDies = 2 then (i % 2, i / 2) else (0, i)

/-- The stacks that a range touches. -/
def State.stacksOf (s : State) (a n : Nat) : List Nat :=
  let g := 2 ^ s.img.granuleLog
  ((rangeFrom (a / g) (min s.dev.assembly.stacks ((a + n - 1) / g - a / g + 1))).map
    (· % s.dev.assembly.stacks)).eraseDups

/-- Regulators on the path of a read by a cluster of die `d`: those of the sender of the data. -/
def State.readPath (s : State) (d a n : Nat) : List (Nat × Nat) :=
  match placeOf s.dev.assembly a with
  | .dram => (s.stacksOf a n).map fun i => (0, i)
  | .hub => [(2, d)]
  | .cluster e _ => if e = d then [] else [(1, 4 * e + 3)]
  | .core e _ _ => if e = d then [] else [(1, 4 * e + 3)]
  | .unpopulated => []

/-- Regulators on the path of a write. -/
def State.writePath (s : State) (d a n : Nat) : List (Nat × Nat) :=
  match placeOf s.dev.assembly a with
  | .dram => ((s.stacksOf a n).map fun i => [(1, 4 * d + (s.stackPlace i).1), (0, i)]).flatten.eraseDups
  | .hub => [(1, 4 * d + 2)]
  | .cluster e _ => if e = d then [] else [(1, 4 * d + 3)]
  | .core e _ _ => if e = d then [] else [(1, 4 * d + 3)]
  | .unpopulated => []

/-! ### Modules (R12, R13, R358) -/

/-- UCIe modules of a die pair (Table 1.1; pairs as in Table 13.5). -/
def pairModules (pair : Nat) : Nat := if pair = 4 ∨ pair = 5 then 2 else 4

/-- The memory dies whose stacks a DRAM range touches. -/
def State.memDiesOf (s : State) (a n : Nat) : List Nat := ((s.stacksOf a n).map fun i => (s.stackPlace i).1).eraseDups

/-- The die pairs that an access from compute die `d` crosses. -/
def State.pairsFrom (s : State) (d a n : Nat) : List Nat :=
  match placeOf s.dev.assembly a with
  | .dram => (s.memDiesOf a n).map fun m => 2 * d + m
  | .hub => [4 + d]
  | .cluster e _ => if e = d then [] else [6]
  | .core e _ _ => if e = d then [] else [6]
  | .unpopulated => []

/-- The working modules of a die pair. -/
def State.modulesUp (s : State) (pair : Nat) : List Nat :=
  (rangeFrom 0 (pairModules pair)).filter fun m => !s.brg.retired.contains (pair, m)

/-- R13: the module of a pair that carries an address: a fixed function of the address, over the working modules (R358). -/
def State.moduleFor (s : State) (pair a : Nat) : Option Nat :=
  (s.modulesUp pair)[Config.moduleOf pair a % (s.modulesUp pair).length]?

/-- R358: does the traffic of an access wait, because a module that carries it retrains? -/
def State.linkWaits (s : State) (d a n : Nat) : Bool :=
  !s.brg.retraining.isEmpty && (s.pairsFrom d a n).any fun p =>
    match s.moduleFor p a with
    | some m => s.brg.retraining.contains (p, m)
    | none => false

/-! ### Regulators (R280) -/

/-- A register of a regulator of a partition. -/
def State.regOf (s : State) (bwr die sch : Reg) (g : Nat × Nat) (p : Nat) : Reg × List Nat :=
  if g.1 = 0 then (bwr, [(s.stackPlace g.2).1, (s.stackPlace g.2).2, p])
  else if g.1 = 1 then (die, [g.2 / 4, g.2 % 4, p])
  else (sch, [g.2, p])

/-- REG_CFG of a regulator. -/
def State.regCfg (s : State) (g : Nat × Nat) (p : Nat) : Word :=
  let r := s.regOf R.BWR_REG_CFG R.DIE_REG_CFG R.SCH_REG_CFG g p
  s.rd r.1 r.2

/-- A bucket. -/
def State.bucket (s : State) (g : Nat × Nat) (p : Nat) : Bucket :=
  (s.sch.buckets.find? fun b => b.kind == g.1 && b.index == g.2 && b.part == p).getD
    { kind := g.1, index := g.2, part := p, tokens := 0, heldNow := false }

/-- Change a bucket. -/
def State.putBucket (s : State) (b : Bucket) : State :=
  s.withSch { s.sch with
      buckets := upsert (fun x => x.kind == b.kind && x.index == b.index && x.part == b.part) b s.sch.buckets }

/-- Do all regulators of a path hold the tokens for `n` bytes? -/
def State.tokensFor (s : State) (p n : Nat) (path : List (Nat × Nat)) : Bool :=
  path.all fun g => decide (ceilDiv n 64 ≤ (s.bucket g p).tokens)

/-- Bytes pass a regulator; `borrowed` without tokens. -/
def State.passOne (s : State) (p n : Nat) (borrowed : Bool) (g : Nat × Nat) : State :=
  let lo := s.regOf R.BWR_REG_BYTES_LO R.DIE_REG_BYTES_LO R.SCH_REG_BYTES_LO g p
  let hi := s.regOf R.BWR_REG_BYTES_HI R.DIE_REG_BYTES_HI R.SCH_REG_BYTES_HI g p
  let s := s.count64 lo.1 hi.1 lo.2 n
  if borrowed then
    let lo := s.regOf R.BWR_REG_BORROW_LO R.DIE_REG_BORROW_LO R.SCH_REG_BORROW_LO g p
    let hi := s.regOf R.BWR_REG_BORROW_HI R.DIE_REG_BORROW_HI R.SCH_REG_BORROW_HI g p
    let s := s.count64 lo.1 hi.1 lo.2 n
    if g.1 = 0 then s.pmcAdd 5 g.2 1 (some p) (n / 64) else s
  else
    let b := s.bucket g p
    s.putBucket { b with tokens := b.tokens - ceilDiv n 64 }

/-- Bytes pass every regulator of a path. -/
def State.pass (s : State) (p n : Nat) (borrowed : Bool) (path : List (Nat × Nat)) : State :=
  path.foldl (fun s g => s.passOne p n borrowed g) s

/-- Every regulator: of the stacks, the links and the hub's readers. -/
def State.regulators (s : State) : List (Nat × Nat) :=
  (rangeFrom 0 s.dev.assembly.stacks).map (fun i => (0, i)) ++ (rangeFrom 0 8).map (fun i => (1, i)) ++ (rangeFrom 0 2).map fun i => (2, i)

/-- One period of one regulator: a held transfer is counted, and tokens are added, up to budget × burst. -/
def State.refillOne (s : State) (g : Nat × Nat) (p : Nat) : State :=
  let cfg := s.regCfg g p
  let b := s.bucket g p
  let still := s.sch.transfers.any fun t => t.part == p && t.path.contains g
  let held := s.regOf R.BWR_REG_HELD R.DIE_REG_HELD R.SCH_REG_HELD g p
  let s := if b.heldNow then
      let s := s.count held.1 held.2 1
      if g.1 = 0 then s.pmcAdd 5 g.2 0 (some p) 1 else s
    else s
  let tokens := min (bits cfg 15 0 * (bits cfg 19 16 + 1)) (b.tokens + bits cfg 15 0)
  if tokens = 0 ∧ !still ∧ b.tokens = 0 then
    s.withSch { s.sch with
        buckets := s.sch.buckets.filter fun x => !(x.kind == g.1 && x.index == g.2 && x.part == p) }
  else s.putBucket { b with tokens := tokens, heldNow := still }

/-! ### Traffic of the hub's blocks (R13, R18) -/

/-- R13: the compute die through which the hub reaches a DRAM address: bit 12 chooses, where there are two. -/
def State.hubDie (s : State) (a : Nat) : Nat := if s.dev.assembly.computeDies = 2 then a / 4096 % 2 else 0

/-- Regulators on the path of an access that a block of the hub makes to addresses within one 4 KiB unit: of what is
written, the hub's own and those of the die that it passes through; of what is read, those of the senders of the data. -/
def State.hubPath (s : State) (write : Bool) (a n : Nat) : List (Nat × Nat) :=
  match placeOf s.dev.assembly a with
  | .dram =>
    let d := s.hubDie a
    if write then ((2, d) :: s.writePath d a n).eraseDups else s.readPath d a n ++ [(1, 4 * d + 2)]
  | .hub => []
  | .cluster d _ => if write then [(2, d)] else [(1, 4 * d + 2)]
  | .core d _ _ => if write then [(2, d)] else [(1, 4 * d + 2)]
  | .unpopulated => []

/-- Traffic that no transfer of a channel carries passes regulators of a partition. The command that reports it is the
instant at which it has passed: where tokens lack it is counted as borrowed, if borrowing is allowed, and has else been held, and
takes what tokens there are (log 26). -/
def State.passNow (s : State) (p n : Nat) (path : List (Nat × Nat)) : State :=
  if s.tokensFor p n path then s.pass p n false path
  else if path.all fun g => decide (ceilDiv n 64 ≤ (s.bucket g p).tokens) || bits (s.regCfg g p) 20 20 == 1 then s.pass p n true path
  else
    (s.pass p n false path) |> path.foldl fun s g => s.putBucket { s.bucket g p with heldNow := true }

/-- R18: `n` bytes from `a`, in units that end at multiples of 4 KiB, each by its path; `fuel` bounds them. -/
def State.traffic (s : State) (p : Nat) (path : State → Nat → Nat → List (Nat × Nat)) : Nat → Nat → Nat → State
  | 0, _, _ => s
  | fuel + 1, a, n =>
    if n = 0 then s
    else
      let m := min n (4096 - a % 4096)
      (s.passNow p m (path s a m)).traffic p path fuel (a + m) (n - m)

/-- Bytes that a block of the hub reads for a partition. -/
def State.hubRead (s : State) (p a n : Nat) : State := s.traffic p (fun s => s.hubPath false) (n / 4096 + 2) a n

/-- Bytes that a block of the hub writes for a partition. -/
def State.hubWrote (s : State) (p a n : Nat) : State := s.traffic p (fun s => s.hubPath true) (n / 4096 + 2) a n

/-- Bytes that a cluster of a compute die reads for a partition, by other means than a descriptor. -/
def State.dieRead (s : State) (p die a n : Nat) : State := s.traffic p (fun s => s.readPath die) (n / 4096 + 2) a n

/-- Bytes that a cluster of a compute die writes for a partition, by other means than a descriptor. -/
def State.dieWrote (s : State) (p die a n : Nat) : State := s.traffic p (fun s => s.writePath die) (n / 4096 + 2) a n

end Sys2Proof.Machine
end

