-- ==== Sys2Proof/Machine/Tiles.lean ====
section
/-! DEFINITION. The pixels of a pass and its bin memory: the fields of its entry (Table 7.2), the layout of bin memory (R180), what a
tile stores and reloads (R182, R188, R189), and the memory accesses of a sketch unit. -/

namespace Sys2Proof.Machine

/-! ### Fields of a pass (Tables 7.1, 7.2) -/

def Pass.ring (p : Pass) : Nat := leAt p.desc 0 8
def Pass.ringSize (p : Pass) : Nat := leAt p.desc 8 4
def Pass.start (p : Pass) : Nat := leAt p.entry 0 4
def Pass.length (p : Pass) : Nat := leAt p.entry 4 4
def Pass.kind (p : Pass) : Nat := leAt p.entry 8 1
def Pass.width (p : Pass) : Nat := leAt p.entry 0x0A 2
def Pass.height (p : Pass) : Nat := leAt p.entry 0x0C 2
def Pass.across (p : Pass) : Nat := ceilDiv p.width 32
def Pass.tileCount (p : Pass) : Nat := p.across * ceilDiv p.height 32
def Pass.target (p : Pass) : Nat := leAt p.entry 0x10 8
def Pass.pitch (p : Pass) : Nat := leAt p.entry 0x18 4
def Pass.dispPitch (p : Pass) : Nat := leAt p.entry 0x1C 4
def Pass.disp (p : Pass) : Nat := leAt p.entry 0x20 8
def Pass.binBase (p : Pass) : Nat := leAt p.entry 0x28 8
def Pass.binSize (p : Pass) : Nat := leAt p.entry 0x30 4

/-- Does each stored tile write a display copy? -/
def Pass.dispCopy (p : Pass) : Bool := p.kind == 0 && leAt p.entry 9 1 == 1

/-- The units of a mask, ascending. -/
def maskUnits (mask : Nat) : List Nat := (rangeFrom 0 16).filter (natBit mask)

/-- The unit that owns a tile (R184). -/
def Pass.owner (p : Pass) (tile : Nat) : Nat :=
  match p.owners with
  | some m => (m.getD tile 0).toNat % 16
  | none =>
    let us := maskUnits p.mask
    us.getD (tile % us.length) 0

/-! ### Bin memory (R180) -/

/-- Spill bytes of a tile. -/
def spillSize (kind : Nat) : Nat := if kind = 0 then 4096 else 12288

/-- Bytes of a bin memory before its pool. -/
def binFixed (kind tiles : Nat) : Nat := 4096 + 16 * tiles + spillSize kind * tiles

/-- Bytes of the pool. -/
def Pass.pool (p : Pass) : Nat := p.binSize - binFixed p.kind p.tileCount

/-- The first byte of the pool. -/
def Pass.poolBase (p : Pass) : Nat := p.binBase + binFixed p.kind p.tileCount

/-- The spill area of a tile. -/
def Pass.spill (p : Pass) (tile : Nat) : Nat := p.binBase + 4096 + 16 * p.tileCount + spillSize p.kind * tile

/-- Header and directory of a bin memory whose lists are empty (R180). -/
def Pass.emptyLists (p : Pass) : List (Nat × List Byte) :=
  [(p.binBase, leBytes 4096 (Config.binForm 0 [0, 0])), (p.binBase + 4096, zeros (16 * p.tileCount))]

/-- The list of a tile. -/
def Pass.listOf (p : Pass) (tile : Nat) : TileList :=
  (p.entries.find? fun e => e.tile == tile).getD { tile := tile, count := 0, head := 0, tail := 0 }

/-- Entries of a tile since the lists were reset. -/
def Pass.entriesOf (p : Pass) (tile : Nat) : Nat := (p.listOf tile).count

/-- The tiles that hold an entry. -/
def Pass.listed (p : Pass) : List Nat := p.entries.map (·.tile)

/-! ### Pixels (R188, R189) -/

/-- An FP32 word rounded RNE to FP16. -/
def halfOf (w : Word) : Half := BitVec.ofNat 16 (fp16.encode .rne false (flOf w))

/-- The exact value of an FP16 code. -/
def flHalf (h : Half) : Fl := fp16.decode h.toNat

/-- A pixel that no fragment has reached: the clear values. -/
def SceneState.clearPixel (x : SceneState) : Pixel :=
  { color := x.clear.map halfOf, depth := x.clearDepth, motion := [0, 0], layer := x.clearLayer }

/-- The clear pixel of a pass: that of its first primitive, so that a partial render changes no target bit (R183, log 29). -/
def Pass.clearPixel (p : Pass) : Pixel := p.clear.getD p.scene.clearPixel

/-- The pixel of a pass. -/
def Pass.pixel (p : Pass) (i : Nat) : Pixel :=
  match p.pixels.find? fun e => e.1 == i with
  | some e => e.2
  | none => p.clearPixel

/-- A 0–1 value as 0–255, RNE, saturating. -/
def unitByte (h : Half) : Byte :=
  BitVec.ofInt 8 (intOfFl .rne 0 255 ((flHalf h).mul (.fin false 255 0)))

/-- ARGB8888 of a pixel: B, G, R, A. -/
def Pixel.argb (x : Pixel) : List Byte :=
  let c (i : Nat) : Byte := unitByte (x.color.getD i 0)
  [c 2, c 1, c 0, c 3]

/-- FP16 numbers as bytes. -/
def halfBytes (hs : List Half) : List Byte := (hs.map fun h => leBytes 2 h.toNat).flatten

/-- The 16 bytes of a keyframe bundle's pixel: channels 0–7 (Table 2.3). -/
def Pixel.bundle (x : Pixel) : List Byte :=
  halfBytes (x.color ++ [halfOf x.depth] ++ x.motion ++ [BitVec.ofNat 16 (fp16.encode .rne false (flOfInt x.layer))])

/-- FP16 number `i` of a byte string. -/
def halfAt (bs : List Byte) (i : Nat) : Half := BitVec.ofNat 16 (leAt bs (2 * i) 2)

/-- The pixel of a bundle's 16 bytes and its depth in FP32. -/
def bundlePixel (bs : List Byte) (depth : Word) : Pixel :=
  { color := (rangeFrom 0 4).map (halfAt bs), depth := depth, motion := [halfAt bs 5, halfAt bs 6],
    layer := (flHalf (halfAt bs 7)).floor.toNat }

/-! ### Tiles -/

/-- First column and row of a tile. -/
def Pass.tileX (p : Pass) (tile : Nat) : Nat := tile % p.across * 32
def Pass.tileY (p : Pass) (tile : Nat) : Nat := tile / p.across * 32

/-- Columns and rows of a tile that lie in the target. -/
def Pass.tileW (p : Pass) (tile : Nat) : Nat := min 32 (p.width - p.tileX tile)
def Pass.tileH (p : Pass) (tile : Nat) : Nat := min 32 (p.height - p.tileY tile)

/-- The tile of a pixel. -/
def Pass.tileOf (p : Pass) (x y : Nat) : Nat := y / 32 * p.across + x / 32

/-- The tile of a pixel's number. -/
def Pass.tileOfPixel (p : Pass) (i : Nat) : Nat := p.tileOf (i % p.width) (i / p.width)

/-- Tiles in flight: those with pixels that have not been stored. -/
def Pass.inFlight (p : Pass) : List Nat := (p.pixels.map fun e => p.tileOfPixel e.1).eraseDups

/-- The rows of a tile in a surface, each with its address. -/
def Pass.rowsIn (p : Pass) (tile base pitch size : Nat) (f : Pixel → List Byte) : List (Nat × List Byte) :=
  (rangeFrom (p.tileY tile) (p.tileH tile)).map fun y =>
    (base + y * pitch + size * p.tileX tile,
      ((rangeFrom (p.tileX tile) (p.tileW tile)).map fun x => f (p.pixel (y * p.width + x))).flatten)

/-- All 1,024 pixels of a tile, row by row; those past the target are clear. -/
def Pass.tilePixels (p : Pass) (tile : Nat) : List Pixel :=
  (rangeFrom 0 1024).map fun i =>
    let x := p.tileX tile + i % 32
    let y := p.tileY tile + i / 32
    if x < p.width ∧ y < p.height then p.pixel (y * p.width + x) else p.clearPixel

/-- The spill of a tile: depth in FP32, then for kinds 1 and 2 the colour in FP16 (R182; the order is the model's, log 29). -/
def Pass.spillBytes (p : Pass) (tile : Nat) : List Byte :=
  ((p.tilePixels tile).map fun x => leBytes 4 x.depth.toNat).flatten
    ++ (if p.kind = 0 then [] else ((p.tilePixels tile).map fun x => halfBytes x.color).flatten)

/-- What the store of a tile writes: to the target and the display copy, and, where the tile is to be reloaded, to the spill area
(R182, R188, R189). -/
def Pass.storeRows (p : Pass) (final : Bool) (tile : Nat) : List (Nat × List Byte) :=
  (if p.kind = 0 then p.rowsIn tile p.target p.pitch 16 Pixel.bundle
    else if final then p.rowsIn tile p.target p.pitch 4 Pixel.argb else [])
  ++ (if p.dispCopy then p.rowsIn tile p.disp p.dispPitch 4 Pixel.argb else [])
  ++ (if final then [] else [(p.spill tile, p.spillBytes tile)])

/-! ### Memory accesses -/

/-- Traffic of a sketch unit: it passes regulators (R18) and is accounted. -/
def State.sketchRead (s : State) (p : Pass) (unit a n : Nat) : State :=
  (s.dieRead (s.ctxPart p.ctx) (unit / 8) a n).account p.ctx 1 n

/-- Writes of a sketch unit, in order, up to one that fails. -/
def State.sketchWrite (s : State) (p : Pass) (unit : Nat) : List (Nat × List Byte) → State × Option (Nat × Option Nat)
  | [] => (s, none)
  | w :: ws =>
    match s.tryWrite p.ctx w.1 w.2 with
    | .error e => (s, some e)
    | .ok t => ((t.dieWrote (t.ctxPart p.ctx) (unit / 8) w.1 w.2.length).account p.ctx 1 w.2.length).sketchWrite p unit ws

/-- Tiles are stored by their owners, up to a write that fails. -/
def State.storeTiles (s : State) (p : Pass) (final : Bool) : List Nat → State × Option (Nat × Option Nat)
  | [] => (s, none)
  | k :: ks =>
    let r := s.sketchWrite p (p.owner k) (p.storeRows final k)
    match r.2 with
    | some e => (r.1, some e)
    | none => (r.1.count R.SKU_CNT_TILES [p.owner k / 8, p.owner k % 8] 1).storeTiles p final ks

/-- A pass whose tiles have been stored, to be reloaded. -/
def Pass.stow (p : Pass) (tiles : List Nat) : Pass :=
  { p with pixels := p.pixels.filter fun e => !tiles.contains (p.tileOfPixel e.1)
           stored := p.stored ++ tiles.filter fun k => !p.stored.contains k
           tilesStored := p.tilesStored + tiles.length }

/-- A stored tile is reloaded (R182). -/
def State.reloadTile (s : State) (p : Pass) (tile : Nat) : Try (State × Pass) := do
  let spill ← s.tryRead p.ctx (p.spill tile) (spillSize p.kind)
  let s := s.sketchRead p (p.owner tile) (p.spill tile) (spillSize p.kind)
  let w := p.tileW tile
  let depth (k : Nat) : Word := BitVec.ofNat 32 (leAt spill (4 * k) 4)
  let places := ((rangeFrom 0 (p.tileH tile)).map fun j => (rangeFrom 0 w).map fun i => (i, j)).flatten
  let at_ (e : Nat × Nat) : Nat := (p.tileY tile + e.2) * p.width + p.tileX tile + e.1
  if p.kind = 0 then do
    let a (j : Nat) : Nat := p.target + (p.tileY tile + j) * p.pitch + 16 * p.tileX tile
    let rows ← (rangeFrom 0 (p.tileH tile)).mapM fun j => s.tryRead p.ctx (a j) (16 * w)
    let s := (rangeFrom 0 (p.tileH tile)).foldl (fun s j => s.sketchRead p (p.owner tile) (a j) (16 * w)) s
    let new := places.map fun e => (at_ e, bundlePixel (((rows.getD e.2 []).drop (16 * e.1)).take 16) (depth (32 * e.2 + e.1)))
    .ok (s, { p with pixels := p.pixels ++ new, stored := p.stored.filter fun k => k != tile })
  else
    let new := places.map fun e =>
      let k := 32 * e.2 + e.1
      (at_ e, { color := (rangeFrom 0 4).map fun c => halfAt (spill.drop (4096 + 8 * k)) c, depth := depth k,
                motion := [0, 0], layer := 0 : Pixel })
    .ok (s, { p with pixels := p.pixels ++ new, stored := p.stored.filter fun k => k != tile })

end Sys2Proof.Machine
end

