-- ==== Sys2Proof/Machine/SynCore.lean ====
section
/-! DEFINITION. Slice synthesis, what other blocks need of it: the applied timing of a pipe, the quantities of Table 2.1,
keyframes (R31, R32), and what SYN does when a task ends (R46, R84, R86). -/

namespace Sys2Proof.Machine

/-! ### Pipes and their applied values -/

/-- A pipe. -/
def State.pipe (s : State) (p : Nat) : DspPipe := vecGet s.dsp.pipes p DspPipe.reset

/-- Change a pipe. -/
def State.setPipe (s : State) (p : Nat) (x : DspPipe) : State :=
  s.withDsp { s.dsp with pipes := vecSet s.dsp.pipes p x }

/-- The value of a shadowed register in a list of applied values. -/
def appliedOf (l : List (Nat × Word)) (p : Nat) (r : Reg) (ix : List Nat) : Word :=
  (cfgGet l (regAddr r (0 :: ix) - 0x100000)).getD (r.reset (p :: ix))

/-- The applied value of a shadowed register of a pipe (R227). -/
def State.applied (s : State) (p : Nat) (r : Reg) (ix : List Nat) : Word := appliedOf (s.pipe p).applied p r ix

/-- A timing (R219). -/
structure Timing where
  hActive : Nat
  hFp : Nat
  hSync : Nat
  hBp : Nat
  vActive : Nat
  vFp : Nat
  vSync : Nat
  vBp : Nat
  pclk : Nat
  deriving DecidableEq, Repr

/-- H_total. -/
def Timing.hTotal (t : Timing) : Nat := t.hActive + t.hFp + t.hSync + t.hBp

/-- V_total. -/
def Timing.vTotal (t : Timing) : Nat := t.vActive + t.vFp + t.vSync + t.vBp

/-- The timing in a list of applied values. -/
def timingOf (l : List (Nat × Word)) (p : Nat) : Timing :=
  let h := appliedOf l p R.DSP_TIMING_H []
  let h2 := appliedOf l p R.DSP_TIMING_H2 []
  let v := appliedOf l p R.DSP_TIMING_V []
  let v2 := appliedOf l p R.DSP_TIMING_V2 []
  { hActive := bits h 12 0, hFp := bits h 27 16, hSync := bits h2 11 0, hBp := bits h2 27 16,
    vActive := bits v 11 0, vFp := bits v 27 16, vSync := bits v2 11 0, vBp := bits v2 27 16,
    pclk := bits (appliedOf l p R.DSP_PCLK []) 29 0 }

/-- The applied timing of a pipe. -/
def State.timing (s : State) (p : Nat) : Timing := timingOf (s.pipe p).applied p

/-- Table 9.2. -/
def Timing.valid (t : Timing) : Bool :=
  decide (64 ≤ t.hActive) && decide (t.hActive ≤ 5120) && t.hActive % 2 == 0 && decide (8 ≤ t.hFp) && decide (8 ≤ t.hSync)
    && decide (8 ≤ t.hBp) && decide (t.hTotal ≤ 8191) && decide (64 ≤ t.vActive) && decide (t.vActive ≤ 2880)
    && decide (1 ≤ t.vFp) && decide (1 ≤ t.vSync) && decide (1 ≤ t.vBp) && decide (t.vTotal ≤ 4095)
    && decide (25000000 ≤ t.pclk) && decide (t.pclk ≤ 800000000)

/-- The frame period, in 2^-32 ns. -/
def Timing.frame (t : Timing) : Nat := t.hTotal * t.vTotal * 1000000000 * 2 ^ 32 / t.pclk

/-- The pipe that feeds an output with frames of its own (R212, R231): pipe P4 after a takeover, else the pipe whose
DSP_MAP names the output and that is no clone member. -/
def State.pipeOf (s : State) (o : Nat) : Option Nat :=
  if (vecGet s.dsp.outs o EdpOut.reset).p4 && !s.bit R.EDP_SRC [o] 3 then some 4
  else (rangeFrom 0 5).find? fun p =>
    s.bit R.DSP_MAP [p] 2 && s.fld R.DSP_MAP [p] 1 0 == o && !s.bit R.DSP_MAP [p] 7

/-- The output that a pipe feeds, if it does. -/
def State.outputOf (s : State) (p : Nat) : Option Nat := (rangeFrom 0 4).find? fun o => s.pipeOf o == some p

/-! ### Outputs of SYN -/

/-- An output of SYN. -/
def State.out (s : State) (o : Nat) : SynOut := vecGet s.syn o SynOut.reset

/-- Change an output of SYN. -/
def State.setOut (s : State) (o : Nat) (x : SynOut) : State := s.withSyn (vecSet s.syn o x)

/-- Is an output under synthesis? -/
def State.synOn (s : State) (o : Nat) : Bool := s.bit R.SYN_STATUS [o] 0

/-- S: 16, 32 or 64 slices (R34). -/
def State.synS (s : State) (o : Nat) : Nat := 16 * 2 ^ s.fld R.SYN_GEOM [o] 1 0

/-- d, the render scale divisor. -/
def State.synD (s : State) (o : Nat) : Nat := s.fld R.SYN_GEOM [o] 3 2

/-- N, the keyframe divisor. -/
def State.synN (s : State) (o : Nat) : Nat := s.fld R.SYN_GEOM [o] 6 4

/-- The context of a queue: 256 queues each. -/
def queueCtx (q : Nat) : Nat := q / 256

/-- The slice context of an output. -/
def State.synCtx (s : State) (o : Nat) : Nat := queueCtx (s.fld R.SYN_QUEUE [o] 13 0)

/-- The timing of the pipe that feeds an output. -/
def State.synTiming (s : State) (o : Nat) : Timing := s.timing ((s.pipeOf o).getD 0)

/-- TIMEBASE in 2^-32 ns. -/
def State.tb (s : State) : Nat := s.tim.base.toNat

/-- T_frame (R36), in 2^-32 ns. -/
def State.tFrame (s : State) (o : Nat) : Nat :=
  let iv := (s.out o).intervals
  if iv.length = 4 then iv.sum / 4 else (s.synTiming o).frame

/-- First line of a slice (R34). -/
def firstLine (S V n : Nat) : Nat := n * V / S

/-- Lines of a slice. -/
def sliceLines (S V n : Nat) : Nat := firstLine S V (n + 1) - firstLine S V n

/-- Lines of the tallest and of the shortest slice. -/
def tallest (S V : Nat) : Nat := ((rangeFrom 0 S).map (sliceLines S V)).foldl max 0
def shortest (S V : Nat) : Nat := ((rangeFrom 0 S).map (sliceLines S V)).foldl min V

/-- t_warp for P pixels, in ns (R54). -/
def tWarp (pixels : Nat) : Nat := 1000 + ceilDiv pixels 32

/-- Nanoseconds in 2^-32 ns. -/
def nsTb (n : Nat) : Nat := n * 2 ^ 32

/-- Entries available in a pipe's slice buffer (R47). -/
def entriesAvailable (W hmax : Nat) : Nat := 6291456 / (W * hmax * 5)

/-- Entries needed (Table 2.2): B and L × T_slice, in 2^-32 ns. -/
def entriesNeeded (b lead tSlice : Nat) : Nat := ceilDiv (b + lead * tSlice) tSlice + 2

/-- The SOA of a frame as predicted from the last one (R36, R39), or its own; in 2^-32 ns. -/
def State.soaOf (s : State) (o : Nat) (frame : Word) : Nat :=
  let t := s.tFrame o
  let d := (frame - s.rd R.SYN_FRAME [o]).toInt
  (((s.out o).soa.getD 0 : Int) + d * t).toNat

/-- A slice's times (Table 2.1): t_scan, D, R and F, in 2^-32 ns. -/
structure SliceTimes where
  scan : Int
  deadline : Int
  release : Int
  fallback : Int
  deriving DecidableEq, Repr

/-- Table 2.1, with B and M in ns. -/
def State.sliceTimes (s : State) (o : Nat) (frame : Word) (n b m : Nat) : SliceTimes :=
  let t := s.tFrame o
  let tm := s.synTiming o
  let S := s.synS o
  let scan : Int := s.soaOf o frame + firstLine S tm.vActive n * (t / tm.vTotal)
  let d := scan - s.fld R.SYN_GEOM [o] 15 12 * (t / S)
  { scan := scan, deadline := d, release := d - nsTb b, fallback := d - nsTb m }

/-- Pixels of a slice. -/
def State.slicePixels (s : State) (o n : Nat) : Nat :=
  let t := s.synTiming o
  t.hActive * sliceLines (s.synS o) t.vActive n

/-! ### Keyframes -/

/-- R78: the index of the keyframe that a refresh shows. -/
def State.kfIndex (s : State) (o : Nat) (refresh : Word) : Word :=
  BitVec.ofNat 32 ((refresh - BitVec.ofNat 32 (s.fld R.SYN_GEOM [o] 9 8)).toNat / s.synN o)

/-- R30: is a refresh a keyframe refresh? -/
def State.isKfRefresh (s : State) (o : Nat) (refresh : Word) : Bool :=
  ((refresh.toNat : Int) - s.fld R.SYN_GEOM [o] 9 8) % s.synN o == 0

/-- R31: complete. -/
def Keyframe.complete (k : Keyframe) : Bool := k.render == some 0 && k.flow == some 0

/-- R31: failed. -/
def Keyframe.failed (k : Keyframe) : Bool :=
  (match k.render with | some v => v != 0 | none => false) || (match k.flow with | some v => v != 0 | none => false)

/-- A keyframe of an output by index. -/
def SynOut.keyframe (x : SynOut) (i : Word) : Option Keyframe := x.keyframes.find? fun k => k.index == i

/-- The complete keyframe with the highest index in a list (R32). -/
def newestOf : List Keyframe → Option Keyframe
  | [] => none
  | k :: ks =>
    match newestOf ks with
    | none => if k.complete then some k else none
    | some m => if k.complete && after32 k.index m.index then some k else some m

/-- R32, R33: the pair to latch, and how many complete keyframes it is made of. -/
def SynOut.latchPair (x : SynOut) : Option (Keyframe × Keyframe) × Nat :=
  match newestOf x.keyframes with
  | none => (none, 0)
  | some a =>
    match newestOf (x.keyframes.filter fun k => k.index != a.index) with
    | none => (some (a, a), 1)
    | some b => (some (a, b), 2)

/-- Complete keyframes available, 0–2 (SYN_STATUS `kf_count`). -/
def SynOut.kfCount (x : SynOut) : Nat := min 2 (x.keyframes.filter Keyframe.complete).length

/-- A keyframe of which nothing is known yet. -/
def Keyframe.blank (index refresh : Word) : Keyframe :=
  { index := index, refresh := refresh, render := none, flow := none, base := 0, pitch := 0, disp := 0, dispPitch := 0,
    scene := 0, vectors := 0, vecPitch := 0, boundary := false }

/-- Change what an output knows of the keyframe of an index; `refresh` is its target. -/
def SynOut.withKeyframe (x : SynOut) (i refresh : Word) (f : Keyframe → Keyframe) : SynOut :=
  { x with keyframes := f ((x.keyframe i).getD (.blank i refresh)) :: x.keyframes.filter fun k => k.index != i }

/-! ### Counters -/

/-- An event counter of R60: 0 missed, 1 low confidence, 2 short, 3 release drop, 4 late write, 5 guard, 6 rebase, 7 late
keyframe, 8 failed keyframe. -/
def State.synCount (s : State) (o : Nat) (r : Reg) (bit : Nat) : State := s.countSat r [o] 1 R.SYN_CNT_OVF [o] bit

/-- A counter of adaptation. -/
def State.adpCount (s : State) (o : Nat) (r : Reg) (bit : Nat) : State := s.countSat r [o] 1 R.SYN_ADP_CNT_OVF [o] bit

/-! ### Adaptation: what ends a job -/

/-- SYN_ADP_STATUS fields that follow the state: `swap_pending`, buffers free, `fill`. -/
def State.adpStatus (s : State) (o : Nat) : State :=
  let x := s.out o
  let sel := s.fld R.SYN_ADP_STATUS [o] 1 0
  let free (b : Nat) : Bool := sel != b && x.claim != b && !(x.users.any fun u => u.sel == b)
  let s := s.setBit R.SYN_ADP_STATUS [o] 2 (x.swapTo != 0)
  let s := s.setBit R.SYN_ADP_STATUS [o] 4 (free 1)
  let s := s.setBit R.SYN_ADP_STATUS [o] 5 (free 2)
  s.setFld R.SYN_ADP_STATUS [o] 15 8 x.window.length

/-- R85: W, the revert window. -/
def State.adpWindow (s : State) (o : Nat) : Nat :=
  let w := s.fld R.SYN_ADP_CTRL [o] 28 24
  if 2 ≤ w then w else 8

/-- R88: the mode in effect. -/
def State.adpMode (s : State) (o : Nat) : Nat :=
  let m := s.fld R.SYN_ADP_CTRL [o] 1 0
  if m = 0 then 0
  else if m = 2 && s.fld R.SYN_ADP_CTRL [o] 15 8 != 0 && s.bit R.SYN_QUEUE [o] 31 then 2
  else 1

/-- Has an entry of a queue still to complete? -/
def State.entryOpen (s : State) (q : Nat) (seq : Word) : Bool :=
  (s.sch.tasks.any fun t => t.qid == q && t.entry.seq == seq)
    || s.sch.queues.any fun x => x.ident == q && x.rung.any fun e => e.seq == seq

/-- The adaptation work is given up. The target of a job whose task is in flight stays in use until that task ends. -/
def State.adpGiveUp (s : State) (o : Nat) : State :=
  let x := s.out o
  let left : List SliceUser := match x.work.bind (·.job) with
    | some (q, seq) =>
      if s.entryOpen q seq then [{ qid := q, seq := seq, frame := 0, slice := 64, sel := x.claim, accepted := false }] else []
    | none => []
  (s.setOut o { x with work := none, claim := x.swapTo, users := x.users ++ left }).setBit R.SYN_ADP_STATUS [o] 3 false

/-- R87: a revert; `cause` 0 window, 1 non-finite loss_a, 2 `fail_limit`. -/
def State.adpRevert (s : State) (o : Nat) (ref : Word) (cause : Nat) : State :=
  let x := s.out o
  let full := x.window.length == s.adpWindow o
  let a := if full then s.rd R.SYN_ADP_MEAN_A [o] else 0
  let b := if full then s.rd R.SYN_ADP_MEAN_B [o] else 0
  let s := s.setOut o { x with swapTo := 0, claim := 0, window := [], toZero := true, failedRun := 0 }
  let s := (s.setBit R.SYN_ADP_STATUS [o] 6 true).adpCount o R.SYN_ADP_CNT_REVERT 2
  let s := s.adpStatus o
  if s.bit R.SYN_CTRL [o] 5 then
    s.event 0x0A o 0x03 (leBytes 4 a.toNat ++ leBytes 4 b.toNat ++ leBytes 4 ref.toNat ++ leBytes 1 cause ++ zeros 3)
  else s

/-- R86: a job fails; `cause` 0 completion status, 1 timeout. Mode 1 keeps `sel` and the window, so nothing reverts there
(R88, log 34). -/
def State.adpFail (s : State) (o : Nat) (ref : Word) (cause status : Nat) : State :=
  let x := s.out o
  let s := s.adpGiveUp o
  let s := s.setOut o { s.out o with failedRun := x.failedRun + 1 }
  let s := (s.adpCount o R.SYN_ADP_CNT_FAIL 3).adpStatus o
  let s := if s.bit R.SYN_CTRL [o] 5 then
      s.event 0x0A o 0x04 (leBytes 4 ref.toNat ++ leBytes 1 cause ++ leBytes 1 status ++ zeros 10)
    else s
  let limit := s.fld R.SYN_ADP_LIMITS [o] 19 16
  if limit ≠ 0 ∧ limit ≤ x.failedRun + 1 ∧ s.adpMode o = 2 then s.adpRevert o ref 2 else s

/-- R80: a skip is counted and clears `busy`; the reference number stays. -/
def State.adpSkip (s : State) (o : Nat) : State :=
  (s.adpCount o R.SYN_ADP_CNT_SKIP 0).setBit R.SYN_ADP_STATUS [o] 3 false

/-- R80: the reference under capture is itself skipped. -/
def State.adpDrop (s : State) (o : Nat) : State := (s.setOut o { s.out o with work := none }).adpSkip o

/-- What a keyframe's completion or failure does to the reference under capture (R80). -/
def State.adpKeyframe (s : State) (o : Nat) (k : Keyframe) : State :=
  match (s.out o).work with
  | some w => if w.keyframe == k.index && w.job.isNone && k.failed then s.adpDrop o else s
  | none => s

/-- R31: the end of a keyframe's render task or flow job. -/
def State.keyframeReport (s : State) (o : Nat) (refresh : Word) (upd : Keyframe → Keyframe) : State :=
  let x := s.out o
  let i := s.kfIndex o refresh
  let old := (x.keyframe i).getD (.blank i refresh)
  let new := upd old
  let s := s.setOut o (x.withKeyframe i refresh upd)
  let s := s.setFld R.SYN_STATUS [o] 6 5 (s.out o).kfCount
  let s := if new.failed && !old.failed then s.synCount o R.SYN_CNT_FAILKF 8 else s
  let s := if new.complete && !old.complete && new.boundary then s.synCount o R.SYN_CNT_LATEKF 7 else s
  s.adpKeyframe o new

/-- R31, R190: what a posted completion record tells SYN. -/
def State.noteKeyframe (s : State) (n : KeyframeNote) (status : Nat) : State :=
  match n with
  | .none => s
  | .render r => s.keyframeReport r.synOut r.refresh fun k =>
      { k with render := some status, base := r.base, pitch := r.pitch, disp := r.disp, dispPitch := r.dispPitch,
               scene := r.scene }
  | .flow o refresh vectors pitch => s.keyframeReport o refresh fun k =>
      { k with flow := some status, vectors := vectors, vecPitch := pitch }

/-! ### What SYN does when a task ends -/

/-- One output: history (R46), the users of a weight buffer (R84), the adaptation job (R86, R89). -/
def State.synTaskEndAt (s : State) (o qid : Nat) (seq : Word) (status : Nat) : State :=
  let x := s.out o
  let s := match x.users.find? fun u => u.qid == qid && u.seq == seq with
    | some u =>
      let good := u.accepted && status == 0
      let x := { x with
        users := x.users.filter fun v => !(v.qid == qid && v.seq == seq)
        histGood := if good then (u.slice, u.frame) :: x.histGood else x.histGood }
      (s.setOut o x).adpStatus o
    | none => s
  match (s.out o).work with
  | some w =>
    if w.job == some (qid, seq) then
      if status = 0x20 then
        let s := s.setOut o { s.out o with work := none, claim := 0, toZero := true }
        ((s.setBit R.SYN_ADP_STATUS [o] 3 false).setBit R.SYN_ADP_STATUS [o] 7 true).adpStatus o
      else if status = 0x00 ∨ status = 0x02 then s
      else s.adpFail o w.ref 0 status
    else s
  | none => s

/-- All outputs. -/
def State.synTaskEnd (s : State) (qid : Nat) (seq : Word) (status : Nat) : State :=
  (((s.synTaskEndAt 0 qid seq status).synTaskEndAt 1 qid seq status).synTaskEndAt 2 qid seq status).synTaskEndAt 3 qid
    seq status

/-- R89: reset of the partition that owns an output's adaptation. -/
def State.synPartReset (s : State) (o : Nat) : State :=
  let s := s.setOut o { s.out o with toZero := true }
  s.setBit R.SYN_ADP_STATUS [o] 7 true

end Sys2Proof.Machine
end

