-- ==== Sys2Proof/Machine/Queues.lean ====
section
/-! DEFINITION. Queues: descriptors and entries as they are decoded, doorbells, dependencies, and the posting of
completion records in queue order (R255–R263, R369). -/

namespace Sys2Proof.Machine

/-! ### Descriptors and entries -/

/-- Table 11.1. -/
def decodeQDesc (bs : List Byte) : QDesc :=
  let f := leAt bs 0x11 1
  { subBase := leAt bs 0 8, cplBase := leAt bs 8 8, logSize := leAt bs 0x10 1, prio := f % 4, cqOnly := natBit f 2,
    serial := natBit f 3, maxInflight := max 1 (leAt bs 0x12 1) }

/-- R256, code 1: does every field lie in Table 11.1, with the bases aligned? -/
def qdescGood (bs : List Byte) : Bool :=
  let d := decodeQDesc bs
  d.subBase % 64 == 0 && d.cplBase % 32 == 0 && decide (4 ≤ d.logSize) && decide (d.logSize ≤ 12)
    && decide (leAt bs 0x11 1 < 16) && decide (leAt bs 0x12 1 ≤ 16) && leAt bs 0x13 13 == 0

/-- Slots of each ring. -/
def QDesc.size (d : QDesc) : Nat := 2 ^ d.logSize

/-- A dependency field: sequence number, queue and the valid bit. -/
def decodeDep (v : Nat) : Option (Nat × Word) :=
  if natBit v 63 then some (v / 2 ^ 32 % 2 ^ 14, BitVec.ofNat 32 v) else none

/-- Table 11.2, but for what the doorbell decides. -/
def decodeEntry (seq : Word) (bs : List Byte) : Entry :=
  let f := leAt bs 1 1
  let tag := leAt bs 0x35 1
  { seq := seq, op := leAt bs 0 1, dlValid := natBit f 0, dlAbort := natBit f 1, handle := leAt bs 2 2,
    tag := BitVec.ofNat 32 (leAt bs 4 4), deadline := leAt bs 8 8, launch := leAt bs 0x10 8, param := leAt bs 0x18 8,
    deps := ([leAt bs 0x20 8, leAt bs 0x28 8]).filterMap decodeDep, depBad := false,
    slice := if natBit tag 7 then some (BitVec.ofNat 32 (leAt bs 0x30 4), leAt bs 0x34 1, tag % 4) else none,
    input := leAt bs 0x38 8, unreadable := none, rungAt := 0 }

/-! ### The queue table -/

/-- An enabled queue. -/
def State.queue (s : State) (q : Nat) : Option Queue := s.sch.queues.find? fun x => x.ident == q

/-- Keep a queue. -/
def State.putQueue (s : State) (x : Queue) : State :=
  s.withSch { s.sch with queues := upsert (fun y => y.ident == x.ident) x s.sch.queues }

/-- The partition of a queue. -/
def State.queuePart (s : State) (q : Nat) : Nat := s.ctxPart (q / 256)

/-- A started task of a queue. -/
def State.startedOf (s : State) (q : Nat) : List Task := s.sch.tasks.filter fun t => t.qid == q && t.started

/-! ### Dependencies (R263, R369) -/

/-- R263: is a dependency of entry `seq` of queue `q` valid when its doorbell is accepted? -/
def State.depValid (s : State) (q : Nat) (seq : Word) (d : Nat × Word) : Bool :=
  s.queuePart d.1 == s.queuePart q && (s.queue d.1).isSome && (d.1 != q || after32 seq d.2)

/-- What a dependency comes to. -/
inductive DepState where
  | met | expired | waits | failed
  deriving DecidableEq, Repr

/-- The state of a valid dependency. A dependency on a queue disabled since counts as failed (R369). -/
def State.depState (s : State) (d : Nat × Word) : DepState :=
  match s.queue d.1 with
  | none => .failed
  | some x =>
    if after32 x.posted d.2 then
      if 256 ≤ (x.posted - d.2).toNat then .expired
      else
        match x.statuses.find? fun e => e.1 == d.2 with
        | some (_, st) => if st = 0 ∨ st = 2 then .met else .failed
        | none => .failed
    else .waits

/-- A queue number that no queue has: a dependency on it counts as failed. -/
def noQueue : Nat := 16384

/-- R369: before queue `q` is disabled, dependencies on it that are met are dropped, and the others will count as failed. -/
def State.settleDeps (s : State) (q : Nat) : State :=
  let fix (e : Entry) : Entry := { e with
    deps := e.deps.filterMap fun d =>
      if d.1 = q then (match s.depState d with | .met => none | .expired => none | _ => some (noQueue, d.2)) else some d }
  (s.withSch { s.sch with
      queues := s.sch.queues.map fun x => { x with rung := x.rung.map fix }
      tasks := s.sch.tasks.map fun t => if t.started then t else { t with entry := fix t.entry } })

/-- Disable a queue at once. -/
def State.dropQueue (s : State) (q : Nat) : State :=
  let s := s.settleDeps q
  (s.withSch { s.sch with queues := s.sch.queues.filter fun x => x.ident != q })

/-! ### Completions (R262) -/

/-- Table 11.3. -/
def Completion.encode (c : Completion) (q logSize k : Nat) : List Byte :=
  leBytes 4 c.seq.toNat ++ leBytes 4 c.tag.toNat ++ leBytes 1 c.status
    ++ leBytes 1 ((k / 2 ^ logSize % 2 + 1) % 2 + 2 * b2n c.dlValid + 4 * b2n c.preempted + 8 * b2n c.late)
    ++ leBytes 2 q ++ leBytes 4 (min c.engineUs 0xFFFFFFFF) ++ leBytes 8 c.firstRun ++ leBytes 8 c.doneAt

/-- The record that may be posted next: of a submission queue that of entry number `posted` (R262), of a `cq_only` queue
the oldest, if the ring has room (R258). -/
def Queue.nextRecord (x : Queue) : Option Completion :=
  if x.desc.cqOnly then
    if (x.posted + 1 - x.consumer).toNat ≤ x.desc.size then x.ended.head? else none
  else x.ended.find? fun c => c.seq == x.posted

/-- Post one record, and tell SYN what it says of a keyframe (R31). -/
def State.postOne (s : State) (x : Queue) (c : Completion) : State :=
  let c := if x.desc.cqOnly then { c with seq := x.posted } else c
  let k := x.posted.toNat
  let s := s.write (x.desc.cplBase + 32 * (k % x.desc.size)) (c.encode x.ident x.desc.logSize k)
  let s := s.putQueue { x with
    posted := x.posted + 1
    ended := if x.desc.cqOnly then x.ended.drop 1 else x.ended.filter fun e => e.seq != c.seq
    statuses := ((c.seq, c.status) :: x.statuses).take 256 }
  s.noteKeyframe c.note c.status

/-- Post every record that may be posted. -/
def State.flushLoop (s : State) (q : Nat) : Nat → State
  | 0 => s
  | fuel + 1 =>
    match s.queue q with
    | some x =>
      match x.nextRecord with
      | some c => (s.postOne x c).flushLoop q fuel
      | none => s
    | none => s

/-- R256: a queue that is being disabled is disabled when its last started task has completed. -/
def State.finishDisable (s : State) (q : Nat) : State :=
  match s.queue q with
  | some x =>
    let loads := s.sch.models.any fun m => match m.loading with | some l => l.1 == q | none => false
    if x.disabling && x.ended.isEmpty && x.rung.isEmpty && (s.startedOf q).isEmpty && !loads then s.dropQueue q else s
  | none => s

/-- Post what may be posted of a queue. -/
def State.flushQueue (s : State) (q : Nat) : State :=
  match s.queue q with
  | some x => (s.flushLoop q x.ended.length).finishDisable q
  | none => s

/-- An entry or chain of a queue has ended: its record is posted in its turn. -/
def State.complete (s : State) (q : Nat) (c : Completion) : State :=
  match s.queue q with
  | some x => (s.putQueue { x with ended := x.ended ++ [c] }).flushQueue q
  | none => s

/-- The record of an entry that never ran. -/
def Entry.completion (e : Entry) (status now : Nat) : Completion :=
  { seq := e.seq, tag := e.tag, status := status, dlValid := e.dlValid, preempted := false,
    late := e.dlValid && decide (e.deadline < now), engineUs := 0, firstRun := 0, doneAt := now,
    note := .none }

/-- Take an entry out of the entries rung. -/
def State.popEntry (s : State) (q : Nat) : State :=
  match s.queue q with
  | some x => s.putQueue { x with rung := x.rung.drop 1 }
  | none => s

/-- Complete every entry of a queue that was rung and not started, in order (R256, R272, R370). -/
def State.completeRung (s : State) (q status : Nat) : State :=
  match s.queue q with
  | some x =>
    let waiting := (s.sch.tasks.filter fun t => t.qid == q && !t.started).map (·.entry)
    let s := s.withSch { s.sch with tasks := s.sch.tasks.filter fun t => t.qid != q || t.started }
    let gone := waiting ++ x.rung
    let recs := gone.map fun e => e.completion status s.now
    let s := (s.putQueue { x with rung := [], ended := x.ended ++ recs }).flushQueue q
    gone.foldl (fun s e => s.synTaskEnd q e.seq status) s
  | none => s

/-! ### Enable and disable (R256) -/

/-- Record a code of R256. -/
def State.queueError (s : State) (c l code : Nat) : State :=
  s.poke R.SCH_CTX_QERR [c] (BitVec.ofNat 32 (l + 256 * code))

/-- A write of SCH_CTXc_QCTL. -/
def State.queueControl (s : State) (c : Nat) (value : Word) : State :=
  let l := bits value 7 0
  let en := bits value 8 8 == 1
  let dis := bits value 9 9 == 1
  let q := 256 * c + l
  if en && dis then s.queueError c l 6
  else if en then
    if !s.ctxValid c || s.ctxDown c then s.queueError c l 5
    else if (s.queue q).isSome then s.queueError c l 4
    else
      let bs := s.bytes (s.rdAddr R.SCH_CTX_QTAB_LO R.SCH_CTX_QTAB_HI [c] + 32 * l) 32
      let d := decodeQDesc bs
      if !qdescGood bs then s.queueError c l 1
      else if !(s.regionOk c d.subBase (64 * d.size) false && s.regionOk c d.cplBase (32 * d.size) true) then
        s.queueError c l 2
      else if !s.prioAllowed (s.ctxPart c) d.prio then s.queueError c l 3
      else s.putQueue { ident := q, desc := d, pLast := 0, posted := 0, consumer := 0, disabling := false, rung := [],
                        ended := [], statuses := [] }
  else if dis then
    match s.queue q with
    | some x => ((s.putQueue { x with disabling := true }).completeRung q 0x01).finishDisable q
    | none => s
  else s

/-! ### Doorbells (R257, R258, R370) -/

/-- R370: is a partition being reset? -/
def State.partResetting (s : State) (p : Nat) : Bool := s.bit R.ERR_PRST_STATUS [] p

/-- A doorbell is rejected; `reason` as in Table 11.11. -/
def State.rejectDoorbell (s : State) (q : Nat) (count pLast : Word) (reason : Nat) : State :=
  let c := q / 256
  (s.countSat R.SCH_CTX_CNT_DBREJ [c] 1 R.SCH_CTX_CNT_OVF [c] 0).event 0x07 c 0x02
    (leBytes 2 q ++ leBytes 1 reason ++ leBytes 1 0 ++ leBytes 4 count.toNat ++ leBytes 4 pLast.toNat ++ leBytes 4 0)

/-- An entry as read when its doorbell is accepted: an uncorrectable error makes it unreadable (R260), and its
dependencies are checked for validity (R369). -/
def State.readEntry (s : State) (x : Queue) (k : Nat) : Entry :=
  let a := x.desc.subBase + 64 * (k % x.desc.size)
  let e := decodeEntry (BitVec.ofNat 32 k) (s.bytes a 64)
  { e with
    depBad := e.deps.any fun d => !s.depValid x.ident e.seq d
    unreadable := (s.readError a 64).map fun _ => a
    rungAt := s.now }

/-- A write of SCH_DBq, with the status that an SCT doorbell item gets. A queue that is not enabled has no producer count;
what the event shows for it is open. -/
def State.doorbell (s : State) (q : Nat) (count : Word) : State × Nat :=
  let c := q / 256
  let resetting := s.partResetting (s.ctxPart c)
  let status (v : Nat) : Nat := if resetting then 0x20 else v
  if s.ctxDown c then (s, 0x10)
  else
    match s.queue q with
    | none => if resetting then (s, 0x20) else (s.draw.rejectDoorbell q count (s.drawn 32) 1, 0x10)
    | some x =>
      if x.disabling then (s.rejectDoorbell q count x.pLast 2, status 0x10)
      else if x.desc.cqOnly then ((s.putQueue { x with consumer := count }).flushQueue q, status 0)
      else if count = x.pLast then (s, status 0)
      else if after32 count x.pLast && decide ((count - x.posted).toNat ≤ x.desc.size) then
        let new := (rangeFrom 0 (count - x.pLast).toNat).map fun i => s.readEntry x ((x.pLast.toNat + i) % 2 ^ 32)
        (s.putQueue { x with pLast := count, rung := x.rung ++ new }, status 0)
      else (s.rejectDoorbell q count x.pLast 0, status 0x10)

end Sys2Proof.Machine
end

