-- ==== Sys2Proof/Machine/VisCore.lean ====
section
/-! DEFINITION. The chain dispatcher (R194–R199, R207): which stage runs on which engine, and what the end of a chain does. -/

namespace Sys2Proof.Machine

/-! ### Descriptors (Tables 8.1, 8.3, 8.4, 8.6) -/

/-- The op of a stage: 1 pyramid, 2 flow, 3 stereo. -/
def Stage.op (x : Stage) : Nat := leAt x.desc 0 1

/-- `par` of a stage. -/
def Stage.par (x : Stage) : Bool := natBit (leAt x.desc 2 1) 2

/-- The logical engine that a stage names, 15 for any. -/
def Stage.logical (x : Stage) : Nat := leAt x.desc 1 1 % 16

/-- The address of the next descriptor. -/
def Stage.nextAddr (x : Stage) : Nat := leAt x.desc 8 8

/-- Has a stage started? -/
def Stage.started (x : Stage) : Bool := x.state != .waiting

/-- Has a stage ended? -/
def Stage.isEnded (x : Stage) : Bool := x.state == .ended

/-- The header fields that hold for every stage lie in Table 8.1. -/
def stageHeaderGood (d : List Byte) : Bool :=
  let op := leAt d 0 1
  let l := leAt d 1 1
  decide (1 ≤ op) && decide (op ≤ 3) && decide (l < 16) && (l == 15 || decide (l < (if op = 3 then 2 else 4)))
    && decide (leAt d 2 1 < 16) && leAt d 5 1 == 0 && leAt d 8 8 % 64 == 0 && leAt d 0x1C 4 == 0

/-- The header fields that the first descriptor gives for its chain lie in Table 8.1. -/
def chainHeaderGood (d : List Byte) : Bool :=
  let so := leAt d 3 1
  (decide (so < 4) || so == 7) && decide (leAt d 4 1 < 64) && !natBit (leAt d 6 2) 14

/-- Is a number in a range? -/
def within (lo hi v : Nat) : Bool := decide (lo ≤ v) && decide (v ≤ hi)

/-- The body of a stage lies in its table. -/
def stageBodyGood (d : List Byte) : Bool :=
  match leAt d 0 1 with
  | 1 =>
    leAt d 0x20 8 % 256 == 0 && leAt d 0x28 4 % 256 == 0 && within 16 5120 (leAt d 0x2C 2) && within 16 2880 (leAt d 0x2E 2)
      && decide (leAt d 0x30 1 < 4) && decide (leAt d 0x31 1 ≤ 8) && within 1 6 (leAt d 0x32 1) && decide (leAt d 0x33 1 < 2)
      && leAt d 0x34 4 == 0 && leAt d 0x38 8 % 256 == 0 && leAt d 0x40 8 % 256 == 0 && leAt d 0x48 56 == 0
  | 2 =>
    leAt d 0x20 8 % 256 == 0 && leAt d 0x28 8 % 256 == 0 && within 16 5120 (leAt d 0x30 2) && within 16 2880 (leAt d 0x32 2)
      && within 1 6 (leAt d 0x34 1) && decide (leAt d 0x35 1 < 8) && leAt d 0x38 8 % 256 == 0 && leAt d 0x40 4 % 256 == 0
      && leAt d 0x44 4 == 0 && leAt d 0x50 48 == 0
  | 3 =>
    let L := leAt d 0x34 1
    leAt d 0x20 8 % 256 == 0 && leAt d 0x28 8 % 256 == 0 && within 16 5120 (leAt d 0x30 2) && within 16 2880 (leAt d 0x32 2)
      && within 1 4 L && decide (leAt d 0x35 1 < 4) && within 16 256 (leAt d 0x36 2) && leAt d 0x36 2 % 2 ^ (L - 1) == 0
      && within 1 255 (leAt d 0x38 1) && within (leAt d 0x38 1) 255 (leAt d 0x39 1) && within 1 8 (leAt d 0x3A 1)
      && within 0 50 (leAt d 0x3B 1) && leAt d 0x3D 3 == 0 && leAt d 0x58 4 % 256 == 0
      && decide (2 * leAt d 0x30 2 ≤ leAt d 0x58 4) && leAt d 0x5C 36 == 0
  | _ => false

/-! ### Engines -/

/-- The physical engines of a class, in the order of their logical indices (R207: VIS_CD_FMAP). -/
def State.classEngines (s : State) (op : Nat) : List Nat :=
  match op with
  | 1 => [12, 13, 14, 15]
  | 2 => (rangeFrom 0 4).map fun l => s.fld R.VIS_CD_FMAP [] (4 * l + 2) (4 * l)
  | _ => [8, 9]

/-- Is a logical engine of a class absent? -/
def State.engineAbsent (s : State) (op l : Nat) : Bool :=
  match op with
  | 1 => s.bit R.VIS_CD_STATUS [] (16 + l)
  | 2 => s.bit R.VIS_CD_STATUS [] (10 + l)
  | _ => s.bit R.VIS_CD_STATUS [] (14 + l)

/-- The working engines of a class, lowest logical index first. -/
def State.workingEngines (s : State) (op : Nat) : List Nat :=
  (mapPlaces (fun l e => if s.engineAbsent op l then none else some e) 0 (s.classEngines op)).filterMap id

/-- The engines that a stage may run on: the one that it names, or any if it names none or an absent one (R196, R207); a stage
that starts again on F4 does so there. -/
def State.stageEngines (s : State) (x : Stage) : List Nat :=
  match x.pin with
  | some e => [e]
  | none =>
  if x.logical = 15 ∨ s.engineAbsent x.op x.logical then s.workingEngines x.op
  else ((s.classEngines x.op).drop x.logical).take 1

/-- Chains that have not ended. -/
def State.openChains (s : State) : List Chain := s.vis.chains.filter fun c => c.ended.isNone

/-- The chain and the place of the stage in a given state. -/
def State.stageIn (s : State) (st : StageState) : Option (Chain × Nat) :=
  s.openChains.findSome? fun c => (c.stages.findIdx? fun x => x.state == st).map fun i => (c, i)

/-- The stage that runs on an engine. -/
def State.running (s : State) (e : Nat) : Option (Chain × Nat) := s.stageIn (.running e)

/-- The stopped stage that an engine holds. -/
def State.stoppedOn (s : State) (e : Nat) : Option (Chain × Nat) := s.stageIn (.stopped e)

/-- Keep a chain. -/
def State.putChain (s : State) (c : Chain) : State :=
  s.withVis { s.vis with chains := s.vis.chains.map fun x => if x.ident == c.ident then c else x }

/-- Change a stage of a chain. -/
def State.setStage (s : State) (c : Chain) (i : Nat) (f : Stage → Stage) : State :=
  s.putChain { c with stages := mapPlaces (fun j x => if j = i then f x else x) 0 c.stages }

/-! ### The end of a chain -/

/-- The partner of a stream that belongs to a pair: two streams with `paired` = 1 that name each other (R245). -/
def State.partner (s : State) (n : Nat) : Option Nat :=
  let m := s.fld R.CAP_V_ROUTE [n] 22 19
  if m != n && s.bit R.CAP_V_ROUTE [n] 23 && s.bit R.CAP_V_ROUTE [m] 23 && s.fld R.CAP_V_ROUTE [m] 22 19 == n then some m
  else none

/-- R245: the buffer of a capture stream whose chain ends becomes free or ready; when its partition is reset, free
(R246). -/
def State.captureChainEnd (s : State) (n i status : Nat) : State :=
  let free (s : State) (n : Nat) : State :=
    if s.fld R.CAP_V_STATE [n] (2 * i + 1) (2 * i) = 3 then
      s.setFld R.CAP_V_STATE [n] (2 * i + 1) (2 * i) (if s.bit R.CAP_V_CTRL [n] 1 || status == 0x20 then 0 else 2)
    else s
  (n :: (s.partner n).toList).foldl free s

/-- The flow stage of a chain: the base and pitch of its output. -/
def Chain.vectors (c : Chain) : Nat × Nat :=
  match c.stages.reverse.find? fun x => x.op == 2 with
  | some x => (leAt x.desc 0x38 8, leAt x.desc 0x40 4)
  | none => (0, 0)

/-- Chains whose record can be posted now: those ended with no earlier chain of the same queue before them (R198). -/
def State.postable (s : State) : Option Chain :=
  s.vis.chains.find? fun c =>
    c.ended.isSome && (c.queue.isNone || !(s.vis.chains.any fun d => d.queue == c.queue && decide (d.ident < c.ident)))

/-- Post the records of ended chains, with what they tell SYN (R31). The record of a chain whose queue is no `cq_only` queue
of its context is not posted anywhere. -/
def State.visPost (s : State) : Nat → State
  | 0 => s
  | fuel + 1 =>
    match s.postable with
    | none => s
    | some c =>
      let s := s.withVis { s.vis with chains := s.vis.chains.filter fun d => d.ident != c.ident }
      let e := c.ended.getD { status := 0, at_ := 0, note := .none }
      let s := match c.queue with
        | none => s.noteKeyframe e.note e.status
        | some q =>
          match s.queue q with
          | some x =>
            if x.desc.cqOnly && q / 256 == c.ctx then
              s.complete q
                { seq := 0, tag := c.tag, status := e.status, dlValid := false, preempted := false, late := false,
                  engineUs := c.engineNs / 1000, firstRun := c.firstRun, doneAt := e.at_, note := e.note }
            else s.noteKeyframe e.note e.status
          | none => s.noteKeyframe e.note e.status
      s.visPost fuel

/-- A chain ends with a status (R198, R199): its running and stopped stages are aborted, and its record waits for its
turn. -/
def State.endChain (s : State) (c : Chain) (status : Nat) : State :=
  let engines := c.stages.filterMap fun x =>
    match x.state with | .running e => some e | .stopped e => some e | _ => none
  let s := engines.foldl (fun s e => s.countSat R.VIS_ENG_CNT_ABORT [e] 1 R.VIS_ENG_CNT_OVF [e] 1) s
  let note : KeyframeNote := if c.synOut < 4 then .flow c.synOut c.refresh c.vectors.1 c.vectors.2 else .none
  let s := s.putChain { c with ended := some { status := status, at_ := s.now, note := note }, stages := [] }
  let s := s.count R.VIS_CD_CNT_CHAINS [] 1
  let s := match c.source with
    | .capture n i => s.captureChainEnd n i status
    | _ => s
  s.visPost s.vis.chains.length

/-! ### Dispatch -/

/-- Read a descriptor for a chain's context, with the status that ends the chain if it cannot be used. -/
def State.readDescriptor (s : State) (ctx a : Nat) : Except Nat (List Byte) :=
  if a % 64 ≠ 0 then .error 0x10
  else
    match s.readFor ctx a 128 with
    | .denied => .error 0x13
    | .uncorrectable _ => .error 0x11
    | .ok d => if stageHeaderGood d && stageBodyGood d then .ok d else .error 0x10

/-- Where a chain goes on: it needs its next descriptor, it has come to its end, or neither yet. -/
inductive ChainNeed where
  | none | fetch (addr : Nat) | done
  deriving DecidableEq, Repr

/-- R195. -/
def Chain.need (c : Chain) : ChainNeed :=
  match c.stages.getLast? with
  | .none => .none
  | some x =>
    let allEnded := c.stages.all Stage.isEnded
    if x.nextAddr ≠ 0 then (if allEnded || (x.par && x.started) then .fetch x.nextAddr else .none)
    else if allEnded then .done else .none

/-- One chain goes on as far as its descriptors allow. -/
def State.advanceChain (s : State) (c : Chain) : State :=
  match c.need with
  | .none => s
  | .done => s.endChain c 0x00
  | .fetch a =>
    match s.readDescriptor c.ctx a with
    | .error st => s.endChain c st
    | .ok d =>
      s.putChain { c with stages := c.stages ++ [{ desc := d, state := .waiting, done := false, restarted := false, pin := none }] }

/-- May the stage at place `i` of a chain start (R195)? -/
def Chain.stageReady (c : Chain) (i : Nat) : Bool :=
  (c.stages.getD i { desc := [], state := .ended, done := false, restarted := false, pin := none }).state == .waiting
    && ((c.stages.take i).all Stage.isEnded
      || (match c.stages[i - 1]? with | some p => decide (0 < i) && p.par && p.started | none => false))

/-- The ready stages of a class in the order of R196. -/
def State.readyStages (s : State) (op : Nat) : List (Chain × Nat × Stage) :=
  sortBy (fun x => [x.1.prio, x.1.ident]) ((s.openChains.map fun c =>
    ((mapPlaces (fun i x => (c, i, x)) 0 c.stages).filter fun t => t.2.2.op == op && c.stageReady t.2.1)).flatten)

/-- May an engine take a stage of this priority now: it is idle, and a stopped stage that it holds has lower priority
(R197), and is not gated (R409)? -/
def State.engineFree (s : State) (e prio : Nat) : Bool :=
  !s.pwr.gated.contains (.engine e) && (s.running e).isNone
    && (match s.stoppedOn e with | some (c, _) => decide (prio < c.prio) | none => true)

/-- The first ready stage of a class with an engine for it, in order. -/
def State.nextStart (s : State) (op : Nat) : Option (Chain × Nat × Nat) :=
  (s.readyStages op).findSome? fun (c, i, x) =>
    ((s.stageEngines x).find? fun e => s.engineFree e c.prio).map fun e => (c, i, e)

/-- A ready stage of a class without working engines, which ends its chain (R207). -/
def State.stranded (s : State) : Option Chain :=
  ([1, 2, 3] : List Nat).findSome? fun op =>
    if (s.workingEngines op).isEmpty then (s.readyStages op).head?.map fun t => t.1 else none

/-- One action of the dispatcher, if there is one. -/
def State.visAct (s : State) : Option State :=
  match s.openChains.find? fun c => c.need != .none with
  | some c => some (s.advanceChain c)
  | none =>
    match s.stranded with
    | some c => some (s.endChain c 0x3F)
    | none =>
      match ([1, 2, 3] : List Nat).findSome? s.nextStart with
      | some (c, i, e) =>
        some (s.setStage { c with firstRun := if c.firstRun = 0 then s.now else c.firstRun } i fun x =>
          { x with state := .running e })
      | none => none

/-- The dispatcher acts until nothing more can start. -/
def State.visDispatch (s : State) : Nat → State
  | 0 => s
  | fuel + 1 => match s.visAct with | some t => t.visDispatch fuel | none => s

/-- The dispatcher after a change: each chain can be fetched, started and ended a few times at most in one step. -/
def State.visRun (s : State) : State := s.visDispatch (16 + 4 * s.vis.chains.length)

/-- A chain reaches the dispatcher, which has a place for it (R194, R371). -/
def State.acceptChain (s : State) (source : ChainSource) (a : Nat) : State :=
  let d := s.bytes a 128
  let q := leAt d 6 2
  let ctx := leAt d 4 1 % 64
  let chain : Chain :=
    { ident := s.vis.nextChain, source := source, ctx := ctx, prio := leAt d 2 1 % 4, synOut := leAt d 3 1 % 8,
      queue := if natBit q 15 then some (q % 2 ^ 14) else none, tag := BitVec.ofNat 32 (leAt d 0x10 4),
      timeout := leAt d 0x14 4, refresh := BitVec.ofNat 32 (leAt d 0x18 4), stages := [], firstRun := 0, engineNs := 0, ended := none }
  let stage : Stage := { desc := d, state := .waiting, done := false, restarted := false, pin := none }
  let s := s.withVis { s.vis with nextChain := s.vis.nextChain + 1, chains := s.vis.chains ++ [chain] }
  let s :=
    if s.partResetting (s.ctxPart ctx) then s.endChain chain 0x20
    else if a % 64 ≠ 0 then s.endChain chain 0x10
    else
      match s.readFor ctx a 128 with
      | .denied => s.endChain chain 0x13
      | .uncorrectable _ => s.endChain chain 0x11
      | .ok _ =>
        if chainHeaderGood d && stageHeaderGood d && stageBodyGood d && s.prioAllowed (s.ctxPart ctx) chain.prio then
          s.putChain { chain with stages := [stage] }
        else s.endChain chain 0x10
  s.visRun

/-- Are 256 chains held? -/
def State.visFull (s : State) : Bool := decide (256 ≤ s.vis.chains.length)

/-- A submission by host software or capture: refused and counted when 256 chains are held (R211). -/
def State.submitChain (s : State) (source : ChainSource) (a : Nat) : State × Bool :=
  if s.visFull then (s.countSat R.VIS_CD_CNT_REJECT [] 1 R.VIS_CD_CNT_OVF [] 0, false)
  else (s.acceptChain source a, true)

/-- The first submission that waits for a place is taken (R211). -/
def State.visWaiting (s : State) : State :=
  match s.vis.waiting with
  | [] => s
  | w :: rest =>
    if s.visFull then s
    else (s.withVis { s.vis with waiting := rest }).acceptChain (if w.site.isSome then .task else .sketch) w.addr

/-- After a change of chains: submissions that wait for a place are taken while there is one. -/
def State.visSettle (s : State) : Nat → State
  | 0 => s
  | fuel + 1 => if s.vis.waiting.isEmpty || s.visFull then s else s.visWaiting.visSettle fuel

/-- The dispatcher goes on, and submissions that wait are taken. -/
def State.visGo (s : State) : State := let s := s.visRun; s.visSettle s.vis.waiting.length

/-- End every open chain that satisfies a test. -/
def State.endChains (s : State) (p : Chain → Bool) (status : Nat) : State :=
  ((s.openChains.filter p).foldl (fun s c => s.endChain c status) s).visGo

end Sys2Proof.Machine
end

