-- ==== Sys2Proof/Machine/Units.lean ====
section
/-! DEFINITION. Box units and sketch units, what the end of a task or an eviction needs of them: which call or pass runs
(R168, R191), and how they are aborted (R169, R192). -/

namespace Sys2Proof.Machine

/-! ### Box units -/

/-- Is a call on the box unit of a cluster? -/
def BoxCall.on (b : BoxCall) (d k : Nat) : Bool := b.cluster == 8 * d + k

/-- R168: the call that a box unit runs is the one of highest priority, one already started first, then in submission
order. -/
def State.boxSchedule (s : State) (d k : Nat) : State :=
  let mine := mapPlaces (fun i b => (i, b)) 0 s.boxes
  match leastBy (fun x => [x.2.prio, b2n (!x.2.started), x.1]) (mine.filter fun x => x.2.on d k) with
  | none => s
  | some (i, _) =>
    s.withBoxes (mapPlaces (fun j b =>
        if j = i then { b with started := true, running := true }
        else if b.on d k then { b with running := false } else b) 0 s.boxes)

/-- The call that a box unit runs. -/
def State.boxRunning (s : State) (d k : Nat) : Option BoxCall := s.boxes.find? fun b => b.on d k && b.running

/-- R168: the pending calls of a box unit. -/
def State.boxPending (s : State) (d k : Nat) : Nat := (s.boxes.filter fun b => b.on d k && !b.started).length

/-- R169: a call has been aborted: it is counted, with the clocks that it has run, whose number is open (Table 6.7). -/
def State.boxGone (s : State) (b : BoxCall) : State :=
  let ix := [b.cluster / 8, b.cluster % 8]
  let s := if b.started then s.draw.count R.BOX_BUSY_CLK ix (s.drawn 32).toNat else s
  (s.countSat R.BOX_CNT_ABORT ix 1 R.BOX_CNT_OVF ix 2).boxSchedule (b.cluster / 8) (b.cluster % 8)

/-- R169: abort calls. -/
def State.abortCalls (s : State) (p : BoxCall → Bool) : State :=
  (s.boxes.filter p).foldl State.boxGone (s.withBoxes (s.boxes.filter fun b => !p b))

/-! ### Sketch units -/

/-- A pass at work: binning or in a tile phase. -/
def Pass.active (p : Pass) : Bool := p.phase == .binning || p.phase == .partialTiles || p.phase == .tiles

/-- Has a pass been taken by its units, to run now or later? -/
def Pass.begun (p : Pass) : Bool := p.active || p.phase == .stopped

/-- Do two passes share a sketch unit? -/
def Pass.shares (p q : Pass) : Bool := (BitVec.ofNat 16 p.mask &&& BitVec.ofNat 16 q.mask) != 0

/-- Is it the same pass? -/
def Pass.is (p q : Pass) : Bool := p.qid == q.qid && p.seq == q.seq && p.number == q.number

/-- Change a pass. -/
def State.putPass (s : State) (p : Pass) : State := s.withPasses (s.passes.map fun q => if q.is p then p else q)

/-- The register index of a sketch unit. -/
def skuIx (u : Nat) : List Nat := [u / 8, u % 8]

/-- Where a pass goes on: in a partial render while primitives wait for it, in the last tile phase once its range has ended. -/
def Pass.settle (p : Pass) : Pass :=
  if !p.todo.isEmpty then { p with phase := .partialTiles }
  else if p.binDone || decide (p.length ≤ p.parsed) then { p with binDone := true, phase := .tiles }
  else { p with phase := .binning }

/-- A counter of every unit of a pass that saturates, with its sticky bit. -/
def State.countUnits (s : State) (p : Pass) (r : Reg) (bit : Nat) : State :=
  (maskUnits p.mask).foldl (fun s u => s.countSat r (skuIx u) 1 R.SKU_CNT_OVF (skuIx u) bit) s

/-- R191: a pass stops: its tiles in flight are stored, its lists are kept, and each of its units counts. A store that fails ends
its task, when it is resumed. -/
def State.stopPass (s : State) (p : Pass) : State :=
  let r := s.storeTiles p false p.inFlight
  (r.1.putPass { p.stow p.inFlight with phase := .stopped, stops := p.stops + 1, fault := r.2 }).countUnits p R.SKU_CNT_SUSPEND 1

/-- R191: does a pass that waits come before another, of a higher priority or of the same and earlier? -/
def State.waitsBefore (s : State) (q p : Pass) : Bool :=
  q.phase == .pending && (decide (q.prio < p.prio)
    || (q.prio == p.prio && (s.passes.takeWhile fun r => !r.is p).any fun r => r.is q))

/-- May a pending pass start now? No unit that it needs is gated (R409), held by a pass of the same or higher priority, or due
to a pass that waits before it. -/
def State.passMayStart (s : State) (p : Pass) : Bool :=
  p.phase == .pending
    && !(s.pwr.gated.any fun g => match g with | .sketch u => natBit p.mask u | _ => false)
    && !(s.passes.any fun q => !q.is p && q.shares p && ((q.begun && decide (q.prio ≤ p.prio)) || s.waitsBefore q p))

/-- Start a pass: passes of lower priority on its units stop. -/
def State.startPass (s : State) (p : Pass) : State :=
  ((s.passes.filter fun q => q.active && q.shares p && decide (p.prio < q.prio)).foldl State.stopPass s).putPass p.settle

/-- R191: does every unit of a mask hold fewer than 16 pending passes? -/
def State.passRoom (s : State) (mask : Nat) : Bool :=
  (maskUnits mask).all fun u =>
    decide ((s.passes.filter fun p => p.phase == .pending && natBit p.mask u).length < 16)

/-- R191: start pending passes; then a submission that has stalled goes in where a unit has room, the first first. -/
def State.sketchRun (s : State) : Nat → State
  | 0 => s
  | fuel + 1 =>
    match leastBy (fun p : Pass => [p.prio]) (s.passes.filter s.passMayStart) with
    | some p => (s.startPass p).sketchRun fuel
    | none =>
      match s.passes.find? fun p => p.phase == .stalled && s.passRoom p.mask with
      | some p => (s.putPass { p with phase := .pending }).sketchRun fuel
      | none => s

/-- Each pass is admitted and started at most once. -/
def State.sketchSchedule (s : State) : State := s.sketchRun (2 * s.passes.length)

/-- R192: abort passes. -/
def State.abortPasses (s : State) (f : Pass → Bool) : State :=
  let gone := s.passes.filter f
  let s := s.withPasses (s.passes.filter fun p => !f p)
  (gone.foldl (fun s p => s.countUnits p R.SKU_CNT_ABORT 2) s).sketchSchedule

end Sys2Proof.Machine
end

