-- ==== Sys2Proof/Machine/Sems.lean ====
section
/-! DEFINITION. Tasks and slots as the scheduler sees them, which slot a core runs (R100, R265), semaphores and lending
(R273–R275). -/

namespace Sys2Proof.Machine

/-! ### Tasks and slots -/

/-- A task. -/
def State.task (s : State) (q : Nat) (seq : Word) : Option Task := s.sch.tasks.find? fun t => t.qid == q && t.entry.seq == seq

/-- Change a task. -/
def State.putTask (s : State) (t : Task) : State :=
  s.withSch { s.sch with
      tasks := s.sch.tasks.map fun x => if x.qid == t.qid && x.entry.seq == t.entry.seq then t else x }

/-- The slot that holds live task state at a core and index. -/
def State.slotAt (s : State) (core i : Nat) : Option Slot := s.sch.slots.find? fun x => x.core == core && x.idx == i

/-- Change a slot. -/
def State.putSlot (s : State) (x : Slot) : State :=
  s.withSch { s.sch with slots := s.sch.slots.map fun y => if y.core == x.core && y.idx == x.idx then x else y }

/-- The task whose state a slot holds. -/
def State.slotTask (s : State) (x : Slot) : Option Task := s.task x.qid x.seq

/-- The slots that a task holds on its cores. -/
def State.slotsOf (s : State) (t : Task) : List Slot := s.sch.slots.filter fun x => x.qid == t.qid && x.seq == t.entry.seq

/-- Its records in a lay-by. -/
def State.laybyOf (s : State) (t : Task) : List Layby :=
  s.sch.layby.filter fun l => l.slot.qid == t.qid && l.slot.seq == t.entry.seq

/-- R261: is a queue named by `slice_q` of an enabled output? -/
def State.isSliceQueue (s : State) (q : Nat) : Bool :=
  (rangeFrom 0 4).any fun o => s.bit R.SYN_CTRL [o] 0 && s.bit R.SYN_QUEUE [o] 15 && s.fld R.SYN_QUEUE [o] 13 0 == q

/-- The slice tag of a task; in an entry of a queue that no enabled output names it is treated as absent (R261). -/
def State.sliceTag (s : State) (t : Task) : Option (Word × Nat × Nat) := if s.isSliceQueue t.qid then t.entry.slice else none

/-- What a task record of the trace holds: sequence, status, slot, in that order (DESIGN CHOICE, log 22). -/
def taskPayload (seq : Word) (status slot : Nat) : List Byte :=
  leBytes 4 seq.toNat ++ leBytes 1 status ++ leBytes 1 slot ++ zeros 10

/-! ### What a core runs -/

/-- The slot that a core runs. -/
def State.coreRuns (s : State) (core : Nat) : Option Nat :=
  if s.bit R.CORE_STATUS (s.coreIx core) 2 then some (s.fld R.CORE_STATUS (s.coreIx core) 1 0) else none

/-- TIMEBASE since when a core has run its slot. -/
def State.runStart (s : State) (core : Nat) : Nat :=
  match s.sch.runSince.find? fun e => e.1 == core with
  | some e => e.2
  | none => s.now

/-- R282: the time that the running slot has run is counted. -/
def State.accountRun (s : State) (core : Nat) : State :=
  match s.coreRuns core with
  | none => s
  | some i =>
    let ns := s.now - s.runStart core
    let s := s.withSch { s.sch with runSince := s.sch.runSince.filter fun e => e.1 != core }
    match s.slotAt core i with
    | some x =>
      let s := s.account (x.qid / 256) 0 ns
      (match s.slotTask x with | some t => s.putTask { t with engineNs := t.engineNs + ns } | none => s)
    | none => s

/-- A slot whose held transfers are aborted, to be made again when it runs (R102). -/
def Slot.abortDma (x : Slot) : Slot :=
  { x with image := { x.image with dma := x.image.dma.map fun r =>
      if r.held.isSome then { r with held := none, aborted := true } else r } }

/-- R102, R276: a slot's transfers that a regulator holds abort; the others in flight complete. -/
def State.abortTransfers (s : State) (x : Slot) : State :=
  (s.withSch { s.sch with
    transfers := s.sch.transfers.filter fun h => !(h.core == x.core && h.idx == x.idx) }).putSlot x.abortDma

/-- A core stops running its slot, whose held transfers abort; a slot that yields for a wait keeps them, since what it waits
for may be their end (R102, R265, log 25). -/
def State.coreIdle (s : State) (core : Nat) : State :=
  let t := match (s.coreRuns core).bind (s.slotAt core) with
    | some x => if x.yielded then s else s.abortTransfers x
    | none => s
  (t.accountRun core).setBit R.CORE_STATUS (s.coreIx core) 2 false

/-- R265: is a slot runnable? -/
def State.runnable (s : State) (x : Slot) : Bool :=
  x.phase == .live && !x.halted && !x.yielded && !s.slotFault x.core x.idx && !s.ramMoving x.core

/-- R265: effective priority, then among P1 the earliest deadline, and none after those with one. -/
def slotKey (t : Task) : List Nat :=
  if t.eff = 1 then [1, b2n (!t.entry.dlValid), if t.entry.dlValid then t.entry.deadline else 0] else [t.eff, 0, 0]

/-- R265: the runnable slots among which a core chooses: while it runs one of a static-schedule partition, those of that
partition only (R121). -/
def State.candidates (s : State) (core : Nat) : List Slot :=
  let all := s.sch.slots.filter fun x => x.core == core && s.runnable x
  match all.find? fun x => s.coreRuns core == some x.idx with
  | some r =>
    let p := (s.share core r.idx).part
    if s.isStatic p then all.filter fun x => (s.share core x.idx).part == p else all
  | none => all

/-- R265: the slot that a core is to run; the running one keeps the core against slots of equal rank. -/
def State.chooseSlot (s : State) (core : Nat) : Option Slot :=
  let key (x : Slot) : List Nat :=
    let last := s.fld R.CORE_STATUS (s.coreIx core) 1 0
    let rank := match s.slotTask x with | some t => slotKey t | none => [4, 0, 0]
    rank ++ [b2n (s.coreRuns core != some x.idx), (x.idx + 3 - last) % 4]
  leastBy key (s.candidates core)

/-- R169: calls that the task sequencer submits again, as far as the box unit has room for pending calls (R168). -/
def State.resubmit (s : State) (x : Slot) : State :=
  let d := x.core / 128
  let k := x.core / 16 % 8
  let room := 64 - s.boxPending d k
  if x.calls.isEmpty || room = 0 then s
  else
    let again := (x.calls.take room).map fun b => { b with started := false, running := false, done := false }
    ((s.putSlot { x with calls := x.calls.drop room }).withBoxes (s.boxes ++ again)).boxSchedule d k

/-- R168: a write that a full box unit has stalled goes in. -/
def State.unstall (s : State) (x : Slot) : State :=
  let d := x.core / 128
  let k := x.core / 16 % 8
  match x.wait with
  | some (.boxFull b, _) =>
    if s.boxPending d k < 64 ∧ x.calls.isEmpty then
      ((s.putSlot { x with wait := none }).withBoxes (s.boxes ++ [b])).boxSchedule d k
    else s
  | _ => s

/-- A running slot submits what it owes its box unit. -/
def State.boxAdmitSlot (s : State) (core i : Nat) : State :=
  let s := match s.slotAt core i with | some x => s.resubmit x | none => s
  match s.slotAt core i with | some x => s.unstall x | none => s

/-- A box unit has room: the running slots of its cluster submit what they owe it. -/
def State.boxAdmit (s : State) (d k : Nat) : State :=
  (s.sch.slots.filter fun x => x.core / 16 == 8 * d + k && s.coreRuns x.core == some x.idx).foldl
    (fun s x => s.boxAdmitSlot x.core x.idx) s

/-- A slot begins to run on its core (R100): a change of slot is a switch, counted also when the core has run none since reset
(DESIGN CHOICE, log 15: `run_slot` is 0 then); the first run of a task is noted. Its aborted transfers and box calls are issued
again (R102, R169). -/
def State.startSlot (s : State) (x : Slot) : State :=
  let ix := s.coreIx x.core
  let s := if s.fld R.CORE_STATUS ix 1 0 ≠ x.idx then
      (s.count R.CORE_CNT_SWITCH ix 1).trace 3 (some (x.qid / 256)) (traceWord x.qid (x.qid / 256) x.core)
        (taskPayload x.seq 0 x.idx)
    else s
  let s := (s.setFld R.CORE_STATUS ix 1 0 x.idx).setBit R.CORE_STATUS ix 2 true
  let site := s.siteAt x.core
  let s := s.withSch { s.sch with
    runSince := upsert (fun e => e.1 == x.core) (x.core, s.now) s.sch.runSince
    ran := if s.sch.ran.contains (site, x.idx) then s.sch.ran else (site, x.idx) :: s.sch.ran }
  let s := s.putSlot { x with image := { x.image with dma := x.image.dma.map fun r => { r with aborted := false } } }
  let s := s.boxAdmitSlot x.core x.idx
  match s.slotTask x with
  | some t =>
    if t.firstRun = 0 then (s.putTask { t with firstRun := s.now }).account t.ctx 4 (s.now - t.entry.rungAt) else s
  | none => s

/-- A switch that takes the core from a slot for one of higher effective priority counts as a pre-emption (R282). -/
def State.notePreempt (s : State) (old new : Slot) : State :=
  match s.slotTask old, s.slotTask new with
  | some a, some b =>
    if s.runnable old && decide (b.eff < a.eff) then (s.putTask { a with preempted := true }).account a.ctx 3 1 else s
  | _, _ => s

/-- The core switches to the slot that R265 chooses, or idles. -/
def State.switchCore (s : State) (core : Nat) : State :=
  match s.coreRuns core, s.chooseSlot core with
  | some i, some x =>
    if x.idx = i then s
    else
      let s := match s.slotAt core i with | some old => s.notePreempt old x | none => s
      (s.coreIdle core).startSlot x
  | some _, none => s.coreIdle core
  | none, some x => s.startSlot x
  | none, none => s

/-- An idle core takes the slot that R265 chooses. -/
def State.wakeCore (s : State) (core : Nat) : State := if (s.coreRuns core).isNone then s.switchCore core else s

/-- The slot of a task program's command, while it is live, not halted, and running. -/
def State.runningSlot (s : State) (core i : Nat) : Option Slot :=
  match s.slotAt core i with
  | some x => if x.phase == .live && !x.halted && s.coreRuns core == some i then some x else none
  | none => none

/-- The slot that a command names, if it runs. -/
def State.slotNamed (s : State) (n : SlotName) : Option Slot := s.runningSlot (coreId n.at_) n.slot.val

/-! ### Halo stalls (R165) -/

/-- The compute clock of a cluster in MHz (Table 19.5). -/
def State.computeMHz (s : State) (d k : Nat) : Nat :=
  ([2200, 2000, 1800, 1600, 1400, 1200, 900, 600] : List Nat).getD (s.fld R.PWR_CLU_PSTATE [8 * d + k] 14 12) 600

/-- R165: the compute clocks that a slot has waited on a halo word are counted. -/
def State.countHalo (s : State) (x : Slot) : State :=
  match x.phase, x.wait with
  | .live, some (.flag _ _, since) =>
    s.count R.CORE_SLOT_HALOSTALL (s.coreIx x.core ++ [x.idx])
      ((s.now - since) * s.computeMHz (x.core / 128) (x.core / 16 % 8) / 1000)
  | _, _ => s

/-! ### Semaphores -/

/-- A semaphore's holders and waiters. -/
def State.sem (s : State) (k : Nat) : Sem :=
  (s.sch.sems.find? fun x => x.ident == k).getD { ident := k, holders := [], waiters := [] }

/-- Keep a semaphore; one with nothing to hold is not listed. `waiters` of its register follows. -/
def State.putSem (s : State) (x : Sem) : State :=
  let sems := if x.holders.isEmpty && x.waiters.isEmpty then s.sch.sems.filter fun y => y.ident != x.ident
    else upsert (fun y => y.ident == x.ident) x s.sch.sems
  (s.withSch { s.sch with sems := sems }).setFld R.SCH_SEM_STATE [x.ident] 31 24 (min 255 x.waiters.length)

/-- Units held. -/
def State.semHeld (s : State) (k : Nat) : Nat := s.fld R.SCH_SEM_STATE [k] 15 0

/-- The owner. -/
def State.semOwner (s : State) (k : Nat) : Option Nat :=
  if s.bit R.SCH_SEM_STATE [k] 22 then some (s.fld R.SCH_SEM_STATE [k] 21 16) else none

/-- Set the units held, with the owner; none held clears the owner (R273). -/
def State.setHeld (s : State) (k held owner : Nat) : State :=
  let s := s.setFld R.SCH_SEM_STATE [k] 15 0 held
  if held = 0 then (s.setBit R.SCH_SEM_STATE [k] 22 false).setFld R.SCH_SEM_STATE [k] 21 16 0
  else (s.setBit R.SCH_SEM_STATE [k] 22 true).setFld R.SCH_SEM_STATE [k] 21 16 owner

/-- R273: would an acquire of `n` units by a context succeed? -/
def State.semGrants (s : State) (k ctx n : Nat) : Bool :=
  (match s.semOwner k with | none => true | some o => o == ctx) && decide (s.semHeld k + n ≤ s.fld R.SCH_SEM_CFG [k] 31 16)

/-- An acquire succeeds: units are held, and the task program gets its answer, with the abandoned indication where the bit
is set (R275). -/
def State.semTake (s : State) (k q : Nat) (seq : Word) (n : Nat) : State :=
  let x := s.sem k
  let h := match x.holders.find? fun h => h.qid == q && h.seq == seq with | some h => h.units | none => 0
  let holders := upsert (fun h => h.qid == q && h.seq == seq) { qid := q, seq := seq, units := h + n } x.holders
  let s := s.putSem { x with holders := holders }
  let s := s.setHeld k (s.semHeld k + n) (q / 256)
  let r : AcquireResult := if s.bit R.SCH_SEM_STATE [k] 23 then .abandoned else .granted
  (s.withSch { s.sch with lastAcquire := some (q, seq, r) })

/-- Own priority of a task by name; 4 if there is none. -/
def State.prioOf (s : State) (q : Nat) (seq : Word) : Nat := match s.task q seq with | some t => t.prio | none => 4

/-- Effective priority of a task by name; 4 if there is none. -/
def State.effOf (s : State) (q : Nat) (seq : Word) : Nat := match s.task q seq with | some t => t.eff | none => 4

/-- Is it the slot whose acquire waits? -/
def SemWait.isOf (w : SemWait) (x : Slot) : Bool := x.qid == w.qid && x.seq == w.seq && x.core == w.core && x.idx == w.idx

/-- A blocked acquire has its answer: it is off the list, its time is counted (R282), and its slot, on its core or in a lay-by,
waits no more. -/
def State.endAcquire (s : State) (k : Nat) (w : SemWait) : State :=
  let m := s.sem k
  let s := (s.putSem { m with waiters := m.waiters.filter (· != w) }).account (w.qid / 256) 4 (s.now - w.since)
  let go (x : Slot) : Slot := if w.isOf x then { x with wait := none, yielded := false } else x
  s.withSch { s.sch with slots := s.sch.slots.map go, layby := s.sch.layby.map fun l => { l with slot := go l.slot } }

/-- Grant blocked acquires in order of effective priority, then arrival (R273). The first one that cannot be granted
stops the rest. -/
def State.semGrantLoop (s : State) (k : Nat) : Nat → State
  | 0 => s
  | fuel + 1 =>
    let x := s.sem k
    match leastBy (fun w : SemWait => [s.effOf w.qid w.seq]) x.waiters with
    | none => s
    | some w =>
      if s.semGrants k (w.qid / 256) w.units then
        (((s.endAcquire k w).semTake k w.qid w.seq w.units).wakeCore w.core).semGrantLoop k fuel
      else s

/-- Grant what can be granted. -/
def State.semGrant (s : State) (k : Nat) : State := s.semGrantLoop k (s.sem k).waiters.length

/-! ### Lending (R274) -/

/-- The priority that waiters of a semaphore lend. -/
def semLent (eff : Nat → Word → Nat) (x : Sem) : Nat :=
  (x.waiters.map fun w => eff w.qid w.seq).foldl min 4

/-- One round of lending, from effective priorities to effective priorities. -/
def State.lendRound (s : State) (eff : Nat → Word → Nat) (q : Nat) (seq : Word) : Nat :=
  let lent := (s.sch.sems.filter fun x => (x.holders.take 8).any fun h => h.qid == q && h.seq == seq && h.units != 0).map
    (semLent eff)
  let own := match s.task q seq with | some t => t.prio | none => 4
  lent.foldl min own

/-- Effective priorities, to a depth of 4. -/
def State.lendEff (s : State) : Nat → Word → Nat :=
  let own : Nat → Word → Nat := fun q seq => match s.task q seq with | some t => t.prio | none => 4
  s.lendRound (s.lendRound (s.lendRound (s.lendRound own)))

/-- The lendings in force: holder and semaphore. -/
def State.lends (s : State) : List (Nat × Word × Nat) :=
  (s.sch.sems.map fun x =>
    ((x.holders.take 8).filter fun h =>
      h.units != 0 && decide (semLent s.effOf x < (match s.task h.qid h.seq with | some t => t.prio | none => 0))).map
        fun h => (h.qid, h.seq, x.ident)).flatten

/-- After a change of holders, waiters or tasks: effective priorities are set anew, and lendings that start are counted;
`old` are the lendings before. -/
def State.relend (s : State) (old : List (Nat × Word × Nat)) : State :=
  let eff := s.lendEff
  let tasks := s.sch.tasks.map fun t => { t with eff := eff t.qid t.entry.seq }
  let s := s.withSch { s.sch with tasks := tasks }
  let new := s.lends
  let note (s : State) (l : Nat × Word × Nat) : State :=
    s.trace 5 (some (l.1 / 256)) (traceWord l.1 (l.1 / 256) 0) (taskPayload l.2.1 0 0)
  let started := new.filter fun l => !old.contains l
  let s := started.foldl note (s.count R.SCH_CNT_LEND [] started.length)
  (old.filter fun l => !new.contains l).foldl note s

/-- R275: held becomes 0 and `abandoned` is set; the next acquire is granted. -/
def State.semAbandon (s : State) (k : Nat) : State :=
  let s := s.putSem { s.sem k with holders := [] }
  ((s.setHeld k 0 0).setBit R.SCH_SEM_STATE [k] 23 true).semGrant k

end Sys2Proof.Machine
end

