-- ==== Sys2Proof/Machine/Tasks.lean ====
section
/-! DEFINITION. The end of a task and what it does to its context (R113, R271, R272, R355), and eviction (R267, R268). -/

namespace Sys2Proof.Machine

/-! ### The end of a task -/

/-- The task of a slot or a lay-by record? -/
def Task.holds (t : Task) (q : Nat) (seq : Word) : Bool := q == t.qid && seq == t.entry.seq

/-- A task gives up its blocked acquires; the time that they have waited is counted (R282). -/
def State.dropWaits (s : State) (t : Task) : State :=
  (s.sch.sems.filter fun x => x.waiters.any fun w => t.holds w.qid w.seq).foldl (fun s x =>
    let mine := x.waiters.filter fun w => t.holds w.qid w.seq
    mine.foldl (fun s w => s.account t.ctx 4 (s.now - w.since))
      (s.putSem { x with waiters := x.waiters.filter fun w => !t.holds w.qid w.seq })) s

/-- What the arrays of a slot keep when its task leaves it. -/
def State.keepImage (s : State) (x : Slot) : State :=
  let rest := upsert (fun e => e.1 == s.siteAt x.core && e.2.1 == x.idx) (s.siteAt x.core, x.idx, x.image) s.sch.rest
  (s.withSch { s.sch with rest := rest })

/-- R98, R113: cluster-memory stores that were not fenced become visible. -/
def State.applyStores (s : State) (stores : List Unfenced) : State := stores.foldl (fun s u => s.write u.addr [u.byte]) s

/-- A task leaves its cores: its stores are visible (R113), its waits on halo words are counted (R165), running slots stop, its slots and lay-by records go, and each core runs what R265 chooses. -/
def State.leaveCores (s : State) (t : Task) : State :=
  let mine := s.slotsOf t
  let s := (mine ++ (s.laybyOf t).map (·.slot)).foldl (fun s x => s.applyStores x.image.unfenced) s
  let s := mine.foldl State.countHalo s
  let s := mine.foldl (fun s x => (if s.coreRuns x.core = some x.idx then s.coreIdle x.core else s).keepImage x) s
  let s := s.withSch { s.sch with
    slots := s.sch.slots.filter fun x => !t.holds x.qid x.seq
    transfers := s.sch.transfers.filter fun h => !(mine.any fun x => x.core == h.core && x.idx == h.idx)
    layby := s.sch.layby.filter fun l => !t.holds l.slot.qid l.slot.seq }
  mine.foldl (fun s x => (s.wakeCore x.core).boxAdmit (x.core / 128) (x.core / 16 % 8)) s

/-- The completion record of a task that ran. -/
def Task.completion (t : Task) (status now : Nat) : Completion :=
  { seq := t.entry.seq, tag := t.entry.tag, status := status, dlValid := t.entry.dlValid, preempted := t.preempted,
    late := t.entry.dlValid && decide (t.entry.deadline < now), engineUs := t.engineNs / 1000, firstRun := t.firstRun,
    doneAt := now, note := match t.render with | some r => .render r | none => .none }

/-- The status that a task posts (R53, R87). -/
def Task.endStatus (t : Task) (status : Nat) : Nat := if status = 0 then t.forced.getD 0 else status

/-- A task ends and posts its status: its box calls and passes are aborted, its slots are free, and SYN hears of it. -/
def State.finishTask (s : State) (t : Task) (status : Nat) : State :=
  let old := s.lends
  let status := t.endStatus status
  let halted := (s.slotsOf t).any fun x => x.halted
  let s := (s.abortCalls fun b => t.holds b.qid b.seq).abortPasses fun p => t.holds p.qid p.seq
  let s := s.withVis { s.vis with waiting := s.vis.waiting.filter fun w => !t.holds w.qid w.seq }
  let s := (s.dropWaits t).leaveCores t
  let t := (s.task t.qid t.entry.seq).getD t
  let s := (s.withSch { s.sch with tasks := s.sch.tasks.filter fun x => !t.holds x.qid x.entry.seq }).withBrg { s.brg with rambler := { s.brg.rambler with
      serving := s.brg.rambler.serving.filter fun e => !t.holds e.1 e.2 } }
  let s := s.donorResume.relend old
  let s := s.complete t.qid (t.completion status s.now)
  let s := s.trace 2 (some t.ctx) (traceWord t.qid t.ctx 0) (taskPayload t.entry.seq status 0)
  let s := s.synTaskEnd t.qid t.entry.seq status
  if halted then s.event 0x0E 0 0x09 (leBytes 1 t.ctx ++ leBytes 1 status) else s

/-- R271, Table 11.4: does a status tear the context down? -/
def tearsDown (status : Nat) : Bool := ([0x10, 0x11, 0x13, 0x16, 0x3F] : List Nat).contains status

/-- The unit of a context fault: the core of the task's first slot, or the scheduler when it holds none. -/
def State.taskUnit (s : State) (t : Task) : Nat :=
  match (s.slotsOf t).head? with
  | some x => computeUnit (x.core / 128) (x.core / 16 % 8) (s.physOf x.core)
  | none => hubUnit 0x00080000

/-- The error record of a task's end (R355): a context fault, or an uncorrectable error at a DEV address. -/
def State.faultInfo (s : State) (ctx unit status : Nat) (loc : Option Nat) : ErrInfo :=
  match loc with
  | some a => { cls := 1, code := s.codeOf a, unit := s.unitOf a, status := status, ctx := some ctx,
                part := some (s.ctxPart ctx), loc := some a }
  | none => { cls := 1, code := if status = 0x11 then 0x05 else 0x0F, unit := unit, status := status, ctx := some ctx,
              part := some (s.ctxPart ctx) }

/-- Loads that copy their segments, of the models `p`, stop and end with a status. -/
def State.endLoads (s : State) (p : Model → Bool) (status : Nat) : State :=
  let gone := s.sch.models.filter fun m => p m && m.loading.isSome
  let s := s.withSch { s.sch with models := s.sch.models.filter fun m => !(p m && m.loading.isSome) }
  gone.foldl (fun s m => match m.loading with | some (q, e) => s.complete q (e.completion status s.now) | none => s) s

/-- R272: the context is torn down after a task or entry of it has posted `status`. -/
def State.teardown (s : State) (ctx status q : Nat) (seq : Word) : State :=
  if s.ctxDown ctx then s
  else
    let s := s.setBit R.SCH_CTX_STATUS [ctx] 0 true
    let s := (s.sch.tasks.filter fun t => t.ctx == ctx && t.started).foldl (fun s t => s.finishTask t 0x01) s
    let s := s.endLoads (fun m => m.ctx == ctx) 0x01
    let s := ((s.sch.queues.map (·.ident)).filter fun i => i / 256 == ctx).foldl (fun s i => s.completeRung i 0x01) s
    let s := s.withSch { s.sch with layby := s.sch.layby.filter fun l => l.ctx != ctx }
    let owned := (rangeFrom 0 4096).filter fun k => s.semOwner k == some ctx
    let old := s.lends
    let s := (owned.foldl State.semAbandon s).relend old
    s.event 0x07 ctx 0x01
      (leBytes 1 status ++ leBytes 1 0 ++ leBytes 2 q ++ leBytes 4 seq.toNat ++ zeros 8)

/-- A started task ends with a status, with all that R271 and R355 attach to it. `info` is the record where it is not the
usual one. -/
def State.endTaskWith (s : State) (t : Task) (status : Nat) (loc : Option Nat) (info : Option ErrInfo) : State :=
  let info := info.getD (s.faultInfo t.ctx (s.taskUnit t) status loc)
  let s := s.finishTask t status
  if tearsDown (t.endStatus status) then (s.raise info).teardown t.ctx status t.qid t.entry.seq else s

/-- The usual end of a task. -/
def State.endTask (s : State) (t : Task) (status : Nat) (loc : Option Nat := none) : State :=
  s.endTaskWith t status loc none

/-- The task in a slot ends with a status. -/
def State.endSlot (s : State) (x : Slot) (status : Nat) (loc : Option Nat := none) : State :=
  match s.slotTask x with
  | some t => s.endTask t status loc
  | none => s

/-- An entry that never ran completes with a status (R260, R111). -/
def State.endEntry (s : State) (q : Nat) (e : Entry) (status : Nat) (loc : Option Nat := none) : State :=
  let ctx := q / 256
  let info := s.faultInfo ctx (hubUnit 0x00080000) status loc
  let s := (s.complete q (e.completion status s.now)).synTaskEnd q e.seq status
  if tearsDown status then (s.raise info).teardown ctx status q e.seq else s

/-! ### Eviction (R267, R268) -/

/-- R268: bytes of a lay-by record of a slot with these shares. -/
def SlotShare.recordSize (sh : SlotShare) : Nat := 4096 + 65536 * sh.memUnits + 8192 * sh.hamCount + 32768 * sh.accUnits

/-- R269: the record size of the largest slot of a partition. -/
def State.laybySize (s : State) (p : Nat) : Nat :=
  ((s.partCores p).map fun c =>
    (((rangeFrom 0 4).filter fun i => (s.share c i).valid && (s.share c i).part == p).map fun i =>
      (s.share c i).recordSize).foldl max 0).foldl max 0

/-- Records in use or being written. -/
def State.laybyUsed (s : State) (ctx : Nat) : Nat :=
  (s.sch.layby.filter fun l => l.ctx == ctx).length
    + (s.sch.slots.filter fun x => x.qid / 256 == ctx && x.phase == .evicting).length

/-- R269: records that a context's lay-by holds. -/
def State.laybyCapacity (s : State) (ctx : Nat) : Nat :=
  let size := s.laybySize (s.ctxPart ctx)
  if size = 0 then 0 else (s.rd R.SCH_CTX_LAYBY_SIZE [ctx]).toNat * 4096 / size

/-- An eviction of a slot begins: it is switched out, and its held transfers and its box calls abort, to be issued again
(R102, R169, R268). -/
def State.startEviction (s : State) (x : Slot) (for_ : Option (Nat × Word)) : State :=
  let mine (b : BoxCall) : Bool := b.core == x.core && b.idx == x.idx
  let calls := s.boxes.filter mine
  let s := s.abortCalls mine
  let runs := s.coreRuns x.core == some x.idx
  let s := (if runs then s.coreIdle x.core else s).countHalo x
  let s := s.abortTransfers { x with phase := .evicting, evictFor := for_, calls := x.calls ++ calls }
  let s := if for_.isSome then
      match s.task x.qid x.seq with
      | some t => (s.putTask { t with preempted := true }).account t.ctx 3 1
      | none => s
    else s
  let s := (s.count R.SCH_CNT_EVICT [] 1).trace 4 (some (x.qid / 256)) (traceWord x.qid (x.qid / 256) x.core)
    (taskPayload x.seq 0 x.idx)
  if runs then s.wakeCore x.core else s

/-- The core-memory share of a slot: first byte and bytes. -/
def State.coreShare (s : State) (core i : Nat) : Nat × Nat :=
  let sh := s.share core i
  (coreMemBase (core / 128) (core / 16 % 8) (core % 16) + 65536 * sh.memBase, 65536 * sh.memUnits)

/-- R43: the tensors of a slice task are in the core memory of the slots that run it, once the input stage has read them. -/
def State.placeInputs (s : State) (q : Nat) (seq : Word) : State :=
  match (rangeFrom 0 4).findSome? fun o => (s.out o).runs.find? fun r => r.task == some (q, seq) && !r.inputs.isEmpty with
  | none => s
  | some r =>
    (s.sch.slots.filter fun x => x.qid == q && x.seq == seq && x.phase == .live).foldl (fun s x =>
      let (a, n) := s.coreShare x.core x.idx
      (rangeFrom 0 5).foldl (fun s i =>
        let at_ := Config.inputPlace i % (n + 1)
        s.write (a + at_) ((r.inputs.getD i []).take (n - at_))) s) s

/-- R269: the address of a record of a context's lay-by region. -/
def State.laybyAddr (s : State) (ctx place : Nat) : Nat :=
  s.rdAddr R.SCH_CTX_LAYBY_LO R.SCH_CTX_LAYBY_HI [ctx] + place * s.laybySize (s.ctxPart ctx)

/-- The lowest record of a context's lay-by region that is not in use. -/
def State.laybyPlace (s : State) (ctx : Nat) : Nat :=
  let used := (s.sch.layby.filter fun l => l.ctx == ctx).map (·.place)
  ((rangeFrom 0 (used.length + 1)).find? fun i => !used.contains i).getD 0

/-- Write `n` bytes whose contents the spec does not give. -/
def State.writeOpen (s : State) (a n : Nat) : State := (s.write a (leBytes n (s.drawn (8 * n)).toNat)).draw

/-- R268: a lay-by record is written: the slot's core-memory share after the first 4,096 bytes; the other bytes, which hold the
slot's registers and arrays, are open (log 16), and their contents stay with the record in State. -/
def State.saveRecord (s : State) (x : Slot) (a : Nat) : State :=
  let sh := s.share x.core x.idx
  let (m, n) := s.coreShare x.core x.idx
  let s := (s.copyRange m (a + 4096) n).writeOpen a 4096
  (s.writeOpen (a + 4096 + n) (sh.recordSize - 4096 - n)).dieWrote sh.part (x.core / 128) a sh.recordSize

/-- The write of a record ends: the slot is free, and the record is in the lay-by. -/
def State.endEviction (s : State) (x : Slot) (parked : Bool) : State :=
  let ctx := x.qid / 256
  let place := s.laybyPlace ctx
  let s := (s.saveRecord x (s.laybyAddr ctx place)).keepImage x
  (s.withSch { s.sch with
    slots := s.sch.slots.filter fun y => !(y.core == x.core && y.idx == x.idx)
    layby := s.sch.layby ++ [{ ctx := ctx, slot := x, place := place, parked := parked, since := s.now }] })

/-- Is it the lay-by record of a slot? -/
def Layby.isOf (m : Layby) (x : Slot) : Bool :=
  m.slot.core == x.core && m.slot.idx == x.idx && m.slot.qid == x.qid && m.slot.seq == x.seq

/-- R269: a restore begins; its record stays until it ends. -/
def State.startRestore (s : State) (l : Layby) : State :=
  let x := { l.slot with phase := .restoring, evictFor := none }
  let s := s.withSch { s.sch with slots := s.sch.slots ++ [x] }
  s.account l.ctx 4 (s.now - l.since)

/-- A restore ends: the core-memory share, as the record in memory has it, and the slot's state are back. Its box calls and transfers are issued again when it
runs (R102, R169); a slot that had yielded is runnable again, so that it does, and waits anew (R265, log 16). -/
def State.endRestore (s : State) (x : Slot) (l : Layby) : State :=
  let (m, n) := s.coreShare x.core x.idx
  let a := s.laybyAddr l.ctx l.place
  let s := (s.copyRange (a + 4096) m n).dieRead (s.share x.core x.idx).part (x.core / 128) a (s.share x.core x.idx).recordSize
  let s := s.withSch { s.sch with layby := s.sch.layby.filter fun m => !m.isOf x }
  let s := (s.putSlot { x with phase := .live, yielded := false, wait := x.wait.map fun w => (w.1, s.now) }).count
    R.SCH_CNT_RESTORE [] 1
  let s := s.trace 4 (some (x.qid / 256)) (traceWord x.qid (x.qid / 256) x.core) (taskPayload x.seq 0 x.idx)
  s.wakeCore x.core

end Sys2Proof.Machine
end

