-- ==== Sys2Proof/Machine/CoolBox.lean ====
section
/-! DEFINITION. The next entry of a queue (R260, R263), and the cool box (R277–R279). -/

namespace Sys2Proof.Machine

/-! ### The next entry of a queue -/

/-- R373: is the device in the fatal state? -/
def State.fatal (s : State) : Bool := s.bit R.ERR_STATUS [] 0

/-- May the scheduler handle entries of a partition: dispatch is enabled and not stopped by a park, a reset or the fatal
state? -/
def State.dispatchOn (s : State) (p : Nat) : Bool :=
  s.bit R.SCH_CTRL [] 0 && !s.fatal && !s.partResetting p && !s.sch.stopped.contains p && s.bit R.SCH_PART_CFG [p] 6
    && !s.bit R.SCH_PART_STATUS [p] 0

/-- The next entry of a queue, once every earlier one has started. -/
def State.headOf (s : State) (q : Nat) : Option Entry :=
  match s.queue q with
  | some x => if s.sch.tasks.any fun t => t.qid == q && !t.started then none else x.rung.head?
  | none => none

/-- R263: may a queue have one more task started? -/
def State.roomInFlight (s : State) (q : Nat) : Bool :=
  match s.queue q with
  | some x => decide ((s.startedOf q).length < (if x.desc.serial then 1 else x.desc.maxInflight))
  | none => false

/-- R263: dependencies taken as met because they expired are counted, once the entry is handled: `after` is the state with it
taken from its queue. -/
def State.countExpired (s : State) (q : Nat) (e : Entry) (after : State) : State :=
  let waits := match after.queue q with
    | some x => x.rung.head?.any fun (h : Entry) => h.seq == e.seq
    | none => false
  if waits then after
  else
    let n := (e.deps.filter fun d => s.depState d == DepState.expired).length
    after.countSat R.SCH_CTX_CNT_DEPEXP [q / 256] n R.SCH_CTX_CNT_OVF [q / 256] 1

/-- Handle the next entry of a queue when its op is one of `ops` and it is ready. An entry that cannot be read, or whose op
or dependency is invalid, completes without running (R260). -/
def State.handleHead (s : State) (q : Nat) (ops : Nat → Bool) (f : Entry → State → State) : State :=
  if !s.dispatchOn (s.queuePart q) then s
  else
    match s.headOf q with
    | none => s
    | some e =>
      match e.unreadable with
      | some a => (s.popEntry q).endEntry q e 0x11 (some a)
      | none =>
        if e.depBad || e.op == 0 || decide (6 < e.op) then (s.popEntry q).endEntry q e 0x10
        else if !ops e.op || !s.roomInFlight q then s
        else if e.deps.any fun d => s.depState d == .failed || s.depState d == .waits then s
        else s.countExpired q e (f e s)

/-- DEPENDENCY_CANCEL: an entry with a failed dependency completes with 0x01 (R263, R369). -/
def execDependencyCancel (queue : Fin 16384) (s : State) : Host.Outcome State Fault Refusal :=
  s.live fun s =>
    match s.headOf queue.val with
    | none => s
    | some e =>
      if e.unreadable.isNone && !e.depBad && e.deps.any fun d => s.depState d == .failed then
        let s := s.popEntry queue.val
        (s.complete queue.val (e.completion 0x01 s.now)).synTaskEnd queue.val e.seq 0x01
      else s

/-- ENTRY_MARKER: a marker completes and does nothing else (Table 11.2). -/
def execEntryMarker (queue : Fin 16384) (s : State) : Host.Outcome State Fault Refusal :=
  s.live fun s => s.handleHead queue.val (· == 6) fun e s =>
    let s := s.popEntry queue.val
    s.complete queue.val (e.completion 0x00 s.now)

/-! ### Models -/

/-- A model of a partition. -/
def State.model (s : State) (p handle : Nat) : Option Model :=
  s.sch.models.find? fun m => m.part == p && m.handle == handle

/-- Keep a model. -/
def State.putModel (s : State) (m : Model) : State :=
  let models := upsert (fun x => x.part == m.part && x.handle == m.handle) m s.sch.models
  (s.withSch { s.sch with models := models })

/-- A use of a model makes it most recently used. -/
def State.touchModel (s : State) (m : Model) : State :=
  let s := s.putModel { m with lastUse := s.sch.uses + 1 }
  (s.withSch { s.sch with uses := s.sch.uses + 1 })

/-- The cool box share of a partition in a cluster: first byte and bytes (CLC_CBSHARE). -/
def State.boxShare (s : State) (p cluster : Nat) : Nat × Nat :=
  let v := s.rd R.CLC_CBSHARE [cluster / 8, cluster % 8, p]
  (clusterBase (cluster / 8) (cluster % 8) + 65536 * bits v 7 0, 65536 * bits v 15 8)

/-- Bytes of a partition's cool box share in a cluster. -/
def State.coolShare (s : State) (p cluster : Nat) : Nat := (s.boxShare p cluster).2

/-- The clusters of the assembly. -/
def State.clusters (s : State) : List Nat := rangeFrom 0 (8 * s.dev.assembly.computeDies)

/-- Does a segment of a partition's model for cluster `goal` go to a cluster? One for every cluster goes where the partition has a
share (Table 11.5). -/
def State.segmentGoes (s : State) (p goal cluster : Nat) : Bool := goal == cluster || (goal == 255 && s.coolShare p cluster != 0)

/-- Bytes of a model in a cluster. -/
def State.modelBytes (s : State) (m : Model) (cluster : Nat) : Nat :=
  ((m.segments.filter fun g => s.segmentGoes m.part g.2.2 cluster).map fun g => g.2.1).sum

/-- Bytes that a copy of a whole model moves. -/
def State.modelTotal (s : State) (m : Model) : Nat := (s.clusters.map (s.modelBytes m)).sum

/-- Where segment `i` of a model, of `size` bytes, lies in the share of a cluster. -/
def State.segmentPlace (s : State) (m : Model) (i size cluster : Nat) : Nat :=
  let (b, n) := s.boxShare m.part cluster
  b + 64 * (Config.coolPlace m.part m.handle i cluster % ((n - size) / 64 + 1))

/-- Segment `i` of a model is copied to the share of a cluster by DMA (R18, R277). -/
def State.copySegment (s : State) (m : Model) (i src size cluster : Nat) : State :=
  (s.dieRead m.part (cluster / 8) src size).write (s.segmentPlace m i size cluster)
    ((s.bytes src size).take (s.boxShare m.part cluster).2)

/-- R277: the segments of a model are copied to their clusters' shares. -/
def State.copyModel (s : State) (m : Model) : State :=
  (rangeFrom 0 m.segments.length).foldl (fun s i =>
    let g := m.segments.getD i (0, 0, 0)
    (s.clusters.filter (s.segmentGoes m.part g.2.2)).foldl (fun s c => s.copySegment m i g.1 g.2.1 c) s) s

/-- A hit or a miss of a model is counted for its context (counter 5 or 6), and for each cluster that holds a part of it
(Table 17.5). -/
def State.boxCount (s : State) (ctx : Nat) (m : Model) (hit : Bool) : State :=
  (s.clusters.filter fun c => s.modelBytes m c != 0).foldl
    (fun s c => s.pmcAdd 1 c (if hit then 2 else 3) (some m.part) 1) (s.account ctx (if hit then 5 else 6) 1)

/-- Does a model take room? -/
def Model.takesRoom (m : Model) : Bool := m.resident || m.reloading || m.loading.isSome

/-- R75: does an enabled output name a model, as its synthesizer or as one of its adapter buffers? -/
def State.outputNames (s : State) (m : Model) : Bool :=
  (rangeFrom 0 4).any fun o => s.bit R.SYN_CTRL [o] 0 && s.ctxPart (s.synCtx o) == m.part && m.handle != 0
    && ([s.fld R.SYN_MODEL [o] 15 0, s.fld R.SYN_ADP_BUF [o] 15 0, s.fld R.SYN_ADP_BUF [o] 31 16] : List Nat).contains m.handle

/-- R278: is a model in use? What an enabled output names is kept (R75). -/
def State.modelInUse (s : State) (m : Model) : Bool :=
  m.loading.isSome || m.reloading
    || (s.sch.tasks.any fun t => t.started && t.part == m.part && t.entry.handle == m.handle)
    || s.outputNames m

/-- Bytes free for a model in a cluster. -/
def State.coolFree (s : State) (p cluster : Nat) : Int :=
  (s.coolShare p cluster : Int) -
    ((s.sch.models.filter fun m => m.part == p && m.takesRoom).map fun m => s.modelBytes m cluster).sum

/-- Does a model fit the room that is free in every cluster? -/
def State.coolFits (s : State) (m : Model) : Bool :=
  s.clusters.all fun c => s.modelBytes m c == 0 || decide ((s.modelBytes m c : Int) ≤ s.coolFree m.part c)

/-- R278: evict unpinned models that are not in use, least recently used first, until the model fits or none is left. -/
def State.coolMakeRoom (s : State) (m : Model) : Nat → State
  | 0 => s
  | fuel + 1 =>
    if s.coolFits m then s
    else
      match leastBy (fun x : Model => [x.lastUse]) (s.sch.models.filter fun x =>
          x.part == m.part && x.handle != m.handle && x.resident && !x.pinned && !s.modelInUse x) with
      | some x => (s.putModel { x with resident := false }).coolMakeRoom m fuel
      | none => s

/-- R278: would the pinned models with this one exceed the share of a cluster? -/
def State.coolExceeds (s : State) (m : Model) : Bool :=
  s.clusters.any fun c =>
    decide (0 < s.modelBytes m c) && decide (s.coolShare m.part c < s.modelBytes m c +
      ((s.sch.models.filter fun x => x.part == m.part && x.pinned && x.handle != m.handle).map fun x =>
        s.modelBytes x c).sum)

/-- An op 0x02–0x05 entry completes and leaves its context running (R271). -/
def State.endRequest (s : State) (q : Nat) (e : Entry) (status : Nat) : State :=
  let s := s.popEntry q
  s.complete q (e.completion status s.now)

/-- A segment of a load record, when its fields lie in Table 11.5 and the assembly has its cluster. -/
def State.decodeSegment (s : State) (bs : List Byte) : Option (Nat × Nat × Nat) :=
  let src := leAt bs 0 8
  let size := leAt bs 8 4
  let c := leAt bs 12 1
  if src % 64 == 0 && size % 64 == 0 && (c == 255 || s.clusters.contains c) && leAt bs 13 3 == 0 then some (src, size, c)
  else none

/-- The model that a load record names, or the status that refuses it; `true` marks an access or memory error, which is
no refusal of R277. -/
def State.readLoadRecord (s : State) (ctx a : Nat) : Except (Nat × Bool) (Model × Bool) :=
  match s.readFor ctx a 16 with
  | .denied => .error (0x13, true)
  | .uncorrectable _ => .error (0x11, true)
  | .ok h =>
    let handle := leAt h 0 2
    let n := leAt h 4 4
    let table := leAt h 8 8
    if handle == 0 || decide (1 < leAt h 2 1) || leAt h 3 1 != 0 || !within 1 1024 n || table % 16 != 0 then
      .error (0x10, false)
    else
      match s.readFor ctx table (16 * n) with
      | .denied => .error (0x13, true)
      | .uncorrectable _ => .error (0x11, true)
      | .ok t =>
        let segs := (rangeFrom 0 n).map fun i => s.decodeSegment (sliceBytes t (16 * i) 16)
        if segs.any Option.isNone then .error (0x10, false)
        else
          .ok ({ part := s.ctxPart ctx, handle := handle, segments := segs.filterMap id, pinned := false,
                 resident := false, loading := none, reloading := false, unpinDeferred := false, lastUse := 0,
                 ctx := ctx }, natBit (leAt h 2 1) 0)

/-- Can every source of a model be read for its context? -/
def State.sourcesReadable (s : State) (m : Model) : Except Nat Unit :=
  m.segments.foldl (fun r g =>
    match r with
    | .error e => .error e
    | .ok () =>
      match s.readFor m.ctx g.1 g.2.1 with
      | .ok _ => .ok ()
      | .denied => .error 0x13
      | .uncorrectable _ => .error 0x11) (.ok ())

/-- COOL_BOX_LOAD: a load begins, finds its model loaded, is refused, or waits for room (R277, R278). -/
def execCoolBoxLoad (queue : Fin 16384) (s : State) : Host.Outcome State Fault Refusal :=
  s.live fun s => s.handleHead queue.val (· == 2) fun e s =>
    let q := queue.val
    match s.readLoadRecord (q / 256) e.launch with
    | .error (st, hard) => if hard then (s.popEntry q).endEntry q e st else s.endRequest q e st
    | .ok (m, pin) =>
      match s.model m.part m.handle with
      | some old =>
        ((s.touchModel { old with pinned := old.pinned || pin }).boxCount (q / 256) old true).endRequest q e 0x00
      | none =>
        if s.coolExceeds m then s.endRequest q e 0x13
        else
          match s.sourcesReadable m with
          | .error st => (s.popEntry q).endEntry q e st
          | .ok () =>
            let t := s.coolMakeRoom m s.sch.models.length
            if t.coolFits m then
              (t.touchModel { m with pinned := pin, loading := some (q, e) }).popEntry q
            else t

/-- R270: is a partition parked, or a park of it under way? Its cool box contents are discarded; a load copies again from its start
once dispatch resumes. -/
def State.parked (s : State) (p : Nat) : Bool := s.fld R.SCH_PART_STATUS [p] 1 0 != 0

/-- COOL_BOX_LOAD_END: the last segment of a load is copied; its entry completes. -/
def execCoolBoxLoadEnd (part : Fin 16) (handle : BitVec 16) (s : State) : Host.Outcome State Fault Refusal :=
  s.live fun s =>
    match s.model part.val handle.toNat with
    | none => s
    | some m =>
      match m.loading with
      | none => s
      | some (q, e) =>
        if s.parked part.val then s
        else
          let s := (s.putModel { m with loading := none, resident := true }).copyModel m
          (s.account m.ctx 1 (s.modelTotal m)).complete q (e.completion 0x00 s.now)

/-- A pin, unpin or drop: of an unknown handle or handle 0 it completes with 0x10 (R277, R278). -/
def State.coolRequest (s : State) (q op : Nat) (f : Entry → Model → State → State) : State :=
  s.handleHead q (· == op) fun e s =>
    match s.model (s.queuePart q) (e.launch % 65536) with
    | none => s.endRequest q e 0x10
    | some m => f e m s

/-- COOL_BOX_PIN (R278). -/
def execCoolBoxPin (queue : Fin 16384) (s : State) : Host.Outcome State Fault Refusal :=
  s.live fun s => s.coolRequest queue.val 3 fun e m s =>
    (s.putModel { m with pinned := true, unpinDeferred := false }).endRequest queue.val e 0x00

/-- COOL_BOX_UNPIN: while an enabled output names the model, the unpin waits for it (R75, R278). -/
def execCoolBoxUnpin (queue : Fin 16384) (s : State) : Host.Outcome State Fault Refusal :=
  s.live fun s => s.coolRequest queue.val 4 fun e m s =>
    let m := if s.outputNames m then { m with unpinDeferred := true } else { m with pinned := false }
    (s.putModel m).endRequest queue.val e 0x00

/-- R75: unpins that waited for outputs take effect. -/
def State.applyUnpins (s : State) : State :=
  let models := s.sch.models.map fun m =>
    if m.unpinDeferred && !s.outputNames m then { m with pinned := false, unpinDeferred := false } else m
  (s.withSch { s.sch with models := models })

/-- COOL_BOX_DROP: a model is dropped once it is not in use; until then the entry waits (R278). -/
def execCoolBoxDrop (queue : Fin 16384) (s : State) : Host.Outcome State Fault Refusal :=
  s.live fun s => s.coolRequest queue.val 5 fun e m s =>
    if s.modelInUse m then s
    else
      let models := s.sch.models.filter fun x => !(x.part == m.part && x.handle == m.handle)
      (s.withSch { s.sch with models := models }).endRequest queue.val e 0x00

/-- MODEL_RELOAD_END: a reload ends; tasks that wait for the model can start (R279, R359). -/
def execModelReloadEnd (part : Fin 16) (handle : BitVec 16) (s : State) : Host.Outcome State Fault Refusal :=
  s.live fun s =>
    match s.model part.val handle.toNat with
    | none => s
    | some m =>
      if m.reloading && !s.parked part.val then (s.touchModel { m with reloading := false, resident := true }).copyModel m else s

/-- What the model that a task names means for its start (R279). -/
inductive ModelReady where
  | ready | wait | refused (status : Nat)
  deriving DecidableEq, Repr

/-- R279: the model of a task that is dispatched: a hit, or a miss that is reloaded first. -/
def State.taskModel (s : State) (t : Task) : State × ModelReady :=
  if t.entry.handle = 0 then (s, .ready)
  else
    match s.model t.part t.entry.handle with
    | none => (s, .refused 0x10)
    | some m =>
      if m.loading.isSome || m.reloading then
        (if t.awaitsModel then s else (s.boxCount t.ctx m false).putTask { t with awaitsModel := true }, .wait)
      else if m.resident then
        (if t.awaitsModel then s.touchModel m else (s.touchModel m).boxCount t.ctx m true, .ready)
      else
        let s := if t.awaitsModel then s else (s.boxCount t.ctx m false).putTask { t with awaitsModel := true }
        if s.coolExceeds m then (s, .refused 0x13)
        else
          let r := s.coolMakeRoom m s.sch.models.length
          if r.coolFits m then
            (((r.putModel { m with reloading := true }).account t.ctx 7 (r.modelTotal m)).account t.ctx 1 (r.modelTotal m),
              .wait)
          else (r, .wait)

end Sys2Proof.Machine
end

