-- ==== Sys2Proof/Machine/Texture.lean ====
section
/-! DEFINITION. Texture sampling (R187, Table 7.6): descriptors, addressing modes, formats and filters. Coordinates of 0 to 1 span
the texture, and a fraction is rounded to 1/256 as in R72 (PRESUMED, log 74). -/

namespace Sys2Proof.Machine

/-- Does a texture descriptor keep to Table 7.6? -/
def textureGood (d : List Byte) : Bool :=
  let w := leAt d 8 2
  let h := leAt d 10 2
  leAt d 0 8 % 256 == 0 && decide (1 ≤ w) && decide (w ≤ 16384) && decide (1 ≤ h) && decide (h ≤ 16384)
    && leAt d 12 4 % 256 == 0 && decide (leAt d 16 1 ≤ 6) && decide (1 ≤ leAt d 17 1) && decide (leAt d 17 1 ≤ 15)
    && decide (leAt d 18 1 < 64) && decide (leAt d 19 1 < 32) && leAt d 24 8 == 0

/-- The bytes of a texture, from its first level to its last. -/
def textureBytes (d : List Byte) : Nat := (leAt d 17 1 - 1) * leAt d 20 4 + leAt d 10 2 * leAt d 12 4

/-- Bytes of a texel. -/
def texelSize (fmt : Nat) : Nat := ([2, 3, 4, 4, 1, 2, 8] : List Nat).getD fmt 0

/-- A component `num / den` of 8 bits or fewer, sRGB-decoded where asked. -/
def unorm (srgb : Bool) (num den : Nat) : Fl × Nat := if srgb then (flOf (Config.srgbDecode num den), 1) else (flOfInt num, den)

/-- R, G, B, A of a texel, each a number over a denominator. The bytes are those of a surface's pixel (Table 9.3). -/
def texelOf (fmt : Nat) (srgb : Bool) (bs : List Byte) : List (Fl × Nat) :=
  let b (i : Nat) : Nat := (bs.getD i 0).toNat
  let c := unorm srgb
  let one : Fl × Nat := (flOfInt 1, 1)
  let zero : Fl × Nat := (flOfInt 0, 1)
  let v := leAt bs 0 2
  match fmt with
  | 0 => [c (v / 2048 % 32) 31, c (v / 32 % 64) 63, c (v % 32) 31, one]
  | 1 => [c (b 2) 255, c (b 1) 255, c (b 0) 255, one]
  | 2 => [c (b 2) 255, c (b 1) 255, c (b 0) 255, unorm false (b 3) 255]
  | 3 => [c (b 2) 255, c (b 1) 255, c (b 0) 255, one]
  | 4 => [c (b 0) 255, zero, zero, one]
  | 5 => [c (b 0) 255, c (b 1) 255, zero, one]
  | _ => (rangeFrom 0 4).map fun i => (fp16.decode (leAt bs (2 * i) 2), 1)

/-- Where an addressing mode finds a texel (R187: wrap, mirror, clamp to edge); none: the border. -/
def texelIndex (mode : Nat) (n : Nat) (i : Int) : Option Nat :=
  match mode with
  | 0 => some (i % n).toNat
  | 1 => let j := (i % (2 * n : Nat)).toNat; some (if j < n then j else 2 * n - 1 - j)
  | 2 => some (clampInt 0 (n - 1) i).toNat
  | _ => if 0 ≤ i ∧ i < n then some i.toNat else none

/-- The texel at (i, j) of level 0; past a border it is transparent black. -/
def State.texel (s : State) (ctx : Nat) (d : List Byte) (i j : Int) : Try (List (Fl × Nat)) :=
  let fmt := leAt d 16 1
  let size := texelSize fmt
  let srgb := natBit (leAt d 19 1) 4
  match texelIndex (leAt d 19 1 % 4) (leAt d 8 2) i, texelIndex (leAt d 19 1 / 4 % 4) (leAt d 10 2) j with
  | some x, some y => (s.tryRead ctx (leAt d 0 8 + y * leAt d 12 4 + x * size) size).map (texelOf fmt srgb)
  | _, _ => .ok ((texelOf fmt srgb (zeros size)).map fun c => (flOfInt 0, c.2))

/-- The integer part of a coordinate and its fraction in 1/256, rounded RNE; a fraction of 256 raises the integer (R72). -/
def splitPlace (u : Fl) : Int × Nat :=
  let i := u.floor
  let f := (intOfFl .rne 0 256 ((u.add (flOfInt (-i))).mul (.fin false 256 0))).toNat
  if f = 256 then (i + 1, 0) else (i, f)

/-- Texels weighed in 1/65,536, each component rounded once RNE to FP32. -/
def weighTexels (ts : List (Nat × List (Fl × Nat))) : List Word :=
  (rangeFrom 0 4).map fun c =>
    let at_ (t : Nat × List (Fl × Nat)) : Fl × Nat := t.2.getD c (flOfInt 0, 1)
    let sum := ts.foldl (fun v t => if t.1 = 0 then v else v.add ((at_ t).1.mul (flOfInt t.1))) (flOfInt 0)
    fdivFl sum (flOfInt (65536 * ((ts.head?.map fun t => (at_ t).2).getD 1)))

/-- Does the spec fix the value of a sample? With several levels it gives none that a sample takes, and the taps of an anisotropic
filter are open. -/
def sampleFixed (d : List Byte) : Bool := leAt d 17 1 == 1 && leAt d 18 1 % 4 != 3

/-- Four values of a sample at (u, v) of level 0: the nearest texel, or four texels weighed bilinearly (R187). -/
def State.sampleAt (s : State) (ctx : Nat) (d : List Byte) (u v : Fl) : Try (List Word) :=
  let x := u.mul (flOfInt (leAt d 8 2))
  let y := v.mul (flOfInt (leAt d 10 2))
  if leAt d 18 1 % 4 = 0 then (s.texel ctx d x.floor y.floor).map fun t => weighTexels [(65536, t)]
  else do
    let half : Fl := .fin true 1 (-1)
    let (i, f) := splitPlace (x.add half)
    let (j, g) := splitPlace (y.add half)
    let a ← s.texel ctx d i j
    let b ← s.texel ctx d (i + 1) j
    let c ← s.texel ctx d i (j + 1)
    let e ← s.texel ctx d (i + 1) (j + 1)
    .ok (weighTexels [((256 - f) * (256 - g), a), (f * (256 - g), b), ((256 - f) * g, c), (f * g, e)])

end Sys2Proof.Machine
end

