-- ==== Sys2Proof/Machine/SynTensors.lean ====
section
/-! DEFINITION. The data that SYN moves: the input tensors of a slice (Table 2.3, R43), and the pixels that the warp unit
makes (R54, R70–R72). -/

namespace Sys2Proof.Machine

/-! ### Input tensors (Table 2.3) -/

/-- A number limited to 0 … n − 1. -/
def clampNat (n : Nat) (i : Int) : Nat := (clampInt 0 ((n : Int) - 1) i).toNat

/-- What selects the tensors of one slice. -/
structure SliceView where
  output : Nat
  slice : Nat
  /-- Lines a to b − 1 of an output of W × V pixels, S slices, divisor d, halo h. -/
  a : Nat
  b : Nat
  W : Nat
  V : Nat
  S : Nat
  d : Nat
  h : Nat
  newer : Keyframe
  older : Keyframe
  two : Bool
  history : Bool
  deriving DecidableEq, Repr

/-- Width and height of a keyframe (R30). -/
def SliceView.kfW (v : SliceView) : Nat := ceilDiv v.W v.d
def SliceView.kfH (v : SliceView) : Nat := ceilDiv v.V v.d

/-- First row of the keyframe window, and its rows. -/
def SliceView.kr0 (v : SliceView) : Int := (v.a / v.d : Nat) - (v.h : Int)
def SliceView.rows (v : SliceView) : Nat := (((ceilDiv v.b v.d : Nat) : Int) + v.h - v.kr0).toNat

/-- First history row and history rows; the last slice goes to ceil(V/2). -/
def SliceView.h0 (v : SliceView) : Nat := v.a / 2
def SliceView.hRows (v : SliceView) : Nat := (if v.slice + 1 = v.S then ceilDiv v.V 2 else v.b / 2) - v.h0

/-- `kf`: rows outside the keyframe repeat its nearest edge row (R43). -/
def State.kfTensor (s : State) (v : SliceView) : List Byte :=
  let px (k : Keyframe) (row x : Nat) : List Byte := s.bytes (k.base + row * k.pitch + 16 * x) 16
  ((rangeFrom 0 v.rows).map fun (r : Nat) =>
    let row := clampNat v.kfH (v.kr0 + r)
    ((rangeFrom 0 v.kfW).map fun x => px v.newer row x ++ px (if v.two then v.older else v.newer) row x).flatten).flatten

/-- A stored flow vector as three FP16 values: dx, dy, confidence; a marked vector gives zeros. -/
def flowHalves (rec8 : List Byte) : List Byte :=
  let mark := leAt rec8 0 2
  if mark = 0x8000 ∨ mark = 0x8001 then zeros 6
  else
    let comp (o : Nat) : List Byte :=
      let i := signedOf 16 (leAt rec8 o 2)
      leBytes 2 (fp16.encode .rne false (.fin (decide (i < 0)) i.natAbs (-5)))
    comp 0 ++ comp 2 ++ leBytes 2 (fp16.round .rne false false (leAt rec8 4 1) 255)

/-- `flow`: one vector for each 8 × 8 block of the newer keyframe over the window. -/
def State.flowTensor (s : State) (v : SliceView) : List Byte :=
  let bw := ceilDiv v.kfW 8
  ((rangeFrom 0 (ceilDiv v.rows 8)).map fun (j : Nat) =>
    let row := clampNat (ceilDiv v.kfH 8) (v.kr0 / 8 + j)
    ((rangeFrom 0 bw).map fun x =>
      (if v.two then flowHalves (s.bytes (v.newer.vectors + row * v.newer.vecPitch + 8 * x) 8) else zeros 6)
        ++ zeros 26).flatten).flatten

/-- `hist`: the slice's own rows, or zeros. -/
def State.histTensor (s : State) (v : SliceView) : List Byte :=
  let pitch := ceilDiv v.W 2 * 16
  let n := v.hRows * pitch
  if v.history then s.bytes (s.rdAddr R.SYN_HIST_LO R.SYN_HIST_HI [v.output] + v.h0 * pitch) n else zeros n

/-- A difference of times in 2^-32 ns, in ms, as FP32. -/
def msOf (d : Int) : Word := fp32OfRat (decide (d < 0)) d.natAbs (2 ^ 32 * 1000000)

/-- A difference of scene times, in ms, as FP32. -/
def sceneMs (a b : Nat) : Word := msOf (((a : Int) - b) * 2 ^ 32)

/-- `scal`, with its element 0. -/
def SliceView.scal (v : SliceView) (e0 : Word) : List Byte :=
  let n (k : Nat) : Word := fp32OfInt k
  let e : List Word :=
    [e0, if v.two then sceneMs v.newer.scene v.older.scene else 0, n v.slice, n v.S, n (b2n v.history),
     n (if v.two then 2 else 1), n v.output, n v.d]
  (e.map fun w => leBytes 4 w.toNat).flatten ++ zeros 32

/-- The view of a slice of an output. -/
def State.sliceView (s : State) (o n : Nat) (newer older : Keyframe) (two history : Bool) : SliceView :=
  let t := s.synTiming o
  let S := s.synS o
  { output := o, slice := n, a := firstLine S t.vActive n, b := firstLine S t.vActive (n + 1), W := t.hActive,
    V := t.vActive, S := S, d := s.synD o, h := (s.out o).halo, newer := newer, older := older, two := two,
    history := history }

/-- Bytes of the Table 2.3 tensors of a slice: what a capture slot needs. -/
def SliceView.size (v : SliceView) : Nat :=
  v.rows * v.kfW * 32 + ceilDiv v.rows 8 * ceilDiv v.kfW 8 * 32 + v.hRows * (ceilDiv v.W 2 * 16) + 2048 + 64

/-- What the input stage and a capture read of keyframes, flow vectors and history: address and bytes of each row. -/
def State.sliceReads (s : State) (v : SliceView) : List (Nat × Nat) :=
  let rows := ((rangeFrom 0 v.rows).map fun (r : Nat) => clampNat v.kfH (v.kr0 + r)).eraseDups
  let blocks := ((rangeFrom 0 (ceilDiv v.rows 8)).map fun (j : Nat) => clampNat (ceilDiv v.kfH 8) (v.kr0 / 8 + j)).eraseDups
  let kf (k : Keyframe) : List (Nat × Nat) := rows.map fun y => (k.base + y * k.pitch, 16 * v.kfW)
  let pitch := ceilDiv v.W 2 * 16
  kf v.newer
    ++ (if v.two then kf v.older ++ blocks.map fun y => (v.newer.vectors + y * v.newer.vecPitch, 8 * ceilDiv v.kfW 8) else [])
    ++ (if v.history then [(s.rdAddr R.SYN_HIST_LO R.SYN_HIST_HI [v.output] + v.h0 * pitch, v.hRows * pitch)] else [])

/-- R23: the first of some reads on behalf of a context that fails: its status and, for an error, the address. -/
def State.readsFail (s : State) (ctx : Nat) (reads : List (Nat × Nat)) : Option (Nat × Option Nat) :=
  reads.findSome? fun r =>
    match s.readFor ctx r.1 r.2 with
    | .ok _ => none
    | .denied => some (0x13, none)
    | .uncorrectable a => some (0x11, some a)

/-- The partition of an output's slice context. -/
def State.synPart (s : State) (o : Nat) : Nat := s.ctxPart (s.synCtx o)

/-- R18: reads of SYN or of the warp pass the regulators of the slice context's partition. -/
def State.synRead (s : State) (o : Nat) (reads : List (Nat × Nat)) : State :=
  reads.foldl (fun s r => s.hubRead (s.synPart o) r.1 r.2) s

/-! ### The warp (R54, R70–R72) -/

/-- One application of a transform: none where w′ ≤ 2^−16 or a quotient is not finite. -/
def warpApply (m : Nat → Word) (p q : Word) : Option (Word × Word) :=
  let f (r : Nat) : Word := fadd (fadd (fmul (m (3 * r)) p) (fmul (m (3 * r + 1)) q)) (m (3 * r + 2))
  let w := f 2
  if (Fl.fin false 1 (-16)).lt (flOf w) then
    let u := fdiv (f 0) w
    let v := fdiv (f 1) w
    if (flOf u).isFinite && (flOf v).isFinite then some (u, v) else none
  else none

/-- A transform applied `n` times in succession. -/
def warpTimes (m : Nat → Word) : Nat → Word → Word → Option (Word × Word)
  | 0, p, q => some (p, q)
  | n + 1, p, q =>
    match warpApply m p q with
    | some (u, v) => warpTimes m n u v
    | none => none

/-- 0.5 in FP32. -/
def half32 : Word := 0x3F000000

/-- The source position of a pixel (R72), or none: the pixel at the same place. -/
def warpSource (m : Nat → Word) (times x y : Nat) : Option (Fl × Fl) :=
  match warpTimes m times (fp32OfRat false (2 * x + 1) 2) (fp32OfRat false (2 * y + 1) 2) with
  | some (u, v) => some (flOf (fsub u half32), flOf (fsub v half32))
  | none => none

/-- The last complete output, as a warp reads it. -/
structure Surface where
  base : Nat
  pitch : Nat
  W : Nat
  V : Nat
  deriving DecidableEq, Repr

/-- The pixel at the nearest place of the surface; none: it lies in a word in error. -/
def State.surfacePixel (s : State) (f : Surface) (i j : Int) : Option (List Byte) :=
  let a := f.base + clampNat f.V j * f.pitch + 4 * clampNat f.W i
  match s.readError a 4 with
  | none => some (s.bytes a 4)
  | some _ => none

/-- The bilinear formula of R72 on one component. -/
def warpBlend (c00 c10 c01 c11 fx fy : Nat) : Nat :=
  let t := c00 * (256 - fx) + c10 * fx
  let b := c01 * (256 - fx) + c11 * fx
  (t * (256 - fy) + b * fy + 32768) / 65536

/-- Bilinear filtering at (u, v). -/
def State.warpBilinear (s : State) (f : Surface) (u v : Fl) : Option (List Byte) := do
  let (i, fx) := splitPlace u
  let (j, fy) := splitPlace v
  let c00 ← s.surfacePixel f i j
  let c10 ← s.surfacePixel f (i + 1) j
  let c01 ← s.surfacePixel f i (j + 1)
  let c11 ← s.surfacePixel f (i + 1) (j + 1)
  let one (k : Nat) : Byte :=
    let c (p : List Byte) : Nat := (p.getD k 0).toNat
    BitVec.ofNat 8 (warpBlend (c c00) (c c10) (c c01) (c c11) fx fy)
  pure ((rangeFrom 0 4).map one)

/-- The source pixel that a warp gives an output pixel; `times` applications of a record of Table 3.3. -/
def State.warpPixel (s : State) (f : Surface) (nearest : Bool) (blanket : List Byte) (record : List Byte)
    (times x y : Nat) : Option (List Byte) :=
  let m (k : Nat) : Word := BitVec.ofNat 32 (leAt record (4 * k) 4)
  match leAt record 36 4 % 4 with
  | 1 =>
    match warpSource m times x y with
    | some (u, v) =>
      if nearest then s.surfacePixel f (u.add (.fin false 1 (-1))).floor (v.add (.fin false 1 (-1))).floor
      else s.warpBilinear f u v
    | none => s.surfacePixel f x y
  | 2 => some blanket
  | _ => s.surfacePixel f x y

/-- R71: the layer of a pixel, from channel 7 of the newer keyframe (`some none` selects mode 0), or none where it cannot be
read. -/
def State.layerAt (s : State) (ctx : Nat) (k : Keyframe) (kx ky : Nat) : Option (Option Nat) :=
  match s.readFor ctx (k.base + ky * k.pitch + 16 * kx + 14) 2 with
  | .ok bs =>
    match fp16.decode (leAt bs 0 2) with
    | .fin neg m e =>
      let v := Fl.fin neg m e
      let i := v.floor
      some (if v.eq (flOfInt i) && decide (0 ≤ i) && decide (i < 32) then some i.toNat else none)
    | _ => some none
  | _ => none

/-- The blanket colour of a pipe, as a pixel of the synthesized layer. -/
def State.blanketPixel (s : State) (p : Nat) : List Byte := leBytes 3 (s.applied p R.DSP_BLANKET []).toNat ++ [255]

/-- The last complete output of a pipe, for an output of W × V. -/
def State.lcoSurface (s : State) (p parity W V : Nat) : Surface :=
  { base := if parity = 0 then s.rdAddr R.WRP_LCO0_LO R.WRP_LCO0_HI [p] else s.rdAddr R.WRP_LCO1_LO R.WRP_LCO1_HI [p],
    pitch := (s.rd R.WRP_LCO_PITCH [p]).toNat, W := W, V := V }

/-- Bytes from the first to past the last pixel of a surface. -/
def Surface.extent (f : Surface) : Nat := f.pitch * (f.V - 1) + 4 * f.W

/-- R54: the pixels of a warped slice: none where the warp ends in error (R77, an uncorrectable error). DESIGN CHOICE
(log 33): the region check covers the whole last-output surface, and the last complete output is the one that the pipe holds
when the warp ends. -/
def State.warpSlice (s : State) (o p : Nat) (frame : Word) (n : Nat) (records : List Byte) (newer : Option Keyframe) :
    Option (List Byte) :=
  let t := s.synTiming o
  let S := s.synS o
  let d := s.synD o
  let f := s.lcoSurface p (s.fld R.WRP_STATUS [p] 2 2) t.hActive t.vActive
  let times := min 4 (frame - s.rd R.WRP_LCO_FRAME [p]).toNat
  let blanket := s.blanketPixel p
  let nearest := s.bit R.WRP_CTRL [p] 0
  if s.accessOk (s.synCtx o) f.base f.extent false then
    let first := firstLine S t.vActive n
    let px := (rangeFrom 0 (sliceLines S t.vActive n * t.hActive)).mapM fun i =>
      let x := i % t.hActive
      let y := first + i / t.hActive
      let layer := match newer with
        | some k => s.layerAt (s.synCtx o) k (x / d) (y / d)
        | none => some none
      match layer with
      | none => none
      | some none => s.warpPixel f nearest blanket (zeros 64) times x y
      | some (some l) => s.warpPixel f nearest blanket (sliceBytes records (64 * l) 64) times x y
    px.map List.flatten
  else none

/-- R18: the reads of a warp pass the regulators: the rows of the layer channel and a number of bytes of the surface. How many
bytes of it a warp reads is a FREE VALUE (log 26). -/
def State.warpTraffic (s : State) (o p n : Nat) (newer : Option Keyframe) : State :=
  let t := s.synTiming o
  let f := s.lcoSurface p (s.fld R.WRP_STATUS [p] 2 2) t.hActive t.vActive
  let d := s.synD o
  let first := firstLine (s.synS o) t.vActive n
  let rows := match newer with
    | some k => ((rangeFrom first (sliceLines (s.synS o) t.vActive n)).map (· / d)).eraseDups.map fun y =>
        (k.base + y * k.pitch, 16 * ceilDiv t.hActive d)
    | none => []
  let s := s.draw
  s.synRead o (rows ++ [(f.base, (s.drawn 32).toNat % (f.extent + 1))])

end Sys2Proof.Machine
end

