-- ==== Sys2Proof/Machine/SynSlices.lean ====
section
/-! DEFINITION. The slice race: releases, tagged writes, origin decisions, warps, write-back and the origin record
(R30–R61, R76–R80). -/

namespace Sys2Proof.Machine

/-! ### Runs and origins -/

/-- The released slice that a tag names. -/
def State.run (s : State) (o : Nat) (frame : Word) (n : Nat) : Option SliceRun :=
  (s.out o).runs.find? fun r => r.frame == frame && r.slice == n

/-- Keep a released slice. -/
def State.putRun (s : State) (o : Nat) (r : SliceRun) : State :=
  let x := s.out o
  s.setOut o { x with runs := upsert (fun y => y.frame == r.frame && y.slice == r.slice) r x.runs }

/-- A frame under synthesis. -/
def State.frameRec (s : State) (o : Nat) (frame : Word) : Option FrameRec := (s.out o).frames.find? fun x => x.frame == frame

/-- Keep a frame. -/
def State.putFrame (s : State) (o : Nat) (r : FrameRec) : State :=
  let x := s.out o
  s.setOut o { x with frames := upsert (fun y => y.frame == r.frame) r x.frames }

/-- The bank that is current (R73). -/
def State.curBank (s : State) (o : Nat) : Nat := s.fld R.SYN_STATUS [o] 1 1

/-- The address of a bank. -/
def State.bankAddr (s : State) (o b : Nat) : Nat := s.rdAddr R.SYN_BANK_LO R.SYN_BANK_HI [o] + 0x1000 * b

/-- Does a released slice still copy a bank? -/
def SliceRun.busyWith (r : SliceRun) (b : Nat) : Bool :=
  (r.copying && r.bank == b) || (r.warpCopying && (match r.warp with | some w => w.1 == b | none => false))

/-- The busy flags of SYN_STATUS follow the copies. -/
def State.bankFlags (s : State) (o : Nat) : State :=
  let rs := (s.out o).runs
  (s.setBit R.SYN_STATUS [o] 2 (rs.any fun r => r.busyWith 0)).setBit R.SYN_STATUS [o] 3 (rs.any fun r => r.busyWith 1)

/-- SYN_ENTRIES `in use`, saturating. -/
def State.entriesFlag (s : State) (o : Nat) : State := s.setFld R.SYN_ENTRIES [o] 23 16 (min 255 (s.out o).runs.length)

/-- A slice of the origin map of the frame being scanned (R58). -/
def State.mapCur (s : State) (o n code : Nat) : State :=
  s.setFld R.SYN_OMAP_CUR [o, n / 16] (2 * (n % 16) + 1) (2 * (n % 16)) code

/-- SYN decides, or changes to blanket, the origin of a slice (R51, R57): the write window closes. -/
def State.decideOrigin (s : State) (o : Nat) (frame : Word) (n code : Nat) : State :=
  let s := match s.run o frame n with
    | some r => s.putRun o { r with origin := some code, window := false, direct := false }
    | none => s
  let s := match s.frameRec o frame with
    | some f => s.putFrame o { f with origins := upsert (fun e => e.1 == n) (n, code) f.origins }
    | none => s
  if s.rd R.SYN_FRAME [o] = frame then s.mapCur o n code else s

/-- Is the last complete output of an output's pipe valid (R55)? -/
def State.lcoValid (s : State) (p : Nat) : Bool := s.bit R.WRP_STATUS [p] 1

/-- Set or discard the last complete output (R55). -/
def State.setLco (s : State) (o p : Nat) (v : Bool) : State :=
  (s.setBit R.WRP_STATUS [p] 1 v).setBit R.SYN_STATUS [o] 4 v

/-- The last complete output of an output is discarded, and no frame under way becomes one (R55). -/
def State.discardLco (s : State) (o : Nat) : State :=
  let x := s.out o
  let s := s.setOut o { x with frames := x.frames.map fun f => { f with spoiled := true } }
  match s.pipeOf o with
  | some p => s.setLco o p false
  | none => s.setBit R.SYN_STATUS [o] 4 false

/-- A warp starts: it latches the current bank (R73). -/
def State.startWarp (s : State) (o p : Nat) (r : SliceRun) : State :=
  let b := s.curBank o
  let s := s.putRun o { r with warp := some (b, s.bytes (s.bankAddr o b + 0x800) 2048), warpCopying := true }
  let s := (s.setBit R.WRP_STATUS [p] 0 true).setFld R.WRP_STATUS [p] 13 8 r.slice
  s.bankFlags o

/-- The warp unit, when idle, takes the next slice that waits for it: the earliest one; with no last complete output left
they become blanket. -/
def State.nextWarp (s : State) (o p : Nat) : Nat → State
  | 0 => s
  | fuel + 1 =>
    if s.bit R.WRP_STATUS [p] 0 then s
    else
      match (s.out o).runs.find? fun r => r.origin == some 1 && !r.final && r.warp.isNone with
      | none => s
      | some r =>
        if s.lcoValid p then s.startWarp o p r else (s.decideOrigin o r.frame r.slice 3).nextWarp o p fuel

/-- Table 2.6: the slice takes the fallback ladder: the warp starts, or with no last complete output the pipe fills the
slice. -/
def State.ladder (s : State) (o : Nat) (frame : Word) (n : Nat) : State :=
  match s.pipeOf o with
  | some p =>
    if s.lcoValid p then
      let s := s.decideOrigin o frame n 1
      s.nextWarp o p (s.out o).runs.length
    else s.decideOrigin o frame n 3
  | none => s.decideOrigin o frame n 3

/-! ### Entries that SYN writes (R40, R42, R436) -/

/-- The queue, when it can take an entry of SYN (R42). -/
def State.openQueue (s : State) (q : Nat) : Option Queue :=
  match s.queue q with
  | some x =>
    if x.disabling || x.desc.cqOnly || s.ctxDown (q / 256) || decide (x.desc.size ≤ (x.pLast - x.posted).toNat) then none
    else some x
  | none => none

/-- SYN writes an entry and rings the doorbell of its queue. -/
def State.submitEntry (s : State) (x : Queue) (bs : List Byte) : State :=
  ((s.write (x.desc.subBase + 64 * (x.pLast.toNat % x.desc.size)) bs).doorbell x.ident (x.pLast + 1)).1

/-- Table 2.15, slice task; the deadline in ns, the input descriptor of Table 2.16. -/
def State.sliceEntry (s : State) (o : Nat) (frame : Word) (n deadline input : Nat) : List Byte :=
  leBytes 1 1 ++ leBytes 1 1 ++ leBytes 2 (s.fld R.SYN_MODEL [o] 15 0)
    ++ leBytes 4 (frame.toNat % 65536 + 65536 * n + 2 ^ 24 * o) ++ leBytes 8 deadline
    ++ leBytes 8 (s.rd64 R.SYN_LAUNCH_LO R.SYN_LAUNCH_HI [o]) ++ zeros 24
    ++ leBytes 4 frame.toNat ++ leBytes 1 n ++ leBytes 1 (o + 128) ++ zeros 2 ++ leBytes 8 input

/-- An entry that waits or runs ends with a status before its time (R53, R63). -/
def State.cancelEntry (s : State) (q : Nat) (seq : Word) (status : Nat) : State :=
  match s.task q seq with
  | some t =>
    if t.started then s.finishTask t status
    else
      let s := s.withSch { s.sch with tasks := s.sch.tasks.filter fun x => !x.holds q seq }
      (s.complete q (t.entry.completion status s.now)).synTaskEnd q seq status
  | none =>
    match s.queue q with
    | some x =>
      match x.rung.find? fun e => e.seq == seq with
      | some e =>
        let s := s.putQueue { x with rung := x.rung.filter fun y => y.seq != seq }
        (s.complete q (e.completion status s.now)).synTaskEnd q seq status
      | none => s
    | none => s

/-- An entry that waits or runs ends in error (R23, R271). -/
def State.failEntry (s : State) (q : Nat) (seq : Word) (status : Nat) (loc : Option Nat) : State :=
  match s.task q seq with
  | some t =>
    if t.started then s.endTask t status loc
    else (s.withSch { s.sch with tasks := s.sch.tasks.filter fun x => !x.holds q seq }).endEntry q t.entry status loc
  | none =>
    match s.queue q with
    | some x =>
      match x.rung.find? fun e => e.seq == seq with
      | some e => (s.putQueue { x with rung := x.rung.filter fun y => y.seq != seq }).endEntry q e status loc
      | none => s
    | none => s

/-! ### The nominal slice period (R37) and slice buffer entries -/

/-- The nominal slice period, in 2^-32 ns. -/
def State.nominalSlice (s : State) (o : Nat) : Nat := (s.synTiming o).frame / s.synS o

/-- Lines of the tallest slice. -/
def State.synTallest (s : State) (o : Nat) : Nat := tallest (s.synS o) (s.synTiming o).vActive

/-- SYN_ENTRIES `available` and `needed` for a budget B in ns. -/
def State.setEntries (s : State) (o b : Nat) : State :=
  let t := s.synTiming o
  let s := s.setFld R.SYN_ENTRIES [o] 7 0 (min 255 (entriesAvailable t.hActive (s.synTallest o)))
  s.setFld R.SYN_ENTRIES [o] 15 8 (min 255 (entriesNeeded (nsTb b) (s.fld R.SYN_GEOM [o] 15 12) (s.nominalSlice o)))

/-! ### References (R78–R80) -/

/-- Sample slices per reference. -/
def State.adpSamples (s : State) (o : Nat) : Nat :=
  let c := s.fld R.SYN_ADP_CTRL [o] 19 16
  if c ≤ 4 then 2 ^ c else 4

/-- Is the keyframe of an index complete? -/
def SynOut.kfComplete (x : SynOut) (k : Word) : Bool :=
  match x.keyframe k with
  | some f => f.complete
  | none => false

/-- At the frame boundary of refresh `n`: a reference whose keyframe is late is skipped, and a reference refresh begins or
skips its reference (R79, R80). A reference under way whose `busy` a skip has cleared gives way to the next one (log 34). -/
def State.referenceAt (s : State) (o : Nat) (n : Word) : State :=
  let s := match (s.out o).work with
    | some w =>
      if w.job.isNone && decide (s.synN o ≤ (n - w.refresh).toNat) && !(s.out o).kfComplete w.keyframe then s.adpDrop o
      else s
    | none => s
  let k := s.kfIndex o n
  if s.adpMode o == 2 && s.isKfRefresh o n && k.toNat % s.fld R.SYN_ADP_CTRL [o] 15 8 == 0
      && !s.bit R.SYN_ADP_STATUS [o] 6 then
    let x := s.out o
    let failed := match x.keyframe k with | some f => f.failed | none => false
    if s.bit R.SYN_ADP_STATUS [o] 3 || !x.kfComplete (k - 1) || !x.kfComplete (k - 2) || failed then s.adpSkip o
    else
      let s := s.adpGiveUp o
      let x := s.out o
      let c := s.adpSamples o
      let S := s.synS o
      let samples := (rangeFrom 0 c).map fun j => (5 * x.refNumber.toNat + j * S / c) % S
      let w : AdaptWork := { ref := x.refNumber, keyframe := k, refresh := n, samples := samples, left := rangeFrom 0 c,
                             sel := s.fld R.SYN_ADP_STATUS [o] 1 0, job := none }
      (s.setOut o { x with work := some w }).adpStatus o
  else s

/-- The scene time of a keyframe, once its render descriptor is known. -/
def State.sceneOf (s : State) (o : Nat) (k : Word) : Option Nat :=
  match (s.out o).keyframe k, ((s.out o).keyframe k).bind (·.render) with
  | some f, some _ => some f.scene
  | _, _ =>
    match (s.sch.tasks.filterMap (·.render)).find? fun r => r.synOut == o && s.kfIndex o r.refresh == k with
    | some r => some r.scene
    | none => none

/-- Address of capture slot `j`. -/
def State.captureSlot (s : State) (o j : Nat) : Nat :=
  s.rdAddr R.SYN_ADP_CAP_LO R.SYN_ADP_CAP_HI [o] + j * 65536 * s.fld R.SYN_ADP_CAP_SLOT [o] 7 0

/-- A write of SYN on behalf of the slice context, through its partition's regulators (R18): denied, it has no effect. -/
def State.synWrite (s : State) (o a : Nat) (bs : List Byte) : State :=
  match s.writeFor (s.synCtx o) a bs with
  | .ok t => t.hubWrote (s.synPart o) a bs.length
  | _ => s

/-- R79: the tensors of a sample slice are copied into its capture slot; where a read of them fails the check of R23, nothing
is (log 34). -/
def State.captureSlice (s : State) (o : Nat) (frame : Word) (n : Nat) (history : Bool) (vectors : List Byte) : State :=
  let x := s.out o
  match x.work with
  | none => s
  | some w =>
    match w.left.find? fun j => w.samples.getD j 64 == n with
    | none => s
    | some j =>
      if w.refresh ≠ frame ∨ w.job.isSome then s
      else
        match x.keyframe (w.keyframe - 1), x.keyframe (w.keyframe - 2) with
        | some k1, some k2 =>
          let v := s.sliceView o n k1 k2 true history
          let (s, e0) := match s.sceneOf o w.keyframe with
            | some t => (s, sceneMs t k1.scene)
            | none => (s.draw, s.drawn 32)
          let reads := s.sliceReads v
          let bs := s.kfTensor v ++ s.flowTensor v ++ s.histTensor v ++ vectors ++ v.scal e0
          let s := match s.readsFail (s.synCtx o) reads with
            | none => (s.synRead o reads).synWrite o (s.captureSlot o j) bs
            | some _ => s
          let left := w.left.filter (· != j)
          let s := s.setOut o { s.out o with work := some { w with left := left } }
          let s := (s.setBit R.SYN_ADP_STATUS [o] 3 true).setFld R.SYN_ADP_STATUS [o] 31 16 (w.ref.toNat % 65536)
          if left.isEmpty then s.count R.SYN_ADP_REFS [o] 1 else s
        | _, _ => s

/-! ### The frame boundary (R64) -/

/-- R76, R84, R87: the weight selector of a new frame. Mode 1 keeps `sel`, so that a pending swap waits (R88, log 34). -/
def State.applySelector (s : State) (o : Nat) : State :=
  let x := s.out o
  if x.toZero then
    let claim := if x.swapTo ≠ 0 then 0 else x.claim
    ((s.setOut o { x with toZero := false, swapTo := 0, claim := claim }).setFld R.SYN_ADP_STATUS [o] 1 0 0).adpStatus o
  else if x.swapTo ≠ 0 ∧ s.adpMode o = 2 then
    let s := s.setOut o { x with swapTo := 0, claim := 0 }
    ((s.setFld R.SYN_ADP_STATUS [o] 1 0 x.swapTo).count R.SYN_ADP_SWAPS [o] 1).adpStatus o
  else s

/-- R61: does SYN declare the frame "change expected"? -/
def State.changeOf (s : State) (o : Nat) (newer : Option Word) : Bool :=
  let x := s.out o
  match s.fld R.SYN_CTRL [o] 3 2 with
  | 1 => true
  | 2 => false
  | _ =>
    x.published ||
      match newer, x.lastNewer with
      | some k, some l => after32 k l
      | some _, none => true
      | none, _ => false

/-- The release of slice 0 of a frame. -/
def State.frameBoundary (s : State) (o : Nat) (f : Word) : State :=
  let s := s.applySelector o
  let x := s.out o
  let (pair, count) := x.latchPair
  let newer := pair.map fun p => p.1.index
  let conf := s.rd R.SYN_CONF [o]
  let fr : FrameRec := { frame := f, pair := pair, count := count, change := s.changeOf o newer, conf := conf, origins := [],
                         written := [], spoiled := false, recorded := false }
  let budget := (s.rd R.SYN_BUDGET [o]).toNat
  let s := s.setOut o { x with
    budget := budget
    margin := s.fld R.SYN_MARGIN [o] 17 0
    conf := conf
    frames := (fr :: x.frames.filter fun y => y.frame != f).take 4
    published := false
    lastNewer := newer.orElse fun _ => x.lastNewer }
  let s := match newer with
    | some k => s.poke R.SYN_KF_INDEX [o] k
    | none => s
  let s := if s.isKfRefresh o f then
      s.setOut o ((s.out o).withKeyframe (s.kfIndex o f) f fun k => { k with boundary := true })
    else s
  (s.setEntries o budget).referenceAt o f

/-! ### Release (R40) -/

/-- Table 2.16. -/
def State.inputDescriptor (s : State) (o : Nat) (history : Bool) (count : Nat) (newer : Word) : Nat :=
  s.fld R.SYN_ADP_STATUS [o] 1 0 + 4 * b2n history + 8 * b2n (count == 2) + 256 * s.fld R.SYN_MODEL [o] 23 16
    + 2 ^ 32 * newer.toNat

/-- R(s) of slice `n` of frame `f`: a sample slice is captured, and the slice gets its entry and, unless a keyframe-direct copy
serves it or nothing can be queued, its task. Without a free entry in the slice buffer nothing is written, and the final-flag
check shows the slice blanket (log 32). DESIGN CHOICE (log 32): the entry's deadline is D(s) without its fraction of a ns. -/
def State.releaseSlice (s : State) (o : Nat) (f : Word) (n : Nat) : State :=
  let x := s.out o
  let t := s.sliceTimes o f n x.budget x.margin
  let tm := s.synTiming o
  let mid := t.scan + ((firstLine (s.synS o) tm.vActive n + firstLine (s.synS o) tm.vActive (n + 1)) / 2
    - firstLine (s.synS o) tm.vActive n : Nat) * (s.tFrame o / tm.vTotal)
  let history := x.histGood.contains (n, f - 1)
  let b := s.curBank o
  let vectors := s.bytes (s.bankAddr o b) 2048
  let r : SliceRun :=
    { frame := f, slice := n, deadline := t.deadline.toNat, fallback := t.fallback.toNat, task := none, window := true,
      direct := false, data := [], origin := none, final := false, warp := none, bank := b, vectors := vectors, inputs := [],
      history := history, mid := mid.toNat, copying := false, warpCopying := false }
  let s := s.setOut o { x with histGood := x.histGood.filter fun e => e.1 != n }
  let s := s.captureSlice o f n history vectors
  let fr := s.frameRec o f
  if x.runs.length ≥ s.fld R.SYN_ENTRIES [o] 7 0 then s
  else if s.synD o == 1 && s.bit R.SYN_CTRL [o] 1 && s.isKfRefresh o f && (s.out o).kfComplete (s.kfIndex o f) then
    s.putRun o { r with direct := true }
  else
    match fr.bind (·.pair) with
    | none => s.putRun o r
    | some (newer, _) =>
      let q := s.fld R.SYN_QUEUE [o] 13 0
      match s.openQueue q with
      | none => (s.putRun o r).synCount o R.SYN_CNT_RELDROP 3
      | some qu =>
        let count := match fr with | some y => y.count | none => 0
        let e := s.sliceEntry o f n (t.deadline.toNat / 2 ^ 32) (s.inputDescriptor o history count newer.index)
        let u : SliceUser := { qid := q, seq := qu.pLast, frame := f, slice := n, sel := s.fld R.SYN_ADP_STATUS [o] 1 0, accepted := false }
        let s := s.putRun o { r with task := some (q, qu.pLast), copying := true }
        let s := s.setOut o { s.out o with users := (s.out o).users ++ [u] }
        ((s.bankFlags o).adpStatus o).submitEntry qu e

/-- SLICE_RELEASE (R40): the next slice of an output under synthesis is released. DESIGN CHOICE (log 32): slices of the frame
in progress that are not released when `syn_en` is written 0 never are. -/
def execSliceRelease (output : Fin 4) (s : State) : Host.Outcome State Fault Refusal :=
  s.live fun s =>
    let o := output.val
    let x := s.out o
    let f := x.nextFrame
    let n := x.nextSlice
    if !s.synOn o || x.first || (s.pipeOf o).isNone then s
    else
      let s := if n = 0 then s.frameBoundary o f else s
      let last := n + 1 == s.synS o
      let s := s.setOut o { s.out o with nextFrame := if last then f + 1 else f, nextSlice := if last then 0 else n + 1 }
      (s.releaseSlice o f n).entriesFlag o

/-! ### Until the origin is decided -/

/-- KEYFRAME_DIRECT_END (R56): the copy is complete and the entry final, or the copy ends in error and the warp starts. -/
def execKeyframeDirectEnd (tag : SliceTag) (good : Bool) (s : State) : Host.Outcome State Fault Refusal :=
  s.live fun s =>
    let o := tag.output.val
    match s.run o tag.frame tag.slice.val with
    | none => s
    | some r =>
      if !r.direct || r.origin.isSome then s
      else
        let t := s.synTiming o
        let S := s.synS o
        let first := firstLine S t.vActive r.slice
        let row (k : Keyframe) (y : Nat) : Option (List Byte) :=
          match s.readFor (s.synCtx o) (k.disp + (first + y) * k.dispPitch) (4 * t.hActive) with
          | .ok bs => some bs
          | _ => none
        let reads := match (s.out o).keyframe (s.kfIndex o r.frame) with
          | some k => (rangeFrom 0 (sliceLines S t.vActive r.slice)).map fun y => (k.disp + (first + y) * k.dispPitch, 4 * t.hActive)
          | none => []
        let copy := match (s.out o).keyframe (s.kfIndex o r.frame) with
          | some k => if k.disp = 0 then none else (rangeFrom 0 (sliceLines S t.vActive r.slice)).mapM (row k)
          | none => none
        match copy with
        | some rows =>
          let s := s.synRead o reads
          if good then
            (s.putRun o { r with data := cellsOf rows.flatten, final := true }).decideOrigin o r.frame r.slice 2
          else s.ladder o r.frame r.slice
        | none => s.ladder o r.frame r.slice

/-- Pixels of a released slice. -/
def State.runPixels (s : State) (o : Nat) (r : SliceRun) : Nat := s.slicePixels o r.slice

/-- TAGGED_SLICE_WRITE (R45): accepted while the slice's write window is open, else discarded and counted. DESIGN CHOICE
(log 32): a write or done word for a slice that has no entry is counted as late too. -/
def execTaggedSliceWrite (tag : SliceTag) (offset : BitVec 24) (data : List Byte) (s : State) :
    Host.Outcome State Fault Refusal :=
  s.live fun s =>
    let o := tag.output.val
    match s.run o tag.frame tag.slice.val with
    | some r =>
      if r.window then
        let room := 5 * s.runPixels o r - offset.toNat
        s.putRun o { r with data := putCells r.data offset.toNat (data.take room) }
      else s.synCount o R.SYN_CNT_LATEWRITE 4
    | none => s.synCount o R.SYN_CNT_LATEWRITE 4

/-- R52: pixels whose confidence lies below c_min. -/
def lowConfidence (data : List Host.Cell) (pixels cMin : Nat) : Nat :=
  (data.filter fun c => decide (4 * pixels ≤ c.1) && decide (c.2.toNat < cMin)).length

/-- R52: does the confidence test fail? -/
def confidenceFails (conf : Word) (pixels low : Nat) (numericFail : Bool) : Bool :=
  numericFail || decide (bits conf 15 8 * pixels < 256 * low)

/-- SLICE_DONE_WORD (R51): accepted while the window is open; it decides the origin. -/
def execSliceDoneWord (tag : SliceTag) (word : Word) (s : State) : Host.Outcome State Fault Refusal :=
  s.live fun s =>
    let o := tag.output.val
    match s.run o tag.frame tag.slice.val with
    | none => s.synCount o R.SYN_CNT_LATEWRITE 4
    | some r =>
      if !r.window then s.synCount o R.SYN_CNT_LATEWRITE 4
      else
        let bad := natBit word.toNat 0
        let x := s.out o
        let s := match r.task with
          | some (q, seq) =>
            let users := mapIf (fun u : SliceUser => u.qid == q && u.seq == seq) (fun u : SliceUser => { u with accepted := true }) x.users
            let s := s.setOut o { x with users := users }
            match s.task q seq with
            | some t => if bad then s.putTask { t with forced := some 0x15 } else s
            | none => s
          | none => s
        let P := s.runPixels o r
        let conf := match s.frameRec o r.frame with | some f => f.conf | none => x.conf
        if r.data.length < 5 * P then (s.synCount o R.SYN_CNT_SHORT 2).ladder o r.frame r.slice
        else if confidenceFails conf P (lowConfidence r.data P (bits conf 7 0)) bad then
          (s.synCount o R.SYN_CNT_LOWCONF 1).ladder o r.frame r.slice
        else (s.putRun o { r with final := true }).decideOrigin o r.frame r.slice 0

/-- FALLBACK_POINT (R51): with no slice-done word accepted and no origin decided, the window closes, the slice counts as
missed, its task is cancelled and it takes the ladder. -/
def execFallbackPoint (tag : SliceTag) (s : State) : Host.Outcome State Fault Refusal :=
  s.live fun s =>
    let o := tag.output.val
    match s.run o tag.frame tag.slice.val with
    | none => s
    | some r =>
      if r.origin.isSome then s
      else
        let s := s.synCount o R.SYN_CNT_MISSED 0
        let s := s.ladder o r.frame r.slice
        match r.task with
        | some (q, seq) => s.cancelEntry q seq 0x14
        | none => s

/-! ### The warp -/

/-- WARP_END (R54): the warp of a slice ends, in error where its surface cannot be read (R77); the next one starts. -/
def execWarpEnd (tag : SliceTag) (s : State) : Host.Outcome State Fault Refusal :=
  s.live fun s =>
    let o := tag.output.val
    match s.pipeOf o with
    | none => s
    | some p =>
      match s.run o tag.frame tag.slice.val with
      | none => s
      | some r =>
        match r.warp with
        | none => s
        | some (_, records) =>
          let newer := (s.frameRec o r.frame).bind fun f => f.pair.map fun k => k.1
          let px := s.warpSlice o p r.frame r.slice records newer
          let s := s.warpTraffic o p r.slice newer
          let s := s.poke R.WRP_LAST_NS [p] (BitVec.ofNat 32 (tWarp (s.runPixels o r)))
          let r := { r with warp := none, warpCopying := false }
          let s := (s.setBit R.WRP_STATUS [p] 0 false).setBit R.WRP_STATUS [p] 16 px.isNone
          let s := match px with
            | some bs =>
              let s := s.count R.WRP_COUNT [p] 1
              if r.origin == some 1 then s.putRun o { r with data := cellsOf bs, final := true } else s.putRun o r
            | none =>
              let s := (s.countSat R.WRP_ERR_COUNT [p] 1 R.WRP_STATUS [p] 31).putRun o r
              if r.origin == some 1 then s.decideOrigin o r.frame r.slice 3 else s
          (s.bankFlags o).nextWarp o p (s.out o).runs.length

/-- WARP_DEADLINE (R51): a slice whose warp has not finished at D(s) becomes blanket. -/
def execWarpDeadline (tag : SliceTag) (s : State) : Host.Outcome State Fault Refusal :=
  s.live fun s =>
    let o := tag.output.val
    match s.run o tag.frame tag.slice.val with
    | some r => if r.origin == some 1 && !r.final then s.decideOrigin o r.frame r.slice 3 else s
    | none => s

/-! ### The pipe -/

/-- What the pipes that read an output's slice buffer show: its source pipe and the composed members of its clone group
(R49). DESIGN CHOICE (log 33): members whose source has been replaced by pipe P4 do not read P4's slice buffer. -/
def State.readersOf (s : State) (p : Nat) : List Nat :=
  p :: (rangeFrom 0 5).filter fun m => m != p && s.bit R.DSP_MAP [m] 7 && s.fld R.DSP_MAP [m] 6 4 == p

/-- SLICE_FETCH (R57): a slice that is final is shown; else the pipe shows the blanket colour, the slice's origin is blanket and
it counts in the guard counter, whether it was blanket before or not. -/
def execSliceFetch (tag : SliceTag) (s : State) : Host.Outcome State Fault Refusal :=
  s.live fun s =>
    let o := tag.output.val
    let n := tag.slice.val
    match s.pipeOf o with
    | none => s
    | some p =>
      let r := s.run o tag.frame n
      let final := match r with | some y => y.final | none => false
      let s := if final || (s.frameRec o tag.frame).isNone then s
        else (s.decideOrigin o tag.frame n 3).synCount o R.SYN_CNT_GUARD 5
      let s := match r, final with
        | some _, false =>
          match s.run o tag.frame n with
          | some y => s.putRun o { y with window := false, direct := false }
          | none => s
        | _, _ => s
      let t := s.synTiming o
      let S := s.synS o
      let shown : ShownSlice :=
        { frame := tag.frame, slice := n, first := firstLine S t.vActive n, lines := sliceLines S t.vActive n,
          pixels := if final then r.map (·.data) else none }
      (s.readersOf p).foldl (fun s m =>
        let x := s.pipe m
        s.setPipe m { x with shown := upsert (fun y => y.frame == tag.frame && y.slice == n) shown x.shown }) s

/-- The bytes that write-back stores for a slice (R48): its final pixels, or the blanket colour. -/
def State.finalPixels (s : State) (o p : Nat) (r : Option SliceRun) (n : Nat) : List Byte :=
  let P := s.slicePixels o n
  match r with
  | some y => if y.final then (y.data.take (4 * P)).map (·.2)
              else (List.replicate P (s.blanketPixel p)).flatten
  | none => (List.replicate P (s.blanketPixel p)).flatten

/-- Rows of a slice are written to a surface through the regulators of the context's partition (R18); `false` where a write
fails. -/
def State.writeRows (s : State) (ctx base pitch rowBytes : Nat) (bs : List Byte) : List Nat → State × Bool
  | [] => (s, true)
  | y :: ys =>
    match s.writeFor ctx (base + y * pitch) (bs.take rowBytes) with
    | .ok t =>
      (t.hubWrote (s.ctxPart ctx) (base + y * pitch) (bs.take rowBytes).length).writeRows ctx base pitch rowBytes (bs.drop rowBytes) ys
    | _ => (s, false)

/-- A frame that is recorded and written back is forgotten. -/
def State.dropFrame (s : State) (o : Nat) (f : FrameRec) : State :=
  if f.recorded && decide (s.synS o ≤ f.written.length) then
    s.setOut o { s.out o with frames := (s.out o).frames.filter fun y => y.frame != f.frame }
  else s.putFrame o f

/-- SLICE_WRITEBACK_END (R48): the slice's pixels are in the last-output surface of its frame's parity and its entry is
free; with the last slice of its frame the surface becomes the last complete output (R55). -/
def execSliceWritebackEnd (tag : SliceTag) (s : State) : Host.Outcome State Fault Refusal :=
  s.live fun s =>
    let o := tag.output.val
    let n := tag.slice.val
    match s.pipeOf o, s.frameRec o tag.frame with
    | some p, some f =>
      let r := s.run o tag.frame n
      let parity := tag.frame.toNat % 2
      let t := s.synTiming o
      let S := s.synS o
      let surf := s.lcoSurface p parity t.hActive t.vActive
      let lines := rangeFrom (firstLine S t.vActive n) (sliceLines S t.vActive n)
      let (s, ok) :=
        if s.synOn o then s.writeRows (s.synCtx o) surf.base surf.pitch (4 * t.hActive) (s.finalPixels o p r n) lines
        else (s, false)
      let x := s.out o
      let s := s.setOut o { x with runs := x.runs.filter fun y => !(y.frame == tag.frame && y.slice == n) }
      let s := (s.entriesFlag o).bankFlags o
      let s := match r with
        | some y => if y.warp.isSome then (s.setBit R.WRP_STATUS [p] 0 false).nextWarp o p (s.out o).runs.length else s
        | none => s
      let f := { f with written := n :: f.written.filter (· != n), spoiled := f.spoiled || !ok }
      let s := if f.written.length = S ∧ !f.spoiled then
          ((s.setLco o p true).setFld R.WRP_STATUS [p] 2 2 parity).poke R.WRP_LCO_FRAME [p] tag.frame
        else s
      s.dropFrame o f
    | _, _ =>
      let x := s.out o
      let s := s.setOut o { x with runs := x.runs.filter fun y => !(y.frame == tag.frame && y.slice == n) }
      (s.entriesFlag o).bankFlags o

/-! ### The origin record (R58–R60) -/

/-- The final origin of a slice of a frame that has been sent: one never decided was not final, so it was blanket. -/
def FrameRec.originOf (f : FrameRec) (n : Nat) : Nat :=
  match f.origins.find? fun e => e.1 == n with
  | some e => e.2
  | none => 3

/-- The origin map of a frame as a number, slice `s` at bits [2s + 1:2s]. -/
def FrameRec.map (f : FrameRec) (S : Nat) : Nat := ((rangeFrom 0 S).map fun n => f.originOf n * 4 ^ n).sum

/-- Slices of a frame with an origin. -/
def FrameRec.countOf (f : FrameRec) (S code : Nat) : Nat := ((rangeFrom 0 S).filter fun n => f.originOf n == code).length

/-- Word `i` of a map. -/
def mapWord (m i : Nat) : Word := BitVec.ofNat 32 (m / 2 ^ (32 * i))

/-- R59: the frame's origin record is appended; R60: its slices are counted. -/
def State.originRecord (s : State) (o : Nat) (frame : Word) : State :=
  match s.frameRec o frame with
  | none => s
  | some f =>
    if f.recorded then s
    else
      let S := s.synS o
      let m := f.map S
      let (s, kf) := match f.pair with
        | some (k, _) => (s, k.index.toNat % 65536)
        | none => (s.draw, (s.drawn 16).toNat)
      let soa := s.rd64 R.SYN_SOA_LO R.SYN_SOA_HI [o]
      let rec32 := leBytes 4 frame.toNat ++ leBytes 1 S
        ++ leBytes 1 (o + 4 * b2n f.change + 8 * b2n (s.isKfRefresh o frame)) ++ leBytes 2 kf ++ leBytes 8 soa ++ leBytes 16 m
      let size := 2 ^ min 16 (s.fld R.SYN_ORING_SIZE [o] 4 0)
      let wr := s.fld R.SYN_ORING_WR [o] 15 0
      let x := s.out o
      let s := s.synWrite o (s.rdAddr R.SYN_ORING_LO R.SYN_ORING_HI [o] + 32 * wr) rec32
      let s := s.poke R.SYN_ORING_WR [o] (BitVec.ofNat 32 ((wr + 1) % size))
      let s := if x.oringFill < size then s.setOut o { s.out o with oringFill := x.oringFill + 1 }
        else s.countSat R.SYN_ORING_LOSS [o] 1 R.SYN_CNT_OVF [o] 9
      let s := (rangeFrom 0 4).foldl (fun s c => s.count R.SYN_ORIG_CNT [o, c] (f.countOf S c)) s
      let s := s.count R.SYN_SLICE_COUNT [] S
      let s := (rangeFrom 0 4).foldl (fun s i =>
        (s.poke R.SYN_OMAP_CUR [o, i] (mapWord m i)).poke R.SYN_OMAP_LAST [o, i] (mapWord m i)) s
      let s := s.dropFrame o { f with recorded := true }
      if s.bit R.SYN_CTRL [o] 4 && (f.countOf S 1 + f.countOf S 3 != 0) then
        s.event 0x0A o 0x01 (leBytes 4 frame.toNat ++ leBytes 4 wr ++ leBytes 1 (f.countOf S 1)
          ++ leBytes 1 (f.countOf S 3) ++ leBytes 2 kf ++ zeros 4)
      else s

/-! ### The start of active (R36, R39, R67) -/

/-- The first frame from `f` on whose R(0) lies after the present (R67). -/
def State.firstFrame (s : State) (o : Nat) (f : Word) : Nat → Word
  | 0 => f
  | fuel + 1 =>
    let t := s.sliceTimes o f 0 (s.rd R.SYN_BUDGET [o]).toNat 0
    if (s.tb : Int) < t.release then f else s.firstFrame o (f + 1) fuel

/-- The first frame of an output that has just been enabled, or whose first SOA has just come. -/
def State.planFirst (s : State) (o : Nat) : State :=
  let x := s.out o
  if s.synOn o && x.soa.isSome then
    s.setOut o { x with first := false, nextFrame := s.firstFrame o (s.rd R.SYN_FRAME [o]) 64, nextSlice := 0 }
  else s

/-- SYN's part of an SOA: time-stamp, T_frame, rebase, and the map of the frame that begins. -/
def State.synSoa (s : State) (o : Nat) (frame : Word) : State :=
  let x := s.out o
  let soa := s.tb
  let next := match x.soa with
    | some p => frame == s.rd R.SYN_FRAME [o] + 1 && decide (p ≤ soa)
    | none => false
  let on := s.synOn o
  let s := match x.soa with
    | some p =>
      let want := p + s.tFrame o
      let off := if soa < want then want - soa else soa - want
      if on && next && decide (nsTb 2000 < off) then s.synCount o R.SYN_CNT_REBASE 6 else s
    | none => s
  let intervals := match x.soa with
    | some p => if on && next then ((soa - p) :: x.intervals).take 4 else x.intervals
    | none => x.intervals
  let s := s.setOut o { s.out o with soa := some soa, intervals := intervals }
  let s := (s.poke64 R.SYN_SOA_LO R.SYN_SOA_HI [o] (soa / 2 ^ 32)).poke R.SYN_FRAME [o] frame
  let m := match s.frameRec o frame with
    | some f => (f.origins.map fun e => e.2 * 4 ^ e.1).sum
    | none => 0
  let s := (rangeFrom 0 4).foldl (fun s i => s.poke R.SYN_OMAP_CUR [o, i] (mapWord m i)) s
  if on then
    let s := s.poke R.SYN_TFRAME [o] (BitVec.ofNat 32 (s.tFrame o / 2 ^ 32))
    if (s.out o).first then s.planFirst o else s
  else s

end Sys2Proof.Machine
end

