-- ==== Sys2Proof/Machine/SynConfig.lean ====
section
/-! DEFINITION. Bringing an output under synthesis, disabling it, the writes that SYN tests or locks, and the state-vector
banks (R35, R37, R63, R66–R68, R73–R75). -/

namespace Sys2Proof.Machine

/-! ### The tests of Table 3.1 -/

/-- 0x01: the fields of SYN_GEOM. -/
def State.geomGood (s : State) (o : Nat) : Bool :=
  let n := s.synN o
  let l := s.fld R.SYN_GEOM [o] 15 12
  s.fld R.SYN_GEOM [o] 1 0 != 3 && s.synD o != 0 && decide (1 ≤ n) && decide (n ≤ 4)
    && decide (s.fld R.SYN_GEOM [o] 9 8 < n) && decide (1 ≤ l) && decide (l ≤ 8)

/-- 0x0A: the output has a pipe, its applied timing is valid, and no timing commit was pending. -/
def State.synPipeGood (s : State) (o : Nat) : Bool :=
  match s.pipeOf o with
  | some p => (s.timing p).valid && !(s.out o).commitPending
  | none => false

/-- t_warp of the largest slice of an output, in ns. -/
def State.warpLargest (s : State) (o : Nat) : Nat := tWarp ((s.synTiming o).hActive * s.synTallest o)

/-- 0x03: the fallback margin (Table 2.2). -/
def State.marginGood (s : State) (o m : Nat) : Bool :=
  decide (10000 ≤ m) && decide (m ≤ 200000) && decide (s.warpLargest o + 2000 ≤ m)

/-- 0x04: the budget (Table 2.2). -/
def State.budgetGood (s : State) (o b m : Nat) : Bool :=
  decide (m + 20000 ≤ b) && decide (nsTb b ≤ 16 * s.nominalSlice o)

/-- 0x05: slice buffer entries (Table 2.2). -/
def State.entriesGood (s : State) (o b : Nat) : Bool :=
  decide (entriesNeeded (nsTb b) (s.fld R.SYN_GEOM [o] 15 12) (s.nominalSlice o) ≤
    entriesAvailable (s.synTiming o).hActive (s.synTallest o))

/-- 0x06: the shortest slice scan time (Table 2.2). -/
def State.scanGood (s : State) (o : Nat) : Bool :=
  let t := s.synTiming o
  decide (nsTb (s.warpLargest o) ≤ shortest (s.synS o) t.vActive * (t.frame / t.vTotal))

/-- 0x07: the model (R75). DESIGN CHOICE (log 36): a pinned model that is not resident at the check fails it. -/
def State.synModelGood (s : State) (o : Nat) (h : ModelHeader) : Bool :=
  let t := s.synTiming o
  match s.model (s.ctxPart (s.synCtx o)) (s.fld R.SYN_MODEL [o] 15 0) with
  | some m => s.fld R.SYN_MODEL [o] 15 0 != 0 && m.pinned && m.resident && decide (t.hActive ≤ h.maxWidth)
      && decide (s.synTallest o ≤ h.maxLines) && decide (h.halo ≤ 16)
  | none => false

/-- An enabled submission queue of a priority. -/
def State.queueOfPrio (s : State) (q prio : Nat) : Bool :=
  match s.queue q with
  | some x => !x.disabling && !x.desc.cqOnly && x.desc.prio == prio
  | none => false

/-- 0x08: the queues. -/
def State.synQueuesGood (s : State) (o : Nat) : Bool :=
  let a := s.fld R.SYN_QUEUE [o] 29 16
  s.bit R.SYN_QUEUE [o] 15 && s.queueOfPrio (s.fld R.SYN_QUEUE [o] 13 0) 1 && s.ctxResident (s.synCtx o)
    && (!s.bit R.SYN_QUEUE [o] 31 || (s.queueOfPrio a 3 && s.ctxPart (queueCtx a) == s.ctxPart (s.synCtx o)))

/-- An area that an output names: aligned, and granted to the slice context for the accesses made to it. -/
def State.areaGood (s : State) (o a align size : Nat) (read write : Bool) : Bool :=
  a % align == 0 && (!read || s.regionOk (s.synCtx o) a size false) && (!write || s.regionOk (s.synCtx o) a size true)

/-- 0x09: the addresses of the adaptation areas, tested while `adp_mode` = 2. -/
def State.adpAreasGood (s : State) (o : Nat) : Bool :=
  let t := s.synTiming o
  let pitch := (s.rd R.SYN_ADP_REF_PITCH [o]).toNat
  s.fld R.SYN_ADP_CTRL [o] 1 0 != 2 ||
    (s.areaGood o (s.captureSlot o 0) 65536 (s.adpSamples o * 65536 * s.fld R.SYN_ADP_CAP_SLOT [o] 7 0) false true
      && s.areaGood o (s.rdAddr R.SYN_ADP_REF_LO R.SYN_ADP_REF_HI [o]) 1 (pitch * (t.vActive - 1) + 4 * t.hActive) true false
      && pitch % 256 == 0 && s.areaGood o (s.rdAddr R.SYN_ADP_WORK_LO R.SYN_ADP_WORK_HI [o]) 4096 0x80 true true)

/-- A launch record: not 0, 64-byte aligned, readable. -/
def State.launchAddrGood (s : State) (o a : Nat) : Bool := a != 0 && s.areaGood o a 64 64 true false

/-- 0x09: the address fields. DESIGN CHOICE (log 36): a log2 of ring records outside 4–16 is no fault: below 4 the ring has that
many records, above 16 it has 2^16. -/
def State.synAreasGood (s : State) (o p : Nat) : Bool :=
  let t := s.synTiming o
  let bank := s.bankAddr o 0
  let pitch := (s.rd R.WRP_LCO_PITCH [p]).toNat
  let even := s.lcoSurface p 0 t.hActive t.vActive
  let odd := s.lcoSurface p 1 t.hActive t.vActive
  s.areaGood o bank 8192 8192 true false && decide (hubBase ≤ bank) && decide (bank + 8192 ≤ hubBase + hubSize)
    && s.areaGood o (s.rdAddr R.SYN_HIST_LO R.SYN_HIST_HI [o]) 4096 (ceilDiv t.vActive 2 * ceilDiv t.hActive 2 * 16) true true
    && s.areaGood o (s.rdAddr R.SYN_ORING_LO R.SYN_ORING_HI [o]) 32 (32 * 2 ^ min 16 (s.fld R.SYN_ORING_SIZE [o] 4 0)) false true
    && s.launchAddrGood o (s.rd64 R.SYN_LAUNCH_LO R.SYN_LAUNCH_HI [o])
    && (!s.bit R.SYN_QUEUE [o] 31 || s.launchAddrGood o (s.rd64 R.SYN_ADP_LAUNCH_LO R.SYN_ADP_LAUNCH_HI [o]))
    && pitch % 256 == 0 && decide (4 * t.hActive ≤ pitch)
    && s.areaGood o even.base 256 even.extent true true && s.areaGood o odd.base 256 odd.extent true true
    && s.adpAreasGood o

/-- 0x0B: the capture slot, tested while `adp_mode` = 2. -/
def State.captureGood (s : State) (o : Nat) : Bool :=
  let k := Keyframe.blank 0 0
  s.fld R.SYN_ADP_CTRL [o] 1 0 != 2 ||
    (rangeFrom 0 (s.synS o)).all fun n =>
      decide ((s.sliceView o n k k true true).size ≤ 65536 * s.fld R.SYN_ADP_CAP_SLOT [o] 7 0)

/-- R66: the code of the first test that fails, 0 when all pass. -/
def State.enableCheck (s : State) (o : Nat) (h : ModelHeader) : Nat :=
  let b := (s.rd R.SYN_BUDGET [o]).toNat
  let m := s.fld R.SYN_MARGIN [o] 17 0
  if !s.geomGood o then 0x01
  else if !s.synPipeGood o then 0x0A
  else if (s.synTiming o).vActive < 8 * s.synS o then 0x02
  else if !s.marginGood o m then 0x03
  else if !s.budgetGood o b m then 0x04
  else if !s.entriesGood o b then 0x05
  else if !s.scanGood o then 0x06
  else if !s.synModelGood o h then 0x07
  else if !s.synQueuesGood o then 0x08
  else if !s.synAreasGood o ((s.pipeOf o).getD 0) then 0x09
  else if !s.captureGood o then 0x0B
  else 0

/-- R66, R68: a config-fault event; `offset` is that of a rejected register, none for a check. -/
def State.configFault (s : State) (o code : Nat) (offset : Option Nat) : State :=
  (s.setFld R.SYN_STATUS [o] 15 8 code).event 0x0A o 0x02
    (leBytes 1 code ++ leBytes 1 (b2n offset.isSome) ++ leBytes 2 (offset.getD 0) ++ zeros 12)

/-! ### Enable and disable -/

/-- R238: is a timing commit of a pipe armed, or latched and not applied? -/
def State.timingPending (s : State) (p : Nat) : Bool :=
  let x := s.pipe p
  let regs := [R.DSP_TIMING_H, R.DSP_TIMING_H2, R.DSP_TIMING_V, R.DSP_TIMING_V2, R.DSP_PCLK]
  (s.bit R.DSP_COMMIT [p] 17 && regs.any fun r => s.rd r [p] != s.applied p r [])
    || (match x.latched with
        | some l => regs.any fun r => appliedOf l p r [] != s.applied p r []
        | none => false)

/-- SYN_ENABLE (R66): SYN_CTRL is written with `syn_en` = 1, and the enable check starts, unless the output is enabled or
its check runs already. -/
def execSynEnable (output : Fin 4) (value : Word) (s : State) : Host.Outcome State Fault Refusal :=
  s.live fun s =>
    let o := output.val
    let s := s.poke R.SYN_CTRL [o] ((value &&& 0x3F) ||| 1)
    let x := s.out o
    if s.synOn o || x.checking then s
    else
      let pending := match s.pipeOf o with | some p => s.timingPending p | none => false
      s.setOut o { x with checking := true, commitPending := pending }

/-- SYN_SLICE registers (Table 3.5). -/
def State.sliceRegs (s : State) (o : Nat) : State :=
  let V := (s.synTiming o).vActive
  let S := s.synS o
  (rangeFrom 0 64).foldl (fun s n =>
    s.poke R.SYN_SLICE [o, n] (BitVec.ofNat 32 (if n < S then firstLine S V n + 65536 * sliceLines S V n else 0))) s

/-- SYN_ENABLE_CHECK_END (R66): every test passed, and the output is under synthesis from the first frame whose R(0) is
still to come (R67); or `syn_en` returns to 0. -/
def execSynEnableCheckEnd (output : Fin 4) (header : ModelHeader) (s : State) : Host.Outcome State Fault Refusal :=
  s.live fun s =>
    let o := output.val
    if !(s.out o).checking then s
    else
      let s := s.setOut o { s.out o with checking := false, halo := header.halo }
      let code := s.enableCheck o header
      if code ≠ 0 then
        (((s.setBit R.SYN_CTRL [o] 0 false).setBit R.SYN_STATUS [o] 0 false).configFault o code none).applyUnpins
      else
        let x := s.out o
        let s := s.setOut o { x with first := true, intervals := [], histGood := [], oringFill := 0, published := false,
                                     lastNewer := none }
        let s := ((s.setBit R.SYN_STATUS [o] 0 true).setFld R.SYN_STATUS [o] 15 8 0).poke R.SYN_ORING_WR [o] 0
        let s := (s.discardLco o).setEntries o (s.rd R.SYN_BUDGET [o]).toNat
        let s := (s.sliceRegs o).poke R.SYN_TFRAME [o] (BitVec.ofNat 32 (s.tFrame o / 2 ^ 32))
        s.planFirst o

/-- R63: every slice in flight loses its task, and one that is not decided takes the ladder. -/
def State.stopSlices (s : State) (o : Nat) : State :=
  (s.out o).runs.foldl (fun (s : State) r =>
    let s := if r.origin.isNone then s.ladder o r.frame r.slice else s
    match r.task with
    | some (q, seq) => s.cancelEntry q seq 0x01
    | none => s) s

/-- Synthesis ends on an output (R63, R55); captures that are not whole are given up (R89). -/
def State.synStop (s : State) (o : Nat) : State :=
  let s := (s.setBit R.SYN_STATUS [o] 0 false).stopSlices o
  let s := s.discardLco o
  let x := s.out o
  let s := match x.work with
    | some w =>
      if w.job.isNone && !w.left.isEmpty then (s.setOut o { x with work := none }).setBit R.SYN_ADP_STATUS [o] 3 false else s
    | none => s
  s.applyUnpins

/-- SYN_DISABLE (R63): SYN_CTRL is written with `syn_en` = 0. -/
def execSynDisable (output : Fin 4) (value : Word) (s : State) : Host.Outcome State Fault Refusal :=
  s.live fun s =>
    let o := output.val
    let s := s.poke R.SYN_CTRL [o] (value &&& 0x3E)
    let s := s.setOut o { s.out o with checking := false }
    if s.synOn o then s.synStop o else s.applyUnpins

/-! ### Writes while `syn_en` = 1 (R68) -/

/-- The register of a locked write. -/
def lockedReg : SynLocked → Reg
  | .geom => R.SYN_GEOM
  | .model => R.SYN_MODEL
  | .bankLo => R.SYN_BANK_LO
  | .bankHi => R.SYN_BANK_HI
  | .histLo => R.SYN_HIST_LO
  | .histHi => R.SYN_HIST_HI
  | .oringLo => R.SYN_ORING_LO
  | .oringHi => R.SYN_ORING_HI
  | .oringSize => R.SYN_ORING_SIZE
  | .launchLo => R.SYN_LAUNCH_LO
  | .launchHi => R.SYN_LAUNCH_HI
  | .adpLaunchLo => R.SYN_ADP_LAUNCH_LO
  | .adpLaunchHi => R.SYN_ADP_LAUNCH_HI

/-- The register of a tested write. -/
def testedReg : SynTested → Reg
  | .budget => R.SYN_BUDGET
  | .margin => R.SYN_MARGIN
  | .conf => R.SYN_CONF

/-- A write that the host's access code allows: RW bits take the value. -/
def State.plainWrite (s : State) (r : Reg) (ix : List Nat) (value : Word) : State :=
  s.poke r ix ((s.rd r ix &&& ~~~r.rw) ||| (value &&& r.rw))

/-- The offset of a register within its output block. -/
def blockOffset (r : Reg) : Nat := r.base - 0x1C1000

/-- SYN_LOCKED_WRITE (R68). -/
def execSynLockedWrite (output : Fin 4) (reg : SynLocked) (value : Word) (s : State) : Host.Outcome State Fault Refusal :=
  s.live fun s =>
    let o := output.val
    let r := lockedReg reg
    if s.bit R.SYN_CTRL [o] 0 then s.configFault o 0x0C (some (blockOffset r)) else s.plainWrite r [o] value

/-- R68: the code that a tested write fails with, 0 when it passes. -/
def State.testedCode (s : State) (o : Nat) (reg : SynTested) (value : Word) : Nat :=
  let b := if reg = .budget then value.toNat else (s.rd R.SYN_BUDGET [o]).toNat
  let m := if reg = .margin then bits value 17 0 else s.fld R.SYN_MARGIN [o] 17 0
  if reg = .conf then 0
  else if !s.marginGood o m then 0x03
  else if !s.budgetGood o b m then 0x04
  else if !s.entriesGood o b then 0x05
  else if !s.scanGood o then 0x06
  else 0

/-- SYN_TESTED_WRITE (R68): a passing value is kept and comes into force at the next frame boundary. -/
def execSynTestedWrite (output : Fin 4) (reg : SynTested) (value : Word) (s : State) : Host.Outcome State Fault Refusal :=
  s.live fun s =>
    let o := output.val
    let r := testedReg reg
    let code := if s.bit R.SYN_CTRL [o] 0 then s.testedCode o reg value else 0
    if code = 0 then s.plainWrite r [o] value else s.configFault o code (some (blockOffset r))

/-! ### State-vector banks (R73, R74) -/

/-- BANK_PUBLISH (R73): a bank becomes current, and the next frame is declared changed (R61). -/
def execBankPublish (output : Fin 4) (bank : Fin 2) (s : State) : Host.Outcome State Fault Refusal :=
  s.live fun s =>
    let o := output.val
    let s := s.setOut o { s.out o with published := true }
    s.setFld R.SYN_STATUS [o] 1 1 bank.val

/-- R74: a copy whose source was written meanwhile holds an undefined mix where the bytes differ. -/
def mixBytes (old new mix : List Byte) : List Byte :=
  (old.zip (new.zip mix)).map fun e => if e.1 = e.2.1 then e.1 else e.2.2

/-- The bytes of a copy that ends. -/
def State.copied (s : State) (old : List Byte) (a : Nat) : State × List Byte :=
  let new := s.bytes a old.length
  if old = new then (s, old) else (s.draw, mixBytes old new (leBytes old.length (s.drawn (8 * old.length)).toNat))

/-- What the input stage reads for a released slice. -/
def State.runView (s : State) (o : Nat) (r : SliceRun) : Option SliceView :=
  (s.frameRec o r.frame).bind fun f => f.pair.map fun k => s.sliceView o r.slice k.1 k.2 (f.count == 2) r.history

/-- The input stage reads the tensors of a slice (R43), through the regulators of its partition (R18). -/
def State.inputStage (s : State) (o : Nat) (r : SliceRun) : State × SliceRun :=
  match s.runView o r with
  | none => (s, r)
  | some v =>
    let reads := s.sliceReads v
    if (s.readsFail (s.synCtx o) reads).isSome then (s, r)
    else
      let scal := v.scal (msOf ((r.mid : Int) - nsTb v.newer.scene))
      (s.synRead o reads, { r with inputs := [s.kfTensor v, s.flowTensor v, s.histTensor v, r.vectors, scal] })

/-- The copies of one released slice from a bank end: the input stage has its tensors (R43), the warp its transforms. -/
def State.endCopies (s : State) (o b : Nat) (r : SliceRun) : State :=
  let (s, r) :=
    if r.copying && r.bank == b then
      let (s, v) := s.copied r.vectors (s.bankAddr o b)
      s.inputStage o { r with vectors := v, copying := false }
    else (s, r)
  match r.warp with
  | some (wb, old) =>
    if r.warpCopying && wb == b then
      let (s, v) := s.copied old (s.bankAddr o b + 0x800)
      s.putRun o { r with warp := some (wb, v), warpCopying := false }
    else s.putRun o r
  | none => s.putRun o r

/-- The task of a slice has its tensors in the core memory of its slots (R43), or ends where the input stage could not read
them (R23). -/
def State.giveInputs (s : State) (o b : Nat) (r : SliceRun) : State :=
  match r.task with
  | some (q, seq) =>
    if r.copying && r.bank == b then
      match (s.runView o r).bind fun v => s.readsFail (s.synCtx o) (s.sliceReads v) with
      | some (status, loc) => s.failEntry q seq status loc
      | none => s.placeInputs q seq
    else s
  | none => s

/-- BANK_COPY_END (R73): the copies from a bank end, and it is no longer busy. -/
def execBankCopyEnd (output : Fin 4) (bank : Fin 2) (s : State) : Host.Outcome State Fault Refusal :=
  s.live fun s =>
    let o := output.val
    let runs := (s.out o).runs.filter fun r => r.busyWith bank.val
    let s := (runs.foldl (fun s r => s.endCopies o bank.val r) s).bankFlags o
    runs.foldl (fun s r => s.giveInputs o bank.val r) s

end Sys2Proof.Machine
end

