-- ==== Sys2Proof/Machine/Adapt.lean ====
section
/-! DEFINITION. Online adaptation: jobs, reports, timeouts, rearming and modes (R81, R83–R89). -/

namespace Sys2Proof.Machine

/-! ### Launching a job (R81) -/

/-- R81: the target buffer: B if `sel` = 1, else A. -/
def State.adpTarget (s : State) (o : Nat) : Nat := if s.fld R.SYN_ADP_STATUS [o] 1 0 = 1 then 2 else 1

/-- Is a buffer free? -/
def State.bufferFree (s : State) (o b : Nat) : Bool := s.bit R.SYN_ADP_STATUS [o] (3 + b)

/-- Table 3.8. The report handle has no form in the spec. -/
def State.jobDescriptor (s : State) (o : Nat) (w : AdaptWork) (target handle : Nat) : List Byte :=
  leBytes 4 w.ref.toNat ++ leBytes 1 o ++ leBytes 1 (s.fld R.SYN_ADP_STATUS [o] 7 7) ++ leBytes 1 w.samples.length
    ++ leBytes 1 w.sel ++ leBytes 1 target ++ zeros 7
    ++ (rangeFrom 0 16).map (fun i => BitVec.ofNat 8 (w.samples.getD i 255))
    ++ leBytes 8 (s.captureSlot o 0) ++ leBytes 8 (s.rdAddr R.SYN_ADP_REF_LO R.SYN_ADP_REF_HI [o])
    ++ leBytes 4 (s.rd R.SYN_ADP_REF_PITCH [o]).toNat ++ leBytes 4 (65536 * s.fld R.SYN_ADP_CAP_SLOT [o] 7 0)
    ++ leBytes 8 handle

/-- Table 2.15, adaptation job. -/
def State.jobEntry (s : State) (o work : Nat) (ref : Word) : List Byte :=
  leBytes 1 1 ++ leBytes 1 0 ++ leBytes 2 (s.fld R.SYN_MODEL [o] 15 0) ++ leBytes 4 ref.toNat ++ leBytes 8 0
    ++ leBytes 8 (s.rd64 R.SYN_ADP_LAUNCH_LO R.SYN_ADP_LAUNCH_HI [o]) ++ leBytes 8 work ++ zeros 32

/-- The captures of a reference take the scene time of its keyframe, which is known once it is complete (R79). -/
def State.fillScene (s : State) (o : Nat) (w : AdaptWork) : State :=
  match (s.out o).keyframe w.keyframe, (s.out o).keyframe (w.keyframe - 1) with
  | some k, some k1 =>
    let e := sceneMs k.scene k1.scene
    (rangeFrom 0 w.samples.length).foldl (fun s j =>
      let v := s.sliceView o (w.samples.getD j 0) k1 k1 true true
      s.synWrite o (s.captureSlot o j + v.size - 64) (leBytes 4 e.toNat)) s
  | _, _ => s

/-- ADAPT_JOB_LAUNCH (R81): with every capture of the reference and its keyframe complete and the target buffer free, the
descriptor is written and the job queued. Until the queue can take the entry the reference waits. -/
def execAdaptJobLaunch (output : Fin 4) (s : State) : Host.Outcome State Fault Refusal :=
  s.live fun s =>
    let o := output.val
    let x := s.out o
    let target := s.adpTarget o
    match x.work, s.openQueue (s.fld R.SYN_QUEUE [o] 29 16) with
    | some w, some q =>
      if w.job.isSome || !w.left.isEmpty || !x.kfComplete w.keyframe || !s.bufferFree o target || s.adpMode o != 2 then s
      else
        let work := s.rdAddr R.SYN_ADP_WORK_LO R.SYN_ADP_WORK_HI [o]
        let s := s.fillScene o w
        let s := s.draw.synWrite o (work + 0x40) (s.jobDescriptor o w target (s.drawn 64).toNat)
        let s := s.setOut o { s.out o with
          work := some { w with job := some (q.ident, q.pLast) }, claim := target, refNumber := w.ref + 1 }
        (((s.setBit R.SYN_ADP_STATUS [o] 7 false).setBit R.SYN_ADP_STATUS [o] 3 true).adpStatus o).submitEntry q
          (s.jobEntry o work w.ref)
    | _, _ => s

/-! ### Reports (R83–R85) -/

/-- The exact sum of finite FP32 values. -/
def sumFl (ws : List Word) : Fl := ws.foldl (fun a w => a.add (flOf w)) (.fin false 0 0)

/-- The exact mean of `n` FP32 values, rounded RNE to FP32. -/
def meanFp32 (ws : List Word) : Word := fdivFl (sumFl ws) (flOfInt ws.length)

/-- R85: mean_a > mean_b × (1 + θ), compared exactly: both sides times the number of reports. -/
def windowReverts (window : List (Word × Word)) (theta : Word) : Bool :=
  ((sumFl (window.map (·.2))).mul (.fin false (65536 + theta.toNat) (-16))).lt (sumFl (window.map (·.1)))

/-- R84: an accepted report's swap request. -/
def State.adpSwap (s : State) (o : Nat) (request : Bool) (buffer target : Nat) : State :=
  let x := s.out o
  if !request then (s.setOut o { x with claim := 0 }).adpStatus o
  else if x.swapTo ≠ 0 ∨ buffer ≠ target then
    ((s.setOut o { x with claim := x.swapTo }).adpCount o R.SYN_ADP_CNT_REFUSED 1).adpStatus o
  else (s.setOut o { x with swapTo := buffer }).adpStatus o

/-- A revert whose report came from a task gives that task status 0x02 (R87). -/
def State.revertBy (s : State) (o : Nat) (w : AdaptWork) (cause : Nat) : State :=
  let s := match w.job with
    | some (q, seq) =>
      match s.task q seq with
      | some t => s.putTask { t with forced := some 0x02 }
      | none => s
    | none => s
  s.adpRevert o w.ref cause

/-- R85: a report enters the window, and the means are computed once W are held. `true`: the window demands a revert. -/
def State.adpEnter (s : State) (o : Nat) (lossA lossB : Word) : State × Bool :=
  let x := s.out o
  let n := s.adpWindow o
  let all := x.window ++ [(lossA, lossB)]
  let window := all.drop (all.length - n)
  let s := (s.setOut o { x with window := window }).adpStatus o
  if window.length = n then
    let s := s.poke R.SYN_ADP_MEAN_A [o] (meanFp32 (window.map (·.1)))
    let s := s.poke R.SYN_ADP_MEAN_B [o] (meanFp32 (window.map (·.2)))
    (s, windowReverts window (s.rd R.SYN_ADP_THETA [o]))
  else (s, false)

/-- An accepted report. Mode 1 keeps `sel` and the window (R88), so that there it only clears `busy` (log 34). -/
def State.adpAccept (s : State) (o : Nat) (w : AdaptWork) (flags : Byte) (lossA lossB : Word) : State :=
  let x := s.out o
  let target := x.claim
  let s := s.setOut o { x with work := none, failedRun := 0 }
  let s := s.setBit R.SYN_ADP_STATUS [o] 3 false
  if s.adpMode o ≠ 2 then (s.setOut o { s.out o with claim := x.swapTo }).adpStatus o
  else if !(flOf lossA).isFinite then s.revertBy o w 1
  else
    let (s, revert) := if natBit flags.toNat 3 then s.adpEnter o lossA lossB else (s, false)
    if revert then s.revertBy o w 0
    else s.adpSwap o (natBit flags.toNat 0) (if natBit flags.toNat 1 then 2 else 1) target

/-- ADAPT_REPORT (R83): a report is accepted if it names the outstanding job and its loss_b is finite; any other is counted
and discarded, but for one that mode 0 discards without counting (R88). -/
def execAdaptReport (output : Fin 4) (ref : Word) (flags : Byte) (lossA lossB : Word) (s : State) :
    Host.Outcome State Fault Refusal :=
  s.live fun s =>
    let o := output.val
    let x := s.out o
    if x.ignore.contains ref then s.setOut o { x with ignore := x.ignore.erase ref }
    else
      match x.work with
      | some w =>
        if w.job.isSome && w.ref == ref && s.bit R.SYN_ADP_STATUS [o] 3 && (flOf lossB).isFinite then
          s.adpAccept o w flags lossA lossB
        else s.adpCount o R.SYN_ADP_CNT_BAD 4
      | none => s.adpCount o R.SYN_ADP_CNT_BAD 4

/-- ADAPT_JOB_TIMEOUT (R86): the outstanding job has not reported within the job timeout. -/
def execAdaptJobTimeout (output : Fin 4) (s : State) : Host.Outcome State Fault Refusal :=
  s.live fun s =>
    let o := output.val
    match (s.out o).work with
    | some w => if w.job.isSome then s.adpFail o w.ref 1 0 else s
    | none => s

/-! ### Control (R87, R88) -/

/-- R87: `rearm`. -/
def State.adpRearm (s : State) (o : Nat) : State :=
  (s.setBit R.SYN_ADP_STATUS [o] 6 false).setBit R.SYN_ADP_STATUS [o] 7 true

/-- ADAPT_REARM (R87, R89): SYN_ADP_CTRL is written with `rearm` = 1. -/
def execAdaptRearm (output : Fin 4) (s : State) : Host.Outcome State Fault Refusal :=
  s.live fun s => s.adpRearm output.val

/-- R88: outside mode 2 nothing is captured: a reference whose job is not launched is given up. -/
def State.adpSettle (s : State) (o : Nat) : State :=
  match (s.out o).work with
  | some w => if w.job.isNone && s.adpMode o != 2 then (s.adpGiveUp o).adpStatus o else s
  | none => s

/-- R88: `adp_mode` takes a value. -/
def State.adpSetMode (s : State) (o mode : Nat) : State :=
  let was := s.fld R.SYN_ADP_CTRL [o] 1 0
  let s := s.setFld R.SYN_ADP_CTRL [o] 1 0 mode
  if mode = 0 ∧ was ≠ 0 then
    let x := s.out o
    let ignore := match x.work with | some w => if w.job.isSome then x.ignore ++ [w.ref] else x.ignore | none => x.ignore
    let claim := if x.swapTo = 0 then x.claim else 0
    let s := s.setOut o { x with toZero := true, window := [], swapTo := 0, claim := claim, ignore := ignore }
    (s.adpGiveUp o).adpStatus o
  else (if mode = 2 ∧ was = 0 then s.setBit R.SYN_ADP_STATUS [o] 7 true else s).adpSettle o

/-- ADAPT_MODE_WRITE (R88). -/
def execAdaptModeWrite (output : Fin 4) (mode : Fin 4) (s : State) : Host.Outcome State Fault Refusal :=
  s.live fun s => s.adpSetMode output.val mode.val

end Sys2Proof.Machine
end

