-- ==== Sys2Proof/Machine/Scale.lean ====
section
/-! DEFINITION. Scale history records (R145–R152, Table 5.7), and what a task writes at its start (R147, R162). -/

namespace Sys2Proof.Machine

/-- The greatest finite value of a record's format, as an FP32 code. -/
def recordQmax (rec : List Byte) : Word :=
  let f := leAt rec 0x4B 1
  if f = 1 then 0x43E00000 else if f = 2 then 0x47600000 else 0x42FE0000

/-- R147: a subnormal scale is raised to 2^−126. -/
def raiseScale (q : Word) : Word := if bits q 30 23 = 0 ∧ bits q 22 0 ≠ 0 then 0x00800000 else q

/-- R147: the scale for an amax that is positive; one that rounds to 0 is raised too. -/
def scaleOf (rec : List Byte) (amax : Word) : Word :=
  let q := fdiv amax (recordQmax rec)
  let q := if q.toNat < 0x00800000 then 0x00800000 else q
  if natBit (leAt rec 0x4C 1) 4 && bits q 22 0 != 0 then BitVec.ofNat 32 ((q.toNat / 2 ^ 23 + 1) * 2 ^ 23) else q

/-- Replace bytes of a record. -/
def putAt (rec : List Byte) (o : Nat) (bs : List Byte) : List Byte := rec.take o ++ bs ++ rec.drop (o + bs.length)

/-- The scale in force at step start (R147). -/
def stepScale (rec : List Byte) : Word :=
  let valid := min 16 (leAt rec 0x49 1)
  let k := leAt rec 0x4A 1
  let k := if k = 0 ∨ 16 < k then 1 else k
  let head := leAt rec 0x48 1 % 16
  let hist := (rangeFrom 1 (min k valid)).map fun i => BitVec.ofNat 32 (leAt rec (4 * ((head + 16 - i) % 16)) 4)
  let a := hist.foldl (fun m v => if (flOf m).lt (flOf v) then v else m) 0
  if (flOf 0).lt (flOf a) then scaleOf rec a
  else raiseScale (BitVec.ofNat 32 (leAt rec (if valid = 0 then 0x44 else 0x40) 4))

/-- R146: merge the step fields of working copies into a record; head and valid are written back in range (Table 5.7). -/
def mergeRecords (rec : List Byte) (copies : List (List Byte)) : List Byte :=
  let amax := copies.foldl (fun m c =>
    let v := BitVec.ofNat 32 (leAt c 0x50 4)
    if (flOf v).isFinite && (flOf m).lt (flOf v) then v else m) (0 : Word)
  let sum (o n : Nat) : Nat := (copies.map fun c => leAt c o n).sum
  let rec1 := putAt rec 0x50
    (leBytes 4 amax.toNat ++ leBytes 4 (min (2 ^ 32 - 1) (sum 0x54 4)) ++ leBytes 4 (min (2 ^ 32 - 1) (sum 0x58 4)))
  putAt (putAt rec1 0x60 (leBytes 8 (sum 0x60 8))) 0x48
    [BitVec.ofNat 8 (leAt rec 0x48 1 % 16), BitVec.ofNat 8 (min 16 (leAt rec 0x49 1))]

/-- A saturating counter of a record, with its sticky bit. -/
def countIn (rec : List Byte) (which n : Nat) : List Byte :=
  let v := leAt rec (0x68 + 4 * which) 4 + n
  let rec1 := putAt rec (0x68 + 4 * which) (leBytes 4 (min (2 ^ 32 - 1) v))
  if n != 0 && decide (2 ^ 32 - 1 ≤ v) then putAt rec1 0x78 (leBytes 4 ((BitVec.ofNat 32 (leAt rec 0x78 4) ||| BitVec.ofNat 32 (2 ^ which)).toNat))
  else rec1

/-- R149: does a merged step mismatch? -/
def mismatches (rec : List Byte) : Bool :=
  let t := leAt rec 0x4D 1
  let limit := leAt rec 0x60 8 / 2 ^ t
  t != 0 && (decide (limit < leAt rec 0x54 4) || decide (limit < leAt rec 0x58 4))

/-- R148: the output kept enters history and totals. -/
def pushStep (rec : List Byte) : List Byte :=
  let head := leAt rec 0x48 1 % 16
  let rec1 := putAt rec (4 * head) (sliceBytes rec 0x50 4)
  let rec2 := putAt rec1 0x48 [BitVec.ofNat 8 ((head + 1) % 16), BitVec.ofNat 8 (min 16 (min 16 (leAt rec 0x49 1) + 1))]
  let rec3 := countIn (countIn rec2 0 (leAt rec 0x54 4)) 1 (leAt rec 0x58 4)
  putAt rec3 0x7C (leBytes 4 (leAt rec 0x7C 4 + 1))

/-- Set a flag of a record: 0 `mismatch`, 1 `replayed`, 2 `replay_failed`. -/
def setStepFlag (rec : List Byte) (b : Nat) : List Byte :=
  putAt rec 0x5C (leBytes 4 (BitVec.ofNat 32 (leAt rec 0x5C 4) ||| BitVec.ofNat 32 (2 ^ b)).toNat)

/-- R145, R150: the step fields are cleared for a new run of the layer. -/
def clearStep (rec : List Byte) : List Byte := putAt (putAt rec 0x50 (zeros 12)) 0x60 (zeros 8)

/-- What the end of a step asks for. -/
inductive StepResult where
  /-- The output stands; the next step may start. -/
  | kept
  /-- R150: the layer runs once more. -/
  | replay
  /-- Policy 2 (R149, R151): the task posts 0x15, a slice task after its slice-done word. -/
  | failed
  /-- R150: the replay has failed too, and the task ends with 0x15. -/
  | aborted
  deriving DecidableEq, Repr

/-- The mismatch policy (R149–R151) on a merged record; `again` in the replay of a step. -/
def stepPolicy (rec : List Byte) (again deadline : Bool) : List Byte × StepResult :=
  let mode := leAt rec 0x4C 1
  if !mismatches rec then (pushStep rec, .kept)
  else if again then
    let rec1 := setStepFlag rec 2
    if natBit mode 2 then (rec1, .aborted) else (pushStep rec1, .kept)
  else
    let rec1 := setStepFlag (countIn rec 2 1) 0
    if mode % 4 = 2 then (rec1, .failed)
    else if mode % 4 = 1 ∧ !deadline then
      let amax := BitVec.ofNat 32 (leAt rec 0x50 4)
      let scale := if (flOf 0).lt (flOf amax) then scaleOf rec amax else BitVec.ofNat 32 (leAt rec 0x40 4)
      (clearStep (setStepFlag (countIn (putAt rec1 0x40 (leBytes 4 scale.toNat)) 3 1) 1), .replay)
    else (pushStep rec1, .kept)

/-- A record at step start: the scale in force is set, flags and step fields are cleared (R145, R147). -/
def startStep (rec : List Byte) : List Byte :=
  clearStep (putAt (putAt rec 0x5C (zeros 4)) 0x40 (leBytes 4 (stepScale rec).toNat))

/-- R147: working copies of a master record as the first step of a task finds them. -/
def State.startRecord (s : State) (ctx master : Nat) : List Nat → Try State
  | [] => .ok s
  | a :: as => do
    let rec ← s.tryRead ctx master 128
    let t ← s.tryWrite ctx a (startStep rec)
    t.startRecord ctx master as

/-- The records of a task's first steps. -/
def State.startRecords (s : State) (ctx : Nat) : List (BitVec 48 × List (BitVec 48)) → Try State
  | [] => .ok s
  | r :: rs => do
    let t ← s.startRecord ctx r.1.toNat (r.2.map (·.toNat))
    t.startRecords ctx rs

/-- R162: words are set to 0. -/
def State.zeroWords (s : State) (ctx : Nat) : List (BitVec 48) → Try State
  | [] => .ok s
  | a :: as => do
    let t ← s.tryWrite ctx a.toNat (zeros 4)
    t.zeroWords ctx as

/-- What a task program does first. -/
def State.startWrites (s : State) (ctx : Nat) (b : TaskStart) : Try State := do
  let t ← s.zeroWords ctx b.words
  t.startRecords ctx b.records

/-- Read records for a context. -/
def State.readRecords (s : State) (ctx : Nat) : List Nat → Try (List (List Byte))
  | [] => .ok []
  | a :: as => do
    let r ← s.tryRead ctx a 128
    let rs ← s.readRecords ctx as
    .ok (r :: rs)

/-- Write one record to several places. -/
def State.writeRecords (s : State) (ctx : Nat) (rec : List Byte) : List Nat → Try State
  | [] => .ok s
  | a :: as => do
    let t ← s.tryWrite ctx a rec
    t.writeRecords ctx rec as

end Sys2Proof.Machine
end

