-- ==== Sys2Proof/Machine/Crypto.lean ====
section
/-! DEFINITION. The checks and ciphers that the spec names: CRC-32 (R234), SHA-256, HMAC, HKDF, RSASSA-PSS (R286),
RSAES-OAEP (R403) and AES-256-GCM (R398). -/

namespace Sys2Proof.Machine

/-! ### CRC-32 (R234) -/

/-- One bit of CRC-32, reflected. -/
def crcBit (c : Word) : Word := if c.getLsbD 0 then (c >>> 1) ^^^ 0xEDB88320 else c >>> 1

/-- One byte. -/
def crcByte (c : Word) (b : Byte) : Word :=
  crcBit (crcBit (crcBit (crcBit (crcBit (crcBit (crcBit (crcBit (c ^^^ b.setWidth 32))))))))

/-- CRC-32 of a byte string. -/
def crc32 (bs : List Byte) : Word := (bs.foldl crcByte 0xFFFFFFFF) ^^^ 0xFFFFFFFF

/-! ### SHA-256 (FIPS 180-4) -/

/-- Words of a byte string, big-endian. -/
def beWords : Nat → List Byte → List Word
  | 0, _ => []
  | n + 1, bs => BitVec.ofNat 32 (ofBe (bs.take 4)) :: beWords n (bs.drop 4)

/-- Eight words packed in one number, the first on top. -/
def packed8 (v : Nat) : List Word := beWords 8 (beBytes 32 v)

/-- The round constants, eight to a number. -/
def shaConstants : List Word :=
  packed8 0x428a2f9871374491b5c0fbcfe9b5dba53956c25b59f111f1923f82a4ab1c5ed5 ++
  packed8 0xd807aa9812835b01243185be550c7dc372be5d7480deb1fe9bdc06a7c19bf174 ++
  packed8 0xe49b69c1efbe47860fc19dc6240ca1cc2de92c6f4a7484aa5cb0a9dc76f988da ++
  packed8 0x983e5152a831c66db00327c8bf597fc7c6e00bf3d5a7914706ca635114292967 ++
  packed8 0x27b70a852e1b21384d2c6dfc53380d13650a7354766a0abb81c2c92e92722c85 ++
  packed8 0xa2bfe8a1a81a664bc24b8b70c76c51a3d192e819d6990624f40e3585106aa070 ++
  packed8 0x19a4c1161e376c082748774c34b0bcb5391c0cb34ed8aa4a5b9cca4f682e6ff3 ++
  packed8 0x748f82ee78a5636f84c878148cc7020890befffaa4506cebbef9a3f7c67178f2

/-- The initial hash value. -/
def shaStart : List Word := packed8 0x6a09e667bb67ae853c6ef372a54ff53a510e527f9b05688c1f83d9ab5be0cd19

/-- Exclusive or of a word turned right by two distances and a third term. -/
def turned (x : Word) (i j : Nat) (third : Word) : Word := x.rotateRight i ^^^ x.rotateRight j ^^^ third

/-- The word of the message schedule that follows the last sixteen, given newest first. -/
def shaNext (w : List Word) : Word :=
  let at_ (i : Nat) : Word := w.getD (i - 1) 0
  at_ 16 + turned (at_ 15) 7 18 (at_ 15 >>> 3) + at_ 7 + turned (at_ 2) 17 19 (at_ 2 >>> 10)

/-- `n` more words of the schedule. -/
def shaExtend (n : Nat) (w : List Word) : List Word := (rangeFrom 0 n).foldl (fun w _ => shaNext w :: w) w

/-- The eight working words of a block, `a` to `h`. -/
structure ShaWords where
  a : Word
  b : Word
  c : Word
  d : Word
  e : Word
  f : Word
  g : Word
  h : Word
  deriving DecidableEq, Repr

/-- The working words of a hash value. -/
def ShaWords.ofList (v : List Word) : ShaWords :=
  let at_ (i : Nat) : Word := v.getD i 0
  { a := at_ 0, b := at_ 1, c := at_ 2, d := at_ 3, e := at_ 4, f := at_ 5, g := at_ 6, h := at_ 7 }

/-- The hash value that the working words make. -/
def ShaWords.toList (x : ShaWords) : List Word := [x.a, x.b, x.c, x.d, x.e, x.f, x.g, x.h]

/-- A round with the sum of its constant and its schedule word. -/
def ShaWords.round (x : ShaWords) (kw : Word) : ShaWords :=
  let chosen := x.g ^^^ (x.e &&& (x.f ^^^ x.g))
  let most := (x.a &&& x.b) ||| (x.c &&& (x.a ||| x.b))
  let down := x.h + kw + chosen + turned x.e 6 11 (x.e.rotateRight 25)
  { a := down + most + turned x.a 2 13 (x.a.rotateRight 22), b := x.a, c := x.b, d := x.c
    e := x.d + down, f := x.e, g := x.f, h := x.g }

/-- A block of 64 bytes changes the hash value. -/
def shaBlock (v : List Word) (block : List Byte) : List Word :=
  let schedule := (shaExtend 48 (beWords 16 block).reverse).reverse
  let sums := List.zipWith (· + ·) shaConstants schedule
  List.zipWith (· + ·) v (sums.foldl ShaWords.round (ShaWords.ofList v)).toList

/-- The hash value after `n` blocks. -/
def shaBlocks : Nat → List Word → List Byte → List Word
  | 0, v, _ => v
  | n + 1, v, bs => shaBlocks n (shaBlock v (bs.take 64)) (bs.drop 64)

/-- SHA-256. -/
def sha256 (m : List Byte) : List Byte :=
  let pad := (119 - m.length % 64) % 64
  let p := m ++ [0x80] ++ zeros pad ++ beBytes 8 (8 * m.length)
  ((shaBlocks (p.length / 64) shaStart p).map fun w => beBytes 4 w.toNat).flatten

/-- HMAC-SHA-256. -/
def hmac (key m : List Byte) : List Byte :=
  let k := if key.length ≤ 64 then key else sha256 key
  let k := k ++ zeros (64 - k.length)
  sha256 (k.map (· ^^^ 0x5C) ++ sha256 (k.map (· ^^^ 0x36) ++ m))

/-- HKDF-SHA-256 with no info, 32 bytes out (R397). -/
def hkdf32 (salt seed : List Byte) : List Byte := hmac (hmac salt seed) [1]

/-- MGF1 with SHA-256: `n` blocks of mask. -/
def mgfBlocks (seed : List Byte) (i : Nat) : Nat → List Byte
  | 0 => []
  | n + 1 => sha256 (seed ++ beBytes 4 i) ++ mgfBlocks seed (i + 1) n

/-- MGF1 with SHA-256. -/
def mgf1 (seed : List Byte) (len : Nat) : List Byte := (mgfBlocks seed 0 (ceilDiv len 32)).take len

/-- Exclusive or of byte strings. -/
def xorBytes (a b : List Byte) : List Byte := List.zipWith (· ^^^ ·) a b

/-! ### RSA (R286, R393, R403) -/

/-- `b` to the power of the `n` low bits of `e`, modulo `m`, from the top bit. -/
def modExpLoop (b e m : Nat) : Nat → Nat → Nat
  | 0, acc => acc
  | n + 1, acc =>
    let sq := acc * acc % m
    modExpLoop b e m n (if natBit e n then sq * b % m else sq)

/-- Modular exponentiation. -/
def modExp (b e m : Nat) : Nat := if m ≤ 1 then 0 else modExpLoop (b % m) e m (e.log2 + 1) 1

/-- The public exponent (R393). -/
def publicExponent : Nat := 65537

/-- The key digest of a modulus (R393). -/
def keyDigest (modulus : List Byte) : List Byte := sha256 (modulus ++ beBytes 4 publicExponent)

/-- EMSA-PSS verification of a 384-byte encoded message whose modulus has `modBits` bits; 32-byte salt. -/
def pssCheck (hash em : List Byte) (modBits : Nat) : Bool :=
  let emBits := modBits - 1
  let emLen := ceilDiv emBits 8
  let em := em.drop (em.length - emLen)
  let dbLen := emLen - 33
  let masked := em.take dbLen
  let h := (em.drop dbLen).take 32
  let lead := 8 * emLen - emBits
  let db := xorBytes masked (mgf1 h dbLen)
  let db := match db with
    | b :: t => BitVec.ofNat 8 (b.toNat % 2 ^ (8 - lead)) :: t
    | [] => []
  let salt := db.drop (dbLen - 32)
  em.getLast? == some 0xBC && decide ((em.headD 0).toNat < 2 ^ (8 - lead))
    && (db.take (dbLen - 33)).all (· == 0) && db[dbLen - 33]? == some 1 && sha256 (zeros 8 ++ hash ++ salt) == h

/-- RSASSA-PSS verification (R286): modulus and signature of 384 bytes, big-endian. -/
def pssVerify (modulus message signature : List Byte) : Bool :=
  let n := ofBe modulus
  let sig := ofBe signature
  n != 0 && decide (sig < n) &&
    pssCheck (sha256 message) (beBytes 384 (modExp sig publicExponent n)) (n.log2 + 1)

/-- EMSA-PSS encoding with a salt, for a modulus of `modBits` bits. -/
def pssEncode (message salt : List Byte) (modBits : Nat) : List Byte :=
  let emBits := modBits - 1
  let emLen := ceilDiv emBits 8
  let h := sha256 (zeros 8 ++ sha256 message ++ salt)
  let dbLen := emLen - 33
  let db := zeros (dbLen - 33) ++ [1] ++ salt
  let masked := xorBytes db (mgf1 h dbLen)
  let lead := 8 * emLen - emBits
  let masked := match masked with
    | b :: t => BitVec.ofNat 8 (b.toNat % 2 ^ (8 - lead)) :: t
    | [] => []
  masked ++ h ++ [0xBC]

/-- The private operation by the CRT parts of a key. -/
def rsaPrivate (p q dp dq qinv c : Nat) : Nat :=
  let m1 := modExp c dp p
  let m2 := modExp c dq q
  m2 + q * (qinv * (m1 + p * (m2 / p + 1) - m2) % p)

/-- OAEP decoding of 384 bytes with SHA-256 and an empty label (R403). -/
def oaepDecode (em : List Byte) : Option (List Byte) :=
  let maskedSeed := (em.drop 1).take 32
  let maskedDb := em.drop 33
  let seed := xorBytes maskedSeed (mgf1 maskedDb 32)
  let db := xorBytes maskedDb (mgf1 seed 351)
  let rest := (db.drop 32).dropWhile (· == 0)
  if em.length == 384 && em.headD 1 == 0 && db.take 32 == sha256 [] && rest.head? == some 1 then some (rest.drop 1)
  else none

/-! ### AES-256-GCM (R398) -/

/-- Multiplication by x in GF(2^8). -/
def xtime (b : Byte) : Byte := if b &&& 0x80 = 0 then b <<< 1 else (b <<< 1) ^^^ 0x1B

/-- Multiplication in GF(2^8), `n` bits of `a` from bit `i`. -/
def gmulLoop (a : Byte) : Nat → Nat → Byte → Byte → Byte
  | 0, _, _, acc => acc
  | n + 1, i, b, acc => gmulLoop a n (i + 1) (xtime b) (if natBit a.toNat i then acc ^^^ b else acc)

/-- Multiplication in GF(2^8). -/
def gmul (a b : Byte) : Byte := gmulLoop a 8 0 b 0

/-- The inverse in GF(2^8), as the power 254. -/
def ginv (a : Byte) : Byte :=
  let a2 := gmul a a
  let a4 := gmul a2 a2
  let a8 := gmul a4 a4
  let a16 := gmul a8 a8
  let a32 := gmul a16 a16
  let a64 := gmul a32 a32
  let a128 := gmul a64 a64
  gmul a128 (gmul a64 (gmul a32 (gmul a16 (gmul a8 (gmul a4 a2)))))

/-- The S-box. -/
def sbox (a : Byte) : Byte :=
  let b := ginv a
  b ^^^ b.rotateLeft 1 ^^^ b.rotateLeft 2 ^^^ b.rotateLeft 3 ^^^ b.rotateLeft 4 ^^^ 0x63

/-- The key schedule of AES-256: words of 4 bytes, oldest first, from the 8 words of the key. -/
def aesExpand : Nat → Nat → Byte → List (List Byte) → List (List Byte)
  | 0, _, _, w => w
  | n + 1, i, rcon, w =>
    let prev := w.getLastD []
    let t :=
      if i % 8 = 0 then
        match (prev.drop 1 ++ prev.take 1).map sbox with
        | b :: bs => (b ^^^ rcon) :: bs
        | [] => []
      else if i % 8 = 4 then prev.map sbox else prev
    aesExpand n (i + 1) (if i % 8 = 0 then xtime rcon else rcon) (w ++ [xorBytes (w.getD (w.length - 8) []) t])

/-- Four bytes each. -/
def words4 : Nat → List Byte → List (List Byte)
  | 0, _ => []
  | n + 1, bs => bs.take 4 :: words4 n (bs.drop 4)

/-- ShiftRows on 16 bytes in column order. -/
def shiftRows (st : List Byte) : List Byte :=
  (rangeFrom 0 16).map fun i => st.getD ((i + 4 * (i % 4)) % 16) 0

/-- MixColumns on one column. -/
def mixColumn (c : List Byte) : List Byte :=
  let a := c.getD 0 0
  let b := c.getD 1 0
  let d := c.getD 2 0
  let e := c.getD 3 0
  [xtime a ^^^ (xtime b ^^^ b) ^^^ d ^^^ e, a ^^^ xtime b ^^^ (xtime d ^^^ d) ^^^ e, a ^^^ b ^^^ xtime d ^^^ (xtime e ^^^ e),
   (xtime a ^^^ a) ^^^ b ^^^ d ^^^ xtime e]

/-- The rounds after the first key addition. -/
def aesRounds : List (List Byte) → List Byte → List Byte
  | [], st => st
  | [k], st => xorBytes (shiftRows (st.map sbox)) k
  | k :: ks, st => aesRounds ks (xorBytes (((words4 4 (shiftRows (st.map sbox))).map mixColumn).flatten) k)

/-- One AES-256 block, with the round keys. -/
def aesBlock (keys : List (List Byte)) (b : List Byte) : List Byte := aesRounds (keys.drop 1) (xorBytes b (keys.headD []))

/-- The 15 round keys of 16 bytes. -/
def aesKeys (key : List Byte) : List (List Byte) :=
  let w := aesExpand 52 8 1 (words4 8 key)
  (rangeFrom 0 15).map fun i => ((w.drop (4 * i)).take 4).flatten

/-- Multiplication in GF(2^128) of GHASH; bit 0 is the top bit. -/
def ghashMul : Nat → BitVec 128 → BitVec 128 → BitVec 128 → BitVec 128
  | 0, _, _, z => z
  | n + 1, x, v, z =>
    ghashMul n (x <<< 1) (if v.getLsbD 0 then (v >>> 1) ^^^ (0xE1 <<< 120) else v >>> 1) (if x.getMsbD 0 then z ^^^ v else z)

/-- Blocks of 16 bytes, the last one padded with 0. -/
def blocks16 : Nat → List Byte → List (List Byte)
  | 0, _ => []
  | n + 1, bs => sliceBytes bs 0 16 :: blocks16 n (bs.drop 16)

/-- GHASH of padded data. -/
def ghash (h : BitVec 128) (bs : List (List Byte)) : BitVec 128 :=
  bs.foldl (fun y b => ghashMul 128 (y ^^^ BitVec.ofNat 128 (ofBe b)) h 0) 0

/-- GCM key stream blocks from counter `i`. -/
def gcmStream (keys : List (List Byte)) (nonce : List Byte) (i : Nat) : Nat → List Byte
  | 0 => []
  | n + 1 => aesBlock keys (nonce ++ beBytes 4 i) ++ gcmStream keys nonce (i + 1) n

/-- The tag of additional data and ciphertext. -/
def gcmTag (keys : List (List Byte)) (nonce aad ct : List Byte) : List Byte :=
  let h := BitVec.ofNat 128 (ofBe (aesBlock keys (zeros 16)))
  let s := ghash h (blocks16 (ceilDiv aad.length 16) aad ++ blocks16 (ceilDiv ct.length 16) ct
    ++ [beBytes 8 (8 * aad.length) ++ beBytes 8 (8 * ct.length)])
  xorBytes (beBytes 16 s.toNat) (aesBlock keys (nonce ++ beBytes 4 1))

/-- GCM encryption: ciphertext and tag. -/
def gcmEncrypt (key nonce aad pt : List Byte) : List Byte × List Byte :=
  let keys := aesKeys key
  let ct := xorBytes pt (gcmStream keys nonce 2 (ceilDiv pt.length 16))
  (ct, gcmTag keys nonce aad ct)

/-- GCM decryption, if the tag verifies. -/
def gcmDecrypt (key nonce aad ct tag : List Byte) : Option (List Byte) :=
  let keys := aesKeys key
  if gcmTag keys nonce aad ct == tag then some (xorBytes ct (gcmStream keys nonce 2 (ceilDiv ct.length 16))) else none

end Sys2Proof.Machine
end

