-- ==== Sys2Proof/Machine/Placement.lean ====
section
/-! DEFINITION. How tasks come to cores: launch records (R110, R111), which slots a task may take (R118, R254, R266), its
start (R107, R108), its groups (R99, R112), and whom it may evict (R267). -/

namespace Sys2Proof.Machine

/-! ### Launch records -/

/-- Table 4.4. -/
def decodeLaunch (bs : List Byte) : Launch64 :=
  let f := leAt bs 0x1B 1
  { code := leAt bs 0 8, codeSize := leAt bs 8 4, kernel := leAt bs 0x0C 4, gridX := leAt bs 0x10 4, gridY := leAt bs 0x14 2,
    gridZ := leAt bs 0x16 2, groupSize := leAt bs 0x18 2, barriers := leAt bs 0x1A 1, reload := natBit f 0,
    tokenLoop := natBit f 1, static := natBit f 2, groupMem := leAt bs 0x1C 4, width := leAt bs 0x20 2,
    timeout := leAt bs 0x24 4, param := leAt bs 0x28 8, program := leAt bs 0x30 8, maxTokens := leAt bs 0x38 4,
    reserve := leAt bs 0x3C 4 }

/-- Groups of a launch. -/
def Launch64.groups (l : Launch64) : Nat := l.gridX * l.gridY * l.gridZ

/-- R111: the group size is valid. -/
def Launch64.groupSizeGood (l : Launch64) : Bool := l.groupSize % 32 == 0 && decide (l.groupSize ≤ 1024)

/-- R99: the smallest of a list of quotients; a divisor of 0 does not apply. -/
def quotient (a b : Nat) : Nat := if b = 0 then 32 else a / b

/-- R99: groups of a launch that can be resident at once in a slot with these shares. -/
def Launch64.residentMax (l : Launch64) (sh : SlotShare) : Nat :=
  if l.groupSize = 0 then 1
  else min (min (sh.hamCount / (l.groupSize / 32)) (quotient 32 l.barriers))
    (min (quotient (65536 * sh.memUnits - l.reserve) l.groupMem) 32)

/-- Does a launch fit a slot: one group (R99), the task-data reserve (R111) and the code image (R107)? -/
def Launch64.fits (l : Launch64) (sh : SlotShare) : Bool :=
  decide (0 < l.residentMax sh) && decide (l.reserve ≤ 65536 * sh.memUnits) && decide (l.codeSize ≤ 16384 * sh.insUnits)

/-- The launch record of an entry, or the status and location that end the entry (R111). -/
def State.readLaunch (s : State) (ctx : Nat) (e : Entry) : Except (Nat × Option Nat) Launch64 :=
  if e.launch = 0 ∨ e.launch % 64 ≠ 0 then .error (0x10, none)
  else
    match s.readFor ctx e.launch 64 with
    | .denied => .error (0x13, none)
    | .uncorrectable a => .error (0x11, some a)
    | .ok bs => .ok (decodeLaunch bs)

/-- R111, R107: may a launch of a context run at all? In a context that may use no slot it waits (DESIGN CHOICE, log 15: the
spec does not say what becomes of it). -/
def State.launchGood (s : State) (ctx : Nat) (l : Launch64) : Bool :=
  let cores := s.partCores (s.ctxPart ctx)
  let slots := (cores.map fun c => ((rangeFrom 0 4).filter fun i => s.ctxMayUse ctx c i).map fun i => s.share c i).flatten
  l.groups != 0 && l.groupSizeGood && decide (l.groups * max 1 l.groupSize ≤ 2 ^ 32) && decide (l.width ≤ cores.length)
    && l.code % 256 == 0 && l.reserve % 256 == 0 && (slots.isEmpty || slots.any l.fits)

/-! ### Where a task may run -/

/-- A core with firmware on a powered, ungated, working slot that the rambler leaves to the scheduler (R299, R316, R318,
R409). -/
def State.coreUsable (s : State) (core : Nat) : Bool :=
  let site := s.siteAt core
  s.bit R.BRG_READY [] (18 + core / 128) && !s.pwr.gated.contains (.core site) && !s.brg.failed.contains site
    && !s.ramHolds core

/-- R118: the cores to which a task of a partition in reproducible mode is bound. -/
def State.boundCores (s : State) (p q : Nat) (seq : Word) (w : Nat) : List Nat :=
  let cores := s.partCores p
  let n := cores.length
  let h := (crc32 (leBytes 4 (q % 2 ^ 14) ++ leBytes 4 seq.toNat)).toNat
  (rangeFrom 0 w).map fun i => cores.getD ((h + i) % n) 0

/-- The cores on which a task may take a slot, in logical ID order. -/
def State.taskCores (s : State) (t : Task) : List Nat := if t.cores.isEmpty then s.partCores t.part else t.cores

/-- R266: is a slot free: it holds no live task, and none is being evicted or restored there? -/
def State.slotFree (s : State) (core i : Nat) : Bool := (s.slotAt core i).isNone

/-- R264: rank of a restore. -/
def State.restoreRank (s : State) (l : Layby) : List Nat :=
  match s.task l.slot.qid l.slot.seq with
  | some t => slotKey t ++ [0, t.firstRun]
  | none => [5]

/-- R264: rank of a task that competes for slots. -/
def State.taskRank (s : State) (t : Task) : List Nat :=
  let last := match s.sch.served.find? fun e => e.1 == 4 * t.part + t.eff with | some e => e.2 | none => 16383
  if t.started then slotKey t ++ [0, t.firstRun]
  else slotKey t ++ [1, if t.eff = 1 ∧ t.entry.dlValid then t.qid else (t.qid + 16384 - last - 1) % 16384]

/-- Is a free slot claimed by a restore that goes before a competitor of this rank? -/
def State.claimed (s : State) (core i : Nat) (rank : List Nat) : Bool :=
  s.sch.layby.any fun l => l.slot.core == core && l.slot.idx == i && !l.parked && keyLt (s.restoreRank l) rank

/-- The slots that a task could take now, one on each core where it holds none, lowest index first (R266). -/
def State.freeSlotsFor (s : State) (t : Task) : List (Nat × Nat) :=
  let held := (s.slotsOf t).map (·.core) ++ (s.laybyOf t).map fun l => l.slot.core
  ((s.taskCores t).filter fun c => s.coreUsable c && !held.contains c).filterMap fun c =>
    ((rangeFrom 0 4).find? fun i =>
      s.ctxMayUse t.ctx c i && t.launch.fits (s.share c i) && s.slotFree c i && !s.claimed c i (s.taskRank t)).map
        fun i => (c, i)

/-- R266: slots that a task holds, counting those in a lay-by and those being evicted for it. -/
def State.heldCount (s : State) (t : Task) : Nat :=
  (s.slotsOf t).length + ((s.laybyOf t).filter fun l =>
      !((s.slotsOf t).any fun x => x.core == l.slot.core && x.idx == l.slot.idx)).length
    + (s.sch.slots.filter fun x => x.phase == .evicting && x.evictFor == some (t.qid, t.entry.seq)
        && !((s.laybyOf t).any fun l => l.slot.core == x.core && l.slot.idx == x.idx)).length

/-! ### Taking a slot -/

/-- An engine with empty registers. -/
def Engine.empty : Engine :=
  { current := { act := 0, depth := 16, fp := false, plain := true, weights := [] }, idle := none, acc := [], bad := [],
    waiting := none, queue := [], draws := Vector.replicate 16 0 }

/-- A slot that has held nothing since reset. -/
def SlotImage.empty : SlotImage :=
  { hampers := [], regs := [], badRegs := [], draws := [], events := Vector.replicate 32 0, barriers := [],
    engines := Vector.replicate 4 Engine.empty, dma := [], counters := Vector.replicate 4 0, groups := [],
    streams := [], unfenced := [], pc := 0 }

/-- What a task finds in a slot: its arrays as they were left, event counters, slot counters and draw counts cleared (R109,
R381, R137), and nothing running. -/
def State.startImage (s : State) (core i : Nat) (pc : Word) : SlotImage :=
  let old := match s.sch.rest.find? fun e => e.1 == s.siteAt core && e.2.1 == i with
    | some e => e.2.2
    | none => SlotImage.empty
  { old with hampers := [], draws := [],
             engines := old.engines.map fun e => { e with waiting := none, queue := [], draws := Vector.replicate 16 0 },
             events := Vector.replicate 32 0, barriers := [], dma := [], counters := Vector.replicate 4 0,
             groups := [], streams := [], unfenced := [], pc := pc }

/-- R107, R108: the code image goes into the instruction share of the slot, by DMA; loading it is skipped when the same image
was the last one loaded. -/
def State.loadCode (s : State) (t : Task) (core i : Nat) : Except (Nat × Option Nat) State :=
  let l := t.launch
  let same := s.sch.code.any fun c => c.site == s.siteAt core && c.idx == i && c.code == l.code && c.size == l.codeSize
  if same && !l.reload then .ok s
  else
    match s.readFor t.ctx l.code l.codeSize with
    | .denied => .error (0x13, none)
    | .uncorrectable a => .error (0x11, some a)
    | .ok bs =>
      let held : CodeHeld := { site := s.siteAt core, idx := i, code := l.code, size := l.codeSize, bytes := bs }
      let code := upsert (fun c => c.site == s.siteAt core && c.idx == i) held s.sch.code
      .ok (((s.withSch { s.sch with code := code }).dieRead t.part (core / 128) l.code l.codeSize).account t.ctx 1 l.codeSize)

/-- A task takes a slot. A slot whose shares overlap another's ends it with 0x10 (R103); so does a code image that cannot be
loaded, with its status. -/
def State.takeSlot (s : State) (t : Task) (core i : Nat) : State :=
  let x : Slot :=
    { core := core, idx := i, qid := t.qid, seq := t.entry.seq, phase := .live, evictFor := none, wait := none,
      yielded := false, halted := false, stepping := false,
      image := s.startImage core i (BitVec.ofNat 32 (if t.launch.program = 2 ^ 64 - 1 then 0 else t.launch.program)),
      calls := [] }
  let s := s.withSch { s.sch with slots := s.sch.slots ++ [x] }
  if s.slotFault core i then s.endTask t 0x10
  else
    match s.loadCode t core i with
    | .error (st, loc) => s.endTask t st loc
    | .ok s => (s.placeInputs t.qid t.entry.seq).wakeCore core

/-- A task becomes a started one (R264: its queue is the last served at its priority). -/
def State.markStarted (s : State) (t : Task) : State :=
  let served := upsert (fun e => e.1 == 4 * t.part + t.eff) (4 * t.part + t.eff, t.qid) s.sch.served
  let s := s.withSch { s.sch with starts := s.sch.starts + 1, served := served }
  let s := s.putTask { t with started := true, order := s.sch.starts, timerStart := s.now, startTime := s.now }
  s.trace 1 (some t.ctx) (traceWord t.qid t.ctx 0) (taskPayload t.entry.seq 0 0)

/-- A task takes slots from a list, up to the cores that it asks for. -/
def State.takeSlots (s : State) (q : Nat) (seq : Word) : List (Nat × Nat) → State
  | [] => s
  | (c, i) :: rest =>
    match s.task q seq with
    | some t => if s.heldCount t < t.width then (s.takeSlot t c i).takeSlots q seq rest else s
    | none => s

/-! ### Eviction for a task -/

/-- R267: may a slot be the victim of a task? -/
def State.victimOf (s : State) (t : Task) (x : Slot) : Bool :=
  x.phase == .live && (s.share x.core x.idx).part == t.part && !s.isStatic t.part && !s.ctxResident (x.qid / 256)
    && s.ctxMayUse t.ctx x.core x.idx && (s.taskCores t).contains x.core
    && !((s.slotsOf t).any fun y => y.core == x.core) && decide (t.eff < s.effOf x.qid x.seq)
    && !(s.sch.slots.any fun y => y.core == x.core && y.phase == .evicting && y.evictFor == some (t.qid, t.entry.seq))

/-- R267: the order of victims. -/
def State.victimKey (s : State) (x : Slot) : List Nat :=
  match s.slotTask x with
  | some v => [4 - v.eff, if v.entry.dlValid then 2 ^ 64 - v.entry.deadline else 0, s.sch.starts - v.order, 256 - x.core]
  | none => []

/-- Evictions in progress in a partition. -/
def State.evictions (s : State) (p : Nat) : Nat :=
  (s.sch.slots.filter fun x => x.phase == .evicting && s.queuePart x.qid == p).length

/-- R267: evict a victim for a task, if the victim's context has a free lay-by record; if not, it stays and is counted. -/
def State.evictOne (s : State) (t : Task) (x : Slot) : State :=
  let ctx := x.qid / 256
  if s.laybyUsed ctx < s.laybyCapacity ctx then s.startEviction x (some (t.qid, t.entry.seq))
  else s.countSat R.SCH_CTX_CNT_LAYBYFULL [ctx] 1 R.SCH_CTX_CNT_OVF [ctx] 2

/-- Evict for a task, victim by victim. -/
def State.evictFor (s : State) (t : Task) : List Slot → State
  | [] => s
  | x :: rest =>
    if t.width ≤ s.heldCount t || 16 ≤ s.evictions t.part then s
    else
      let s := match s.slotAt x.core x.idx with
        | some y => if s.victimOf t y then s.evictOne t y else s
        | none => s
      s.evictFor t rest

/-- R267: a task that finds no free slot may evict. -/
def State.tryEvict (s : State) (t : Task) : State := s.evictFor t (sortBy s.victimKey (s.sch.slots.filter (s.victimOf t)))

/-! ### A dispatch decision -/

/-- A task that competes for slots: not started, or started with fewer slots than it asks for. -/
def State.competes (s : State) (t : Task) : Bool := !t.started || decide (s.heldCount t < t.width)

/-- The launch of a task that is dispatched for the first time, or the status that ends it. -/
def State.prepare (s : State) (t : Task) : Except (Nat × Option Nat) Task :=
  match s.readLaunch t.ctx t.entry with
  | .error e => .error e
  | .ok l =>
    if s.launchGood t.ctx l then
      let w := if l.width = 0 then (s.partCores t.part).length else l.width
      let l := if t.entry.param = 0 then l else { l with param := t.entry.param }
      .ok { t with
        launch := l, width := w
        cores := if s.reproducible t.part then s.boundCores t.part t.qid t.entry.seq w else []
        token := if l.tokenLoop then
          some { seqId := BitVec.ofNat 32 (s.le l.param 4), index := 0, cancel := false, written := false, stalled := none,
                 finished := none, timedOut := false }
          else none }
    else .error (0x10, none)

/-- An unstarted task ends without running. -/
def State.endUnstarted (s : State) (t : Task) (status : Nat) (loc : Option Nat) : State :=
  let s := s.withSch { s.sch with tasks := s.sch.tasks.filter fun x => !t.holds x.qid x.entry.seq }
  s.endEntry t.qid t.entry status loc

/-- What a task program does first at the start of its task (R147, R162). -/
def State.beginTask (s : State) (q : Nat) (seq : Word) (b : TaskStart) : State :=
  match s.task q seq with
  | none => s
  | some t =>
    match s.startWrites t.ctx b with
    | .ok s => s
    | .error (st, loc) => s.endTask t st loc

/-- A task that found no free slot evicts (R267). The answer says whether an eviction started. -/
def State.evictInstead (s : State) (t : Task) : State × Bool :=
  let r := s.tryEvict t
  (r, r.evictions t.part != s.evictions t.part)

/-- A task starts on slots. -/
def State.startOn (s : State) (t : Task) (slots : List (Nat × Nat)) (b : TaskStart) : State :=
  ((s.markStarted { t with awaitsModel := false }).takeSlots t.qid t.entry.seq slots).beginTask t.qid t.entry.seq b

/-- What a competitor can do now: start or widen, evict, end. The answer says whether it did; a miss of its model (R279) and an
eviction without a free record (R267) count either way. -/
def State.dispatchTask (s : State) (t : Task) (b : TaskStart) : State × Bool :=
  if t.started then
    match s.freeSlotsFor t with
    | [] => s.evictInstead t
    | free => (s.takeSlots t.qid t.entry.seq free, true)
  else
    match s.prepare t with
    | .error (st, loc) => (s.endUnstarted t st loc, true)
    | .ok t =>
      match s.taskModel t with
      | (s', .refused st) => (s'.endUnstarted t st none, true)
      | (s', .wait) => (s', false)
      | (s', .ready) =>
        match s.freeSlotsFor t with
        | [] => s.evictInstead t
        | free => if t.cores.isEmpty || decide (t.width ≤ free.length) then (s'.startOn t free b, true) else (s, false)

/-- The places of a statically scheduled task, as its compiled schedule states them, when it may take them all (R121). -/
def State.staticSlots (s : State) (t : Task) (image : List Byte) : List (Nat × Nat) :=
  let places := Config.staticPlaces image
  if places.all fun e => (s.partCores t.part).contains e.1 && s.coreUsable e.1 && s.ctxMayUse t.ctx e.1 e.2
      && t.launch.fits (s.share e.1 e.2) && s.slotFree e.1 e.2 then places
  else []

/-- R121, R266: a task of a static-schedule partition starts at a launch instant, with `static` = 1 where its compiled schedule
states; a task without the flag, which the spec does not foresee there, as the scheduler places it (log 15). -/
def State.dispatchStatic (s : State) (t : Task) : State :=
  match s.prepare t with
  | .error (st, loc) => s.endUnstarted t st loc
  | .ok t =>
    let image := s.bytes t.launch.code t.launch.codeSize
    let b : TaskStart := { words := Config.staticWords image, records := Config.staticRecords image }
    if !t.launch.static then (s.dispatchTask t b).1
    else
      match s.taskModel t with
      | (s', .refused st) => s'.endUnstarted t st none
      | (s', .wait) => s'
      | (s', .ready) =>
        match s.staticSlots t image with
        | [] => s
        | slots => s'.startOn { t with width := slots.length } slots b

/-- The first competitor, in order, that can do something. -/
def State.dispatchFirst (s : State) (b : TaskStart) : List Task → State
  | [] => s
  | t :: rest => match s.dispatchTask t b with | (r, done) => if done then r else r.dispatchFirst b rest

/-- TASK_DISPATCH: the next dispatch decision of a partition (R264). A static-schedule partition starts tasks only at launch
instants (R350). -/
def execTaskDispatch (turn : TaskTurn) (s : State) : Host.Outcome State Fault Refusal :=
  s.live fun s =>
    let p := turn.part.val
    if s.dispatchOn p && !s.isStatic p then
      s.dispatchFirst turn.start (sortBy s.taskRank (s.sch.tasks.filter fun t => t.part == p && s.competes t))
    else s

/-- R260: the scheduler takes the next entry of a queue as a task. -/
def State.takeEntry (s : State) (q : Nat) : State :=
  s.handleHead q (· == 1) fun e s =>
    match s.queue q with
    | none => s
    | some x =>
      let t : Task :=
        { qid := q, entry := e, ctx := q / 256, part := s.queuePart q, prio := x.desc.prio, eff := x.desc.prio,
          started := false, launch := decodeLaunch [], width := 1, cores := [], nextGroup := 0, groupsEnded := 0,
          firstRun := 0, preempted := false, startTime := 0, order := 0, engineNs := 0, awaitsModel := false, token := none,
          timerStart := 0, replays := [], stepBefore := [], forced := none, render := none,
          rendered := { total := 0, passes := 0, prims := 0, partials := 0, stops := 0, tiles := 0, high := 0, started := 0 } }
      let s := s.popEntry q
      (s.withSch { s.sch with tasks := s.sch.tasks ++ [t] })

/-- ENTRY_TASK: the scheduler takes the next entry of a queue as a task (R260). -/
def execEntryTask (queue : Fin 16384) (s : State) : Host.Outcome State Fault Refusal :=
  s.live fun s => s.takeEntry queue.val

/-! ### Groups (R99, R112) -/

/-- Hampers, of those a slot has, that no resident group uses. -/
def freeHampers (x : Slot) (count : Nat) : List Nat :=
  (rangeFrom 0 count).filter fun h => !(x.image.hampers.any fun y => y.ident == h)

/-- First free stretch of group memory above the reserve. -/
def groupBase (x : Slot) (l : Launch64) : Nat → Nat
  | 0 => l.reserve
  | n + 1 =>
    let used := (rangeFrom 0 32).find? fun k => !(x.image.groups.any fun g => g.memBase == l.reserve + k * l.groupMem)
    if l.groupMem = 0 then groupBase x l n else l.reserve + used.getD 0 * l.groupMem

/-- A group goes to a slot. Every thread of it is active; its registers hold what they held. -/
def placeGroup (x : Slot) (l : Launch64) (g hamCount : Nat) : Slot :=
  let hs := (freeHampers x hamCount).take (l.groupSize / 32)
  let new := mapPlaces (fun r h =>
    ({ ident := h, group := g, rank := r, active := 0xFFFFFFFF, exited := 0, stack := [], waiting := none } : Hamper)) 0 hs
  let groups := if l.groupSize = 0 then [({ index := g, memBase := 0 } : GroupRun)]
    else x.image.groups ++ [{ index := g, memBase := groupBase x l 1 }]
  let draws := x.image.draws.filter fun d => !hs.contains (d.1 / 32)
  { x with image := { x.image with hampers := x.image.hampers ++ new, groups := groups, draws := draws } }

/-- Has a slot room for a group: are fewer resident than R99 allows, 1 of an engine-only task? -/
def State.roomFor (s : State) (t : Task) (x : Slot) : Bool :=
  decide (x.image.groups.length < t.launch.residentMax (s.share x.core x.idx))

/-- Invocations of the task program of an engine-only task have returned: their groups have ended (R99, R112). -/
def State.groupsReturned (s : State) (q : Nat) (seq : Word) (returned : List SlotName) : State :=
  returned.foldl (fun s n =>
    match s.slotNamed n, s.task q seq with
    | some x, some t =>
      if t.holds x.qid x.seq && t.launch.groupSize == 0 && !x.image.groups.isEmpty then
        (s.putSlot { x with image := { x.image with groups := [] } }).putTask { t with groupsEnded := t.groupsEnded + 1 }
      else s
    | _, _ => s) s

/-- The slot that the next group of a task goes to (R112): the first with room, in logical ID order; in reproducible mode
that of core g mod w, when it has room. -/
def State.groupSlot (s : State) (t : Task) : Option Slot :=
  let mine := sortBy (fun x : Slot => [x.core]) ((s.slotsOf t).filter fun x => x.phase == .live)
  if t.cores.isEmpty then mine.find? (s.roomFor t)
  else
    let core := t.cores.getD (t.nextGroup % t.cores.length) 0
    mine.find? fun x => x.core == core && s.roomFor t x

/-- GROUP_DISPATCH: the next group of a task goes to a core (R112), after the invocations of an engine-only task that
`returned` names have ended. -/
def execGroupDispatch (task : TaskName) (returned : List SlotName) (s : State) : Host.Outcome State Fault Refusal :=
  s.live fun s =>
    let s := s.groupsReturned task.queue.val task.seq returned
    match s.task task.queue.val task.seq with
    | none => s
    | some t =>
      if t.started && decide (t.nextGroup < t.launch.groups) then
        match s.groupSlot t with
        | some x =>
          let sh := s.share x.core x.idx
          (s.putSlot (placeGroup x t.launch t.nextGroup sh.hamCount)).putTask { t with nextGroup := t.nextGroup + 1 }
        | none => s
      else s

end Sys2Proof.Machine
end

