-- ==== Sys2Proof/Machine/Shares.lean ====
section
/-! DEFINITION. What a task program reaches in its slot: memory shares (R97, R103), event counters (R109), and the draws of
stochastic rounding (R137). -/

namespace Sys2Proof.Machine

/-! ### Memory shares -/

/-- The share of cluster memory of a slot's partition in its own cluster: first byte and bytes. -/
def State.clusterShareOf (s : State) (x : Slot) : Nat × Nat :=
  let d := x.core / 128
  let k := x.core / 16 % 8
  let v := s.rd R.CLC_CSHARE [d, k, (s.share x.core x.idx).part]
  (clusterBase d k + 65536 * bits v 7 0, 65536 * bits v 15 8)

/-- Read inside a share; past it is 0x13 (R97), a word in error 0x11 (R105). -/
def State.readIn (s : State) (share : Nat × Nat) (off n : Nat) : Try (List Byte) :=
  if share.2 < off + n then .error (0x13, none)
  else match s.readError (share.1 + off) n with
    | some a => .error (0x11, some a)
    | none => .ok (s.bytes (share.1 + off) n)

/-- Write inside a share. -/
def State.writeIn (s : State) (share : Nat × Nat) (off : Nat) (bs : List Byte) : Try State :=
  if share.2 < off + bs.length then .error (0x13, none)
  else match s.writeError (share.1 + off) bs.length with
    | some a => .error (0x11, some a)
    | none => .ok (s.write (share.1 + off) bs)

/-- Read from the core-memory share of a slot. -/
def State.readShare (s : State) (x : Slot) (off n : Nat) : Try (List Byte) := s.readIn (s.coreShare x.core x.idx) off n

/-- Write to the core-memory share of a slot. -/
def State.writeShare (s : State) (x : Slot) (off : Nat) (bs : List Byte) : Try State :=
  s.writeIn (s.coreShare x.core x.idx) off bs

/-- Go on with a result, or end the task of the slot. -/
def State.orEnd (s : State) (x : Slot) : Try State → State
  | .ok t => t
  | .error (st, loc) => s.endSlot x st loc

/-! ### Event counters (R109) -/

/-- Is a wait for target `t` satisfied by a count? -/
def waitDone (count : Half) (target : Nat) : Bool := decide ((count - BitVec.ofNat 16 target).toNat < 32768)

/-- The count of an event counter. -/
def Slot.eventCount (x : Slot) (e : Nat) : Half := vecGet x.image.events e 0

/-- A slot whose counters have changed: engines and waiters that have what they waited for go on. -/
def Slot.settleWaits (x : Slot) : Slot :=
  let go (e : Engine) : Engine :=
    match e.waiting with
    | some (n, t) => if waitDone (x.eventCount n) t then { e with waiting := none } else e
    | none => e
  let step (h : Hamper) : Hamper :=
    match h.waiting with
    | some (n, t) => if waitDone (x.eventCount n) t then { h with waiting := none } else h
    | none => h
  let x := { x with image := { x.image with
    engines := x.image.engines.map go
    hampers := x.image.hampers.map step } }
  match x.wait with
  | some (.event e t, _) => if waitDone (x.eventCount e) t then { x with wait := none, yielded := false } else x
  | _ => x

/-- Add 1 to an event counter. -/
def Slot.signal (x : Slot) (e : Nat) : Slot :=
  { x with image := { x.image with events := vecSet x.image.events e (x.eventCount e + 1) } }.settleWaits

/-- Add 1 to an event counter of a slot that may have left its core since. -/
def State.signalAt (s : State) (core i e : Nat) : State :=
  match s.slotAt core i with
  | some x => s.putSlot (x.signal e)
  | none => s

/-! ### Draws (R137) -/

/-- `pseed` for a task. -/
def State.pseed (s : State) (t : Task) : DWord :=
  if s.reproducible t.part then BitVec.ofNat 64 (s.rd64 R.SCH_PART_SEED_LO R.SCH_PART_SEED_HI [t.part])
  else BitVec.ofNat 64 t.startTime

/-- The place of the first element that satisfies a test. -/
def placeIn {α : Type} (p : α → Bool) : List α → Nat
  | [] => 0
  | x :: xs => if p x then 0 else placeIn p xs + 1

/-- The cores of a task: those that it is bound to, else those on which it holds a slot, in logical ID order (R112). -/
def State.coreList (s : State) (t : Task) : List Nat :=
  if t.cores.isEmpty then
    (sortBy (fun c => [c]) ((s.slotsOf t).map (·.core) ++ (s.laybyOf t).map fun l => l.slot.core)).eraseDups
  else t.cores

/-- The seed of an output lane of an engine. -/
def State.engineSeed (s : State) (t : Task) (x : Slot) (engine lane : Nat) : Word :=
  let pos := placeIn (fun c => c == x.core) (s.coreList t)
  laneSeed (s.pseed t) (t.entry.seq ^^^ 0x80000000) (BitVec.ofNat 32 (pos * 64 + engine * 16 + lane))

/-- The seed of a SIMT thread: its global linear index. -/
def State.threadSeed (s : State) (t : Task) (h : Hamper) (lane : Nat) : Word :=
  laneSeed (s.pseed t) t.entry.seq (BitVec.ofNat 32 (h.group * t.launch.groupSize + h.rank * 32 + lane))

/-- The random value of draw `i` under a seed. -/
def r16Of (seed : Word) (i : Nat) : Nat := (laneDraw seed (BitVec.ofNat 32 i)).toNat % 65536

/-- A rounding mode by its code (Table 5.2). -/
def roundingOf (code r16 : Nat) : Rounding :=
  if code = 1 then .rtz else if code = 2 then .rdn else if code = 3 then .rup else if code = 4 then .sr r16 else .rne

end Sys2Proof.Machine
end

