-- ==== Sys2Proof/Machine/Engines.lean ====
section
/-! DEFINITION. The matrix engines (R90–R94, R131–R144, R154–R161, R166): what each command does, and the queues that the
control core writes commands to. -/

namespace Sys2Proof.Machine

/-! ### An engine and its rows -/

/-- An engine of a slot. -/
def Slot.engine (x : Slot) (i : Nat) : Engine := vecGet x.image.engines i Engine.empty

/-- Change an engine of a slot. -/
def Slot.setEngine (x : Slot) (i : Nat) (e : Engine) : Slot :=
  { x with image := { x.image with engines := vecSet x.image.engines i e } }

/-- Bytes that a command moves for its task (R282). -/
def State.movedBy (s : State) (x : Slot) (n : Nat) : State := s.account (x.qid / 256) 1 n

/-- R90: are rows inside the slot's share of the accumulator memory (units of 128 rows)? Row numbers of a command count from
the share's first row (DESIGN CHOICE, log 20: the spec does not say from where). -/
def State.rowsHeld (s : State) (x : Slot) (row n : Nat) : Bool :=
  decide (row + n ≤ 128 * (s.share x.core x.idx).accUnits)

/-- A row of the accumulator memory. -/
def Engine.row (e : Engine) (r : Nat) : List Word :=
  match e.acc.find? fun a => a.1 == r with
  | some a => a.2
  | none => List.replicate 16 0

/-- Change a row: every entry of it is written whole, which ends an error in it (R431). -/
def Engine.setRow (e : Engine) (r : Nat) (v : List Word) : Engine :=
  { e with acc := upsert (fun a => a.1 == r) (r, v) e.acc, bad := e.bad.filter (· != r) }

/-- R431: rows that a command reads; one in error ends the task with 0x11. -/
def Engine.reads (e : Engine) (row n : Nat) : Try Unit :=
  if e.bad.any fun r => decide (row ≤ r) && decide (r < row + n) then .error (0x11, none) else .ok ()

/-- Two accumulator entries added, as FP32 or as INT32 (R131). -/
def accAdd (fp : Bool) (a b : Word) : Word := if fp then fadd a b else a + b

/-- Two rows added. -/
def rowAdd (fp : Bool) (a b : List Word) : List Word := (a.zip b).map fun p => accAdd fp p.1 p.2

/-- 32-bit words of a byte string. -/
def wordsOf (n : Nat) (bs : List Byte) : List Word := (rangeFrom 0 n).map fun i => BitVec.ofNat 32 (leAt bs (4 * i) 4)

/-! ### Weight tiles (R92, R138–R141) -/

/-- The exact FP32 code of a BF16 code. -/
def bf16Word (code : Nat) : Word := BitVec.ofNat 32 (code % 65536 * 65536)

/-- An element of a codebook or of plain weights, as an exact value and as an integer. -/
inductive ElemKind where
  | int (bits : Nat)
  | flt (f : Fmt)
  deriving DecidableEq, Repr

/-- The weight of a code: an integer, or the FP32 code of its exact value. -/
def ElemKind.weight (k : ElemKind) (fp : Bool) (code : Nat) : Word :=
  match k with
  | .int n => if fp then fp32OfInt (signedOf n code) else BitVec.ofInt 32 (signedOf n code)
  | .flt f => toFp32 (f.decode code)

/-- Codebook formats: bits of a code, and the type of entries. -/
def cbOf : WFmt → Option (Nat × ElemKind)
  | .cb8Int8 => some (8, .int 8) | .cb8E4m3 => some (8, .flt e4m3) | .cb8E5m2 => some (8, .flt e5m2)
  | .cb4Int8 => some (4, .int 8) | .cb4E4m3 => some (4, .flt e4m3) | .cb4E5m2 => some (4, .flt e5m2)
  | .int8 => none | .e4m3 => none | .e5m2 => none | .bf16 => none | .fp16 => none | .int4 => none

/-- Plain formats: bits of an element, type, reduction elements of a tile (16, or 32 for 4-bit weights), activation class
(Table 4.1). -/
def plainOf : WFmt → Nat × ElemKind × Nat × Nat
  | .int8 => (8, .int 8, 16, 0) | .e4m3 => (8, .flt e4m3, 16, 1) | .e5m2 => (8, .flt e5m2, 16, 1)
  | .bf16 => (16, .flt bf16, 16, 2) | .fp16 => (16, .flt fp16, 16, 3) | .int4 => (4, .int 4, 32, 0)
  | .cb8Int8 => (8, .int 8, 16, 0) | .cb8E4m3 => (8, .flt e4m3, 16, 1) | .cb8E5m2 => (8, .flt e5m2, 16, 1)
  | .cb4Int8 => (4, .int 8, 32, 0) | .cb4E4m3 => (4, .flt e4m3, 32, 1) | .cb4E5m2 => (4, .flt e5m2, 32, 1)

/-- Element `i` of packed elements of 4, 8 or 16 bits (R130). -/
def elemAt (bs : List Byte) (bits i : Nat) : Nat :=
  if bits = 4 then leAt bs (i / 2) 1 / 16 ^ (i % 2) % 16 else leAt bs (i * (bits / 8)) (bits / 8)

/-- Is an element type floating point? -/
def ElemKind.isFp : ElemKind → Bool
  | .int _ => false
  | .flt _ => true

/-- Bytes of a weight tile of a plain format: 16 channels of `depth` elements. -/
def plainBytes (fmt : WFmt) : Nat := match plainOf fmt with | (nb, _, depth, _) => 2 * depth * nb

/-- A tile of a plain format. -/
def plainTile (fmt : WFmt) (bs : List Byte) : Tile :=
  let (nb, k, depth, act) := plainOf fmt
  { act := act, depth := depth, fp := k.isFp, plain := !(fmt == .int4),
    weights := (rangeFrom 0 (16 * depth)).map fun i => k.weight k.isFp (elemAt bs nb i) }

/-- The code of weight `i` of a channel's group in a slab (Table 5.4). -/
def slabCode (bs : List Byte) (nb c i : Nat) : Nat :=
  let per := 128 / nb
  elemAt (sliceBytes bs (0x80 + (i / per * 16 + c) * 16) 16) nb (i % per)

/-- Escapes among the first `n` weights of a group. -/
def escapesIn (bs : List Byte) (nb c n : Nat) : Nat :=
  ((rangeFrom 0 n).filter fun i => slabCode bs nb c i == 2 ^ nb - 1).length

/-- Side entries of a group. -/
def sideCount (bs : List Byte) (c : Nat) : Nat := leAt bs (0x20 + c) 1 % 4

/-- R141: the check of a slab; 0x16 comes before 0x10 (R152). -/
def slabCheck (bs : List Byte) (nb real : Nat) (esc : Bool) : Option Nat :=
  let cs := rangeFrom 0 16
  if cs.any fun c => decide (sideCount bs c < escapesIn bs nb c 128) then some 0x16
  else if cs.any fun c =>
      decide (ceilDiv real 64 < sideCount bs c) || decide (2 < sideCount bs c) || (!esc && sideCount bs c != 0) then some 0x10
  else none

/-- The weight at a place of a slab: a codebook entry, or a side entry for an escape (R140). -/
def State.slabWeight (s : State) (x : Slot) (table : Nat) (bs : List Byte) (nb : Nat) (k : ElemKind) (fp : Bool)
    (c i : Nat) : Try Word :=
  let code := slabCode bs nb c i
  if code = 2 ^ nb - 1 then
    let e := escapesIn bs nb c i
    if sideCount bs c ≤ e then .error (0x16, none) else .ok (bf16Word (leAt bs (0x40 + 4 * c + 2 * e) 2))
  else do
    let entry ← s.readShare x (table + leAt bs (2 * c) 2 * 2 ^ nb + code) 1
    .ok (k.weight fp (ofLe entry))

/-- LDW loads a codebook tile: the whole slab is read, and checked when the tile is its first. -/
def State.codebookTile (s : State) (x : Slot) (cmd : LdwCmd) (nb : Nat) (k : ElemKind) : Try Tile := do
  let (_, _, depth, act) := plainOf cmd.fmt
  let bs ← s.readShare x cmd.addr.toNat (0x80 + 256 * nb)
  match (if cmd.tile.val = 0 then slabCheck bs nb cmd.real.val cmd.esc else none) with
  | some st => .error (st, none)
  | none =>
    let fp := k.isFp || cmd.esc
    let ws ← (rangeFrom 0 (16 * depth)).mapM fun j =>
      s.slabWeight x cmd.table.toNat bs nb k fp (j / depth) (cmd.tile.val * depth + j % depth)
    .ok { act := act, depth := depth, fp := fp, plain := false, weights := ws }

/-- What LDW reads of core memory (R139, R140). -/
def ldwBytes (fmt : WFmt) : Nat := match cbOf fmt with | some (nb, _) => 0x80 + 256 * nb | none => plainBytes fmt

/-- LDW loads the next tile into the idle half of the tile registers (R92). -/
def State.ldw (s : State) (n : Nat) (cmd : LdwCmd) (x : Slot) : Try State := do
  let tile ← match cbOf cmd.fmt with
    | some (nb, k) => s.codebookTile x cmd nb k
    | none => do
      let bs ← s.readShare x cmd.addr.toNat (plainBytes cmd.fmt)
      .ok (plainTile cmd.fmt bs)
  .ok ((s.movedBy x (ldwBytes cmd.fmt)).putSlot (x.setEngine n { x.engine n with idle := some tile }))

/-! ### Activations and products (R131, R132) -/

/-- Bytes of an element. -/
def aSize : AFmt → Nat
  | .int8 => 1 | .e4m3 => 1 | .e5m2 => 1 | .bf16 => 2 | .fp16 => 2

/-- The activation class of Table 4.1. -/
def aCls : AFmt → Nat
  | .int8 => 0 | .e4m3 => 1 | .e5m2 => 1 | .bf16 => 2 | .fp16 => 3

/-- The floating-point format, if it is one. -/
def aFlt : AFmt → Option Fmt
  | .int8 => none | .e4m3 => some e4m3 | .e5m2 => some e5m2 | .bf16 => some bf16 | .fp16 => some fp16

/-- The exact value of an activation code. -/
def aDecode (f : AFmt) (code : Nat) : Fl :=
  match aFlt f with
  | some g => g.decode code
  | none => flOfInt (signedOf 8 code)

/-- Element `i` of a row of activations. -/
def aElem (f : AFmt) (bs : List Byte) (i : Nat) : Nat := leAt bs (i * aSize f) (aSize f)

/-- The exact sum of values; an empty one is +0. -/
def flSum : List Fl → Fl
  | [] => .fin false 0 0
  | x :: xs => xs.foldl Fl.add x

/-- The clocks of one row: the products of one channel, clock by clock, enter its accumulator entry. `none` starts the
entry anew (overwrite). -/
def accumulate (tile : Tile) (f : AFmt) (start : Option Word) : List (List (Nat × Word)) → Option Word
  | [] => start
  | clock :: rest =>
    let v : Word :=
      if tile.fp then
        let sum := flSum (clock.map fun p => (aDecode f p.1).mul (flOf p.2))
        match start with
        | some a => toFp32 ((flOf a).add sum)
        | none => toFp32 sum
      else
        let sum := (clock.map fun p => BitVec.ofInt 32 (signedOf 8 p.1) * p.2).foldl (· + ·) 0
        start.getD 0 + sum
    accumulate tile f (some v) rest

/-- Cut a list into pieces. -/
def chunks {α : Type} (n : Nat) : Nat → List α → List (List α)
  | 0, _ => []
  | fuel + 1, xs => if xs.isEmpty || n == 0 then [] else xs.take n :: chunks n fuel (xs.drop n)

/-- How a tile meets the 16 or more activations of one position. -/
inductive Mapping where
  /-- Every reduction element, `perClock` at a time. -/
  | full (perClock : Nat)
  /-- R157: diagonal blocks of cpg × cpg; 1 is DWC. -/
  | blocks (cpg : Nat)
  deriving DecidableEq, Repr

/-- The products of channel `c`, by clock: activation codes and weights. -/
def Mapping.products (m : Mapping) (tile : Tile) (acts : List Nat) (c : Nat) : List (List (Nat × Word)) :=
  let w (k : Nat) : Word := tile.weights.getD (c * tile.depth + k) 0
  match m with
  | .full perClock =>
    chunks perClock tile.depth ((rangeFrom 0 tile.depth).map fun k => (acts.getD k 0, w k))
  | .blocks cpg => [(rangeFrom (c / cpg * cpg) cpg).map fun ch => (acts.getD ch 0, w (ch % tile.depth))]

/-- Reduction elements that a tile takes per clock (Table 4.1). -/
def Tile.perClock (t : Tile) : Nat := if 2 ≤ t.act then 8 else t.depth

/-- One row of activations through a tile into an accumulator row. -/
def Engine.feed (e : Engine) (m : Mapping) (f : AFmt) (row : Nat) (overwrite : Bool) (acts : List Nat) : Engine :=
  let old := e.row row
  let new := (rangeFrom 0 16).map fun c =>
    (accumulate e.current f (if overwrite then none else some (old.getD c 0)) (m.products e.current acts c)).getD 0
  e.setRow row new

/-- Rows of activations, one after another, into rising accumulator rows. -/
def Engine.feedRows (e : Engine) (m : Mapping) (f : AFmt) (row : Nat) (overwrite : Bool) : List (List Nat) → Engine
  | [] => e
  | a :: as => (e.feed m f row overwrite a).feedRows m f (row + 1) overwrite as

/-- A command that streams activations takes the tile that LDW has loaded. -/
def Engine.swapTile (e : Engine) : Engine :=
  match e.idle with
  | some t => { e with current := t, idle := none }
  | none => e

/-- R93: the rows that a command with a stream tag takes: those that another engine has read under the tag, which this
engine has not yet taken, else its own, which then are the stream's (log 20). The answer has the slot, the rows and whether
they were read for this command. -/
def Slot.streamRows (x : Slot) (n : Nat) (bcast : Option Byte) (count : Nat) (own : Try (List (List Nat))) :
    Try (Slot × List (List Nat) × Bool) :=
  let keep (t : ActStream) : Slot := { x with image := { x.image with streams := upsert (fun u => u.tag == t.tag) t x.image.streams } }
  match bcast with
  | none => do
    let rows ← own
    .ok (x, rows, true)
  | some tag =>
    match x.image.streams.find? fun t => t.tag == tag && !t.taken.contains n && t.rows.length == count with
    | some t => .ok (keep { t with taken := n :: t.taken }, t.rows, false)
    | none => do
      let rows ← own
      .ok (keep { tag := tag, rows := rows, taken := [n] }, rows, true)

/-- MMA, CONV and DWC: activation rows stream through the current tile into accumulator rows (R90, R91, R93). `refused` is
a form that the command does not accept; `width` are the elements of an activation row, `own` reads the rows. -/
def State.stream (s : State) (n : Nat) (x : Slot) (f : AFmt) (bcast : Option Byte) (accRow count : Nat) (overwrite : Bool)
    (refused : Tile → Bool) (mapping : Tile → Mapping) (width : Tile → Nat) (own : Nat → Try (List (List Nat))) : Try State :=
  let e := (x.engine n).swapTile
  let tile := e.current
  if !s.rowsHeld x accRow count then .error (0x13, none)
  else if tile.act != aCls f || refused tile then .error (0x10, none)
  else do
    e.reads accRow (if overwrite then 0 else count)
    let (x, rows, read) ← x.streamRows n bcast count (own (width tile))
    let e := e.feedRows (mapping tile) f accRow overwrite rows
    .ok ((s.movedBy x (if read then count * width tile * aSize f else 0)).putSlot (x.setEngine n e))

/-- The activation rows of an MMA. -/
def State.mmaRows (s : State) (x : Slot) (cmd : MmaCmd) (width : Nat) : Try (List (List Nat)) :=
  (rangeFrom 0 cmd.rows.toNat).mapM fun r => do
    let bs ← s.readShare x (cmd.addr.toNat + r * cmd.pitch.toNat) (width * aSize cmd.afmt)
    .ok ((rangeFrom 0 width).map (aElem cmd.afmt bs))

/-- MMA. -/
def State.mma (s : State) (n : Nat) (cmd : MmaCmd) (x : Slot) : Try State :=
  s.stream n x cmd.afmt cmd.bcast cmd.accRow.toNat cmd.rows.toNat cmd.overwrite (fun _ => false) (fun t => .full t.perClock)
    (·.depth) (s.mmaRows x cmd)

/-- A filter row or column of a tap: its band of 7 and its place in the band (R159). -/
def tapPlace (pass : Fin 5) (tap : Fin 7) : Nat := 7 * pass.val + tap.val

/-- The activations of output pixel `p` at one tap: `n` channels from the command's block (R154); a position outside the
tensor takes the zero point's code (R133). -/
def State.convInput (s : State) (x : Slot) (cmd : ConvCmd) (n p : Nat) : Try (List Nat) :=
  let cb := if cmd.cb32 then 32 else 16
  let h := cmd.height.toNat
  let w := cmd.width.toNat
  let dil := cmd.dilation.val + 1
  let ih : Int := (p / cmd.outWidth.toNat : Nat) * (cmd.stride.val + 1) + tapPlace cmd.passRow cmd.tapRow * dil
    - cmd.padTop.toNat
  let iw : Int := (p % cmd.outWidth.toNat : Nat) * (cmd.stride.val + 1) + tapPlace cmd.passCol cmd.tapCol * dil
    - cmd.padLeft.toNat
  if ih < 0 ∨ (h : Int) ≤ ih ∨ iw < 0 ∨ (w : Int) ≤ iw then .ok (List.replicate n cmd.zeroCode.toNat)
  else do
    let parts ← (rangeFrom 0 (ceilDiv n cb)).mapM fun b => do
      let bs ← s.readShare x
        (cmd.addr.toNat + (((cmd.block.toNat + b) * h + ih.toNat) * w + iw.toNat) * cb * aSize cmd.afmt)
        (min n cb * aSize cmd.afmt)
      .ok ((rangeFrom 0 (min n cb)).map (aElem cmd.afmt bs))
    .ok (parts.flatten.take n)

/-- CONV and DWC share all but the mapping and the forms that they refuse. -/
def State.convolve (s : State) (n : Nat) (cmd : ConvCmd) (x : Slot) (refused : Tile → Bool) (mapping : Tile → Mapping)
    (width : Tile → Nat) : Try State :=
  s.stream n x cmd.afmt cmd.bcast cmd.accRow.toNat cmd.rows.toNat cmd.overwrite refused mapping width fun w =>
    (rangeFrom cmd.first.toNat cmd.rows.toNat).mapM (s.convInput x cmd w)

/-- CONV (R133, R156–R159). A tile of 32 reduction elements takes a CB16 input 16 elements a clock. -/
def State.conv (s : State) (n : Nat) (cmd : ConvCmd) (x : Slot) : Try State :=
  let block := cmd.blkdiag.val != 0 && cmd.blkdiag.val != 4
  s.convolve n cmd x (fun t => cmd.blkdiag.val != 0 && !t.plain)
    (fun t => if block then .blocks (2 ^ cmd.blkdiag.val) else .full (if cmd.cb32 then t.perClock else min t.perClock 16))
    (fun t => if block then 16 else t.depth)

/-- DWC (R156–R158): 16 channels on the diagonal. -/
def State.dwc (s : State) (n : Nat) (cmd : ConvCmd) (x : Slot) : Try State :=
  s.convolve n cmd x (fun t => cmd.cb32 || !t.plain) (fun _ => .blocks 1) (fun _ => 16)

/-! ### Accumulator rows -/

/-- ACC (R90, R160): zero rows, or add a vector, spilled rows or another row range. -/
def State.accRows (s : State) (i : Nat) (row : BitVec 10) (rows : BitVec 11) (fp : Bool) (op : AccOp) (x : Slot) : Try State :=
  let e := x.engine i
  let n := rows.toNat
  if !s.rowsHeld x row.toNat n then .error (0x13, none)
  else do
    e.reads row.toNat (match op with | .zero => 0 | _ => n)
    let e ← match op with
      | .zero => .ok ((rangeFrom row.toNat n).foldl (fun (e : Engine) r => e.setRow r (List.replicate 16 0)) e)
      | .addVector addr => do
        let bs ← s.readShare x addr.toNat 64
        .ok ((rangeFrom row.toNat n).foldl (fun (e : Engine) r => e.setRow r (rowAdd fp (e.row r) (wordsOf 16 bs))) e)
      | .addMemory addr => do
        let bs ← s.readShare x addr.toNat (64 * n)
        .ok ((rangeFrom 0 n).foldl (fun (e : Engine) r =>
          e.setRow (row.toNat + r) (rowAdd fp (e.row (row.toNat + r)) (wordsOf 16 (sliceBytes bs (64 * r) 64)))) e)
      | .addRows src =>
        if !s.rowsHeld x src.toNat n then .error (0x13, none)
        else do
          e.reads src.toNat n
          .ok ((rangeFrom 0 n).foldl (fun (e : Engine) r =>
            e.setRow (row.toNat + r) (rowAdd fp (e.row (row.toNat + r)) (e.row (src.toNat + r)))) e)
    let bytes := match op with
      | .zero => 0
      | .addVector _ => 64
      | .addMemory _ => 64 * n
      | .addRows _ => 0
    .ok ((s.movedBy x bytes).putSlot (x.setEngine i e))

/-- GAP (R166): rows are added in ascending order into one running row. -/
def State.gap (s : State) (i : Nat) (row : BitVec 10) (rows : BitVec 11) (into : BitVec 10) (fp : Bool) (x : Slot) : Try State :=
  if !s.rowsHeld x row.toNat rows.toNat || !s.rowsHeld x into.toNat 1 then .error (0x13, none)
  else do
    (x.engine i).reads row.toNat rows.toNat
    (x.engine i).reads into.toNat 1
    let e := (rangeFrom row.toNat rows.toNat).foldl (fun (e : Engine) r =>
      e.setRow into.toNat (rowAdd fp (e.row into.toNat) (e.row r))) (x.engine i)
    .ok (s.putSlot (x.setEngine i e))

/-! ### Requantisation (R142–R144) -/

/-- A value that RQ has converted: its code, whether the range altered it, and whether it counts as underflow. -/
structure RqValue where
  code : Nat
  saturated : Bool
  underflow : Bool
  /-- max-abs takes the magnitude of this value. -/
  v : Word
  deriving DecidableEq, Repr

/-- Convert to a stored format, saturating (R135): code, and whether the range altered the value. -/
def aConvert (f : AFmt) (mode : Rounding) (v : Fl) : Nat × Bool :=
  match aFlt f with
  | some g => (g.encode mode true v, g.alters mode true v)
  | none => (twosNat 8 (intOfFl mode (-128) 127 v), intAlters mode (-128) 127 v)

/-- Table 5.6, INT mode: `free` is the result for a channel whose lo is above its hi. -/
def rqInt (par : List Byte) (acc : Word) (scale : Word) (free : Byte) : RqValue :=
  let sh := leAt par 4 1 % 64
  let t : Int := (acc.toInt * (leAt par 0 4 : Nat) + (if sh = 0 then 0 else 2 ^ (sh - 1))) / 2 ^ sh
  let zp := signedOf 8 (leAt par 5 1)
  let lo := signedOf 8 (leAt par 6 1)
  let hi := signedOf 8 (leAt par 7 1)
  let y := clampInt (-128) 127 (t + zp)
  let z := if hi < lo then free.toInt else clampInt lo hi y
  { code := twosNat 8 z, saturated := y != t + zp, underflow := acc != 0 && z == zp,
    v := toFp32 ((flOfInt t).mul (flOf scale)) }

/-- R143: the clamp of a code to lo′–hi′. -/
def rqClamp (f : AFmt) (lo hi : Word) (code : Nat) : Nat :=
  let lo' := (aConvert f .rup (flOf lo)).1
  let hi' := (aConvert f .rdn (flOf hi)).1
  let y := aDecode f code
  if y.isNan then code
  else if (aDecode f hi').lt (aDecode f lo') || y.lt (aDecode f lo') then lo'
  else if (aDecode f hi').lt y then hi'
  else code

/-- R143, FP mode, with r = RNE(1 / s). -/
def rqFp (cmd : RqCmd) (par : List Byte) (acc : Word) (r : Word) (mode : Rounding) : RqValue :=
  let a : Fl := if cmd.accInt then flOfInt acc.toInt else flOf acc
  let v := toFp32 (a.mul (flOf (BitVec.ofNat 32 (leAt par 0 4))))
  let off := bf16Word (leAt par 4 2)
  let p := fadd (fmul v r) off
  let (code, altered) := aConvert cmd.target mode (flOf p)
  let code := rqClamp cmd.target cmd.lo cmd.hi code
  let y := aDecode cmd.target code
  let under := if cmd.target = .int8 then y.eq (flOf off) else y.isZero
  { code := code, saturated := altered || !(flOf v).isFinite || !a.isFinite, underflow := !a.isZero && under, v := v }

/-- R144: what RQ adds to the statistics of a working record (Table 5.7). -/
def rqStats (rec : List Byte) (vs : List RqValue) : List Byte :=
  let amax := vs.foldl (fun m v => if (flOf v.v).isFinite && (flOf m).lt (flOf (fabs v.v)) then fabs v.v else m)
    (BitVec.ofNat 32 (leAt rec 0x50 4))
  let sat := min (2 ^ 32 - 1) (leAt rec 0x54 4 + (vs.filter (·.saturated)).length)
  let und := min (2 ^ 32 - 1) (leAt rec 0x58 4 + (vs.filter (·.underflow)).length)
  rec.take 0x50 ++ leBytes 4 amax.toNat ++ leBytes 4 sat ++ leBytes 4 und ++ sliceBytes rec 0x5C 4
    ++ leBytes 8 (leAt rec 0x60 8 + vs.length) ++ rec.drop 0x68

/-- R143: is a command rejected? -/
def rqRejected (cmd : RqCmd) : Bool :=
  !cmd.intMode && ((flOf cmd.lo).isNan || (flOf cmd.hi).isNan || (flOf cmd.hi).lt (flOf cmd.lo))

/-- Write rows of codes. -/
def State.storeRows (s : State) (x : Slot) (dst pitch : Nat) : List (List Byte) → Try State
  | [] => .ok s
  | row :: rest => do
    let s ← s.writeShare x dst row
    s.storeRows x (dst + pitch) pitch rest

/-- The lanes of the channel range of an RQ command (R161). -/
def rqRange (cmd : RqCmd) : List Nat := (rangeFrom cmd.lane.val cmd.lanes.val).filter (· < 16)

/-- RQ bypassed (R160, R166): the entries of the range go to core memory as they are. -/
def State.rqBypass (s : State) (n : Nat) (cmd : RqCmd) (x : Slot) : Try State := do
  let e := x.engine n
  let rows := (rangeFrom cmd.accRow.toNat cmd.rows.toNat).map fun r =>
    ((rqRange cmd).map fun l => leBytes 4 ((e.row r).getD l 0).toNat).flatten
  let t ← s.storeRows x cmd.dst.toNat cmd.pitch.toNat rows
  .ok (t.movedBy x (4 * cmd.rows.toNat * (rqRange cmd).length))

/-- RQ converts (R142–R144): the range's channels to their destination, counted in their record (R161). -/
def State.rqConvert (s : State) (n : Nat) (cmd : RqCmd) (x : Slot) : Try State := do
  let e := x.engine n
  let count := cmd.rows.toNat
  let lanes := rqRange cmd
  let pars ← s.readShare x cmd.params.toNat (8 * lanes.length)
  let rec_ ← match cmd.record with
    | some (off, _) => s.readShare x off.toNat 128
    | none => .ok (zeros 128)
  let inForce : Word := BitVec.ofNat 32 (leAt rec_ 0x40 4)
  let dynamic := match cmd.record with | some (_, d) => d | none => false
  let r := frcp (if dynamic then inForce else 0x3F800000)
  let size := if cmd.intMode then 1 else aSize cmd.target
  let drawing := !cmd.intMode && cmd.rounding.val == 4
  let value (row lane : Nat) : RqValue :=
    let par := sliceBytes pars (8 * (lane - cmd.lane.val)) 8
    let acc := (e.row (cmd.accRow.toNat + row)).getD lane 0
    if cmd.intMode then rqInt par acc inForce (Config.freeBits 8 (s.free + 16 * row + lane))
    else
      let seed := match s.slotTask x with
        | some t => s.engineSeed t x n lane
        | none => 0
      rqFp cmd par acc r (roundingOf cmd.rounding.val (r16Of seed (vecGet e.draws lane 0 + row)))
  let rows := (rangeFrom 0 count).map fun row => lanes.map (value row)
  let t ← s.storeRows x cmd.dst.toNat cmd.pitch.toNat (rows.map fun row => (row.map fun v => leBytes size v.code).flatten)
  let t ← match cmd.record with
    | some (off, _) => t.writeShare x off.toNat (rqStats rec_ rows.flatten)
    | none => .ok t
  let draws := if drawing then lanes.foldl (fun d l => vecSet d l (vecGet d l 0 + count)) e.draws else e.draws
  .ok (((t.withFree (s.free + 16 * count)).movedBy x (8 * lanes.length + count * lanes.length * size)).putSlot
    (x.setEngine n { e with draws := draws }))

/-- RQ. -/
def State.rq (s : State) (n : Nat) (cmd : RqCmd) (x : Slot) : Try State :=
  if !s.rowsHeld x cmd.accRow.toNat cmd.rows.toNat then .error (0x13, none)
  else if !cmd.bypass && rqRejected cmd then .error (0x10, none)
  else do
    (x.engine n).reads cmd.accRow.toNat cmd.rows.toNat
    if cmd.bypass then s.rqBypass n cmd x else s.rqConvert n cmd x

/-! ### The queues (R94) -/

/-- What an engine does at a command: the state after it, or the end of the task. -/
def State.engineDo (s : State) (n : Nat) (c : EngineCmd) (x : Slot) : Try State :=
  match c with
  | .ldw cmd => s.ldw n cmd x
  | .mma cmd => s.mma n cmd x
  | .conv cmd => s.conv n cmd x
  | .dwc cmd => s.dwc n cmd x
  | .acc row rows fp op => s.accRows n row rows fp op x
  | .gap row rows into fp => s.gap n row rows into fp x
  | .rq cmd => s.rq n cmd x
  | .sig event => .ok (s.putSlot (x.signal event.val))
  | .waite event target =>
    .ok (s.putSlot (x.setEngine n { x.engine n with waiting := some (event.val, target.toNat) }).settleWaits)

/-- May an engine execute its next command? -/
def Engine.free (e : Engine) : Bool := e.waiting.isNone && e.queue.isEmpty

/-- Commands of a slot that wait in its engines' queues. -/
def Slot.backlog (x : Slot) : Nat := (x.image.engines.toList.map fun e => e.queue.length).sum

/-- The engine, lowest first, that no longer waits and has a command queued. -/
def Slot.readyEngine (x : Slot) : Option Nat :=
  (rangeFrom 0 4).find? fun n => (x.engine n).waiting.isNone && !(x.engine n).queue.isEmpty

/-- A command leaves the queue of an engine; a write that the full queue has stalled goes in (R94). -/
def Slot.popCommand (x : Slot) (n : Nat) : Slot :=
  let e := x.engine n
  let rest := e.queue.drop 1
  match x.wait with
  | some (.engine m c, _) =>
    if m = n then { x.setEngine n { e with queue := rest ++ [c] } with wait := none } else x.setEngine n { e with queue := rest }
  | _ => x.setEngine n { e with queue := rest }

/-- Engines of the running slot go through their queues, each until it waits at WAITE or its queue is empty; commands of
different engines are not ordered (R94), and the lowest engine goes first (log 20). -/
def State.runQueues (s : State) (core i : Nat) : Nat → State
  | 0 => s
  | fuel + 1 =>
    match s.runningSlot core i with
    | none => s
    | some x =>
      match x.readyEngine with
      | none => s
      | some n =>
        match (x.engine n).queue with
        | [] => s
        | c :: _ =>
          let y := x.popCommand n
          let s := s.putSlot y
          (s.orEnd y (s.engineDo n c y)).runQueues core i fuel

/-- Queued commands that may run do. -/
def State.drainEngines (s : State) (core i : Nat) : State :=
  match s.slotAt core i with
  | some x => if x.backlog = 0 then s else s.runQueues core i (x.backlog + 1)
  | none => s

/-- Is the control core of a slot stalled at a full queue? -/
def Slot.stalled (x : Slot) : Bool :=
  match x.wait with
  | some (.engine _ _, _) => true
  | some (.boxFull _, _) => true
  | _ => false

/-- Is the control core of a slot stalled, there or by the submission of a pass (R191) or of a chain (R211)? -/
def State.stalls (s : State) (x : Slot) : Bool :=
  x.stalled || (s.vis.waiting.any fun w => w.site == some (x.core, x.idx) && w.qid == x.qid && w.seq == x.seq)
    || s.passes.any fun p => p.phase == .stalled && p.site == (x.core, x.idx) && p.qid == x.qid && p.seq == x.seq

/-- The control core writes a command to an engine (R94): it is executed where the engine is free, else it joins the queue of
32, and a full queue stalls the control core. -/
def State.issue (s : State) (n : EngineName) (c : EngineCmd) : State :=
  match s.slotNamed n.slot with
  | none => s
  | some x =>
    let i := n.engine.val
    let e := x.engine i
    if s.stalls x then s
    else if e.free then (s.orEnd x (s.engineDo i c x)).drainEngines x.core x.idx
    else if e.queue.length < 32 then
      (s.putSlot (x.setEngine i { e with queue := e.queue ++ [c] })).drainEngines x.core x.idx
    else s.putSlot { x with wait := some (.engine i c, s.now) }

/-- ENGINE_LDW (R92, R139–R141). -/
def execEngineLdw (at_ : EngineName) (cmd : LdwCmd) (s : State) : Host.Outcome State Fault Refusal :=
  s.live fun s => s.issue at_ (.ldw cmd)

/-- ENGINE_MMA (R90, R91). -/
def execEngineMma (at_ : EngineName) (cmd : MmaCmd) (s : State) : Host.Outcome State Fault Refusal :=
  s.live fun s => s.issue at_ (.mma cmd)

/-- ENGINE_CONV (R93, R133, R156–R159). -/
def execEngineConv (at_ : EngineName) (cmd : ConvCmd) (s : State) : Host.Outcome State Fault Refusal :=
  s.live fun s => s.issue at_ (.conv cmd)

/-- ENGINE_DWC (R156–R158). -/
def execEngineDwc (at_ : EngineName) (cmd : ConvCmd) (s : State) : Host.Outcome State Fault Refusal :=
  s.live fun s => s.issue at_ (.dwc cmd)

/-- ENGINE_ACC (R90, R160). -/
def execEngineAcc (at_ : EngineName) (row : BitVec 10) (rows : BitVec 11) (fp : Bool) (op : AccOp) (s : State) :
    Host.Outcome State Fault Refusal :=
  s.live fun s => s.issue at_ (.acc row rows fp op)

/-- ENGINE_GAP (R166). -/
def execEngineGap (at_ : EngineName) (row : BitVec 10) (rows : BitVec 11) (into : BitVec 10) (fp : Bool) (s : State) :
    Host.Outcome State Fault Refusal :=
  s.live fun s => s.issue at_ (.gap row rows into fp)

/-- ENGINE_RQ (R142–R144, R160, R161). -/
def execEngineRq (at_ : EngineName) (cmd : RqCmd) (s : State) : Host.Outcome State Fault Refusal :=
  s.live fun s => s.issue at_ (.rq cmd)

/-- ENGINE_SIG (R94): 1 is added to an event counter of the slot. -/
def execEngineSig (at_ : EngineName) (event : Fin 32) (s : State) : Host.Outcome State Fault Refusal :=
  s.live fun s => s.issue at_ (.sig event)

/-- ENGINE_WAITE (R94): the engine waits until an event counter reaches a target. -/
def execEngineWaite (at_ : EngineName) (event : Fin 32) (target : BitVec 16) (s : State) :
    Host.Outcome State Fault Refusal :=
  s.live fun s => s.issue at_ (.waite event target)

end Sys2Proof.Machine
end

