-- ==== Sys2Proof/Machine/Transcendental.lean ====
section
/-! DEFINITION. The approximate transcendentals exp2, log2, sin and cos (Table 4.3): a result lies within 2 ulp of the exact
one, and which of those numbers it is, the spec leaves to the stepping: `Config.approx`. Exact results are formed with 512
fraction bits. -/

namespace Sys2Proof.Machine

/-- Fraction bits of the exact results. -/
def fracBits : Nat := 512

/-- ln 2 and 2π, with 512 fraction bits. -/
def ln2Fixed : Nat := 0xb17217f7d1cf79abc9e3b39803f2f6af40f343267298b62d8a0d175b8baafa2be7b876206debac98559552fb4afa1b10ed2eae35c138214427573b291169b825
def tauFixed : Nat := 0x6487ed5110b4611a62633145c06e0e68948127044533e63a0105df531d89cd9128a5043cc71a026ef7ca8cd9e69d218d98158536f92f8a1ba7f09ab6b6a8e122f

/-- exp(z) − 1 for a fixed-point z: the terms from number `k` on. -/
def expTail (z : Nat) : Nat → Nat → Nat → Nat
  | 0, _, _ => 0
  | fuel + 1, k, term => let t := term * z / 2 ^ fracBits / k; t + expTail z fuel (k + 1) t

/-- The terms of sin or cos from the term `term` on, whose next divisor is k (k + 1). -/
def sinTail (sq : Int) : Nat → Nat → Int → Int
  | 0, _, term => term
  | fuel + 1, k, term => term + sinTail sq fuel (k + 2) (-(term * sq / 2 ^ fracBits / (k * (k + 1) : Nat)))

/-- Fraction bits of log2 of a number in [1, 2). -/
def log2Loop : Nat → Nat → Nat → Nat
  | 0, _, acc => acc
  | fuel + 1, y, acc =>
    let q := y * y / 2 ^ fracBits
    if 2 * 2 ^ fracBits ≤ q then log2Loop fuel (q / 2) (2 * acc + 1) else log2Loop fuel q (2 * acc)

/-- A value m × 2^e in fixed point. -/
def toFixed (m : Nat) (e : Int) : Nat :=
  if 0 ≤ e + fracBits then m * 2 ^ (e + fracBits).toNat else m / 2 ^ (-(e + fracBits)).toNat

/-- 2^x for x = ± m × 2^e of moderate size, in fixed point. -/
def exp2Fixed (neg : Bool) (m : Nat) (e : Int) : Int :=
  let x : Int := signedMant neg (toFixed m e)
  let n := x / 2 ^ fracBits
  let f := (x % 2 ^ fracBits).toNat
  let y := 2 ^ fracBits + expTail (f * ln2Fixed / 2 ^ fracBits) 100 1 (2 ^ fracBits)
  if 0 ≤ n then (y * 2 ^ n.toNat : Nat) else (y / 2 ^ (-n).toNat : Nat)

/-- log2 of m × 2^e, in fixed point. -/
def log2Fixed (m : Nat) (e : Int) : Int :=
  let l := m.log2
  (e + l) * 2 ^ fracBits + (log2Loop 128 (m * 2 ^ fracBits / 2 ^ l) 0 * 2 ^ (fracBits - 128) : Nat)

/-- sin of m × 2^e, in fixed point. -/
def sinFixed (m : Nat) (e : Int) : Int :=
  let r : Int := (toFixed m e % tauFixed : Nat)
  sinTail (r * r / 2 ^ fracBits) 100 2 r

/-- cos of m × 2^e, in fixed point. -/
def cosFixed (m : Nat) (e : Int) : Int :=
  let r : Int := (toFixed m e % tauFixed : Nat)
  sinTail (r * r / 2 ^ fracBits) 100 1 (2 ^ fracBits)

/-- exp, rounded RNE (R170): exp(z) = 2^n × exp(z − n ln 2). -/
def fexp (a : Word) : Word :=
  match flOf a with
  | .nan => toFp32 .nan
  | .inf neg => if neg then 0 else toFp32 (.inf false)
  | .fin neg m e =>
    if m = 0 then 0x3F800000
    else if 200 * 2 ^ fracBits < toFixed m e then (if neg then 0 else toFp32 (.inf false))
    else
      let z : Int := signedMant neg (toFixed m e)
      let n := z / ln2Fixed
      let f := (z % ln2Fixed).toNat
      let y := 2 ^ fracBits + expTail f 100 1 (2 ^ fracBits)
      if 0 ≤ n then fp32OfRat false (y * 2 ^ n.toNat) (2 ^ fracBits) else fp32OfRat false y (2 ^ (fracBits + (-n).toNat))

/-- A finite FP32 code in fixed point, signed. -/
def fixedOf (w : Word) : Int :=
  match flOf w with
  | .fin neg m e => signedMant neg (toFixed m e)
  | _ => 0

/-- The code that lies `k` places above another, in the order of values. -/
def codeStep (w : Word) (k : Int) : Word :=
  let i : Int := if w.toNat < 2 ^ 31 then (w.toNat : Int) else -((w.toNat - 2 ^ 31 : Nat) : Int)
  let j := clampInt (-0x7F800000) 0x7F800000 (i + k)
  if 0 ≤ j then BitVec.ofInt 32 j else BitVec.ofInt 32 (2 ^ 31 - j)

/-- The FP32 numbers within 2 ulp of an exact value, and the nearest one first. -/
def withinTwoUlp (y : Int) : List Word :=
  let c := fp32OfRat (decide (y < 0)) y.natAbs (2 ^ fracBits)
  let ulp : Int := max (ratLog2 y.natAbs (2 ^ fracBits)) (-126) - 23
  c :: ((([-4, -3, -2, -1, 1, 2, 3, 4] : List Int).map (codeStep c)).filter fun w =>
    (flOf w).isFinite && decide ((fixedOf w - y).natAbs ≤ 2 * 2 ^ (ulp + fracBits).toNat))

/-- The result of operation `op` on `a`: one of the numbers allowed, fixed by the stepping. -/
def approximate (op : Nat) (a : Word) (y : Int) : Word :=
  let cs := withinTwoUlp y
  cs.getD (Config.approx op a % cs.length) 0

/-- exp2; special operands, and 0, have the IEEE 754 result (R129). -/
def fexp2 (a : Word) : Word :=
  match flOf a with
  | .nan => toFp32 .nan
  | .inf neg => if neg then 0 else toFp32 (.inf false)
  | .fin neg m e =>
    if m = 0 then 0x3F800000
    else if 160 * 2 ^ fracBits < toFixed m e then (if neg then 0 else toFp32 (.inf false))
    else approximate 0 a (exp2Fixed neg m e)

/-- log2. -/
def flog2 (a : Word) : Word :=
  match flOf a with
  | .nan => toFp32 .nan
  | .inf neg => if neg then toFp32 .nan else toFp32 (.inf false)
  | .fin neg m e =>
    if m = 0 then toFp32 (.inf true)
    else if neg then toFp32 .nan
    else if log2Fixed m e = 0 then 0
    else approximate 1 a (log2Fixed m e)

/-- sin, of radians. -/
def fsin (a : Word) : Word :=
  match flOf a with
  | .fin neg m e =>
    if m = 0 then a else approximate 2 a (if neg then -(sinFixed m e) else sinFixed m e)
  | _ => toFp32 .nan

/-- cos. -/
def fcos (a : Word) : Word :=
  match flOf a with
  | .fin _ m e => if m = 0 then 0x3F800000 else approximate 3 a (cosFixed m e)
  | _ => toFp32 .nan

end Sys2Proof.Machine
end

