-- ==== Sys2Proof/Machine/Simt.lean ====
section
/-! DEFINITION. The SIMT unit (R95–R98, R119, R129–R137, R187). A command is one instruction of one hamper; its active
threads execute it. -/

namespace Sys2Proof.Machine

/-! ### Threads -/

/-- A thread register of a slot. -/
def Slot.reg (x : Slot) (h lane r : Nat) : Word := (cfgGet x.image.regs ((h * 32 + lane) * 64 + r)).getD 0

/-- Set a thread register, which ends an error in it (R431). -/
def Slot.setReg (x : Slot) (h lane r : Nat) (v : Word) : Slot :=
  let key := (h * 32 + lane) * 64 + r
  { x with image := { x.image with regs := cfgSet x.image.regs key v, badRegs := x.image.badRegs.filter (· != key) } }

/-- The active threads of a hamper, as lanes. -/
def Hamper.lanes (h : Hamper) : List Nat := (rangeFrom 0 32).filter (natBit h.active.toNat)

/-- The mask of lanes. -/
def maskOf (lanes : List Nat) : Word := BitVec.ofNat 32 (lanes.map (2 ^ ·)).sum

/-- Does a hamper wait, for an event counter or at a barrier of its group? -/
def Slot.hamperWaits (x : Slot) (h : Hamper) : Bool :=
  h.waiting.isSome || x.image.barriers.any fun b =>
    b.group == h.group && h.lanes.any fun l => b.arrived.contains (h.rank * 32 + l)

/-- Change a hamper. -/
def Slot.setHamper (x : Slot) (h : Hamper) : Slot :=
  { x with image := { x.image with hampers := x.image.hampers.map fun g => if g.ident == h.ident then h else g } }

/-- A hamper of a running slot that may execute an instruction: its effect, or the end of the task. -/
def State.onHamper (s : State) (n : HamperName) (f : Slot → Hamper → Try State) : State :=
  match s.slotNamed n.slot with
  | none => s
  | some x =>
    match x.image.hampers.find? fun h => h.ident == n.hamper.val with
    | some h => if x.hamperWaits h then s else s.orEnd x (f x h)
    | none => s

/-- R431: are registers of the active threads free of errors? -/
def Slot.regsSound (x : Slot) (h : Hamper) (rs : List Nat) : Bool :=
  h.lanes.all fun l => rs.all fun r => !x.image.badRegs.contains ((h.ident * 32 + l) * 64 + r)

/-- A hamper whose instruction reads registers: one in error ends the task with 0x11 (R431). -/
def State.onReading (s : State) (n : HamperName) (rs : List Nat) (f : Slot → Hamper → Try State) : State :=
  s.onHamper n fun x h => if x.regsSound h rs then f x h else .error (0x11, none)

/-- Every active thread writes a register. -/
def Slot.lanewise (x : Slot) (h : Hamper) (rd : Nat) (f : Nat → Word) : Slot :=
  h.lanes.foldl (fun (y : Slot) l => y.setReg h.ident l rd (f l)) x

/-- Every active thread writes the register that a function of its operands gives. -/
def State.onLanes (s : State) (n : HamperName) (rs : List Nat) (rd : Nat) (f : Slot → Hamper → Nat → Word) : State :=
  s.onReading n rs fun x h => .ok (s.putSlot (x.lanewise h rd (f x h)))

/-- A truth value in a register. -/
def flag (b : Bool) : Word := if b then 1 else 0

/-! ### FP32 (R129, Table 4.3) -/

/-- An FP32 comparison; a NaN is unequal to everything and in no order. -/
def fcompare (c : CmpOp) (a b : Word) : Bool :=
  let x := flOf a
  let y := flOf b
  match c with
  | .eq => x.eq y
  | .ne => !x.eq y
  | .lt => x.lt y
  | .le => x.lt y || x.eq y
  | .gt => y.lt x
  | .ge => y.lt x || x.eq y

/-- An FP32 instruction on one thread's operands. -/
def fpOp (op : FpOp) (a b c : Word) : Word :=
  match op with
  | .add => fadd a b
  | .mul => fmul a b
  | .fma => ffma a b c
  | .min => fmin a b
  | .max => fmax a b
  | .abs => fabs a
  | .select => if c != 0 then a else b
  | .rcp => frcp a
  | .rsqrt => frsqrt a
  | .sqrt => fsqrt a
  | .exp2 => fexp2 a
  | .log2 => flog2 a
  | .sin => fsin a
  | .cos => fcos a
  | .compare k => flag (fcompare k a b)

/-- The operands that an FP32 instruction reads. -/
def fpReads (op : FpOp) (ra rb rc : Nat) : List Nat :=
  match op with
  | .add => [ra, rb]
  | .mul => [ra, rb]
  | .min => [ra, rb]
  | .max => [ra, rb]
  | .compare _ => [ra, rb]
  | .fma => [ra, rb, rc]
  | .select => [ra, rb, rc]
  | .abs => [ra] | .rcp => [ra] | .rsqrt => [ra] | .sqrt => [ra] | .exp2 => [ra] | .log2 => [ra] | .sin => [ra] | .cos => [ra]

/-- SIMT_FP_ARITH. -/
def execSimtFpArith (at_ : HamperName) (op : FpOp) (rd ra rb rc : Fin 64) (s : State) : Host.Outcome State Fault Refusal :=
  s.live fun s => s.onLanes at_ (fpReads op ra.val rb.val rc.val) rd.val fun x h l =>
    fpOp op (x.reg h.ident l ra.val) (x.reg h.ident l rb.val) (x.reg h.ident l rc.val)

/-! ### Integers (R131) -/

/-- An integer comparison. -/
def icompare (c : CmpOp) (signed : Bool) (a b : Word) : Bool :=
  let lt (x y : Word) : Bool := if signed then x.slt y else x.ult y
  match c with
  | .eq => a == b
  | .ne => a != b
  | .lt => lt a b
  | .le => !lt b a
  | .gt => lt b a
  | .ge => !lt a b

/-- The 64-bit product. -/
def wideProduct (signed : Bool) (a b : Word) : BitVec 64 :=
  if signed then BitVec.ofInt 64 (a.toInt * b.toInt) else BitVec.ofNat 64 (a.toNat * b.toNat)

/-- Ones in a word. -/
def popcount (a : Word) : Nat := ((rangeFrom 0 32).filter (natBit a.toNat)).length

/-- A shift by `n`; a shift by 32 or more is open. -/
def shiftBy (f : Word → Nat → Word) (free a b : Word) : Word := if b.toNat < 32 then f a b.toNat else free

/-- An integer instruction on one thread's operands; `free` is the result of a shift by 32 or more. -/
def intOp (op : IntOp) (free a b : Word) : Word :=
  match op with
  | .add => a + b
  | .sub => a - b
  | .mulLow => a * b
  | .mulHigh signed => (wideProduct signed a b >>> 32).setWidth 32
  | .mulWide signed => (wideProduct signed a b).setWidth 32
  | .shl => shiftBy (· <<< ·) free a b
  | .shr => shiftBy (· >>> ·) free a b
  | .sar => shiftBy BitVec.sshiftRight free a b
  | .and => a &&& b
  | .or => a ||| b
  | .xor => a ^^^ b
  | .popcount => BitVec.ofNat 32 (popcount a)
  | .bitField lo len => BitVec.ofNat 32 (a.toNat / 2 ^ lo.val % 2 ^ len.val)
  | .compare c signed => flag (icompare c signed a b)

/-- Does an integer instruction read one operand only? -/
def intUnary : IntOp → Bool
  | .popcount => true
  | .bitField _ _ => true
  | .add => false | .sub => false | .mulLow => false | .mulHigh _ => false | .mulWide _ => false | .shl => false | .shr => false
  | .sar => false | .and => false | .or => false | .xor => false | .compare _ _ => false

/-- SIMT_INTEGER. The high half of mul-wide goes to the register after `rd`; register 63 has none after it. -/
def execSimtInteger (at_ : HamperName) (op : IntOp) (rd ra rb : Fin 64) (s : State) : Host.Outcome State Fault Refusal :=
  s.live fun s => s.onReading at_ (if intUnary op then [ra.val] else [ra.val, rb.val]) fun x h =>
    let a (l : Nat) : Word := x.reg h.ident l ra.val
    let b (l : Nat) : Word := x.reg h.ident l rb.val
    let low := x.lanewise h rd.val fun l => intOp op (Config.freeBits 32 (s.free + l)) (a l) (b l)
    let y := match op with
      | .mulWide signed =>
        if rd.val = 63 then low
        else low.lanewise h (rd.val + 1) fun l => (wideProduct signed (a l) (b l) >>> 32).setWidth 32
      | _ => low
    .ok ((s.withFree (s.free + 32)).putSlot y)

/-! ### Conversion (R134–R137) -/

/-- The floating-point format of a conversion operand. -/
def cvtFmt : CvtFmt → Option Fmt
  | .fp32 => some fp32 | .fp16 => some fp16 | .bf16 => some bf16 | .e4m3 => some e4m3 | .e5m2 => some e5m2
  | .int32 => none | .int8 => none

/-- Bits of an integer operand. -/
def cvtBits : CvtFmt → Nat
  | .int8 => 8
  | .int32 => 32 | .fp32 => 32 | .fp16 => 16 | .bf16 => 16 | .e4m3 => 8 | .e5m2 => 8

/-- The exact value of a source operand in the low bits of a register. -/
def cvtValue (f : CvtFmt) (w : Word) : Fl :=
  match cvtFmt f with
  | some g => g.decode (w.toNat % 2 ^ cvtBits f)
  | none => flOfInt (signedOf (cvtBits f) w.toNat)

/-- A result in the low bits of a register, the rest 0. -/
def cvtResult (f : CvtFmt) (mode : Rounding) (sat : Bool) (v : Fl) : Word :=
  match cvtFmt f with
  | some g => BitVec.ofNat 32 (g.encode mode sat v)
  | none =>
    let n := cvtBits f
    BitVec.ofNat 32 (twosNat n (intOfFl mode (-(2 ^ (n - 1) : Nat)) (2 ^ (n - 1) - 1 : Nat) v))

/-- Draws of a thread so far. -/
def Slot.drawCount (x : Slot) (key : Nat) : Nat :=
  match x.image.draws.find? fun d => d.1 == key with
  | some d => d.2
  | none => 0

/-- One draw of every active thread. -/
def Slot.drawLanes (x : Slot) (h : Hamper) : Slot :=
  h.lanes.foldl (fun (y : Slot) l =>
    let key := h.ident * 32 + l
    { y with image := { y.image with draws := upsert (fun d => d.1 == key) (key, y.drawCount key + 1) y.image.draws } }) x

/-- SIMT_CONVERT. Table 4.3 has conversions from FP32 and to FP32; no instruction converts between two other formats. -/
def execSimtConvert (at_ : HamperName) (src dst : CvtFmt) (rounding : Fin 5) (sat : Bool) (rd ra : Fin 64) (s : State) :
    Host.Outcome State Fault Refusal :=
  s.live fun s => s.onReading at_ (if (src == .fp32) == (dst == .fp32) then [] else [ra.val]) fun x h =>
    if (src == .fp32) == (dst == .fp32) then .ok s
    else
      let r16 (l : Nat) : Nat :=
        match s.slotTask x with
        | some t => r16Of (s.threadSeed t h l) (x.drawCount (h.ident * 32 + l))
        | none => 0
      let y := x.lanewise h rd.val fun l =>
        cvtResult dst (roundingOf rounding.val (r16 l)) sat (cvtValue src (x.reg h.ident l ra.val))
      .ok (s.putSlot (if rounding.val = 4 then y.drawLanes h else y))

/-! ### Hamper exchange (R96) -/

/-- One step of a reduction: lane i takes op(lane i, lane i + h). -/
def reduceStep (op : Word → Word → Word) (h : Nat) (v : List Word) : List Word :=
  mapPlaces (fun i a => if i < h then op a (v.getD (i + h) 0) else a) 0 v

/-- The five steps; lane 0 holds the result. -/
def reduceTree (op : Word → Word → Word) (v : List Word) : Word :=
  (([16, 8, 4, 2, 1] : List Nat).foldl (fun v h => reduceStep op h v) v).getD 0 0

/-- What an inactive lane enters. -/
def exchangeUnit : ExchangeOp → Word
  | .reduceMaxFp => 0xFF800000
  | .reduceMaxInt => 0x80000000
  | .reduceAddFp => 0 | .reduceAddInt => 0 | .shuffle => 0 | .broadcast _ => 0 | .voteAny => 0 | .voteAll => 0 | .ballot => 0

/-- Signed maximum. -/
def imax (a b : Word) : Word := if a.slt b then b else a

/-- What an exchange delivers to lane `l`; `a` and `b` are the operands by lane, `on` the active lanes, `free` the value of a
lane that is not active or does not exist. -/
def exchange (op : ExchangeOp) (on : List Nat) (a b free : Nat → Word) (l : Nat) : Word :=
  let all := (rangeFrom 0 32).map fun i => if on.contains i then a i else exchangeUnit op
  match op with
  | .shuffle => let i := (b l).toNat; if on.contains i then a i else free l
  | .broadcast i => if on.contains i.val then a i.val else free l
  | .voteAny => flag (on.any fun i => a i != 0)
  | .voteAll => flag (on.all fun i => a i != 0)
  | .ballot => maskOf (on.filter fun i => a i != 0)
  | .reduceAddFp => reduceTree fadd all
  | .reduceAddInt => reduceTree (· + ·) all
  | .reduceMaxFp => reduceTree fmax all
  | .reduceMaxInt => reduceTree imax all

/-- SIMT_HAMPER_EXCHANGE. -/
def execSimtHamperExchange (at_ : HamperName) (op : ExchangeOp) (rd ra rb : Fin 64) (s : State) :
    Host.Outcome State Fault Refusal :=
  s.live fun s => s.onReading at_ (if op = .shuffle then [ra.val, rb.val] else [ra.val]) fun x h =>
    let y := x.lanewise h rd.val (exchange op h.lanes (fun l => x.reg h.ident l ra.val) (fun l => x.reg h.ident l rb.val)
      fun l => Config.freeBits 32 (s.free + l))
    .ok ((s.withFree (s.free + 32)).putSlot y)

/-! ### Memory (R95, R97) -/

/-- The share that a SIMT address is an offset into. -/
def State.spaceShare (s : State) (x : Slot) : SimtSpace → Nat × Nat
  | .core => s.coreShare x.core x.idx
  | .cluster => s.clusterShareOf x

/-- The status, if any, that accesses of `n` bytes at offsets end the task with: the first of R152's order. -/
def State.accessFault (s : State) (share : Nat × Nat) (offs : List Nat) (n : Nat) (write : Bool) : Option (Nat × Option Nat) :=
  let inside := offs.filter fun o => decide (o + n ≤ share.2)
  let err (o : Nat) : Option Nat := if write then s.writeError (share.1 + o) n else s.readError (share.1 + o) n
  match inside.findSome? err with
  | some a => some (0x11, some a)
  | none =>
    if inside.length < offs.length then some (0x13, none)
    else if offs.any fun o => o % n != 0 then some (0x10, none)
    else none

/-- The name of a thread of a hamper among those of its slot's task. -/
def Hamper.thread (h : Hamper) (lane : Nat) : Nat := 1024 * h.group + 32 * h.rank + lane

/-- R98: bytes that a thread stores to cluster memory wait for its fence. -/
def Slot.holdStore (x : Slot) (thread a : Nat) (bs : List Byte) : Slot :=
  let new := mapPlaces (fun i b => ({ thread := thread, addr := a + i, byte := b } : Unfenced)) 0 bs
  let old := x.image.unfenced.filter fun u => !(u.thread == thread && decide (a ≤ u.addr) && decide (u.addr < a + bs.length))
  { x with image := { x.image with unfenced := old ++ new } }

/-- The stores of threads that a test picks become visible (R98). -/
def State.acceptStores (s : State) (x : Slot) (p : Unfenced → Bool) : State :=
  (s.applyStores (x.image.unfenced.filter p)).putSlot
    { x with image := { x.image with unfenced := x.image.unfenced.filter fun u => !p u } }

/-- What a thread reads of memory: its own stores to cluster memory are before it (R98). -/
def State.threadBytes (s : State) (x : Slot) (thread a n : Nat) : List Byte :=
  mapPlaces (fun i b => match x.image.unfenced.find? fun u => u.thread == thread && u.addr == a + i with
    | some u => u.byte
    | none => b) 0 (s.bytes a n)

/-- The registers that a load or a store reads: the address, and what a store writes. A form that is no instruction reads none. -/
def memReads (store : Bool) (words rd ra : Nat) : List Nat :=
  if words = 3 ∨ 64 < rd + words then [] else if store then ra :: rangeFrom rd words else [ra]

/-- SIMT_LOAD_STORE: 4, 8 or 16 bytes per thread in consecutive registers. Threads that store to one address of core memory do
so in ascending order; stores to cluster memory wait for the thread's fence (R98). -/
def execSimtLoadStore (at_ : HamperName) (store : Bool) (space : SimtSpace) (words : Fin 4) (rd ra : Fin 64) (s : State) :
    Host.Outcome State Fault Refusal :=
  s.live fun s => s.onReading at_ (memReads store (words.val + 1) rd.val ra.val) fun x h =>
    let n := words.val + 1
    if n = 3 ∨ 64 < rd.val + n then .ok s
    else
      let share := s.spaceShare x space
      let off (l : Nat) : Nat := (x.reg h.ident l ra.val).toNat
      match s.accessFault share (h.lanes.map off) (4 * n) store with
      | some e => .error e
      | none =>
        let value (l : Nat) : List Byte := ((rangeFrom rd.val n).map fun r => leBytes 4 (x.reg h.ident l r).toNat).flatten
        if store then
          match space with
          | .core => .ok (h.lanes.foldl (fun (t : State) l => t.write (share.1 + off l) (value l)) s)
          | .cluster =>
            .ok (s.putSlot (h.lanes.foldl (fun (y : Slot) l => y.holdStore (h.thread l) (share.1 + off l) (value l)) x))
        else
          .ok (s.putSlot ((rangeFrom 0 n).foldl (fun (y : Slot) i =>
            y.lanewise h (rd.val + i) fun l =>
              BitVec.ofNat 32 (ofLe (s.threadBytes x (h.thread l) (share.1 + off l + 4 * i) 4))) x))

/-- An atomic operation on a word: the word after it. -/
def atomicOp (op : AtomicOp) (old b c : Word) : Word :=
  match op with
  | .add => old + b
  | .min => if old.slt b then old else b
  | .max => imax old b
  | .and => old &&& b
  | .or => old ||| b
  | .xor => old ^^^ b
  | .exchange => b
  | .compareExchange => if old = b then c else old
  | .addFp => fadd old b

/-- One thread's atomic operation: the word changes, and the thread receives what it was. -/
def State.atomicLane (s : State) (x : Slot) (op : AtomicOp) (a : Nat) (b c : Word) (h lane rd : Nat) : State × Slot :=
  let old := BitVec.ofNat 32 (s.le a 4)
  (s.writeLe a 4 (atomicOp op old b c).toNat, x.setReg h lane rd old)

/-- R118: in reproducible mode the atomics of a hamper wait while a hamper of a lower place in the dispatch may still run: it
has not exited, and waits neither at a barrier nor for an event (log 24). -/
def State.atomicWaits (s : State) (x : Slot) (h : Hamper) : Bool :=
  match s.slotTask x with
  | none => false
  | some t =>
    s.reproducible t.part && (s.slotsOf t ++ (s.laybyOf t).map (·.slot)).any fun y => y.image.hampers.any fun g =>
      keyLt [g.group, g.rank] [h.group, h.rank] && g.exited != 0xFFFFFFFF && !y.hamperWaits g

/-- The atomics of the active threads of a hamper, in ascending order (R118). -/
def State.atomics (s : State) (x : Slot) (h : Hamper) (op : AtomicOp) (base : Nat) (rd ra rb rc : Fin 64) : State × Slot :=
  h.lanes.foldl (fun (p : State × Slot) l =>
    p.1.atomicLane p.2 op (base + (x.reg h.ident l ra.val).toNat) (x.reg h.ident l rb.val) (x.reg h.ident l rc.val) h.ident l
      rd.val) (s, x)

/-- SIMT_ATOMIC: threads in ascending order (R118). Its targets lie in the slot's own core memory or the partition's share of
its own cluster memory, as R119 asks in reproducible mode. A thread's own stores to cluster memory go before it. -/
def execSimtAtomic (at_ : HamperName) (op : AtomicOp) (space : SimtSpace) (rd ra rb rc : Fin 64) (s : State) :
    Host.Outcome State Fault Refusal :=
  s.live fun s => s.onHamper at_ fun x h =>
    let share := s.spaceShare x space
    let off (l : Nat) : Nat := (x.reg h.ident l ra.val).toNat
    if s.atomicWaits x h then .ok s
    else if !x.regsSound h (if op = .compareExchange then [ra.val, rb.val, rc.val] else [ra.val, rb.val]) then .error (0x11, none)
    else
      match s.accessFault share (h.lanes.map off) 4 true with
      | some e => .error e
      | none =>
        let mine (u : Unfenced) : Bool := h.lanes.any fun l => u.thread == h.thread l && u.addr / 4 == (share.1 + off l) / 4
        let t := if space = .cluster then s.acceptStores x mine else s
        let y := if space = .cluster then { x with image := { x.image with unfenced := x.image.unfenced.filter fun u => !mine u } }
          else x
        let r := t.atomics y h op share.1 rd ra rb rc
        .ok (r.1.putSlot r.2)

/-! ### Control (R95) and barriers (R98) -/

/-- Reconvergence: the other side of the innermost divergence runs, or the mask before it is back. -/
def Hamper.reconverge (h : Hamper) : Hamper :=
  match h.stack with
  | [] => h
  | e :: rest =>
    let other := e.other &&& ~~~h.exited
    if other != 0 then { h with active := other, stack := { e with other := 0 } :: rest }
    else { h with active := e.mask &&& ~~~h.exited, stack := rest }

/-- A hamper whose active threads have all exited goes on with those that its stack holds. -/
def Hamper.resume : Nat → Hamper → Hamper
  | 0, h => h
  | fuel + 1, h => if h.active != 0 || h.stack.isEmpty then h else Hamper.resume fuel h.reconverge

/-- The live threads of a resident group, as rank × 32 + lane. -/
def Slot.groupThreads (x : Slot) (g : Nat) : List Nat :=
  ((x.image.hampers.filter fun h => h.group == g).map fun h =>
    ((rangeFrom 0 32).filter fun l => !natBit h.exited.toNat l).map fun l => h.rank * 32 + l).flatten

/-- Barriers at which every live thread of their group has arrived complete (R98). -/
def Slot.settleBarriers (x : Slot) : Slot :=
  { x with image := { x.image with barriers := x.image.barriers.filter fun b =>
      !((x.groupThreads b.group).all fun t => b.arrived.contains t) } }

/-- A group whose threads have all exited has ended (R112): its hampers, barriers and group memory are free. -/
def State.endGroup (s : State) (x : Slot) (g : Nat) : State :=
  if (x.groupThreads g).isEmpty then
    let y := { x with image := { x.image with
      hampers := x.image.hampers.filter fun h => h.group != g
      barriers := x.image.barriers.filter fun b => b.group != g
      groups := x.image.groups.filter fun r => r.index != g } }
    match s.slotTask x with
    | some t => (s.putSlot y).putTask { t with groupsEnded := t.groupsEnded + 1 }
    | none => s.putSlot y
  else s.putSlot x

/-- A control instruction on a hamper; `on` are the active threads whose condition register is not 0. A divergent branch
whose entry finds no room ends the task. -/
def branchOp (op : BranchOp) (on : Word) (h : Hamper) : Try Hamper :=
  match op with
  | .branch _ =>
    let off := h.active &&& ~~~on
    if on = 0 ∨ off = 0 then .ok h
    else if 32 ≤ h.stack.length then .error (0x10, none)
    else .ok { h with active := on, stack := { other := off, mask := h.active } :: h.stack }
  | .reconverge => .ok h.reconverge
  | .exit => .ok ({ h with exited := h.exited ||| h.active, active := 0 }.resume 64)
  | .predicate _ => .ok { h with active := on }
  | .call => .ok h
  | .ret => .ok h

/-- The condition register of a control instruction. -/
def branchCond : BranchOp → Option Nat
  | .branch c => some c.val
  | .predicate c => some c.val
  | .reconverge => none | .exit => none | .call => none | .ret => none

/-- SIMT_BRANCH. A hamper has no program counter among the state that the spec names; call and return change nothing else. -/
def execSimtBranch (at_ : HamperName) (op : BranchOp) (s : State) : Host.Outcome State Fault Refusal :=
  s.live fun s => s.onReading at_ (branchCond op).toList fun x h => do
    let on := match branchCond op with
      | some c => maskOf (h.lanes.filter fun l => x.reg h.ident l c != 0)
      | none => h.active
    let h' ← branchOp op on h
    .ok (s.endGroup (x.setHamper h').settleBarriers h.group)

/-- SIMT_BARRIER: the active threads of a hamper arrive. A barrier that the launch does not declare is none (R98). -/
def execSimtBarrier (at_ : HamperName) (barrier : Fin 16) (s : State) : Host.Outcome State Fault Refusal :=
  s.live fun s => s.onHamper at_ fun x h =>
    let declared := match s.slotTask x with | some t => t.launch.barriers | none => 0
    if declared ≤ barrier.val then .ok s
    else
      let mine (b : Barrier) : Bool := b.group == h.group && b.unit == barrier.val
      let old := match x.image.barriers.find? mine with | some b => b.arrived | none => []
      let b : Barrier :=
        { group := h.group, unit := barrier.val, arrived := old ++ h.lanes.map fun l => h.rank * 32 + l }
      let y := { x with image := { x.image with barriers := upsert mine b x.image.barriers } }
      .ok (s.putSlot y.settleBarriers)

/-- SIMT_FENCE: the active threads' earlier stores to cluster memory are accepted, and become visible (R98). -/
def execSimtFence (at_ : HamperName) (s : State) : Host.Outcome State Fault Refusal :=
  s.live fun s => s.onHamper at_ fun x h =>
    .ok (s.acceptStores x fun u => h.lanes.any fun l => u.thread == h.thread l)

/-! ### Events and flags (R109, R163, R165) -/

/-- EVENT_WAIT: satisfied at once, or the waiter stalls. -/
def execEventWait (at_ : SlotName) (waiter : Waiter) (event : Fin 32) (target : BitVec 16) (s : State) :
    Host.Outcome State Fault Refusal :=
  s.live fun s =>
    match s.slotNamed at_ with
    | none => s
    | some x =>
      match waiter with
      | .control =>
        if x.wait.isSome then s.drainEngines x.core x.idx
        else (s.putSlot { x with wait := some (.event event.val target.toNat, s.now) }.settleWaits).drainEngines x.core x.idx
      | .hamper h =>
        match x.image.hampers.find? fun g => g.ident == h.val with
        | some g =>
          if x.hamperWaits g then s
          else s.putSlot (x.setHamper { g with waiting := some (event.val, target.toNat) }).settleWaits
        | none => s

/-- EVENT_SIGNAL: 1 is added to an event counter. -/
def execEventSignal (at_ : SlotName) (event : Fin 32) (s : State) : Host.Outcome State Fault Refusal :=
  s.live fun s =>
    match s.slotNamed at_ with
    | some x => (s.putSlot (x.signal event.val)).drainEngines x.core x.idx
    | none => s

/-- The slot of a wait on a flag: a running one, or one that already waits on that flag. -/
def State.flagWaiter (s : State) (n : SlotName) (addr target : Nat) : Option Slot :=
  match s.slotAt (coreId n.at_) n.slot.val with
  | none => none
  | some x =>
    match x.wait with
    | some (w, _) => if w == .flag addr target && x.phase == .live && !x.halted then some x else none
    | none => s.slotNamed n

/-- FLAG_WAIT: a core looks at a halo word. A wait that is not satisfied stalls the slot until a later look is; its compute
clocks are counted (R165). -/
def execFlagWait (at_ : SlotName) (addr : BitVec 48) (target : Word) (s : State) : Host.Outcome State Fault Refusal :=
  s.live fun s =>
    match s.flagWaiter at_ addr.toNat target.toNat with
    | none => s
    | some x =>
      let share := s.clusterShareOf x
      let off := addr.toNat - share.1
      if addr.toNat < share.1 then s.endSlot x 0x13
      else
        match s.accessFault share [off] 4 false with
        | some e => s.endSlot x e.1 e.2
        | none =>
          let since := match x.wait with | some (_, t) => t | none => s.now
          if (BitVec.ofNat 32 (s.le addr.toNat 4) - target).toNat < 2 ^ 31 then
            ((s.countHalo x).putSlot { x with wait := none, yielded := false }).wakeCore x.core
          else s.putSlot { x with wait := some (.flag addr.toNat target.toNat, since) }

/-! ### Texture samples (R187) -/

/-- The descriptor that a request names; none where nothing is bound. -/
def State.textureOf (s : State) (x : Slot) : TexRef → Option (List Byte)
  | .desc d => some d
  | .bound slot prim => do
    let p ← s.passes.find? fun p => p.qid == x.qid && p.seq == x.seq
    let b ← p.prims.find? fun b => b.seq == prim
    let t ← b.textures.find? fun t => t.1 == slot.val
    pure t.2

/-- Free values for every active thread, where the spec fixes none. -/
def State.freeSamples (s : State) (x : Slot) (h : Hamper) (rd : Nat) : State :=
  (s.withFree (s.free + 129)).putSlot ((rangeFrom 0 4).foldl (fun (y : Slot) c =>
    y.lanewise h (rd + c) fun l => Config.freeBits 32 (s.free + 1 + 4 * l + c)) x)

/-- The values of the threads `ls`, one after another; a coordinate that is not finite gives free ones. -/
def State.laneSamples (s : State) (x : Slot) (h : Hamper) (d : List Byte) (ra : Nat) : List Nat → Try (List (List Word))
  | [] => .ok []
  | l :: ls => do
    let u := flOf (x.reg h.ident l ra)
    let v := flOf (x.reg h.ident l (ra + 1))
    let one ← if u.isFinite && v.isFinite then s.sampleAt (x.qid / 256) d u v
      else .ok ((rangeFrom 0 4).map fun c => Config.freeBits 32 (s.free + 1 + 4 * l + c))
    let rest ← s.laneSamples x h d ra ls
    .ok (one :: rest)

/-- SIMT_SAMPLE: four FP32 values from `rd` on for each active thread, whose coordinates are in `ra` and `ra` + 1. Where the spec
fixes no value (levels, anisotropic taps, a slot that is not bound) the values are free, and where the context may not read all of
such a texture, so is whether the texels that the request needs are among those it may not (R23). -/
def execSimtSample (at_ : HamperName) (texture : TexRef) (rd ra : Fin 64) (s : State) : Host.Outcome State Fault Refusal :=
  s.live fun s => s.onReading at_ (if 63 < rd.val + 3 ∨ 62 < ra.val then [] else [ra.val, ra.val + 1]) fun x h =>
    let counted (s : State) : State := s.count R.SKU_CNT_SAMPLES [x.core / 128, x.core / 16 % 8] h.lanes.length
    if 63 < rd.val + 3 ∨ 62 < ra.val then .ok s
    else
      match s.textureOf x texture with
      | none => .ok (counted (s.freeSamples x h rd.val))
      | some d =>
        let base := leAt d 0 8
        let n := textureBytes d
        if !textureGood d then .error (0x10, none)
        else if sampleFixed d then do
          let values ← s.laneSamples x h d ra.val h.lanes
          let y := (rangeFrom 0 4).foldl (fun (y : Slot) c => y.lanewise h (rd.val + c) fun l =>
            (values.getD (placeIn (fun k => k == l) h.lanes) []).getD c 0) x
          let taps := (if leAt d 18 1 % 4 = 0 then 1 else 4) * texelSize (leAt d 16 1)
          let t := (s.withFree (s.free + 129)).putSlot y
          .ok (counted ((t.dieRead (t.ctxPart (x.qid / 256)) (x.core / 128) base (taps * h.lanes.length)).account (x.qid / 256) 1
            (taps * h.lanes.length)))
        else
          let touched := (s.drawn 1) == 1
          let t := counted (s.freeSamples x h rd.val)
          if !s.accessOk (x.qid / 256) base n false then (if touched then .error (0x13, none) else .ok t)
          else
            match s.readError base n with
            | some a => if touched then .error (0x11, some a) else .ok t
            | none => .ok t

end Sys2Proof.Machine
end

