-- ==== Sys2Proof/Machine/Dma.lean ====
section
/-! DEFINITION. DMA (R114–R117), the bandwidth regulators that hold its transfers (R280), and the scale history records that
the task sequencer merges at the end of a layer step (R145–R152, R435). -/

namespace Sys2Proof.Machine

/-! ### Descriptors (Table 4.5) -/

/-- A descriptor. -/
def decodeDma (b : List Byte) : DmaDesc :=
  { src := leAt b 0 8, dst := leAt b 8 8, inner := leAt b 0x10 4, count1 := leAt b 0x14 2, count2 := leAt b 0x16 2,
    srcStride1 := leAt b 0x18 4, srcStride2 := leAt b 0x1C 4, dstStride1 := leAt b 0x20 4, dstStride2 := leAt b 0x24 4,
    mode := leAt b 0x28 1, signal := natBit (leAt b 0x29 1) 0, fence := natBit (leAt b 0x29 1) 1, event := leAt b 0x2A 1,
    pageLog := leAt b 0x2B 1, pageList := leAt b 0x30 8 }

/-- R114: is a descriptor accepted? The source of a fill is its pattern, no address. -/
def DmaDesc.good (d : DmaDesc) : Bool :=
  decide (d.mode ≤ 2) && (d.mode == 1 || d.src % 4 == 0) && d.dst % 4 == 0 && d.inner % 4 == 0 && decide (4 ≤ d.inner)
    && decide (d.inner ≤ 16777216) && decide (1 ≤ d.count1) && decide (1 ≤ d.count2) && d.srcStride1 % 4 == 0
    && d.srcStride2 % 4 == 0 && d.dstStride1 % 4 == 0 && d.dstStride2 % 4 == 0 && decide (d.event < 32)
    && (d.mode != 2 || (decide (8 ≤ d.pageLog) && decide (d.pageLog ≤ 20) && d.pageList % 4 == 0))

/-- Transfers of one inner run, and of the whole descriptor (R116). -/
def DmaDesc.perRun (d : DmaDesc) : Nat := ceilDiv d.inner 4096
def DmaDesc.transfers (d : DmaDesc) : Nat := d.count1 * d.count2 * d.perRun

/-- One transfer: offset in the source range, address written, bytes. -/
structure DmaMove where
  srcOff : Nat
  dst : Nat
  bytes : Nat
  deriving DecidableEq, Repr

/-- Transfer number `k`: inner runs in ascending index 1, then index 2. -/
def DmaDesc.move (d : DmaDesc) (k : Nat) : DmaMove :=
  let run := k / d.perRun
  let pos := k % d.perRun * 4096
  let i := run % d.count1
  let j := run / d.count1
  { srcOff := i * d.srcStride1 + j * d.srcStride2 + pos, dst := d.dst + i * d.dstStride1 + j * d.dstStride2 + pos,
    bytes := min 4096 (d.inner - pos) }

/-- R115: where source offset `o` of a gather lies. -/
def State.gatherAt (s : State) (ctx : Nat) (d : DmaDesc) (o : Nat) : Try Nat := do
  let e ← s.tryRead ctx (d.pageList + 8 * (o / 2 ^ d.pageLog)) 8
  .ok (ofLe e + o % 2 ^ d.pageLog)

/-- The bytes of a gather, page by page; `fuel` bounds the pages. -/
def State.gather (s : State) (ctx : Nat) (d : DmaDesc) : Nat → Nat → Nat → Try (List Byte)
  | 0, _, _ => .ok []
  | fuel + 1, o, n => do
    let m := min n (2 ^ d.pageLog - o % 2 ^ d.pageLog)
    let a ← s.gatherAt ctx d o
    let bs ← s.tryRead ctx a m
    if n ≤ m then .ok bs
    else do
      let rest ← s.gather ctx d fuel (o + m) (n - m)
      .ok (bs ++ rest)

/-- The bytes that a transfer moves. -/
def State.moveBytes (s : State) (ctx : Nat) (d : DmaDesc) (m : DmaMove) : Try (List Byte) :=
  if d.mode = 1 then .ok ((rangeFrom 0 (m.bytes / 4)).map fun _ => leBytes 4 d.src).flatten
  else if d.mode = 2 then s.gather ctx d 17 m.srcOff m.bytes
  else s.tryRead ctx (d.src + m.srcOff) m.bytes

/-- A transfer is made. -/
def State.makeMove (s : State) (ctx : Nat) (d : DmaDesc) (m : DmaMove) : Try State := do
  let bs ← s.moveBytes ctx d m
  s.tryWrite ctx m.dst bs

/-! ### Regulators (R280) -/

/-- Regulators of what a gather reads: the path from each page that the transfer touches, as its list names it (R115, R116).
The entries themselves are read with the descriptor (log 23). -/
def State.gatherPath (s : State) (die : Nat) (d : DmaDesc) (m : DmaMove) : List (Nat × Nat) :=
  let size := 2 ^ d.pageLog
  let first := m.srcOff / size
  ((rangeFrom first ((m.srcOff + m.bytes - 1) / size + 1 - first)).map fun p =>
    let lo := max m.srcOff (p * size)
    s.readPath die (s.le (d.pageList + 8 * p) 8 + lo % size) (min (m.srcOff + m.bytes) ((p + 1) * size) - lo)).flatten

/-- The regulators of a transfer. -/
def State.movePath (s : State) (die : Nat) (d : DmaDesc) (m : DmaMove) : List (Nat × Nat) :=
  ((if d.mode = 0 then s.readPath die (d.src + m.srcOff) m.bytes else if d.mode = 2 then s.gatherPath die d m else [])
    ++ s.writePath die m.dst m.bytes).eraseDups

/-- REGULATOR_REFILL: a 1 µs period of TIMEBASE starts. -/
def execRegulatorRefill (s : State) : Host.Outcome State Fault Refusal :=
  s.live fun s => s.regulators.foldl (fun s g => (rangeFrom 0 16).foldl (fun s p => s.refillOne g p) s) s

/-! ### Channels -/

/-- Replace the oldest descriptor in flight on a channel, or take it away. -/
def putRun (channel : Nat) (r : Option DmaRun) : List DmaRun → List DmaRun
  | [] => []
  | x :: xs =>
    if x.channel = channel then (match r with | some y => y :: xs | none => xs) else x :: putRun channel r xs

/-- A slot with its oldest descriptor on a channel replaced. -/
def Slot.setRun (x : Slot) (channel : Nat) (r : Option DmaRun) : Slot :=
  { x with image := { x.image with dma := putRun channel r x.image.dma } }

/-- DMA_SUBMIT: a descriptor joins a channel of its slot, or ends the task (R114). -/
def execDmaSubmit (at_ : SlotName) (channel : Fin 4) (desc : List Byte) (s : State) : Host.Outcome State Fault Refusal :=
  s.live fun s =>
    match s.slotNamed at_ with
    | none => s
    | some x =>
      let d := decodeDma desc
      if s.stalls x then s
      else if !d.good then s.endSlot x 0x10
      else
        let r : DmaRun := { channel := channel.val, desc := d, next := 0, held := none, aborted := false }
        s.putSlot { x with image := { x.image with dma := x.image.dma ++ [r] } }

/-- R358: does a transfer wait, because a module that carries it retrains? -/
def State.moveWaits (s : State) (die : Nat) (d : DmaDesc) (m : DmaMove) : Bool :=
  s.linkWaits die m.dst m.bytes || (d.mode == 0 && s.linkWaits die (d.src + m.srcOff) m.bytes)
    || (d.mode == 2 && (s.linkWaits die (s.le (d.pageList + 8 * (m.srcOff / 2 ^ d.pageLog)) 8 + m.srcOff % 2 ^ d.pageLog) m.bytes))

/-- May a transfer proceed: with tokens, in order of priority and arrival, or by borrowing at the regulators that lack
them, when no transfer with tokens waits there (R280)? The answer says whether it borrows. -/
def State.mayProceed (s : State) (h : HeldTransfer) : Option Bool :=
  let rivals := s.sch.transfers.filter fun t =>
    t.ident != h.ident && s.tokensFor t.part t.bytes t.path && t.path.any fun g => h.path.contains g
  if s.tokensFor h.part h.bytes h.path then
    if rivals.any fun t => keyLt [t.prio, t.ident] [h.prio, h.ident] then none else some false
  else if (h.path.all fun g =>
      decide (ceilDiv h.bytes 64 ≤ (s.bucket g h.part).tokens) || bits (s.regCfg g h.part) 20 20 == 1)
    && rivals.isEmpty then some true
  else none

/-- Transfers of a descriptor, from the next one on, until one is held or all are made. A transfer that arrives with tokens waits
behind those held that have tokens and are of its task's priority or above (R280). -/
def State.runDma (s : State) (core i channel : Nat) : Nat → State
  | 0 => s
  | fuel + 1 =>
    match s.slotAt core i with
    | none => s
    | some x =>
      match x.image.dma.find? fun r => r.channel == channel with
      | none => s
      | some r =>
        let ctx := x.qid / 256
        let p := s.ctxPart ctx
        if r.desc.transfers ≤ r.next then
          let x := x.setRun channel none
          s.putSlot (if r.desc.signal then x.signal r.desc.event else x)
        else
          let m := r.desc.move r.next
          let path := s.movePath (core / 128) r.desc m
          let h : HeldTransfer :=
            { ident := s.sch.nextTransfer, part := p, prio := s.prioOf x.qid x.seq, bytes := m.bytes, core := core, idx := i,
              channel := channel, path := path }
          if s.moveWaits (core / 128) r.desc m then s
          else if s.mayProceed h == some false then
            match s.makeMove ctx r.desc m with
            | .error (st, loc) => s.endSlot x st loc
            | .ok t =>
              ((((t.pass p m.bytes false path).account ctx 1 m.bytes).pmcAdd 1 (core / 16) 1 (some p) (m.bytes / 64)).putSlot
                (x.setRun channel (some { r with next := r.next + 1 }))).runDma core i channel fuel
          else
            let s := s.withSch { s.sch with
              nextTransfer := s.sch.nextTransfer + 1, transfers := s.sch.transfers ++ [h] }
            let s := path.foldl (fun (s : State) g => s.putBucket { s.bucket g p with heldNow := true }) s
            s.putSlot (x.setRun channel (some { r with held := some h.ident }))

/-- DMA_DESCRIPTOR_COMPLETE: the oldest descriptor in flight on a channel comes to its end, and its event counter is
signalled (R116); a transfer that a regulator holds (R280) or that a switch has aborted (R102) keeps it in flight. -/
def execDmaDescriptorComplete (at_ : SlotName) (channel : Fin 4) (s : State) : Host.Outcome State Fault Refusal :=
  s.live fun s =>
    let core := coreId at_.at_
    match s.slotAt core at_.slot.val with
    | none => s
    | some x =>
      if x.phase != .live || x.halted then s
      else
        match x.image.dma.find? fun r => r.channel == channel.val with
        | none => s
        | some r =>
          let held := match r.held with | some h => s.sch.transfers.any fun t => t.ident == h | none => false
          if held || r.aborted then s
          else (s.runDma core at_.slot.val channel.val (r.desc.transfers - r.next + 1)).drainEngines core at_.slot.val

/-- TRANSFER_RELEASE: a held transfer asks again. -/
def execTransferRelease (transfer : Nat) (s : State) : Host.Outcome State Fault Refusal :=
  s.live fun s =>
    match s.sch.transfers.find? fun t => t.ident == transfer with
    | none => s
    | some h =>
      let gone := s.withSch { s.sch with transfers := s.sch.transfers.filter fun t => t.ident != transfer }
      match (s.slotAt h.core h.idx).bind fun x =>
          (x.image.dma.find? fun r => r.channel == h.channel && r.held == some h.ident).map fun r => (x, r) with
      | none => gone
      | some (x, r) =>
        if s.moveWaits (h.core / 128) r.desc (r.desc.move r.next) then s
        else match s.mayProceed h with
        | none => s
        | some borrowed =>
          let ctx := x.qid / 256
          match gone.makeMove ctx r.desc (r.desc.move r.next) with
          | .error (st, loc) => gone.endSlot x st loc
          | .ok t =>
            ((t.pass h.part h.bytes borrowed h.path).account ctx 1 h.bytes).putSlot
              (x.setRun h.channel (some { r with next := r.next + 1, held := none }))

/-! ### Steps of a layer (R145–R152) -/

/-- R435: the numeric-mismatch event. -/
def State.mismatchEvent (s : State) (t : Task) (rec : List Byte) : State :=
  s.event 0x0F t.ctx 0x01
    (sliceBytes rec 0x4E 2 ++ leBytes 2 t.qid ++ sliceBytes rec 0x54 8 ++ leBytes 4 t.entry.seq.toNat)

/-- The merge and the policy: the state with the records written, and what follows. The copies are made ready for what runs
next, the replay or the next step of the layer. -/
def State.mergeStep (s : State) (t : Task) (master : Nat) (copies : List Nat) : Try (State × StepResult) := do
  let again := t.replays.contains master
  let rec ← s.tryRead t.ctx master 128
  let cs ← s.readRecords t.ctx copies
  let merged := mergeRecords (if again then rec else startStep rec) cs
  let (after, what) := stepPolicy merged again t.entry.dlValid
  let s1 ← s.writeRecords t.ctx after [master]
  let s2 ← s1.writeRecords t.ctx (if what == .replay then after else startStep after) copies
  let tell := mismatches merged && !again && natBit (leAt rec 0x4C 1) 3
  .ok (if tell then s2.mismatchEvent t merged else s2, what)

/-- LAYER_STEP_END: working copies are merged into the master record, and the mismatch policy acts (R146–R151). -/
def execLayerStepEnd (queue : Fin 16384) (seq : Word) (master : BitVec 48) (copies : List (BitVec 48)) (s : State) :
    Host.Outcome State Fault Refusal :=
  s.live fun s =>
    match s.task queue.val seq with
    | none => s
    | some t =>
      if !t.started || t.forced.isSome then s
      else
        let before := s.bytes master.toNat 128
        match s.mergeStep t master.toNat (copies.map (·.toNat)) with
        | .error (st, loc) => s.endTask t st loc
        | .ok (s, what) =>
          let rest := t.replays.filter (· != master.toNat)
          let kept := t.stepBefore.filter fun e => e.1 != master.toNat
          match what with
          | .kept => s.putTask { t with replays := rest, stepBefore := kept }
          | .replay => s.putTask { t with replays := master.toNat :: rest, stepBefore := (master.toNat, before) :: kept }
          | .failed => if (s.sliceTag t).isSome then s.putTask { t with forced := some 0x15 } else s.endTask t 0x15
          | .aborted => s.endTask t 0x15

end Sys2Proof.Machine
end

