-- ==== Sys2Proof/Machine/Box.lean ====
section
/-! DEFINITION. The box units: calls (R168, R169), DECODE (R170–R172) and NMS (R173). -/

namespace Sys2Proof.Machine

/-! ### Descriptors -/

/-- Table 6.3: is a DECODE descriptor accepted (R172)? -/
def decodeGood (d : List Byte) : Bool :=
  let a := leAt d 8 1
  decide (leAt d 1 1 ≤ 2) && decide (leAt d 2 1 < 4) && decide (leAt d 3 1 ≤ 15) && decide (1 ≤ leAt d 4 2)
    && decide (leAt d 4 2 ≤ 1024) && decide (1 ≤ leAt d 6 2) && decide (leAt d 6 2 ≤ 1024)
    && (if leAt d 1 1 = 0 then decide (1 ≤ a) && decide (a ≤ 16) else a == 1 && leAt d 0x20 8 == 0)
    && decide (leAt d 9 1 < 32) && decide (1 ≤ leAt d 10 2) && decide (leAt d 10 2 ≤ 256) && decide (1 ≤ leAt d 12 2)
    && decide (leAt d 12 2 ≤ 256) && leAt d 0x39 1 == 0 && leAt d 0x3E 2 == 0
    && decide (leAt d 4 2 * leAt d 6 2 * a * leAt d 10 2 < 2 ^ 28)

/-- Table 6.6: is an NMS descriptor accepted? -/
def nmsGood (d : List Byte) : Bool :=
  let t := flOf (BitVec.ofNat 32 (leAt d 0x20 4))
  decide (leAt d 1 1 ≤ 1) && leAt d 2 2 == 0 && decide (1 ≤ leAt d 4 2) && decide (leAt d 4 2 ≤ 1024)
    && decide (leAt d 6 1 < 32) && leAt d 7 9 == 0 && !t.isNan && !t.lt (flOf 0) && !(flOf 0x3F800000).lt t
    && leAt d 0x28 24 == 0

/-- Is a descriptor one of a call that BOX runs? -/
def boxGood (d : List Byte) : Bool :=
  if leAt d 0 1 = 1 then decodeGood d else if leAt d 0 1 = 2 then nmsGood d else false

/-- The event counter that a call names. -/
def boxEvent (d : List Byte) : Nat := if leAt d 0 1 = 1 then leAt d 9 1 else leAt d 6 1

/-- A call aborted under R172 is counted. -/
def State.boxAborted (s : State) (d k : Nat) : State := s.countSat R.BOX_CNT_ABORT [d, k] 1 R.BOX_CNT_OVF [d, k] 2

/-- BOX_CALL_SUBMIT: a call joins the box unit of its cluster, with its task's own priority (R274 lends none to calls); 64
pending calls stall the writer until one ends (R168). -/
def execBoxCallSubmit (at_ : SlotName) (addr : BitVec 48) (s : State) : Host.Outcome State Fault Refusal :=
  s.live fun s =>
    match s.slotNamed at_ with
    | none => s
    | some x =>
      let d := x.core / 128
      let k := x.core / 16 % 8
      if s.stalls x then s
      else
        match s.tryRead (x.qid / 256) addr.toNat 64 with
        | .error (st, loc) => (s.boxAborted d k).endSlot x st loc
        | .ok desc =>
          if addr.toNat % 64 != 0 || !boxGood desc then (s.boxAborted d k).endSlot x 0x10
          else
            let b : BoxCall :=
              { cluster := 8 * d + k, core := x.core, idx := x.idx, qid := x.qid, seq := x.seq, prio := s.prioOf x.qid x.seq,
                desc := desc, started := false, running := false, done := false }
            if 64 ≤ s.boxPending d k then s.putSlot { x with wait := some (.boxFull b, s.now) }
            else (s.withBoxes (s.boxes ++ [b])).boxSchedule d k

/-- The running call of a box unit, of one operation, that has yet to do its work: its effect, or the end of its task. -/
def State.onBox (s : State) (d k op : Nat) (f : BoxCall → Try State) : State :=
  match s.boxRunning d k with
  | none => s
  | some b =>
    if b.done || leAt b.desc 0 1 != op then s
    else
      match f b with
      | .ok t => t.withBoxes (t.boxes.map fun c => if c.on d k && c.running then { c with done := true } else c)
      | .error (st, loc) =>
        match s.task b.qid b.seq with
        | some t => s.endTask t st loc
        | none => s

/-! ### DECODE -/

/-- An element of an input tensor in CB16 (R154), as FP32. -/
def State.boxInput (s : State) (ctx : Nat) (d : List Byte) (base c x y : Nat) : Try Word := do
  let int8 := natBit (leAt d 2 1) 0
  let e := if int8 then 1 else 2
  let bs ← s.tryRead ctx (base + (((c / 16 * leAt d 6 2 + y) * leAt d 4 2 + x) * 16 + c % 16) * e) e
  if int8 then
    .ok (fmul (fp32OfInt (signedOf 8 (ofLe bs) - signedOf 8 (leAt d 0x38 1))) (BitVec.ofNat 32 (leAt d 0x34 4)))
  else .ok (toFp32 (fp16.decode (ofLe bs)))

/-- A score: the sigmoid, where the descriptor asks for it. -/
def boxScore (d : List Byte) (v : Word) : Word :=
  if natBit (leAt d 2 1) 1 then fdiv 0x3F800000 (fadd 0x3F800000 (fexp (fsub 0 v))) else v

/-- A natural number in FP32. -/
def fnat (n : Nat) : Word := fp32OfRat false n 1

/-- Corners from a centre and a size. -/
def boxCorners (cx cy w h : Word) : List Word :=
  let hw := fmul w 0x3F000000
  let hh := fmul h 0x3F000000
  [fsub cx hw, fsub cy hh, fadd cx hw, fadd cy hh]

/-- Table 6.4: x0, y0, x1, y1 before the clamp. `v` are the variances, `aw`, `ah` the anchor. -/
def boxOf (d : List Byte) (x y : Nat) (r v : List Word) (aw ah : Word) : List Word :=
  let s := fnat (leAt d 12 2)
  let cx0 := fmul (fadd (fnat x) 0x3F000000) s
  let cy0 := fmul (fadd (fnat y) 0x3F000000) s
  let r_ (i : Nat) : Word := r.getD i 0
  let v_ (i : Nat) : Word := v.getD i 0
  let limit : Word := fp32OfRat false 4135 1000
  if leAt d 1 1 = 0 then
    boxCorners (fadd cx0 (fmul (fmul (r_ 0) (v_ 0)) aw)) (fadd cy0 (fmul (fmul (r_ 1) (v_ 1)) ah))
      (fmul aw (fexp (fmin (fmul (r_ 2) (v_ 2)) limit))) (fmul ah (fexp (fmin (fmul (r_ 3) (v_ 3)) limit)))
  else if leAt d 1 1 = 1 then
    [fsub cx0 (fmul (r_ 0) s), fsub cy0 (fmul (r_ 1) s), fadd cx0 (fmul (r_ 2) s), fadd cy0 (fmul (r_ 3) s)]
  else
    boxCorners (fadd cx0 (fmul (r_ 0) s)) (fadd cy0 (fmul (r_ 1) s)) (fmul (r_ 2) s) (fmul (r_ 3) s)

/-- The clamp to the image. -/
def boxClamp (d : List Byte) (b : List Word) : List Word :=
  mapPlaces (fun i v => fmin (fmax v 0) (fnat (leAt d (if i % 2 = 0 then 0x3A else 0x3C) 2))) 0 b

/-- R171: has a clamped box an area, and finite corners? -/
def boxReal (b : List Word) : Bool :=
  let v (i : Nat) : Fl := flOf (b.getD i 0)
  b.all (fun w => (flOf w).isFinite) && (v 0).lt (v 2) && (v 1).lt (v 3)

/-- FP32 to FP16, RNE. -/
def toHalf (w : Word) : Nat := fp16.encode .rne false (flOf w)

/-- A record of Table 6.5. -/
def boxRecord (b : List Word) (score : Word) (cls index : Nat) : List Byte :=
  (b.map fun w => leBytes 2 (toHalf w)).flatten ++ leBytes 2 (toHalf score) ++ leBytes 2 cls ++ leBytes 4 index

/-- Traffic of a call: `n` bytes in all, of which `out` are written, are accounted, and pass the regulators on the ways from
where it reads first and to where it writes (R280). -/
def State.boxTraffic (s : State) (b : BoxCall) (list dest n out : Nat) : State :=
  let part := s.ctxPart (b.qid / 256)
  ((s.dieRead part (b.cluster / 8) list (n - out)).dieWrote part (b.cluster / 8) dest out).account (b.qid / 256) 1 n

/-- The candidates of one cell and anchor, in ascending class. -/
def State.cellCandidates (s : State) (ctx : Nat) (d : List Byte) (v : List Word) (x y a : Nat) (aw ah : Word) :
    Try (List (List Byte)) := do
  let k := leAt d 10 2
  let r ← (rangeFrom 0 4).mapM fun j => s.boxInput ctx d (leAt d 0x18 8) (4 * a + j) x y
  let scores ← (rangeFrom 0 k).mapM fun c => do
    let w ← s.boxInput ctx d (leAt d 0x10 8) (a * k + c) x y
    .ok (boxScore d w)
  let b := boxClamp d (boxOf d x y r v aw ah)
  if !boxReal b || scores.any fun w => !(flOf w).isFinite then .ok []
  else
    let place := (y * leAt d 4 2 + x) * leAt d 8 1 + a
    let thr := flOf (BitVec.ofNat 32 (leAt d 0x30 4))
    .ok ((mapPlaces (fun c w => (c, w)) 0 scores).filterMap fun p =>
      if !thr.isNan && !(flOf p.2).lt thr then some (boxRecord b p.2 p.1 (leAt d 3 1 * 2 ^ 28 + place * k + p.1)) else none)

/-- The anchor table: variances, then anchors. -/
def State.anchorTable (s : State) (ctx : Nat) (d : List Byte) : Try (List Word) :=
  if leAt d 1 1 = 0 then do
    let n := 4 + 2 * leAt d 8 1
    let bs ← s.tryRead ctx (leAt d 0x20 8) (4 * n)
    .ok (wordsOf n bs)
  else .ok []

/-- Append candidates to a list of a given capacity, whose count stands at `n`; the answer has the records that found no
room. -/
def State.appendRecords (s : State) (ctx base cap n : Nat) : List (List Byte) → Try (State × Nat × Nat)
  | [] => .ok (s, n, 0)
  | r :: rs =>
    if cap ≤ n then .ok (s, n, rs.length + 1)
    else do
      let t ← s.tryWrite ctx (base + 16 + 16 * n) r
      t.appendRecords ctx base cap (n + 1) rs

/-- The work of a DECODE: records first, the header last (R171). -/
def State.boxDecodeWork (s : State) (b : BoxCall) : Try State := do
  let d := b.desc
  let ctx := b.qid / 256
  let w := leAt d 4 2
  let h := leAt d 6 2
  let na := leAt d 8 1
  let list := leAt d 0x28 8
  let table ← s.anchorTable ctx d
  let found ← (rangeFrom 0 (w * h * na)).mapM fun i =>
    let a := i % na
    s.cellCandidates ctx d table (i / na % w) (i / na / w) a (table.getD (4 + 2 * a) 0) (table.getD (5 + 2 * a) 0)
  let header ← s.tryRead ctx list 8
  let (t, n, dropped) ← s.appendRecords ctx list (leAt d 14 2 + 1) (leAt header 0 4) found.flatten
  let t ← t.tryWrite ctx list (leBytes 4 n ++ leBytes 4 (leAt header 4 4 + dropped))
  let ix := [b.cluster / 8, b.cluster % 8]
  let e := if natBit (leAt d 2 1) 0 then 1 else 2
  let bytes := w * h * na * (leAt d 10 2 + 4) * e + 16 * (n - leAt header 0 4) + 8
  .ok ((t.countSat R.BOX_CNT_DROP ix dropped R.BOX_CNT_OVF ix 1).boxTraffic b (leAt d 0x10 8) (leAt d 0x28 8) bytes (16 * (n - leAt header 0 4) + 8))

/-- BOX_DECODE: the running call of a box unit, a DECODE, does its work. -/
def execBoxDecode (die : Fin 2) (cluster : Fin 8) (s : State) : Host.Outcome State Fault Refusal :=
  s.live fun s => s.onBox die.val cluster.val 1 s.boxDecodeWork

/-! ### NMS -/

/-- A coordinate or score of a record, as FP32. -/
def recHalf (r : List Byte) (o : Nat) : Word := toFp32 (fp16.decode (leAt r o 2))

/-- The order of R173: score descending, by the value of its FP16 code, then index ascending. -/
def nmsKey (r : List Byte) : List Nat :=
  let c := leAt r 8 2
  [if c < 32768 then 32768 - c else c, leAt r 12 4]

/-- IoU of two records. -/
def iou (p q : List Byte) : Word :=
  let area (r : List Byte) : Word := fmul (fsub (recHalf r 4) (recHalf r 0)) (fsub (recHalf r 6) (recHalf r 2))
  let span (lo hi : Nat) : Word :=
    fmax (fsub (fmin (recHalf p hi) (recHalf q hi)) (fmax (recHalf p lo) (recHalf q lo))) 0
  let inter := fmul (span 0 4) (span 2 6)
  let union := fsub (fadd (area p) (area q)) inter
  if (flOf union).isZero then 0 else fdiv inter union

/-- Keep a candidate unless a kept one suppresses it, until the maximum is kept. -/
def nmsKeep (byClass : Bool) (thr : Word) (maxKept : Nat) (kept : List (List Byte)) : List (List Byte) → List (List Byte)
  | [] => kept
  | r :: rs =>
    if maxKept ≤ kept.length then kept
    else
      let hit := kept.any fun k => (!byClass || leAt k 10 2 == leAt r 10 2) && (flOf thr).lt (flOf (iou k r))
      nmsKeep byClass thr maxKept (if hit then kept else kept ++ [r]) rs

/-- The work of an NMS: records first, the header last. -/
def State.boxNmsWork (s : State) (b : BoxCall) : Try State := do
  let d := b.desc
  let ctx := b.qid / 256
  let list := leAt d 0x10 8
  let out := leAt d 0x18 8
  let header ← s.tryRead ctx list 4
  let n := ofLe header
  let all ← (rangeFrom 0 n).mapM fun i => s.tryRead ctx (list + 16 + 16 * i) 16
  let thr := flOf (BitVec.ofNat 32 (leAt d 0x24 4))
  let good := all.filter fun r =>
    let v := flOf (recHalf r 8)
    !v.isNan && !thr.isNan && !v.lt thr
  let sorted := sortBy nmsKey good
  let truncated := decide (4096 < sorted.length)
  let kept := nmsKeep (leAt d 1 1 == 1) (BitVec.ofNat 32 (leAt d 0x20 4)) (leAt d 4 2) [] (sorted.take 4096)
  let t ← s.tryWrite ctx (out + 16) kept.flatten
  let t ← t.tryWrite ctx out
    (leBytes 4 kept.length ++ leBytes 4 good.length ++ leBytes 4 n ++ leBytes 4 (b2n truncated))
  let ix := [b.cluster / 8, b.cluster % 8]
  let t := t.boxTraffic b list out (4 + 16 * n + 16 * kept.length + 16) (16 * kept.length + 16)
  .ok (if truncated then t.countSat R.BOX_CNT_TRUNC ix 1 R.BOX_CNT_OVF ix 0 else t)

/-- BOX_NMS: the running call, an NMS, does its work. -/
def execBoxNms (die : Fin 2) (cluster : Fin 8) (s : State) : Host.Outcome State Fault Refusal :=
  s.live fun s => s.onBox die.val cluster.val 2 s.boxNmsWork

/-- BOX_CALL_END: a call whose work is done ends; its event counter is signalled, and a call that waited for room joins the
box unit (R168). -/
def execBoxCallEnd (die : Fin 2) (cluster : Fin 8) (clocks : Word) (s : State) : Host.Outcome State Fault Refusal :=
  s.live fun s =>
    let ix := [die.val, cluster.val]
    match s.boxRunning die.val cluster.val with
    | none => s
    | some b =>
      if b.done then
        let s := s.withBoxes (s.boxes.filter fun c => !(c.on die.val cluster.val && c.running))
        let s := (s.count R.BOX_CNT_CALLS ix 1).count R.BOX_BUSY_CLK ix clocks.toNat
        let s := ((s.signalAt b.core b.idx (boxEvent b.desc)).boxSchedule die.val cluster.val).boxAdmit die.val cluster.val
        s.drainEngines b.core b.idx
      else s

end Sys2Proof.Machine
end

