-- ==== Sys2Proof/Machine/Compose.lean ====
section
/-! DEFINITION. What a pipe shows: layers, composition, the gamma LUT and signatures (R222–R226, R234), and which pipe feeds
which output (R212, R230, R231). -/

namespace Sys2Proof.Machine

/-! ### Pipes and outputs -/

/-- The pipe whose stream an output takes (R212): after a takeover, pipe P4. -/
def State.sourceOf (s : State) (o : Nat) : Nat :=
  if (vecGet s.dsp.outs o EdpOut.reset).p4 then 4 else s.fld R.EDP_SRC [o] 2 0

/-- The outputs that take a pipe's stream: the one it drives and its mirrors (R230). -/
def State.outputsFed (s : State) (p : Nat) : List Nat :=
  (rangeFrom 0 4).filter fun o =>
    s.sourceOf o == p && (s.bit R.EDP_SRC [o] 3 || s.outputOf p == some o
      || (s.bit R.DSP_MAP [p] 2 && s.fld R.DSP_MAP [p] 1 0 == o))

/-! ### Shadow and applied values (R227) -/

/-- Is the register at an offset of a pipe's block shadowed? -/
def shadowedOffset (off : Nat) : Bool := within 0x40 0x73 off || within 0x100 0x1FF off || within 0x400 0x7FF off

/-- The shadow values of a pipe, by offset; reset values are not listed. -/
def State.shadowList (s : State) (p : Nat) : List (Nat × Word) :=
  let base := 0x100000 + 0x10000 * p
  (s.cfg.filter fun e => decide (base ≤ e.1) && decide (e.1 < base + 0x10000) && shadowedOffset (e.1 - base)).map fun e =>
    (e.1 - base, e.2)

/-! ### Layers (R222, R223) -/

/-- A layer as applied. -/
structure LayerView where
  on : Bool
  fmt : Nat
  premult : Bool
  galpha : Nat
  base : Nat
  pitch : Nat
  x : Nat
  y : Nat
  w : Nat
  h : Nat
  deriving DecidableEq, Repr

/-- Layer `i` in a list of applied values. -/
def layerOf (l : List (Nat × Word)) (p i : Nat) : LayerView :=
  let c := appliedOf l p R.DSP_L_CTRL [i]
  let pos := appliedOf l p R.DSP_L_POS [i]
  let size := appliedOf l p R.DSP_L_SIZE [i]
  { on := bits c 0 0 == 1, fmt := bits c 2 1, premult := bits c 3 3 == 1, galpha := bits c 15 8,
    base := (appliedOf l p R.DSP_L_BASE_LO [i]).toNat + 2 ^ 32 * bits (appliedOf l p R.DSP_L_BASE_HI [i]) 15 0,
    pitch := (appliedOf l p R.DSP_L_PITCH [i]).toNat, x := bits pos 12 0, y := bits pos 28 16, w := bits size 12 0,
    h := bits size 28 16 }

/-- Bytes of a pixel of a format (Table 9.3). -/
def fmtBytes (fmt : Nat) : Nat := if fmt = 0 then 2 else if fmt = 1 then 3 else 4

/-- Bytes from the first to past the last pixel of a layer's surface. -/
def LayerView.extent (l : LayerView) : Nat := l.pitch * (l.h - 1) + l.w * fmtBytes l.fmt

/-- Does a layer's rectangle hold a pixel? -/
def LayerView.holds (l : LayerView) (x y : Nat) : Bool :=
  decide (l.x ≤ x) && decide (x < l.x + l.w) && decide (l.y ≤ y) && decide (y < l.y + l.h)

/-- The synthesized layer of a list of applied values, if one is selected (R226). -/
def synLayerOf (l : List (Nat × Word)) (p : Nat) : Option Nat :=
  let c := appliedOf l p R.DSP_COMPOSE []
  if bits c 4 4 = 1 then some (bits c 3 1) else none

/-- A pixel's components. -/
structure Argb where
  a : Nat
  r : Nat
  g : Nat
  b : Nat
  deriving DecidableEq, Repr

/-- Table 9.3: a pixel from its bytes. -/
def argbOf (fmt v : Nat) : Argb :=
  match fmt with
  | 0 =>
    let r := v / 2048 % 32
    let g := v / 32 % 64
    let b := v % 32
    { a := 255, r := r * 8 + r / 4, g := g * 4 + g / 16, b := b * 8 + b / 4 }
  | 1 => { a := 255, r := v / 65536 % 256, g := v / 256 % 256, b := v % 256 }
  | 2 => { a := v / 2 ^ 24 % 256, r := v / 65536 % 256, g := v / 256 % 256, b := v % 256 }
  | _ => { a := 255, r := v / 65536 % 256, g := v / 256 % 256, b := v % 256 }

/-- The pixel of a fetched layer at (x, y) of the screen. -/
def State.layerPixel (s : State) (l : LayerView) (x y : Nat) : Argb :=
  argbOf l.fmt (s.le (l.base + (y - l.y) * l.pitch + (x - l.x) * fmtBytes l.fmt) (fmtBytes l.fmt))

/-! ### Composition (R224) -/

/-- div(x). -/
def div255 (x : Nat) : Nat := (x + 128 + (x + 128) / 256) / 256

/-- One component of a layer over a destination: `s` with effective alpha `a`, global alpha `g`. -/
def overComponent (premult : Bool) (s a g d : Nat) : Nat :=
  let s' := if premult then div255 (s * g) else div255 (s * a)
  min 255 (s' + div255 (d * (255 - a)))

/-- A layer's pixel over a destination. -/
def Argb.onto (c : Argb) (premult : Bool) (g : Nat) (d : Argb) : Argb :=
  let a := div255 (c.a * g)
  { a := 255, r := overComponent premult c.r a g d.r, g := overComponent premult c.g a g d.g,
    b := overComponent premult c.b a g d.b }

/-- A colour register. -/
def colorOf (w : Word) : Argb := { a := 255, r := bits w 23 16, g := bits w 15 8, b := bits w 7 0 }

/-- Is layer 6 or 7 assured (DSP_ASR)? -/
def State.assured (s : State) (p i : Nat) : Bool := (i == 6 || i == 7) && s.bit R.DSP_ASR [p] (i - 6)

/-- The layers of a pipe, bottom to top: general layers, then assured ones. -/
def State.layerOrder (s : State) (p : Nat) : List Nat :=
  ((rangeFrom 0 8).filter fun i => !s.assured p i) ++ ((rangeFrom 6 2).filter fun i => s.assured p i)

/-- The synthesized layer's pixel: the slice's, or the blanket colour where no final slice was fetched (R57, R226). -/
def State.synPixel (s : State) (p W x y : Nat) : Argb :=
  let blanket := colorOf (s.applied p R.DSP_BLANKET [])
  match (s.pipe p).shown.find? fun h => h.frame == s.rd R.DSP_FRAME [p] && decide (h.first ≤ y) && decide (y < h.first + h.lines) with
  | some h =>
    match h.pixels with
    | some px => argbOf 2 (ofLe ((rangeFrom (4 * ((y - h.first) * W + x)) 4).map (cellsGet px)))
    | none => blanket
  | none => blanket

/-- Does the pipe send the blanket colour over the whole active area (R231, R373, R389)? -/
def State.allBlanket (s : State) (p : Nat) : Bool :=
  s.bit R.DSP_STATUS [p] 2 || s.bit R.ERR_STATUS [] 0 || s.stopped

/-- The composited pixel at (x, y), before the LUT. -/
def State.composed (s : State) (p x y : Nat) : Argb :=
  let l := (s.pipe p).applied
  let W := (s.timing p).hActive
  (s.layerOrder p).foldl (fun d i =>
    let v := layerOf l p i
    if !v.on then d
    else if synLayerOf l p == some i then (s.synPixel p W x y).onto true v.galpha d
    else if v.holds x y then (s.layerPixel v x y).onto v.premult v.galpha d
    else d) (colorOf (s.applied p R.DSP_BGCOLOR []))

/-- The pixel as sent. -/
def State.sentPixel (s : State) (p x y : Nat) : Argb :=
  let hidden := (s.pipe p).underruns.any fun u => u.1 == y && decide (u.2 ≤ x)
  if s.allBlanket p || hidden then colorOf (s.applied p R.DSP_BLANKET [])
  else
    let c := s.composed p x y
    if bits (s.applied p R.DSP_COMPOSE []) 0 0 = 1 then
      let lut (v : Nat) : Word := s.applied p R.DSP_LUT [v]
      { a := 255, r := bits (lut c.r) 23 16, g := bits (lut c.g) 15 8, b := bits (lut c.b) 7 0 }
    else c

/-! ### Signatures (R234) -/

/-- The pixels of a rectangle in raster order; the ends are exclusive. -/
def raster (x0 y0 x1 y1 : Nat) : List (Nat × Nat) :=
  ((rangeFrom y0 (y1 - y0)).map fun y => (rangeFrom x0 (x1 - x0)).map fun x => (x, y)).flatten

/-- A component as a byte. -/
def compByte (n : Nat) : Byte := BitVec.ofNat 8 n

/-- The output signature: the window, limited to the active area. -/
def State.outSignature (s : State) (p : Nat) : Word :=
  let t := s.timing p
  let w0 := s.applied p R.DSP_SIG_WIN0 []
  let w1 := s.applied p R.DSP_SIG_WIN1 []
  let area := raster (bits w0 12 0) (bits w0 28 16) (min t.hActive (bits w1 12 0)) (min t.vActive (bits w1 28 16))
  crc32 ((area.map fun q =>
    let c := s.sentPixel p q.1 q.2
    [compByte c.r, compByte c.g, compByte c.b]).flatten)

/-- The signature of an assured layer: its displayed pixels. -/
def State.layerSignature (s : State) (p i : Nat) : Word :=
  let t := s.timing p
  let v := layerOf (s.pipe p).applied p i
  if !v.on then 0
  else
    crc32 (((raster v.x v.y (min t.hActive (v.x + v.w)) (min t.vActive (v.y + v.h))).map fun q =>
      let c := s.layerPixel v q.1 q.2
      [compByte c.b, compByte c.g, compByte c.r, compByte c.a]).flatten)

/-! ### The timing envelope (R218) -/

/-- Is the image sealed (R293)? -/
def State.sealed (s : State) : Bool := s.bit R.BRG_QZI_STATUS [] 2

/-- Does a timing meet a declared timing of an output? -/
def State.declaredMeets (s : State) (o : Nat) (t : Timing) : Bool :=
  (vecGet s.dsp.outs o EdpOut.reset).declared.any fun d =>
    d.hActive == t.hActive && d.vActive == t.vActive && decide (t.pclk * 1000 ≤ 1005 * d.pclk)
      && decide (t.pclk * 100 * (d.hTotal * d.vTotal) ≤ 102 * d.pclk * (t.hTotal * t.vTotal))

/-- The identity digest of an output. -/
def State.idDigest (s : State) (o : Nat) : List Byte :=
  ((rangeFrom 0 8).map fun i => beBytes 4 (s.rd R.EDP_ID_DIGEST [o, i]).toNat).flatten

/-- The image's envelope record of an output. -/
def State.envelopeOf (s : State) (o : Nat) : Option Envelope := (s.img.envelopes.find? fun e => e.1 == o).map (·.2)

/-- R218: does a timing lie in the envelope of an output? Before SEAL the image record does not apply. -/
def State.inEnvelope (s : State) (o : Nat) (t : Timing) : Bool :=
  let known := s.bit R.EDP_STATUS [o] 7
  t.valid &&
    if s.sealed then
      match s.envelopeOf o with
      | none => false
      | some e =>
        decide (t.hActive ≤ e.hActive) && decide (t.vActive ≤ e.vActive) && decide (t.pclk ≤ e.pclk)
          && decide (t.pclk * 1000 ≤ e.rate * (t.hTotal * t.vTotal)) && (!e.pin || e.digest == s.idDigest o)
          && (e.idSrc || (known && s.declaredMeets o t))
    else known && s.declaredMeets o t

/-- Link rate codes (EDP_CTRL `rate_max`), in bit/s per lane. -/
def linkRate : Nat → Nat
  | 0 => 1620000000
  | 1 => 2700000000
  | 2 => 5400000000
  | _ => 8100000000

/-- R220: can a link of 2^`lanes` lanes at a rate carry a timing? -/
def linkCarries (t : Timing) (lanes rate : Nat) : Bool :=
  decide (t.pclk * 24 * 1000 ≤ 792 * (2 ^ lanes * linkRate rate))

/-- Can the trained links that a pipe feeds carry a timing? -/
def State.linksCarry (s : State) (p : Nat) (t : Timing) : Bool :=
  (s.outputsFed p).all fun o =>
    !s.bit R.EDP_STATUS [o] 1 || linkCarries t (s.fld R.EDP_STATUS [o] 3 2) (s.fld R.EDP_STATUS [o] 5 4)

/-- Does a timing lie in the envelope of every output that a pipe feeds? -/
def State.pipeEnvelope (s : State) (p : Nat) (t : Timing) : Bool := (s.outputsFed p).all fun o => s.inEnvelope o t

end Sys2Proof.Machine
end

