-- ==== Sys2Proof/Machine/Display.lean ====
section
/-! DEFINITION. Display pipes: commits, the frame, underruns, the freeze detector, failure and takeover, latency tolerance
(R221, R227–R238, R351). -/

namespace Sys2Proof.Machine

/-! ### Events and interrupts of a pipe (R237) -/

/-- A pipe event: its frame counter, then what the event adds. -/
def State.pipeEvent (s : State) (p code : Nat) (more : List Byte) : State :=
  s.event 0x08 p code (leBytes 4 (s.rd R.DSP_FRAME [p]).toNat ++ more)

/-- An interrupt of DSP_IRQ_EN, in test mode: its status bit is set and its event sent. -/
def State.pipeIrq (s : State) (p bit code : Nat) : State :=
  if s.bit R.DSP_CTRL [p] 1 && s.bit R.DSP_IRQ_EN [p] bit then
    (s.setBit R.DSP_IRQ_STATUS [p] bit true).pipeEvent p code []
  else s

/-- A counter of a pipe, with its overflow bit. -/
def State.pipeCount (s : State) (p : Nat) (r : Reg) (bit : Nat) : State := s.countSat r [p] 1 R.DSP_CNT_OVF [p] bit

/-! ### The timing generator -/

/-- DSP_STATUS `running`. -/
def State.pipeRuns (s : State) (p : Nat) : Bool := s.bit R.DSP_STATUS [p] 0

/-- DSP_STATUS `env_valid` follows the applied timing and the envelope. -/
def State.envFlag (s : State) (p : Nat) : State := s.setBit R.DSP_STATUS [p] 5 ((s.timing p).valid && s.pipeEnvelope p (s.timing p))

/-- The flags of all pipes. -/
def State.envFlags (s : State) : State := (rangeFrom 0 5).foldl State.envFlag s

/-- BRG_READY `d0`–`d3` (R299): an output is trained and its pipe runs. -/
def State.displayReady (s : State) : State :=
  (rangeFrom 0 4).foldl (fun s o =>
    if s.bit R.EDP_STATUS [o] 1 && s.pipeRuns (s.sourceOf o) then s.setBit R.BRG_READY [] (4 + o) true else s) s

/-- The timing generator starts once the pipe is enabled with a valid applied timing and waits for no commit. -/
def State.pipeStart (s : State) (p : Nat) : State :=
  let x := s.pipe p
  if s.bit R.DSP_CTRL [p] 0 && !s.pipeRuns p && (s.timing p).valid && !x.needCommit && !x.genFailed then
    ((s.setPipe p { x with began := false, linePassed := false }).setBit R.DSP_STATUS [p] 0 true).displayReady
  else s

/-! ### Composed members (R230) -/

/-- Is a pipe a composed member of a clone group? Its clock and its SOA are its source's. -/
def State.follows (s : State) (m : Nat) : Bool := s.bit R.DSP_MAP [m] 7 && s.fld R.DSP_MAP [m] 6 4 != m

/-- The composed members of a pipe's group; after a takeover pipe P4 is the source (R231). -/
def State.followersOf (s : State) (p : Nat) : List Nat :=
  (rangeFrom 0 5).filter fun m =>
    s.follows m && (s.fld R.DSP_MAP [m] 6 4 == p || (p == 4 && s.dsp.replacing == some (s.fld R.DSP_MAP [m] 6 4)))

/-! ### Commits (R227–R229) -/

/-- Registers of the timing. -/
def timingRegs : List Reg := [R.DSP_TIMING_H, R.DSP_TIMING_H2, R.DSP_TIMING_V, R.DSP_TIMING_V2, R.DSP_PCLK]

/-- Does a list of values change a register of a pipe? -/
def State.changes (s : State) (p : Nat) (l : List (Nat × Word)) (r : Reg) (ix : List Nat) : Bool :=
  appliedOf l p r ix != s.applied p r ix

/-- 0x5: the fields of an enabled layer. -/
def layerGood (l : List (Nat × Word)) (p i : Nat) : Bool :=
  let v := layerOf l p i
  !v.on || synLayerOf l p == some i ||
    (v.base % 64 == 0 && v.pitch % 64 == 0 && decide (v.w * fmtBytes v.fmt ≤ v.pitch) && decide (1 ≤ v.w)
      && decide (v.w ≤ 5120) && decide (1 ≤ v.h) && decide (v.h ≤ 2880))

/-- R222: does a surface lie where layers are fetched from, DRAM or hub SRAM? -/
def State.fetchable (s : State) (a : Nat) : Bool :=
  match placeOf s.dev.assembly a with | .dram => true | .hub => true | _ => false

/-- The context on whose behalf a layer is fetched (R225). -/
def State.layerCtx (s : State) (p i : Nat) : Nat := if s.assured p i then s.fld R.DSP_ASR [p] 13 8 else s.fld R.DSP_MAP [p] 13 8

/-- 0x6: the surface of an enabled layer (R225). One outside DRAM and hub SRAM is refused with the same code (DESIGN CHOICE, log
38). -/
def State.layerGranted (s : State) (l : List (Nat × Word)) (p i : Nat) : Bool :=
  let v := layerOf l p i
  !v.on || synLayerOf l p == some i || (s.fetchable v.base && s.regionOk (s.layerCtx p i) v.base v.extent false)

/-- 0x7: a clone member's timing equals its source's (R230). -/
def State.cloneGood (s : State) (l : List (Nat × Word)) (p : Nat) : Bool :=
  !s.bit R.DSP_MAP [p] 7 || timingRegs.all fun r =>
    appliedOf l p r [] == s.applied (s.fld R.DSP_MAP [p] 6 4) r []

/-- Table 9.4: the code of the first test that fails, 0 when all pass. -/
def State.commitCode (s : State) (p : Nat) (l : List (Nat × Word)) : Nat :=
  let t := timingOf l p
  let layers := rangeFrom 0 8
  let synthesized := match s.outputOf p with | some o => s.bit R.SYN_CTRL [o] 0 | none => false
  if !t.valid then 1
  else if !s.pipeEnvelope p t then 2
  else if synthesized && timingRegs.any fun r => s.changes p l r [] then 3
  else if !s.linksCarry p t then 4
  else if !(layers.all fun i => layerGood l p i)
      || (match synLayerOf l p with | some i => decide (5 < i) | none => false) then 5
  else if !(layers.all fun i => s.layerGranted l p i) then 6
  else if !s.cloneGood l p then 7
  else 0

/-- R229: a refused commit. -/
def State.refuseCommit (s : State) (p code : Nat) : State :=
  let s := (s.setBit R.DSP_COMMIT [p] 19 true).setFld R.DSP_COMMIT [p] 23 20 code
  (s.pipeCount p R.DSP_CNT_REFUSED 2).pipeEvent p 0x07 (leBytes 1 code)

/-- R235: assured layers whose enable, base, position or size a list of values changes. -/
def State.assuredChanges (s : State) (p : Nat) (l : List (Nat × Word)) : Word :=
  let one (i : Nat) : Nat :=
    b2n (bits (appliedOf l p R.DSP_L_CTRL [i]) 0 0 != bits (s.applied p R.DSP_L_CTRL [i]) 0 0
      || [R.DSP_L_BASE_LO, R.DSP_L_BASE_HI, R.DSP_L_POS, R.DSP_L_SIZE].any fun r => s.changes p l r [i])
  BitVec.ofNat 32 (2 * one 6 + 4 * one 7)

/-- R229: does a list of values change a layer's base? -/
def State.isFlip (s : State) (p : Nat) (l : List (Nat × Word)) : Bool :=
  (rangeFrom 0 8).any fun i => s.changes p l R.DSP_L_BASE_LO [i] || s.changes p l R.DSP_L_BASE_HI [i]

/-- The PLL of a pipe relocks. -/
def State.loseLock (s : State) (p : Nat) : State := (s.setPipe p { s.pipe p with relock := true }).setBit R.DSP_STATUS [p] 1 false

/-- R221: a changed pixel clock makes the PLL relock, and those of composed members with it; a member's own clock is its
source's (R230). -/
def State.askRelock (s : State) (p : Nat) (l : List (Nat × Word)) : State :=
  if s.changes p l R.DSP_PCLK [] && !s.follows p then (p :: s.followersOf p).foldl State.loseLock s else s

/-- A commit takes effect. -/
def State.applyCommit (s : State) (p : Nat) (l : List (Nat × Word)) : State :=
  let x := s.pipe p
  let flip := s.isFlip p l
  let changed := s.assuredChanges p l
  let s := s.setPipe p { x with applied := l, latched := none, changed := changed, flip := false, needCommit := false }
  let s := s.envFlag p
  if flip then
    let s := ((s.poke R.DSP_FLIP_LO [p] (s.rd R.DSP_SOA_LO [p])).poke R.DSP_FLIP_HI [p] (s.rd R.DSP_SOA_HI [p])).poke
      R.DSP_FLIP_FRAME [p] (s.rd R.DSP_FRAME [p])
    if s.bit R.DSP_CTRL [p] 2 then s.pipeEvent p 0x01 [] else s
  else s

/-- A commit of a pipe whose timing generator does not run is checked, and takes effect, at once. -/
def State.commitNow (s : State) (p : Nat) : State :=
  let l := s.shadowList p
  let s := s.setBit R.DSP_COMMIT [p] 17 false
  match s.commitCode p l with
  | 0 => ((((s.setFld R.DSP_COMMIT [p] 23 20 0).askRelock p l).applyCommit p l)).pipeStart p
  | code => s.refuseCommit p code

/-- COMMIT_ARM (R227, R228): DSP_COMMIT is written with `go` = 1. -/
def execCommitArm (pipe : Fin 5) (value : Word) (s : State) : Host.Outcome State Fault Refusal :=
  s.live fun s =>
    let p := pipe.val
    let old := s.rd R.DSP_COMMIT [p]
    let s := s.poke R.DSP_COMMIT [p] ((old &&& ~~~(0xFFF ||| (value &&& 0xC0000))) ||| (value &&& 0xFFF))
    if s.bit R.DSP_COMMIT [p] 17 then s
    else if !s.pipeRuns p then s.commitNow p
    else
      let s := s.setBit R.DSP_COMMIT [p] 17 true
      if (s.pipe p).linePassed then
        ((s.setBit R.DSP_COMMIT [p] 18 true).pipeCount p R.DSP_CNT_LATE 1).pipeEvent p 0x08 []
      else s

/-- The commit line of a pipe (R228). -/
def State.commitLine (s : State) (p : Nat) : Nat :=
  let c := s.fld R.DSP_COMMIT [p] 11 0
  let t := s.timing p
  if t.vTotal ≤ c then t.vActive else c

/-- COMMIT_LINE (R228): the declaration is latched (R235), and an armed commit is checked and latched, or refused. -/
def execCommitLine (pipe : Fin 5) (s : State) : Host.Outcome State Fault Refusal :=
  s.live fun s =>
    let p := pipe.val
    if !s.pipeRuns p then s
    else
      let x := s.pipe p
      let s := s.setPipe p { x with linePassed := true, declNext := x.declared, declared := 0 }
      let s := s.setFld R.DSP_STATUS [p] 19 8 (s.commitLine p)
      if s.bit R.DSP_COMMIT [p] 17 then
        let l := s.shadowList p
        let s := s.setBit R.DSP_COMMIT [p] 17 false
        match s.commitCode p l with
        | 0 =>
          let s := (s.setFld R.DSP_COMMIT [p] 23 20 0).askRelock p l
          s.setPipe p { s.pipe p with latched := some l }
        | code => s.refuseCommit p code
      else s

/-- DSP_DECLARE (R235). -/
def execDspDeclare (pipe : Fin 5) (value : Word) (s : State) : Host.Outcome State Fault Refusal :=
  s.live fun s => s.setPipe pipe.val { s.pipe pipe.val with declared := value &&& 7 }

/-- A PLL that relocks has locked. -/
def State.gainLock (s : State) (p : Nat) : State :=
  if (s.pipe p).relock then (s.setPipe p { s.pipe p with relock := false }).setBit R.DSP_STATUS [p] 1 true else s

/-- PCLK_RELOCK (R221): the PLL has locked, and those of composed members with it (R230). -/
def execPclkRelock (pipe : Fin 5) (s : State) : Host.Outcome State Fault Refusal :=
  s.awake fun s =>
    let p := pipe.val
    if (s.pipe p).relock then (p :: s.followersOf p).foldl State.gainLock s else s

/-! ### Frame lock (R351) -/

/-- The highest pixel clock that the envelope of an output lets a timing have, Hz. -/
def State.maxClock (s : State) (o : Nat) (t : Timing) : Nat :=
  let total := t.hTotal * t.vTotal
  let rec_ := if s.sealed then s.envelopeOf o else none
  let image := match rec_ with
    | some e => min e.pclk (e.rate * total / 1000)
    | none => 800000000
  let declared := match rec_ with
    | some e => if e.idSrc then 800000000 else 0
    | none => 0
  let one (d : Declared) : Nat :=
    if d.hActive = t.hActive ∧ d.vActive = t.vActive ∧ d.hTotal * d.vTotal ≠ 0 then
      min (1005 * d.pclk / 1000) (102 * d.pclk * total / (100 * (d.hTotal * d.vTotal)))
    else 0
  let best := ((vecGet s.dsp.outs o EdpOut.reset).declared.map one).foldl max declared
  min 800000000 (min image best)

/-- Signed parts per billion as a word. -/
def ppbWord (i : Int) : Word := satWord i

/-- The error of an SOA against the grid, in 2^-32 ns, in (−period/2, period/2]. -/
def gridError (t start : Int) (period : Nat) : Int :=
  let r := (t - start) % (period : Int)
  if 2 * r ≤ period then r else r - period

/-- R351: at an SOA, the trim of a frame-locked pipe and its lock flag. -/
def State.frameLock (s : State) (p : Nat) : State :=
  if !s.bit R.TIM_FLK_CTRL [p] 0 then s
  else
    let period := nsTb (s.rd R.TIM_FLK_PERIOD [p]).toNat + (s.rd R.TIM_FLK_FRAC [p]).toNat
    if period = 0 then s
    else
      let t := s.timing p
      let e := gridError (s.tb : Int) (nsTb (s.rd64 R.TIM_FLK_START_LO R.TIM_FLK_START_HI [p]) : Int) period
      let pull : Int := 1000 * max 1 (min 1000 (s.fld R.TIM_FLK_CTRL [p] 17 8))
      let want := clampInt (-pull) pull (e * 1000000000 / (16 * (max 1 t.frame : Nat)))
      let x := s.pipe p
      let step := clampInt (x.trim - 100000) (x.trim + 100000) want
      let top := (s.outputsFed p).map fun o => s.maxClock o t
      let room : List Int := (800000000 :: top).map fun (m : Nat) => ((m : Int) - t.pclk) * 1000000000 / (max 1 t.pclk : Nat)
      let trim := room.foldl min step
      let s := s.setPipe p { x with trim := trim }
      let s := s.poke R.TIM_FLK_TRIM [p] (ppbWord trim)
      let ns := e.tdiv (2 ^ 32)
      let s := s.poke R.TIM_FLK_ERR [p] (satWord ns)
      let mag := e.natAbs
      let good := if mag ≤ nsTb 20 then vecGet s.tim.flkGood p 0 + 1 else 0
      let s := s.withTim { s.tim with flkGood := vecSet s.tim.flkGood p good }
      let locked := s.bit R.TIM_FLK_CTRL [p] 1
      let tell (s : State) (code : Nat) : State :=
        if s.bit R.TIM_CTRL [] 5 then s.event 0x03 p code (leBytes 4 p ++ leBytes 4 (twosNat 32 ns)) else s
      if !locked && decide (8 ≤ good) then tell (s.setBit R.TIM_FLK_CTRL [p] 1 true) 0x06
      else if locked && decide (nsTb 200 < mag) then tell (s.setBit R.TIM_FLK_CTRL [p] 1 false) 0x07
      else s

/-! ### The frame -/

/-- The start of active of a pipe's next frame: its counter and time-stamp. -/
def State.soaStamp (s : State) (p : Nat) : State :=
  let x := s.pipe p
  let s := s.setPipe p { x with nextFrame := x.nextFrame + 1, began := true, linePassed := false }
  let s := (s.poke R.DSP_FRAME [p] x.nextFrame).poke64 R.DSP_SOA_LO R.DSP_SOA_HI [p] s.now
  (s.setBit R.DSP_STATUS [p] 4 false).setFld R.DSP_STATUS [p] 19 8 0

/-- The rest of an SOA: a latched commit takes effect, the declaration becomes that of the frame, the frame lock acts, and
SYN takes the time-stamp. -/
def State.soaEffects (s : State) (p : Nat) : State :=
  let x := s.pipe p
  let s := s.setPipe p { x with declNow := x.declNext, declNext := 0, changed := 0, underruns := [],
                                wasInvalid := x.invalid, invalid := 0 }
  let s := match x.latched with
    | some l => s.applyCommit p l
    | none => s
  let s := s.frameLock p
  match s.outputOf p with
  | some o => s.synSoa o (s.rd R.DSP_FRAME [p])
  | none => s

/-- The SOA of one pipe: a frame starts, unless the PLL relocks or the pipe stops at the end of the frame before (R221, R294); a
commit that was armed too late for that frame is then checked at once. -/
def State.frameStart (s : State) (p : Nat) : State :=
  let x := s.pipe p
  if !s.pipeRuns p || x.relock || x.genFailed then s
  else if x.stopAtEnd then
    let s := (s.setPipe p { x with stopAtEnd := false, needCommit := true }).setBit R.DSP_STATUS [p] 0 false
    if s.bit R.DSP_COMMIT [p] 17 then s.commitNow p else s
  else if s.stopped then s.soaStamp p
  else (s.soaStamp p).soaEffects p

/-- SOA_ARRIVAL (R39, R228): a frame of a pipe starts, and with it one of each composed member (R230), which has no SOA of its
own. -/
def execSoaArrival (pipe : Fin 5) (s : State) : Host.Outcome State Fault Refusal :=
  s.awake fun s => if s.follows pipe.val then s else (pipe.val :: s.followersOf pipe.val).foldl State.frameStart s

/-- VBLANK_START (R237). -/
def execVblankStart (pipe : Fin 5) (s : State) : Host.Outcome State Fault Refusal :=
  s.live fun s =>
    let p := pipe.val
    if s.pipeRuns p then
      ((s.setBit R.DSP_STATUS [p] 4 true).setFld R.DSP_STATUS [p] 19 8 (s.timing p).vActive).pipeIrq p 0 0x10
    else s

/-- LINE_MATCH (R237). -/
def execLineMatch (pipe : Fin 5) (s : State) : Host.Outcome State Fault Refusal :=
  s.live fun s =>
    let p := pipe.val
    if s.pipeRuns p then
      (s.setFld R.DSP_STATUS [p] 19 8 (s.fld R.DSP_LINE_MATCH [p] 11 0)).pipeIrq p 1 0x11
    else s

/-- LINE_UNDERRUN (R232): the rest of the line is blanket; a line with pixels of an assured layer makes that layer's
signature invalid. -/
def execLineUnderrun (pipe : Fin 5) (line : BitVec 12) (x : BitVec 13) (s : State) : Host.Outcome State Fault Refusal :=
  s.live fun s =>
    let p := pipe.val
    let y := line.toNat
    let d := s.pipe p
    let t := s.timing p
    if !s.pipeRuns p || !(decide (y < t.vActive)) || !(decide (x.toNat < t.hActive))
        || d.underruns.any (fun u => u.1 == y) then s
    else
      let hit (i : Nat) : Bool :=
        let v := layerOf d.applied p i
        s.assured p i && v.on && decide (v.y ≤ y) && decide (y < v.y + v.h) && decide (v.x < t.hActive) && decide (1 ≤ v.w)
      let bad := b2n (hit 6) + 2 * b2n (hit 7)
      let s := s.setPipe p { d with underruns := d.underruns ++ [(y, x.toNat)],
                                    invalid := d.invalid ||| BitVec.ofNat 32 bad }
      let s := ((s.setFld R.DSP_STATUS [p] 19 8 y).pipeCount p R.DSP_CNT_UNDERRUN 0).pmcAdd 8 p 1 none 1
      let s := if bad ≠ 0 then s.pipeEvent p 0x03 [] else s
      s.pipeIrq p 3 0x13

/-! ### The end of a frame's active lines (R234–R236) -/

/-- R235: was a change of the output window expected in the present frame? -/
def State.windowDeclared (s : State) (p : Nat) : Bool :=
  match s.outputOf p with
  | some o =>
    if s.synOn o then
      match s.frameRec o (s.rd R.DSP_FRAME [p]) with
      | some f => f.change
      | none => false
    else (s.pipe p).declNow.getLsbD 0
  | none => (s.pipe p).declNow.getLsbD 0

/-- R235: the freeze detector takes the output signature of a frame. -/
def State.freezeTest (s : State) (p : Nat) (sig : Word) : State :=
  let x := s.pipe p
  let cfg := s.applied p R.DSP_FRZ_CFG []
  let same := x.prevOut == some sig
  let s := if same || x.prevOut.isNone then s else s.setBit R.DSP_SIG_STATUS [p] 8 false
  let s := s.setPipe p { x with prevOut := some sig }
  if bits cfg 8 8 = 0 then s
  else if same && s.windowDeclared p then
    let limit := if bits cfg 7 0 = 0 then 4 else bits cfg 7 0
    let run := s.fld R.DSP_SIG_STATUS [p] 7 0 + 1
    let s := s.setFld R.DSP_SIG_STATUS [p] 7 0 (min run 255)
    if run = limit then
      ((s.setBit R.DSP_SIG_STATUS [p] 8 true).pipeCount p R.DSP_CNT_FREEZE 3).pipeEvent p 0x04 []
    else s
  else s.setFld R.DSP_SIG_STATUS [p] 7 0 0

/-- R234, R236: the signature of an assured layer (6 or 7), the test for a change that no one declared, and the comparison
with the expected signature. -/
def State.assuredTest (s : State) (p i : Nat) : State :=
  let x := s.pipe p
  let k := i - 6
  let asr := s.assured p i
  let sig := s.layerSignature p i
  let valid := asr && !x.invalid.getLsbD k
  let s := s.setBit R.DSP_SIG_STATUS [p] (9 + k) valid
  if !asr then s
  else
    let s := s.poke (if i = 6 then R.DSP_SIG_L6 else R.DSP_SIG_L7) [p] sig
    let prev := if i = 6 then x.prev6 else x.prev7
    let declared := (x.declNow ||| x.changed).getLsbD (1 + k)
    let moved := match prev with | some v => v != sig | none => false
    let s := if valid && !x.wasInvalid.getLsbD k && moved && !declared then
        (s.pipeCount p R.DSP_CNT_UNEXP 4).pipeEvent p 0x05 (leBytes 1 i)
      else s
    let s := if valid then
        s.setPipe p (if i = 6 then { s.pipe p with prev6 := some sig } else { s.pipe p with prev7 := some sig })
      else s
    let want := s.applied p (if i = 6 then R.DSP_SIG_EXP6 else R.DSP_SIG_EXP7) []
    if bits (s.applied p R.DSP_FRZ_CFG []) (9 + k) (9 + k) = 1 && (!valid || sig != want) then
      (s.pipeCount p R.DSP_CNT_SIGMIS 5).pipeEvent p 0x06 (leBytes 1 i)
    else s

/-- R18: the lines that a pipe has fetched for a frame pass the regulators of the partitions of their contexts. -/
def State.fetchTraffic (s : State) (p : Nat) : State :=
  let t := s.timing p
  (rangeFrom 0 8).foldl (fun s i =>
    let v := layerOf (s.pipe p).applied p i
    if !v.on || synLayerOf (s.pipe p).applied p == some i then s
    else
      let part := s.ctxPart (s.layerCtx p i)
      let n := (min t.hActive (v.x + v.w) - v.x) * fmtBytes v.fmt
      (rangeFrom 0 (min t.vActive (v.y + v.h) - v.y)).foldl (fun s j => s.hubRead part (v.base + j * v.pitch) n) s) s

/-- FRAME_ACTIVE_END (R234): the last active line has been sent. -/
def execFrameActiveEnd (pipe : Fin 5) (s : State) : Host.Outcome State Fault Refusal :=
  s.live fun s =>
    let p := pipe.val
    let x := s.pipe p
    if !s.pipeRuns p || !x.began then s
    else
      let sig := s.outSignature p
      let s := ((s.fetchTraffic p).poke R.DSP_SIG_OUT [p] sig).freezeTest p sig
      let s := (s.assuredTest p 6).assuredTest p 7
      let s := if !x.underruns.isEmpty && s.bit R.DSP_CTRL [p] 3 then
          s.pipeEvent p 0x02 (leBytes 4 x.underruns.length)
        else s
      let s := s.pipeIrq p 2 0x12
      let s := match s.outputOf p with
        | some o => s.originRecord o (s.rd R.DSP_FRAME [p])
        | none => s
      s.setPipe p { s.pipe p with shown := (s.pipe p).shown.filter fun y => after32 y.frame (s.rd R.DSP_FRAME [p]) }

/-! ### Failure and takeover (R231) -/

/-- Table 2.11: slices of the frames in progress are blanket, the last complete output is gone, and releases go on from the
next frame boundary. -/
def State.synTakeover (s : State) (o : Nat) : State :=
  let x := s.out o
  let blank (f : FrameRec) : FrameRec :=
    if f.recorded then f
    else { f with spoiled := true, origins := (rangeFrom 0 (s.synS o)).map fun n => (n, 3) }
  let close (r : SliceRun) : SliceRun := { r with origin := some 3, window := false, direct := false, final := false }
  let skip := x.nextSlice != 0
  let s := s.setOut o { x with
    frames := x.frames.map blank
    runs := x.runs.map close
    nextFrame := if skip then x.nextFrame + 1 else x.nextFrame
    nextSlice := 0 }
  s.discardLco o

/-- R231: pipe P4 leaves its clone role: the output it fed mirrors its source. -/
def State.leaveClone (s : State) : State :=
  if s.bit R.DSP_MAP [4] 7 then
    let src := s.fld R.DSP_MAP [4] 6 4
    let s := if s.bit R.DSP_MAP [4] 2 then
        let o := s.fld R.DSP_MAP [4] 1 0
        (s.setFld R.EDP_SRC [o] 2 0 src).setBit R.EDP_SRC [o] 3 true
      else s
    (s.setBit R.DSP_MAP [4] 7 false).setBit R.DSP_MAP [4] 2 false
  else s

/-- R231: the hub copies a failed pipe's applied registers and frame counter into pipe P4, whose PLL then locks. -/
def State.copyToP4 (s : State) (p : Nat) : State :=
  let x := s.pipe p
  let keep := s.cfg.filter fun e => !(decide (0x140000 ≤ e.1) && decide (e.1 < 0x150000) && shadowedOffset (e.1 - 0x140000))
  let cfg := x.applied.foldl (fun c e => cfgSet c (0x140000 + e.1) e.2) keep
  let s := s.withCfg cfg
  let s := [R.DSP_CTRL, R.DSP_ASR, R.DSP_LINE_MATCH, R.DSP_IRQ_EN].foldl (fun s r => s.poke r [4] (s.rd r [p])) s
  let s := s.setFld R.DSP_COMMIT [4] 11 0 (s.fld R.DSP_COMMIT [p] 11 0)
  let s := s.setPipe 4 { DspPipe.reset with applied := x.applied, nextFrame := x.nextFrame, relock := true }
  ((s.poke R.DSP_FRAME [4] (s.rd R.DSP_FRAME [p])).setBit R.DSP_STATUS [4] 1 false).setBit R.DSP_STATUS [4] 0 false

/-- R231: pipe P4 takes the place of a failed pipe whose `to_en` is 1, unless it has replaced one or has failed. -/
def State.startTakeover (s : State) (p : Nat) : State :=
  if p < 4 && s.bit R.DSP_MAP [p] 3 && s.dsp.takeover.isNone && s.dsp.replacing.isNone && !s.bit R.DSP_STATUS [4] 2 then
    let s := s.leaveClone.copyToP4 p
    (s.withDsp { s.dsp with takeover := some (p, s.now) })
  else s

/-- PIPE_FAIL (R231, R238). -/
def execPipeFail (pipe : Fin 5) (fault : PipeFault) (s : State) : Host.Outcome State Fault Refusal :=
  s.awake fun s =>
    let p := pipe.val
    if s.bit R.DSP_STATUS [p] 2 || s.pwr.gated.contains (.pipe p) then s
    else
      let x := s.pipe p
      let pendingCommit := s.bit R.DSP_COMMIT [p] 17 || x.latched.isSome
      let gen := fault == .timing
      let s := s.setPipe p { x with latched := none, genFailed := gen, relock := false }
      let s := (s.setBit R.DSP_STATUS [p] 2 true).setBit R.DSP_COMMIT [p] 17 false
      let s := if gen then s.setBit R.DSP_STATUS [p] 0 false else s
      let s := if pendingCommit then s.pipeCount p R.DSP_CNT_REFUSED 2 else s
      let s := s.raise { cls := 0, code := 0x0D, unit := hubUnit (0x100000 + 0x10000 * p) }
      let s := s.pipeEvent p 0x09 []
      s.startTakeover p

/-- TAKEOVER_SWITCH (R231): the output switches to pipe P4, at the first SOA at least 500 µs after the failure, or once
locked where the timing generator failed. -/
def execTakeoverSwitch (s : State) : Host.Outcome State Fault Refusal :=
  s.awake fun s =>
    match s.dsp.takeover with
    | none => s
    | some (p, at_) =>
      if s.bit R.DSP_STATUS [4] 2 || (s.pipe 4).relock || (!(s.pipe p).genFailed && decide (s.now < at_ + 500000)) then s
      else
        let fed := s.outputsFed p
        let own := s.outputOf p
        let s := s.withDsp { s.dsp with takeover := none, replacing := some p }
        let s := fed.foldl (fun s o =>
          s.withDsp { s.dsp with outs := vecSet s.dsp.outs o { vecGet s.dsp.outs o EdpOut.reset with p4 := true } }) s
        let s := s.setPipe 4 { s.pipe 4 with nextFrame := (s.pipe p).nextFrame }
        let s := (((s.setBit R.DSP_STATUS [p] 3 true).setBit R.DSP_STATUS [4] 0 true).envFlag 4).displayReady
        let s := match own with
          | some o => ((s.setBit R.WRP_STATUS [p] 1 false).discardLco o).synTakeover o
          | none => s
        s.pipeEvent p 0x0A []

/-! ### Latency tolerance (R233) -/

/-- Lines from the start of `line` to the first line of a layer (lines y0 … y0 + h − 1 of `vTotal`) that is not among the
next `held` lines of it in scan order. -/
def missDistance (line y0 h vTotal held : Nat) : Nat :=
  let first := max y0 line
  let left := y0 + h - first
  if held < left then first + held - line
  else
    let k := held - left
    (1 + k / h) * vTotal + y0 + k % h - line

/-- R233: whole lines of a layer that the fetch buffer of 1 MiB can hold: 128 KiB for an enabled assured layer, and for a general
one an equal share of what those leave. -/
def State.bufferLines (s : State) (p i : Nat) : Nat :=
  let l := (s.pipe p).applied
  let v := layerOf l p i
  let fetched := (rangeFrom 0 8).filter fun j => (layerOf l p j).on && synLayerOf l p != some j
  let assured := (fetched.filter (s.assured p)).length
  let share := if s.assured p i then 131072 else (1048576 - 131072 * assured) / (fetched.length - assured)
  share / ((min (s.timing p).hActive (v.x + v.w) - v.x) * fmtBytes v.fmt)

/-- LTOL_REPORT (R233): the latency tolerance of a pipe; `buffered` counts the lines of each layer held, in scan order, of which
the fetch buffer holds no more than its share. -/
def execLtolReport (pipe : Fin 5) (line : BitVec 12) (buffered : Vector Nat 8) (s : State) :
    Host.Outcome State Fault Refusal :=
  s.live fun s =>
    let p := pipe.val
    if !s.pipeRuns p then s.poke R.DSP_LTOL [p] 0xFFFF
    else
      let t := s.timing p
      let l := (s.pipe p).applied
      let tLine := t.frame / t.vTotal
      let times : List Int := (rangeFrom 0 8).filterMap fun i =>
        let v := layerOf l p i
        let h := min t.vActive (v.y + v.h) - v.y
        if v.on && synLayerOf l p != some i && decide (0 < h) && decide (v.x < t.hActive) && decide (0 < v.w) then
          some ((missDistance line.toNat v.y h t.vTotal (min (s.bufferLines p i) (vecGet buffered i 0)) * tLine
            + v.x * 1000000000 * 2 ^ 32 / t.pclk : Nat) : Int)
        else none
      let syn : List Int := match s.outputOf p with
        | some o =>
          if s.bit R.SYN_CTRL [o] 0 then
            let spare := (s.fld R.SYN_ENTRIES [o] 7 0 : Int) - s.fld R.SYN_ENTRIES [o] 15 8
            [((s.fld R.SYN_MARGIN [o] 17 0 : Int) - s.warpLargest o) * 2 ^ 32, spare * s.nominalSlice o]
          else []
        | none => []
      let least := (times ++ syn).foldl min ((0xFFFF * 100 * 2 ^ 32 : Nat) : Int)
      s.poke R.DSP_LTOL [p] (BitVec.ofNat 32 (least.toNat / (100 * 2 ^ 32)))

end Sys2Proof.Machine
end

