-- ==== Sys2Proof/Machine/Edp.lean ====
section
/-! DEFINITION. The eDP outputs: link training, panel identity, AUX transactions (R213–R220, Tables 9.1, 9.8). The outputs
run on while the device is stopped (R389). -/

namespace Sys2Proof.Machine

/-! ### Panel identity (R217)

The layout of EDID blocks and of DisplayID extensions is that of the VESA standards that R217 names (PRESUMED, log 30). -/

/-- Byte `i` of a block. -/
def byteAt (b : List Byte) (i : Nat) : Nat := ((b[i]?).getD 0).toNat

/-- Does the checksum of a 128-byte block hold? -/
def blockGood (b : List Byte) : Bool := b.length == 128 && (b.map (·.toNat)).sum % 256 == 0

/-- The blocks read, and whether each one's checksum holds: a bad or missing block ends the read. -/
def edidBlocks : Nat → List Byte → List (List Byte × Bool)
  | 0, _ => []
  | n + 1, bs =>
    let b := bs.take 128
    if b.isEmpty then []
    else if blockGood b then (b, true) :: edidBlocks n (bs.drop 128)
    else [(b, false)]

/-- Block 0 and up to three extension blocks, 512 bytes at most. -/
def identityBlocks (edid : List Byte) : List (List Byte × Bool) :=
  edidBlocks (1 + min 3 (byteAt (edid.take 128) 126)) edid

/-- The detailed timing descriptor at an offset of block 0. -/
def detailedTiming (b : List Byte) (o : Nat) : Option Declared :=
  let clock := leAt b o 2
  if clock = 0 then none
  else
    let h := byteAt b (o + 2) + 256 * (byteAt b (o + 4) / 16)
    let hb := byteAt b (o + 3) + 256 * (byteAt b (o + 4) % 16)
    let v := byteAt b (o + 5) + 256 * (byteAt b (o + 7) / 16)
    let vb := byteAt b (o + 6) + 256 * (byteAt b (o + 7) % 16)
    some { hActive := h, vActive := v, pclk := clock * 10000, hTotal := h + hb, vTotal := v + vb }

/-- One Type I (10 kHz) or Type VII (1 kHz) detailed timing. -/
def longTiming (d : List Byte) (unit : Nat) : Declared :=
  let h := leAt d 4 2 + 1
  let v := leAt d 12 2 + 1
  { hActive := h, vActive := v, pclk := (leAt d 0 3 + 1) * unit, hTotal := h + leAt d 6 2 + 1,
    vTotal := v + leAt d 14 2 + 1 }

/-- The timings in the payload of a data block, 20 bytes each. -/
def longTimings (unit : Nat) : Nat → List Byte → List Declared
  | 0, _ => []
  | n + 1, d => if d.length < 20 then [] else longTiming d unit :: longTimings unit n (d.drop 20)

/-- The timings in the data blocks of a DisplayID section. -/
def displayIdTimings : Nat → List Byte → List Declared
  | 0, _ => []
  | n + 1, d =>
    if d.length < 3 then []
    else
      let tag := byteAt d 0
      let len := byteAt d 2
      let payload := (d.drop 3).take len
      let here := if tag = 0x03 then longTimings 10000 13 payload
        else if tag = 0x22 then longTimings 1000 13 payload
        else []
      if tag = 0 ∧ len = 0 then [] else here ++ displayIdTimings n (d.drop (3 + len))

/-- The declared timings of an extension block. -/
def extensionTimings (b : List Byte) : List Declared :=
  if byteAt b 0 = 0x70 then displayIdTimings 42 ((b.drop 5).take (byteAt b 2)) else []

/-- The declared timings of the blocks read, at most 8, in the order read. -/
def declaredTimings (blocks : List (List Byte × Bool)) : List Declared :=
  match (blocks.filter (·.2)).map (·.1) with
  | [] => []
  | b :: ext => ((([54, 72, 90, 108].filterMap (detailedTiming b)) ++ (ext.map extensionTimings).flatten).take 8)

/-- An output. -/
def State.edp (s : State) (o : Nat) : EdpOut := vecGet s.dsp.outs o EdpOut.reset

/-- Change an output. -/
def State.setEdp (s : State) (o : Nat) (x : EdpOut) : State :=
  s.withDsp { s.dsp with outs := vecSet s.dsp.outs o x }

/-- Show one declared timing in EDP_ID_TIMt and EDP_ID_PCLKt. -/
def State.showTiming (s : State) (o t : Nat) (d : Option Declared) : State :=
  match d with
  | some d => (s.poke R.EDP_ID_TIM [o, t] (BitVec.ofNat 32 (d.hActive % 2 ^ 13 + 2 ^ 16 * (d.vActive % 2 ^ 13)))).poke
      R.EDP_ID_PCLK [o, t] (BitVec.ofNat 32 (d.pclk % 2 ^ 30))
  | none => (s.poke R.EDP_ID_TIM [o, t] 0).poke R.EDP_ID_PCLK [o, t] 0

/-- IDENTITY_READ (R217). -/
def State.identityRead (s : State) (o : Nat) (edid : List Byte) : State :=
  let blocks := identityBlocks edid
  let ts := declaredTimings blocks
  let digest := shaWords (sha256 (blocks.map (·.1)).flatten)
  let s := s.setEdp o { s.edp o with declared := ts }
  let s := (rangeFrom 0 8).foldl (fun s t => s.showTiming o t ts[t]?) s
  let s := (rangeFrom 0 8).foldl (fun s i => s.poke R.EDP_ID_DIGEST [o, i] ((digest[i]?).getD 0)) s
  (s.poke R.EDP_ID_COUNT [o] (BitVec.ofNat 32 ts.length)).setBit R.EDP_STATUS [o] 7
    (match blocks with | (_, good) :: _ => good | [] => false)
where
  /-- A digest as words, most significant first. -/
  shaWords (d : List Byte) : List Word := (rangeFrom 0 8).map fun i => BitVec.ofNat 32 (ofBe ((d.drop (4 * i)).take 4))

/-- ENVELOPE_FAULT (R238): after a new identity, each pipe that feeds the output finds its applied timing inside or outside
the envelope. -/
def State.envelopeTest (s : State) (o : Nat) : State :=
  (rangeFrom 0 5).foldl (fun s p =>
    if (s.outputsFed p).contains o then
      let before := s.bit R.DSP_STATUS [p] 5
      let t := s.envFlag p
      if before && !t.bit R.DSP_STATUS [p] 5 then t.pipeEvent p 0x0B [] else t
    else s) s

/-! ### Training (R214, R215) -/

/-- The sequencer starts, or starts again; until the panel answers it waits, for HPD where that is low. -/
def State.trainStart (s : State) (o : Nat) (sink : Option SinkAnswer) : State :=
  let panel := sink.map fun (a : SinkAnswer) =>
    ({ edid := a.edid, dpcd := a.dpcd.map fun d => (d.1.val, d.2.1.val, d.2.2) } : Panel)
  let s := s.setEdp o { s.edp o with panel := panel, again := (s.edp o).again || s.bit R.EDP_STATUS [o] 1 }
  let s := (((s.setBit R.EDP_STATUS [o] 1 false).setBit R.EDP_STATUS [o] 6 false).setFld R.EDP_STATUS [o] 11 8 0).setBit
    R.EDP_STATUS [o] 12 true
  match panel with
  | none => s
  | some a => ((s.setBit R.EDP_STATUS [o] 0 true).identityRead o a.edid).envelopeTest o

/-- AUX transactions that waited for the training are sent (R216), and the panel's answers are used up. -/
def State.trainStop (s : State) (o : Nat) : State :=
  let x := s.edp o
  let s := s.setEdp o { x with panel := none, again := false, aux := x.aux.map fun a => { a with sent := true } }
  let s := s.setBit R.EDP_STATUS [o] 12 false
  if x.again then s.pipeEvent (s.sourceOf o) 0x0C [] else s

/-- Training ends with a fault code of Table 9.1. -/
def State.trainFail (s : State) (o code : Nat) : State := (s.setFld R.EDP_STATUS [o] 11 8 code).trainStop o

/-- TRAIN (R215): EDP_CTRL is written with `train` = 1. A sequencer that waits goes on with the panel that the command
brings. -/
def execTrain (output : Fin 4) (value : Word) (sink : Option SinkAnswer) (s : State) :
    Host.Outcome State Fault Refusal :=
  s.awake fun s =>
    let o := output.val
    let s := s.poke R.EDP_CTRL [o] (value &&& 0xFD)
    if s.bit R.EDP_STATUS [o] 12 && ((s.edp o).panel.isSome || sink.isNone) then s else s.trainStart o sink

/-- HPD_WAIT_TIMEOUT (R215). -/
def execHpdWaitTimeout (output : Fin 4) (s : State) : Host.Outcome State Fault Refusal :=
  s.awake fun s =>
    let o := output.val
    if s.bit R.EDP_STATUS [o] 12 && !s.bit R.EDP_STATUS [o] 0 then s.trainFail o 1 else s

/-- The lane counts and rates that the sequence tries, in order: one rate lower each time, then half the lanes at the
starting rate. -/
def trainingTries (lanes rate : Nat) : List (Nat × Nat) :=
  ((rangeFrom 0 (lanes + 1)).map fun l => (rangeFrom 0 (rate + 1)).map fun r => (lanes - l, rate - r)).flatten

/-- TRAIN_END (R215): training ends with a link, or with the code of Table 9.1. -/
def execTrainEnd (output : Fin 4) (failed : List Bool) (s : State) : Host.Outcome State Fault Refusal :=
  s.awake fun s =>
    let o := output.val
    match s.bit R.EDP_STATUS [o] 12, (s.edp o).panel with
    | true, some a =>
      match a.dpcd with
      | none => s.trainFail o 2
      | some (rate, lanes, assr) =>
        let l := min (s.fld R.EDP_CTRL [o] 5 4) (min lanes 2)
        let r := min (s.fld R.EDP_CTRL [o] 7 6) rate
        match (trainingTries l r)[failed.length]? with
        | none =>
          let tried := failed.take (trainingTries l r).length
          if tried.all (· == false) then s.trainFail o 3
          else if tried.all (· == true) then s.trainFail o 4
          else s.draw.trainFail o (3 + (s.drawn 1).toNat)
        | some (n, q) =>
          if linkCarries (s.timing (s.sourceOf o)) n q then
            let s := ((s.setBit R.EDP_STATUS [o] 1 true).setFld R.EDP_STATUS [o] 3 2 n).setFld R.EDP_STATUS [o] 5 4 q
            let s := s.setBit R.EDP_STATUS [o] 6 (assr && s.bit R.EDP_CTRL [o] 2)
            (s.trainStop o).displayReady
          else s.trainFail o 5
    | _, _ => s

/-- IRQ_HPD (R215): a trained link with a failed link status is retrained once. -/
def execIrqHpd (output : Fin 4) (good : Bool) (sink : SinkAnswer) (s : State) : Host.Outcome State Fault Refusal :=
  s.awake fun s =>
    let o := output.val
    if s.bit R.EDP_STATUS [o] 1 && !good && s.bit R.EDP_CTRL [o] 3 then
      (s.countSat R.EDP_CNT_RETRAIN [o] 1 R.EDP_CNT_OVF [o] 0).trainStart o (some sink)
    else s

/-- HPD_LOSS (R215, Table 9.5): HPD falls; the link is lost and the output sends nothing. A training that runs waits for HPD
again. -/
def execHpdLoss (output : Fin 4) (s : State) : Host.Outcome State Fault Refusal :=
  s.awake fun s =>
    let o := output.val
    if s.bit R.EDP_STATUS [o] 0 then
      let s := s.setEdp o { s.edp o with panel := none }
      let s := ((s.setBit R.EDP_STATUS [o] 0 false).setBit R.EDP_STATUS [o] 1 false).setBit R.EDP_STATUS [o] 6 false
      s.pipeEvent (s.sourceOf o) 0x0C []
    else s

/-! ### AUX transactions (R216) -/

/-- The transaction ends. -/
def State.auxEnd (s : State) (o result : Nat) : State :=
  (s.setEdp o { s.edp o with aux := none }).poke R.EDP_AUX_STATUS [o] (BitVec.ofNat 32 (2 * result))

/-- May a DPCD write go to `n` bytes from an address? -/
def dpcdWriteAllowed (a n : Nat) : Bool :=
  (decide (0x100 ≤ a) && decide (a + n ≤ 0x120)) || (a == 0x600 && n == 1) || (decide (0x700 ≤ a) && decide (a + n ≤ 0x800))

/-- EDP_AUX_CMD is written with `go`: the transaction is refused, sent, or waits for the training to end. One written while
another is busy starts nothing. -/
def State.auxStart (s : State) (o op length : Nat) : State :=
  let s := s.poke R.EDP_AUX_CMD [o] (BitVec.ofNat 32 (op + 16 * length))
  let n := length + 1
  let word := s.rd R.EDP_AUX_ADDR [o]
  let addr := if op < 2 then bits word 19 0 else bits word 6 0
  let allowed := match op with
    | 0 => true
    | 1 => dpcdWriteAllowed addr n
    | 2 => addr == 0x50
    | _ => addr == 0x30
  if (s.edp o).aux.isSome then s
  else if !allowed then s.auxEnd o 4
  else
    (s.setEdp o { s.edp o with aux := some { op := op, addr := word.toNat, len := n, tries := 0,
                                             sent := !s.bit R.EDP_STATUS [o] 12 } }).poke R.EDP_AUX_STATUS [o] 1

/-- AUX_DPCD_READ (R216). -/
def execAuxDpcdRead (output : Fin 4) (length : Fin 16) (s : State) : Host.Outcome State Fault Refusal :=
  s.awake fun s => s.auxStart output.val 0 length.val

/-- AUX_DPCD_WRITE (R216). -/
def execAuxDpcdWrite (output : Fin 4) (length : Fin 16) (s : State) : Host.Outcome State Fault Refusal :=
  s.awake fun s => s.auxStart output.val 1 length.val

/-- AUX_I2C_READ (R216). -/
def execAuxI2cRead (output : Fin 4) (length : Fin 16) (s : State) : Host.Outcome State Fault Refusal :=
  s.awake fun s => s.auxStart output.val 2 length.val

/-- AUX_I2C_SEGMENT_WRITE (R216). -/
def execAuxI2cSegmentWrite (output : Fin 4) (length : Fin 16) (s : State) : Host.Outcome State Fault Refusal :=
  s.awake fun s => s.auxStart output.val 3 length.val

/-- Put bytes into four data registers, byte 0 in [7:0] of the first; bytes that do not come keep their value. -/
def State.putBytes (s : State) (r : Reg) (o : Nat) : Nat → List Byte → State
  | _, [] => s
  | i, b :: bs => (s.setFld r [o, i / 4] (8 * (i % 4) + 7) (8 * (i % 4)) b.toNat).putBytes r o (i + 1) bs

/-- AUX_REPLY (R216). -/
def execAuxReply (output : Fin 4) (reply : AuxReply) (data : List Byte) (s : State) :
    Host.Outcome State Fault Refusal :=
  s.awake fun s =>
    let o := output.val
    match (s.edp o).aux with
    | some a =>
      if !a.sent then s
      else
        match reply with
        | .ack => (if a.op = 0 ∨ a.op = 2 then s.putBytes R.EDP_AUX_DATA o 0 (data.take a.len) else s).auxEnd o 0
        | .nack => s.auxEnd o 1
        | .deferLimit => s.auxEnd o 2
    | none => s

/-- AUX_TIMEOUT (R216): 3 retries, then result 3. -/
def execAuxTimeout (output : Fin 4) (s : State) : Host.Outcome State Fault Refusal :=
  s.awake fun s =>
    let o := output.val
    match (s.edp o).aux with
    | some a =>
      if !a.sent then s
      else if a.tries < 3 then s.setEdp o { s.edp o with aux := some { a with tries := a.tries + 1 } }
      else (s.auxEnd o 3).countSat R.EDP_CNT_AUXERR [o] 1 R.EDP_CNT_OVF [o] 1
    | none => s

end Sys2Proof.Machine
end

