-- ==== Sys2Proof/Machine/Sketch.lean ====
section
/-! DEFINITION. The sketch units: render tasks and their passes (R174, R177, R179–R183, R190, R191), scene commands (R176),
retire (R184–R186) and targets (R188, R189). -/

namespace Sys2Proof.Machine

/-! ### Passes -/

/-- Table 7.2: are the fields of a pass entry in range (R177)? -/
def passEntryGood (e : List Byte) : Bool :=
  let kind := leAt e 8 1
  leAt e 4 4 % 8 == 0 && decide (kind ≤ 2) && decide (leAt e 9 1 ≤ (if kind = 0 then 1 else 0)) && decide (1 ≤ leAt e 0x0A 2)
    && decide (leAt e 0x0A 2 ≤ 5120) && decide (1 ≤ leAt e 0x0C 2) && decide (leAt e 0x0C 2 ≤ 2880) && leAt e 0x0E 2 == 0
    && leAt e 0x10 8 % 256 == 0 && leAt e 0x18 4 % 256 == 0 && leAt e 0x1C 4 % 256 == 0 && leAt e 0x20 8 % 256 == 0
    && leAt e 0x28 8 % 4096 == 0 && leAt e 0x34 12 == 0

/-- Table 7.1: are the fields of a render descriptor in range? -/
def renderDescGood (d : List Byte) : Bool :=
  let size := leAt d 8 4
  leAt d 0 8 % 4096 == 0 && isPow2 size && decide (4096 ≤ size) && decide (size ≤ 67108864) && leAt d 0x0C 2 != 0
    && decide (1 ≤ leAt d 0x0E 1) && decide (leAt d 0x0E 1 ≤ 4) && decide (leAt d 0x0F 1 < 8) && leAt d 0x14 4 == 0
    && leAt d 0x38 8 == 0

/-- R179, R309: every unit of the mask is one of the assembly and not absent, and the task has a core in its cluster. -/
def State.maskServed (s : State) (t : Task) (mask : Nat) : Bool :=
  (s.dev.assembly.computeDies == 2 || decide (mask < 256))
    && (maskUnits mask).all fun u => !s.bit R.BRG_SKU_ABSENT [] u && (s.coreList t).any fun c => c / 16 == u

/-- The scene state that a pass starts with (Table 7.3, defaults). -/
def SceneState.first : SceneState :=
  { clear := [0, 0, 0, 0], clearDepth := 0, clearLayer := 0, layer := 0, motionNone := false, idWrite := true, blend := 0,
    depthFn := 4, depthWrite := false, cull := 0, scissor := (0, 0, 65535, 65535), program := none, textures := [],
    buffers := [] }

/-- The error registers of a lead (R177). -/
def State.sceneError (s : State) (lead code : Nat) (offset : Option Nat) : State :=
  let s := match offset with
    | some o => s.poke R.SKU_ERR_OFFSET (skuIx lead) (BitVec.ofNat 32 o)
    | none => s
  s.poke R.SKU_ERR_CODE (skuIx lead) (BitVec.ofNat 32 code)

/-- The tile-owner map (R184), none for the default map. -/
def State.ownerMap (s : State) (ctx : Nat) (d : List Byte) (tiles : Nat) : Try (Option (List Byte)) :=
  if leAt d 0x20 8 = 0 then .ok none else (s.tryRead ctx (leAt d 0x20 8) tiles).map some

/-- It names units of the mask only. -/
def ownersGood (d : List Byte) (owners : Option (List Byte)) : Bool :=
  (owners.getD []).all fun b => decide (b.toNat < 16) && natBit (leAt d 0x0C 2) b.toNat

/-- Tiles of a pass entry's target. -/
def entryTiles (e : List Byte) : Nat := ceilDiv (leAt e 0x0A 2) 32 * ceilDiv (leAt e 0x0C 2) 32

/-- What stops a pass before binning: an error code of SKU_ERR_CODE where there is one, and status 0x10. -/
def State.passRefusal (s : State) (t : Task) (d e : List Byte) (owners : Option (List Byte)) (n : Nat) : Option (Option Nat) :=
  let synOut := leAt d 0x0F 1 % 8
  let tiles := entryTiles e
  let size := s.synD synOut
  let w := ceilDiv (s.synTiming synOut).hActive size
  let v := ceilDiv (s.synTiming synOut).vActive size
  if t.launch.param % 64 ≠ 0 ∨ t.launch.groupSize ≠ 0 ∨ renderDescGood d = false ∨ (4 ≤ synOut ∧ synOut ≠ 7)
      ∨ s.maskServed t (leAt d 0x0C 2) = false ∨ leAt d 0x0E 1 ≤ n then some none
  else if !passEntryGood e then some (some 4)
  else if n = 0 ∧ synOut < 4 ∧ ¬(leAt e 8 1 = 0 ∧ leAt e 0x0A 2 = w ∧ leAt e 0x0C 2 = v) then some (some 8)
  else if leAt e 0x30 4 < binFixed (leAt e 8 1) tiles + 256 * tiles + 65536 then some (some 7)
  else if !ownersGood d owners then some (some 5)
  else none

/-- The pass as it is submitted, from a slot. -/
def newPass (t : Task) (site : Nat × Nat) (n : Nat) (d e : List Byte) (owners : Option (List Byte)) : Pass :=
  { qid := t.qid, seq := t.entry.seq, site := site, ctx := t.ctx, prio := t.eff, number := n, last := leAt d 0x0E 1 == n + 1,
    desc := d, entry := e, mask := leAt d 0x0C 2, lead := (maskUnits (leAt d 0x0C 2)).headD 0, owners := owners,
    phase := .pending, parsed := 0, binDone := false, scene := SceneState.first, clear := none, todo := [], inPool := [],
    prims := [], nextSeq := 0, poolLow := 0, poolHigh := 0, records := 0, entries := [], high := 0, retire := [], pixels := [],
    stored := [], fault := none, started := 0, partials := 0, stops := 0, tilesStored := 0, primsTotal := 0 }

/-- What SYN takes from a render descriptor and its first pass (R190). -/
def renderOf (d e : List Byte) : RenderTask :=
  { synOut := leAt d 0x0F 1 % 8, refresh := BitVec.ofNat 32 (leAt d 0x10 4), base := leAt e 0x10 8, pitch := leAt e 0x18 4,
    disp := leAt e 0x20 8, dispPitch := leAt e 0x1C 4, scene := leAt d 0x18 8 }

/-- A render task as its descriptor makes it: SYN hears of its end, also where it is refused (R31, R190). -/
def Task.rendering (t : Task) (d e : List Byte) : Task :=
  { t with
    render := if leAt d 0x0F 1 % 8 < 4 then some (renderOf d e) else none
    rendered := { t.rendered with total := leAt d 0x0E 1 } }

/-- The descriptor of a task and a pass entry. -/
def State.renderWords (s : State) (t : Task) (n : Nat) : Try (List Byte × List Byte) := do
  let d ← s.tryRead t.ctx t.launch.param 64
  let e ← s.tryRead t.ctx (t.launch.param + 64 + 64 * n) 64
  .ok (d, e)

/-- SKETCH_PASS_SUBMIT: the render task in a slot submits its next pass (R174, R191), or ends before binning. Where a unit holds
16 pending passes, the submission stalls. -/
def execSketchPassSubmit (at_ : SlotName) (pass : Fin 4) (s : State) : Host.Outcome State Fault Refusal :=
  s.live fun s =>
    match s.slotNamed at_ with
    | none => s
    | some x =>
      match s.slotTask x with
      | none => s
      | some t =>
        let n := pass.val
        if s.stalls x || t.rendered.passes != n || s.passes.any fun p => t.holds p.qid p.seq then s
        else
          match s.renderWords t n with
          | .error (st, loc) => s.endTask t st loc
          | .ok (d, e) =>
            let t := if n = 0 then t.rendering d e else t
            let s := s.putTask t
            let lead := (maskUnits (leAt d 0x0C 2)).headD 0
            match s.ownerMap t.ctx d (entryTiles e) with
            | .error (st, loc) => s.endTask t st loc
            | .ok owners =>
              match s.passRefusal t d e owners n with
              | some (some code) => (s.sceneError lead code none).endTask t 0x10
              | some none => s.endTask t 0x10
              | none =>
                if !s.accessOk t.ctx (leAt e 0x28 8) (leAt e 0x30 4) true then s.endTask t 0x13
                else
                  let p := newPass t (x.core, x.idx) n d e owners
                  let p := if s.passRoom p.mask then p else { p with phase := .stalled }
                  (s.withPasses (s.passes ++ [p])).sketchSchedule

/-- The task of a pass ends with a status. -/
def State.endPassTask (s : State) (p : Pass) (status : Nat) (loc : Option Nat) : State :=
  match s.task p.qid p.seq with
  | some t => s.endTask t status loc
  | none => s

/-- PASS_RESUME: a stopped pass goes on when none of higher priority is pending or runs on its units (R191). -/
def execPassResume (lead : ClusterName) (s : State) : Host.Outcome State Fault Refusal :=
  s.live fun s =>
    let u := 8 * lead.die.val + lead.cluster.val
    match leastBy (fun p : Pass => [p.prio]) (s.passes.filter fun p => p.lead == u && p.phase == .stopped) with
    | none => s
    | some p =>
      match p.fault with
      | some (st, loc) => s.endPassTask p st loc
      | none =>
        if s.passes.any fun q => !q.is p && q.shares p && (q.active || (q.phase == .pending && decide (q.prio < p.prio))) then s
        else s.putPass p.settle

/-! ### Scene commands (R176, R177) -/

/-- The binning pass of a lead. -/
def State.binningPass (s : State) (lead : ClusterName) : Option Pass :=
  s.passes.find? fun p => p.lead == 8 * lead.die.val + lead.cluster.val && p.phase == .binning

/-- Bytes of the ring from an offset of the command range, modulo the ring size. -/
def State.readRing (s : State) (p : Pass) (o n : Nat) : Try (List Byte) := do
  let a := (p.start + o) % p.ringSize
  let m := min n (p.ringSize - a)
  let x ← s.tryRead p.ctx (p.ring + a) m
  let y ← s.tryRead p.ctx p.ring (n - m)
  .ok (x ++ y)

/-- Words of a command of Table 7.3; NOP has any length. -/
def sceneWords : Nat → Option Nat
  | 0x00 => some 0 | 0x01 => some 1 | 0x02 => some 4 | 0x03 => some 2 | 0x04 => some 3 | 0x05 => some 3 | 0x06 => some 6
  | 0x07 => some 3 | 0x08 => some 4 | 0x09 => some 3 | _ => none

/-- The next command of a pass: its opcode and bytes, or the code of SKU_ERR_CODE. -/
def State.nextScene (s : State) (p : Pass) : Try (Except Nat (Nat × List Byte)) := do
  let h ← s.readRing p p.parsed (min 8 (p.length - p.parsed))
  let op := leAt h 0 1
  let words := leAt h 2 2
  if leAt h 1 1 != 0 || leAt h 4 4 != 0 then .ok (.error 1)
  else
    match sceneWords op with
    | none => .ok (.error 1)
    | some w =>
      if (w = 0 ∧ (words = 0 ∨ 8192 < words)) ∨ (w ≠ 0 ∧ words ≠ w) ∨ p.length < p.parsed + 8 * words then .ok (.error 2)
      else do
        let bs ← s.readRing p p.parsed (8 * words)
        .ok (.ok (op, bs))

/-- What a command makes of its pass: it is rejected with a code of SKU_ERR_CODE, a read or write fails with a status, it waits
for what it needs, or it is done. -/
inductive SceneResult where
  | rejected (code : Nat)
  | failed (s : State) (status : Nat) (loc : Option Nat)
  | waits
  | done (s : State) (p : Pass)

/-- The lead's next command, when it is of one opcode. A command that no opcode can take is rejected by whichever command of the
lead meets it. The first command writes an empty directory and its header (R180). -/
def State.onScene (s : State) (lead : ClusterName) (op : Nat) (f : State → Pass → List Byte → SceneResult) : State :=
  match s.binningPass lead with
  | none => s
  | some p =>
    let reject (code : Nat) : State :=
      (s.sceneError p.lead code (some ((p.start + p.parsed) % p.ringSize))).endPassTask p 0x10 none
    if p.length ≤ p.parsed then s.putPass p.settle
    else
      match s.nextScene p with
      | .error (st, loc) => s.endPassTask p st loc
      | .ok (.error code) => reject code
      | .ok (.ok (o, bs)) =>
        if o != op then s
        else
          let r := if p.parsed = 0 then s.sketchWrite p p.lead p.emptyLists else (s, none)
          match r.2 with
          | some (st, loc) => r.1.endPassTask p st loc
          | none =>
            let t := r.1.sketchRead p p.lead (p.ring + (p.start + p.parsed) % p.ringSize) bs.length
            match f t { p with parsed := p.parsed + bs.length, started := if p.parsed = 0 then s.now else p.started } bs with
            | .rejected code => reject code
            | .failed u st loc => u.endPassTask p st loc
            | .waits => s
            | .done u q => u.putPass q.settle

/-- A command that changes scene state only. -/
def State.onSceneState (s : State) (lead : ClusterName) (op : Nat) (f : SceneState → List Byte → Option SceneState) : State :=
  s.onScene lead op fun s p bs =>
    match f p.scene bs with
    | none => .rejected 6
    | some x => .done s { p with scene := x }

/-- SCENE_NOP. -/
def execSceneNop (lead : ClusterName) (s : State) : Host.Outcome State Fault Refusal :=
  s.live fun s => s.onSceneState lead 0x00 fun x _ => some x

/-- SCENE_END. -/
def execSceneEnd (lead : ClusterName) (s : State) : Host.Outcome State Fault Refusal :=
  s.live fun s => s.onScene lead 0x01 fun s p _ => .done s { p with binDone := true }

/-- SCENE_SET_CLEAR. -/
def execSceneSetClear (lead : ClusterName) (s : State) : Host.Outcome State Fault Refusal :=
  s.live fun s => s.onSceneState lead 0x02 fun x bs =>
    some { x with clear := wordsOf 4 (bs.drop 8), clearDepth := BitVec.ofNat 32 (leAt bs 0x18 4), clearLayer := leAt bs 0x1C 4 % 32 }

/-- SCENE_SET_LAYER. -/
def execSceneSetLayer (lead : ClusterName) (s : State) : Host.Outcome State Fault Refusal :=
  s.live fun s => s.onSceneState lead 0x03 fun x bs =>
    let f := leAt bs 9 1
    some { x with layer := leAt bs 8 1 % 32, motionNone := natBit f 0, idWrite := natBit f 1, blend := f / 4 % 4 }

/-- SCENE_SET_STATE. -/
def execSceneSetState (lead : ClusterName) (s : State) : Host.Outcome State Fault Refusal :=
  s.live fun s => s.onSceneState lead 0x04 fun x bs =>
    let f := leAt bs 8 4
    some { x with
      depthFn := f % 8, depthWrite := natBit f 3, cull := f / 16 % 4
      scissor := (leAt bs 0x0C 2, leAt bs 0x0E 2, leAt bs 0x10 2, leAt bs 0x12 2) }

/-- SCENE_BIND_PROG. -/
def execSceneBindProg (lead : ClusterName) (s : State) : Host.Outcome State Fault Refusal :=
  s.live fun s => s.onSceneState lead 0x05 fun x bs =>
    some { x with program := some (leAt bs 8 4, leAt bs 0x0C 4, leAt bs 0x10 4) }

/-- SCENE_BIND_TEX: a descriptor outside Table 7.6 is rejected (R187). -/
def execSceneBindTex (lead : ClusterName) (s : State) : Host.Outcome State Fault Refusal :=
  s.live fun s => s.onSceneState lead 0x06 fun x bs =>
    let slot := leAt bs 8 4 % 16
    let d := sliceBytes bs 0x10 32
    if textureGood d then some { x with textures := upsert (fun t => t.1 == slot) (slot, d) x.textures } else none

/-- SCENE_BIND_BUF. -/
def execSceneBindBuf (lead : ClusterName) (s : State) : Host.Outcome State Fault Refusal :=
  s.live fun s => s.onSceneState lead 0x07 fun x bs =>
    let slot := leAt bs 8 4 % 8
    some { x with buffers := upsert (fun b => b.1 == slot) (slot, leAt bs 0x0C 4, leAt bs 0x10 8) x.buffers }

/-! ### Binning (R178, R180–R183) -/

/-- R182: lists and pool are reset. -/
def Pass.resetLists (p : Pass) : Pass := { p with poolLow := 0, poolHigh := 0, records := 0, entries := [], inPool := [] }

/-- Pool bytes for tile entries: a new chunk for every 63rd entry of a tile. -/
def Pass.chunksFor (p : Pass) (tiles : List Nat) : Nat := 256 * (tiles.filter fun t => p.entriesOf t % 63 == 0).length

/-- Bytes of a vertex output record (Table 7.3), of 2 to 16 units. -/
def Pass.outSize (p : Pass) : Nat := match p.scene.program with | some (_, _, n) => 16 * max 2 (min 16 n) | none => 32

/-- The vertices of a primitive that have no record in the pool. -/
def Pass.newVertices (p : Pass) (b : Unbinned) : List (Nat × List Byte) := b.vertices.filter fun v => !p.inPool.contains v.1

/-- Bytes at the pool's bottom for a primitive: its record and the output records of its new vertices. -/
def Pass.lowFor (p : Pass) (b : Unbinned) : Nat := 64 + p.outSize * (p.newVertices b).length

/-- Does the pool hold a primitive's records and entries? -/
def Pass.holds (p : Pass) (b : Unbinned) : Bool :=
  decide (p.poolLow + p.lowFor b + p.poolHigh + p.chunksFor b.tiles ≤ p.pool)

/-- The address of a chunk. -/
def Pass.chunkAt (p : Pass) (chunk : Nat) : Nat := p.binBase + p.binSize - 256 * chunk

/-- An entry joins the list of a tile: the pass with it, and what that writes. -/
def Pass.addEntry (p : Pass) (record tile : Nat) : Pass × List (Nat × List Byte) :=
  let l := p.listOf tile
  let fresh := l.count % 63 == 0
  let chunk := if fresh then p.poolHigh / 256 + 1 else l.tail
  let new : TileList := { tile := tile, count := l.count + 1, head := if l.count = 0 then chunk else l.head, tail := chunk }
  ({ p with poolHigh := if fresh then p.poolHigh + 256 else p.poolHigh
            entries := upsert (fun e => e.tile == tile) new p.entries },
    (if fresh && l.count != 0 then [(p.chunkAt l.tail + 252, leBytes 4 (Config.binForm 3 [chunk]))] else [])
      ++ (if fresh then [(p.binBase + 4096 + 16 * tile, leBytes 16 (Config.binForm 1 [new.head, chunk]))] else [])
      ++ [(p.chunkAt chunk + 4 * (l.count % 63), leBytes 4 record)])

/-- An entry in each of several tiles. -/
def Pass.addEntries (p : Pass) (record : Nat) : List Nat → Pass × List (Nat × List Byte)
  | [] => (p, [])
  | k :: ks =>
    let r := p.addEntry record k
    let q := r.1.addEntries record ks
    (q.1, r.2 ++ q.2)

/-- The primitive with the scene state it carries. -/
def Pass.binned (p : Pass) (b : Unbinned) : Binned :=
  { seq := p.nextSeq, shape := b.shape, scissor := p.scene.scissor, textures := p.scene.textures, layer := p.scene.layer,
    motionNone := p.scene.motionNone, idWrite := p.scene.idWrite, blend := p.scene.blend, depthFn := p.scene.depthFn,
    depthWrite := p.scene.depthWrite, tiles := b.tiles }

/-- A primitive is binned: its records and entries are allocated, and what that writes. -/
def Pass.bin (p : Pass) (b : Unbinned) : Pass × List (Nat × List Byte) :=
  let new := p.newVertices b
  let at_ := p.poolBase + p.poolLow
  let grown : Pass := { p with
      poolLow := p.poolLow + p.lowFor b
      inPool := p.inPool ++ new.map (·.1)
      clear := some p.clearPixel
      records := p.records + 1
      prims := p.prims ++ [p.binned b]
      nextSeq := p.nextSeq + 1
      primsTotal := p.primsTotal + 1 }
  let r := grown.addEntries p.records b.tiles
  let q := r.1
  ({ q with high := max q.high (binFixed q.kind q.tileCount + q.poolLow + q.poolHigh) },
    mapPlaces (fun i v => (at_ + p.outSize * i, sliceBytes v.2 0 p.outSize)) 0 new
      ++ [(at_ + p.outSize * new.length, leBytes 64 (Config.binForm 2 [p.qid, p.seq.toNat, p.number, p.nextSeq]))] ++ r.2
      ++ [(p.binBase, leBytes 4096 (Config.binForm 0 [q.poolLow, q.poolHigh]))])

/-- Primitives are binned in order, up to one for which the pool has no room: it and the rest wait for a partial render (R182). A
pool whose lists are empty takes any primitive. -/
def State.binAll (s : State) (p : Pass) : List Unbinned → SceneResult
  | [] => .done s { p with todo := [], inPool := [] }
  | b :: bs =>
    if !p.holds b && !p.entries.isEmpty then .done s { p with todo := b :: bs }
    else
      let r := p.bin b
      let w := s.sketchWrite p p.lead r.2
      match w.2 with
      | some (st, loc) => .failed w.1 st loc
      | none => (w.1.count R.SKU_CNT_PRIMS (skuIx p.lead) 1).binAll r.1 bs

/-- The primitives of shapes that are neither culled nor without area, and touch the target. -/
def Pass.unbinned (p : Pass) (cull : Nat) (shapes : List (Option Triangle × List (Nat × List Byte))) : List Unbinned :=
  shapes.filterMap fun e =>
    match e.1 with
    | none => none
    | some t =>
      let tiles := t.tilesIn p.width p.height
      if t.dropped cull || tiles.isEmpty then none else some { shape := t, tiles := tiles, vertices := e.2 }

/-- Corners of primitive `i` of a draw, as places in its list of vertices or indices (Table 7.3): lists, and strips, of which every
second primitive is turned round. -/
def primCorners (strip : Bool) (i : Nat) : List Nat :=
  if !strip then [3 * i, 3 * i + 1, 3 * i + 2] else if i % 2 = 0 then [i, i + 1, i + 2] else [i + 1, i, i + 2]

/-- Primitives of a draw of `n` vertices or indices. -/
def primCount (strip : Bool) (n : Nat) : Nat := if strip then n - 2 else n / 3

/-- The vertices that a draw shades, by number: its list of vertices or indices without repeats (R178). -/
def State.drawVertices (s : State) (p : Pass) (bs : List Byte) : Except SceneResult (List Nat × State) :=
  let f := leAt bs 8 4
  let n := leAt bs 0x0C 4
  if !natBit f 2 then .ok (rangeFrom 0 n, s)
  else
    match p.scene.buffers.find? fun b => b.1 == f / 16 % 8 with
    | none => .error (.rejected 3)
    | some b =>
      let size := if natBit f 3 then 4 else 2
      match s.tryRead p.ctx b.2.2 (size * n) with
      | .error (st, loc) => .error (.failed s st loc)
      | .ok ix => .ok ((rangeFrom 0 n).map fun i => leAt ix (size * i) size, s.sketchRead p p.lead b.2.2 (size * n))

/-- The primitives that a draw of shaded vertices leaves to be binned, by instance and then by index (R178). -/
def Pass.drawPrims (p : Pass) (bs : List Byte) (vs : List Nat) (shaded : List (List Byte)) : List Unbinned :=
  let strip := leAt bs 8 4 % 4 == 1
  let distinct := vs.eraseDups
  let vertex (k i : Nat) : Nat × List Byte :=
    let n := k * distinct.length + placeIn (fun v => v == vs.getD i 0) distinct
    (n, shaded.getD n [])
  let shape (ws : List (Nat × List Byte)) : Option Triangle :=
    match ws.map fun w => cornerOf p.width p.height (sliceBytes w.2 0 p.outSize) with
    | [some a, some b, some c] => some { a := a, b := b, c := c }
    | _ => none
  p.unbinned p.scene.cull (((rangeFrom 0 (leAt bs 0x14 4)).map fun k =>
    (rangeFrom 0 (primCount strip vs.length)).map fun i =>
      let ws := (primCorners strip i).map (vertex k)
      (shape ws, ws)).flatten)

/-- Have all vertices of a draw been shaded, by a core of the task (R178, R179)? -/
def State.drawShaded (s : State) (p : Pass) (bs : List Byte) (vs : List Nat) (shaded : List (List Byte)) : Bool :=
  shaded.length == leAt bs 0x14 4 * vs.eraseDups.length && s.sch.slots.any fun x => x.qid == p.qid && x.seq == p.seq

/-- The primitives of a surface at a depth: two triangles, neither of which is culled. -/
def Pass.surfacePrims (p : Pass) (bs : List Byte) (z : Int) : List Unbinned :=
  let corner (i j : Nat) : Corner := flatCorner z (leAt bs (0x0C + 4 * i) 2) (leAt bs (0x0E + 4 * j) 2)
  p.unbinned 0
    [(some { a := corner 0 0, b := corner 1 0, c := corner 0 1 }, []),
     (some { a := corner 1 0, b := corner 1 1, c := corner 0 1 }, [])]

/-- SCENE_DRAW: the task's cores shade its vertices, instance by instance, each distinct one once; its primitives are clipped,
culled and binned, by instance and then by index. Until every vertex is shaded the lead waits, as it does while the task has no
core (R178, R179). -/
def execSceneDraw (die : Fin 2) (cluster : Fin 8) (shaded : List (List Byte)) (s : State) :
    Host.Outcome State Fault Refusal :=
  s.live fun s => s.onScene ⟨die, cluster⟩ 0x08 fun s p bs =>
    match s.drawVertices p bs with
    | .error r => r
    | .ok (vs, s) => if s.drawShaded p bs vs shaded then s.binAll p (p.drawPrims bs vs shaded) else .waits

/-- SCENE_DRAW_SURFACE: two triangles of a bound texture, neither of which is culled; they shade no vertex. Which diagonal parts
them changes no pixel that the spec fixes (log 74). -/
def execSceneDrawSurface (die : Fin 2) (cluster : Fin 8) (s : State) : Host.Outcome State Fault Refusal :=
  s.live fun s => s.onScene ⟨die, cluster⟩ 0x09 fun s p bs =>
    if !p.scene.textures.any fun t => t.1 == leAt bs 8 4 then .rejected 3
    else
      match fixOf (BitVec.ofNat 32 (leAt bs 0x14 4)) with
      | none => .done s p
      | some z => s.binAll p (p.surfacePrims bs z)

/-! ### Retire (R185, R186) and blending (R188, R189) -/

/-- The depth test: the fragment's depth against the one committed. -/
def depthPasses (fn : Nat) (new old : Word) : Bool :=
  let a := flOf new
  let b := flOf old
  match fn with
  | 0 => false
  | 1 => a.lt b
  | 2 => a.eq b
  | 3 => a.lt b || a.eq b
  | 4 => b.lt a
  | 5 => !a.eq b
  | 6 => b.lt a || a.eq b
  | _ => true

/-- A colour component blended in FP16: replace, premultiplied blend, additive. -/
def blendOne (mode : Nat) (alpha src dst : Half) : Half :=
  let blend (f : Fl) : Half := BitVec.ofNat 16 (fp16.encode .rne false ((flHalf src).add ((flHalf dst).mul f)))
  if mode = 1 then blend ((Fl.fin false 1 0).add (flHalf alpha).neg)
  else if mode = 2 then blend (.fin false 1 0)
  else src

/-- A fragment commits to its pixel, with the depth that its program wrote or that of the primitive there (R185, R188). -/
def commitFragment (b : Binned) (f : Fragment) (x : Pixel) : Pixel :=
  let depth := f.depth.getD (b.shape.depthAt f.x.toNat f.y.toNat)
  if f.discard || !depthPasses b.depthFn depth x.depth then x
  else
    let src := f.color.toList.map halfOf
    let alpha := src.getD 3 0
    let x := { x with color := mapPlaces (fun i d => blendOne b.blend alpha (src.getD i 0) d) 0 x.color }
    let x := if b.depthWrite then { x with depth := depth } else x
    if b.idWrite then
      { x with layer := b.layer, motion := if b.motionNone then [0, 0] else b.shape.motionAt f.x.toNat f.y.toNat }
    else x

/-- Does a primitive have a fragment at a pixel: inside its scissor, where it covers the pixel's centre (Table 7.3, R185)? -/
def Binned.reaches (b : Binned) (x y : Nat) : Bool :=
  decide (b.scissor.1 ≤ x) && decide (x < b.scissor.2.2.1) && decide (b.scissor.2.1 ≤ y) && decide (y < b.scissor.2.2.2)
    && b.shape.covers x y

/-- The primitive of a fragment, where it is binned to a tile of the unit and reaches the pixel. -/
def Pass.primOf (p : Pass) (unit : Nat) (f : Fragment) : Option Binned :=
  let x := f.x.toNat
  let y := f.y.toNat
  let tile := p.tileOf x y
  if x < p.width ∧ y < p.height ∧ p.owner tile = unit then
    p.prims.find? fun b => b.seq == f.prim && b.tiles.contains tile && b.reaches x y
  else none

/-- A fragment commits (R185). -/
def Pass.retireOne (p : Pass) (unit : Nat) (f : Fragment) : Pass :=
  match p.primOf unit f with
  | some b =>
    let i := f.y.toNat * p.width + f.x.toNat
    { p with pixels := upsert (fun e => e.1 == i) (i, commitFragment b f (p.pixel i)) p.pixels }
  | none => p

/-- The retire unit of a sketch unit. -/
def Pass.retireOf (p : Pass) (unit : Nat) : Retire :=
  (p.retire.find? fun r => r.unit == unit).getD { unit := unit, through := 0, held := [] }

/-- The quads of fragments. -/
def quadsOf (fs : List Fragment) : List (Nat × Nat × Nat) := (fs.map fun f => (f.x.toNat / 2, f.y.toNat / 2, f.prim)).eraseDups

/-- Have all fragments of the tiles that hold entries been retired? -/
def Pass.drained (p : Pass) : Bool := p.listed.all fun k => decide (p.nextSeq ≤ (p.retireOf (p.owner k)).through)

/-- Stored tiles are reloaded (R182). -/
def State.reloadTiles (s : State) (p : Pass) : List Nat → Try (State × Pass)
  | [] => .ok (s, p)
  | k :: ks =>
    if p.stored.contains k then do
      let r ← s.reloadTile p k
      r.1.reloadTiles r.2 ks
    else s.reloadTiles p ks

/-- R182: a partial render ends once its tiles are drained: they are stored, lists and pool are reset, and binning goes on. -/
def State.endPartial (s : State) (p : Pass) : SceneResult :=
  let r := s.storeTiles p false p.listed
  match r.2 with
  | some (st, loc) => .failed r.1 st loc
  | none =>
    let q := { (p.stow p.listed).resetLists with partials := p.partials + 1 }
    let w := (r.1.countSat R.SKU_CNT_PARTIAL (skuIx p.lead) 1 R.SKU_CNT_OVF (skuIx p.lead) 0).sketchWrite q p.lead q.emptyLists
    match w.2 with
    | some (st, loc) => .failed w.1 st loc
    | none => w.1.binAll q p.todo

/-- QUAD_RETIRE: shaded quads reach the retire unit of the unit that owns their tiles, from a core of its cluster (R179). Fragments
of primitives before `through` commit, in ascending sequence number, after their tiles are reloaded; those of later ones are held,
2,048 quads at most: what would be more waits, as does a unit whose task has no core (R185). A partial render ends with the last of its fragments. -/
def execQuadRetire (unit lead : ClusterName) (quads : QuadBatch) (stalls : Word) (s : State) :
    Host.Outcome State Fault Refusal :=
  s.live fun s =>
    let u := 8 * unit.die.val + unit.cluster.val
    let tiling (p : Pass) : Bool := (p.phase == .partialTiles || p.phase == .tiles) && natBit p.mask u
    match s.passes.find? fun p => p.lead == 8 * lead.die.val + lead.cluster.val && tiling p with
    | none => s
    | some p =>
      let r := p.retireOf u
      let through := max r.through (min quads.through p.nextSeq)
      let all := sortBy (fun f : Fragment => [f.prim, f.y.toNat, f.x.toNat])
        (r.held ++ quads.fragments.filter fun f => decide (r.through ≤ f.prim))
      let held := all.filter fun f => decide (through ≤ f.prim)
      if 2048 < (quadsOf held).length
          ∨ (s.sch.slots.any fun x => x.qid == p.qid && x.seq == p.seq && x.core / 16 == u) = false then s
      else
        let now := all.filter fun f => decide (f.prim < through) && (p.primOf u f).isSome
        match s.reloadTiles p ((now.map fun f => p.tileOf f.x.toNat f.y.toNat).eraseDups) with
        | .error (st, loc) => s.endPassTask p st loc
        | .ok (t, q) =>
          let q := now.foldl (fun q f => q.retireOne u f) q
          let q := { q with retire := upsert (fun x => x.unit == u) { unit := u, through := through, held := held } q.retire }
          let t := t.count R.SKU_CNT_RETSTALL (skuIx u) stalls.toNat
          if q.phase == .partialTiles && q.drained then
            match t.endPartial q with
            | .done v o => v.putPass o.settle
            | .failed v st loc => v.endPassTask p st loc
            | _ => t.putPass q
          else t.putPass q

/-! ### The end of a pass (R188–R190) -/

/-- The sums of a task's passes with one more. -/
def RenderTotals.add (r : RenderTotals) (p : Pass) : RenderTotals :=
  { r with
    passes := r.passes + 1, prims := r.prims + p.primsTotal, partials := r.partials + p.partials, stops := r.stops + p.stops,
    tiles := r.tiles + p.tilesStored + p.tileCount, high := max r.high p.high,
    started := if r.passes = 0 then p.started else r.started }

/-- The result block (Table 7.5). -/
def RenderTotals.block (r : RenderTotals) (now : Nat) : List Byte :=
  leBytes 4 r.prims ++ leBytes 4 r.partials ++ leBytes 4 r.stops ++ leBytes 4 r.tiles ++ leBytes 8 r.high
    ++ leBytes 8 (now - r.started)

/-- The chained flow descriptor goes to the vision engines, or waits for a place (R190, R211). -/
def State.submitChained (s : State) (t : Task) (a : Nat) : State :=
  if s.visFull then s.withVis { s.vis with waiting := s.vis.waiting ++ [{ qid := t.qid, seq := t.entry.seq, addr := a, site := none }] }
  else s.acceptChain .sketch a

/-- After the last pass: the result block and the chained flow descriptor. -/
def State.renderDone (s : State) (t : Task) (p : Pass) : State :=
  let r := s.sketchWrite p p.lead [(leAt p.desc 0x30 8, t.rendered.block s.now)]
  match r.2 with
  | some (st, loc) => r.1.endTask t st loc
  | none => if leAt p.desc 0x28 8 = 0 then r.1 else r.1.submitChained t (leAt p.desc 0x28 8)

/-- PASS_END: every tile is drained and stored, and the pass is over (R188–R190). What a store wrote before one that fails stays
(R192). -/
def execPassEnd (lead : ClusterName) (s : State) : Host.Outcome State Fault Refusal :=
  s.live fun s =>
    match s.passes.find? fun p => p.lead == 8 * lead.die.val + lead.cluster.val && p.phase == .tiles with
    | none => s
    | some p =>
      match s.task p.qid p.seq with
      | none => s
      | some t =>
        if !p.drained then s
        else
          match s.reloadTiles p p.stored with
          | .error (st, loc) => s.endTask t st loc
          | .ok (s, q) =>
            let r := s.storeTiles q true (rangeFrom 0 q.tileCount)
            match r.2 with
            | some (st, loc) => r.1.endTask t st loc
            | none =>
              let s := (maskUnits p.mask).foldl (fun (s : State) u => s.count R.SKU_CNT_PASSES (skuIx u) 1) r.1
              let t := { t with rendered := t.rendered.add p }
              let s := ((s.withPasses (s.passes.filter fun q => !q.is p)).putTask t).sketchSchedule
              if p.last then s.renderDone t p else s

end Sys2Proof.Machine
end

