-- ==== Sys2Proof/Machine/Vision.lean ====
section
/-! DEFINITION. The vision engines: pyramids (R200, R201), flow (R202–R205), stereo (R208, R209), and the events of the chain
dispatcher (R194–R199, R207). -/

namespace Sys2Proof.Machine

/-! ### Images -/

/-- Rows of numbers. -/
abbrev Image := List (List Nat)

/-- A pixel; a position outside takes the nearest edge pixel. -/
def Image.px (m : Image) (x y : Int) : Nat :=
  let row := m.getD (clampInt 0 ((m.length : Int) - 1) y).toNat []
  row.getD (clampInt 0 ((row.length : Int) - 1) x).toNat 0

/-- num / den rounded to nearest, ties to even. -/
def rneDiv (num : Int) (den : Nat) : Int :=
  let q := num / den
  let r := (num % den).toNat
  if den < 2 * r ∨ (2 * r = den ∧ q % 2 ≠ 0) then q + 1 else q

/-- Rows of bytes of an image in memory. -/
def State.readImage (s : State) (ctx base pitch n : Nat) (h : Nat) : Try (List (List Byte)) :=
  (rangeFrom 0 h).mapM fun y => s.tryRead ctx (base + y * pitch) n

/-- Rows of bytes written. -/
def State.writeImage (s : State) (ctx base pitch : Nat) : List (List Byte) → Try State
  | [] => .ok s
  | r :: rs => do
    let t ← s.tryWrite ctx base r
    t.writeImage ctx (base + pitch) pitch rs

/-! ### Pyramids (R200) -/

/-- Width or height of a level. -/
def levelDim (n l : Nat) : Nat := ceilDiv n (2 ^ l)

/-- Pitch of a level. -/
def levelPitch (w l : Nat) : Nat := ceilDiv (levelDim w l) 64 * 64

/-- Offset of a level from the base. -/
def levelOffset (w h : Nat) : Nat → Nat
  | 0 => 0
  | l + 1 => roundUp (levelOffset w h l + levelPitch w l * levelDim h l) 256

/-- A level of a pyramid in memory. -/
def State.readLevel (s : State) (ctx base w h l : Nat) : Try Image := do
  let rows ← s.readImage ctx (base + levelOffset w h l) (levelPitch w l) (levelDim w l) (levelDim h l)
  .ok (rows.map fun r => r.map (·.toNat))

/-- Luma. -/
def luma (r g b : Nat) : Nat := (54 * r + 183 * g + 19 * b + 128) / 256

/-- Bytes of a source pixel. -/
def sourceBytes (fmt : Nat) : Nat := if fmt = 0 then 1 else if fmt = 1 then 2 else if fmt = 2 then 4 else 16

/-- A source pixel as 8 bits (R201). -/
def sourcePixel (fmt shift : Nat) (bs : List Byte) : Nat :=
  if fmt = 0 then leAt bs 0 1
  else if fmt = 1 then min 255 (leAt bs 0 2 / 2 ^ shift)
  else if fmt = 2 then luma (leAt bs 2 1) (leAt bs 1 1) (leAt bs 0 1)
  else
    let c (i : Nat) : Nat := (unitByte (BitVec.ofNat 16 (leAt bs (2 * i) 2))).toNat
    luma (c 0) (c 1) (c 2)

/-- A coordinate of the remap grid in fixed point, limited to the image; a NaN is none. -/
def gridCoord (w : Word) (dim : Nat) : Option Int :=
  let top : Int := (dim - 1 : Nat) * 2 ^ fracBits
  match flOf w with
  | .nan => none
  | .inf neg => some (if neg then -top - 2 ^ fracBits else 2 * top + 2 ^ fracBits)
  | .fin _ _ _ => some (fixedOf w)

/-- Bilinear interpolation between grid points, for a place 0–15 of 16 in each direction. -/
def gridBlend (a b c d : Int) (fx fy : Nat) : Int :=
  (a * (16 - fx : Nat) * (16 - fy : Nat) + b * fx * (16 - fy : Nat) + c * (16 - fx : Nat) * fy + d * fx * fy) / 256

/-- A bilinear sample at a fixed-point position, RNE; positions outside take the nearest edge pixel. -/
def sampleAt (m : Image) (w h : Nat) (px py : Int) : Nat :=
  let one : Int := 2 ^ fracBits
  let x := clampInt 0 ((w - 1 : Nat) * one) px
  let y := clampInt 0 ((h - 1 : Nat) * one) py
  let x0 := x / one
  let y0 := y / one
  let fx := x % one
  let fy := y % one
  let v (i j : Int) : Int := m.px (x0 + i) (y0 + j)
  (rneDiv (v 0 0 * (one - fx) * (one - fy) + v 1 0 * fx * (one - fy) + v 0 1 * (one - fx) * fy + v 1 1 * fx * fy)
    (2 ^ (2 * fracBits))).toNat

/-- The remapped image (R201). `free` is the value of a pixel whose grid entries are not all numbers. -/
def remapImage (src : Image) (w h : Nat) (grid : List (List Byte)) (free : Nat → Nat) : Image :=
  (rangeFrom 0 h).map fun y => (rangeFrom 0 w).map fun x =>
    let at_ (i j o dim : Nat) : Option Int :=
      gridCoord (BitVec.ofNat 32 (leAt (grid.getD (y / 16 + j) []) (8 * (x / 16 + i) + o) 4)) dim
    let pos (o dim : Nat) : Option Int := do
      let a ← at_ 0 0 o dim
      let b ← at_ 1 0 o dim
      let c ← at_ 0 1 o dim
      let d ← at_ 1 1 o dim
      some (gridBlend a b c d (x % 16) (y % 16))
    match pos 0 w, pos 4 h with
    | some px, some py => sampleAt src w h px py
    | _, _ => free (y * w + x)

/-- A coarser level: the 5 × 5 binomial kernel, RNE, then every second pixel (R201). -/
def coarser (m : Image) (w h : Nat) : Image :=
  let k (i : Nat) : Int := ([1, 4, 6, 4, 1] : List Int).getD i 0
  (rangeFrom 0 (ceilDiv h 2)).map fun (y : Nat) => (rangeFrom 0 (ceilDiv w 2)).map fun (x : Nat) =>
    let sum := ((rangeFrom 0 5).map fun (j : Nat) => ((rangeFrom 0 5).map fun (i : Nat) =>
      k i * k j * (m.px ((2 * x + i : Nat) - 2) ((2 * y + j : Nat) - 2) : Int)).sum).sum
    (rneDiv sum 256).toNat

/-- Levels are written one after another. -/
def State.writeLevels (s : State) (ctx base w h : Nat) (m : Image) : Nat → Nat → Try State
  | _, 0 => .ok s
  | l, n + 1 => do
    let t ← s.writeImage ctx (base + levelOffset w h l) (levelPitch w l) (m.map fun r => r.map (BitVec.ofNat 8))
    t.writeLevels ctx base w h (coarser m (levelDim w l) (levelDim h l)) (l + 1) n

/-- The work of a pyramid stage (Table 8.3). -/
def State.pyramidWork (s : State) (ctx : Nat) (d : List Byte) : Try State := do
  let w := leAt d 0x2C 2
  let h := leAt d 0x2E 2
  let fmt := leAt d 0x30 1
  let e := sourceBytes fmt
  let remap := leAt d 0x33 1 == 1
  let rows ← s.readImage ctx (leAt d 0x20 8) (leAt d 0x28 4) (w * e) h
  let src : Image := rows.map fun r => (rangeFrom 0 w).map fun x => sourcePixel fmt (leAt d 0x31 1) (sliceBytes r (x * e) e)
  let gw := ceilDiv w 16 + 1
  let grid ← if remap then s.readImage ctx (leAt d 0x40 8) (8 * gw) (8 * gw) (ceilDiv h 16 + 1) else .ok []
  let m := if remap then remapImage src w h grid (fun i => (Config.freeBits 8 (s.free + i)).toNat) else src
  let t ← (s.withFree (if remap then s.free + w * h else s.free)).writeLevels ctx (leAt d 0x38 8) w h m 0 (leAt d 0x32 1)
  .ok (t.account ctx 1 (w * h * e + levelOffset w h (leAt d 0x32 1)))

/-! ### Census and search (R202) -/

/-- The 24-bit census code of a pixel: which of its neighbours in the 5 × 5 window are below it. -/
def census (m : Image) (x y : Int) : List Bool :=
  let c := m.px x y
  ((rangeFrom 0 5).map fun (j : Nat) => (rangeFrom 0 5).map fun (i : Nat) =>
    decide (m.px (x + i - 2) (y + j - 2) < c)).flatten

/-- Hamming distance. -/
def hamming (a b : List Bool) : Nat := ((a.zip b).filter fun p => p.1 != p.2).length

/-- Cost of a vector (vx, vy) for a block of b × b pixels at (x, y) of A. -/
def blockCost (a b : Image) (size : Nat) (x y : Nat) (vx vy : Int) : Nat :=
  ((rangeFrom 0 size).map fun (j : Nat) => ((rangeFrom 0 size).map fun (i : Nat) =>
    hamming (census a (x + i : Nat) (y + j : Nat)) (census b ((x + i : Nat) - vx) ((y + j : Nat) - vy))).sum).sum

/-- The offsets of a search window, row by row. -/
def window : List (Int × Int) :=
  ((rangeFrom 0 17).map fun (j : Nat) => (rangeFrom 0 17).map fun (i : Nat) => ((i : Int) - 8, (j : Int) - 8)).flatten

/-- A search around a centre: offsets and their costs. -/
def searchCosts (a b : Image) (size x y : Nat) (c : Int × Int) : List ((Int × Int) × Nat) :=
  window.map fun o => (o, blockCost a b size x y (c.1 + o.1) (c.2 + o.2))

/-- The cheapest offset, the first of equal ones. -/
def bestOffset (cs : List ((Int × Int) × Nat)) : (Int × Int) × Nat :=
  (leastBy (fun e : (Int × Int) × Nat => [e.2]) cs).getD ((0, 0), 0)

/-- Vectors of the blocks of a level, row by row. -/
abbrev Vectors := List (List (Int × Int))

/-- The vectors of one level from the centres of its blocks. -/
def levelVectors (a b : Image) (size w h : Nat) (centre : Nat → Nat → Int × Int) : Vectors :=
  (rangeFrom 0 (ceilDiv h size)).map fun by_ => (rangeFrom 0 (ceilDiv w size)).map fun bx =>
    let c := centre bx by_
    let o := (bestOffset (searchCosts a b size (bx * size) (by_ * size) c)).1
    (c.1 + o.1, c.2 + o.2)

/-- The centre of a block from the level above: twice the vector of the block that covers it. -/
def centreFrom (v : Vectors) (bx by_ : Nat) : Int × Int :=
  let row := v.getD (min (by_ / 2) (v.length - 1)) []
  let p := row.getD (min (bx / 2) (row.length - 1)) (0, 0)
  (2 * p.1, 2 * p.2)

/-- The centres of level 0: the search from level `l` down to level 1. -/
def searchDown (a b : Nat → Image) (size w h : Nat) (centre : Nat → Nat → Int × Int) : Nat → (Nat → Nat → Int × Int)
  | 0 => centre
  | l + 1 =>
    let v := levelVectors (a (l + 1)) (b (l + 1)) size (levelDim w (l + 1)) (levelDim h (l + 1)) centre
    searchDown a b size w h (centreFrom v) l

/-! ### Refinement and records (R203–R205) -/

/-- A parabolic fit in 1/unit steps, limited to half a step. -/
def parabola (cm c0 cp : Nat) (unit : Nat) : Int :=
  let den : Int := 2 * ((cm : Int) - 2 * c0 + cp)
  if den ≤ 0 then 0
  else clampInt (-((unit / 2 : Nat) : Int)) (unit / 2 : Nat) (rneDiv (((cm : Int) - cp) * unit) den.toNat)

/-- What level 0 finds for a block: the vector in 1/32 pixel, c1 and c2. -/
structure FlowResult where
  x : Int
  y : Int
  c1 : Nat
  c2 : Nat
  deriving DecidableEq, Repr

/-- Level 0 of a block (R203, R204). -/
def flowBlock (a b : Image) (size bx by_ : Nat) (c : Int × Int) : FlowResult :=
  let cs := searchCosts a b size (bx * size) (by_ * size) c
  let best := bestOffset cs
  let o := best.1
  let cost (dx dy : Int) : Nat :=
    match cs.find? fun e => e.1 == (o.1 + dx, o.2 + dy) with
    | some e => e.2
    | none => 0
  let fx := if o.1.natAbs = 8 then 0 else parabola (cost (-1) 0) best.2 (cost 1 0) 32
  let fy := if o.2.natAbs = 8 then 0 else parabola (cost 0 (-1)) best.2 (cost 0 1) 32
  let far := cs.filter fun e => decide (1 < (e.1.1 - o.1).natAbs) || decide (1 < (e.1.2 - o.2).natAbs)
  let c2 := match leastBy (fun e : (Int × Int) × Nat => [e.2]) far with | some e => e.2 | none => 0
  { x := clampInt (-32766) 32767 (32 * (c.1 + o.1) + fx), y := clampInt (-32766) 32767 (32 * (c.2 + o.2) + fy), c1 := best.2,
    c2 := c2 }

/-- Level 0 of every block. -/
def flowField (a b : Nat → Image) (size w h levels : Nat) (centre : Nat → Nat → Int × Int) : List (List FlowResult) :=
  let c0 := searchDown a b size w h centre (levels - 1)
  (rangeFrom 0 (ceilDiv h size)).map fun by_ => (rangeFrom 0 (ceilDiv w size)).map fun bx =>
    flowBlock (a 0) (b 0) size bx by_ (c0 bx by_)

/-- The confidence of a block (R204). -/
def FlowResult.confidence (r : FlowResult) : Nat := 255 * (r.c2 - r.c1) / (r.c2 + 1)

/-- The block nearest to a point in 1/32 pixel. -/
def nearestBlock (size count : Nat) (p : Int) : Nat := (clampInt 0 ((count : Int) - 1) (p / (32 * size : Nat))).toNat

/-- Is a block occluded: its vector and the backward vector do not cancel (R204)? -/
def occluded (back : List (List FlowResult)) (size bx by_ thr : Nat) (r : FlowResult) : Bool :=
  let rows := back.length
  let cols := (back.headD []).length
  let px : Int := 32 * (bx * size + size / 2 : Nat) - r.x
  let py : Int := 32 * (by_ * size + size / 2 : Nat) - r.y
  match (back.getD (nearestBlock size rows py) [])[nearestBlock size cols px]? with
  | some u => decide (thr < (r.x + u.x).natAbs) || decide (thr < (r.y + u.y).natAbs)
  | none => false

/-- A flow record (Table 8.5). -/
def flowRecord (r : FlowResult) (code : Option Nat) (conf flags : Nat) (cost : Bool) : List Byte :=
  let c (v : Int) : List Byte := leBytes 2 (code.getD (twosNat 16 v))
  c r.x ++ c r.y ++ leBytes 1 (if code.isSome then 0 else conf) ++ leBytes 1 flags
    ++ leBytes 2 (if cost then min r.c1 0xFFFF else 0)

/-- The centre that a hint gives at the coarsest level: its vector divided by 2^(L − 1), in whole pixels. -/
def hintCentre (rows : List (List Byte)) (levels : Nat) (size : Nat) (bx by_ : Nat) : Int × Int :=
  -- the coarsest level's block covers 2^(L−1) × 2^(L−1) blocks of level 0
  let r := sliceBytes (rows.getD (min (by_ * 2 ^ (levels - 1)) (rows.length - 1)) []) (8 * (bx * 2 ^ (levels - 1))) 8
  let dx := leAt r 0 2
  if dx = 0x8000 ∨ dx = 0x8001 ∨ size = 0 then (0, 0)
  else (rneDiv (signedOf 16 dx) (32 * 2 ^ (levels - 1)), rneDiv (signedOf 16 (leAt r 2 2)) (32 * 2 ^ (levels - 1)))

/-- The work of a flow stage on engine `e` (Table 8.4). -/
def State.flowWork (s : State) (e ctx : Nat) (d : List Byte) : Try State := do
  let w := leAt d 0x30 2
  let h := leAt d 0x32 2
  let levels := leAt d 0x34 1
  let mode := leAt d 0x35 1
  let size := if natBit mode 0 then 16 else 8
  let fb := natBit mode 1
  let hint := natBit mode 2
  let cols := ceilDiv w size
  let rows := ceilDiv h size
  let as_ ← (rangeFrom 0 levels).mapM (s.readLevel ctx (leAt d 0x20 8) w h)
  let bs ← (rangeFrom 0 levels).mapM (s.readLevel ctx (leAt d 0x28 8) w h)
  let hints ← if hint then s.readImage ctx (leAt d 0x48 8) (leAt d 0x40 4) (8 * cols) rows else .ok []
  let a (l : Nat) : Image := as_.getD l []
  let b (l : Nat) : Image := bs.getD l []
  let field := flowField a b size w h levels (if hint then hintCentre hints levels size else fun _ _ => (0, 0))
  let back := if fb then flowField b a size w h levels (fun _ _ => (0, 0)) else []
  let thr := if leAt d 0x37 1 = 0 then 32 else leAt d 0x37 1
  let mark (bx by_ : Nat) (r : FlowResult) : Option Nat :=
    if r.confidence < leAt d 0x36 1 then some 0x8000
    else if fb && occluded back size bx by_ thr r then some 0x8001 else none
  let marked := mapPlaces (fun by_ row => mapPlaces (fun bx r => (r, mark bx by_ r)) 0 row) 0 field
  let flags := b2n hint + 2 * b2n fb
  let cost := natBit (leAt d 2 1) 3
  let out := marked.map fun row => (row.map fun p => flowRecord p.1 p.2 p.1.confidence flags cost).flatten
  let t ← s.writeImage ctx (leAt d 0x38 8) (leAt d 0x40 4) out
  let n (code : Nat) : Nat := (marked.flatten.filter fun p => p.2 == some code).length
  let t := (t.count R.VIS_ENG_CNT_NOMATCH [e] (n 0x8000)).count R.VIS_ENG_CNT_OCCL [e] (n 0x8001)
  .ok (t.account ctx 1 (2 * levelOffset w h levels + 8 * cols * rows * (1 + b2n hint)))

/-! ### Stereo (R208, R209) -/

/-- What a level of the matcher works with. -/
structure StereoLevel where
  w : Nat
  h : Nat
  left : Image
  right : Image
  /-- Candidates of a pixel: the first and their number, none where none lies in range. -/
  cands : List (List (Nat × Nat))
  p1 : Nat
  p2 : Nat

/-- The candidates of a pixel. -/
def StereoLevel.range (v : StereoLevel) (x y : Nat) : Nat × Nat := (v.cands.getD y []).getD x (0, 0)

/-- Matching cost. -/
def StereoLevel.match_ (v : StereoLevel) (x y d : Nat) : Nat :=
  hamming (census v.left x y) (census v.right ((x : Int) - d) y)

/-- The path cost of a neighbour at disparity `d`; outside its window it is 24 + P2. -/
def StereoLevel.costAt (v : StereoLevel) (lo : Nat) (cs : List Nat) (d : Int) : Nat :=
  if d < lo then 24 + v.p2 else cs.getD (d.toNat - lo) (24 + v.p2)

/-- Path costs of a pixel's candidates along direction (rx, ry); `fuel` steps back reach the border. -/
def StereoLevel.path (v : StereoLevel) (rx ry : Int) : Nat → Int → Int → List Nat
  | 0, _, _ => []
  | fuel + 1, x, y =>
    let (lo, n) := v.range x.toNat y.toNat
    let px := x - rx
    let py := y - ry
    let own (d : Nat) : Nat := v.match_ x.toNat y.toNat d
    if px < 0 ∨ py < 0 ∨ (v.w : Int) ≤ px ∨ (v.h : Int) ≤ py then (rangeFrom lo n).map own
    else
      let cs := v.path rx ry fuel px py
      let plo := (v.range px.toNat py.toNat).1
      let least := cs.foldl min (24 + v.p2)
      (rangeFrom lo n).map fun (d : Nat) =>
        let best := min (min (v.costAt plo cs d) (v.costAt plo cs ((d : Int) - 1) + v.p1))
          (min (v.costAt plo cs ((d : Int) + 1) + v.p1) (least + v.p2))
        own d + best - least

/-- The directions of the paths. -/
def stereoPaths (eight : Bool) : List (Int × Int) :=
  [(1, 0), (-1, 0), (0, 1), (0, -1)] ++ (if eight then [(1, 1), (-1, -1), (1, -1), (-1, 1)] else [])

/-- The aggregated costs of a pixel's candidates. -/
def StereoLevel.aggregate (v : StereoLevel) (eight : Bool) (x y : Nat) : List Nat :=
  let ps := (stereoPaths eight).map fun r => v.path r.1 r.2 (v.w + v.h) x y
  (rangeFrom 0 (v.range x y).2).map fun i => (ps.map fun p => p.getD i 0).sum

/-- The place of the least cost, the first of equal ones. -/
def leastPlace (cs : List Nat) : Option (Nat × Nat) := leastBy (fun e : Nat × Nat => [e.2]) (mapPlaces (fun i c => (i, c)) 0 cs)

/-- Best whole disparities of a level, none for a pixel without a candidate. -/
abbrev Disparities := List (List (Option Nat))

/-- The aggregated volume of a level. -/
def StereoLevel.volume (v : StereoLevel) (eight : Bool) : List (List (List Nat)) :=
  (rangeFrom 0 v.h).map fun y => (rangeFrom 0 v.w).map fun x => v.aggregate eight x y

/-- The best disparities. -/
def StereoLevel.best (v : StereoLevel) (vol : List (List (List Nat))) : Disparities :=
  mapPlaces (fun y row => mapPlaces (fun x cs => (leastPlace cs).map fun e => (v.range x y).1 + e.1) 0 row) 0 vol

/-- Candidates from `lo` to `hi` of a level of `n` disparities, those that lie in the image for a pixel at `x`. -/
def candRange (x n : Nat) (lo hi : Int) : Nat × Nat :=
  let a := (max 0 lo).toNat
  let b := (min (min hi ((n : Int) - 1)) x)
  (a, (b + 1 - a).toNat)

/-- The median of a non-empty list, the lower of two. -/
def lowMedian (xs : List Nat) : Nat := (sortBy (fun n => [n]) xs).getD ((xs.length - 1) / 2) 0

/-- The valid disparities around a position of the level above. -/
def aroundAbove (up : Disparities) (x y : Nat) : List Nat :=
  ((rangeFrom 0 3).map fun (j : Nat) => (rangeFrom 0 3).filterMap fun (i : Nat) =>
    let px : Int := (x / 2 : Nat) + (i : Int) - 1
    let py : Int := (y / 2 : Nat) + (j : Int) - 1
    if px < 0 ∨ py < 0 then none else ((up.getD py.toNat [])[px.toNat]?).join).flatten

/-- The candidate windows of one row: a pixel without valid disparities above takes the centre of the one before it. -/
def rowCands (up : Disparities) (n window y : Nat) : Nat → Nat → Nat → List (Nat × Nat)
  | 0, _, _ => []
  | k + 1, x, prev =>
    let near := aroundAbove up x y
    let c := if near.isEmpty then prev else min (n - 1) (2 * lowMedian near)
    candRange x n ((c : Int) - window) (c + window : Nat) :: rowCands up n window y k (x + 1) c

/-- Level `l` of a stereo stage, under the disparities of the level above, and its volume. -/
def stereoLevel (left right : Nat → Image) (w h dmax p1 p2 window : Nat) (eight : Bool) (l : Nat) (up : Option Disparities) :
    StereoLevel × List (List (List Nat)) :=
  let lw := levelDim w l
  let lh := levelDim h l
  let n := dmax / 2 ^ l
  let cands := match up with
    | none => (rangeFrom 0 lh).map fun _ => (rangeFrom 0 lw).map fun x => candRange x n 0 ((n : Int) - 1)
    | some u => (rangeFrom 0 lh).map fun y => rowCands u n window y lw 0 0
  let v : StereoLevel := { w := lw, h := lh, left := left l, right := right l, cands := cands, p1 := p1, p2 := p2 }
  (v, v.volume eight)

/-- The search from a coarsest level down to level 0. -/
def stereoSearch (level : Nat → Option Disparities → StereoLevel × List (List (List Nat))) :
    Nat → Option Disparities → StereoLevel × List (List (List Nat))
  | 0, up => level 0 up
  | l + 1, up =>
    let r := level (l + 1) up
    stereoSearch level l (some (r.1.best r.2))

/-- A pixel's disparity in 1/16 pixel from the costs of consecutive disparities from `lo` on. -/
def refine16 (lo : Nat) (cs : List Nat) (i : Nat) : Int :=
  let fit := if i = 0 ∨ cs.length ≤ i + 1 then 0 else parabola (cs.getD (i - 1) 0) (cs.getD i 0) (cs.getD (i + 1) 0) 16
  16 * (lo + i : Nat) + fit

/-- The right-reference disparity of a right pixel, in 1/16 pixel (R209). -/
def rightDisparity (v : StereoLevel) (vol : List (List (List Nat))) (dmax xr y : Nat) : Option Int :=
  let cost (d : Nat) : Option Nat :=
    let (lo, n) := v.range (xr + d) y
    if lo ≤ d ∧ d < lo + n then ((vol.getD y []).getD (xr + d) [])[d - lo]? else none
  let all := (rangeFrom 0 dmax).filterMap fun d => (cost d).map fun c => (d, c)
  (leastBy (fun e : Nat × Nat => [e.2]) all).map fun (d, c) =>
    match (if d = 0 then none else cost (d - 1)), cost (d + 1) with
    | some m, some p => 16 * (d : Int) + parabola m c p 16
    | _, _ => 16 * (d : Int)

/-- What a pixel gets: disparity word, confidence, c1. -/
def stereoPixel (v : StereoLevel) (vol : List (List (List Nat))) (dmax u : Nat) (lr : Option Nat) (x y : Nat) :
    Nat × Nat × Nat :=
  let cs := (vol.getD y []).getD x []
  let lo := (v.range x y).1
  match leastPlace cs with
  | none => (0xFFFF, 0, 0)
  | some (i, c1) =>
    let far := (mapPlaces (fun j c => (j, c)) 0 cs).filter fun e => decide (i + 1 < e.1) || decide (e.1 + 1 < i)
    match leastBy (fun e : Nat × Nat => [e.2]) far with
    | none => (0xFFFF, 0, c1)
    | some (_, c2) =>
      if (100 - u) * c2 < 100 * c1 then (0xFFFF, 0, c1)
      else
        let d := refine16 lo cs i
        let hidden := match lr with
          | none => false
          | some thr =>
            let xr := (x : Int) - rneDiv d 16
            if xr < 0 then true
            else match rightDisparity v vol dmax xr.toNat y with
              | some r => decide (thr < (d - r).natAbs)
              | none => true
        if hidden then (0xFFFE, 0, c1) else (d.toNat, 255 * (c2 - c1) / c2, c1)

/-- The work of a stereo stage on engine `e` (Table 8.6). -/
def State.stereoWork (s : State) (e ctx : Nat) (d : List Byte) : Try State := do
  let w := leAt d 0x30 2
  let h := leAt d 0x32 2
  let levels := leAt d 0x34 1
  let dmax := leAt d 0x36 2
  let ls ← (rangeFrom 0 levels).mapM (s.readLevel ctx (leAt d 0x20 8) w h)
  let rs ← (rangeFrom 0 levels).mapM (s.readLevel ctx (leAt d 0x28 8) w h)
  let (v, vol) := stereoSearch
    (stereoLevel (fun l => ls.getD l []) (fun l => rs.getD l []) w h dmax (leAt d 0x38 1) (leAt d 0x39 1) (leAt d 0x3A 1)
      (natBit (leAt d 0x35 1) 0)) (levels - 1) none
  let thr := if leAt d 0x3C 1 = 0 then 16 else leAt d 0x3C 1
  let lr := if natBit (leAt d 0x35 1) 1 then some thr else none
  let out := (rangeFrom 0 h).map fun y => (rangeFrom 0 w).map fun x => stereoPixel v vol dmax (leAt d 0x3B 1) lr x y
  let pitch := leAt d 0x58 4
  let cost := natBit (leAt d 2 1) 3
  let t ← s.writeImage ctx (leAt d 0x40 8) pitch (out.map fun r => (r.map fun p => leBytes 2 p.1).flatten)
  let t ← t.writeImage ctx (leAt d 0x48 8) (pitch / 2) (out.map fun r => (r.map fun p => leBytes 1 p.2.1).flatten)
  let t ← if cost then
      t.writeImage ctx (leAt d 0x50 8) pitch (out.map fun r => (r.map fun p => leBytes 2 p.2.2).flatten)
    else .ok t
  let n (code : Nat) : Nat := (out.flatten.filter fun p => p.1 == code).length
  let t := (t.count R.VIS_ENG_CNT_NOMATCH [e] (n 0xFFFF)).count R.VIS_ENG_CNT_OCCL [e] (n 0xFFFE)
  .ok (t.account ctx 1 (2 * levelOffset w h levels + w * h * (3 + 2 * b2n cost)))

/-! ### Stages -/

/-- A chain ends with a status, and the dispatcher goes on. -/
def State.failChain (s : State) (c : Chain) (status : Nat) : State := (s.endChain c status).visGo

/-- What a stage reads and writes: first byte and bytes (Tables 8.3, 8.4, 8.6). -/
def stageTraffic (d : List Byte) : List (Nat × Nat) × List (Nat × Nat) :=
  match leAt d 0 1 with
  | 1 =>
    let w := leAt d 0x2C 2
    let h := leAt d 0x2E 2
    let row := 8 * (ceilDiv w 16 + 1)
    ((leAt d 0x20 8, leAt d 0x28 4 * (h - 1) + w * sourceBytes (leAt d 0x30 1))
        :: (if leAt d 0x33 1 = 1 then [(leAt d 0x40 8, row * (ceilDiv h 16 + 1))] else []),
      [(leAt d 0x38 8, levelOffset w h (leAt d 0x32 1))])
  | 2 =>
    let n := levelOffset (leAt d 0x30 2) (leAt d 0x32 2) (leAt d 0x34 1)
    let size := if natBit (leAt d 0x35 1) 0 then 16 else 8
    let field := leAt d 0x40 4 * (ceilDiv (leAt d 0x32 2) size - 1) + 8 * ceilDiv (leAt d 0x30 2) size
    ([(leAt d 0x20 8, n), (leAt d 0x28 8, n)] ++ (if natBit (leAt d 0x35 1) 2 then [(leAt d 0x48 8, field)] else []),
      [(leAt d 0x38 8, field)])
  | _ =>
    let h := leAt d 0x32 2
    let n := levelOffset (leAt d 0x30 2) h (leAt d 0x34 1)
    let pitch := leAt d 0x58 4
    ([(leAt d 0x20 8, n), (leAt d 0x28 8, n)],
      [(leAt d 0x40 8, pitch * h), (leAt d 0x48 8, pitch / 2 * h)]
        ++ (if natBit (leAt d 2 1) 3 then [(leAt d 0x50 8, pitch * h)] else []))

/-- It passes the regulators of the chain's partition (R18, R280). -/
def State.stagePasses (s : State) (ctx : Nat) (d : List Byte) : State :=
  let s := (stageTraffic d).1.foldl (fun s r => s.hubRead (s.ctxPart ctx) r.1 r.2) s
  (stageTraffic d).2.foldl (fun s r => s.hubWrote (s.ctxPart ctx) r.1 r.2) s

/-- The stage that an engine runs, when it has yet to do its work: the work, or the end of its chain (R199). -/
def State.onStage (s : State) (e : Nat) (work : State → Nat → List Byte → Try State) : State :=
  match s.running e with
  | none => s
  | some (c, i) =>
    match c.stages[i]? with
    | none => s
    | some x =>
      if x.done then s
      else
        match work s c.ctx x.desc with
        | .ok t => (t.stagePasses c.ctx x.desc).setStage c i fun y => { y with done := true }
        | .error (st, _) => s.failChain c st

/-- PYRAMID_STAGE. -/
def execPyramidStage (builder : Fin 4) (s : State) : Host.Outcome State Fault Refusal :=
  s.live fun s => s.onStage (12 + builder.val) State.pyramidWork

/-- FLOW_STAGE. -/
def execFlowStage (engine : Fin 5) (s : State) : Host.Outcome State Fault Refusal :=
  s.live fun s => s.onStage engine.val fun s ctx d => s.flowWork engine.val ctx d

/-- STEREO_STAGE. -/
def execStereoStage (engine : Fin 2) (s : State) : Host.Outcome State Fault Refusal :=
  s.live fun s => s.onStage (8 + engine.val) fun s ctx d => s.stereoWork (8 + engine.val) ctx d

/-- VIS_STAGE_END: a running stage whose work is done ends (R195). -/
def execVisStageEnd (engine : Fin 16) (ns : Word) (s : State) : Host.Outcome State Fault Refusal :=
  s.live fun s =>
    let e := engine.val
    match s.running e with
    | none => s
    | some (c, i) =>
      if !(c.stages.any fun x => x.state == .running e && x.done) then s
      else
        let s := (s.count R.VIS_ENG_CNT_STAGES [e] 1).count R.VIS_ENG_BUSY_CLK [e] ns.toNat
        let s := s.poke R.VIS_ENG_LAST_NS [e] ns
        (s.setStage { c with engineNs := c.engineNs + ns.toNat } i fun x => { x with state := .ended }).visGo

/-- The priority of the first ready stage that may run on an engine. -/
def State.waitingFor (s : State) (e : Nat) : Option Nat :=
  ([1, 2, 3] : List Nat).findSome? fun op =>
    ((s.readyStages op).find? fun t => (s.stageEngines t.2.2).contains e).map fun t => t.1.prio

/-- VIS_STAGE_STOP: at the end of a band a running stage gives way to one of higher priority, unless its engine holds a stopped
stage (R197). -/
def execVisStageStop (engine : Fin 16) (s : State) : Host.Outcome State Fault Refusal :=
  s.live fun s =>
    let e := engine.val
    match s.running e, s.waitingFor e with
    | some (c, i), some prio =>
      if decide (prio < c.prio) && (s.stoppedOn e).isNone then
        let s := s.countSat R.VIS_ENG_CNT_SUSPEND [e] 1 R.VIS_ENG_CNT_OVF [e] 0
        (s.setStage c i fun x => { x with state := .stopped e }).visRun
      else s
    | _, _ => s

/-- VIS_STAGE_RESUME: the stopped stage of an idle engine goes on when none of higher priority waits (R197). -/
def execVisStageResume (engine : Fin 16) (s : State) : Host.Outcome State Fault Refusal :=
  s.live fun s =>
    let e := engine.val
    match s.stoppedOn e with
    | some (c, i) =>
      let higher := match s.waitingFor e with | some p => decide (p < c.prio) | none => false
      if (s.running e).isSome || higher then s else (s.setStage c i fun x => { x with state := .running e }).visRun
    | none => s

/-- VIS_CHAIN_SUBMIT (R194). A task program stalls until a place is free; a sketch unit's descriptor is one that waits; a
capture stream's is the one that its trigger submitted. -/
def execVisChainSubmit (source : ChainFrom) (addr : BitVec 48) (s : State) : Host.Outcome State Fault Refusal :=
  s.live fun s =>
    match source with
    | .host => (s.submitChain .host addr.toNat).1
    | .task n =>
      match s.slotNamed n with
      | some x =>
        if s.stalls x then s
        else if s.visFull then
          s.withVis { s.vis with waiting := s.vis.waiting ++
            [{ qid := x.qid, seq := x.seq, addr := addr.toNat, site := some (x.core, x.idx) }] }
        else s.acceptChain .task addr.toNat
      | none => s
    | .sketch q seq =>
      match s.vis.waiting with
      | w :: _ => if w.qid = q.val ∧ w.seq = seq ∧ w.addr = addr.toNat ∧ w.site = none then s.visWaiting else s
      | [] => s
    | .capture n i =>
      let held := s.fld R.CAP_V_STATE [n.val] (2 * i.val + 1) (2 * i.val) == 3
      if held && !(s.vis.chains.any fun c => c.source == .capture n.val i.val) then
        (s.submitChain (.capture n.val i.val) addr.toNat).1
      else s

/-! ### Failures and timeouts -/

/-- Stages on a failed engine start again from the beginning, on F4 where it takes the engine's place. A stage restarts once: one
that has ends its chain with 0x3F (log 31). -/
def State.restartStages (s : State) (e : Nat) (pin : Option Nat) : State :=
  let hit (x : Stage) : Bool := x.state == .running e || x.state == .stopped e
  let twice := s.openChains.filter fun c => c.stages.any fun x => hit x && x.restarted
  let s := twice.foldl (fun s c => s.endChain c 0x3F) s
  let n := (s.openChains.map fun c => (c.stages.filter hit).length).sum
  let again (x : Stage) : Stage :=
    if hit x then { x with state := .waiting, done := false, restarted := true, pin := pin } else x
  let chains := s.vis.chains.map fun c => { c with stages := c.stages.map again }
  (s.withVis { s.vis with chains := chains }).countSat R.VIS_CD_CNT_RESTART [] n R.VIS_CD_CNT_OVF [] 1

/-- A physical engine serves a logical index no more. -/
def State.dropEngine (s : State) (e : Nat) : State :=
  (s.setBit R.VIS_ENG_STATUS [e] 4 true).setBit R.VIS_ENG_STATUS [e] 5 false

/-- A logical flow engine loses its physical one: F4 takes its place if it is free, else it is absent (R207). -/
def State.failFlow (s : State) (e : Nat) : State :=
  let s := s.dropEngine e
  match (rangeFrom 0 4).find? fun l => s.fld R.VIS_CD_FMAP [] (4 * l + 2) (4 * l) == e && !s.engineAbsent 2 l with
  | none => s
  | some l =>
    if s.bit R.VIS_CD_STATUS [] 20 || s.bit R.VIS_ENG_STATUS [4] 4 then s.setBit R.VIS_CD_STATUS [] (10 + l) true
    else
      let s := (s.setFld R.VIS_CD_FMAP [] (4 * l + 2) (4 * l) 4).setBit R.VIS_CD_STATUS [] 20 true
      (s.setBit R.VIS_ENG_STATUS [4] 5 true).setFld R.VIS_ENG_STATUS [4] 11 8 l

/-- The engines that exist. -/
def visEngines : List Nat := [0, 1, 2, 3, 4, 8, 9, 12, 13, 14, 15]

/-- An engine is lost (R207, R300): a flow engine is replaced by F4 where that is free; another engine is absent. -/
def State.withdrawEngine (s : State) (e : Nat) : State :=
  if e < 5 then s.failFlow e
  else if e < 12 then (s.dropEngine e).setBit R.VIS_CD_STATUS [] (14 + (e - 8)) true
  else (s.dropEngine e).setBit R.VIS_CD_STATUS [] (16 + (e - 12)) true

/-- An engine is lost, and its stages restart. -/
def State.loseEngine (s : State) (e : Nat) : State :=
  let t := s.withdrawEngine e
  t.restartStages e (if !s.bit R.VIS_CD_STATUS [] 20 && t.bit R.VIS_CD_STATUS [] 20 then some 4 else none)

/-- VIS_ENGINE_FAIL (R207): the engine is failed, its stages restart, and an error record tells (Table 16.4). -/
def execVisEngineFail (engine : Fin 16) (s : State) : Host.Outcome State Fault Refusal :=
  s.live fun s =>
    let e := engine.val
    if !visEngines.contains e || s.bit R.VIS_ENG_STATUS [e] 4 then s
    else
      ((s.loseEngine e).raise { cls := 0, code := 0x0E, unit := hubUnit (0x00300000 + 0x10000 * e) }).visGo

/-- VIS_CHAIN_TIMEOUT: a chain with a timeout ends with 0x12 (R199). -/
def execVisChainTimeout (chain : Nat) (s : State) : Host.Outcome State Fault Refusal :=
  s.live fun s =>
    match s.openChains.find? fun c => c.ident == chain with
    | some c => if c.timeout = 0 then s else s.failChain c 0x12
    | none => s

end Sys2Proof.Machine
end

