-- ==== Sys2Proof/Machine/Report.lean ====
section
/-! DEFINITION. The bring-up report (R313) and the withdrawal of hub blocks (R300, R308). -/

namespace Sys2Proof.Machine

/-- A bring-up event, at the end of every step (R299); the spec gives it no code. -/
def State.bootEvent (s : State) : State := s.eventOpen 0x01 0 []

/-! ### The report ring (R313) -/

/-- The 16 bytes of a report entry (Table 13.4). -/
def Report.encode (r : Report) : List Byte :=
  leBytes 1 r.kind ++ sliceBytes r.loc 0 7 ++ leBytes 1 r.cause ++ leBytes 1 r.action ++ leBytes 6 r.time

/-- Is the report ring set? -/
def State.reportRingSet (s : State) : Bool :=
  let n := s.fld R.BRG_RPT_SIZE [] 12 0
  let base := s.rdAddr R.BRG_RPT_LO R.BRG_RPT_HI []
  isPow2 n && decide (16 ≤ n) && decide (n ≤ 4096) && base % 16 == 0 && inDramOrHub s.dev.assembly base (16 * n)

/-- Entries lost are counted; the sticky overflow is bit 31 of BRG_RPT_SIZE. -/
def State.reportLoss (s : State) : State := s.countSat R.BRG_RPT_LOSS [] 1 R.BRG_RPT_SIZE [] 31

/-- An entry goes to its place in the ring; a full ring loses its oldest one. -/
def State.putReport (s : State) (r : Report) : State :=
  let n := s.fld R.BRG_RPT_SIZE [] 12 0
  let wr := (s.rd R.BRG_RPT_WR []).toNat
  let t := s.write (s.rdAddr R.BRG_RPT_LO R.BRG_RPT_HI [] + 16 * (wr % n)) r.encode
  let t := t.poke R.BRG_RPT_WR [] (BitVec.ofNat 32 (wr + 1))
  let t := if n ≤ s.brg.fill then t.reportLoss else t
  (t.withBrg { t.brg with fill := s.brg.fill + 1 })

/-- A report entry is written, or held, or lost. -/
def State.report (s : State) (kind : Nat) (loc : List Byte) (cause action : Nat) : State :=
  let r : Report := { kind := kind, loc := loc, cause := cause, action := action, time := s.now }
  if s.reportRingSet then s.putReport r
  else if s.brg.held.length < 64 then s.withBrg { s.brg with held := s.brg.held ++ [r] }
  else s.reportLoss

/-- REPORT_RING_SET (R313): BRG_RPT_SIZE is written; a ring that it sets receives the held entries. -/
def execReportRingSet (value : Word) (s : State) : Host.Outcome State Fault Refusal :=
  s.awake fun s =>
    let s := s.setFld R.BRG_RPT_SIZE [] 12 0 (bits value 12 0)
    let s := s.withBrg { s.brg with fill := 0 }
    if s.reportRingSet then
      let held := s.brg.held
      held.foldl State.putReport (s.withBrg { s.brg with held := [] })
    else s

/-! ### Locations (Table 13.5) -/

/-- A location of up to seven bytes. -/
def locOf (bs : List Nat) : List Byte := sliceBytes (bs.map (BitVec.ofNat 8)) 0 7

/-! ### Hub blocks that are withdrawn (R300, R308) -/

/-- R300: a failed pipe is treated as failing when its `to_en` is first 1. -/
def State.lateTakeover (s : State) (p : Nat) : State :=
  if s.bit R.DSP_STATUS [p] 2 && decide (p < 4) && s.bit R.DSP_MAP [p] 3
      && s.brg.pipesOwed.contains p then
    ((s.withBrg { s.brg with pipesOwed := s.brg.pipesOwed.filter (· != p) }).pipeEvent p 0x09 []).startTakeover p
  else s

/-- A pipe is withdrawn: it is failed, shows nothing, and waits for its takeover. With P4 a takeover under way ends (R300, R308). -/
def State.withdrawPipe (s : State) (p cause : Nat) : State :=
  if s.bit R.DSP_STATUS [p] 2 then s
  else
    let s := s.setPipe p { s.pipe p with latched := none }
    let s := if p = 4 then s.withDsp { s.dsp with takeover := none } else s
    let s := (s.setBit R.DSP_STATUS [p] 2 true).setBit R.DSP_COMMIT [p] 17 false
    let s := s.withBrg { s.brg with pipesOwed := s.brg.pipesOwed ++ [p] }
    (s.report 4 (locOf [p]) cause 2).lateTakeover p

/-- A vision engine is withdrawn; a flow engine that F4 replaces is spared. -/
def State.withdrawVision (s : State) (e cause : Nat) : State :=
  if !visEngines.contains e || s.bit R.VIS_ENG_STATUS [e] 4 then s
  else
    let used := s.bit R.VIS_CD_STATUS [] 20
    let s := (s.loseEngine e).visGo
    let spared := !used && s.bit R.VIS_CD_STATUS [] 20
    s.report (if e < 5 then 5 else 10) (locOf [e]) cause (if spared then 1 else 2)

end Sys2Proof.Machine
end

