-- ==== Sys2Proof/Machine/Qzi.lean ====
section
/-! DEFINITION. The Quinzin configuration image: layout, records, verification, application and the seal (R285–R296, R301,
R308, R394–R396, R432). -/

namespace Sys2Proof.Machine

/-! ### Records (R287, R432, R325) -/

/-- A record of the integrator section: its offset in the image, its type, and all its bytes. -/
structure QRec where
  off : Nat
  typ : Nat
  body : List Byte
  deriving DecidableEq, Repr

/-- A little-endian field of a record. -/
def QRec.f (r : QRec) (o n : Nat) : Nat := leAt r.body o n

/-- The entry at an offset of a record. -/
def QRec.part (r : QRec) (o n : Nat) : List Byte := sliceBytes r.body o n

/-- The length that a type's layout gives a record, from its counts; none for a type that Table 12.2 does not list. -/
def QRec.layout (r : QRec) : Option Nat :=
  match r.typ with
  | 0x0001 => some 16
  | 0x0010 => some (24 + 16 * r.f 0x0A 1)
  | 0x0011 => some 24
  | 0x0012 => some 16
  | 0x0013 => some 40
  | 0x0014 => some 16
  | 0x0015 => some 16
  | 0x0020 => some 24
  | 0x0021 => some 64
  | 0x0022 => some 16
  | 0x0030 => some 16
  | 0x0031 => some 16
  | 0x0032 => some (roundUp (16 + 4 * r.f 0x09 1) 8)
  | 0x0040 => some (max 16 r.body.length)
  | 0x0041 => some (56 + 8 * r.f 0x30 4)
  | 0x0050 => some 40
  | 0x0060 => some 16
  | _ => none

/-- The regions of a PARTITION record (Table 12.3). -/
def QRec.regionBytes (r : QRec) : List (List Byte) := (rangeFrom 0 (r.f 0x0A 1)).map fun i => r.part (24 + 16 * i) 16

/-- The bytes of a record that are shown as 0: offset and count. -/
def QRec.zeroBytes (r : QRec) : List (Nat × Nat) :=
  match r.typ with
  | 0x0001 => [(0x09, 7)]
  | 0x0010 => (0x0B, 5) :: (rangeFrom 0 (r.f 0x0A 1)).map fun i => (24 + 16 * i + 13, 3)
  | 0x0011 => [(0x0E, 2)]
  | 0x0012 => [(0x0B, 1)]
  | 0x0013 => [(0x09, 3), (0x24, 4)]
  | 0x0014 => [(0x0B, 1)]
  | 0x0015 => [(0x0D, 1)]
  | 0x0020 => [(0x09, 7)]
  | 0x0021 => [(0x0A, 2), (0x1C, 4)]
  | 0x0022 => [(0x09, 3)]
  | 0x0030 => [(0x09, 3)]
  | 0x0031 => [(0x09, 3)]
  | 0x0032 => [(0x0A, 6), (16 + 4 * r.f 0x09 1, roundUp (4 * r.f 0x09 1) 8 - 4 * r.f 0x09 1)]
  | 0x0040 => [(0x09, 7)]
  | 0x0041 => [(0x09, 7), (0x34, 4)]
  | 0x0050 => [(0x0C, 4)]
  | 0x0060 => [(0x0C, 4)]
  | _ => []

/-- Clusters that a 16-bit mask names: (die, cluster). -/
def maskClusters (m : Nat) : List (Nat × Nat) :=
  ((rangeFrom 0 16).filter fun b => natBit m b).map fun b => (b / 8, b % 8)

/-- The logical cores of a SLOTS record: (die, cluster, core). -/
def QRec.cores (r : QRec) : List (Nat × Nat × Nat) :=
  (((rangeFrom 0 8).filter fun k => natBit (r.f 0x09 1) k).map fun k =>
    (rangeFrom (r.f 0x0A 1) (r.f 0x0B 1)).map fun c => (r.f 0x08 1, k, c)).flatten

/-- The objects that a record names (R432). -/
def QRec.objects (r : QRec) : List (List Nat) :=
  match r.typ with
  | 0x0001 => [[1]]
  | 0x0011 => r.cores.map fun c => [0x11, c.1, c.2.1, c.2.2, r.f 0x0C 1]
  | 0x0012 => (maskClusters (r.f 0x08 2)).map fun c => [0x12, c.1, c.2, r.f 0x0A 1]
  | 0x0014 => [[0x14, r.f 0x08 1, r.f 0x09 1, r.f 0x0A 1]]
  | 0x0015 => (rangeFrom (r.f 0x08 2) (r.f 0x0A 2 + 1 - r.f 0x08 2)).map fun k => [0x15, k]
  | 0x0050 => [[0x50]]
  | 0x0060 => [[0x60]]
  | t => [[t, r.f 0x08 1]]

/-- Is a record of a listed type well formed (0x07)? -/
def QRec.formed (r : QRec) : Bool :=
  r.layout == some r.body.length && r.zeroBytes.all fun z => (r.part z.1 z.2).all (· == 0)

/-- Read the records, and the offset of the first one that is malformed or breaks R287. `left` is what remains of the
section up to its signature. -/
def readRecords : Nat → Nat → List Byte → List (List Nat) → List QRec → List QRec × Option Nat
  | 0, off, left, _, acc => (acc, if left.isEmpty then none else some off)
  | n + 1, off, left, seen, acc =>
    if left.isEmpty then (acc, none)
    else
      let len := leAt left 4 4
      if left.length < 8 || decide (len < 8) || len % 8 != 0 || decide (left.length < len) then (acc, some off)
      else
        let r : QRec := { off := off, typ := leAt left 0 2, body := left.take len }
        if r.layout.isNone then
          if natBit (leAt left 2 2) 0 then readRecords n (off + len) (left.drop len) seen acc else (acc, some off)
        else if !r.formed || r.objects.any seen.contains then (acc, some off)
        else readRecords n (off + len) (left.drop len) (seen ++ r.objects) (acc ++ [r])

/-! ### Ranges (0x08) -/

/-- Does a value set bits of a register that the image does not write? -/
def fitsReg (r : Reg) (v : Nat) : Bool := (BitVec.ofNat 32 v &&& ~~~r.rwl) == 0

/-- The shares that a SLOTS record gives. -/
def QRec.share (r : QRec) : SlotShare :=
  let m : Word := BitVec.ofNat 32 (r.f 0x10 4)
  let e : Word := BitVec.ofNat 32 (r.f 0x14 4)
  { memBase := bits m 4 0, memUnits := bits m 12 8, insBase := bits m 19 16, insUnits := bits m 27 24,
    hamBase := bits e 4 0, hamCount := bits e 13 8, accBase := bits e 18 16, accUnits := bits e 23 20,
    part := bits e 27 24, valid := bits e 31 31 == 1 }

/-- A REGULATOR record names a resource of the assembly (R284). -/
def regulatorExists (asm : Assembly) (kind index : Nat) : Bool :=
  match kind with
  | 0 => decide (index < asm.stacks)
  | 1 => decide (index / 4 < asm.computeDies) && (index % 4 != 1 || asm.memDies == 2)
      && (index % 4 != 3 || asm.computeDies == 2)
  | 2 => decide (index < asm.computeDies)
  | _ => false

/-- The RWL register that a pair of a TSN record names. -/
def tsnReg (port off : Nat) : Option (Reg × List Nat) :=
  if off == 0x010 || within 0x040 0x07F off || within 0x1000 0x2FFF off then
    match findReg R.regTable (0x40000 + 0x10000 * port + off) with
    | some x => if x.1.rwl = 0 then none else some x
    | none => none
  else none

/-- The pairs of a TSN record. -/
def QRec.pairs (r : QRec) : List (Nat × Nat) :=
  (rangeFrom 0 ((r.body.length - 16) / 8)).map fun i => (r.f (16 + 8 * i) 4, r.f (20 + 8 * i) 4)

/-- A value that a TSN record gives lies in its register's range (Tables 14.2 and 14.7): 802.1CB belongs to ETH0 alone. -/
def tsnGood (port : Nat) (p : Nat × Nat) : Bool :=
  match tsnReg port p.1 with
  | none => false
  | some x =>
    let frer := within 0x2C00 0x2CFF p.1
    fitsReg x.1 p.2 && (p.1 != 0x050 || within 1 256 p.2) && (p.1 != 0x044 || within 1000 1000000000 p.2)
      && (p.1 != 0x040 || ((!natBit p.2 3 || p.2 / 16 % 128 != 0) && !(port == 1 && natBit p.2 2)))
      && (!frer || port == 0)
      && (!(frer && p.1 % 16 == 8) || (within 1 32 (p.2 % 64) && within 1 1000 (p.2 / 65536 % 1024)))

/-- Does every field of a record lie in its range? -/
def QRec.inRange (asm : Assembly) (r : QRec) : Bool :=
  match r.typ with
  | 0x0001 => decide (r.f 0x08 1 ≤ 3)
  | 0x0010 => decide (r.f 0x08 1 ≤ 15) && decide (r.f 0x09 1 < 128) && decide (r.f 0x0A 1 ≤ 32) &&
      r.regionBytes.all fun e =>
        leAt e 0 8 % 4096 == 0 && decide (1 ≤ leAt e 8 4) && decide (leAt e 12 1 < 8)
          && inDramOrHub asm (leAt e 0 8) (4096 * leAt e 8 4)
  | 0x0011 =>
      let x := r.share
      decide (r.f 0x08 1 < asm.computeDies) && decide (r.f 0x0A 1 ≤ 15) && within 1 16 (r.f 0x0B 1)
        && decide (r.f 0x0A 1 + r.f 0x0B 1 ≤ 16) && decide (r.f 0x0C 1 ≤ 3) && decide (r.f 0x0D 1 ≤ 15)
        && fitsReg R.CORE_SLOT_MEM (r.f 0x10 4) && fitsReg R.CORE_SLOT_EXE (r.f 0x14 4) && x.valid && x.part == r.f 0x0D 1
        && decide (x.memBase ≤ 23) && decide (x.memUnits ≤ 24) && decide (x.insBase ≤ 11) && decide (x.insUnits ≤ 12)
        && decide (x.hamCount ≤ 32) && decide (x.accUnits ≤ 8)
  | 0x0012 => (maskClusters (r.f 0x08 2)).all (fun c => decide (c.1 < asm.computeDies)) && decide (r.f 0x0A 1 ≤ 15)
      && decide (r.f 0x0C 1 ≤ 191) && decide (r.f 0x0D 1 ≤ 192) && decide (r.f 0x0E 1 ≤ 191) && decide (r.f 0x0F 1 ≤ 192)
  | 0x0013 => decide (r.f 0x08 1 ≤ 63) && fitsReg R.SCH_CTX_CFG (r.f 0x0C 4) && natBit (r.f 0x0C 4) 4
      && r.f 0x10 8 % 256 == 0 && r.f 0x18 8 % 4096 == 0
  | 0x0014 => regulatorExists asm (r.f 0x08 1) (r.f 0x09 1) && decide (r.f 0x0A 1 ≤ 15) && fitsReg R.SCH_REG_CFG (r.f 0x0C 4)
  | 0x0015 => decide (r.f 0x08 2 ≤ r.f 0x0A 2) && decide (r.f 0x0A 2 ≤ 4095) && decide (r.f 0x0C 1 ≤ 15)
      && decide (1 ≤ r.f 0x0E 2)
  | 0x0020 => decide (r.f 0x08 1 ≤ 4) && fitsReg R.DSP_MAP (r.f 0x10 4) && decide (r.f 0x10 4 / 16 % 8 ≤ 4)
      && fitsReg R.DSP_ASR (r.f 0x14 4)
  | 0x0021 => decide (r.f 0x08 1 ≤ 3) && decide (r.f 0x09 1 ≤ 3) && fitsReg R.EDP_SRC (r.f 0x0C 4)
      && decide (r.f 0x0C 4 % 8 ≤ 4) && within 64 5120 (r.f 0x10 2) && r.f 0x10 2 % 2 == 0 && within 64 2880 (r.f 0x12 2)
      && within 25000000 800000000 (r.f 0x14 4) && (natBit (r.f 0x09 1) 1 || (r.part 0x20 32).all (· == 0))
  | 0x0022 => decide (r.f 0x08 1 ≤ 3) && fitsReg R.SYN_QUEUE (r.f 0x0C 4)
  | 0x0030 => decide (r.f 0x08 1 ≤ 15) && fitsReg R.CAP_V_ROUTE (r.f 0x0C 4)
  | 0x0031 => decide (r.f 0x08 1 ≤ 7) && fitsReg R.CAP_A_ROUTE (r.f 0x0C 4)
  | 0x0032 => decide (r.f 0x08 1 ≤ 3) && decide (r.f 0x09 1 ≤ 8)
      && (rangeFrom 0 (r.f 0x09 1)).all fun e => fitsReg R.I2C_ALLOW (r.f (16 + 4 * e) 4)
  | 0x0040 => decide (r.f 0x08 1 ≤ 1) && r.pairs.all (tsnGood (r.f 0x08 1))
  | 0x0041 => decide (r.f 0x08 1 ≤ 1) && (rangeFrom 0 8).all (fun p => decide (r.f (16 + 4 * p) 4 ≤ 16383))
      && decide (r.f 0x30 4 ≤ 32) && (rangeFrom 0 (r.f 0x30 4)).all fun d => fitsReg R.ETH_DEST_HI (r.f (60 + 8 * d) 4)
  | 0x0050 => within 1 180 (r.f 0x08 2) && decide (r.f 0x0A 1 ≤ 125) && decide (r.f 0x0B 1 ≤ 125)
      && (rangeFrom 0 12).all fun i => decide (r.f (16 + 2 * i) 2 ≤ (railCeilReset [i]).toNat)
  | 0x0060 => decide (r.f 0x08 4 < 8)
  | _ => true

/-! ### Structure (0x09 to 0x0C) -/

/-- The records of a type. -/
def recsOf (rs : List QRec) (t : Nat) : List QRec := rs.filter (·.typ == t)

/-- The shares of one cluster in a CLUSTER record: cluster memory and cool box. -/
def QRec.clusterShares (r : QRec) : List (Nat × Nat) := [(r.f 0x0C 1, r.f 0x0D 1), (r.f 0x0E 1, r.f 0x0F 1)]

/-- The regions of a PARTITION record. -/
def QRec.regions (r : QRec) : List Region :=
  r.regionBytes.map fun e =>
    { part := r.f 0x08 1, base := leAt e 0 8, size := 4096 * leAt e 8 4, read := natBit (leAt e 12 1) 0,
      write := natBit (leAt e 12 1) 1, shared := natBit (leAt e 12 1) 2 }

/-- R289: regions of different partitions overlap only where both are shared. -/
def regionsMeet (a b : Region) : Bool := !(a.shared && b.shared) && overlaps a.base a.size b.base b.size

/-- 0x09: does a record overlap one before it, or itself? -/
def QRec.meets (r q : QRec) : Bool :=
  match r.typ, q.typ with
  | 0x0011, 0x0011 => r.f 0x0C 1 != q.f 0x0C 1 && r.share.clash q.share && r.cores.any q.cores.contains
  | 0x0012, 0x0012 =>
      (maskClusters (r.f 0x08 2)).any (maskClusters (q.f 0x08 2)).contains
        && r.clusterShares.any fun a => q.clusterShares.any (rangesMeet a)
  | 0x0010, 0x0010 => r.regions.any fun a => q.regions.any (regionsMeet a)
  | _, _ => false

/-- A CLUSTER record whose two shares overlap. -/
def QRec.meetsItself (r : QRec) : Bool :=
  r.typ == 0x0012 && r.f 0x08 2 != 0 && rangesMeet (r.f 0x0C 1, r.f 0x0D 1) (r.f 0x0E 1, r.f 0x0F 1)

/-- The first record that overlaps one before it. -/
def overlapAt : List QRec → List QRec → Option Nat
  | _, [] => none
  | before, r :: rs =>
    if r.meetsItself || before.any r.meets then some r.off else overlapAt (before ++ [r]) rs

/-- R281: the peak of a resource, in units per µs. -/
def regulatorPeak (kind index : Nat) : Nat :=
  match kind with
  | 0 => 2675
  | 1 => 3200 * (if index % 4 = 2 then 2 else 4)
  | _ => 3200 * 2

/-- 0x0A: does a record, with those before it, exceed a resource? -/
def QRec.exceeds (before : List QRec) (r : QRec) : Bool :=
  match r.typ with
  | 0x0011 =>
      let x := r.share
      decide (24 < x.memBase + x.memUnits) || decide (12 < x.insBase + x.insUnits) || decide (32 < x.hamBase + x.hamCount)
        || decide (8 < x.accBase + x.accUnits)
  | 0x0012 => r.clusterShares.any fun a => decide (192 < a.1 + a.2)
  | 0x0014 =>
      let same := before.filter fun q => q.typ == 0x14 && q.f 0x08 2 == r.f 0x08 2
      decide (regulatorPeak (r.f 0x08 1) (r.f 0x09 1) < ((same.map fun q => q.f 0x0C 2).sum + r.f 0x0C 2))
  | _ => false

/-- The first record that exceeds a resource. -/
def excessAt : List QRec → List QRec → Option Nat
  | _, [] => none
  | before, r :: rs => if r.exceeds before then some r.off else excessAt (before ++ [r]) rs

/-- Is a partition static (R121)? -/
def staticPart (rs : List QRec) (p : Nat) : Bool :=
  (recsOf rs 0x10).any fun r => r.f 0x08 1 == p && natBit (r.f 0x09 1) 5

/-- The slots that the SLOTS records give a core. -/
def slotsAt (rs : List QRec) (c : Nat × Nat × Nat) : List QRec := (recsOf rs 0x11).filter fun r => r.cores.contains c

/-- 0x0B: unequal resident shares, or a static partition that does not hold every slot of its cores. -/
def QRec.unequal (rs : List QRec) (r : QRec) : Bool :=
  match r.typ with
  | 0x0013 =>
      natBit (r.f 0x0C 4) 5 &&
        let own := (recsOf rs 0x11).filter fun q =>
          q.f 0x0C 1 == r.f 0x0C 4 / 64 % 4 && q.f 0x0D 1 == r.f 0x0C 4 % 16 && !q.cores.isEmpty
        own.any fun a => own.any fun b => a.f 0x10 8 != b.f 0x10 8
  | 0x0011 =>
      staticPart rs (r.f 0x0D 1) && r.cores.any fun c =>
        (slotsAt rs c).length != 4 || (slotsAt rs c).any fun q => q.f 0x0D 1 != r.f 0x0D 1
  | _ => false

/-- Is a partition defined? -/
def partDefined (rs : List QRec) (p : Nat) : Bool := (recsOf rs 0x10).any fun r => r.f 0x08 1 == p

/-- Is a context defined? -/
def ctxDefined (rs : List QRec) (c : Nat) : Bool := (recsOf rs 0x13).any fun r => r.f 0x08 1 == c

/-- Do the regions of a partition cover a range with a permission? -/
def imageCovers (rs : List QRec) (p a n : Nat) (write : Bool) : Bool :=
  let regions := (((recsOf rs 0x10).filter fun r => r.f 0x08 1 == p).map QRec.regions).flatten.filter fun x =>
    if write then x.write else x.read
  coveredBy regions (regions.length + 1) a n

/-- 0x0C: does a record refer to what is not defined, or place a context where it may not be? -/
def QRec.astray (rs : List QRec) (r : QRec) : Bool :=
  match r.typ with
  | 0x0011 => !partDefined rs (r.f 0x0D 1)
  | 0x0012 => !partDefined rs (r.f 0x0A 1)
  | 0x0014 => !partDefined rs (r.f 0x0A 1)
  | 0x0015 => !partDefined rs (r.f 0x0C 1)
  | 0x0013 =>
      let p := r.f 0x0C 4 % 16
      !partDefined rs p || !imageCovers rs p (r.f 0x10 8) 8192 false
        || (r.f 0x20 4 != 0 && (!imageCovers rs p (r.f 0x18 8) (4096 * r.f 0x20 4) false
          || !imageCovers rs p (r.f 0x18 8) (4096 * r.f 0x20 4) true))
        || (natBit (r.f 0x0C 4) 5 && !((recsOf rs 0x11).any fun q =>
          q.f 0x0C 1 == r.f 0x0C 4 / 64 % 4 && q.f 0x0D 1 == p && !q.cores.isEmpty))
  | 0x0020 =>
      let m := r.f 0x10 4
      let a := r.f 0x14 4
      ((natBit m 2 || natBit m 7) && !ctxDefined rs (m / 256 % 64)) || (a % 4 != 0 && !ctxDefined rs (a / 256 % 64))
  | 0x0022 =>
      let q := r.f 0x0C 4
      (natBit q 15 && !ctxDefined rs (q % 2 ^ 14 / 256)) || (natBit q 31 && !ctxDefined rs (q / 2 ^ 16 % 2 ^ 14 / 256))
  | 0x0030 => natBit (r.f 0x0C 4) 18 && !ctxDefined rs (r.f 0x0C 4 / 2 ^ 12 % 64)
  | 0x0031 => natBit (r.f 0x0C 4) 17 && !ctxDefined rs (r.f 0x0C 4 / 2 ^ 11 % 64)
  | _ => false

/-! ### The known-weak list (R290) -/

/-- The entries of a list section. -/
def weakEntries (l : List Byte) : List WeakEntry :=
  (rangeFrom 0 (leAt l 4 4)).map fun i =>
    { kind := leAt l (16 + 8 * i) 1, loc := sliceBytes l (17 + 8 * i) 7 }

/-- The location bytes of a kind that Table 13.5 shows as 0 are 0. -/
def WeakEntry.formed (e : WeakEntry) : Bool :=
  let b (i : Nat) : Nat := byteAt e.loc (i - 1)
  match e.kind with
  | 1 => b 4 == 0 && b 5 == 0 && b 6 == 0 && b 7 == 0
  | 2 => decide (b 3 < 2) && b 5 == 0 && b 6 == 0 && b 7 == 0
  | 3 => decide (b 2 < 16) && b 7 == 0
  | 4 => (e.loc.drop 1).all (· == 0)
  | 5 => (e.loc.drop 1).all (· == 0)
  | _ => false

/-- Is a list section well formed? -/
def weakGood (l : List Byte) : Bool :=
  decide (16 ≤ l.length) && leAt l 0 4 == 0x4B414557 && decide (leAt l 4 4 ≤ 512) && l.length == 16 + 8 * leAt l 4 4
    && (sliceBytes l 8 8).all (· == 0) && (weakEntries l).all WeakEntry.formed

/-- The two dies of a die pair (Table 13.5), numbered 0 C0, 1 C1, 2 M0, 3 M1, 4 hub. -/
def pairDies : Nat → Nat × Nat
  | 0 => (0, 2)
  | 1 => (0, 3)
  | 2 => (1, 2)
  | 3 => (1, 3)
  | 4 => (0, 4)
  | 5 => (1, 4)
  | _ => (0, 1)

/-- Is a die present: 0 C0, 1 C1, 2 M0, 3 M1, 4 hub? -/
def Assembly.hasDie (a : Assembly) (d : Nat) : Bool :=
  if d < 2 then decide (d < a.computeDies) else if d < 4 then decide (d - 2 < a.memDies) else d == 4

/-- Does an entry name a resource of the assembly? -/
def WeakEntry.present (a : Assembly) (e : WeakEntry) : Bool :=
  let b (i : Nat) : Nat := byteAt e.loc (i - 1)
  match e.kind with
  | 1 => decide (b 1 < a.computeDies) && decide (b 2 < 8) && decide (b 3 < 17)
  | 2 => decide (b 1 < 7) && a.hasDie (pairDies (b 1)).1 && a.hasDie (pairDies (b 1)).2
      && decide (b 2 < pairModules (b 1)) && decide (b 4 < 68)
  | 3 => decide (b 1 < a.memDies) && decide (b 3 < 16)
  | 4 => decide (b 1 < 5)
  | _ => decide (b 1 < 5)

/-! ### Verification (R291, R394–R396) -/

/-- The staged image: its header fields and sections. -/
structure Staged where
  bytes : List Byte
  vOff : Nat
  vSize : Nat
  iOff : Nat
  iSize : Nat
  wOff : Nat
  wSize : Nat
  deriving DecidableEq, Repr

/-- The bytes of the image that lies in the staging window. -/
def State.stagedBytes (s : State) : List Byte := s.bytes hubBase (max 64 (min (s.le (hubBase + 0x10) 4) hubSize))

/-- An image by its header. -/
def staged (bs : List Byte) : Staged :=
  { bytes := bs, vOff := leAt bs 0x14 4, vSize := leAt bs 0x18 4, iOff := leAt bs 0x1C 4, iSize := leAt bs 0x20 4,
    wOff := leAt bs 0x24 4, wSize := leAt bs 0x28 4 }

/-- Bytes of the image. -/
def Staged.at_ (g : Staged) (o n : Nat) : List Byte := sliceBytes g.bytes o n

/-- 0x01: the header (R285, Table 12.1). -/
def Staged.headerGood (g : Staged) : Bool :=
  let total := leAt g.bytes 0x10 4
  leAt g.bytes 0 4 == 0x31495A51 && leAt g.bytes 4 2 == 1 && leAt g.bytes 6 2 == 0 && decide (leAt g.bytes 0x0C 1 < 16)
    && leAt g.bytes 0x0E 2 == 0 && (g.at_ 0x2C 20).all (· == 0) && total % 64 == 0 && decide (64 ≤ total)
    && decide (total ≤ hubSize)
    && g.vOff % 64 == 0 && decide (64 ≤ g.vOff) && g.vSize == 3696 && decide (g.vOff + g.vSize ≤ total)
    && g.iOff % 64 == 0 && decide (g.vOff + g.vSize ≤ g.iOff) && decide (384 ≤ g.iSize) && (g.iSize - 384) % 8 == 0
    && decide (g.iOff + g.iSize ≤ total)
    && (g.wSize == 0 || (g.wOff % 64 == 0 && decide (g.iOff + g.iSize ≤ g.wOff) && decide (g.wOff + g.wSize ≤ total)))

/-- The bit of an assembly in the header. -/
def Assembly.bit : Assembly → Nat
  | .x => 0 | .c => 1 | .m => 2 | .s => 3

/-- The root key digest in mask ROM. -/
def romRoot : List Byte := ((rangeFrom 0 8).map fun i => beBytes 4 (Config.rootDigest i).toNat).flatten

/-- Is the exponent field of a key the one exponent of R393? -/
def exponentGood (b : List Byte) : Bool := ofBe b == publicExponent

/-- The modulus of a certificate. -/
def certModulus (c : List Byte) : List Byte := sliceBytes c 0x20 384

/-- R394, R396: does a certificate have a role and issuer, and verify under the issuer's key? -/
def certGood (c : List Byte) (role : Nat) (issuerModulus : List Byte) : Bool :=
  leAt c 0 4 == 0x5452435A && leAt c 4 1 == role && exponentGood (sliceBytes c 0x1A0 4)
    && sliceBytes c 0x1C0 32 == keyDigest issuerModulus
    && pssVerify issuerModulus (sliceBytes c 0 0x1E0) (sliceBytes c 0x1E0 384)

/-- The header with the fields of R286 taken as zero. -/
def Staged.signedHeader (g : Staged) : List Byte := g.at_ 0 16 ++ zeros 4 ++ g.at_ 20 16 ++ zeros 8 ++ g.at_ 0x2C 20

/-- Are all bytes 0? -/
def allZero (bs : List Byte) : Bool := bs.all fun b => b == 0

/-- The chain and the signatures in the order of R396: the code and offset of the first that fails. -/
def Staged.chainFault (g : Staged) : Option (Nat × Nat) :=
  let v := g.vOff
  let root := g.at_ v 384
  let vendor := g.at_ (v + 0x200) 864
  let debug := g.at_ (v + 0x560) 864
  let integrator := g.at_ (v + 0x8C0) 864
  let message := g.signedHeader ++ sha256 (g.at_ v g.vSize) ++ g.at_ g.iOff (g.iSize - 384)
  if !(exponentGood (g.at_ (v + 384) 4) && keyDigest root == romRoot) then some (3, v)
  else if !certGood vendor 1 root then some (3, v + 0x200)
  else if !pssVerify (certModulus vendor) (g.at_ v (g.vSize - 384)) (g.at_ (v + g.vSize - 384) 384) then
    some (4, v + g.vSize - 384)
  else if !(allZero debug) && !certGood debug 3 root then some (3, v + 0x560)
  else if !certGood integrator 2 (certModulus vendor) then some (5, v + 0x8C0)
  else if !pssVerify (certModulus integrator) message (g.at_ (g.iOff + g.iSize - 384) 384) then
    some (6, g.iOff + g.iSize - 384)
  else none

/-- The records of the image, and the offset of the first malformed one. -/
def Staged.records (g : Staged) : List QRec × Option Nat :=
  let body := g.at_ g.iOff (g.iSize - 384)
  readRecords (body.length / 8 + 1) g.iOff body [] []

/-- The first of a list of records with a fault. -/
def firstBad (rs : List QRec) (bad : QRec → Bool) : Option Nat := (rs.find? bad).map (·.off)

/-- Table 12.5: the code and offset of the first check that fails, in table order. -/
def Staged.fault (g : Staged) (asm : Assembly) (stepping : Nat) : Option (Nat × Nat) :=
  if !g.headerGood then some (1, 0)
  else if !natBit (leAt g.bytes 0x0C 1) asm.bit || leAt g.bytes 0x0D 1 != stepping then some (2, 0)
  else
    match g.chainFault with
    | some f => some f
    | none =>
      let (rs, bad) := g.records
      let rest : List (Nat × Option Nat) :=
        [(7, bad), (8, firstBad rs fun r => !r.inRange asm), (9, overlapAt [] rs), (10, excessAt [] rs),
         (11, firstBad rs (QRec.unequal rs)), (12, firstBad rs (QRec.astray rs)),
         (13, if g.wSize != 0 && !weakGood (g.at_ g.wOff g.wSize) then some g.wOff else none)]
      rest.findSome? fun x => x.2.map fun o => (x.1, o)

/-! ### Application (R288, R291, R292, R294) -/

/-- A value for the RWL fields of a register instance. -/
def cell (r : Reg) (ix : List Nat) (v : Nat) : Nat × Word := (regAddr r ix, BitVec.ofNat 32 v)

/-- The RWL values that a record gives, by CFG address. SLOTS records name logical cores (Table 12.4). -/
def QRec.values (s : State) (r : QRec) : List (Nat × Word) :=
  let o := r.f 0x08 1
  match r.typ with
  | 0x0010 =>
      let fl := r.f 0x09 1
      [cell R.SCH_PART_CFG [o] (fl % 64 + 64), cell R.SCH_PART_SEED_LO [o] (r.f 0x10 4), cell R.SCH_PART_SEED_HI [o] (r.f 0x14 4)]
  | 0x0011 =>
      (r.cores.map fun (c : Nat × Nat × Nat) =>
        let ix := s.coreIx (128 * c.1 + 16 * c.2.1 + c.2.2) ++ [r.f 0x0C 1]
        [cell R.CORE_SLOT_MEM ix (r.f 0x10 4), cell R.CORE_SLOT_EXE ix (r.f 0x14 4)]).flatten
  | 0x0012 =>
      ((maskClusters (r.f 0x08 2)).map fun c =>
        [cell R.CLC_CSHARE [c.1, c.2, r.f 0x0A 1] (r.f 0x0C 2), cell R.CLC_CBSHARE [c.1, c.2, r.f 0x0A 1] (r.f 0x0E 2)]).flatten
  | 0x0013 =>
      [cell R.SCH_CTX_CFG [o] (r.f 0x0C 4), cell R.SCH_CTX_QTAB_LO [o] (r.f 0x10 4), cell R.SCH_CTX_QTAB_HI [o] (r.f 0x14 4),
       cell R.SCH_CTX_LAYBY_LO [o] (r.f 0x18 4), cell R.SCH_CTX_LAYBY_HI [o] (r.f 0x1C 4),
       cell R.SCH_CTX_LAYBY_SIZE [o] (r.f 0x20 4)]
  | 0x0014 =>
      let i := r.f 0x09 1
      let p := r.f 0x0A 1
      let v := r.f 0x0C 4
      if o = 0 then [cell R.BWR_REG_CFG [i / 2, i % 2, p] v]
      else if o = 1 then [cell R.DIE_REG_CFG [i / 4, i % 4, p] v]
      else [cell R.SCH_REG_CFG [i, p] v]
  | 0x0015 =>
      (rangeFrom (r.f 0x08 2) (r.f 0x0A 2 + 1 - r.f 0x08 2)).map fun k =>
        cell R.SCH_SEM_CFG [k] (r.f 0x0C 1 + 16 + 65536 * r.f 0x0E 2)
  | 0x0020 => [cell R.DSP_MAP [o] (r.f 0x10 4), cell R.DSP_ASR [o] (r.f 0x14 4)]
  | 0x0021 => [cell R.EDP_SRC [o] (r.f 0x0C 4)]
  | 0x0022 => [cell R.SYN_QUEUE [o] (r.f 0x0C 4)]
  | 0x0030 => [cell R.CAP_V_ROUTE [o] (r.f 0x0C 4)]
  | 0x0031 => [cell R.CAP_A_ROUTE [o] (r.f 0x0C 4)]
  | 0x0032 => (rangeFrom 0 (r.f 0x09 1)).map fun e => cell R.I2C_ALLOW [o, e] (r.f (16 + 4 * e) 4)
  | 0x0040 => r.pairs.map fun p => (0x40000 + 0x10000 * o + p.1, BitVec.ofNat 32 p.2)
  | 0x0041 =>
      let n := r.f 0x30 4
      (rangeFrom 0 8).map (fun p => cell R.ETH_CAP [o, p] (r.f (16 + 4 * p) 4)) ++ [cell R.ETH_DEST_COUNT [o] n]
        ++ ((rangeFrom 0 n).map fun d =>
          [cell R.ETH_DEST_LO [o, d] (r.f (56 + 8 * d) 4), cell R.ETH_DEST_HI [o, d] (r.f (60 + 8 * d) 4)]).flatten
  | 0x0050 =>
      [cell R.PWR_PKG_CEIL [] (r.f 0x08 2), cell R.PWR_THR_TEMP [] (r.f 0x0A 1), cell R.PWR_TRIP_TEMP [] (r.f 0x0B 1)]
        ++ ((rangeFrom 0 12).filter fun i => r.f (16 + 2 * i) 2 != 0).map fun i => cell R.PWR_RAIL_CEIL [i] (r.f (16 + 2 * i) 2)
  | 0x0060 => [cell R.DBG_POLICY [] (r.f 0x08 4)]
  | _ => []

/-- All values of an image. -/
def imageValues (s : State) (rs : List QRec) : List (Nat × Word) :=
  let borrow := (((recsOf rs 0x10).filter fun r => natBit (r.f 0x09 1) 6).map fun r => 2 ^ r.f 0x08 1).sum
  cell R.BRG_RAM_BORROW [] borrow :: (rs.map (QRec.values s)).flatten

/-- Give the RWL bits of one register a value, whatever the seal. -/
def State.pokeRwl (s : State) (v : Nat × Word) : State :=
  match findReg R.regTable v.1 with
  | some (r, ix) => s.poke r ix ((s.rd r ix &&& ~~~r.rwl) ||| (v.2 &&& r.rwl))
  | none => s

/-- Return the RWL fields of the listed registers that satisfy a test to their reset values. -/
def State.resetRwl (s : State) (p : Nat → Bool) : State :=
  (s.cfg.filter fun e => p e.1).foldl (fun s e =>
    match findReg R.regTable e.1 with
    | some (r, ix) => s.poke r ix ((s.rd r ix &&& ~~~r.rwl) ||| (r.reset ix &&& r.rwl))
    | none => s) s

/-- The die that a CFG address lies on: 0 the hub, 1 C0, 2 C1, 3 M0, 4 M1. -/
def dieOf (a : Nat) : Nat := a / 0x10000000

/-- Is a die powered, with its RWL fields written (BRG_READY)? The hub is. -/
def State.dieReady (s : State) (d : Nat) : Bool := d == 0 || s.bit R.BRG_READY [] (8 + d)

/-- R292: write the RWL fields of a die from the image. -/
def State.writeDie (s : State) (d : Nat) : State :=
  (s.img.values.filter fun v => dieOf v.1 == d).foldl State.pokeRwl (s.resetRwl fun a => dieOf a == d)

/-- The envelopes of an image. -/
def imageEnvelopes (rs : List QRec) : List (Nat × Envelope) :=
  (recsOf rs 0x21).map fun r =>
    (r.f 0x08 1,
      { hActive := r.f 0x10 2, vActive := r.f 0x12 2, pclk := r.f 0x14 4, rate := r.f 0x18 4, idSrc := natBit (r.f 0x09 1) 0,
        pin := natBit (r.f 0x09 1) 1, digest := r.part 0x20 32 })

/-- R294: pipes that run with a mapping that has changed stop at the end of their frame; an output whose source has changed
needs a new training. -/
def State.remap (s before : State) : State :=
  let s := (rangeFrom 0 5).foldl (fun s p =>
    let moved := s.rd R.DSP_MAP [p] != before.rd R.DSP_MAP [p] || (rangeFrom 0 4).any fun o =>
      (before.sourceOf o == p || s.sourceOf o == p) && s.rd R.EDP_SRC [o] != before.rd R.EDP_SRC [o]
    if moved && s.pipeRuns p then s.setPipe p { s.pipe p with stopAtEnd := true } else s) s
  (rangeFrom 0 4).foldl (fun s o =>
    if s.rd R.EDP_SRC [o] != before.rd R.EDP_SRC [o] then s.setBit R.EDP_STATUS [o] 1 false else s) s

/-- R308: known-weak entries of pipes and flow engines. -/
def State.weakHub (s : State) : State :=
  let named (kind : Nat) : List Nat :=
    (s.img.weak.filter fun e => e.kind == kind && e.present s.dev.assembly).map fun e => byteAt e.loc 0
  let pipes := (named 4).filter (· == 4) ++ (named 4).filter (· != 4)
  (named 5).foldl (fun s e => s.withdrawVision e 8) (pipes.foldl (fun s p => s.withdrawPipe p 8) s)

/-- A digest as words, most significant first. -/
def State.putDigest (s : State) (r : Reg) (ix : List Nat) (d : List Byte) : State :=
  (rangeFrom 0 8).foldl (fun s i => s.poke r (ix ++ [i]) (BitVec.ofNat 32 (ofBe (sliceBytes d (4 * i) 4)))) s

/-- The firmware manifest (Table 18.3). -/
def Staged.manifest (g : Staged) : List Component :=
  (rangeFrom 0 4).map fun i =>
    let e := g.at_ (g.vOff + 0xC30 + 48 * i) 48
    { ident := leAt e 0 4, version := leAt e 4 4, size := leAt e 8 4, digest := sliceBytes e 16 32 }

/-- R291: an image that has passed is applied. -/
def State.applyImage (s : State) (g : Staged) : State :=
  let rs := g.records.1
  let asm := s.dev.assembly
  let weak := if g.wSize = 0 then [] else weakEntries (g.at_ g.wOff g.wSize)
  let debug := g.at_ (g.vOff + 0x560) 864
  let granule := match recsOf rs 1 with
    | r :: _ => 10 + 2 * r.f 0x08 1
    | [] => 12
  let img : ImgState :=
    { regions := ((recsOf rs 0x10).map QRec.regions).flatten, granuleLog := granule, envelopes := imageEnvelopes rs,
      manifest := g.manifest, weak := weak, vendorDigest := sha256 (g.at_ g.vOff g.vSize),
      integratorKey := ofBe (certModulus (g.at_ (g.vOff + 0x8C0) 864)),
      debugKey := if allZero debug then 0 else ofBe (certModulus debug), values := imageValues s rs }
  let t := (rangeFrom 0 5).foldl (fun (t : State) d => if t.dieReady d then t.writeDie d else t) (s.withImg img)
  let t := t.withEth { t.eth with newList := Vector.replicate 2 true }
  let t := t.remap s
  let ignored := (weak.filter fun e => !e.present asm).length
  let t := t.poke R.BRG_QZI_VERSION [] (BitVec.ofNat 32 (leAt g.bytes 8 4))
  let t := t.putDigest R.BRG_QZI_DIGEST [] (sha256 (g.signedHeader ++ g.at_ g.vOff g.vSize ++ g.at_ g.iOff g.iSize))
  let t := t.putDigest R.BRG_QZI_WDIGEST [] (if g.wSize = 0 then zeros 32 else sha256 (g.at_ g.wOff g.wSize))
  let t := t.countTop R.BRG_QZI_WEAK_IGN [] ignored
  let t := t.weakHub
  let t := (rangeFrom 0 5).foldl State.lateTakeover t
  let t := (rangeFrom 0 4).foldl State.envelopeTest t
  ((t.setBit R.BRG_QZI_STATUS [] 1 true).setFld R.BRG_QZI_STATUS [] 15 8 0).setBit R.BRG_READY [] 8 true

/-- A verification fails: nothing is applied. -/
def State.verifyFail (s : State) (code off : Nat) : State :=
  ((s.setBit R.BRG_QZI_STATUS [] 1 false).setFld R.BRG_QZI_STATUS [] 15 8 code).poke R.BRG_QZI_FAULT_OFF []
    (BitVec.ofNat 32 off)

/-- QZI_VERIFY (R291, R293, R296). -/
def execQziVerify (s : State) : Host.Outcome State Fault Refusal :=
  s.awake fun s =>
    if s.sealed then s
    else if s.brg.verifying.isSome then s.setFld R.BRG_QZI_STATUS [] 15 8 0x0E
    else (s.withBrg { s.brg with verifying := some s.stagedBytes, touched := false }).setBit R.BRG_QZI_STATUS [] 0 true

/-- The stepping of the device as the header gives it (BRG_ID: letter and digit). -/
def State.stepping (s : State) : Nat := 16 * s.fld R.BRG_ID [] 11 8 + s.fld R.BRG_ID [] 7 4

/-- QZI_VERIFY_END (R291). Where the host has written to the image meanwhile, the result is undefined: a free value. -/
def execQziVerifyEnd (s : State) : Host.Outcome State Fault Refusal :=
  s.awake fun s =>
    match s.brg.verifying with
    | none => s
    | some image =>
      let g := staged image
      let touched := s.brg.touched
      let s := (s.withBrg { s.brg with verifying := none, touched := false }).setBit R.BRG_QZI_STATUS [] 0 false
      if touched then
        let code := (s.drawn 4).toNat
        let off := (s.draw.drawn 32).toNat
        (if code = 0 then s.draw.draw.applyImage g else s.draw.draw.verifyFail code off).bootEvent
      else
        match g.fault s.dev.assembly s.stepping with
        | none => (s.applyImage g).bootEvent
        | some (code, off) => (s.verifyFail code off).bootEvent

/-- QZI_SEAL (R293): before SEAL the image's envelopes do not apply (R218); from then on they do. -/
def execQziSeal (s : State) : Host.Outcome State Fault Refusal :=
  s.awake fun s =>
    if s.sealed then s
    else if s.bit R.BRG_QZI_STATUS [] 1 then
      (rangeFrom 0 4).foldl State.envelopeTest ((s.setBit R.BRG_QZI_STATUS [] 2 true).setBit R.BRG_QZI_STATUS [] 3 false)
    else s.setBit R.BRG_QZI_STATUS [] 3 true

end Sys2Proof.Machine
end

