-- ==== Sys2Proof/Machine/Bringup.lean ====
section
/-! DEFINITION. Bring-up: die power-up, link training, DRAM, self-test, firmware broadcast, and sparing (R29, R127,
R297–R312, R407). The steps are numbered as the bits of BRG_BOOT_CTRL. -/

namespace Sys2Proof.Machine

/-! ### Steps (R297–R299) -/

/-- The state of a step: 0 idle, 1 running, 2 done, 3 failed. -/
def State.step_ (s : State) (i : Nat) : Nat := s.fld R.BRG_BOOT_STATUS [] (2 * i + 1) (2 * i)

/-- Give a step a state. -/
def State.setStep (s : State) (i v : Nat) : State := s.setFld R.BRG_BOOT_STATUS [] (2 * i + 1) (2 * i) v

/-- BRG_BOOT_FAULT. -/
def State.bootFault (s : State) (i code : Nat) : State := s.poke R.BRG_BOOT_FAULT [] (BitVec.ofNat 32 (code + 256 * i))

/-- A step ends failed (R298). -/
def State.stepFail (s : State) (i code : Nat) : State := (((s.setStep i 3).bootFault i code).alert 6).bootEvent

/-- BRG_READY `compute` (R299). -/
def State.computeReady (s : State) : State :=
  let a := s.dev.assembly
  let r (b : Nat) : Bool := s.bit R.BRG_READY [] b
  if r 18 && (a.computeDies == 1 || r 19) && r 14 && (a.memDies == 1 || r 15) then s.setBit R.BRG_READY [] 20 true else s

/-- A step ends done: its ready bits are set (R298, R299). -/
def State.stepDone (s : State) (i : Nat) (ready : List Nat) : State :=
  ((ready.foldl (fun (s : State) b => s.setBit R.BRG_READY [] b true) (s.setStep i 2)).computeReady).bootEvent

/-- Are all the ready bits set? -/
def State.isReady (s : State) (bs : List Nat) : Bool := bs.all fun b => s.bit R.BRG_READY [] b

/-- A start bit is written (R298): refused with code 2, 9 or 1, or the step starts; it keeps the known-weak list
of an image that is verified then (R307). -/
def State.stepStart (s : State) (i : Nat) (present : Bool) (needs : List Nat) : State × Bool :=
  if !present then (s.bootFault i 2, false)
  else if s.step_ i = 1 ∨ s.step_ i = 2 then (s.bootFault i 9, false)
  else if !s.isReady needs then (s.bootFault i 1, false)
  else
    let s := s.setStep i 1
    let w := (i, if s.bit R.BRG_QZI_STATUS [] 1 then s.img.weak else [])
    (s.withBrg { s.brg with weakAtStart := upsert (fun e => e.1 == i) w s.brg.weakAtStart }, true)

/-- The known-weak entries of a kind that a step applies (R307). -/
def State.weakOf (s : State) (step kind : Nat) : List WeakEntry :=
  match s.brg.weakAtStart.find? fun e => e.1 == step with
  | some (_, es) => es.filter fun e => e.kind == kind && e.present s.dev.assembly
  | none => []

/-! ### Die power-up (R292, R297, R407) -/

/-- DIE_POWER_UP (R297): the rails that the die needs are switched on. -/
def execDiePowerUp (die : Fin 4) (s : State) : Host.Outcome State Fault Refusal :=
  s.awake fun s =>
    let d := die.val
    let (t, on) := s.stepStart d (s.dev.assembly.hasDie d) [0]
    if !on then t
    else if d = 0 then t.withPwr { t.pwr with enCmp0 := true, vdd := vecSet t.pwr.vdd 0 750 }
    else if d = 1 then t.withPwr { t.pwr with enCmp1 := true, vdd := vecSet t.pwr.vdd 1 750 }
    else t.withPwr { t.pwr with enMem := true }

/-- DIE_POWER_UP_END (R292): `good`: rails and PLLs are there in time. The RWL fields are written before the ready bit. After a
trip the step stays running until the hub has cooled (R416). -/
def execDiePowerUpEnd (die : Fin 4) (good : Bool) (s : State) : Host.Outcome State Fault Refusal :=
  s.awake fun s =>
    let d := die.val
    if s.step_ d ≠ 1 || s.pwr.tripped then s
    else if good then (s.writeDie (d + 1)).stepDone d [9 + d]
    else s.stepFail d 3

/-! ### Links (R302–R304) -/

/-- The die pairs of an assembly. -/
def Assembly.pairs (a : Assembly) : List Nat := (rangeFrom 0 7).filter fun p => a.hasDie (pairDies p).1 && a.hasDie (pairDies p).2

/-- The ready bits of the dies of an assembly. -/
def Assembly.powerBits (a : Assembly) : List Nat := ((rangeFrom 0 4).filter a.hasDie).map (9 + ·)

/-- LINK_TRAINING (R302). -/
def execLinkTraining (s : State) : Host.Outcome State Fault Refusal :=
  s.awake fun s => (s.stepStart 4 true s.dev.assembly.powerBits).1

/-- The lanes of one direction of a module that fail, with their causes: known-weak 8, PRBS 3, eye margin 4. -/
def State.badLanes (s : State) (lanes : List LaneFault) (pair m dir : Nat) : List (Nat × Nat) :=
  let weak := (s.weakOf 4 2).filterMap fun e =>
    if byteAt e.loc 0 = pair ∧ byteAt e.loc 1 = m ∧ byteAt e.loc 2 % 2 = dir then some (byteAt e.loc 3, 8) else none
  let found := lanes.filterMap fun f =>
    if f.pair.val = pair ∧ f.module.val = m ∧ f.dir.val = dir then some (f.lane.val, if f.eye then 4 else 3) else none
  (rangeFrom 0 68).filterMap fun l => (weak ++ found).find? fun x => x.1 == l

/-- R303: the remapping of one direction of a module, or none where its failing data lanes cannot all be remapped: each
failing data lane with the passing redundant lane that takes its place. -/
def remapLanes (bad : List (Nat × Nat)) : Option (List (Nat × Nat × Nat)) :=
  let data := bad.filter fun x => decide (x.1 < 64)
  let spare := (rangeFrom 64 4).filter fun l => !(bad.any fun x => x.1 == l)
  let group (g : Nat) : Nat := (data.filter fun x => x.1 / 32 == g).length
  if group 0 ≤ 2 ∧ group 1 ≤ 2 ∧ data.length ≤ spare.length then
    some (List.zipWith (fun x (l : Nat) => (x.1, x.2, l)) data spare)
  else none

/-- The outcome for one module: its remapped lanes are kept and reported, or it is retired and reported. -/
def State.trainModule (s : State) (lanes : List LaneFault) (pair m : Nat) : State :=
  let one (dir : Nat) := (s.badLanes lanes pair m dir, remapLanes (s.badLanes lanes pair m dir))
  let dirs : List (Nat × List (Nat × Nat) × Option (List (Nat × Nat × Nat))) :=
    [(0, (one 0).1, (one 0).2), (1, (one 1).1, (one 1).2)]
  match dirs.find? fun x => x.2.2.isNone with
  | some (dir, bad, _) =>
    let s := s.withBrg { s.brg with retired := s.brg.retired ++ [(pair, m)] }
    s.report 8 (locOf [pair, m, dir]) (match bad with | x :: _ => x.2 | [] => 3) 3
  | none =>
    dirs.foldl (fun s x => (x.2.2.getD []).foldl (fun (s : State) (l : Nat × Nat × Nat) =>
      let s := s.withBrg { s.brg with remapped := s.brg.remapped ++ [(pair, m, x.1, l.1)] }
      s.report 2 (locOf [pair, m, x.1, l.1]) l.2.1 0) s) s

/-- Has a pair a working module? -/
def State.pairWorks (s : State) (pair : Nat) : Bool :=
  (rangeFrom 0 (pairModules pair)).any fun m => !s.brg.retired.contains (pair, m)

/-- The mesh link or local port that a fault is on (Table 13.5). -/
def meshLink (f : MeshFault) : List Nat := [f.die.val, f.router.val, f.port.val]

/-- R304: errors on at most 8 wires of a direction are repaired onto its spare wires, and the second test shows whether it holds. -/
def meshRepaired (f : MeshFault) : Bool := decide (f.wires ≤ 8) && !f.again

/-- LINK_TRAINING_END (R303, R304). -/
def execLinkTrainingEnd (lanes : List LaneFault) (mesh : List MeshFault) (s : State) :
    Host.Outcome State Fault Refusal :=
  s.awake fun s =>
    if s.step_ 4 ≠ 1 then s
    else
      let pairs := s.dev.assembly.pairs
      let s := s.withBrg { s.brg with retired := [], remapped := [] }
      let s := pairs.foldl (fun s p => (rangeFrom 0 (pairModules p)).foldl (fun s m => s.trainModule lanes p m) s) s
      let faults := mesh.filter fun (f : MeshFault) => decide (f.die.val < s.dev.assembly.computeDies)
      let s := (faults.map meshLink).eraseDups.foldl (fun s l =>
        s.report 9 (locOf l) 5 (if (faults.filter fun f => meshLink f == l).all meshRepaired then 0 else 4)) s
      if !pairs.all s.pairWorks then s.stepFail 4 4
      else if !faults.all meshRepaired then s.stepFail 4 5
      else s.stepDone 4 [13]

/-! ### DRAM (R305) -/

/-- DRAM_TRAINING (R305). -/
def execDramTraining (die : Fin 2) (s : State) : Host.Outcome State Fault Refusal :=
  s.awake fun s => (s.stepStart (5 + die.val) (s.dev.assembly.hasDie (2 + die.val)) [11 + die.val]).1

/-- The location of a row. -/
def rowLoc (d : Nat) (f : RowFault) : List Nat :=
  [d, f.stack.val + 2 * f.channel.val, f.bank.val, f.row.toNat % 256, f.row.toNat / 256 % 256, f.row.toNat / 65536]

/-- Does a DEV address lie in a stack of a memory die? -/
def State.onMemDie (s : State) (d a : Nat) : Bool := placeOf s.dev.assembly a == .dram && s.stackOf a / 2 == d

/-- DRAM_TRAINING_END (R305): rows are repaired or reported, and every row is written with zeros. A known-weak row is repaired too
(R307), but where `rows` says that its bank has no repair left. -/
def execDramTrainingEnd (die : Fin 2) (channelFailed : Bool) (rows : List RowFault) (s : State) :
    Host.Outcome State Fault Refusal :=
  s.awake fun s =>
    let d := die.val
    if s.step_ (5 + d) ≠ 1 then s
    else
      let weak := (s.weakOf (5 + d) 3).filter fun e => byteAt e.loc 0 == d
      let lost (loc : List Byte) : Bool := rows.any fun f => locOf (rowLoc d f) == loc && !f.repaired
      let s := weak.foldl (fun s e => s.report 3 e.loc 8 (if lost e.loc then 4 else 0)) s
      if channelFailed then s.stepFail (5 + d) 6
      else
        let found := rows.filter fun f => !(weak.any fun e => e.loc == locOf (rowLoc d f))
        let s := found.foldl (fun s f => s.report 3 (locOf (rowLoc d f)) 6 (if f.repaired then 0 else 4)) s
        let mem := s.mem.filter fun c => !s.onMemDie d c.1
        let bad := s.err.bad.filter fun a => !s.onMemDie d a
        ((s.withMem mem).withErr { s.err with bad := bad }).stepDone (5 + d) [14 + d]

/-! ### Cores (R127, R306, R312) -/

/-- A physical core fails outside service: the spare takes its logical ID if it may, else the logical core is absent; the
report says which. -/
def State.spareOut (s : State) (d k j cause : Nat) (spareGood : Bool) : State :=
  if s.siteFailed d k j then s
  else
    match s.logicalAt d k j with
    | none => (s.failSite d k j).report 1 (locOf [d, k, j]) cause 2
    | some c =>
      let core := 128 * d + 16 * k + c
      let s := s.failSite d k j
      if spareGood && s.spareFree d k then (s.moveCore core 16).report 1 (locOf [d, k, j]) cause 1
      else (s.absentCore core).report 1 (locOf [d, k, j]) cause 2

/-- A cluster is withdrawn (R306, R312). -/
def State.withdrawCluster (s : State) (d k cause : Nat) : State :=
  if s.clusterAbsent d k then s else (s.setBit R.BRG_CLU_ABSENT [] (8 * d + k) true).report 6 (locOf [d, k]) cause 2

/-- A sketch unit is absent. -/
def State.withdrawSketch (s : State) (d k cause : Nat) : State :=
  if s.bit R.BRG_SKU_ABSENT [] (8 * d + k) then s
  else (s.setBit R.BRG_SKU_ABSENT [] (8 * d + k) true).report 7 (locOf [d, k]) cause 2

/-- SELF_TEST (R306). -/
def execSelfTest (die : Fin 2) (s : State) : Host.Outcome State Fault Refusal :=
  s.awake fun s => (s.stepStart (7 + die.val) (s.dev.assembly.hasDie die.val) [9 + die.val]).1

/-- The cause of a core's failure in self-test, if it fails. -/
def coreFault (faults : List BistFault) (k j : Nat) : Option Nat :=
  faults.findSome? fun f =>
    match f with
    | .core c p logic repaired =>
      if c.val = k ∧ p.val = j then (if logic then some 2 else if repaired then none else some 1) else none
    | _ => none

/-- The failing slots of a cluster with their causes, lowest number first: known-weak entries come before the tests. -/
def State.failingSlots (s : State) (d : Nat) (faults : List BistFault) (k : Nat) : List (Nat × Nat) :=
  let weak := (s.weakOf (7 + d) 1).filter fun e => byteAt e.loc 0 == d && byteAt e.loc 1 == k
  (rangeFrom 0 17).filterMap fun j =>
    if weak.any fun e => byteAt e.loc 2 == j then some (j, 8) else (coreFault faults k j).map fun c => (j, c)

/-- Soft repairs and the withdrawals of a fault that is no core's. -/
def State.arrayFault (s : State) (d : Nat) (f : BistFault) : State :=
  match f with
  | .core k j logic repaired => if !logic && repaired then s.report 1 (locOf [d, k.val, j.val]) 1 0 else s
  | .clusterMemory k repaired => if repaired then s.report 6 (locOf [d, k.val]) 1 0 else s.withdrawCluster d k.val 1
  | .sketch k repaired => if repaired then s.report 7 (locOf [d, k.val]) 1 0 else s.withdrawSketch d k.val 1
  | .box k repaired => if repaired then s.report 6 (locOf [d, k.val]) 1 0 else s.withdrawCluster d k.val 1

/-- SELF_TEST_END (R306): the spare, if it has passed, takes the logical ID of the lowest failed slot. -/
def execSelfTestEnd (die : Fin 2) (faults : List BistFault) (s : State) : Host.Outcome State Fault Refusal :=
  s.awake fun s =>
    let d := die.val
    if s.step_ (7 + d) ≠ 1 then s
    else
      let s := faults.foldl (fun s f => s.arrayFault d f) s
      let s := (rangeFrom 0 8).foldl (fun s k =>
        let bad := s.failingSlots d faults k
        let spareBad := bad.filter fun x => x.1 == 16
        let s := spareBad.foldl (fun s x => s.spareOut d k x.1 x.2 false) s
        (bad.filter fun x => decide (x.1 < 16)).foldl (fun s x => s.spareOut d k x.1 x.2 true) s) s
      s.stepDone (7 + d) [16 + d]

/-! ### Firmware broadcast (R310–R312) -/

/-- The most bytes of a component (Table 13.3). -/
def componentMax : Nat → Nat
  | 1 => 65536
  | 2 => 16384
  | _ => 131072

/-- An entry of the bundle: component, offset, size. -/
def bundleEntries (h : List Byte) : List (Nat × Nat × Nat) :=
  (rangeFrom 0 4).map fun i => (leAt h (16 + 16 * i) 4, leAt h (20 + 16 * i) 4, leAt h (24 + 16 * i) 4)

/-- R310: the header and its entries are well formed. -/
def bundleGood (h : List Byte) : Bool :=
  leAt h 0 4 == 0x4257465A && leAt h 4 4 == 4 && leAt h 8 8 == 0
    && (rangeFrom 0 4).all (fun i => leAt h (28 + 16 * i) 4 == 0)
    && (bundleEntries h).all fun e => e.2.1 % 64 == 0 && e.2.2 % 64 == 0 && decide (e.2.2 ≤ componentMax e.1)

/-- R310: the code of the check of the bundle that fails, 0 when it passes. -/
def State.bundleCode (s : State) (base : Nat) : Nat :=
  let asm := s.dev.assembly
  let h := s.bytes base 80
  if base % 64 ≠ 0 || !inDramOrHub asm base 80 || !bundleGood h then 8
  else if (rangeFrom 1 4).all fun id =>
      match (bundleEntries h).find? fun e => e.1 == id, s.img.manifest.find? fun c => c.ident == id with
      | some e, some c =>
        inDramOrHub asm (base + e.2.1) e.2.2 && e.2.2 == c.size && (s.readError (base + e.2.1) e.2.2).isNone
          && sha256 (s.bytes (base + e.2.1) e.2.2) == c.digest
      | _, _ => false
    then 0
  else 7

/-- The prerequisites of step 8 (Table 13.1): `qzi`, `links`, and the self-test of every compute die. -/
def Assembly.firmwareNeeds (a : Assembly) : List Nat := [8, 13] ++ (rangeFrom 0 a.computeDies).map (16 + ·)

/-- The component `id` of the bundle at `base`, cut into packets of 1,024 bytes (R311). -/
def State.bundlePackets (s : State) (base id : Nat) : List (List Byte) :=
  match (bundleEntries (s.bytes base 80)).find? fun e => e.1 == id with
  | some e => (rangeFrom 0 (ceilDiv e.2.2 1024)).map fun p => s.bytes (base + e.2.1 + 1024 * p) (min 1024 (e.2.2 - 1024 * p))
  | none => []

/-- FIRMWARE_BROADCAST (R310): the bundle is checked at the start of the step, and round 0 sends every packet (R311). -/
def execFirmwareBroadcast (s : State) : Host.Outcome State Fault Refusal :=
  s.awake fun s =>
    let (t, on) := s.stepStart 9 true s.dev.assembly.firmwareNeeds
    if !on then t
    else
      let base := t.rdAddr R.BRG_FW_SRC_LO R.BRG_FW_SRC_HI []
      match t.bundleCode base with
      | 0 => t.withBrg { t.brg with
          firmware := t.img.manifest.map fun c => { ident := c.ident, digest := c.digest, packets := t.bundlePackets base c.ident } }
      | code => t.stepFail 9 code

/-- The component that a target takes (R311). -/
def fwComponent : FwTarget → Nat
  | .core .. => 1
  | .sequencer .. => 2
  | .controller .. => 3
  | .sketch .. => 4

/-- R311: sites already failed or withdrawn are no targets. -/
def State.isTarget (s : State) (f : FwTarget) : Bool :=
  let cluster (d : Fin 2) (k : Fin 8) : Bool := decide (d.val < s.dev.assembly.computeDies) && !s.clusterAbsent d.val k.val
  match f with
  | .core d k j => cluster d k && !s.siteFailed d.val k.val j.val
  | .sequencer d k j _ => cluster d k && !s.siteFailed d.val k.val j.val
  | .controller d k => cluster d k
  | .sketch d k => cluster d k && !s.bit R.BRG_SKU_ABSENT [] (8 * d.val + k.val)

/-- R311: the packets that a target lacks by its status: those that it misses, or all where only its digest differs. -/
def State.lacks (s : State) (x : FwStatus) : List Nat :=
  let n := match s.brg.firmware.find? fun c => c.ident == fwComponent x.target with | some c => c.packets.length | none => 0
  let gone := (rangeFrom 0 n).filter fun p => x.missing.getLsbD p
  if gone.isEmpty && !x.digestGood then rangeFrom 0 n else gone

/-- The targets that are incomplete after a round, of those that were before it: their last status of the round says so. -/
def State.afterRound (s : State) (before : List FwTarget) (round : List FwStatus) : List (FwTarget × List Nat) :=
  before.filterMap fun t =>
    match round.reverse.find? fun x => x.target == t with
    | some x => if (s.lacks x).isEmpty then none else some (t, s.lacks x)
    | none => none

/-- Rounds 1 to 8 (R311): each sends the packets that incomplete targets lack; a target that is complete stays so. -/
def State.fwRounds (s : State) (rounds : List (List FwStatus)) : Nat → Nat → List FwTarget → List (FwTarget × List Nat)
  | 0, r, before => s.afterRound before (rounds.getD r [])
  | fuel + 1, r, before => s.fwRounds rounds fuel (r + 1) ((s.afterRound before (rounds.getD r [])).map (·.1))

/-- The targets that are incomplete after round 8, with what they lack; round 0 is asked of every target. -/
def State.incomplete (s : State) (rounds : List (List FwStatus)) : List (FwTarget × List Nat) :=
  s.fwRounds rounds 8 0 (((rounds.getD 0 []).map (·.target)).eraseDups.filter s.isTarget)

/-- A failed control core or engine sequencer fails its physical core: the spare takes its logical ID if it is free and `spareGood`. A
site that another target of it has failed gets its entry with what has been done (R312). -/
def State.failCoreTarget (s : State) (d k j : Nat) (spareGood : Bool) (was : Option Nat) : State :=
  if s.siteFailed d k j then
    let spared := match was with | some c => !s.coreAbsent (128 * d + 16 * k + c) | none => false
    s.report 1 (locOf [d, k, j]) 7 (if spared then 1 else 2)
  else s.spareOut d k j 7 spareGood

/-- R312: a target that is incomplete after round 8 is counted, entered in the report and spared out; `all` are those targets and
`start` the state before. -/
def State.failTarget (s start : State) (all : List FwTarget) (f : FwTarget) : State :=
  let s := s.countTop R.BRG_FW_FAILED [] 1
  let spareGood (d : Fin 2) (k : Fin 8) : Bool :=
    !(all.any fun t => match t with
      | .core e l j => e == d && l == k && j.val == 16
      | .sequencer e l j _ => e == d && l == k && j.val == 16
      | _ => false)
  match f with
  | .core d k j => s.failCoreTarget d.val k.val j.val (spareGood d k) (start.logicalAt d.val k.val j.val)
  | .sequencer d k j _ => s.failCoreTarget d.val k.val j.val (spareGood d k) (start.logicalAt d.val k.val j.val)
  | .controller d k => s.withdrawCluster d.val k.val 7
  | .sketch d k => s.withdrawSketch d.val k.val 7

/-- FIRMWARE_BROADCAST_END (R311, R312). -/
def execFirmwareBroadcastEnd (rounds : List (List FwStatus)) (s : State) : Host.Outcome State Fault Refusal :=
  s.awake fun s =>
    if s.step_ 9 ≠ 1 then s
    else
      let left := s.incomplete rounds
      let t := s.withBrg { s.brg with fwMissing := left }
      let t := left.foldl (fun t f => t.failTarget s (left.map (·.1)) f.1) t
      t.stepDone 9 ((rangeFrom 0 s.dev.assembly.computeDies).map (18 + ·))

end Sys2Proof.Machine
end

