-- ==== Sys2Proof/Machine/Capture.lean ====
section
/-! DEFINITION. Capture: CSI-2 receivers, video streams, TDM audio, FSYNC outputs and the I²C controllers (R240–R252). -/

namespace Sys2Proof.Machine

/-! ### Video streams -/

/-- A video stream. -/
def State.vid (s : State) (n : Nat) : VideoStream := vecGet s.cap.video n VideoStream.reset

/-- Change a video stream. -/
def State.setVid (s : State) (n : Nat) (x : VideoStream) : State :=
  s.withCap { s.cap with video := vecSet s.cap.video n x }

/-- Is a stream enabled and routed? -/
def State.vidOn (s : State) (n : Nat) : Bool := s.bit R.CAP_V_ROUTE [n] 18 && s.bit R.CAP_V_CTRL [n] 0

/-- The streams that take a virtual channel of a receiver. -/
def State.vidsOf (s : State) (rx vc : Nat) : List Nat :=
  (rangeFrom 0 16).filter fun n =>
    s.vidOn n && s.fld R.CAP_V_ROUTE [n] 1 0 == rx && s.fld R.CAP_V_ROUTE [n] 5 2 == vc

/-- The streams of a receiver. -/
def State.vidsOn (s : State) (rx : Nat) : List Nat :=
  (rangeFrom 0 16).filter fun n => s.vidOn n && s.fld R.CAP_V_ROUTE [n] 1 0 == rx

/-- The lower-numbered stream of a pair, or the stream itself. -/
def State.lead (s : State) (n : Nat) : Nat := match s.partner n with | some m => min n m | none => n

/-- The state of a buffer: 0 free, 1 filling, 2 ready, 3 held. -/
def State.bufState (s : State) (n i : Nat) : Nat := s.fld R.CAP_V_STATE [n] (2 * i + 1) (2 * i)

/-- Give a buffer a state. -/
def State.setBuf (s : State) (n i v : Nat) : State := s.setFld R.CAP_V_STATE [n] (2 * i + 1) (2 * i) v

/-- The first free buffer in cyclic order after the one last filled (R243). -/
def State.freeBuffer (s : State) (n : Nat) : Option Nat :=
  let k := s.fld R.CAP_V_NBUF [n] 3 0
  let from_ := match (s.vid n).last with | some i => i + 1 | none => 0
  ((rangeFrom from_ k).map (· % (max 1 k))).find? fun i => s.bufState n i == 0

/-- An event of a stream, at most one for each frame; the spec gives no code. -/
def State.vidEvent (s : State) (n : Nat) : State :=
  let x := s.vid n
  if s.bit R.CAP_V_CTRL [n] 3 && !x.told then (s.setVid n { x with told := true }).eventOpen 0x0B n [] else s

/-- A counter of a stream. -/
def State.vidCount (s : State) (n : Nat) (r : Reg) (bit : Nat) : State := s.countSat r [n] 1 R.CAP_V_CNT_OVF [n] bit

/-- A write of a stream on behalf of its context, through the regulators of the context's partition (R18): denied, it has no
effect. -/
def State.capWrite (s : State) (ctx a : Nat) (bs : List Byte) : State :=
  match s.writeFor ctx a bs with
  | .ok t => t.hubWrote (s.ctxPart ctx) a bs.length
  | _ => s

/-- The context of a stream. -/
def State.vidCtx (s : State) (n : Nat) : Nat := s.fld R.CAP_V_ROUTE [n] 17 12

/-- The address of a frame record. -/
def State.recordAt (s : State) (n i : Nat) : Nat := s.rdAddr R.CAP_V_REC_LO R.CAP_V_REC_HI [n] + 32 * i

/-- The flags of a written record (Table 10.1). -/
def State.recordFlags (s : State) (n i flags : Nat) : State :=
  s.capWrite (s.vidCtx n) (s.recordAt n i + 5) (leBytes 1 flags)

/-- A buffer that is released after its chain (R245). -/
def State.freeOrReady (s : State) (n i : Nat) : State := s.setBuf n i (if s.bit R.CAP_V_CTRL [n] 1 then 0 else 2)

/-- CAPTURE_TRIGGER (R245): the streams' ready buffers `i` become held and the chain of the lower-numbered one is
submitted. -/
def State.trigger (s : State) (ns : List Nat) (i : Nat) : State :=
  let n := ns.headD 0
  if !s.bit R.CAP_V_CTRL [n] 2 then s
  else
    let ready := ns.filter fun m => s.bufState m i == 2
    let full := s.visFull
    let s := ns.foldl (fun s m => s.recordFlags m i (if full then 2 else 1)) s
    let s := ready.foldl (fun s m => s.setBuf m i 3) s
    let (t, taken) := s.submitChain (.capture n i) (s.rdAddr R.CAP_V_CHAIN_LO R.CAP_V_CHAIN_HI [n, i])
    if taken then t
    else ready.foldl (fun s m => s.freeOrReady m i) ((t.vidCount n R.CAP_V_CNT_TRIGFAIL 3).vidEvent n)

/-- R245: a pair of frames in buffer `i` fails. -/
def State.pairFail (s : State) (n m i : Nat) : State :=
  let one (s : State) (k : Nat) : State :=
    let t := if s.bufState k i = 2 then s.setBuf k i 0 else s
    t.recordFlags k i 4
  let low := min n m
  ((one (one s n) m).vidCount low R.CAP_V_CNT_PAIRFAIL 2).vidEvent low

/-- R245: a frame of stream `n` has ended in buffer `i`; what it means for its pair. -/
def State.pairEnd (s : State) (n m i start : Nat) (good : Bool) : State :=
  let y := s.vid m
  match y.pair with
  | some w =>
    if w.buffer = i then
      let s := s.setVid m { y with pair := none }
      let low := min n m
      if good && w.good && decide (start - w.start ≤ (s.rd R.CAP_V_PAIR_TOL [low]).toNat)
          && decide (w.start - start ≤ (s.rd R.CAP_V_PAIR_TOL [low]).toNat) then
        s.trigger [low, max n m] i
      else s.pairFail n m i
    else s.setVid n { s.vid n with pair := some { buffer := i, start := start, good := good } }
  | none =>
    let coming := s.vidOn m && (y.common == some i || (match y.frame with | some f => f.buffer == i | none => false))
    if coming then s.setVid n { s.vid n with pair := some { buffer := i, start := start, good := good } }
    else s.pairFail n m i

/-- The status of a frame that ends (Table 10.1, R244): `early` for one that does not end at its Frame End packet. -/
def State.frameStatus (s : State) (n : Nat) (f : CapFrame) (early : Bool) : Nat :=
  if f.header then 4 else if f.crc then 3 else if f.long then 2
  else if early || f.short || decide (f.lines < s.fld R.CAP_V_SIZE [n] 27 16) then 1
  else 0

/-- R244: the open frame of a stream ends with a status. -/
def State.endFrame (s : State) (n : Nat) (f : CapFrame) (status : Nat) : State :=
  let i := f.buffer
  let body := leBytes 4 (s.rd R.CAP_V_FRAMES [n]).toNat ++ leBytes 1 status ++ [0] ++ leBytes 2 f.lines ++ leBytes 8 f.start
    ++ leBytes 8 s.now ++ leBytes 4 f.corrected ++ zeros 4
  let s := (s.setVid n { s.vid n with frame := none }).capWrite (s.vidCtx n) (s.recordAt n i) body
  let s := s.count R.CAP_V_FRAMES [n] 1
  let s := if status = 0 then s.setBuf n i 2 else ((s.setBuf n i 0).vidCount n R.CAP_V_CNT_BAD 1).vidEvent n
  match s.partner n with
  | some m => s.pairEnd n m i f.start (status == 0)
  | none => if status = 0 then s.trigger [n] i else s

/-- R244: end the open frame of a stream, if there is one. -/
def State.closeFrame (s : State) (n : Nat) (early : Bool) : State :=
  match (s.vid n).frame with
  | some f => s.endFrame n f (s.frameStatus n f early)
  | none => s

/-- R245: the partner has not started the frame for which an index was taken: the pair fails. -/
def State.missedPartner (s : State) (n m : Nat) : State :=
  let y := s.vid m
  match y.common with
  | none => s
  | some i =>
    let s := s.setVid m { y with common := none }
    let s := if i < 8 then s.setBuf m i 0 else s
    match (s.vid n).pair with
    | some w => if w.buffer = i then (s.setVid n { s.vid n with pair := none }).pairFail n m i else s
    | none => s

/-- The index that a new frame of a stream fills, and the index taken for the partner's next frame; a frame of a pair whose
index is not free in both streams is dropped (index 8). -/
def State.allocate (s : State) (n : Nat) : State × Nat :=
  match s.partner n with
  | none => (s, (s.freeBuffer n).getD 8)
  | some m =>
    match (s.vid n).common with
    | some i => (s.setVid n { s.vid n with common := none }, i)
    | none =>
      let low := min n m
      let i := match s.freeBuffer low with
        | some i => if s.bufState n i = 0 ∧ s.bufState m i = 0 then i else 8
        | none => 8
      let s := s.setVid m { s.vid m with common := some i }
      (if i < 8 then s.setBuf m i 1 else s, i)

/-- A new frame of a stream starts: what was told of its frame before it, the failure of that frame's pair included, comes
first (R245). -/
def State.leaveFrame (s : State) (n : Nat) : State :=
  let s := s.closeFrame n true
  match s.partner n, (s.vid n).common with
  | some m, none => s.missedPartner n m
  | _, _ => s

/-- R243: a frame starts on a stream. -/
def State.startFrame (s : State) (n : Nat) (corrected : Bool) : State :=
  let s := s.leaveFrame n
  let s := s.setVid n { s.vid n with told := false }
  let (s, i) := s.allocate n
  if i < 8 then
    let f : CapFrame := { buffer := i, start := s.now, lines := 0, long := false, short := false, crc := false,
                          header := false, corrected := b2n corrected }
    (s.setVid n { s.vid n with frame := some f, last := some i }).setBuf n i 1
  else (s.vidCount n R.CAP_V_CNT_DROP 0).vidEvent n

/-! ### Receivers (R240, R241) -/

/-- A counter of a receiver. -/
def State.rxCount (s : State) (rx : Nat) (r : Reg) (bit : Nat) : State := s.countSat r [rx] 1 R.CAP_RX_CNT_OVF [rx] bit

/-- Count a corrected header. -/
def State.rxCorrected (s : State) (rx : Nat) (corrected : Bool) : State :=
  if corrected then s.rxCount rx R.CAP_RX_CNT_ECC 0 else s

/-- CSI_FRAME_START (R243). -/
def execCsiFrameStart (rx : Fin 4) (vc : Fin 16) (corrected : Bool) (s : State) : Host.Outcome State Fault Refusal :=
  s.live fun s =>
    if !s.bit R.CAP_RX_CTRL [rx.val] 0 then s
    else
      let s := s.rxCorrected rx.val corrected
      match s.vidsOf rx.val vc.val with
      | [] => s.rxCount rx.val R.CAP_RX_CNT_UNROUTED 3
      | ns => ns.foldl (fun s n => s.startFrame n corrected) s

/-- A packet's corrected header counts in the open frames of the streams that it belongs to (Table 10.1). -/
def State.frameCorrected (s : State) (ns : List Nat) (corrected : Bool) : State :=
  ns.foldl (fun s n =>
    match (s.vid n).frame with
    | some f => s.setVid n { s.vid n with frame := some { f with corrected := f.corrected + b2n corrected } }
    | none => s) s

/-- The code of an image data type that the receivers accept (R240). -/
def rawCode : PacketType → Option Nat
  | .raw8 => some 0x2A | .raw10 => some 0x2B | .raw12 => some 0x2C | .raw14 => some 0x2D | .raw16 => some 0x2E
  | .lineStart => none | .lineEnd => none | .other _ => none

/-- The bits of a pixel. -/
def rawBits : PacketType → Nat
  | .raw8 => 8 | .raw10 => 10 | .raw12 => 12 | .raw14 => 14 | .raw16 => 16
  | .lineStart => 0 | .lineEnd => 0 | .other _ => 0

/-- The bytes of one pixel in a buffer (R242): R8 or R16. -/
def rawBytes (dt : PacketType) (p : Half) : List Byte :=
  leBytes (if dt = .raw8 then 1 else 2) (p.toNat % 2 ^ rawBits dt)

/-- R242, R244: a line of pixels goes to the open frame of a stream. -/
def State.takeLine (s : State) (n : Nat) (dt : PacketType) (corrected crcGood : Bool) (pixels : List Half) : State :=
  match (s.vid n).frame with
  | none => s
  | some f =>
    let w := s.fld R.CAP_V_SIZE [n] 12 0
    let h := s.fld R.CAP_V_SIZE [n] 27 16
    let row := pixels.take w ++ List.replicate (w - pixels.length) 0
    let a := s.rdAddr R.CAP_V_BASE_LO R.CAP_V_BASE_HI [n] + f.buffer * (s.rd R.CAP_V_STRIDE [n]).toNat
      + f.lines * (s.rd R.CAP_V_PITCH [n]).toNat
    let t := if f.lines < h then s.capWrite (s.vidCtx n) a ((row.map (rawBytes dt)).flatten) else s
    t.setVid n { t.vid n with frame := some { f with
      lines := f.lines + 1
      long := f.long || decide (w < pixels.length) || decide (h ≤ f.lines)
      short := f.short || (decide (pixels.length < w) && decide (f.lines < h))
      crc := f.crc || !crcGood
      corrected := f.corrected + b2n corrected } }

/-- The streams that take the image data of a type on a virtual channel of a receiver (R242). -/
def State.takers (s : State) (rx vc : Nat) (dt : PacketType) : List Nat :=
  (s.vidsOf rx vc).filter fun n => rawCode dt == some (s.fld R.CAP_V_ROUTE [n] 11 6)

/-- CSI_LONG_PACKET (R241, R242), with the packets that end with no line: Line Start and Line End packets are accepted and
ignored, other data types discarded (R240). -/
def execCsiLongPacket (rx : Fin 4) (vc : Fin 16) (dt : PacketType) (corrected crcGood : Bool) (pixels : List Half)
    (s : State) : Host.Outcome State Fault Refusal :=
  s.live fun s =>
    if !s.bit R.CAP_RX_CTRL [rx.val] 0 then s
    else
      let s := s.rxCorrected rx.val corrected
      if dt = .lineStart ∨ dt = .lineEnd then s.frameCorrected (s.vidsOf rx.val vc.val) corrected
      else match s.takers rx.val vc.val dt with
        | [] => s.rxCount rx.val R.CAP_RX_CNT_UNROUTED 3
        | ns =>
          let s := if crcGood then s else s.rxCount rx.val R.CAP_RX_CNT_CRC 2
          ns.foldl (fun s n => s.takeLine n dt corrected crcGood pixels) s

/-- CSI_FRAME_END (R244). -/
def execCsiFrameEnd (rx : Fin 4) (vc : Fin 16) (corrected : Bool) (s : State) : Host.Outcome State Fault Refusal :=
  s.live fun s =>
    if !s.bit R.CAP_RX_CTRL [rx.val] 0 then s
    else
      let s := s.rxCorrected rx.val corrected
      match s.vidsOf rx.val vc.val with
      | [] => s.rxCount rx.val R.CAP_RX_CNT_UNROUTED 3
      | ns => ns.foldl (fun s n => (s.frameCorrected [n] corrected).closeFrame n false) s

/-- R241: every frame open on a receiver is marked, to end with status 4. -/
def State.markOpen (s : State) (rx : Nat) : State :=
  (s.vidsOn rx).foldl (fun s n =>
    match (s.vid n).frame with
    | some f => s.setVid n { s.vid n with frame := some { f with header := true } }
    | none => s) s

/-- CSI_HEADER_ERROR (R241). -/
def execCsiHeaderError (rx : Fin 4) (s : State) : Host.Outcome State Fault Refusal :=
  s.live fun s =>
    if s.bit R.CAP_RX_CTRL [rx.val] 0 then (s.rxCount rx.val R.CAP_RX_CNT_HDR 1).markOpen rx.val else s

/-- LINE_BUFFER_OVERRUN (R241). -/
def execLineBufferOverrun (rx : Fin 4) (s : State) : Host.Outcome State Fault Refusal :=
  s.live fun s =>
    if s.bit R.CAP_RX_CTRL [rx.val] 0 then (s.rxCount rx.val R.CAP_RX_CNT_OVR 4).markOpen rx.val else s

/-- CAPTURE_FRAME_TIMEOUT (R244): CAP_Vn_TMO, if it is not 0, expires after the Frame Start. -/
def execCaptureFrameTimeout (stream : Fin 16) (s : State) : Host.Outcome State Fault Refusal :=
  s.live fun s => if s.rd R.CAP_V_TMO [stream.val] = 0 then s else s.closeFrame stream.val true

/-- CAPTURE_RELEASE (R245): ready buffers become free. -/
def execCaptureRelease (stream : Fin 16) (mask : Byte) (s : State) : Host.Outcome State Fault Refusal :=
  s.live fun s =>
    (rangeFrom 0 8).foldl (fun s i =>
      if mask.getLsbD i && s.bufState stream.val i == 2 then s.setBuf stream.val i 0 else s) s

/-- R245, R246: what the stop of a stream means for its pair: a frame of the partner that waits for the stopped stream fails
with it; a frame of the stream itself is no longer good, and the pair fails when the partner's frame ends. -/
def State.stopPair (s : State) (n : Nat) : State :=
  match s.partner n with
  | none => s.setVid n { s.vid n with pair := none }
  | some m =>
    match (s.vid m).pair with
    | some w => (s.setVid m { s.vid m with pair := none }).pairFail n m w.buffer
    | none => s.setVid n { s.vid n with pair := (s.vid n).pair.map fun w => { w with good := false } }

/-- R246: the open frame is discarded with status 5, and every buffer that is not held becomes free. -/
def State.captureStop (s : State) (n : Nat) : State :=
  let s := match (s.vid n).frame with
    | some f => s.endFrame n f 5
    | none => s
  let s := s.stopPair n
  let s := (rangeFrom 0 8).foldl (fun s i => if s.bufState n i = 3 then s else s.setBuf n i 0) s
  s.setVid n { s.vid n with frame := none, common := none }

/-- CAPTURE_DISABLE (R246): `en` goes to 0. -/
def execCaptureDisable (stream : Fin 16) (value : Word) (s : State) : Host.Outcome State Fault Refusal :=
  s.live fun s =>
    let n := stream.val
    let was := s.bit R.CAP_V_CTRL [n] 0
    let s := s.poke R.CAP_V_CTRL [n] (value &&& 0xE)
    if was then s.captureStop n else s

/-! ### TDM audio (R248, R249) -/

/-- An audio stream. -/
def State.aud (s : State) (a : Nat) : AudioStream := vecGet s.cap.audio a AudioStream.reset

/-- Change an audio stream. -/
def State.setAud (s : State) (a : Nat) (x : AudioStream) : State :=
  s.withCap { s.cap with audio := vecSet s.cap.audio a x }

/-- The enabled streams of a port. -/
def State.audsOf (s : State) (p : Nat) : List Nat :=
  (rangeFrom 0 8).filter fun a =>
    s.bit R.CAP_A_ROUTE [a] 17 && s.bit R.CAP_A_CTRL [a] 0 && s.fld R.CAP_A_ROUTE [a] 0 0 == p

/-- A port. -/
def State.tdm (s : State) (p : Nat) : AudioPort := vecGet s.cap.ports p { lastSync := none, good := 0 }

/-- Change a port. -/
def State.setTdm (s : State) (p : Nat) (x : AudioPort) : State :=
  s.withCap { s.cap with ports := vecSet s.cap.ports p x }

/-- The bits of a slot. -/
def State.slotBits (s : State) (p : Nat) : Nat :=
  match s.fld R.CAP_AP_CFG [p] 7 6 with
  | 0 => 16
  | 1 => 24
  | _ => 32

/-- The bytes of a sample (R249): INT32 with the slot's top bit at bit 31, INT16 its 16 top bits. -/
def sampleBytes (w : Nat) (int32 : Bool) (v : Word) : List Byte :=
  let u := v.toNat % 2 ^ w
  if int32 then leBytes 4 (u * 2 ^ (32 - w)) else leBytes 2 (u / 2 ^ (w - 16))

/-- Bytes of a period in the ring (R249). -/
def periodSize (frames count sample : Nat) : Nat := roundUp (16 + frames * count * sample) 256

/-- AUDIO_PERIOD_COMPLETE (R249). -/
def State.periodEnd (s : State) (a : Nat) : State :=
  let x := s.aud a
  let seq := s.rd R.CAP_A_WR [a]
  let nper := s.fld R.CAP_A_NPER [a] 8 0
  let count := s.fld R.CAP_A_ROUTE [a] 10 6 + 1
  let sample := if s.bit R.CAP_A_CTRL [a] 1 then 4 else 2
  let full := decide (nper ≤ (seq - s.rd R.CAP_A_RD [a]).toNat)
  let s := s.poke R.CAP_A_WR [a] (seq + 1)
  if full then
    let s := (s.countSat R.CAP_A_CNT_GAP [a] 1 R.CAP_A_CNT_OVF [a] 0).setAud a { AudioStream.reset with gap := true }
    if s.bit R.CAP_A_CTRL [a] 2 then s.eventOpen 0x0B (16 + a) [] else s
  else
    let head := leBytes 4 seq.toNat ++ leBytes 1 (b2n x.gap + 2 * b2n x.resync) ++ leBytes 1 count ++ leBytes 2 x.frames
      ++ leBytes 8 x.first
    let at_ := s.rdAddr R.CAP_A_RING_LO R.CAP_A_RING_HI [a]
      + (seq.toNat % (max 1 nper)) * periodSize (s.fld R.CAP_A_PERIOD [a] 12 0) count sample
    (s.capWrite (s.fld R.CAP_A_ROUTE [a] 16 11) at_ (head ++ x.samples)).setAud a AudioStream.reset

/-- A frame's channels go to a stream; a channel that the port does not receive is a free value. -/
def State.takeFrame (s : State) (p a : Nat) (slots : List Word) : State :=
  let x := s.aud a
  let first := s.fld R.CAP_A_ROUTE [a] 5 1
  let count := s.fld R.CAP_A_ROUTE [a] 10 6 + 1
  let missing := decide (slots.length < first + count)
  let extra := Config.freeBits 2048 s.free
  let s := if missing then s.draw else s
  let samples := ((rangeFrom first count).map fun c =>
    sampleBytes (s.slotBits p) (s.bit R.CAP_A_CTRL [a] 1)
      ((slots[c]?).getD (BitVec.ofNat 32 (extra.toNat / 2 ^ (32 * c))))).flatten
  let s := s.setAud a { x with samples := x.samples ++ samples, frames := x.frames + 1,
                               first := if x.frames = 0 then s.now else x.first }
  if s.fld R.CAP_A_PERIOD [a] 12 0 ≤ x.frames + 1 then s.periodEnd a else s

/-- The frame rate that a port measures, Hz. -/
def State.measureRate (s : State) (p : Nat) : State :=
  match (s.tdm p).lastSync with
  | some t => if t < s.now then s.setFld R.CAP_AP_STATUS [p] 31 16 (min 65535 (1000000000 / (s.now - t))) else s
  | none => s

/-- TDM_FRAME (R248, R249): a frame of the expected length has arrived. -/
def execTdmFrame (port : Fin 2) (slots : List Word) (s : State) : Host.Outcome State Fault Refusal :=
  s.live fun s =>
    let p := port.val
    if !s.bit R.CAP_AP_CFG [p] 0 then s
    else
      let s := s.measureRate p
      let x := s.tdm p
      if s.bit R.CAP_AP_STATUS [p] 1 then
        if x.good = 0 then s.setTdm p { lastSync := some s.now, good := 1 }
        else
          let s := s.setTdm p { lastSync := some s.now, good := 2 }
          let s := (s.audsOf p).foldl (fun s a => s.setAud a { s.aud a with gap := true }) s
          (s.setBit R.CAP_AP_STATUS [p] 1 false).setBit R.CAP_AP_STATUS [p] 0 true
      else
        let s := (s.setTdm p { x with lastSync := some s.now }).setBit R.CAP_AP_STATUS [p] 0 true
        (s.audsOf p).foldl (fun s a => s.takeFrame p a slots) s

/-- TDM_RESYNC (R248). -/
def execTdmResync (port : Fin 2) (s : State) : Host.Outcome State Fault Refusal :=
  s.live fun s =>
    let p := port.val
    if !s.bit R.CAP_AP_CFG [p] 0 then s
    else
      let s := s.setTdm p { lastSync := some s.now, good := 0 }
      let s := (s.audsOf p).foldl (fun s a => s.setAud a { s.aud a with resync := true }) s
      (s.setBit R.CAP_AP_STATUS [p] 0 false).countSat R.CAP_AP_CNT_RESYNC [p] 1 R.CAP_AP_STATUS [p] 2

/-- TDM_FS_LOST (R248). -/
def execTdmFsLost (port : Fin 2) (s : State) : Host.Outcome State Fault Refusal :=
  s.live fun s =>
    let p := port.val
    if !s.bit R.CAP_AP_CFG [p] 0 || s.bit R.CAP_AP_STATUS [p] 1 then s
    else
      let s := s.setTdm p { lastSync := none, good := 0 }
      let s := (s.setBit R.CAP_AP_STATUS [p] 1 true).setBit R.CAP_AP_STATUS [p] 0 false
      if (s.audsOf p).any fun a => s.bit R.CAP_A_CTRL [a] 2 then s.eventOpen 0x0B (40 + p) [] else s

/-- AUDIO_RD_WRITE (R249). -/
def execAudioRdWrite (stream : Fin 8) (value : Word) (s : State) : Host.Outcome State Fault Refusal :=
  s.live fun s =>
    let a := stream.val
    if s.fld R.CAP_A_NPER [a] 8 0 < (s.rd R.CAP_A_WR [a] - value).toNat then s else s.poke R.CAP_A_RD [a] value

/-! ### FSYNC (R247) -/

/-- An FSYNC output. -/
def State.fs (s : State) (k : Nat) : Fsync :=
  vecGet s.cap.fsync k { running := false, start := 0, period := 0, width := 0, pulses := 0, lastEdge := 0 }

/-- Change an FSYNC output. -/
def State.setFs (s : State) (k : Nat) (x : Fsync) : State := s.withCap { s.cap with fsync := vecSet s.cap.fsync k x }

/-- The next edge of an FSYNC output, TIMEBASE ns. -/
def State.fsNext (s : State) (k : Nat) : Nat := s.rd64 R.CAP_FS_NEXT_LO R.CAP_FS_NEXT_HI [k]

/-- The first value start + j × period that is after a time. -/
def edgeAfter (start period now : Nat) : Nat :=
  if now < start then start else start + ((now - start) / (max 1 period) + 1) * period

/-- FSYNC_ENABLE (R247): at the rise of `en`, START, PERIOD and WIDTH are read; an output whose values are outside the
limits sends no pulse. -/
def execFsyncEnable (output : Fin 4) (value : Word) (s : State) : Host.Outcome State Fault Refusal :=
  s.live fun s =>
    let k := output.val
    let was := s.bit R.CAP_FS_CTRL [k] 0
    let s := s.poke R.CAP_FS_CTRL [k] ((value &&& 2) ||| 1)
    if was then s
    else
      let start := s.rd64 R.CAP_FS_START_LO R.CAP_FS_START_HI [k]
      let period := (s.rd R.CAP_FS_PERIOD [k]).toNat
      let width := (s.rd R.CAP_FS_WIDTH [k]).toNat
      let good := decide (100000 ≤ period) && decide (period ≤ 1000000000) && decide (100 ≤ width)
        && decide (width + 100 ≤ period)
      let s := s.setFs k { s.fs k with running := good, start := start, period := period, width := width }
      if good then
        s.poke64 R.CAP_FS_NEXT_LO R.CAP_FS_NEXT_HI [k] (if start < s.now then edgeAfter start period s.now else start)
      else s

/-- One leading edge. -/
def State.fsPulse (s : State) (k : Nat) : State :=
  let x := s.fs k
  s.setFs k { x with pulses := x.pulses + 1, lastEdge := s.fsNext k }

/-- FSYNC_EDGE (R247): an edge value has come. -/
def execFsyncEdge (output : Fin 4) (s : State) : Host.Outcome State Fault Refusal :=
  s.live fun s =>
    let k := output.val
    let x := s.fs k
    if x.running then (s.fsPulse k).poke64 R.CAP_FS_NEXT_LO R.CAP_FS_NEXT_HI [k] (s.fsNext k + x.period) else s

/-- R247: after a step of TIMEBASE: one edge for the values stepped over, and the schedule goes on; after a step back the
edges follow the new values. -/
def State.fsStep (s : State) (k : Nat) (before : Nat) : State :=
  let x := s.fs k
  if !x.running then s
  else if before ≤ s.now then
    if s.fsNext k ≤ s.now then
      (s.fsPulse k).poke64 R.CAP_FS_NEXT_LO R.CAP_FS_NEXT_HI [k] (edgeAfter x.start x.period s.now)
    else s
  else s.poke64 R.CAP_FS_NEXT_LO R.CAP_FS_NEXT_HI [k] (edgeAfter x.start x.period s.now)

/-! ### I²C (R250) -/

/-- Bytes held in the data registers. -/
def State.i2cBytes (s : State) (c n : Nat) : List Byte :=
  (((rangeFrom 0 8).map fun i => leBytes 4 (s.rd R.I2C_DATA [c, i]).toNat).flatten).take n

/-- The allow entry of an address. -/
def State.i2cAllow (s : State) (c addr : Nat) : Option Nat :=
  (rangeFrom 0 8).find? fun e => s.bit R.I2C_ALLOW [c, e] 8 && s.fld R.I2C_ALLOW [c, e] 6 0 == addr

/-- R250: does the allow list let a command be sent? -/
def State.i2cMay (s : State) (c addr : Nat) (write : Bool) : Bool :=
  !s.sealed ||
    match s.i2cAllow c addr with
    | some e => !write || s.bit R.I2C_ALLOW [c, e] 7
    | none => false

/-- A command ends with a result. -/
def State.i2cEnd (s : State) (c result : Nat) : State :=
  let s := (s.withCap { s.cap with i2c := vecSet s.cap.i2c c none }).poke R.I2C_STATUS [c] (BitVec.ofNat 32 (2 * result))
  if result = 0 then s
  else if result = 5 then s.countSat R.I2C_CNT_REFUSED [c] 1 R.I2C_CNT_OVF [c] 1
  else s.countSat R.I2C_CNT_ERR [c] 1 R.I2C_CNT_OVF [c] 0

/-- I2C_COMMAND (R250): a command of an enabled, idle controller is sent, or refused. -/
def execI2cCommand (ctrl : Fin 4) (value : Word) (s : State) : Host.Outcome State Fault Refusal :=
  s.live fun s =>
    let c := ctrl.val
    let s := s.poke R.I2C_CMD [c] (value &&& 0x3F1F7F)
    let addr := bits value 6 0
    let wlen := min 16 (bits value 12 8)
    let rlen := min 32 (bits value 21 16)
    if !s.bit R.I2C_CTRL [c] 0 || (vecGet s.cap.i2c c none).isSome then s
    else if s.i2cMay c addr (wlen != 0) then
      let run : I2cRun := { addr := addr, wlen := wlen, rlen := rlen, data := s.i2cBytes c wlen }
      (s.withCap { s.cap with i2c := vecSet s.cap.i2c c (some run) }).poke R.I2C_STATUS [c] 1
    else s.i2cEnd c 5

/-- I2C_COMMAND_END (R250). -/
def execI2cCommandEnd (ctrl : Fin 4) (result : Fin 5) (data : List Byte) (s : State) :
    Host.Outcome State Fault Refusal :=
  s.live fun s =>
    let c := ctrl.val
    match vecGet s.cap.i2c c none with
    | some r => (if result.val = 0 then s.putBytes R.I2C_DATA c 0 (data.take r.rlen) else s).i2cEnd c result.val
    | none => s

end Sys2Proof.Machine
end

