-- ==== Sys2Proof/Machine/Scheduling.lean ====
section
/-! DEFINITION. The commands of the scheduler: queues and doorbells (R256–R258), what runs on a core (R100, R265), the ends
of tasks (R113, R261), eviction, restore and park (R267–R270), restart (R272), semaphores (R273–R275). -/

namespace Sys2Proof.Machine

/-! ### Queues -/

/-- QUEUE_ENABLE: a write of SCH_CTXc_QCTL with `enable` (R256). -/
def execQueueEnable (ctx : Fin 64) (value : Word) (s : State) : Host.Outcome State Fault Refusal :=
  s.live fun s => if bits value 8 8 = 1 then s.queueControl ctx.val value else s

/-- QUEUE_DISABLE: a write of SCH_CTXc_QCTL with `disable` alone (R256). -/
def execQueueDisable (ctx : Fin 64) (value : Word) (s : State) : Host.Outcome State Fault Refusal :=
  s.live fun s => if bits value 9 8 = 2 then s.queueControl ctx.val value else s

/-- Is a queue enabled as a `cq_only` queue? -/
def State.isCqOnly (s : State) (q : Nat) : Bool := match s.queue q with | some x => x.desc.cqOnly | none => false

/-- DOORBELL: SCH_DBq of a submission queue (R257). -/
def execDoorbell (queue : Fin 16384) (count : Word) (s : State) : Host.Outcome State Fault Refusal :=
  s.live fun s => if s.isCqOnly queue.val then s else (s.doorbell queue.val count).1

/-- CQ_CONSUMER_DOORBELL: SCH_DBq of a `cq_only` queue (R258). -/
def execCqConsumerDoorbell (queue : Fin 16384) (count : Word) (s : State) : Host.Outcome State Fault Refusal :=
  s.live fun s => if s.isCqOnly queue.val then (s.doorbell queue.val count).1 else s

/-! ### What a core runs -/

/-- Queued engine commands of the slot that a core runs may run (R94). -/
def State.drainCore (s : State) (core : Nat) : State :=
  match s.coreRuns core with | some i => s.drainEngines core i | none => s

/-- SLOT_SWITCH: a core switches to the slot that R265 chooses (R100). -/
def execSlotSwitch (core : CoreName) (s : State) : Host.Outcome State Fault Refusal :=
  s.live fun s => (s.switchCore (coreId core)).drainCore (coreId core)

/-- The slots of a core that rotate with the running one: candidates of equal effective priority, their tasks without
deadlines. -/
def State.rotation (s : State) (core : Nat) (t : Task) : List Slot :=
  (s.candidates core).filter fun x =>
    match s.slotTask x with | some u => u.eff == t.eff && !u.entry.dlValid | none => false

/-- QUANTUM_EXPIRY: slots of equal priority without deadlines rotate, in order of slot index; with SCH_QUANTUM = 0 they do
not (R265). A slot of a static-schedule partition does not make room for another partition's (R121). -/
def execQuantumExpiry (core : CoreName) (s : State) : Host.Outcome State Fault Refusal :=
  s.live fun s =>
    let c := coreId core
    match s.coreRuns c with
    | none => s
    | some i =>
      match (s.slotAt c i).bind s.slotTask with
      | none => s
      | some t =>
        if s.fld R.SCH_QUANTUM [] 15 0 = 0 ∨ t.entry.dlValid then s
        else
          match leastBy (fun x : Slot => [(x.idx + 3 - i) % 4]) ((s.rotation c t).filter fun x => x.idx != i) with
          | some x => ((s.coreIdle c).startSlot x).drainCore c
          | none => s

/-- Is it a wait that yields after 1 µs: on a semaphore, a halo word or an event counter (R265)? -/
def SlotWait.yields : SlotWait → Bool
  | .sem _ => true | .event _ _ => true | .flag _ _ => true | .engine _ _ => false | .boxFull _ => false

/-- WAIT_YIELD: a slot that has waited 1 µs on a semaphore, an event counter or a flag yields (R265). -/
def execWaitYield (at_ : SlotName) (s : State) : Host.Outcome State Fault Refusal :=
  s.live fun s =>
    match s.slotAt (coreId at_.at_) at_.slot.val with
    | some x =>
      if x.phase == .live && x.wait.any (·.1.yields) then (s.putSlot { x with yielded := true }).switchCore x.core |>.drainCore x.core else s
    | none => s

/-! ### The ends of tasks -/

/-- The statuses of Table 0.4. -/
def statusCodes : List Nat := [0x00, 0x01, 0x02, 0x10, 0x11, 0x12, 0x13, 0x14, 0x15, 0x16, 0x20, 0x21, 0x3F]

/-- R113: has a slot nothing under way: no transfer, no box call, no engine command that has not retired, no thread? -/
def Slot.quiet (x : Slot) : Bool :=
  x.image.dma.isEmpty && x.calls.isEmpty && !x.stalled && (x.image.engines.all (·.free))
    && x.image.hampers.all fun h => h.exited == 0xFFFFFFFF

/-- R113, R124: has a started task come to its end? Every group has been dispatched and has ended, its slots are quiet, its
passes have ended, and a token loop is over. -/
def State.taskDone (s : State) (t : Task) : Bool :=
  t.nextGroup == t.launch.groups && (s.laybyOf t).isEmpty
    && (s.slotsOf t).all Slot.quiet
    && t.rendered.passes == t.rendered.total && !(s.passes.any fun p => t.holds p.qid p.seq) && !(s.vis.waiting.any fun w => t.holds w.qid w.seq)
    && (match t.token with | some l => l.finished.isSome | none => true)

/-- TASK_COMPLETE: a started task ends with a status (R113, R271). It ends with 0x00 only when its work is done. -/
def execTaskComplete (queue : Fin 16384) (seq : Word) (status : Byte) (s : State) : Host.Outcome State Fault Refusal :=
  s.live fun s =>
    match s.task queue.val seq with
    | some t =>
      if t.started && statusCodes.contains status.toNat && (status != 0 || s.taskDone t) then s.endTask t status.toNat else s
    | none => s

/-- DEADLINE_ABORT: a task with `dl_abort` that still runs at its deadline is cancelled with 0x14 (R261). -/
def execDeadlineAbort (queue : Fin 16384) (seq : Word) (s : State) : Host.Outcome State Fault Refusal :=
  s.live fun s =>
    match s.task queue.val seq with
    | some t => if t.started && t.entry.dlValid && t.entry.dlAbort then s.endTask t 0x14 else s
    | none => s

/-! ### Token loops (R124–R126) -/

/-- R125: has the result ring of a context room for a record? -/
def State.resultRoom (s : State) (c : Nat) : Bool :=
  s.bit R.SCT_RES_CFG [c] 0
    && decide ((s.rd R.SCT_RES_WR [c] - s.rd R.SCT_RES_ACK [c]).toNat < 2 ^ s.fld R.SCT_RES_CFG [c] 5 1)

/-- A token record (Table 4.6). -/
def tokenRecord (l : TokenLoop) (token : Word) (last : Bool) (reason : Nat) : List Byte :=
  leBytes 4 l.seqId.toNat ++ leBytes 4 l.index ++ leBytes 4 token.toNat ++ leBytes 1 (b2n last + 2 * reason) ++ zeros 3

/-- A record goes to the ring of the task's context; a ring that the context may not write ends the task. -/
def State.putToken (s : State) (t : Task) (l : TokenLoop) (token : Word) (last : Bool) (reason : Nat) : State :=
  let c := t.ctx
  let wr := s.rd R.SCT_RES_WR [c]
  let a := s.rdAddr R.SCT_RES_LO R.SCT_RES_HI [c] + 16 * (wr.toNat % 2 ^ s.fld R.SCT_RES_CFG [c] 5 1)
  match s.writeFor c a (tokenRecord l token last reason) with
  | .denied => s.endTask t 0x13
  | .uncorrectable e => s.endTask t 0x11 (some e)
  | .ok s =>
    let s := s.poke R.SCT_RES_WR [c] (wr + 1)
    let waits := if s.sct.resultWait.any fun e => e.1 == c then s.sct.resultWait else s.sct.resultWait ++ [(c, s.now)]
    let s := s.withSct { s.sct with resultWait := waits }
    let s := match l.stalled with | some since => s.account c 4 (s.now - since) | none => s
    s.putTask { t with token := some { l with
      written := true, stalled := none, finished := if last then some reason else l.finished } }

/-- R125: the ring is full, so the loop stalls. -/
def State.stallToken (s : State) (t : Task) (l : TokenLoop) : State :=
  s.putTask { t with token := some { l with stalled := some (l.stalled.getD s.now) } }

/-- TOKEN_RECORD_WRITE: an iteration emits its token (R125). Its end reason: a stop token goes before a cancel, a cancel
before the others (R126). A maximum of 0 tokens is no limit (DESIGN CHOICE, log 18: the spec does not say). -/
def execTokenRecordWrite (queue : Fin 16384) (seq token : Word) (reason : Fin 6) (s : State) :
    Host.Outcome State Fault Refusal :=
  s.live fun s =>
    match s.task queue.val seq with
    | none => s
    | some t =>
      match t.token with
      | none => s
      | some l =>
        if !t.started || l.written || l.finished.isSome then s
        else if !s.resultRoom t.ctx then s.stallToken t l
        else
          let r := if reason = 1 then 1 else if l.cancel then 3 else if reason = 5 then 5
            else if l.index + 1 = t.launch.maxTokens then 2 else 0
          s.putToken t l token (r != 0) r

/-- R126: a loop that ends where its iteration has no record marked last gets one: with the index after the iteration's token,
if it has produced one. -/
def State.lastToken (s : State) (t : Task) (l : TokenLoop) (reason : Nat) : State :=
  s.putToken t (if l.written then { l with index := l.index + 1 } else l) 0xFFFFFFFF true reason

/-- TOKEN_ITERATION_END: the next iteration may start, or the loop is over. An iteration without a token leaves the record
that ends the loop (R126): after a cancel with reason 3, otherwise 5; so does one that a cancel met after its record. -/
def execTokenIterationEnd (queue : Fin 16384) (seq : Word) (s : State) : Host.Outcome State Fault Refusal :=
  s.live fun s =>
    match s.task queue.val seq with
    | none => s
    | some t =>
      match t.token with
      | none => s
      | some l =>
        if !t.started || l.finished.isSome then s
        else if l.written && !l.cancel then
          s.putTask { t with timerStart := s.now, token := some { l with written := false, index := l.index + 1 } }
        else if !s.resultRoom t.ctx then s.stallToken t l
        else s.lastToken t l (if l.cancel then 3 else 5)

/-- TOKEN_LOOP_CANCEL: SCH_CTXc_CANCEL names a queue of the context, or all (R126). -/
def execTokenLoopCancel (ctx : Fin 64) (value : Word) (s : State) : Host.Outcome State Fault Refusal :=
  s.live fun s =>
    let hit (t : Task) : Bool := t.ctx == ctx.val && (bits value 8 8 == 1 || t.qid % 256 == bits value 7 0)
    let tasks := s.sch.tasks.map fun t =>
      if hit t then { t with token := t.token.map fun l => { l with cancel := true } } else t
    (s.withSch { s.sch with tasks := tasks })

/-- A task with a timeout ends with 0x12 (R113, R124). A token loop leaves its last record, with reason 4; while the ring is
full it waits for room, since no record is dropped (R125, R126), and ends when the timeout is told again or the ring is
acknowledged (log 18). -/
def State.timeoutTask (s : State) (q : Nat) (seq : Word) : State :=
  match s.task q seq with
  | none => s
  | some t =>
    if !t.started || t.launch.timeout = 0 then s
    else
      match t.token with
      | some l =>
        if l.finished.isSome || !s.bit R.SCT_RES_CFG [t.ctx] 0 then s.endTask t 0x12
        else if !s.resultRoom t.ctx then s.stallToken t { l with timedOut := true }
        else
          let s := s.lastToken t l 4
          match s.task q seq with
          | some t => s.endTask t 0x12
          | none => s
      | none => s.endTask t 0x12

/-- Loops of a context whose timeout has expired, and which waited for room in its result ring, end. -/
def State.endTimedOut (s : State) (c : Nat) : State :=
  (s.sch.tasks.filter fun t => t.ctx == c && t.token.any (·.timedOut)).foldl (fun s t => s.timeoutTask t.qid t.entry.seq) s

/-- TASK_TIMEOUT (R113). -/
def execTaskTimeout (queue : Fin 16384) (seq : Word) (s : State) : Host.Outcome State Fault Refusal :=
  s.live fun s => s.timeoutTask queue.val seq

/-! ### Counters and markers of a slot -/

/-- SLOT_COUNTER_READ: a task program reads a slot counter (R381). No command tells which event the program has selected,
so the count is open. -/
def execSlotCounterRead (at_ : SlotName) (counter : Fin 4) (s : State) : Host.Outcome State Fault Refusal :=
  s.live fun s =>
    match s.slotNamed at_ with
    | some x =>
      s.draw.putSlot { x with image := { x.image with counters := vecSet x.image.counters counter.val (s.drawn 32) } }
    | none => s

/-- TRACE_MARKER: a marker of a task program carries its queue, context and core; one of host software none (R388). -/
def execTraceMarker (source : Option SlotName) (value : BitVec 128) (s : State) : Host.Outcome State Fault Refusal :=
  s.live fun s =>
    match source with
    | none => s.trace 9 none 0 (leBytes 16 value.toNat)
    | some n =>
      match s.slotNamed n with
      | some x => s.trace 9 (some (x.qid / 256)) (traceWord x.qid (x.qid / 256) x.core) (leBytes 16 value.toNat)
      | none => s

/-! ### Eviction and restore -/

/-- EVICTION_END (R268, R269). -/
def execEvictionEnd (at_ : SlotName) (error : Option (BitVec 48)) (s : State) : Host.Outcome State Fault Refusal :=
  s.live fun s =>
    match s.slotAt (coreId at_.at_) at_.slot.val with
    | some x =>
      if x.phase == .evicting then
        match error with
        | some a => s.endSlot x 0x11 (some a.toNat)
        | none => s.endEviction x false
      else s
    | none => s

/-- R274: a lent holder in the lay-by is restored evicting if needed: the task in its slot, where it is of lower effective priority
and may be a victim (R267). -/
def State.evictForRestore (s : State) (l : Layby) : State :=
  match s.task l.slot.qid l.slot.seq, s.slotAt l.slot.core l.slot.idx with
  | some t, some x =>
    if s.dispatchOn t.part && decide (t.eff < t.prio) && x.phase == .live && !s.isStatic t.part && !s.ctxResident (x.qid / 256)
        && decide (t.eff < s.effOf x.qid x.seq) && decide (s.evictions t.part < 16) then s.evictOne t x
    else s
  | _, _ => s

/-- RESTORE_START: an evicted slot whose place is free competes as a ready task (R264, R269). -/
def execRestoreStart (at_ : SlotName) (queue : Fin 16384) (seq : Word) (s : State) : Host.Outcome State Fault Refusal :=
  s.live fun s =>
    let c := coreId at_.at_
    let i := at_.slot.val
    let p := s.queuePart queue.val
    match s.sch.layby.find? fun l => l.slot.core == c && l.slot.idx == i && l.slot.qid == queue.val && l.slot.seq == seq
      && !l.parked with
    | none => s
    | some l =>
      let rank := s.restoreRank l
      let rivals := s.sch.tasks.filter fun t => t.part == p && s.competes t && keyLt (s.taskRank t) rank
      if s.dispatchOn p && s.slotFree c i && s.coreUsable c && !s.claimed c i rank
          && !(rivals.any fun t => (s.freeSlotsFor t).contains (c, i)) then s.startRestore l
      else s.evictForRestore l

/-- RESTORE_END (R269). -/
def execRestoreEnd (at_ : SlotName) (error : Option (BitVec 48)) (s : State) : Host.Outcome State Fault Refusal :=
  s.live fun s =>
    match s.slotAt (coreId at_.at_) at_.slot.val with
    | some x =>
      if x.phase == .restoring then
        match error with
        | some a => s.endSlot x 0x11 (some a.toNat)
        | none =>
          match s.sch.layby.find? fun l => l.isOf x with
          | some l => s.endRestore x l
          | none => s
      else s
    | none => s

/-! ### Parking a partition (R270) -/

/-- The slots of a partition that hold live state. -/
def State.partSlots (s : State) (p : Nat) : List Slot := s.sch.slots.filter fun x => s.queuePart x.qid == p

/-- Live slots of a context that need a record each; a slot being evicted or restored has its record already. -/
def State.slotsToSave (s : State) (ctx : Nat) : Nat :=
  (s.sch.slots.filter fun x => x.qid / 256 == ctx && x.phase == .live).length

/-- R270: every context with live slots has a free record for each. -/
def State.parkRecords (s : State) (p : Nat) : Bool :=
  (s.partCtxs p).all fun c => decide (s.laybyUsed c + s.slotsToSave c ≤ s.laybyCapacity c) || s.slotsToSave c == 0

/-- The cluster-memory share of a partition in a cluster: first byte and bytes (CLC_CSHARE). -/
def State.clusterShare (s : State) (p cluster : Nat) : Nat × Nat :=
  let v := s.rd R.CLC_CSHARE [cluster / 8, cluster % 8, p]
  (clusterBase (cluster / 8) (cluster % 8) + 65536 * bits v 7 0, 65536 * bits v 15 8)

/-- R270: the lay-by of the partition's lowest-numbered valid context has room for the cluster-memory shares after the
records. -/
def State.parkShares (s : State) (p : Nat) : Bool :=
  let need := (s.clusters.map fun c => (s.clusterShare p c).2).sum
  match (s.partCtxs p).head? with
  | some c =>
    decide ((s.laybyUsed c + s.slotsToSave c) * s.laybySize p + need ≤ (s.rd R.SCH_CTX_LAYBY_SIZE [c]).toNat * 4096)
  | none => need == 0

/-- A restore that a park finds under way is given up: the record stays, as one of the park's (DESIGN CHOICE, log 16). -/
def State.giveUpRestores (s : State) (p : Nat) : State :=
  let mine := (s.partSlots p).filter fun x => x.phase == .restoring
  s.withSch { s.sch with
    slots := s.sch.slots.filter fun x => !mine.contains x
    layby := s.sch.layby.map fun l => if mine.any l.isOf then { l with parked := true } else l }

/-- PARK: the partition is evicted as a whole, or the park is refused. -/
def execPark (part : Fin 16) (s : State) : Host.Outcome State Fault Refusal :=
  s.live fun s =>
    let p := part.val
    if s.parked p then s
    else
      let s := s.setBit R.SCH_PART_PARK [p] 0 true
      let refuse (cond : Nat) : State :=
        (s.setBit R.SCH_PART_STATUS [p] 2 true).event 0x07 p 0x04 (leBytes 1 cond ++ zeros 15)
      if !s.parkRecords p then refuse 1
      else if !s.parkShares p then refuse 2
      else
        let s := (s.setBit R.SCH_PART_STATUS [p] 2 false).setBit R.SCH_PART_STATUS [p] 1 true
        let models := s.sch.models.map fun m => if m.part == p then { m with resident := false, reloading := false } else m
        let s := (s.withSch { s.sch with stopped := p :: s.sch.stopped, models := models }).giveUpRestores p
        ((s.partSlots p).filter fun x => x.phase != .evicting).foldl (fun s x =>
          match s.slotAt x.core x.idx with | some y => s.startEviction y none | none => s) s

/-- Where a park saves the cluster-memory shares: at the top of the lay-by region of the partition's lowest-numbered valid
context. -/
def State.parkBase (s : State) (p : Nat) : Nat :=
  match (s.partCtxs p).head? with
  | some c =>
    s.rdAddr R.SCH_CTX_LAYBY_LO R.SCH_CTX_LAYBY_HI [c] + (s.rd R.SCH_CTX_LAYBY_SIZE [c]).toNat * 4096
      - (s.clusters.map fun c => (s.clusterShare p c).2).sum
  | none => 0

/-- Copy ranges to one stretch of memory, in order. -/
def State.packRanges (s : State) : Nat → List (Nat × Nat) → State
  | _, [] => s
  | a, r :: rest => (s.copyRange r.1 a r.2).packRanges (a + r.2) rest

/-- Copy one stretch of memory back to the ranges that it was packed from. -/
def State.unpackRanges (s : State) : Nat → List (Nat × Nat) → State
  | _, [] => s
  | a, r :: rest => (s.copyRange a r.1 r.2).unpackRanges (a + r.2) rest

/-- PARK_END: every live slot has gone to its lay-by, and the cluster-memory shares are saved, in cluster order. A park waits for a
move of the rambler to end (R320). -/
def execParkEnd (part : Fin 16) (s : State) : Host.Outcome State Fault Refusal :=
  s.live fun s =>
    let p := part.val
    if !s.bit R.SCH_PART_STATUS [p] 1 || (s.partSlots p).any (fun x => s.ramMoving x.core) then s
    else
      let s := (s.partSlots p).foldl (fun s x => s.endEviction x true) s
      let s := s.packRanges (s.parkBase p) (s.clusters.map (s.clusterShare p))
      let parks := { part := p, base := s.parkBase p } :: s.sch.parks.filter fun k => k.part != p
      (s.withSch { s.sch with parks := parks }).setFld R.SCH_PART_STATUS [p] 1 0 1

/-- The cluster-memory shares that a park saved are back. -/
def State.restoreShares (s : State) (p : Nat) : State :=
  match s.sch.parks.find? fun k => k.part == p with
  | some k => s.unpackRanges k.base (s.clusters.map (s.clusterShare p))
  | none => s

/-- A slot that a park evicted is back. -/
def State.restoreParked (s : State) (l : Layby) : State :=
  let s := s.startRestore l
  match s.slotAt l.slot.core l.slot.idx with
  | some x => s.endRestore x l
  | none => s

/-- R270: everything that a park saved is back, and pinned models are reloaded. -/
def State.unparkAll (s : State) (p : Nat) : State :=
  let s := s.restoreShares p
  let s := (s.sch.layby.filter fun l => l.parked && s.ctxPart l.ctx == p).foldl State.restoreParked s
  let models := s.sch.models.map fun m => if m.part == p && m.pinned && m.loading.isNone then { m with reloading := true } else m
  (s.withSch { s.sch with
    models := models
    parks := s.sch.parks.filter fun k => k.part != p
    stopped := s.sch.stopped.filter (· != p) })

/-- UNPARK: shares and slots are restored, pinned models are reloaded, and dispatch resumes. While a park runs the write
has no effect. -/
def execUnpark (part : Fin 16) (s : State) : Host.Outcome State Fault Refusal :=
  s.live fun s =>
    let p := part.val
    if s.bit R.SCH_PART_STATUS [p] 1 then s
    else
      let s := s.setBit R.SCH_PART_PARK [p] 0 false
      if s.bit R.SCH_PART_STATUS [p] 0 then (s.setBit R.SCH_PART_STATUS [p] 0 false).unparkAll p else s

/-! ### Restart -/

/-- CTX_RESTART: a torn-down context is ready again, with every queue disabled (R272). -/
def execCtxRestart (ctx : Fin 64) (s : State) : Host.Outcome State Fault Refusal :=
  s.live fun s =>
    let c := ctx.val
    if s.ctxDown c then
      let s := ((s.sch.queues.map (·.ident)).filter fun q => q / 256 == c).foldl State.dropQueue s
      s.setBit R.SCH_CTX_STATUS [c] 0 false
    else s

/-! ### Semaphores -/

/-- SEM_ACQUIRE: units are granted, or the slot blocks and lends its priority; a semaphore of another partition ends the task
(R273, R274). -/
def execSemAcquire (at_ : SlotName) (sem : Fin 4096) (units : BitVec 16) (s : State) : Host.Outcome State Fault Refusal :=
  s.live fun s =>
    let k := sem.val
    match s.slotNamed at_ with
    | none => s
    | some x =>
      match s.slotTask x with
      | none => s
      | some t =>
        if x.wait.isSome then s
        else if !s.bit R.SCH_SEM_CFG [k] 4 || s.fld R.SCH_SEM_CFG [k] 3 0 != t.part then s.endTask t 0x13
        else
          let old := s.lends
          if s.semGrants k t.ctx units.toNat then (s.semTake k t.qid t.entry.seq units.toNat).relend old
          else
            let w : SemWait :=
              { qid := t.qid, seq := t.entry.seq, core := x.core, idx := x.idx, units := units.toNat, since := s.now }
            let m := s.sem k
            ((s.putSlot { x with wait := some (.sem k, s.now) }).putSem { m with waiters := m.waiters ++ [w] }).relend old

/-- Take units back from holders: the task's own first, then those of the context's other tasks. -/
def takeUnits (q : Nat) (seq : Word) (n : Nat) (hs : List SemHold) : List SemHold :=
  let own := match hs.find? fun h => h.qid == q && h.seq == seq with | some h => h.units | none => 0
  let hs := hs.map fun h => if h.qid == q && h.seq == seq then { h with units := h.units - n } else h
  let rest := hs.foldl (fun (acc : Nat × List SemHold) h =>
    (acc.1 - h.units, acc.2 ++ [{ h with units := h.units - acc.1 }])) (n - own, [])
  rest.2.filter fun h => h.units != 0

/-- SEM_RELEASE: more units than the context holds end the task with 0x10 (R273). -/
def execSemRelease (at_ : SlotName) (sem : Fin 4096) (units : BitVec 16) (s : State) : Host.Outcome State Fault Refusal :=
  s.live fun s =>
    let k := sem.val
    let n := units.toNat
    match s.slotNamed at_ with
    | none => s
    | some x =>
      match s.slotTask x with
      | none => s
      | some t =>
        if !s.bit R.SCH_SEM_CFG [k] 4 || s.fld R.SCH_SEM_CFG [k] 3 0 != t.part then s.endTask t 0x13
        else if s.semOwner k ≠ some t.ctx ∨ s.semHeld k < n then (if n = 0 then s else s.endTask t 0x10)
        else
          let old := s.lends
          let m := s.sem k
          let s := s.putSem { m with holders := takeUnits t.qid t.entry.seq n m.holders }
          ((s.setHeld k (s.semHeld k - n) t.ctx).semGrant k).relend old

/-- SEM_ACQUIRE_TIMEOUT: a blocked acquire returns failure to its task program (R273): of the slot's own task, or else of the
one that has longest been blocked of those evicted from the slot. -/
def execSemAcquireTimeout (at_ : SlotName) (sem : Fin 4096) (s : State) : Host.Outcome State Fault Refusal :=
  s.live fun s =>
    let c := coreId at_.at_
    let i := at_.slot.val
    let here := (s.sem sem.val).waiters.filter fun w => w.core == c && w.idx == i
    let live := here.find? fun w => s.sch.slots.any w.isOf
    match live.or here.head? with
    | none => s
    | some w =>
      let old := s.lends
      let s := s.endAcquire sem.val w
      let s := s.withSch { s.sch with lastAcquire := some (w.qid, w.seq, .failed) }
      ((s.semGrant sem.val).relend old).wakeCore c

/-- SEM_FORCE_REL: held becomes 0 and `abandoned` is set (R275). -/
def execSemForceRel (sem : Fin 4096) (s : State) : Host.Outcome State Fault Refusal :=
  s.live fun s => (s.semAbandon sem.val).relend s.lends

/-- SEM_CLR_ABANDONED (R275). -/
def execSemClrAbandoned (sem : Fin 4096) (s : State) : Host.Outcome State Fault Refusal :=
  s.live fun s => s.setBit R.SCH_SEM_STATE [sem.val] 23 false

end Sys2Proof.Machine
end

