-- ==== Sys2Proof/Machine/Rambler.lean ====
section
/-! DEFINITION. The rambler: cores tested one at a time in service (R314–R320). -/

namespace Sys2Proof.Machine

/-! ### The target and its cycle (R314) -/

/-- Change what the rambler holds beside its registers. -/
def State.setRam (s : State) (r : Rambler) : State := s.withBrg { s.brg with rambler := r }

/-- Give the rambler a state. -/
def State.ramTo (s : State) (v : Nat) : State := s.setFld R.BRG_RAM_STATUS [] 2 0 v

/-- The die, cluster and physical slot of the target. -/
def State.ramTarget (s : State) : Nat × Nat × Nat :=
  (s.fld R.BRG_RAM_STATUS [] 16 16, s.fld R.BRG_RAM_STATUS [] 15 13, s.fld R.BRG_RAM_STATUS [] 12 8)

/-- A rambler event, if `evt_en` is 1; the spec gives it no code. -/
def State.ramEvent (s : State) : State := if s.bit R.BRG_RAM_CTRL [] 1 then s.eventOpen 0x01 0 [] else s

/-- A report entry about the target, with cause 9. -/
def State.ramReport (s : State) (action : Nat) : State :=
  let (d, k, j) := s.ramTarget
  s.report 1 (locOf [d, k, j]) 9 action

/-- May a physical slot be tested: its die is there, its cluster is not withdrawn, and it has not failed? -/
def State.ramEligible (s : State) (d k j : Nat) : Bool :=
  decide (d < s.dev.assembly.computeDies) && !s.clusterAbsent d k && !s.siteFailed d k j

/-- A place of the cycle: for slot 0 to 16, for die C0 then C1, for cluster 0 to 7. -/
def cyclePlace (n : Nat) : Nat × Nat × Nat := (n / 8 % 2, n % 8, n / 16)

/-- The next place of the cycle that may be tested. -/
def State.nextPlace (s : State) : Option Nat :=
  ((rangeFrom s.brg.rambler.cursor 272).map (· % 272)).find? fun n =>
    let (d, k, j) := cyclePlace n
    s.ramEligible d k j

/-- A test starts at a physical slot. Slot 16 is tested in place while it serves no logical core. -/
def State.ramStart (s : State) (d k j : Nat) : State :=
  let c := (s.logicalAt d k j).map fun c => 128 * d + 16 * k + c
  let r := s.brg.rambler
  let s := s.setRam { r with started := some s.now, waitFrom := s.now, logical := c, donor := none, owed := none }
  s.poke R.BRG_RAM_STATUS [] (BitVec.ofNat 32 ((if c.isSome then 1 else 3) + 256 * j + 8192 * k + 65536 * d))

/-- RAMBLER_TEST_DUE (R314): a requested slot comes before the cycle, which then goes on where it was. While a donor serves a
failed target (R319) no test starts. -/
def execRamblerTestDue (s : State) : Host.Outcome State Fault Refusal :=
  s.live fun s =>
    let r := s.brg.rambler
    if !s.bit R.BRG_RAM_CTRL [] 0 || !s.bit R.BRG_READY [] 20 || s.ramState ≠ 0 || !r.serving.isEmpty then s
    else
      let asked := match r.request with
        | some q => if s.ramEligible (q / 136) (q / 17 % 8) (q % 17) then some (q / 136, q / 17 % 8, q % 17) else none
        | none => none
      match asked with
      | some (d, k, j) => (s.setRam { r with request := none }).ramStart d k j
      | none =>
        match s.nextPlace with
        | some n =>
          let (d, k, j) := cyclePlace n
          (s.setRam { r with request := none, cursor := (n + 1) % 272 }).ramStart d k j
        | none => s

/-- RAMBLER_REQ (R314): a request that names the current target, a failed slot or an absent die is ignored. -/
def execRamblerReq (value : Word) (s : State) : Host.Outcome State Fault Refusal :=
  s.awake fun s =>
    let j := bits value 4 0
    let k := bits value 7 5
    let d := bits value 8 8
    if bits value 31 31 = 0 ∨ 16 < j ∨ !s.ramEligible d k j ∨ (s.ramState ≠ 0 ∧ s.ramTarget = (d, k, j)) then s
    else s.setRam { s.brg.rambler with request := some (siteOf d k j) }

/-! ### Slack (R316) -/

/-- The slots of a core that hold live task state. -/
def State.coreSlots (s : State) (core : Nat) : List Slot := s.sch.slots.filter fun x => x.core == core

/-- The limit of a task with a deadline: F for a slice task, else its deadline; ns. -/
def State.taskLimit (s : State) (t : Task) : Nat :=
  match s.sliceTag t with
  | some (_, _, o) => t.entry.deadline - s.fld R.SYN_MARGIN [o] 17 0
  | none => t.entry.deadline

/-- t_move of the live slots of a core, ns (R315). -/
def State.moveTime (s : State) (core : Nat) : Nat :=
  2000 + ceilDiv ((s.coreSlots core).map fun x => (s.share core x.idx).recordSize).sum 64

/-- Do the slack conditions hold for a core? -/
def State.slackOn (s : State) (core tMove : Nat) : Bool :=
  (s.coreSlots core).all fun x =>
    match s.slotTask x with
    | none => true
    | some t =>
      t.eff != 0 && !s.isStatic t.part
        && (!t.entry.dlValid || decide (s.now + tMove + 1000 * s.fld R.BRG_RAM_GUARD [] 15 0 ≤ s.taskLimit t))

/-! ### Stand-ins (R315, R318) -/

/-- Is a core a donor? -/
def State.isDonor (s : State) (core : Nat) : Bool :=
  let live := s.coreSlots core
  ((rangeFrom 0 4).all fun i => !(s.share core i).valid || s.bit R.BRG_RAM_BORROW [] (s.share core i).part)
    && live.all (fun x => x.phase == .live &&
      match s.slotTask x with
      | some t => !s.ctxResident t.ctx && decide (2 ≤ t.eff)
      | none => false)
    && live.all fun x => decide (s.laybyUsed (x.qid / 256) + (live.filter fun y => y.qid / 256 == x.qid / 256).length
      ≤ s.laybyCapacity (x.qid / 256))

/-- The donor for a target core of a cluster: working cores in descending logical order. -/
def State.findDonor (s : State) (core : Nat) : Option Nat :=
  let base := core / 16 * 16
  (((rangeFrom 0 16).reverse.map (base + ·)).filter fun c =>
    c != core && !s.coreAbsent c && !s.brg.failed.contains (s.siteAt c)).find? s.isDonor

/-- The stand-in for a target core: the spare where it is free, else a donor. -/
def State.standIn (s : State) (core : Nat) : Option (Option Nat) :=
  if s.spareFree (core / 128) (core / 16 % 8) then some none else (s.findDonor core).map some

/-- The slots of a core are switched out for a move. -/
def State.pauseCore (s : State) (core : Nat) : State := s.coreIdle core

/-- A move to a stand-in begins. -/
def State.moveBegin (s : State) (core : Nat) (donor : Option Nat) : State :=
  let d := core / 128
  let k := core / 16 % 8
  let j := match donor with | some c => s.physOf c | none => 16
  let s := s.setRam { s.brg.rambler with donor := donor, saved := s.slotRegs d k j }
  let s := match donor with
    | some c => ((s.coreSlots c).foldl (fun (s : State) x => s.startEviction x none) s).coreIdle c
    | none => s
  (((s.pauseCore core).setFld R.BRG_RAM_STATUS [] 22 18 j).setBit R.BRG_RAM_STATUS [] 17 donor.isSome).ramTo 2

/-- RAMBLER_SLACK_CHECK (R316): a move, or a return, starts at an instant with slack. -/
def execRamblerSlackCheck (s : State) : Host.Outcome State Fault Refusal :=
  s.live fun s =>
    match s.brg.rambler.logical with
    | none => s
    | some core =>
      if s.ramState = 1 then
        match s.standIn core with
        | none => s
        | some donor =>
          let tMove := s.moveTime core
          if s.slackOn core tMove && (match donor with | some c => s.slackOn c tMove | none => true) then
            s.moveBegin core donor
          else s
      else if s.ramState = 4 then
        if s.slackOn core (s.moveTime core) then (s.pauseCore core).ramTo 5 else s
      else s

/-- Tasks that have been moved carry the pre-empted bit. -/
def State.markMoved (s : State) (core : Nat) : State :=
  (s.coreSlots core).foldl (fun s x =>
    match s.slotTask x with
    | some t => s.putTask { t with preempted := true }
    | none => s) s

/-- R360: the spare takes the ID of a logical core whose physical slot `j` has failed in service, or, where it serves an
earlier failure, the logical core is marked absent; a report entry says which. -/
def State.serveFailed (s : State) (core j : Nat) : State :=
  let d := core / 128
  let k := core / 16 % 8
  if s.spareFree d k then (s.moveCore core 16).report 1 (locOf [d, k, j]) 10 1
  else (s.absentCore core).report 1 (locOf [d, k, j]) 10 2

/-- R320: the return is over; a core that failed meanwhile is served by the spare. -/
def State.serveOwed (s : State) (owed : Option Nat) : State :=
  match owed with
  | some c => s.serveFailed c (s.physOf c)
  | none => s

/-- RAMBLER_MOVE_END (R315): the live slots are on the stand-in, or back. A donor's slots must have gone to their lay-bys. -/
def execRamblerMoveEnd (s : State) : Host.Outcome State Fault Refusal :=
  s.live fun s =>
    let r := s.brg.rambler
    match r.logical with
    | none => s
    | some core =>
      let d := core / 128
      let k := core / 16 % 8
      let standIn := s.fld R.BRG_RAM_STATUS [] 22 18
      if s.ramState = 2 then
        if (match r.donor with | some c => !(s.coreSlots c).isEmpty | none => false) then s
        else (((s.markMoved core).moveCore core standIn).ramTo (if r.owed.isSome then 4 else 3)).wakeCore core
      else if s.ramState = 5 then
        let s := (s.markMoved core).remapCore core s.ramTarget.2.2
        let s := s.putSlotRegs d k standIn r.saved
        let s := s.setRam { s.brg.rambler with logical := none, donor := none, saved := [], owed := none }
        let s := ((s.setBit R.BRG_RAM_STATUS [] 17 false).ramTo 0).serveOwed r.owed
        match r.donor with
        | some c => (s.wakeCore core).wakeCore c
        | none => s.wakeCore core
      else s

/-- RAMBLER_TEST_END (R315, R319): the target returns to service, or the stand-in keeps its logical ID. -/
def execRamblerTestEnd (pass repaired : Bool) (s : State) : Host.Outcome State Fault Refusal :=
  s.live fun s =>
    if s.ramState ≠ 3 then s
    else
      let r := s.brg.rambler
      let (d, k, j) := s.ramTarget
      let s := (s.count R.BRG_RAM_CNT_TESTS [] 1).clearSite (siteOf d k j)
      if pass then
        let s := if repaired then s.ramReport 0 else s
        match r.logical with
        | some _ => (s.setRam { s.brg.rambler with waitFrom := s.now }).ramTo 4
        | none => s.ramTo 0
      else
        let s := (s.failSite d k j).countSat R.BRG_RAM_CNT_FAIL [] 1 R.BRG_RAM_CNT_OVF [] 1
        match r.logical, r.donor with
        | some core, some _ =>
          let moved := (s.coreSlots core).map fun x => (x.qid, x.seq)
          let s := (s.setRam { s.brg.rambler with serving := moved }).ramTo 0
          ((s.ramReport 2).ramEvent).donorResume
        | some _, none =>
          (((s.setRam { s.brg.rambler with logical := none, saved := [] }).ramTo 0).ramReport 1).ramEvent
        | none, _ => ((s.ramTo 0).ramReport 2).ramEvent

/-- RAMBLER_WAIT_EXPIRY (R317): the test is deferred; a return goes on waiting. -/
def execRamblerWaitExpiry (s : State) : Host.Outcome State Fault Refusal :=
  s.live fun s =>
    if s.ramState = 1 then
      let s := (s.setRam { s.brg.rambler with logical := none }).ramTo 0
      ((s.countSat R.BRG_RAM_CNT_DEFER [] 1 R.BRG_RAM_CNT_OVF [] 0).ramReport 5).ramEvent
    else s

end Sys2Proof.Machine
end

