-- ==== Sys2Proof/Machine/Stop.lean ====
section
/-! DEFINITION. Self-refresh of the stacks (R417), and what enters the global stop (R389). -/

namespace Sys2Proof.Machine

/-! ### Self-refresh -/

/-- Is a stack in self-refresh, and since when? -/
def State.srSince (s : State) (st : Nat) : Option Nat := vecGet s.pwr.refresh st none

/-- A stack enters self-refresh. -/
def State.srEnter (s : State) (st : Nat) : State :=
  if (s.srSince st).isSome then s
  else (s.withPwr { s.pwr with refresh := vecSet s.pwr.refresh st (some s.now) }).count R.PWR_SR_ENTRIES [st] 1

/-- A stack leaves self-refresh: the time in it is counted. -/
def State.srExit (s : State) (st : Nat) : State :=
  match s.srSince st with
  | some t =>
    (s.withPwr { s.pwr with refresh := vecSet s.pwr.refresh st none }).count R.PWR_SR_TIME [st] ((s.now - t) / 1000)
  | none => s

/-! ### The global stop -/

/-- R389: the global stop acts only with the service scope granted and POLICY [1] = 1. -/
def State.stopAllowed (s : State) : Bool := s.bit R.DBG_UNLOCK [] 2 && s.bit R.DBG_POLICY [] 1

/-- R389: a trigger: 1 write, 2 breakpoint, 3 error. The stacks enter self-refresh. -/
def State.globalStop (s : State) (cause : Nat) : State :=
  if !s.stopAllowed || s.stopped then s
  else
    let s := s.poke R.DBG_STOP_STATUS [] (BitVec.ofNat 32 (1 + 2 * cause))
    let s := s.withDbg { s.dbg with stoppedAt := s.now }
    let s := (rangeFrom 0 s.dev.assembly.stacks).foldl State.srEnter s
    s.event 0x0E 0 0x02 (leBytes 1 cause)

/-- R389: an error of class 2 or 3 stops the device while `stop_on_err` = 1. -/
def State.errorStop (s : State) : State := if s.bit R.DBG_STOP_CFG [] 0 then s.globalStop 3 else s

end Sys2Proof.Machine
end

