-- ==== Sys2Proof/Machine/Errors.lean ====
section
/-! DEFINITION. Errors and recovery: detection and retry (R356–R359, R431), failures in service (R360, R361), partition reset
(R370–R372), the fatal state and device reset (R373, R374). -/

namespace Sys2Proof.Machine

/-! ### The fatal state (R373) -/

/-- The enabled queues that a test selects, in queue order. -/
def State.queuesWhere (s : State) (f : Nat → Bool) : List Nat :=
  sortBy (fun q => [q]) ((s.sch.queues.map (·.ident)).filter f)

/-- R373: a class 3 error. Every started or rung entry posts 0x21, in queue order. In the fatal state a further error is
counted and recorded. -/
def State.goFatal (s : State) (code unit : Nat) (loc : Option Nat) : State :=
  let was := s.fatal
  let s := s.raise { cls := 3, code := code, unit := unit, status := 0x21, loc := loc }
  if was then s.errorStop
  else
    let s := (s.queuesWhere fun _ => true).foldl (fun s q =>
      ((s.startedOf q).foldl (fun s t => s.finishTask t 0x21) s).completeRung q 0x21) s
    let tmo := s.fld R.ERR_FATAL_TMO [] 15 0
    let s := s.withErr { s.err with fatalAt := some (s.now, tmo), fatalCode := code, fatalUnit := unit }
    (s.setBit R.ERR_STATUS [] 0 true).errorStop

/-- The codes of class 3 (Table 16.4). -/
def fatalCodes : List Nat := [0x08, 0x0A, 0x12, 0x13, 0x14]

/-- FATAL_STATE_ENTRY (R373). -/
def execFatalStateEntry (code : Fin 21) (unit : BitVec 16) (loc : Option (BitVec 64)) (s : State) :
    Host.Outcome State Fault Refusal :=
  s.live fun s => if fatalCodes.contains code.val then s.goFatal code.val unit.toNat (loc.map (·.toNat)) else s

/-- R374: has the automatic reset's time come: the time-out that was read at entry has passed, and `auto_rst` is 1? -/
def State.autoReset (s : State) : State :=
  match s.err.fatalAt with
  | some (t, tmo) =>
    if s.fatal && s.bit R.ERR_CTRL [] 2 && decide (t + tmo * 1000000 ≤ s.now) then
      s.withDev { s.dev with resetAsked := some 3 }
    else s
  | none => s

/-- FATAL_TIMEOUT (R374). -/
def execFatalTimeout (s : State) : Host.Outcome State Fault Refusal := s.mayReset fun s => s.autoReset

/-- R374: a write of ERR_DEVRST. -/
def State.devReset (s : State) (value : Word) : State :=
  if bits value 31 16 = 0xD5E7 ∧ bits value 0 0 = 1 then s.withDev { s.dev with resetAsked := some 2 } else s

/-- DEVICE_RESET_REQUEST (R374). -/
def execDeviceResetRequest (value : Word) (s : State) : Host.Outcome State Fault Refusal :=
  s.mayReset fun s => s.devReset value

/-- ERROR_RING_SET (R363): a ring whose conditions hold becomes set, and the records held go to it. -/
def execErrorRingSet (s : State) : Host.Outcome State Fault Refusal := s.awake fun s => s.updateErrRing

/-! ### Partition reset (R370–R372) -/

/-- R370, steps 1 and 2: dispatch stops; every started task, chain and capture stream of the partition ends. -/
def State.endPartition (s : State) (p : Nat) : State :=
  let mine := s.sch.tasks.filter fun t => t.part == p && t.started
  let s := mine.foldl (fun s t => s.finishTask t 0x20) s
  let s := mine.foldl (fun s t => t.stepBefore.foldl (fun s e => s.write e.1 e.2) s) s
  let s := s.endLoads (fun m => m.part == p) 0x20
  let s := s.withSch { s.sch with transfers := s.sch.transfers.filter fun h => h.part != p }
  let s := ((rangeFrom 0 16).filter fun n => s.bit R.CAP_V_ROUTE [n] 18 && s.ctxPart (s.vidCtx n) == p).foldl State.captureStop s
  let s := s.endChains (fun c => s.ctxPart c.ctx == p) 0x20
  let auds := (rangeFrom 0 8).filter fun a => s.bit R.CAP_A_ROUTE [a] 17 && s.ctxPart (s.fld R.CAP_A_ROUTE [a] 16 11) == p
  let s := auds.foldl (fun s a => s.setAud a { s.aud a with gap := true }) s
  ((rangeFrom 0 4).filter fun o => s.bit R.SYN_QUEUE [o] 15 && s.ctxPart (s.synCtx o) == p).foldl State.synPartReset s

/-- R370: a partition reset starts: cause 0 is a write of ERR_PRST, 1 a class 2 error with a code of Table 16.4. One that runs
already goes on. -/
def State.partReset (s : State) (p cause code unit : Nat) : State :=
  if s.partResetting p && cause == 0 then s
  else
    let s := s.raise { cls := 2, code := code, unit := unit, status := 0x20, part := some p }
    let s :=
      if s.partResetting p then s
      else
        let note := (p, cause, if cause = 0 then 0 else code)
        let s := s.withErr { s.err with resets := s.err.resets ++ [note] }
        (s.setBit R.ERR_PRST_STATUS [] p true).endPartition p
    s.errorStop

/-- PARTITION_RESET (R370). -/
def execPartitionReset (part : Fin 16) (code : Option (Fin 21)) (s : State) : Host.Outcome State Fault Refusal :=
  s.live fun s =>
    if s.fatal then s
    else
      match code with
      | none => s.partReset part.val 0 0x10 (hubUnit 0x00500000)
      | some c => if c.val = 0x0C ∨ c.val = 0x11 then s.partReset part.val 1 c.val (hubUnit 0x00080000) else s

/-- R370, step 4: the partition's slot state and its core-memory, cluster-memory and cool box shares are cleared, and its lay-by records and park state are discarded. -/
def State.clearPartition (s : State) (p : Nat) : State :=
  let slots := ((rangeFrom 0 (128 * s.dev.assembly.computeDies)).map fun c =>
    ((rangeFrom 0 4).filter fun i => (s.share c i).valid && (s.share c i).part == p).map fun i => (c, i)).flatten
  let sites := slots.map fun x => (s.siteAt x.1, x.2)
  let s := slots.foldl (fun s x => let (a, n) := s.coreShare x.1 x.2; s.wipe a n) s
  let s := s.clusters.foldl (fun s c => [s.clusterShare p c, s.boxShare p c].foldl (fun s a => s.wipe a.1 a.2) s) s
  let models := s.sch.models.map fun m => if m.part == p then { m with resident := false, reloading := false } else m
  let s := s.withSch { s.sch with
    rest := s.sch.rest.filter fun e => !sites.contains (e.1, e.2.1)
    code := s.sch.code.filter fun e => !sites.contains (e.site, e.idx)
    models := models
    layby := s.sch.layby.filter fun l => s.ctxPart l.ctx != p
    parks := s.sch.parks.filter fun k => k.part != p
    stopped := s.sch.stopped.filter (· != p) }
  (s.setFld R.SCH_PART_STATUS [p] 1 0 0).setBit R.SCH_PART_PARK [p] 0 false

/-- PARTITION_RESET_END (R370, steps 3 to 6). -/
def execPartitionResetEnd (part : Fin 16) (s : State) : Host.Outcome State Fault Refusal :=
  s.live fun s =>
    let p := part.val
    if !s.partResetting p then s
    else
      let s := (s.queuesWhere fun q => s.queuePart q == p).foldl (fun s q => (s.completeRung q 0x20).dropQueue q) s
      let s := s.clearPartition p
      let held := (rangeFrom 0 4096).filter fun k => match s.semOwner k with | some c => s.ctxPart c == p | none => false
      let s := held.foldl State.semAbandon s
      let s := (s.partCtxs p).foldl (fun s c => s.setBit R.SCH_CTX_STATUS [c] 0 false) s
      let info := (s.err.resets.find? fun e => e.1 == p).getD (p, 0, 0)
      let s := s.withErr { s.err with resets := s.err.resets.filter fun e => e.1 != p }
      (s.setBit R.ERR_PRST_STATUS [] p false).event 0x07 p 0x03 (leBytes 1 info.2.1 ++ leBytes 1 info.2.2 ++ zeros 14)

/-! ### Memory errors (R356, R357, R359, R431) -/

/-- CORRECTED_ERROR (R356): corrected in place, counted, and recorded as R365 says. -/
def execCorrectedError (kind : CorrectedKind) (unit : BitVec 16) (loc : Option (BitVec 48)) (s : State) :
    Host.Outcome State Fault Refusal :=
  s.live fun s =>
    let tell (s : State) (code : Nat) : State :=
      s.raise { cls := 0, code := code, unit := unit.toNat, loc := loc.map (·.toNat) }
    let stack (s : State) (st : Nat) : State := s.countSat R.ERR_CNT_DRAMCE [st] 1 R.ERR_CNT_OVF [] (5 + st)
    let onChip (s : State) : State := s.countSat R.ERR_CNT_SCRCE [] 1 R.ERR_CNT_OVF [] 17
    match kind with
    | .dramEcc st => tell (stack s st.val) 0x01
    | .linkEcc st => tell (stack s st.val) 0x02
    | .scratchpad => tell (onChip s) 0x04
    | .coreMemory d k j =>
      tell ((onChip s).countSat R.CORE_CNT_MEMCE [d.val, k.val, j.val] 1 R.CORE_CNT_OVF [d.val, k.val, j.val] 1) 0x04

/-- An uncorrectable error that ends no task: a record of class 0. -/
def State.errNoTask (s : State) (code unit status : Nat) (ctx : Option Nat) (loc : Option Nat) : State :=
  s.raise { cls := 0, code := code, unit := unit, status := status, ctx := ctx, part := ctx.map s.ctxPart, loc := loc }

/-- What an uncorrectable error at an address does to its reader (Table 16.2): a task ends with 0x11, a chain's stage ends its
chain with 0x11 (Table 8.2), and an SCT item fails when it meets the word (R328). -/
def State.readerEnds (s : State) (reader : Reader) (a : Nat) : State :=
  let code := s.codeOf a
  let unit := s.unitOf a
  match reader with
  | .task q seq =>
    match s.task q.val seq with
    | some t => if t.started then s.endTask t 0x11 (some a) else s.errNoTask code unit 0 none (some a)
    | none => s.errNoTask code unit 0 none (some a)
  | .sct => s.errNoTask code unit 0x11 none (some a)
  | .engine e =>
    match s.running e.val with
    | some (c, _) => (s.errNoTask code unit 0x11 (some c.ctx) (some a)).failChain c 0x11
    | none => s.errNoTask code unit 0 none (some a)
  | _ => s.errNoTask code unit 0 none (some a)

/-- DRAM_UNCORRECTABLE (R357): the block is poisoned, and its reader ends. -/
def execDramUncorrectable (addr : BitVec 48) (reader : Reader) (s : State) : Host.Outcome State Fault Refusal :=
  s.live fun s =>
    let a := protBase s.dev.assembly addr.toNat
    if placeOf s.dev.assembly a = .dram then (s.poison a).readerEnds reader a else s

/-- The slot whose core-memory share holds an address. -/
def State.shareOwner (s : State) (core a : Nat) : Option Slot :=
  s.sch.slots.find? fun x =>
    x.core == core && (let (b, n) := s.coreShare core x.idx; decide (b ≤ a) && decide (a < b + n))

/-- Is an address of cluster memory in some partition's share of a kind? -/
def inShare (share : Nat → Nat → Nat × Nat) (cluster a : Nat) : Bool :=
  (rangeFrom 0 16).any fun p => let (b, n) := share p cluster; decide (b ≤ a) && decide (a < b + n)

/-- R361: a cluster is withdrawn in service; every partition that holds a slot in it is reset. -/
def State.withdrawInService (s : State) (d k : Nat) : State :=
  if s.clusterAbsent d k then s
  else
    let parts := (rangeFrom 0 16).filter fun p =>
      (rangeFrom (128 * d + 16 * k) 16).any fun c =>
        !s.coreAbsent c && (rangeFrom 0 4).any fun i => (s.share c i).valid && (s.share c i).part == p
    let unit := computeUnit d k 17
    let s := s.setBit R.BRG_CLU_ABSENT [] (8 * d + k) true
    if parts.isEmpty then (s.raise { cls := 2, code := 0x0C, unit := unit }).errorStop
    else parts.foldl (fun s p => s.partReset p 1 0x0C unit) s

/-- CLUSTER_WITHDRAW (R361). -/
def execClusterWithdraw (die : Fin 2) (cluster : Fin 8) (s : State) : Host.Outcome State Fault Refusal :=
  s.live fun s => if die.val < s.dev.assembly.computeDies then s.withdrawInService die.val cluster.val else s

/-! ### Failure of a core in service (R360) -/

/-- The logical cores that a physical slot serves. -/
def State.logicalsAt (s : State) (d k j : Nat) : List Nat :=
  (rangeFrom (128 * d + 16 * k) 16).filter fun c => !s.coreAbsent c && s.physOf c == j

/-- The live slots' tasks of a failed core post 0x3F; each of their contexts is torn down with one record. -/
def State.failTasks (s : State) (cores : List Nat) (unit : Nat) : State :=
  let gone := s.sch.tasks.filter fun t => t.started && (s.slotsOf t).any fun x => cores.contains x.core
  let s := gone.foldl (fun s t => s.finishTask t 0x3F) s
  let ctxs := (gone.map (·.ctx)).eraseDups
  if gone.isEmpty then s.raise { cls := 0, code := 0x0B, unit := unit }
  else
    ctxs.foldl (fun s c =>
      let first := gone.find? fun t => t.ctx == c
      let s := s.raise { cls := 1, code := 0x0B, unit := unit, status := 0x3F, ctx := some c, part := some (s.ctxPart c) }
      match first with
      | some t => s.teardown c 0x3F t.qid t.entry.seq
      | none => s) s

/-- The rambler's part in a failure: the target, its stand-in, or another core of a cluster whose spare stands in. -/
def State.serveFailure (s : State) (d k j : Nat) (cores : List Nat) : State :=
  let r := s.brg.rambler
  let state := s.ramState
  let target := s.ramTarget
  let spareStands := state != 0 && r.logical.isSome && r.donor.isNone && 1 < state && target.1 == d && target.2.1 == k
  let idle (s : State) : State := (s.setRam { s.brg.rambler with logical := none, saved := [] }).ramTo 0
  match r.logical with
  | some core =>
    if state ≠ 0 ∧ target = (d, k, j) then
      -- the target itself: a spare that stands in keeps the ID, a donor serves on as after a failed test
      match r.donor with
      | some _ =>
        if 1 < state then
          let moved := (s.coreSlots core).map fun x => (x.qid, x.seq)
          (((s.setRam { s.brg.rambler with serving := moved }).ramTo 0).report 1 (locOf [d, k, j]) 10 2).donorResume
        else (idle s).serveFailed core j
      | none =>
        if 1 < state then ((if state = 2 then s.moveCore core 16 else s) |> idle).report 1 (locOf [d, k, j]) 10 1
        else (idle s).serveFailed core j
    else if spareStands && j == 16 then
      -- the stand-in: the target's own slot serves its core again
      (idle (s.remapCore core target.2.2)).report 1 (locOf [d, k, j]) 10 4
    else if spareStands && !cores.isEmpty then
      -- another core: the test ends, and the return waits for slack
      let s := s.setRam { s.brg.rambler with owed := cores.head?, waitFrom := s.now }
      if state = 3 then s.ramTo 4 else s
    else if r.donor.isSome && 1 < state && cores.contains core then
      -- the donor's slot: the target's own slot serves its core again, and the spare or nothing serves the donor
      let s := s.remapCore core target.2.2
      let s := ((s.setBit R.BRG_RAM_STATUS [] 17 false).setRam { s.brg.rambler with logical := none, donor := none, saved := [] }).ramTo 0
      (cores.filter (· != core)).foldl (fun s c => s.serveFailed c j) s
    else cores.foldl (fun s c => s.serveFailed c j) s
  | none => cores.foldl (fun s c => s.serveFailed c j) s

/-- R360: a physical core fails in service. -/
def State.coreFails (s : State) (d k j : Nat) : State :=
  if s.siteFailed d k j || s.clusterAbsent d k || decide (s.dev.assembly.computeDies ≤ d) then s
  else
    let cores := s.logicalsAt d k j
    let s := (s.failSite d k j).failTasks cores (computeUnit d k j)
    if cores.isEmpty && s.ramTarget != (d, k, j) then s.report 1 (locOf [d, k, j]) 10 2
    else s.serveFailure d k j cores

/-- CORE_FAIL_IN_SERVICE (R360). -/
def execCoreFailInService (die : Fin 2) (cluster : Fin 8) (slot : Fin 17) (s : State) : Host.Outcome State Fault Refusal :=
  s.live fun s => s.coreFails die.val cluster.val slot.val

/-! ### Uncorrectable errors in on-chip arrays (R431) -/

/-- The task of a slot ends because of an array that has no DEV address: the record names the physical slot. -/
def State.slotArrayError (s : State) (core i status : Nat) : State :=
  match s.slotAt core i with
  | none => s
  | some x =>
    match s.slotTask x with
    | none => s
    | some t =>
      let unit := computeUnit (core / 128) (core / 16 % 8) (s.physOf core)
      s.endTaskWith t status none (some
        { cls := 1, code := 0x05, unit := unit, status := status, ctx := some t.ctx, part := some t.part })

/-- R359: an error in a cool box share makes the model that lies there non-resident, and it is reloaded from its segments, which
writes them whole. -/
def State.coolError (s : State) (d k : Nat) (model : Option Model) (loc : Option Nat) : State :=
  match model with
  | some m =>
    if m.resident && s.modelBytes m (8 * d + k) != 0 then
      let s := s.putModel { m with resident := false, reloading := true }
      let s := (s.account m.ctx 7 (s.modelTotal m)).account m.ctx 1 (s.modelTotal m)
      s.errNoTask 0x05 (computeUnit d k 20) 0 none loc
    else s
  | none => s

/-- The resident model of which a part lies at an address of a cluster. -/
def State.modelAt (s : State) (cluster a : Nat) : Option Model :=
  s.sch.models.find? fun m =>
    m.resident && (rangeFrom 0 m.segments.length).any fun i =>
      let g := m.segments.getD i (0, 0, 0)
      s.segmentGoes m.part g.2.2 cluster &&
        (let b := s.segmentPlace m i g.2.1 cluster; decide (b ≤ a) && decide (a < b + g.2.1))

/-- R431: the entry of a slot's array stays in error until it is written whole: a thread register, or an accumulator row, whose
entries are always written together. Entries count from the array's start (DESIGN CHOICE, log 58: registers by hamper, lane and
register; accumulators by engine, row and lane). An engine queue's entry is written whole before it is read again. -/
def SlotImage.spoil (x : SlotImage) (accBase kind entry : Nat) : SlotImage :=
  match kind with
  | 0 => { x with badRegs := entry :: x.badRegs.filter (· != entry) }
  | 1 =>
    let n := entry / 16384
    let row := entry / 16 % 1024 - 128 * accBase
    let e := vecGet x.engines n Engine.empty
    { x with engines := vecSet x.engines n { e with bad := row :: e.bad.filter (· != row) } }
  | _ => x

/-- What the arrays of a slot hold, its task's or those of the task before, with an entry in error. -/
def State.spoilSlot (s : State) (core i kind entry : Nat) : State :=
  let spoil (x : SlotImage) : SlotImage := x.spoil (s.share core i).accBase kind entry
  match s.slotAt core i with
  | some x => s.putSlot { x with image := spoil x.image }
  | none =>
    let old := ((s.sch.rest.find? fun e => e.1 == s.siteAt core && e.2.1 == i).map (·.2.2)).getD SlotImage.empty
    s.withSch { s.sch with
      rest := upsert (fun e => e.1 == s.siteAt core && e.2.1 == i) (s.siteAt core, i, spoil old) s.sch.rest }

/-- ONCHIP_UNCORRECTABLE (Table 16.2, R431): an addressed word stays in error until it is written whole. -/
def execOnchipUncorrectable (place : ArrayPlace) (reader : Reader) (s : State) : Host.Outcome State Fault Refusal :=
  s.live fun s =>
    match place with
    | .memory addr =>
      let a := protBase s.dev.assembly addr.toNat
      match placeOf s.dev.assembly a with
      | .core d k c =>
        let s := s.poison a
        match s.shareOwner (128 * d + 16 * k + c) a with
        | some x => s.endSlot x 0x11 (some a)
        | none => s.readerEnds reader a
      | .cluster d k =>
        if inShare s.clusterShare (8 * d + k) a then (s.poison a).readerEnds reader a
        else if inShare s.boxShare (8 * d + k) a then s.coolError d k (s.modelAt (8 * d + k) a) (some a)
        else s.withdrawInService d k
      | .hub =>
        match reader with
        | .hub => (s.poison a).goFatal 0x12 (hubUnit 0x00800000) (some a)
        | _ => (s.poison a).readerEnds reader a
      | _ => s
    | .slotArray d k c i kind entry =>
      let core := 128 * d.val + 16 * k.val + c.val
      (s.spoilSlot core i.val kind.val entry).slotArrayError core i.val 0x11
    | .scratchpad d k c i firmware =>
      let core := 128 * d.val + 16 * k.val + c.val
      if firmware then s.coreFails d.val k.val (s.physOf core) else s.slotArrayError core i.val 0x10

/-- COOL_BOX_ERROR (R359). -/
def execCoolBoxError (die : Fin 2) (cluster : Fin 8) (part : Fin 16) (handle : BitVec 16) (s : State) :
    Host.Outcome State Fault Refusal :=
  s.live fun s =>
    s.coolError die.val cluster.val (s.sch.models.find? fun m => m.part == part.val && m.handle == handle.toNat) none

/-- PATROL_SCRUB (R357): the scrubber reads a row; a stack in self-refresh wakes (R417). -/
def execPatrolScrub (addr : BitVec 48) (found : ScrubResult) (s : State) : Host.Outcome State Fault Refusal :=
  s.live fun s =>
    let a := protBase s.dev.assembly addr.toNat
    if placeOf s.dev.assembly a ≠ .dram then s
    else
      let st := s.stackOf a
      let s := s.srExit st
      match found with
      | .clean => s
      | .correctable =>
        (s.countSat R.ERR_CNT_DRAMCE [st] 1 R.ERR_CNT_OVF [] (5 + st)).errNoTask 0x01 (stackUnit st) 0 none (some a)
      | .uncorrectable => (s.poison a).errNoTask 0x03 (stackUnit st) 0 none (some a)

/-! ### Links (R358) -/

/-- Location bytes 1–7 of Table 13.5, as the location of an error record. -/
def linkLoc (bs : List Nat) : Option Nat := some (ofLe (locOf bs))

/-- The unit of a die pair's first-named die, at its die control (Table 16.3). -/
def pairUnit (pair : Nat) : Nat := computeUnit (pairDies pair).1 0 31

/-- R29, R358: a module is retired; a pair with no module left is device-fatal. -/
def State.retireModule (s : State) (p m : Nat) : State :=
  let s := s.withBrg { s.brg with
    retired := s.brg.retired ++ [(p, m)], retraining := s.brg.retraining.filter (· != (p, m)) }
  if s.pairWorks p then s.raise { cls := 0, code := 0x08, unit := pairUnit p, loc := linkLoc [p, m] }
  else s.goFatal 0x08 (pairUnit p) (linkLoc [p, m])

/-- Does a module carry traffic: present and not retired? -/
def State.moduleWorks (s : State) (p m : Nat) : Bool :=
  s.dev.assembly.pairs.contains p && decide (m < pairModules p) && !s.brg.retired.contains (p, m)

/-- A mesh link that fails is device-fatal. -/
def State.meshFail (s : State) (d r port : Nat) : State := s.goFatal 0x0A (computeUnit d r 31) (linkLoc [d, r, port])

/-- FLIT_CRC_ERROR (R358): a replay; after 8 replays of a flit its module retrains, and its mesh link fails. -/
def execFlitCrcError (link : LinkName) (replays : Fin 16) (s : State) : Host.Outcome State Fault Refusal :=
  s.live fun s =>
    match link with
    | .module pair module =>
      let p := pair.val
      let m := module.val
      if !s.moduleWorks p m || s.brg.retraining.contains (p, m) then s
      else if replays.val < 8 then
        ((s.countSat R.ERR_CNT_D2DRTY [p] 1 R.ERR_CNT_OVF [] (9 + p)).pmcAdd 3 p 1 none 1).raise
          { cls := 0, code := 0x06, unit := pairUnit p, loc := linkLoc [p, m] }
      else s.withBrg { s.brg with retraining := s.brg.retraining ++ [(p, m)] }
    | .mesh die router port =>
      if s.dev.assembly.computeDies ≤ die.val then s
      else if replays.val < 8 then
        (s.countSat R.ERR_CNT_MESHRTY [] 1 R.ERR_CNT_OVF [] 16).raise
          { cls := 0, code := 0x09, unit := computeUnit die.val router.val 31,
            loc := linkLoc [die.val, router.val, port.val] }
      else s.meshFail die.val router.val port.val

/-- MESH_LINK_FAIL (R358); the port's number is that of Table 13.5 less 1. -/
def execMeshLinkFail (die : Fin 2) (router : Fin 8) (port : Fin 4) (s : State) : Host.Outcome State Fault Refusal :=
  s.live fun s => if die.val < s.dev.assembly.computeDies then s.meshFail die.val router.val (port.val + 1) else s

/-- MODULE_RETRAIN_END (R358): a module that fails retraining, or has retrained three times within 1 s, is retired. -/
def execModuleRetrainEnd (pair : Fin 7) (module : Fin 4) (good : Bool) (s : State) : Host.Outcome State Fault Refusal :=
  s.live fun s =>
    let p := pair.val
    let m := module.val
    if !s.moduleWorks p m || !s.brg.retraining.contains (p, m) then s
    else if !good then s.retireModule p m
    else
      let recent := s.brg.retrains.filter fun e => decide (s.now < e.2.2 + 1000000000)
      let s : State := s.withBrg { s.brg with
        retrains := recent ++ [(p, m, s.now)], retraining := s.brg.retraining.filter (· != (p, m)) }
      let s := s.raise { cls := 0, code := 0x07, unit := pairUnit p, loc := linkLoc [p, m] }
      let mine := s.brg.retrains.filter fun (e : Nat × Nat × Nat) => e.1 == p && e.2.1 == m
      if decide (3 ≤ mine.length) then s.retireModule p m else s

end Sys2Proof.Machine
end

