-- ==== Sys2Proof/Machine/Time.lean ====
section
/-! DEFINITION. TIMEBASE: its sources, its servo, steps and holdover, and the launch channels (R344–R350, R353). -/

namespace Sys2Proof.Machine

/-! ### Events and bits of TIM -/

/-- A TIM event (Table 15.3), where TIM_CTRL `evt_en` lets it be sent. -/
def State.timEvent (s : State) (inst code : Nat) (payload : List Byte) : State :=
  if s.bit R.TIM_CTRL [] 5 then s.event 0x03 inst code payload else s

/-- A signed 64-bit payload. -/
def signed64 (o : Int) : List Byte := leBytes 8 (twosNat 64 o)

/-- R348: is a step blocked? -/
def State.stepBlocked (s : State) : Bool := (rangeFrom 0 4).any fun o => s.bit R.SYN_CTRL [o] 0

/-- The selected reference (TIM_CTRL `src`). -/
def State.timSrc (s : State) : Nat := s.fld R.TIM_CTRL [] 1 0

/-- R346: offsets come from gPTP. -/
def State.usesGptp (s : State) : Bool := s.timSrc == 1 || (s.timSrc == 2 && !s.bit R.TIM_STATUS [] 2)

/-- R346: offsets come from PPS_IN. -/
def State.usesPps (s : State) : Bool := (s.timSrc == 2 || s.timSrc == 3) && s.bit R.TIM_STATUS [] 2

/-! ### Launch channels (R350) -/

/-- A launch channel. -/
def State.lch (s : State) (k : Nat) : Launch :=
  vecGet s.tim.launches k { running := false, start := 0, period := 0, next := 0, done := false, tasks := [] }

/-- Change a launch channel; TIM_LCHk_NEXT shows its next instant. -/
def State.setLch (s : State) (k : Nat) (x : Launch) : State :=
  (s.withTim { s.tim with launches := vecSet s.tim.launches k x }).poke64 R.TIM_LCH_NEXT_LO R.TIM_LCH_NEXT_HI [k] x.next

/-- The partition that a channel names. -/
def State.lchPart (s : State) (k : Nat) : Nat := s.fld R.TIM_LCH_CFG [k] 7 4

/-- TIM_LCHk_CFG is written: START and PERIOD are read when `en` rises. A channel whose period is outside its limits has no
instant. -/
def State.lchWrite (s : State) (k : Nat) (value : Word) : State :=
  let was := s.bit R.TIM_LCH_CFG [k] 0
  let old := s.rd R.TIM_LCH_CFG [k]
  let s := s.poke R.TIM_LCH_CFG [k] ((value &&& 0x1F1) ||| (old &&& ~~~value &&& 0x80000000))
  let en := bits value 0 0 == 1
  if en && !was then
    let start := s.rd64 R.TIM_LCH_START_LO R.TIM_LCH_START_HI [k]
    let period := (s.rd R.TIM_LCH_PERIOD [k]).toNat
    let good := period == 0 || within 10000 1000000000 period
    let past := decide (start < s.now)
    let x : Launch :=
      { running := good, start := start, period := period,
        next := if past && period != 0 then edgeAfter start period s.now else start, done := past && period == 0, tasks := [] }
    s.setLch k x
  else if en then s
  else s.setLch k { s.lch k with running := false }

/-- A queue of the partition starts its oldest ready entry. -/
def State.launchQueue (s : State) (q : Nat) : State :=
  let s := if s.sch.tasks.any fun t => t.qid == q && !t.started then s else s.takeEntry q
  match s.sch.tasks.find? fun t => t.qid == q && !t.started with
  | some t => if s.dispatchOn t.part then s.dispatchStatic t else s
  | none => s

/-- The queues of a partition, in ascending queue ID. -/
def State.partQueues (s : State) (p : Nat) : List Nat :=
  sortBy (fun q => [q]) ((s.sch.queues.map (·.ident)).filter fun q => s.queuePart q == p)

/-- What happens at an instant: it is skipped while a task of an earlier launch has not completed; else the partition's
queues start, and the tasks that this starts are the channel's. -/
def State.launch (s : State) (k : Nat) : State :=
  let x := s.lch k
  let open_ := x.tasks.filter fun t => s.sch.tasks.any fun u => u.holds t.1 t.2
  let p := s.lchPart k
  if !open_.isEmpty then
    let s := (s.setLch k { x with tasks := open_ }).countSat R.TIM_LCH_SKIP [k] 1 R.TIM_LCH_CFG [k] 31
    if s.bit R.TIM_LCH_CFG [k] 8 then s.timEvent 0 0x08 (leBytes 1 k ++ zeros 7 ++ leBytes 8 x.next) else s
  else
    let before := (s.sch.tasks.filter (·.started)).map fun t => (t.qid, t.entry.seq)
    let t := (s.partQueues p).foldl (fun s q => s.launchQueue q) s
    let new := ((t.sch.tasks.filter fun u => u.part == p && u.started).map fun u => (u.qid, u.entry.seq)).filter
      fun u => !before.contains u
    t.setLch k { x with tasks := new }

/-- LAUNCH_INSTANT (R350): an instant of a channel comes. -/
def execLaunchInstant (channel : Fin 4) (s : State) : Host.Outcome State Fault Refusal :=
  s.live fun s =>
    let k := channel.val
    let x := s.lch k
    if x.running && !x.done then
      let s := s.launch k
      let y := s.lch k
      s.setLch k { y with next := if y.period = 0 then y.next else y.next + y.period, done := y.period == 0 }
    else s

/-- R350: after a step of TIMEBASE from `before`: one launch for the instants stepped over, and the grid goes on; after a
step back the instants follow the new values. -/
def State.lchStep (s : State) (before k : Nat) : State :=
  let x := s.lch k
  if !x.running then s
  else if before ≤ s.now then
    if !x.done && decide (x.next ≤ s.now) then
      let s := s.launch k
      let y := s.lch k
      s.setLch k { y with next := if y.period = 0 then y.next else edgeAfter y.start y.period s.now, done := y.period == 0 }
    else s
  else if x.period = 0 then s.setLch k { x with done := x.done && decide (x.start < s.now) }
  else s.setLch k { x with next := edgeAfter x.start x.period s.now }

/-! ### Steps and the servo (R347, R348) -/

/-- A time kept in TIMEBASE moves with a step. -/
def moved (d : Int) (t : Option Nat) : Option Nat := t.map fun n => ((n : Int) + d).toNat

/-- R347: a step of `d` ns applies, in one hub clock: the FSYNC edges and launch instants stepped over follow it
(R247, R350, R353), while a global stop lasts at its release (R391). -/
def State.applyStep (s : State) (d : Int) : State :=
  let before := s.now
  let s := s.withTim { s.tim with
    base := s.tim.base + BitVec.ofInt 96 (d * 2 ^ 32)
    lastOffset := moved d s.tim.lastOffset
    ppsLast := moved d s.tim.ppsLast
    deferring := false }
  let s := ((s.countSat R.TIM_CNT_STEP [] 1 R.TIM_CNT_OVF [] 0).setBit R.TIM_STATUS [] 0 false).timEvent 0 0x01 (signed64 d)
  let stepped := (rangeFrom 0 4).foldl (fun s k => s.fsStep k before) s
  if s.stopped then s else (rangeFrom 0 4).foldl (fun s k => s.lchStep before k) stepped

/-- R344: the limit of the rate, in 2^-32 ns per ns. -/
def State.slewMax (s : State) : Int := (min 1000000 (max 1 (s.fld R.TIM_SLEW_MAX [] 19 0)) : Nat) * 2 ^ 32 / 1000000000

/-- Set the frequency estimate and the rate. -/
def State.setRate (s : State) (fi a : Int) : State :=
  (s.withTim { s.tim with fi := fi, a := a }).poke R.TIM_RATE [] (satWord a)

/-- R347: one slew, `t` ns after the previous offset. -/
def State.slew (s : State) (o : Int) (t : Nat) : State :=
  let m := s.slewMax
  let part (k : Nat) : Int := o / 2 ^ k * 2 ^ 32 / (max 1 t : Nat)
  let fi := clampInt (-m) m (s.tim.fi + part (s.fld R.TIM_GAIN [] 11 8))
  s.setRate fi (clampInt (-m) m (fi + part (s.fld R.TIM_GAIN [] 3 0)))

/-- The time since the previous offset; before the first one the spec states none. -/
def State.sinceOffset (s : State) : State × Nat :=
  match s.tim.lastOffset with
  | some n => (s, s.now - n)
  | none => (s.draw, (s.drawn 64).toNat)

/-- R347: `locked` follows the last offset. -/
def State.lockTest (s : State) (o : Int) : State :=
  let thr := (s.rd R.TIM_LOCK_THR []).toNat
  let good := if o.natAbs ≤ thr then s.tim.goodOffsets + 1 else 0
  let s := s.withTim { s.tim with goodOffsets := min 4 good }
  if 4 ≤ good then s.setBit R.TIM_STATUS [] 0 true
  else if 4 * thr < o.natAbs then s.setBit R.TIM_STATUS [] 0 false
  else s

/-- R348: a step is replaced by the slew; the first of an episode sends event 0x02. -/
def State.deferStep (s : State) (o : Int) (t : Nat) : State :=
  let first := !s.tim.deferring
  let s := s.withTim { s.tim with deferring := true }
  let s := (s.setBit R.TIM_STATUS [] 4 true).countSat R.TIM_CNT_DEFER [] 1 R.TIM_CNT_OVF [] 1
  (if first then s.timEvent 0 0x02 (signed64 o) else s).slew o t

/-- R347, R349: the servo takes one offset of the selected source; the first one after holdover ends it. -/
def State.servo (s : State) (o : Int) : State :=
  let s := s.poke R.TIM_OFFSET [] (satWord o)
  let s := if s.bit R.TIM_STATUS [] 1 then (s.setBit R.TIM_STATUS [] 1 false).timEvent 0 0x04 (signed64 o) else s
  let (s, t) := s.sinceOffset
  let s := s.lockTest o
  let s :=
    if !s.bit R.TIM_CTRL [] 2 && decide ((s.rd R.TIM_STEP_THR []).toNat < o.natAbs) then
      if s.stepBlocked then s.deferStep o t else s.applyStep o
    else (s.withTim { s.tim with deferring := false }).slew o t
  (s.withTim { s.tim with lastOffset := some s.now })

/-- R349: holdover begins. -/
def State.enterHoldover (s : State) : State :=
  if s.timSrc = 0 ∨ s.bit R.TIM_STATUS [] 1 = true then s
  else
    let s := s.setRate s.tim.fi s.tim.fi
    let s := s.withTim { s.tim with goodOffsets := 0 }
    (((s.setBit R.TIM_STATUS [] 1 true).setBit R.TIM_STATUS [] 0 false).countSat R.TIM_CNT_HOLD [] 1 R.TIM_CNT_OVF [] 2).timEvent
      0 0x03 []

/-! ### Sources (R346) -/

/-- GPTP_SYNC (R346): a Sync of the selected domain, on the port in slave state. While a global stop lasts the servo does
not act (R389). -/
def execGptpSync (port : Fin 2) (optionalDomain : Bool) (offset : Int) (s : State) : Host.Outcome State Fault Refusal :=
  s.awake fun s =>
    let p := port.val
    if optionalDomain != s.bit R.TIM_CTRL [] 4 || (optionalDomain && !s.bit R.ETH_TSN_CTRL [p] 3)
        || !(s.bit R.ETH_CTRL [p] 0 && s.bit R.ETH_STATUS [p] 0) then s
    else
      let s := (s.withTim { s.tim with slavePort := some p }).setBit R.TIM_STATUS [] 3 true
      if s.usesGptp && !s.stopped then s.servo offset else s

/-- R346: the reference of a PPS_IN edge minus TIMEBASE: the nearest second plus TIM_PPS_OFS. Of two that are as near, the
spec names none. -/
def State.ppsOffset (s : State) : State × Int :=
  let r := ((s.now : Int) - (s.rd R.TIM_PPS_OFS []).toNat) % 1000000000
  if r < 500000000 then (s, -r)
  else if 500000000 < r then (s, 1000000000 - r)
  else if s.drawn 1 = 1 then (s.draw, -r)
  else (s.draw, 1000000000 - r)

/-- PPS_IN_EDGE (R346). -/
def execPpsInEdge (rising : Bool) (s : State) : Host.Outcome State Fault Refusal :=
  s.awake fun s =>
    if rising == s.bit R.TIM_CTRL [] 3 then s
    else
      let good := match s.tim.ppsLast with
        | some n => within 999900000 1000100000 (s.now - n)
        | none => false
      let run := if good then min 3 (s.tim.ppsRun + 1) else 1
      let s := s.withTim { s.tim with ppsLast := some s.now, ppsRun := run }
      let s := s.poke64 R.TIM_PPS_LAST_LO R.TIM_PPS_LAST_HI [] s.now
      let s := if run = 3 then s.setBit R.TIM_STATUS [] 2 true else s
      if s.usesPps && !s.stopped then
        let (s, o) := s.ppsOffset
        s.servo o
      else s

/-- PPS_LOSS (R346): PPS_IN becomes invalid; holdover follows unless gPTP serves in its place (R349). -/
def execPpsLoss (s : State) : Host.Outcome State Fault Refusal :=
  s.awake fun s =>
    let was := s.bit R.TIM_STATUS [] 2
    let s := s.withTim { s.tim with ppsRun := 0, ppsLast := none }
    if !was then s
    else
      let s := (s.setBit R.TIM_STATUS [] 2 false).timEvent 0 0x05 []
      if s.timSrc = 3 ∨ (s.timSrc = 2 ∧ s.bit R.TIM_STATUS [] 3 = false) then s.enterHoldover else s

/-- SYNC_RECEIPT_TIMEOUT (R346): gPTP becomes invalid; holdover follows where it was the source in use (R349). -/
def execSyncReceiptTimeout (s : State) : Host.Outcome State Fault Refusal :=
  s.awake fun s =>
    let was := s.bit R.TIM_STATUS [] 3
    let s := (s.withTim { s.tim with slavePort := none }).setBit R.TIM_STATUS [] 3 false
    if was && s.usesGptp then s.enterHoldover else s

/-- HOLDOVER_TIMEOUT (R349): no offset has come for TIM_HOLD_TMO. -/
def execHoldoverTimeout (s : State) : Host.Outcome State Fault Refusal := s.awake fun s => s.enterHoldover

/-! ### Host steps (R348) -/

/-- A host step: ignored, and noted, while a step is blocked. -/
def State.hostStep (s : State) (d : Int) : State :=
  if s.stepBlocked then s.setBit R.TIM_STATUS [] 5 true else s.applyStep d

/-- A write of TIM_SET_HI: TIMEBASE in ns becomes the value, its fraction stays. -/
def State.timSetHi (s : State) (value : Word) : State :=
  s.hostStep ((s.tim.setLo.toNat + 2 ^ 32 * value.toNat : Nat) - (s.now : Int))

/-- TIM_ADJ (R348). -/
def execTimAdj (value : Word) (s : State) : Host.Outcome State Fault Refusal := s.awake fun s => s.hostStep value.toInt

/-- TIM_SET (R348). -/
def execTimSet (value : Word) (s : State) : Host.Outcome State Fault Refusal := s.awake fun s => s.timSetHi value

end Sys2Proof.Machine
end

