-- ==== Sys2Proof/Machine/Debug.lean ====
section
/-! DEFINITION. Debug: scopes and the unlock token (R378–R380), breakpoints (R384–R387), global counters and PC samples
(R382, R383), trace rings (R388), the global stop and scan-out (R389–R391). -/

namespace Sys2Proof.Machine

/-! ### Scopes (R378) -/

/-- Is a scope granted: 0 application, 1 global, 2 service? -/
def State.scope (s : State) (i : Nat) : Bool := s.bit R.DBG_UNLOCK [] i

/-- Is a context granted to the application scope? -/
def State.ctxGranted (s : State) (c : Nat) : Bool :=
  s.scope 0 && natBit (s.rd64 R.DBG_UNLOCK_CTX_LO R.DBG_UNLOCK_CTX_HI []) c

/-- A debug event (source class 0x0E). -/
def State.dbgEvent (s : State) (code : Nat) (payload : List Byte) : State := s.event 0x0E 0 code payload

/-! ### The unlock token (R379) -/

/-- The nonce takes a fresh random value. -/
def State.newNonce (s : State) : State :=
  let v := s.drawn 128
  (rangeFrom 0 4).foldl (fun s i => s.poke R.DBG_NONCE [i] (BitVec.ofNat 32 (v.toNat / 2 ^ (32 * i)))) s.draw

/-- A submission ends with a code of Table 17.3; `scopes` is the token's scope byte. -/
def State.unlockResult (s : State) (scopes code : Nat) : State :=
  (s.setFld R.DBG_UNLOCK [] 11 8 code).dbgEvent (if code = 0 then 0x04 else 0x05) (leBytes 1 scopes ++ leBytes 1 code)

/-- UNLOCK_SUBMIT (R379): DBG_TOKEN_HI is written. -/
def State.unlockSubmit (s : State) (value : Word) : State :=
  if s.bit R.DBG_UNLOCK [] 3 || !s.sealed then (s.unlockResult 0 8).newNonce
  else
    let a := s.dbg.tokenLo.toNat + 2 ^ 32 * bits value 15 0
    let nonce := (rangeFrom 0 4).map fun i => s.rd R.DBG_NONCE [i]
    (s.withDbg { s.dbg with token := some a, tokenNonce := nonce }).setBit R.DBG_UNLOCK [] 3 true

/-- UNLOCK_SUBMIT (R379). -/
def execUnlockSubmit (value : Word) (s : State) : Host.Outcome State Fault Refusal := s.awake fun s => s.unlockSubmit value

/-- The identity key digest, as bytes. -/
def State.identityDigest (s : State) : List Byte := ((rangeFrom 0 8).map fun i => beBytes 4 (s.rd R.SEC_ID_DIGEST [i]).toNat).flatten

/-- Table 17.3: the checks of a token, in order; 0 when all pass. A token that is not 64-byte aligned in hub SRAM is
malformed. -/
def State.tokenCode (s : State) (a : Nat) (t : List Byte) : Nat :=
  let scope := leAt t 4 1
  let signer := leAt t 5 1
  let key := if signer = 0 then s.img.integratorKey else s.img.debugKey
  if !s.bit R.DBG_POLICY [] 0 then 1
  else if a % 64 ≠ 0 ∨ a < hubBase ∨ hubBase + hubSize < a + 448 ∨ leAt t 0 4 ≠ 0x4B54475A ∨ scope = 0 ∨ 8 ≤ scope ∨ 2 ≤ signer
      ∨ leAt t 6 2 ≠ 0 then 2
  else if (rangeFrom 0 4).map (fun i => BitVec.ofNat 32 (leAt t (0x10 + 4 * i) 4)) ≠ s.dbg.tokenNonce then 3
  else if !s.bit R.SEC_STATUS [] 1 || sliceBytes t 0x20 32 != s.identityDigest then 4
  else if key = 0 then 5
  else if !pssVerify (beBytes 384 key) (t.take 0x40) (sliceBytes t 0x40 384) then 6
  else if (natBit scope 2 && !s.bit R.DBG_POLICY [] 1) || (signer == 1 && scope != 4) then 7
  else 0

/-- UNLOCK_END (R379): the scopes and contexts of a good token are added; the nonce is new after every submission. -/
def execUnlockEnd (s : State) : Host.Outcome State Fault Refusal :=
  s.awake fun s =>
    match s.dbg.token with
    | none => s
    | some a =>
      let t := s.bytes a 448
      let code := s.tokenCode a t
      let s := (s.withDbg { s.dbg with token := none, tokenNonce := [] }).setBit R.DBG_UNLOCK [] 3 false
      let s :=
        if code = 0 then
          let s := s.poke R.DBG_UNLOCK [] (s.rd R.DBG_UNLOCK [] ||| BitVec.ofNat 32 (leAt t 4 1))
          let s := s.poke R.DBG_UNLOCK_CTX_LO [] (s.rd R.DBG_UNLOCK_CTX_LO [] ||| BitVec.ofNat 32 (leAt t 8 4))
          s.poke R.DBG_UNLOCK_CTX_HI [] (s.rd R.DBG_UNLOCK_CTX_HI [] ||| BitVec.ofNat 32 (leAt t 12 4))
        else s
      (s.unlockResult (leAt t 4 1) code).newNonce

/-! ### Halts (R385–R387) -/

/-- A slot that a command of DBG names. -/
def State.slotOfName (s : State) (n : SlotName) : Option Slot := s.slotAt (coreId n.at_) n.slot.val

/-- The slots that a halt or a resume of one slot reaches. -/
def State.haltSet (s : State) (x : Slot) (all : Bool) : List Slot :=
  if all then s.sch.slots.filter fun y => y.qid == x.qid && y.seq == x.seq else [x]

/-- A slot that is there is halted or runnable, and steps or does not. -/
def State.markHalt (s : State) (core i : Nat) (halted stepping : Bool) : State :=
  match s.slotAt core i with
  | some x => s.putSlot { x with halted := halted, stepping := stepping }
  | none => s

/-- A slot halts: it is switched out (R102), it is not runnable, and its core runs its other slots. -/
def State.haltSlot (s : State) (x : Slot) : State :=
  let s := if s.coreRuns x.core = some x.idx then s.coreIdle x.core else s
  (s.markHalt x.core x.idx true false).wakeCore x.core

/-- A halted slot is runnable again. -/
def State.resumeSlot (s : State) (x : Slot) (stepping : Bool) : State :=
  if x.halted then (s.markHalt x.core x.idx false stepping).wakeCore x.core else s

/-- Event 0x01: context, logical core, slot, PC, and the unit where one matched. -/
def State.haltEvent (s : State) (x : Slot) (pc : Word) (unit : Option Nat) : State :=
  s.dbgEvent 0x01 (leBytes 1 (x.qid / 256) ++ leBytes 1 x.core ++ leBytes 1 x.idx ++ [0] ++ leBytes 4 pc.toNat
    ++ (match unit with | some b => leBytes 1 b | none => []))

/-- Does a breakpoint unit match (R384)? -/
def State.bpMatches (s : State) (x : Slot) (pc : Word) (b : Nat) : Bool :=
  s.bit R.DBG_BP_CTRL [b] 0 && s.fld R.DBG_BP_CTRL [b] 6 1 == x.qid / 256 && s.rd R.DBG_BP_PC [b] == pc
    && (s.bit R.DBG_BP_CORE [b] 8 || s.fld R.DBG_BP_CORE [b] 7 0 == x.core)

/-- BREAKPOINT_HIT (R385, R392): the control core comes to an instruction. The lowest unit that matches halts the slot before
it; a slot that steps halts here too (R386). -/
def execBreakpointHit (at_ : SlotName) (pc : Word) (s : State) : Host.Outcome State Fault Refusal :=
  s.live fun s =>
    match s.slotNamed at_ with
    | none => s
    | some x =>
      let x := { x with image := { x.image with pc := pc } }
      let s := s.putSlot x
      match (rangeFrom 0 16).find? (s.bpMatches x pc) with
      | some b =>
        let s := (s.haltSet x (s.bit R.DBG_BP_CTRL [b] 7)).foldl State.haltSlot s
        let s := s.haltEvent x pc (some b)
        if s.bit R.DBG_BP_CTRL [b] 8 then s.globalStop 2 else s
      | none => if x.stepping then s.haltSlot x else s

/-- EBREAK (R384): it halts its slot when the context is granted, and is a no-op otherwise. -/
def execEbreak (at_ : SlotName) (pc : Word) (s : State) : Host.Outcome State Fault Refusal :=
  s.live fun s =>
    match s.slotNamed at_ with
    | none => s
    | some x =>
      let x := { x with image := { x.image with pc := pc } }
      let s := s.putSlot x
      if s.ctxGranted (x.qid / 256) then (s.haltSlot x).haltEvent x pc none
      else if x.stepping then s.haltSlot x
      else s

/-- BREAKPOINT_ARM (R384): refused for a context that is not granted, or of a static-schedule partition. -/
def State.bpArm (s : State) (b : Nat) (value : Word) : State :=
  let c := bits value 6 1
  if s.ctxGranted c && !s.isStatic (s.ctxPart c) then s.poke R.DBG_BP_CTRL [b] (value &&& 0x1FF)
  else s.poke R.DBG_BP_CTRL [b] ((value &&& 0x1FE) ||| 0x200)

/-- BREAKPOINT_ARM (R384). -/
def execBreakpointArm (unit : Fin 16) (value : Word) (s : State) : Host.Outcome State Fault Refusal :=
  s.awake fun s => if bits value 0 0 = 1 then s.bpArm unit.val value else s

/-- A resume or a step of a granted context's slot. -/
def State.debugRun (s : State) (n : SlotName) (all stepping : Bool) : State :=
  match s.slotOfName n with
  | some x => if s.ctxGranted (x.qid / 256) then (s.haltSet x all).foldl (fun s y => s.resumeSlot y stepping) s else s
  | none => s

/-- DEBUG_RESUME (R386). -/
def execDebugResume (at_ : SlotName) (all : Bool) (s : State) : Host.Outcome State Fault Refusal :=
  s.awake fun s => s.debugRun at_ all false

/-- DEBUG_STEP (R386): the slot runs until its control core comes to its next instruction. -/
def execDebugStep (at_ : SlotName) (all : Bool) (s : State) : Host.Outcome State Fault Refusal :=
  s.awake fun s => s.debugRun at_ all true

/-- R380: every grant is withdrawn; while the device is stopped the write is ignored (R392). -/
def State.debugLock (s : State) : State :=
  if s.stopped then s
  else
    let s := ((s.setFld R.DBG_UNLOCK [] 2 0 0).poke R.DBG_UNLOCK_CTX_LO [] 0).poke R.DBG_UNLOCK_CTX_HI [] 0
    let s := (rangeFrom 0 16).foldl (fun s b => s.setBit R.DBG_BP_CTRL [b] 0 false) s
    let s := (s.sch.slots.filter (·.halted)).foldl (fun s x => s.resumeSlot x false) s
    let layby := s.sch.layby.map fun l => { l with slot := { l.slot with halted := false, stepping := false } }
    let s := s.withSch { s.sch with layby := layby }
    let s := (rangeFrom 0 4).foldl (fun s n => s.setBit R.DBG_PCS_CFG [n] 0 false) s
    (rangeFrom 0 2).foldl (fun s r => s.setBit R.TRC_RING_CFG [r] 0 false) s

/-- DEBUG_LOCK (R380). -/
def execDebugLock (s : State) : Host.Outcome State Fault Refusal := s.awake fun s => s.debugLock

/-! ### The global stop (R389–R391) -/

/-- R389: a write of DBG_STOP with `stop` and the key. -/
def State.stopWrite (s : State) (value : Word) : State :=
  if bits value 0 0 = 1 ∧ bits value 31 16 = 0x5709 then s.globalStop 1 else s

/-- GLOBAL_STOP (R389). -/
def execGlobalStop (cause : StopCause) (s : State) : Host.Outcome State Fault Refusal :=
  s.live fun s =>
    match cause with
    | .write value => s.stopWrite value
    | .breakpoint => s.globalStop 2
    | .error => s.errorStop

/-- R391: every clock runs again. SYN treats each output as after a takeover, tasks whose time-outs have passed end, and
instants and edges that have passed behave as after a forward step. -/
def State.stopRelease (s : State) : State :=
  if !s.stopped then s
  else
    let before := s.dbg.stoppedAt
    let s := s.poke R.DBG_STOP_STATUS [] 0
    let s := ((rangeFrom 0 4).filter s.synOn).foldl State.synTakeover s
    let late := s.sch.tasks.filter fun t =>
      t.started && t.launch.timeout != 0 && decide (t.timerStart + 1000 * t.launch.timeout ≤ s.now)
    let s := late.foldl (fun s t => s.timeoutTask t.qid t.entry.seq) s
    let s := (rangeFrom 0 4).foldl (fun s k => s.fsStep k before) s
    let s := (rangeFrom 0 4).foldl (fun s k => s.lchStep before k) s
    s.dbgEvent 0x03 (leBytes 8 (s.now - before))

/-- GLOBAL_STOP_RELEASE (R391). -/
def execGlobalStopRelease (value : Word) (s : State) : Host.Outcome State Fault Refusal :=
  s.awake fun s => if bits value 1 1 = 1 then s.stopRelease else s

/-- R390: 32 bits of the selected chain: what a chain holds where, the spec does not say. -/
def State.scanShift (s : State) : State :=
  let v := s.drawn 32
  (s.draw.withDbg { s.dbg with scanned := s.dbg.scanned + 32 }).poke R.DBG_SCAN_DATA [] v

/-- SCAN_DATA_READ (R390): with the service scope, while the device is stopped. -/
def execScanDataRead (s : State) : Host.Outcome State Fault Refusal :=
  s.awake fun s => if s.scope 2 && s.stopped then s.scanShift else s

/-! ### Global counters (R382) -/

/-- Every counter is latched at one instant. -/
def State.pmcLatch (s : State) : State :=
  let s := (rangeFrom 0 32).foldl (fun s i => s.poke R.PMC_SNAP [i] (s.rd R.PMC_CNT [i])) s
  s.poke64 R.PMC_SNAP_TIME_LO R.PMC_SNAP_TIME_HI [] s.now

/-- A write of PMC_CTRL. -/
def State.pmcCtrl (s : State) (value : Word) : State :=
  let s := s.poke R.PMC_CTRL [] (value &&& 1)
  if bits value 1 1 = 1 then s.pmcLatch else s

/-- PMC_SNAP (R382). -/
def execPmcSnap (value : Word) (s : State) : Host.Outcome State Fault Refusal :=
  s.live fun s => if s.scope 1 then s.pmcCtrl value else s

/-- PMC_SAMPLE_TICK (R382): a snapshot goes to the trace rings, in eight parts. -/
def execPmcSampleTick (s : State) : Host.Outcome State Fault Refusal :=
  s.live fun s =>
    if s.fld R.PMC_SAMPLE [] 23 0 = 0 then s
    else
      (rangeFrom 0 8).foldl (fun s p =>
        s.trace 8 none p ((rangeFrom (4 * p) 4).map fun i => leBytes 4 (s.rd R.PMC_SNAP [i]).toNat).flatten) s.pmcLatch

/-- PMC_COUNTER_WRAP (R382): a counter of clocks, flits or bytes passes its top. -/
def execPmcCounterWrap (counter : Fin 32) (s : State) : Host.Outcome State Fault Refusal :=
  s.live fun s =>
    if s.bit R.PMC_CTRL [] 0 then s.pmcOne counter.val (2 ^ 32 - (s.rd R.PMC_CNT [counter.val]).toNat) else s

/-! ### PC sampling (R383) -/

/-- The samples that a core has taken for a channel. -/
def State.samplesOf (s : State) (core n : Nat) : Nat :=
  match s.dbg.rotation.find? fun e => e.1 == core && e.2.1 == n with | some e => e.2.2 | none => 0

/-- PC_SAMPLE (R383): one sample of a core whose running slot belongs to the channel's context, the control core and the
slot's hampers in turn. -/
def execPcSample (core : CoreName) (channel : Fin 4) (pc : Word) (stall : Fin 16) (s : State) :
    Host.Outcome State Fault Refusal :=
  s.live fun s =>
    let n := channel.val
    let c := coreId core
    let ctx := s.fld R.DBG_PCS_CFG [n] 6 1
    match (s.coreRuns c).bind (s.slotAt c) with
    | none => s
    | some x =>
      if !s.bit R.DBG_PCS_CFG [n] 0 || !s.ctxGranted ctx || !s.bit R.DBG_POLICY [] 2 || x.qid / 256 != ctx then s
      else
        let size := 2 ^ s.fld R.DBG_PCS_SIZE [n] 4 0
        let base := s.rdAddr R.DBG_PCS_RING_LO R.DBG_PCS_RING_HI [n]
        if !s.accessOk ctx base (16 * size) true then (s.setBit R.DBG_PCS_CFG [n] 0 false).dbgEvent 0x06 (leBytes 1 n)
        else
          let k := s.samplesOf c n
          let hams := x.image.hampers.map (·.ident)
          let turn := k % (hams.length + 1)
          let source := if turn = 0 then 0 else 4 + 8 * (hams.getD (turn - 1) 0)
          let wr := s.rd R.DBG_PCS_WR [n]
          let full := decide (size ≤ (wr - s.rd R.DBG_PCS_RD [n]).toNat)
          let s := s.withDbg { s.dbg with
            rotation := upsert (fun e => e.1 == c && e.2.1 == n) (c, n, k + 1) s.dbg.rotation }
          let s := s.write (base + 16 * (wr.toNat % size))
            (leBytes 4 pc.toNat ++ leBytes 1 ctx ++ leBytes 1 (x.idx + source) ++ leBytes 1 c ++ leBytes 1 stall.val
              ++ leBytes 8 s.now)
          let s := s.poke R.DBG_PCS_WR [n] (wr + 1)
          if full then s.countSat R.DBG_PCS_LOSS [n] 1 R.DBG_PCS_CFG [n] 30 else s

/-! ### Trace rings (R388) -/

/-- R388: TRC_RINGr_CFG is written with `en` = 1: a ring outside usable DRAM and hub SRAM is disabled. -/
def State.traceEnable (s : State) (r : Nat) (value : Word) : State :=
  let old := s.rd R.TRC_RING_CFG [r]
  let k := s.fld R.TRC_RING_SIZE [r] 4 0
  let base := s.rdAddr R.TRC_RING_LO R.TRC_RING_HI [r]
  let good := within 6 22 k && base % 32 == 0 && inDramOrHub s.dev.assembly base (32 * 2 ^ k)
  let kept := (value &&& 0x3FF) ||| (old &&& ~~~value &&& 0xC0000000)
  if bits value 0 0 = 0 ∨ good then s.poke R.TRC_RING_CFG [r] kept
  else (s.poke R.TRC_RING_CFG [r] (kept &&& ~~~1)).dbgEvent 0x07 (leBytes 1 r)

/-- TRACE_RING_ENABLE (R388). -/
def execTraceRingEnable (ring : Fin 2) (value : Word) (s : State) : Host.Outcome State Fault Refusal :=
  s.live fun s => if s.scope 1 then s.traceEnable ring.val value else s

end Sys2Proof.Machine
end

