-- ==== Sys2Proof/Machine/Power.lean ====
section
/-! DEFINITION. Power, clocks and thermal: P-states (R410, R411), the ceilings (R412, R413), the sensors and the trip
(R414–R416), gating (R408, R409) and self-refresh (R417). -/

namespace Sys2Proof.Machine

/-- A PWR event (source class 0x02), where PWR_CTRL `evt_en` lets it be sent. -/
def State.pwrEvent (s : State) (code : Nat) (payload : List Byte) : State :=
  if s.bit R.PWR_CTRL [] 2 then s.event 0x02 0 code payload else s

/-! ### P-states (R410, R411) -/

/-- The voltage of a P-state, mV (Table 19.5). -/
def pstateMv (p : Nat) : Nat := ([820, 770, 730, 690, 650, 620, 580, 550] : List Nat).getD p 550

/-- `cur` of a cluster. -/
def State.pstate (s : State) (i : Nat) : Nat := s.fld R.PWR_CLU_PSTATE [i] 14 12

/-- The P-state that should be in force: the highest-numbered of `target`, `pwr_lim` and `thm_lim`. -/
def State.pstateWanted (s : State) (i : Nat) : Nat :=
  max (s.fld R.PWR_CLU_PSTATE [i] 2 0) (max (s.fld R.PWR_CLU_PSTATE [i] 6 4) (s.fld R.PWR_CLU_PSTATE [i] 10 8))

/-- R410: VDD_CMPd is requested at the highest cluster voltage of the die plus 30 mV, at most 850 mV; a step up raises the
rail first, a step down lowers it at its end (R411). -/
def State.setVdd (s : State) (d : Nat) : State :=
  let on := if d = 0 then s.pwr.enCmp0 else s.pwr.enCmp1
  if !on then s
  else
    let mv := ((rangeFrom (8 * d) 8).map fun i =>
      pstateMv (if s.bit R.PWR_CLU_PSTATE [i] 15 then min (s.pstate i) (vecGet s.pwr.dest i 0) else s.pstate i)).foldl max 0
    (s.withPwr { s.pwr with vdd := vecSet s.pwr.vdd d (min 850 (mv + 30)) })

/-- R411: a transition starts where the state in force is not the one wanted and none runs. -/
def State.pstateStart (s : State) (i : Nat) : State :=
  if s.bit R.PWR_CLU_PSTATE [i] 15 || s.pstate i == s.pstateWanted i || decide (s.dev.assembly.computeDies ≤ i / 8) then s
  else
    let s := s.withPwr { s.pwr with dest := vecSet s.pwr.dest i (s.pstateWanted i) }
    (s.setBit R.PWR_CLU_PSTATE [i] 15 true).setVdd (i / 8)

/-- PSTATE_TARGET (R411): PWR_CLUi_PSTATE is written. -/
def execPstateTarget (cluster : Fin 16) (value : Word) (s : State) : Host.Outcome State Fault Refusal :=
  s.awake fun s => (s.setFld R.PWR_CLU_PSTATE [cluster.val] 2 0 (bits value 2 0)).pstateStart cluster.val

/-- DVFS_TRANSITION_END (R411): the new state is in force; a change asked for meanwhile starts. -/
def execDvfsTransitionEnd (cluster : Fin 16) (s : State) : Host.Outcome State Fault Refusal :=
  s.awake fun s =>
    let i := cluster.val
    if s.bit R.PWR_CLU_PSTATE [i] 15 then
      let s := s.setFld R.PWR_CLU_PSTATE [i] 14 12 (vecGet s.pwr.dest i 0)
      ((s.setBit R.PWR_CLU_PSTATE [i] 15 false).setVdd (i / 8)).pstateStart i
    else s

/-! ### The power ceiling (R412) -/

/-- Does a core of a cluster hold a slot of a static-schedule partition? -/
def State.clusterStatic (s : State) (i : Nat) : Bool :=
  (rangeFrom (16 * i) 16).any fun c =>
    !s.coreAbsent c && (rangeFrom 0 4).any fun n => (s.share c n).valid && s.isStatic (s.share c n).part

/-- The clusters of the assembly that are not withdrawn. -/
def State.liveClusters (s : State) : List Nat := s.clusters.filter fun i => !s.clusterAbsent (i / 8) (i % 8)

/-- `pwr_lim` of a cluster rises. -/
def State.powerUpStep (s : State) (i : Nat) : State :=
  let v := s.fld R.PWR_CLU_PSTATE [i] 6 4
  if v < 7 then (s.setFld R.PWR_CLU_PSTATE [i] 6 4 (v + 1)).pstateStart i else s

/-- `pwr_lim` of a cluster falls. -/
def State.powerDownStep (s : State) (i : Nat) : State :=
  let v := s.fld R.PWR_CLU_PSTATE [i] 6 4
  if 0 < v then (s.setFld R.PWR_CLU_PSTATE [i] 6 4 (v - 1)).pstateStart i else s

/-- One step up: the clusters without static-schedule slots, and the others too once all of the former are at P7. -/
def State.throttleStep (s : State) : State :=
  let all := s.liveClusters
  let plain := all.filter fun i => !s.clusterStatic i
  let static := all.filter s.clusterStatic
  let deep := plain.all fun i => s.pstate i == 7
  let s := plain.foldl State.powerUpStep s
  if deep then
    static.foldl (fun s i =>
      if s.fld R.PWR_CLU_PSTATE [i] 6 4 < 7 then (s.powerUpStep i).countSat R.PWR_CNT_STATTHR [] 1 R.PWR_CNT_OVF [] 2 else s) s
  else s

/-- One step down, static-schedule clusters first. -/
def State.releaseStep (s : State) : State :=
  let held := s.liveClusters.filter fun i => s.fld R.PWR_CLU_PSTATE [i] 6 4 != 0
  let static := held.filter s.clusterStatic
  let s := (if static.isEmpty then held else static).foldl State.powerDownStep s
  if s.liveClusters.all fun i => s.fld R.PWR_CLU_PSTATE [i] 6 4 == 0 then
    (s.withPwr { s.pwr with throttling := false }).setBit R.PWR_STATUS [] 0 false
  else s

/-- POWER_CHECK (R412): the check of every 100 µs against the mean of the last 100 µs, mW. -/
def execPowerCheck (mean : Word) (s : State) : Host.Outcome State Fault Refusal :=
  s.awake fun s =>
    let s := s.poke R.PWR_PKG_EST [] mean
    let ceil := 1000 * s.fld R.PWR_PKG_CEIL [] 7 0
    if !s.bit R.PWR_CTRL [] 0 then s
    else if ceil < mean.toNat ∨ !s.pwr.rails.isEmpty then
      let first := !s.pwr.throttling
      let s := (s.withPwr { s.pwr with throttling := true, belowFor := 0 }).throttleStep
      if first then
        (((s.setBit R.PWR_STATUS [] 0 true).countSat R.PWR_CNT_THROTTLE [] 1 R.PWR_CNT_OVF [] 0).alert 5).pwrEvent 0x01 []
      else s
    else if s.pwr.throttling && decide (100 * mean.toNat < 95 * ceil) then
      let n := s.pwr.belowFor + 1
      let s := s.withPwr { s.pwr with belowFor := if 10 ≤ n then 0 else n }
      if 10 ≤ n then s.releaseStep else s
    else s.withPwr { s.pwr with belowFor := 0 }

/-! ### Currents (R413, R429) -/

/-- CURRENT_FAST_LIMIT (R413): PWR_STATUS shows it while it holds. -/
def execCurrentFastLimit (die : Fin 2) (high : Bool) (s : State) : Host.Outcome State Fault Refusal :=
  s.awake fun s =>
    let d := die.val
    let on := s.bit R.PWR_STATUS [] (1 + d)
    if s.dev.assembly.computeDies ≤ d ∨ on = high then s
    else if high then
      (((s.setBit R.PWR_STATUS [] (1 + d) true).countSat R.PWR_CNT_FASTLIM [] 1 R.PWR_CNT_OVF [] 1).alert 5).pwrEvent 0x02 []
    else s.setBit R.PWR_STATUS [] (1 + d) false

/-- The current of one rail, as read: a rail that does not answer reads 0xFFFF, and its first failure sends event 0x03. -/
def State.railRead (s : State) (r : Nat) (current : Option Half) : State :=
  let others := s.pwr.rails.filter (· != r)
  match current with
  | some v =>
    let excess := decide (2 ≤ r) && decide (s.fld R.PWR_RAIL_CEIL [r] 15 0 < v.toNat)
    (s.withPwr { s.pwr with rails := if excess then others ++ [r] else others }).poke R.PWR_RAIL_CUR [r] (v.setWidth 32)
  | none =>
    if r < 2 then s
    else
      let first := !s.pwr.silent.contains r
      let s := s.withPwr { s.pwr with rails := others, silent := if first then s.pwr.silent ++ [r] else s.pwr.silent }
      let s := s.poke R.PWR_RAIL_CUR [r] 0xFFFF
      if first then s.pwrEvent 0x03 [] else s

/-- RAIL_CURRENT_POLL (R413). -/
def execRailCurrentPoll (currents : Vector (Option Half) 12) (s : State) : Host.Outcome State Fault Refusal :=
  s.awake fun s => (rangeFrom 0 12).foldl (fun s r => s.railRead r (vecGet currents r none)) s

/-! ### Temperatures (R414–R416) -/

/-- Table 19.7: has the assembly the part that a sensor sits on? -/
def Assembly.hasSensor (a : Assembly) (i : Nat) : Bool :=
  if i < 16 then decide (i / 8 < a.computeDies)
  else if i < 18 then decide (i - 16 < a.computeDies)
  else if i < 20 then decide (i - 18 < a.memDies)
  else if i = 20 then true
  else decide (i - 21 < a.stacks)

/-- R416: a trip: the switched rails go, an error of class 3 is recorded, and a device reset with cause 4 follows. -/
def State.trip (s : State) : State :=
  let s := s.withPwr { s.pwr with enCmp0 := false, enCmp1 := false, enMem := false, tripped := true }
  let s := s.goFatal 0x14 (hubUnit 0x00010000) none
  (s.withDev { s.dev with resetAsked := some 4 })

/-- R415: `thm_lim` of a cluster after a sample: `hot`: its own sensor or one outside the clusters is at the threshold;
`cool`: they all read 3 °C below it. -/
def State.thermalStep (s : State) (i : Nat) (hot cool : Bool) : State :=
  let v := s.fld R.PWR_CLU_PSTATE [i] 10 8
  let n := vecGet s.pwr.coolFor i 0 + 1
  let keep (s : State) (k : Nat) : State := s.withPwr { s.pwr with coolFor := vecSet s.pwr.coolFor i k }
  if hot then (keep s 0 |>.setFld R.PWR_CLU_PSTATE [i] 10 8 (min 7 (v + 1))).pstateStart i
  else if cool && v != 0 then
    if 10 ≤ n then (keep s 0 |>.setFld R.PWR_CLU_PSTATE [i] 10 8 (v - 1)).pstateStart i else keep s n
  else keep s 0

/-- THERMAL_SAMPLE (R415, R416): readings are signed, in 1/16 °C. -/
def execThermalSample (temps : Vector Half 25) (s : State) : Host.Outcome State Fault Refusal :=
  s.mayReset fun s =>
    let there := (rangeFrom 0 25).filter s.dev.assembly.hasSensor
    let read (i : Nat) : Int := (vecGet temps i 0).toInt
    let s := there.foldl (fun s i => s.poke R.PWR_TEMP [i] ((vecGet temps i 0).setWidth 32)) s
    let thr : Int := 16 * s.fld R.PWR_THR_TEMP [] 7 0
    let tripAt : Int := 16 * s.fld R.PWR_TRIP_TEMP [] 7 0
    let hot := there.filter fun i => decide (tripAt ≤ read i)
    let trips := hot.any s.pwr.hot.contains
    let s := s.withPwr { s.pwr with
      hot := hot, tripped := s.pwr.tripped && decide (tripAt - 240 < read 20) }
    let other := there.filter fun i => decide (16 ≤ i)
    let otherHot := other.any fun i => decide (thr ≤ read i)
    let otherCool := other.all fun i => decide (read i ≤ thr - 48)
    let s := s.clusters.foldl (fun s i =>
      s.thermalStep i (otherHot || decide (thr ≤ read i)) (otherCool && decide (read i ≤ thr - 48))) s
    let on := s.clusters.any fun i => s.fld R.PWR_CLU_PSTATE [i] 10 8 != 0
    let s := if on && !s.bit R.PWR_STATUS [] 3 then s.alert 5 else s
    let s := s.setBit R.PWR_STATUS [] 3 on
    if trips then s.trip else s

/-- POWER_GOOD_LOSS (R416): a PG input falls while its rail is enabled. -/
def execPowerGoodLoss (rail : Fin 3) (s : State) : Host.Outcome State Fault Refusal :=
  s.awake fun s =>
    let x := s.pwr
    let on := match rail.val with | 0 => x.enCmp0 | 1 => x.enCmp1 | _ => x.enMem
    if !on then s
    else
      let y := match rail.val with
        | 0 => { x with enCmp0 := false }
        | 1 => { x with enCmp1 := false }
        | _ => { x with enMem := false }
      (s.withPwr y).goFatal 0x14 (hubUnit 0x00010000) none

/-! ### Gating (R408, R409) -/

/-- The domain that a name means. -/
def domainOf : DomainName → Domain
  | .core d k j => .core (siteOf d.val k.val j.val)
  | .sketch d k => .sketch (8 * d.val + k.val)
  | .pipe n => .pipe n.val
  | .output n => .output n.val
  | .engine n => .engine n.val
  | .capture => .capture

/-- Table 19.4: may a logical core's slot be gated: no slot is valid, every valid slot belongs to a parked partition, or, with
`gate_en`, no slot is resident and none holds a live task? -/
def State.coreGateable (s : State) (core : Nat) : Bool :=
  let slots := (rangeFrom 0 4).filter fun i => (s.share core i).valid
  let parked := slots.all fun i => s.bit R.SCH_PART_STATUS [(s.share core i).part] 0
  let idle := s.bit R.PWR_CTRL [] 1 && s.rd R.PWR_GATE_IDLE [] != 0
    && slots.all fun i => !s.slotResident (s.share core i).part i
  (s.coreSlots core).isEmpty && (parked || idle)

/-- Table 19.4: does a domain meet its condition? -/
def State.gateable (s : State) (d : DomainName) : Bool :=
  match d with
  | .core dd k j =>
    decide (dd.val < s.dev.assembly.computeDies) &&
      (s.siteFailed dd.val k.val j.val || (s.logicalsAt dd.val k.val j.val).all fun c => s.coreGateable c)
  | .sketch dd k =>
    decide (dd.val < s.dev.assembly.computeDies) &&
      (s.bit R.BRG_SKU_ABSENT [] (8 * dd.val + k.val) || s.clusterAbsent dd.val k.val
        || !(s.passes.any fun p => natBit p.mask (8 * dd.val + k.val)))
  | .pipe n => !s.bit R.DSP_CTRL [n.val] 0 && !s.bit R.DSP_MAP [n.val] 7
  | .output n => !s.bit R.EDP_CTRL [n.val] 0
  | .engine n => visEngines.contains n.val && (s.running n.val).isNone && (s.stoppedOn n.val).isNone
  | .capture => ((rangeFrom 0 4).all fun r => !s.bit R.CAP_RX_CTRL [r] 0) && (rangeFrom 0 2).all fun p => !s.bit R.CAP_AP_CFG [p] 0

/-- A gated core loses every state of its slots: what its arrays then hold is what they hold before anything is written
(log 7). -/
def State.loseCore (s : State) (core : Nat) : State :=
  (s.wipe (coreMemBase (core / 128) (core / 16 % 8) (core % 16)) 0x180000).clearSite (s.siteAt core)

/-- DOMAIN_GATE (R408). -/
def execDomainGate (domain : DomainName) (s : State) : Host.Outcome State Fault Refusal :=
  s.live fun s =>
    let g := domainOf domain
    if s.pwr.gated.contains g || !s.gateable domain then s
    else
      let s := s.withPwr { s.pwr with gated := s.pwr.gated ++ [g] }
      match domain with
      | .core d k j =>
        ((s.logicalsAt d.val k.val j.val).foldl State.loseCore s).clearSite (siteOf d.val k.val j.val)
      | _ => s

/-- DOMAIN_WAKE_END (R409): work bound for the domain goes on. -/
def execDomainWakeEnd (domain : DomainName) (s : State) : Host.Outcome State Fault Refusal :=
  s.live fun s =>
    let g := domainOf domain
    if !s.pwr.gated.contains g then s
    else
      let s := s.withPwr { s.pwr with gated := s.pwr.gated.filter (· != g) }
      match domain with
      | .sketch _ _ => s.sketchSchedule
      | .engine _ => s.visGo
      | _ => s

/-! ### Self-refresh (R417) -/

/-- R417: the latency tolerance of every client, ns: each running pipe's DSP_LTOL and each enabled receiver's free line
buffer at its lanes × 4.5 Gbit/s. -/
def State.tolerances (s : State) (free : Vector Nat 4) : List Nat :=
  let pipes := ((rangeFrom 0 5).filter s.pipeRuns).map fun p => 100 * s.fld R.DSP_LTOL [p] 15 0
  let rx := ((rangeFrom 0 4).filter fun r => s.bit R.CAP_RX_CTRL [r] 0).map fun r =>
    16 * vecGet free r 0 / (9 * 2 ^ s.fld R.CAP_RX_CTRL [r] 2 1)
  pipes ++ rx

/-- SELF_REFRESH_ENTRY (R417). -/
def execSelfRefreshEntry (stack : Fin 4) (free : Vector Nat 4) (s : State) : Host.Outcome State Fault Refusal :=
  s.live fun s =>
    let least := 12000 + 1000 * s.fld R.PWR_SR_CFG [] 31 16
    let static := (rangeFrom 0 4).any fun k => s.bit R.TIM_LCH_CFG [k] 0 && s.isStatic (s.fld R.TIM_LCH_CFG [k] 7 4)
    if stack.val < s.dev.assembly.stacks && !static && (s.tolerances free).all fun t => decide (least < t) then
      s.srEnter stack.val
    else s

/-- SELF_REFRESH_EXIT (R417): a request or a tolerance wakes the stack; the clocks that requests waited are counted. -/
def execSelfRefreshExit (stack : Fin 4) (stall : Word) (s : State) : Host.Outcome State Fault Refusal :=
  s.live fun s =>
    match s.srSince stack.val with
    | some _ => (s.srExit stack.val).count R.PWR_SR_WAKESTALL [stack.val] stall.toNat
    | none => s

end Sys2Proof.Machine
end

