-- ==== Sys2Proof/Machine/Security.lean ====
section
/-! DEFINITION. The key engine: the identity key, attestation reports and session keys (R397–R405). Operations are numbered
as the bits of SEC_CTRL. -/

namespace Sys2Proof.Machine

/-- R404: an operation fails with a code of Table 18.6: it changes no key, slot or report. -/
def State.secFail (s : State) (code : Nat) : State :=
  ((s.setFld R.SEC_STATUS [] 15 8 code).countSat R.SEC_CNT_FAIL [] 1 R.SEC_CNT_OVF [] 0).event 0x04 0 1 (leBytes 1 code)

/-- An operation that starts takes its address. -/
def State.secRun (s : State) (op addr : Nat) : State :=
  let s := s.withSec { s.sec with op := some op, opAddr := addr }
  (s.setBit R.SEC_STATUS [] 0 true).setFld R.SEC_STATUS [] 18 16 op

/-- Do `n` bytes from an address with this alignment lie in hub SRAM? -/
def inHub (a align n : Nat) : Bool := a % align == 0 && decide (hubBase ≤ a) && decide (a + n ≤ hubBase + hubSize)

/-- Is an identity key loaded? -/
def State.idLoaded (s : State) : Bool := s.bit R.SEC_STATUS [] 1

/-- SEC_PROVISION (R399). -/
def State.secProvision (s : State) : State :=
  let a := s.rdAddr R.SEC_ID_SRC_LO R.SEC_ID_SRC_HI []
  if s.sec.op.isSome then s.secFail 1
  else if !s.isReady [0] || s.sealed || s.idLoaded then s.secFail 2
  else if !inHub a 16 2416 then s.secFail 3
  else s.secRun 0 a

/-- SEC_UNWRAP (R400). -/
def State.secUnwrap (s : State) : State :=
  let a := s.rdAddr R.SEC_ID_SRC_LO R.SEC_ID_SRC_HI []
  if s.sec.op.isSome then s.secFail 1
  else if s.sealed || s.idLoaded then s.secFail 2
  else if !inHub a 16 2416 then s.secFail 3
  else s.secRun 1 a

/-- SEC_ATTEST (R401). -/
def State.secAttest (s : State) : State :=
  let a := s.rdAddr R.SEC_ATT_DST_LO R.SEC_ATT_DST_HI []
  if s.sec.op.isSome then s.secFail 1
  else if !s.idLoaded then s.secFail 2
  else if !inHub a 64 672 then s.secFail 3
  else s.secRun 2 a

/-- SEC_SK_LOAD (R403). -/
def State.secSkLoad (s : State) : State :=
  let a := s.rdAddr R.SEC_SK_SRC_LO R.SEC_SK_SRC_HI []
  if s.sec.op.isSome then s.secFail 1
  else if !s.idLoaded then s.secFail 2
  else if !(if s.sealed then a % 16 == 0 && populated s.dev.assembly a 384 else inHub a 16 384) then s.secFail 3
  else s.secRun 3 a

/-- The extended sequence number that the host stream has reached (R330): the next frame's. -/
def State.nextEsn (s : State) : Nat :=
  65536 * s.rd64 R.SCT_EPOCH_LO R.SCT_EPOCH_HI [] + s.fld R.SCT_STATUS [] 31 16

/-- SEC_SK_COMMIT (R403). After SEAL the key before it still applies to the host frames up to the one that carried the write
(R337): the frame that is applied has left its number behind. -/
def State.secSkCommit (s : State) : State :=
  if s.sec.op.isSome then s.secFail 1
  else
    match s.sec.pendingKey with
    | none => s.secFail 8
    | some k =>
      let old := match s.sec.currentKey with
        | some c => if s.sealed then [(s.nextEsn - 1, c)] else []
        | none => []
      let s := s.withSec { s.sec with pendingKey := none, currentKey := some k, oldKeys := old ++ s.sec.oldKeys }
      let s := (s.setBit R.SEC_STATUS [] 2 false).setBit R.SEC_STATUS [] 3 true
      let s := (s.setFld R.SEC_STATUS [] 18 16 4).setFld R.SEC_STATUS [] 15 8 0
      s.poke R.SEC_SK_KCV [] (BitVec.ofNat 32 (ofBe ((hmac k [0x4B, 0x43, 0x56]).drop 28)))

/-- A write of SEC_CTRL (R405): the lowest operation bit starts, and the others fail with 0x01. -/
def State.secCtrl (s : State) (value : Word) : State :=
  match (rangeFrom 0 5).filter (natBit value.toNat) with
  | [] => s
  | op :: others =>
    let t := match op with
      | 0 => s.secProvision
      | 1 => s.secUnwrap
      | 2 => s.secAttest
      | 3 => s.secSkLoad
      | _ => s.secSkCommit
    others.foldl (fun s _ => s.secFail 1) t

/-- SEC_PROVISION (R399). -/
def execSecProvision (s : State) : Host.Outcome State Fault Refusal := s.live State.secProvision

/-- SEC_UNWRAP (R400). -/
def execSecUnwrap (s : State) : Host.Outcome State Fault Refusal := s.live State.secUnwrap

/-- SEC_ATTEST (R401). -/
def execSecAttest (s : State) : Host.Outcome State Fault Refusal := s.live State.secAttest

/-- SEC_SK_LOAD (R403). -/
def execSecSkLoad (s : State) : Host.Outcome State Fault Refusal := s.live State.secSkLoad

/-- SEC_SK_COMMIT (R403). -/
def execSecSkCommit (s : State) : Host.Outcome State Fault Refusal := s.live State.secSkCommit

/-! ### The end of an operation (R404) -/

/-- The wrapping key (R397), with salt "ZGV-5840-ID". -/
def State.wrappingKey (s : State) (helper : List Byte) : List Byte :=
  hkdf32 [0x5A, 0x47, 0x56, 0x2D, 0x35, 0x38, 0x34, 0x30, 0x2D, 0x49, 0x44]
    (beBytes 32 (Config.pufSeed s.sec.capture helper).toNat)

/-- An operation ends well. -/
def State.secGood (s : State) : State := s.setFld R.SEC_STATUS [] 15 8 0

/-- An identity key is loaded, and its digest is shown. -/
def State.loadIdentity (s : State) (k : RsaKey) : State :=
  let d := keyDigest (beBytes 384 k.modulus)
  let s := s.withSec { s.sec with identity := some k }
  (rangeFrom 0 8).foldl (fun s i => s.poke R.SEC_ID_DIGEST [i] (BitVec.ofNat 32 (ofBe (sliceBytes d (4 * i) 4))))
    (s.setBit R.SEC_STATUS [] 1 true)

/-- The private part of a blob (Table 18.4). -/
def RsaKey.privatePart (k : RsaKey) : List Byte :=
  beBytes 192 k.p ++ beBytes 192 k.q ++ beBytes 192 k.dp ++ beBytes 192 k.dq ++ beBytes 192 k.qinv

/-- R399: a new identity. The key pair, the helper data and the nonce are free values; the modulus is the product of the
primes. -/
def State.endProvision (s : State) (a : Nat) : State :=
  let draw (i n : Nat) : Nat := (Config.freeBits n (s.free + i)).toNat
  let p := draw 0 1536
  let q := draw 1 1536
  let k : RsaKey := { modulus := p * q, p := p, q := q, dp := draw 2 1536, dq := draw 3 1536, qinv := draw 4 1536 }
  let helper := leBytes 1024 (draw 5 8192)
  let nonce := leBytes 12 (draw 6 96)
  let s := s.withFree (s.free + 7)
  let head := leBytes 4 0x4449475A ++ leBytes 2 1 ++ zeros 10 ++ helper ++ beBytes 384 k.modulus ++ beBytes 4 publicExponent
  let (ct, tag) := gcmEncrypt (s.wrappingKey helper) nonce head k.privatePart
  ((s.write a (head ++ nonce ++ ct ++ tag)).loadIdentity k).secGood

/-- R400: the identity of a blob. -/
def State.endUnwrap (s : State) (a : Nat) : State :=
  let b := s.bytes a 2416
  if leAt b 0 4 ≠ 0x4449475A ∨ leAt b 4 2 ≠ 1 ∨ ofBe (sliceBytes b 0x590 4) ≠ publicExponent then s.secFail 4
  else
    match gcmDecrypt (s.wrappingKey (sliceBytes b 0x10 1024)) (sliceBytes b 0x594 12) (b.take 0x594) (sliceBytes b 0x5A0 960)
        (sliceBytes b 0x960 16) with
    | none => s.secFail 5
    | some d =>
      let part (i : Nat) : Nat := ofBe (sliceBytes d (192 * i) 192)
      (s.loadIdentity { modulus := ofBe (sliceBytes b 0x410 384), p := part 0, q := part 1, dp := part 2, dq := part 3,
                        qinv := part 4 }).secGood

/-- A digest held in eight registers, most significant word first. -/
def State.digestOf (s : State) (r : Reg) : List Byte := ((rangeFrom 0 8).map fun i => beBytes 4 (s.rd r [i]).toNat).flatten

/-- Bytes 0x000–0x11F of an attestation report (Table 18.5). -/
def State.reportBody (s : State) : List Byte :=
  let flags := b2n (s.bit R.BRG_QZI_STATUS [] 1) + 2 * b2n s.sealed + 4 * s.fld R.DBG_UNLOCK [] 2 0
    + 32 * b2n (s.bit R.BRG_READY [] 20) + 64 * b2n (s.bit R.SEC_STATUS [] 3)
  let fw (i : Nat) : List Byte :=
    match s.brg.firmware.find? fun e => e.ident == i with | some e => sliceBytes e.digest 0 32 | none => zeros 32
  leBytes 4 0x5454415A ++ leBytes 2 1 ++ zeros 2 ++ leBytes 4 (s.rd R.BRG_ID []).toNat
    ++ leBytes 4 (s.rd R.BRG_QZI_VERSION []).toNat
    ++ ((rangeFrom 0 8).map fun i => leBytes 4 (s.rd R.SEC_ATT_NONCE [i]).toNat).flatten
    ++ s.identityDigest ++ s.digestOf R.BRG_QZI_DIGEST ++ s.digestOf R.BRG_QZI_WDIGEST
    ++ fw 1 ++ fw 2 ++ fw 3 ++ fw 4 ++ leBytes 8 s.now ++ leBytes 4 flags ++ leBytes 4 (s.rd R.SEC_ATT_COUNT []).toNat

/-- R401: the report, signed with the identity key; the salt of the signature is a free value. -/
def State.endAttest (s : State) (a : Nat) (k : RsaKey) : State :=
  let body := s.reportBody
  let em := pssEncode body (leBytes 32 (s.drawn 256).toNat) (k.modulus.log2 + 1)
  let sig := beBytes 384 (rsaPrivate k.p k.q k.dp k.dq k.qinv (ofBe em))
  ((s.draw.write a (body ++ sig)).count R.SEC_ATT_COUNT [] 1).secGood

/-- R403: the session key of a ciphertext. -/
def State.endSkLoad (s : State) (a : Nat) (k : RsaKey) : State :=
  let c := ofBe (s.bytes a 384)
  match oaepDecode (beBytes 384 (rsaPrivate k.p k.q k.dp k.dq k.qinv c)) with
  | none => s.secFail 6
  | some key =>
    if c < k.modulus ∧ key.length = 32 then
      ((s.withSec { s.sec with pendingKey := some key }).setBit R.SEC_STATUS [] 2 true).secGood
    else s.secFail 6

/-- The operation that runs ends; `trngOk`: the health tests of the TRNG pass. -/
def State.secEnd (s : State) (trngOk : Bool) : State :=
  match s.sec.op with
  | none => s
  | some op =>
    let a := s.sec.opAddr
    let s := s.withSec { s.sec with op := none, opAddr := 0 }
    let s := (s.setBit R.SEC_STATUS [] 0 false).setBit R.SEC_STATUS [] 4 trngOk
    match op, s.sec.identity with
    | 0, _ => if trngOk then s.endProvision a else s.secFail 7
    | 1, _ => s.endUnwrap a
    | 2, some k => if trngOk then s.endAttest a k else s.secFail 7
    | 3, some k => s.endSkLoad a k
    | _, _ => s.secFail 2

/-- SEC_OPERATION_END (R404). -/
def execSecOperationEnd (trngOk : Bool) (s : State) : Host.Outcome State Fault Refusal := s.live (State.secEnd · trngOk)

end Sys2Proof.Machine
end

