-- ==== Sys2Proof/Machine/Pins.lean ====
section
/-! DEFINITION. RESET_N, REFCLK and the straps (R300, R301, R323, R422–R424), and the JTAG port (R378, R390, R426). -/

namespace Sys2Proof.Machine

/-- BRG_ID (Table 13.7): assembly, stepping B0, the dies present. -/
def Assembly.id (a : Assembly) : Word :=
  let code : Nat := match a with | .x => 0 | .c => 1 | .m => 2 | .s => 3
  let dies := 1 + ((rangeFrom 0 4).map fun d => if a.hasDie d then 2 ^ (d + 1) else 0).sum
  BitVec.ofNat 32 (code + 0x100 + 4096 * dies)

/-- R422, R323: the straps are latched; they give the bring-up port, its mode and the device number. -/
def State.latchStraps (s : State) (straps : Byte) : State :=
  let v := straps.toNat % 64
  let port := v % 2
  let s := (s.poke R.BRG_STRAP [] (BitVec.ofNat 32 v)).poke R.BRG_ID [] s.dev.assembly.id
  let s := s.poke R.ETH_CTRL [port] (BitVec.ofNat 32 (1 + 2 * (v / 2 % 4)))
  let s := (rangeFrom 0 2).foldl (fun s p =>
    s.poke R.ETH_MAC_LO [p] (BitVec.ofNat 32 (0x47000000 + 256 * (v / 8) + p))) s
  (s.withDev { s.dev with straps := BitVec.ofNat 32 straps.toNat })

/-- R300: a hub array that cannot be repaired withdraws the block that holds it. -/
def State.hubArrayFault (s : State) (f : HubFault) : State :=
  match f with
  | .pipe n => s.withdrawPipe n.val 1
  | .engine e => s.withdrawVision e.val 1
  | .vital => s.withBrg { s.brg with hubBad := true }

/-- R300: step 1 of bring-up. The PUF is captured before anything writes to its array (R397), and the nonce of DBG is drawn
(R379). -/
def State.release (s : State) (straps : Byte) (faults : List HubFault) : State :=
  let s := s.draw.withSec { s.sec with capture := s.free }
  let s := (s.latchStraps straps).newNonce
  let s := faults.foldl State.hubArrayFault s
  if s.brg.hubBad then s
  else (((s.setBit R.BRG_READY [] 0 true).setBit R.BRG_READY [] 2 true).setBit R.BRG_READY [] 1 true).bootEvent

/-- RESET_RELEASE (R300): the ball rises; the device leaves reset unless REFCLK holds it (R424). -/
def execResetRelease (straps : Byte) (faults : List HubFault) (s : State) : Host.Outcome State Fault Refusal :=
  let t := s.withDev { s.dev with resetLow := false }
  .next (if !s.dev.inReset then s else if s.dev.refclkLost then t else (t.release straps faults).settle s.pending)

/-- RESET_N_ASSERT (R423). -/
def execResetNAssert (s : State) : Host.Outcome State Fault Refusal :=
  let t := s.withDev { s.dev with resetLow := true }
  .next (if s.dev.inReset then t else t.deviceReset 1)

/-- REFCLK_LOSS (R424): the device is held in reset as by RESET_N. -/
def execRefclkLoss (s : State) : Host.Outcome State Fault Refusal :=
  let t := if s.dev.inReset then s else s.deviceReset 1
  .next (t.withDev { t.dev with refclkLost := true })

/-- REFCLK_RETURN (R424): REFCLK has run for 1 ms; the device leaves the reset unless RESET_N is low. -/
def execRefclkReturn (straps : Byte) (faults : List HubFault) (s : State) : Host.Outcome State Fault Refusal :=
  let t := s.withDev { s.dev with refclkLost := false }
  .next (if !s.dev.refclkLost then s else if s.dev.resetLow then t else (t.release straps faults).settle s.pending)

/-! ### The JTAG port -/

/-- JTAG_INSTRUCTION (R426, R378, R390): the mandatory instructions and IDCODE; SCAN with the service scope while the device is
stopped. An instruction that is not available selects BYPASS. What the boundary register and a scan chain hold, the spec
does not say. -/
def execJtagInstruction (instr : JtagInstr) (s : State) : Host.Outcome State Fault Refusal :=
  s.awake fun s =>
    let set (s : State) (code : Nat) (data : Word) : State := s.withDbg { s.dbg with jtag := code, jtagData := data }
    match instr with
    | .bypass => set s 0 0
    | .idcode => set s 1 0x158400B5
    | .sample => set s.draw 2 (s.drawn 32)
    | .extest => set s.draw 3 (s.drawn 32)
    | .scan _ _ => if s.scope 2 && s.stopped then set s.draw 4 (s.drawn 32) else set s 0 0

end Sys2Proof.Machine
end

