-- ==== Sys2Proof/Machine/RegRead.lean ====
section
/-! DEFINITION. CFG space (R9, R10, R24, R334, R335): which register an address is, whether an access reaches it, and what a
read returns. -/

namespace Sys2Proof.Machine

/-! ### Addresses -/

/-- The QZI staging window (R24). -/
def inStaging (a : Nat) : Bool := decide (0x800000 ≤ a) && decide (a < 0x1000000)

/-- The DEV address behind an address of the staging window. -/
def stagingDev (a : Nat) : Nat := hubBase + (a - 0x800000)

/-- The bring-up register set (R334). -/
def inBringupSet (a : Nat) : Bool :=
  decide (a < 0x70000) || (decide (0x100000 ≤ a) && decide (a < 0x150000)) || (decide (0x180000 ≤ a) && decide (a < 0x190000))
    || (decide (0x240000 ≤ a) && decide (a < 0x260000)) || (decide (0x500000 ≤ a) && decide (a < 0x510000)) || inStaging a

/-- The blocks that a global stop leaves running (R389): BRG, PWR, TIM, ETH0, ETH1, SCT, the outputs, GPIO, DBG and ERR. -/
def inKeepAlive (a : Nat) : Bool :=
  (decide (a < 0x70000) && a / 0x10000 != 3) || (decide (0x180000 ≤ a) && decide (a < 0x190000))
    || (decide (0x250000 ≤ a) && decide (a < 0x260000)) || (decide (0x400000 ≤ a) && decide (a < 0x410000))
    || (decide (0x500000 ≤ a) && decide (a < 0x510000))

/-- R335: does an address reach its die: the die is there and powered, and the cluster is not withdrawn? Dies C0, C1, M0 and
M1 lie at 0x10000000 × (1 + their number). -/
def State.dieReached (s : State) (a : Nat) : Bool :=
  let d := a / 0x10000000
  if d = 0 ∨ 5 ≤ d then true
  else
    let k := a / 0x01000000 % 16
    s.dev.assembly.hasDie (d - 1) && s.bit R.BRG_READY [] (8 + d) && !(decide (d ≤ 2) && decide (k < 8) && s.clusterAbsent (d - 1) k)

/-! ### Registers whose value follows other state -/

/-- A field of a derived register. -/
def fieldAt (lo v : Nat) : Nat := v * 2 ^ lo

/-- SYN_SUMMARY (R60). -/
def State.synSummary (s : State) : Nat :=
  ((rangeFrom 0 4).map fun o =>
    let on := s.synOn o
    fieldAt o (b2n on) + fieldAt (4 + o) (b2n (on && s.adpMode o == 2)) + fieldAt (8 + o) (s.fld R.SYN_ADP_STATUS [o] 6 6)).sum

/-- SCH_CTXc_STATUS. -/
def State.ctxStatus (s : State) (c : Nat) : Nat :=
  let live := (s.sch.tasks.filter fun t => t.ctx == c && t.started).length
  b2n (s.ctxDown c) + fieldAt 8 (min 255 live) + fieldAt 16 (min 255 (s.laybyUsed c))

/-- CORE_STATUS of a physical slot. -/
def State.coreStatus (s : State) (d k j : Nat) : Nat :=
  let held := bits (s.rd R.CORE_STATUS [d, k, j]) 2 0
  match (rangeFrom (128 * d + 16 * k) 16).find? fun c => s.physOf c == j && !s.coreAbsent c with
  | none => held
  | some c =>
    let one (i : Nat) : Nat :=
      let x := s.slotAt c i
      fieldAt (4 + i) (b2n x.isSome) + fieldAt (8 + i) (b2n (match x with | some x => x.halted | none => false))
        + fieldAt (12 + i) (b2n (s.slotFault c i))
    held + ((rangeFrom 0 4).map one).sum

/-- BOX_STATUS of a cluster. -/
def State.boxStatus (s : State) (u : Nat) : Nat :=
  let calls := s.boxes.filter fun b => b.cluster == u
  let run := calls.find? fun b => b.running
  b2n run.isSome + fieldAt 1 (match run with | some b => b.prio | none => 0)
    + ((rangeFrom 0 4).map fun p => fieldAt (3 + p) (b2n (calls.any fun b => b.started && b.prio == p))).sum
    + fieldAt 8 (calls.filter fun b => !b.started).length

/-- SKU_STATUS of a sketch unit; how many tiles are in flight while the tile phase runs is open. -/
def State.skuStatus (s : State) (u : Nat) : Nat :=
  let mine := s.passes.filter fun p => natBit p.mask u
  let binning := mine.find? fun p => p.phase == .binning && p.lead == u
  let tiles := mine.find? fun p => p.phase == .partialTiles || p.phase == .tiles
  let run := match binning with | some p => some p | none => tiles
  b2n run.isSome + fieldAt 1 (b2n binning.isSome) + fieldAt 2 (match run with | some p => p.prio | none => 0)
    + fieldAt 4 (min 16 (mine.filter fun p => p.phase == .pending).length)
    + fieldAt 9 (if tiles.isSome then min 8 (s.drawn 4).toNat else 0)
    + fieldAt 13 (b2n (mine.any fun p => p.phase == .stopped))

/-- VIS_CD_STATUS. -/
def State.visStatus (s : State) : Nat :=
  let n := s.vis.chains.length
  let held := (s.rd R.VIS_CD_STATUS []).toNat
  held / 1024 * 1024 + min n 256 + fieldAt 9 (b2n (decide (256 ≤ n)))

/-- VIS_ENG_STATUS. -/
def State.engineStatus (s : State) (e : Nat) : Nat :=
  let held := (s.rd R.VIS_ENG_STATUS [e]).toNat
  held / 16 * 16 + (match s.running e with | some (c, _) => 1 + fieldAt 1 c.prio | none => 0)
    + fieldAt 3 (b2n (s.stoppedOn e).isSome)

/-- The ports on which SCT runs (R333). -/
def State.sctPorts (s : State) : List Nat :=
  match s.fld R.SCT_CTRL [] 1 0 with
  | 0 => [s.fld R.BRG_STRAP [] 0 0]
  | 2 => [1]
  | _ => [0, 1]

/-- Is a port's link up? -/
def State.linkUp (s : State) (p : Nat) : Bool := s.bit R.ETH_CTRL [p] 0 && s.bit R.ETH_STATUS [p] 0

/-- SCT_ALERT_STATUS (R342): source 0 follows the enabled pipe interrupts (R237), source 2 the link. -/
def State.alertStatus (s : State) : Nat :=
  let pipes := (rangeFrom 0 5).any fun p =>
    s.bit R.DSP_CTRL [p] 4 && s.rd R.DSP_IRQ_STATUS [p] &&& s.rd R.DSP_IRQ_EN [p] != 0
  (s.rd R.SCT_ALERT_STATUS [] &&& 0x7A).toNat + b2n pipes + fieldAt 2 (b2n (!(s.sctPorts.any s.linkUp)))

/-- ALERT_N (R342): is it driven low? -/
def State.alertLow (s : State) : Bool :=
  !s.dev.inReset && BitVec.ofNat 32 s.alertStatus &&& (s.rd R.SCT_ALERT_EN [] ||| 1) != 0

/-- SCT_STATUS. -/
def State.sctStatus (s : State) : Nat :=
  b2n s.sealed + fieldAt 1 (b2n s.sec.currentKey.isSome) + fieldAt 2 (min 63 s.sct.held.length)
    + fieldAt 16 (s.fld R.SCT_STATUS [] 31 16)

/-- PWR_STATUS. -/
def State.pwrStatus (s : State) : Nat :=
  let asleep := ((rangeFrom 0 4).filter fun st => (vecGet s.pwr.refresh st none).isSome).length
  let gone := ((rangeFrom 0 16).filter fun i => s.bit R.BRG_CLU_ABSENT [] i).length
  bits (s.rd R.PWR_STATUS []) 7 0 + fieldAt 8 (min 255 (s.pwr.gated.length + asleep + gone))

/-- DBG_INSP_DATA (R386): a value of a halted slot of a context that is granted. The control core's registers are not
state of the model. -/
def State.inspected (s : State) : Word :=
  let sel := s.rd R.DBG_INSP_SEL []
  let i := bits sel 31 12
  match s.slotAt (bits sel 7 0) (bits sel 9 8) with
  | none => 0
  | some x =>
    if !x.halted || !s.ctxGranted (x.qid / 256) then 0
    else
      match bits sel 11 10 with
      | 0 => if i = 32 then x.image.pc else if i < 32 then s.drawn 32 else 0
      | 1 => match x.image.regs.find? fun e => e.1 == i with | some e => e.2 | none => 0
      | 2 =>
        match x.image.engines.toList[i / 16384]? with
        | some e => match e.acc.find? fun r => r.1 == i / 16 % 1024 with | some r => r.2.getD (i % 16) 0 | none => 0
        | none => 0
      | _ => if i < 32 then BitVec.ofNat 32 (vecGet x.image.events i 0).toNat else 0

/-- GPIO_IN (Table 20.4): a ball that is an output shows what it drives; what the board drives is open. -/
def State.gpioIn (s : State) : Word :=
  let oe := s.rd R.GPIO_OE []
  (s.rd R.GPIO_OUT [] &&& oe) ||| (s.drawn 32 &&& ~~~oe &&& 0xFFFF)

/-- A read of a register that the model does not hold as such: its value follows other state, or is open. Each read draws a
free value. -/
def derivedReads : List (Reg × (State → List Nat → Word)) :=
  [(R.SYN_SUMMARY, fun s _ => BitVec.ofNat 32 s.synSummary),
   (R.SCH_CTX_STATUS, fun s ix => BitVec.ofNat 32 (s.ctxStatus (ix.getD 0 0))),
   (R.CORE_STATUS, fun s ix => BitVec.ofNat 32 (s.coreStatus (ix.getD 0 0) (ix.getD 1 0) (ix.getD 2 0))),
   (R.BOX_STATUS, fun s ix => BitVec.ofNat 32 (s.boxStatus (8 * ix.getD 0 0 + ix.getD 1 0))),
   (R.SKU_STATUS, fun s ix => BitVec.ofNat 32 (s.skuStatus (8 * ix.getD 0 0 + ix.getD 1 0))),
   (R.VIS_CD_STATUS, fun s _ => BitVec.ofNat 32 s.visStatus),
   (R.VIS_ENG_STATUS, fun s ix => BitVec.ofNat 32 (s.engineStatus (ix.getD 0 0))),
   (R.SCT_ALERT_STATUS, fun s _ => BitVec.ofNat 32 s.alertStatus),
   (R.SCT_STATUS, fun s _ => BitVec.ofNat 32 s.sctStatus),
   (R.PWR_STATUS, fun s _ => BitVec.ofNat 32 s.pwrStatus),
   (R.BRG_BOOT_STATUS, fun s _ => if s.brg.hubBad then 0 else s.rd R.BRG_BOOT_STATUS []),
   (R.TIM_NOW_LO, fun s _ => BitVec.ofNat 32 s.now),
   (R.TIM_NOW_HI, fun s _ => s.tim.latchedHi),
   (R.TIM_NOW_FRAC, fun s _ => s.tim.latchedFrac),
   (R.DBG_INSP_DATA, fun s _ => s.inspected),
   (R.DBG_SCAN_INFO, fun s _ => if s.scope 2 then s.drawn 32 else 0),
   (R.GPIO_IN, fun s _ => s.gpioIn),
   (R.CAP_RX_STATUS, fun s ix => if s.bit R.CAP_RX_CTRL ix 0 then s.drawn 32 &&& 3 else 0)]

/-- The entry of a list for a register. -/
def forReg {α : Type} (xs : List (Reg × α)) (r : Reg) : Option α := (xs.find? fun e => e.1.base == r.base).map (·.2)

/-! ### Counters of stalls (R105, R122) -/

/-- Has a counter of lost clocks of a physical slot anything to count: has a slot run there (of a static-schedule partition for
CORE_CNT_STATCONF, the slot itself for its own counters)? -/
def State.stallsCount (s : State) (r : Reg) (ix : List Nat) : Bool :=
  let site := siteOf (ix.getD 0 0) (ix.getD 1 0) (ix.getD 2 0)
  let ran := (s.sch.ran.filter fun e => e.1 == site).map (·.2)
  if r.base = R.CORE_CNT_BANKCONF.base then !ran.isEmpty
  else if r.base = R.CORE_CNT_STATCONF.base then ran.any fun i => s.isStatic (s.fld R.CORE_SLOT_EXE (ix ++ [i]) 27 24)
  else if r.base = R.CORE_SLOT_REFSTALL.base ∨ r.base = R.CORE_SLOT_RETRYSTALL.base then ran.contains (ix.getD 3 0)
  else false

/-- R282: ENERGY_UJ of a context that has run or moved bytes has grown since its last read, by an estimate that is open
(log 64). -/
def State.advanceEnergy (s : State) (ctx : Nat) : State :=
  if [0, 1, 2, 3].any fun i => s.rd R.SCH_CTX_ACCT [ctx, i] != 0 then s.draw.account ctx 2 (s.drawn 32).toNat else s

/-- Before a counter of lost clocks, or of energy, is read: it has counted since its last read, by a number that is open
(log 64). -/
def State.advanceStalls (s : State) (r : Reg) (ix : List Nat) : State :=
  if s.stallsCount r ix then
    if r.base = R.CORE_CNT_STATCONF.base then s.draw.countSat r ix (s.drawn 32).toNat R.CORE_CNT_OVF ix 0
    else s.draw.count r ix (s.drawn 32).toNat
  else if r.base = R.SCH_CTX_ACCT.base ∧ ix.getD 1 0 / 2 = 2 then s.advanceEnergy (ix.getD 0 0)
  else s

/-! ### Reads -/

/-- R380: does the debug scope that a register needs stand? PMC and TRC need the global scope; of DBG, the unlock registers
(0x000–0x028) and DBG_POLICY need none. -/
def State.debugReach (s : State) (a : Nat) : Bool :=
  if 0x440000 ≤ a ∧ a < 0x490000 then s.scope 1
  else if 0x400000 ≤ a ∧ a < 0x410000 then unlockRegs.any (fun r => (locate r a).isSome) || s.scope 0 || s.scope 1 || s.scope 2
  else true
where
  /-- The unlock registers. -/
  unlockRegs : List Reg :=
    [R.DBG_NONCE, R.DBG_TOKEN_LO, R.DBG_TOKEN_HI, R.DBG_UNLOCK, R.DBG_POLICY, R.DBG_UNLOCK_CTX_LO, R.DBG_UNLOCK_CTX_HI,
     R.DBG_LOCK]

/-- A read of a register: its value, and what the read changes. -/
def State.readReg (s : State) (r : Reg) (ix : List Nat) : State × Word :=
  let s := s.advanceStalls r ix
  let v := match forReg derivedReads r with
    | some f => f s ix &&& ~~~r.wo
    | none => s.rd r ix &&& ~~~r.wo
  let t := if (forReg derivedReads r).isSome then s.draw else s
  if r.base = R.TIM_NOW_LO.base then
    (t.withTim { t.tim with latchedHi := BitVec.ofNat 32 (s.now / 2 ^ 32),
                                  latchedFrac := BitVec.ofNat 32 (s.tim.base.toNat % 2 ^ 32) }, v)
  else if r.base = R.DBG_SCAN_DATA.base then
    if s.scope 2 && s.stopped then (s.scanShift, s.scanShift.rd R.DBG_SCAN_DATA []) else (s, 0)
  else if r.rc ≠ 0 then (t.poke r ix (t.rd r ix &&& ~~~r.rc), v)
  else (t, v)

/-- A read item of a CFG address (R10, R328, R334, R335, R380, R390): its value and its status. -/
def State.cfgRead (s : State) (a : Nat) : State × Word × Nat :=
  if a % 4 ≠ 0 then (s, 0, 0x10)
  else if !s.dieReached a || (s.stopped && !inKeepAlive a) then (s, 0, 0x13)
  else if inStaging a then
    match s.readError (stagingDev a) 4 with
    | some w => (s.readerEnds .sct w, 0, 0x11)
    | none => (s, BitVec.ofNat 32 (s.le (stagingDev a) 4), 0)
  else
    match findReg R.regTable a with
    | some (r, ix) => if s.debugReach a then let (t, v) := s.readReg r ix; (t, v, 0) else (s, 0, 0)
    | none => (s, 0, 0)

end Sys2Proof.Machine
end

