-- ==== Sys2Proof/Machine/RegWrite.lean ====
section
/-! DEFINITION. Writes to CFG space (R9–R11, R227, R334, R335): the access codes, and the writes that do more than store. -/

namespace Sys2Proof.Machine

/-! ### What a write stores -/

/-- R9, R11: RW bits take the value, RWL bits before SEAL, W1C bits where a 1 is written; a write to an RWL field after SEAL
has status 0x13. -/
def State.mergeWrite (s : State) (r : Reg) (ix : List Nat) (value : Word) : State × Nat :=
  let locked := s.sealed && r.rwl != 0
  let w := r.rw ||| (if locked then 0 else r.rwl)
  let old := s.rd r ix
  (s.poke r ix (((old &&& ~~~w) ||| (value &&& w)) &&& ~~~(value &&& r.w1c)), if locked then 0x13 else 0)

/-- The state that a command's own meaning leaves. -/
def State.took (s : State) (f : State → Host.Outcome State Fault Refusal) : State × Nat :=
  match f s with
  | .next t => (t, 0)
  | _ => (s, 0)

/-- A write that starts something: the state that it leaves, and the status of its item. -/
abbrev WriteHook := State → List Nat → Word → State × Nat

/-- R68. -/
def hookLocked (k : SynLocked) : WriteHook := fun s ix v => s.took (execSynLockedWrite (Fin.ofNat 4 (ix.headD 0)) k v)

/-- R68. -/
def hookTested (k : SynTested) : WriteHook := fun s ix v => s.took (execSynTestedWrite (Fin.ofNat 4 (ix.headD 0)) k v)

/-- SYN_CTRL. -/
def hookSynCtrl : WriteHook := fun s ix v =>
  let o := Fin.ofNat 4 (ix.headD 0)
  s.took (if bits v 0 0 = 1 then execSynEnable o v else execSynDisable o v)

/-- SYN_ADP_BUF: unpins that waited for a buffer that the output named take effect (R75). -/
def hookAdpBuf : WriteHook := fun s ix v => ((s.poke R.SYN_ADP_BUF ix v).applyUnpins, 0)

/-- SYN_ADP_CTRL: `adp_mode` (R88) and `rearm` (R87). -/
def hookAdpCtrl : WriteHook := fun s ix v =>
  let o := ix.headD 0
  let was := s.rd R.SYN_ADP_CTRL [o]
  let s := s.poke R.SYN_ADP_CTRL [o] ((v &&& 0x1F0FFF00) ||| (was &&& 3))
  let s := s.adpSetMode o (bits v 1 0)
  (if bits v 31 31 = 1 then s.adpRearm o else s, 0)

/-- R77: a last-output surface of an output under synthesis does not change. -/
def hookLco (r : Reg) : WriteHook := fun s ix v =>
  match s.outputOf (ix.headD 0) with
  | some o => if s.bit R.SYN_CTRL [o] 0 then (s, 0) else s.mergeWrite r ix v
  | none => s.mergeWrite r ix v

/-- DSP_CTRL: the timing generator starts, or stops and leaves what was armed or latched in force. -/
def hookDspCtrl : WriteHook := fun s ix v =>
  let p := ix.headD 0
  let was := s.pipeRuns p
  let s := (s.mergeWrite R.DSP_CTRL ix v).1
  if bits v 0 0 = 1 then (s.pipeStart p, 0)
  else if was then
    let s := s.setBit R.DSP_STATUS [p] 0 false
    let s := match (s.pipe p).latched with
      | some l => s.applyCommit p l
      | none => s
    (if s.bit R.DSP_COMMIT [p] 17 then s.commitNow p else s, 0)
  else (s, 0)

/-- DSP_MAP: a failed pipe whose `to_en` is first 1 is taken over (R300). -/
def hookDspMap : WriteHook := fun s ix v =>
  let (s, st) := s.mergeWrite R.DSP_MAP ix v
  (s.envFlags.lateTakeover (ix.headD 0), st)

/-- EDP_SRC (R212): `env_valid` follows the mapping. -/
def hookEdpSrc : WriteHook := fun s ix v =>
  let (s, st) := s.mergeWrite R.EDP_SRC ix v
  (s.envFlags, st)

/-- DSP_COMMIT (R227). -/
def hookCommit : WriteHook := fun s ix v =>
  if bits v 16 16 = 1 then s.took (execCommitArm (Fin.ofNat 5 (ix.headD 0)) v) else s.mergeWrite R.DSP_COMMIT ix v

/-- EDP_CTRL (R215); the panel's answers come with a TRAIN command. -/
def hookEdpCtrl : WriteHook := fun s ix v =>
  if bits v 1 1 = 1 then s.took (execTrain (Fin.ofNat 4 (ix.headD 0)) v none) else s.mergeWrite R.EDP_CTRL ix v

/-- EDP_AUX_CMD (R216). -/
def hookAuxCmd : WriteHook := fun s ix v =>
  if bits v 8 8 = 1 then (s.auxStart (ix.headD 0) (bits v 1 0) (bits v 7 4), 0) else s.mergeWrite R.EDP_AUX_CMD ix v

/-- CAP_Vn_CTRL (R246). -/
def hookCapCtrl : WriteHook := fun s ix v =>
  if bits v 0 0 = 0 then s.took (execCaptureDisable (Fin.ofNat 16 (ix.headD 0)) v) else s.mergeWrite R.CAP_V_CTRL ix v

/-- CAP_FSk_CTRL (R247). -/
def hookFsCtrl : WriteHook := fun s ix v =>
  let k := ix.headD 0
  if bits v 0 0 = 1 then s.took (execFsyncEnable (Fin.ofNat 4 k) v)
  else
    let s := (s.mergeWrite R.CAP_FS_CTRL ix v).1
    (s.setFs k { s.fs k with running := false }, 0)

/-- R247: START, PERIOD and WIDTH while `en` = 1. -/
def hookFsValue (r : Reg) : WriteHook := fun s ix v => if s.bit R.CAP_FS_CTRL ix 0 then (s, 0) else s.mergeWrite r ix v

/-- I2C_CMD (R250). -/
def hookI2c : WriteHook := fun s ix v =>
  if bits v 31 31 = 1 then s.took (execI2cCommand (Fin.ofNat 4 (ix.headD 0)) v) else s.mergeWrite R.I2C_CMD ix v

/-- SCH_SEMk_CTRL (R275). -/
def hookSem : WriteHook := fun s ix v =>
  let k := Fin.ofNat 4096 (ix.headD 0)
  let s := if bits v 0 0 = 1 then (s.took (execSemForceRel k)).1 else s
  if bits v 1 1 = 1 then s.took (execSemClrAbandoned k) else (s, 0)

/-- SCH_PARTp_PARK (R270). -/
def hookPark : WriteHook := fun s ix v =>
  let p := Fin.ofNat 16 (ix.headD 0)
  s.took (if bits v 0 0 = 1 then execPark p else execUnpark p)

/-- BRG_QZI_CTRL (R291, R293): both are ignored with 0x13 once sealed. -/
def hookQzi : WriteHook := fun s _ v =>
  if s.sealed && bits v 1 0 != 0 then (s, 0x13)
  else
    let s := if bits v 0 0 = 1 then (s.took (execQziVerify)).1 else s
    if bits v 1 1 = 1 then s.took (execQziSeal) else (s, 0)

/-- BRG_BOOT_CTRL (R297), step by step. -/
def hookBoot : WriteHook := fun s _ v =>
  ((rangeFrom 0 10).foldl (fun s i =>
    if natBit v.toNat i then
      (s.took (if i < 4 then execDiePowerUp (Fin.ofNat 4 i)
        else if i = 4 then execLinkTraining
        else if i < 7 then execDramTraining (Fin.ofNat 2 (i - 5))
        else if i < 9 then execSelfTest (Fin.ofNat 2 (i - 7))
        else execFirmwareBroadcast)).1
    else s) s, 0)

/-- BRG_RPT_SIZE (R313). -/
def hookReport : WriteHook := fun s ix v =>
  let kept := (v &&& 0x80000000) ||| (s.rd R.BRG_RPT_SIZE [] &&& 0x1FFF)
  (s.mergeWrite R.BRG_RPT_SIZE ix kept).1.took (execReportRingSet v)

/-- ETH_GCLe_TIME (R324): a new list is whole when its last entry is written. -/
def hookGcl : WriteHook := fun s ix v =>
  let (t, st) := s.mergeWrite R.ETH_GCL_TIME ix v
  let p := ix.headD 0
  if st = 0 ∧ ix.getD 1 0 + 1 = s.fld R.ETH_GCL_COUNT [p] 8 0 then
    (t.withEth { t.eth with newList := vecSet t.eth.newList p true }, 0)
  else (t, st)

/-- A register of the error ring (R363). -/
def hookErrRing (r : Reg) : WriteHook := fun s ix v => let (s, st) := s.mergeWrite r ix v; (s.updateErrRing, st)

/-- ERR_CTRL (R363, R374). -/
def hookErrCtrl : WriteHook := fun s ix v => (((s.mergeWrite R.ERR_CTRL ix v).1.updateErrRing).autoReset, 0)

/-- ERR_PRST (R370). -/
def hookPrst : WriteHook := fun s _ v =>
  ((rangeFrom 0 16).foldl (fun s p =>
    if natBit v.toNat p then (s.took (execPartitionReset (Fin.ofNat 16 p) none)).1 else s) s, 0)

/-- DBG_STOP (R389, R391). -/
def hookStop : WriteHook := fun s _ v =>
  if bits v 0 0 = 1 then (if s.stopAllowed then (s.stopWrite v, 0) else (s, 0x13))
  else if bits v 1 1 = 1 then (s.stopRelease, 0)
  else (s, 0)

/-- DBG_BPb_CTRL (R384). -/
def hookBp : WriteHook := fun s ix v =>
  if bits v 0 0 = 1 then (s.bpArm (ix.headD 0) v, 0) else s.mergeWrite R.DBG_BP_CTRL ix v

/-- DBG_RUN (R386). -/
def hookRun : WriteHook := fun s _ v =>
  let c := bits v 7 0
  let n : SlotName := { at_ := { die := Fin.ofNat 2 (c / 128), cluster := Fin.ofNat 8 (c / 16), core := Fin.ofNat 16 c },
                        slot := Fin.ofNat 4 (bits v 9 8) }
  let all := bits v 12 12 == 1
  (if bits v 11 11 = 1 then s.debugRun n all true else if bits v 10 10 = 1 then s.debugRun n all false else s, 0)

/-- DBG_SCAN_SEL (R390). -/
def hookScanSel : WriteHook := fun s ix v =>
  let (s, st) := s.mergeWrite R.DBG_SCAN_SEL ix v
  (s.withDbg { s.dbg with scanned := 0 }, st)

/-- PWR_CTRL: writes of 0 to `thr_en` are ignored after SEAL. -/
def hookPwrCtrl : WriteHook := fun s ix v =>
  let keep := if s.sealed then s.rd R.PWR_CTRL ix &&& 1 else 0
  s.mergeWrite R.PWR_CTRL ix (v ||| keep)

/-- The registers whose writes do more than store. -/
def writeHooks : List (Reg × WriteHook) :=
  [(R.SYN_CTRL, hookSynCtrl), (R.SYN_GEOM, hookLocked .geom), (R.SYN_MODEL, hookLocked .model),
   (R.SYN_BANK_LO, hookLocked .bankLo), (R.SYN_BANK_HI, hookLocked .bankHi), (R.SYN_HIST_LO, hookLocked .histLo),
   (R.SYN_HIST_HI, hookLocked .histHi), (R.SYN_ORING_LO, hookLocked .oringLo), (R.SYN_ORING_HI, hookLocked .oringHi),
   (R.SYN_ORING_SIZE, hookLocked .oringSize), (R.SYN_LAUNCH_LO, hookLocked .launchLo), (R.SYN_LAUNCH_HI, hookLocked .launchHi),
   (R.SYN_ADP_LAUNCH_LO, hookLocked .adpLaunchLo), (R.SYN_ADP_LAUNCH_HI, hookLocked .adpLaunchHi),
   (R.SYN_BUDGET, hookTested .budget), (R.SYN_MARGIN, hookTested .margin), (R.SYN_CONF, hookTested .conf),
   (R.SYN_BANK_PUB, fun s ix v => s.took (execBankPublish (Fin.ofNat 4 (ix.headD 0)) (Fin.ofNat 2 (bits v 0 0)))),
   (R.SYN_ADP_CTRL, hookAdpCtrl), (R.SYN_ADP_BUF, hookAdpBuf),
   (R.WRP_LCO0_LO, hookLco R.WRP_LCO0_LO), (R.WRP_LCO0_HI, hookLco R.WRP_LCO0_HI), (R.WRP_LCO1_LO, hookLco R.WRP_LCO1_LO),
   (R.WRP_LCO1_HI, hookLco R.WRP_LCO1_HI), (R.WRP_LCO_PITCH, hookLco R.WRP_LCO_PITCH)] ++
  [(R.VIS_CD_SUBMIT_LO, fun s _ v => (s.withVis { s.vis with submitLo := v }, 0)),
   (R.VIS_CD_SUBMIT_HI, fun s _ v => ((s.submitChain .host (s.vis.submitLo.toNat + 2 ^ 32 * bits v 15 0)).1, 0)),
   (R.DSP_CTRL, hookDspCtrl), (R.DSP_MAP, hookDspMap), (R.DSP_COMMIT, hookCommit),
   (R.DSP_DECLARE, fun s ix v => s.took (execDspDeclare (Fin.ofNat 5 (ix.headD 0)) v)),
   (R.EDP_CTRL, hookEdpCtrl), (R.EDP_SRC, hookEdpSrc), (R.EDP_AUX_CMD, hookAuxCmd),
   (R.CAP_V_CTRL, hookCapCtrl),
   (R.CAP_V_REL, fun s ix v => s.took (execCaptureRelease (Fin.ofNat 16 (ix.headD 0)) (BitVec.ofNat 8 (bits v 7 0)))),
   (R.CAP_A_RD, fun s ix v => s.took (execAudioRdWrite (Fin.ofNat 8 (ix.headD 0)) v)),
   (R.CAP_FS_CTRL, hookFsCtrl), (R.CAP_FS_START_LO, hookFsValue R.CAP_FS_START_LO),
   (R.CAP_FS_START_HI, hookFsValue R.CAP_FS_START_HI), (R.CAP_FS_PERIOD, hookFsValue R.CAP_FS_PERIOD),
   (R.CAP_FS_WIDTH, hookFsValue R.CAP_FS_WIDTH), (R.I2C_CMD, hookI2c)] ++
  [(R.SCH_CTX_QCTL, fun s ix v => (s.queueControl (ix.headD 0) v, 0)),
   (R.SCH_CTX_CANCEL, fun s ix v => s.took (execTokenLoopCancel (Fin.ofNat 64 (ix.headD 0)) v)),
   (R.SCH_CTX_RESTART, fun s ix v => if bits v 0 0 = 1 then s.took (execCtxRestart (Fin.ofNat 64 (ix.headD 0))) else (s, 0)),
   (R.SCH_DB, fun s ix v => s.doorbell (ix.headD 0) v), (R.SCH_SEM_CTRL, hookSem), (R.SCH_PART_PARK, hookPark),
   (R.BRG_QZI_CTRL, hookQzi), (R.BRG_BOOT_CTRL, hookBoot), (R.BRG_RPT_SIZE, hookReport),
   (R.BRG_RAM_REQ, fun s _ v => s.took (execRamblerReq v)), (R.ETH_GCL_TIME, hookGcl),
   (R.SCT_ALERT_EN, fun s ix v => s.mergeWrite R.SCT_ALERT_EN ix (v ||| 1))] ++
  [(R.TIM_ADJ, fun s _ v => (s.hostStep v.toInt, 0)),
   (R.TIM_SET_LO, fun s _ v => (s.withTim { s.tim with setLo := v }, 0)),
   (R.TIM_SET_HI, fun s _ v => (s.timSetHi v, 0)), (R.TIM_LCH_CFG, fun s ix v => (s.lchWrite (ix.headD 0) v, 0)),
   (R.ERR_CTRL, hookErrCtrl), (R.ERR_RING_LO, hookErrRing R.ERR_RING_LO), (R.ERR_RING_HI, hookErrRing R.ERR_RING_HI),
   (R.ERR_RING_SIZE, hookErrRing R.ERR_RING_SIZE), (R.ERR_PRST, hookPrst), (R.ERR_DEVRST, fun s _ v => (s.devReset v, 0)),
   (R.DBG_TOKEN_LO, fun s _ v => (s.withDbg { s.dbg with tokenLo := v }, 0)),
   (R.DBG_TOKEN_HI, fun s _ v => (s.unlockSubmit v, 0)),
   (R.DBG_LOCK, fun s _ v => (if bits v 0 0 = 1 then s.debugLock else s, 0)), (R.DBG_STOP, hookStop), (R.DBG_BP_CTRL, hookBp),
   (R.DBG_RUN, hookRun), (R.DBG_SCAN_SEL, hookScanSel), (R.PMC_CTRL, fun s _ v => (s.pmcCtrl v, 0)),
   (R.TRC_RING_CFG, fun s ix v => (s.traceEnable (ix.headD 0) v, 0)),
   (R.TRC_MARK, fun s _ v => (s.trace 9 none 0 (leBytes 16 v.toNat), 0)), (R.SEC_CTRL, fun s _ v => (s.secCtrl v, 0)),
   (R.PWR_CTRL, hookPwrCtrl), (R.PWR_CLU_PSTATE, fun s ix v => s.took (execPstateTarget (Fin.ofNat 16 (ix.headD 0)) v))]

/-- A write of a register, with the status of its item. A shadowed register does not change while a commit is armed (R227). -/
def State.writeReg (s : State) (r : Reg) (ix : List Nat) (v : Word) : State × Nat :=
  match forReg writeHooks r with
  | some f => f s ix v
  | none => if r.shadowed && s.bit R.DSP_COMMIT [ix.headD 0] 17 then (s, 0x13) else s.mergeWrite r ix v

/-! ### Items -/

/-- A store to hub SRAM or elsewhere by the host: one below the total size of an image that is being verified makes the
verification's result undefined (R296). -/
def State.hostStore (s : State) (a : Nat) (bs : List Byte) : State :=
  let t := s.write a bs
  match s.brg.verifying with
  | some image =>
    if overlaps a bs.length hubBase (min (leAt image 0x10 4) hubSize) then t.withBrg { t.brg with touched := true } else t
  | none => t

/-- A write item of a CFG address (R10, R11, R328, R334, R335, R373, R380, R390), with its status. -/
def State.cfgWrite (s : State) (a : Nat) (v : Word) : State × Nat :=
  if a % 4 ≠ 0 then (s, 0x10)
  else if s.fatal && a != R.ERR_DEVRST.base then (s, 0x21)
  else if !(s.sealed || inBringupSet a) || !s.dieReached a || (s.stopped && !inKeepAlive a) then (s, 0x13)
  else if inStaging a then
    match s.writeError (stagingDev a) 4 with
    | some w => (s.readerEnds .sct w, 0x11)
    | none => (s.hostStore (stagingDev a) (leBytes 4 v.toNat), 0)
  else
    match findReg R.regTable a with
    | some (r, ix) => if s.debugReach a then s.writeReg r ix v else (s, 0x13)
    | none => (s, 0)

/-- REGISTER_WRITE (R9–R11). -/
def execRegisterWrite (addr value : Word) (s : State) : Host.Outcome State Fault Refusal :=
  s.mayReset fun s => (s.cfgWrite addr.toNat value).1

end Sys2Proof.Machine
end

