-- ==== Sys2Proof/Machine/Ethernet.lean ====
section
/-! DEFINITION. The Ethernet ports: what a port receives and sends, and their TSN functions (R321–R326, R295). -/

namespace Sys2Proof.Machine

/-! ### Receiving (R322, R324) -/

/-- A port's MAC address. -/
def State.macOf (s : State) (p : Nat) : Nat := (s.rd R.ETH_MAC_LO [p]).toNat + 2 ^ 32 * s.fld R.ETH_MAC_HI [p] 15 0

/-- PCP and VID of a frame's outermost tag; 0 without one. -/
def rxPcp (f : RxFrame) : Nat := match f.tags with | t :: _ => t.toNat / 2 ^ 13 | [] => 0

/-- The VID. -/
def rxVid (f : RxFrame) : Nat := match f.tags with | t :: _ => t.toNat % 2 ^ 12 | [] => 0

/-- The filter of 802.1Qci that a frame meets first. -/
def State.qciFilter (s : State) (p : Nat) (f : RxFrame) : Option Nat :=
  (rangeFrom 0 64).find? fun i =>
    let m := s.rd R.ETH_QCI_MATCH [p, i]
    bits m 31 31 == 1 && (s.rd R.ETH_QCI_DA [p, i]).toNat + 2 ^ 32 * bits m 15 0 == f.dst.toNat
      && bits m 27 16 == rxVid f && bits m 30 28 == rxPcp f

/-- A flow meter takes a frame, or finds too little left: bytes left count in 1/8,000,000 of a byte, and a meter gains its
rate each ns, up to its burst. -/
def State.meterTakes (s : State) (p m bytes : Nat) : State × Bool :=
  let top := (s.rd R.ETH_METER_CBS [p, m]).toNat * 8000000
  let (level, time) := match s.eth.meters.find? fun e => e.1 == p && e.2.1 == m with
    | some e => (e.2.2.1, e.2.2.2)
    | none => (top, s.now)
  let level := min top (level + (s.now - time) * s.fld R.ETH_METER_CIR [p, m] 23 0)
  let ok := decide (bytes * 8000000 ≤ level)
  let e := (p, m, if ok then level - bytes * 8000000 else level, s.now)
  (s.withEth { s.eth with meters := upsert (fun e => e.1 == p && e.2.1 == m) e s.eth.meters }, ok)

/-- Filtering and policing: does the frame pass? -/
def State.police (s : State) (p : Nat) (f : RxFrame) : State × Bool :=
  match s.qciFilter p f with
  | none => (s, true)
  | some i =>
    let act := s.rd R.ETH_QCI_ACT [p, i]
    let sdu := bits act 29 16
    let big := sdu != 0 && decide (sdu + 18 + 4 * f.tags.length < f.wireLen)
    let (s, ok) := if big then (s, false) else if bits act 5 5 = 1 then s.meterTakes p (bits act 4 0) f.wireLen else (s, true)
    if ok then (s, true)
    else ((s.countTop R.ETH_QCI_CNT [p, i] 1).countSat R.ETH_CNT_QCI_DROP [p] 1 R.ETH_CNT_OVF [p] 4, false)

/-- The recovery stream of 802.1CB that a frame belongs to. -/
def State.frerStream (s : State) (f : RxFrame) : Option Nat :=
  if s.bit R.ETH_TSN_CTRL [0] 2 then
    (rangeFrom 0 16).find? fun r =>
      let m := s.rd R.ETH_FRER_MATCH [0, r]
      bits m 31 31 == 1 && (s.rd R.ETH_FRER_DA [0, r]).toNat + 2 ^ 32 * bits m 15 0 == f.dst.toNat && bits m 27 16 == rxVid f
  else none

/-- Keep a recovery stream. -/
def State.putRecovery (s : State) (x : Recovery) : State :=
  s.withEth { s.eth with recovery := upsert (fun y => y.ident == x.ident) x s.eth.recovery }

/-- Vector recovery: is the frame the first copy of its sequence number? Numbers that leave the history without a frame are
lost. -/
def State.recover (s : State) (r seq : Nat) : State × Bool :=
  let h := max 1 (min 32 (s.fld R.ETH_FRER_CFG [0, r] 5 0))
  match s.eth.recovery.find? fun x => x.ident == r with
  | none =>
    (s.putRecovery { ident := r, last := seq, seen := (rangeFrom 0 h).map fun i => (seq + 65536 - i) % 65536 }, true)
  | some x =>
    let ahead := (seq + 65536 - x.last) % 65536
    if ahead = 0 ∨ 65536 - ahead < h then
      if x.seen.contains seq then (s, false) else (s.putRecovery { x with seen := seq :: x.seen }, true)
    else if ahead < h then
      let gone := (rangeFrom 0 ahead).map fun i => (x.last + 65536 - (h - 1) + i) % 65536
      let lost := (gone.filter fun n => !x.seen.contains n).length
      let seen := seq :: x.seen.filter fun n => !gone.contains n
      ((s.putRecovery { x with last := seq, seen := seen }).countTop R.ETH_FRER_LOST [0, r] lost, true)
    else (s, false)

/-- A frame reaches a port (R322, R324): is it passed on? -/
def State.receive (s : State) (f : RxFrame) : State × Bool :=
  let p := f.port.val
  if !s.linkUp p then (s, false)
  else
    let s := if !f.fcsGood then s.countSat R.ETH_CNT_FCS [p] 1 R.ETH_CNT_OVF [p] 0 else s
    let s := if 9022 < f.wireLen then s.countSat R.ETH_CNT_OVERSIZE [p] 1 R.ETH_CNT_OVF [p] 1 else s
    if !f.fcsGood ∨ 9022 < f.wireLen then (s, false)
    else
      let s := s.count R.ETH_CNT_RX [p] 1
      if f.dst.toNat ≠ s.macOf p then (s, false)
      else
        match s.police p f with
        | (s, false) => (s, false)
        | (s, true) =>
          match f.rtag, s.frerStream f with
          | some q, some r => s.recover r q.toNat
          | _, _ => (s, true)

/-! ### Sending (R295, R324–R326, R333) -/

/-- The VID that sent frames carry: SCT_VLAN `vid` when `tag_tx` = 1. -/
def State.txVid (s : State) : Option Nat := if s.bit R.SCT_VLAN [] 12 then some (s.fld R.SCT_VLAN [] 11 0) else none

/-- R295, R325: may a port send to this address? -/
def State.destListed (s : State) (p : Nat) (mac : BitVec 48) : Bool :=
  let n := min 32 (s.fld R.ETH_DEST_COUNT [p] 5 0)
  n == 0 || (rangeFrom 0 n).any fun d =>
    let hi := s.rd R.ETH_DEST_HI [p, d]
    (s.rd R.ETH_DEST_LO [p, d]).toNat + 2 ^ 32 * bits hi 15 0 == mac.toNat
      && (bits hi 28 28 == 1 || s.txVid == some (bits hi 27 16))

/-- The queue of a PCP (ETH_PCPMAP). -/
def State.txQueue (s : State) (p pcp : Nat) : Nat := s.fld R.ETH_PCPMAP [p] (4 * pcp + 2) (4 * pcp)

/-- R324: is the gate of a queue open? -/
def State.gateOpen (s : State) (p q : Nat) : Bool := !s.bit R.ETH_TSN_CTRL [p] 0 || natBit (vecGet s.eth.gates p 0xFF) q

/-- Bytes of a sent frame from its destination address to its check sequence. -/
def State.txLength (s : State) (f : TxFrame) : Nat :=
  let ip := match f.dst.encap with | .l2 _ => 0 | .udp4 .. => 28 | .udp6 .. => 48
  let icmp := if f.kind = .neighborAdvert then 40 else 0
  let tags := 4 * b2n s.txVid.isSome + 6 * b2n f.rtag.isSome
  max 64 (18 + tags + ip + icmp + f.header.length + f.payload.length + f.tag.length)

/-- R295: from when on the cap of a PCP lets a frame leave a port. -/
def State.capUntil (s : State) (p pcp : Nat) : Nat :=
  match s.eth.capUntil.find? fun e => e.1 == p && e.2.1 == pcp with | some e => e.2.2 | none => 0

/-- A frame leaves a port. Under a cap of c Mbit/s the next one of its PCP follows after the time that its bits take at that rate
(R295; DESIGN CHOICE, log 68: no burst). -/
def State.transmit (s : State) (p : Nat) (f : TxFrame) : State :=
  let c := s.fld R.ETH_CAP [p, f.pcp] 13 0
  let caps := if c = 0 then s.eth.capUntil
    else upsert (fun e => e.1 == p && e.2.1 == f.pcp) (p, f.pcp, s.now + ceilDiv (8000 * s.txLength f) c) s.eth.capUntil
  (s.withEth { s.eth with tx := s.eth.tx ++ [{ f with ports := [p] }], capUntil := caps }).count R.ETH_CNT_TX [p] 1

/-- R295: is a frame over the cap of its PCP now? A cap of 0 is none. -/
def State.overCap (s : State) (p pcp : Nat) : Bool := s.fld R.ETH_CAP [p, pcp] 13 0 != 0 && decide (s.now < s.capUntil p pcp)

/-- Frames that wait in a queue of a port. -/
def State.queuedIn (s : State) (p q : Nat) : Nat := (s.eth.queued.filter fun e => e.1 == p && e.2.1 == q).length

/-- A port sends a frame, holds it in its queue behind a closed gate or for the cap of its PCP, or drops it: because its destination
is not listed, or because it is over its cap and the queue is full (R295). A frame for a port whose link is down is not sent. -/
def State.sendOn (s : State) (f : TxFrame) (p : Nat) : State :=
  if !s.linkUp p then s
  else if !s.destListed p f.dst.mac then (s.countSat R.ETH_CNT_DEST_DROP [p] 1 R.ETH_CNT_OVF [p] 3).eventOpen 0x05 p []
  else
    let q := s.txQueue p f.pcp
    let hold := s.withEth { s.eth with queued := s.eth.queued ++ [(p, q, f)] }
    if s.overCap p f.pcp then
      if Config.portQueueFrames ≤ s.queuedIn p q then s.countSat R.ETH_CNT_EGRESS_DROP [p] 1 R.ETH_CNT_OVF [p] 2 else hold
    else if s.gateOpen p q && s.queuedIn p q == 0 then s.transmit p f
    else hold

/-- Send a frame on its ports. -/
def State.send (s : State) (f : TxFrame) : State := f.ports.foldl (fun s p => s.sendOn f p) s

/-! ### Gates and recovery timeouts (R324) -/

/-- The list that the registers of a port give. -/
def State.gclOf (s : State) (p : Nat) : List (Nat × Nat) :=
  (rangeFrom 0 (max 1 (min 256 (s.fld R.ETH_GCL_COUNT [p] 8 0)))).map fun e =>
    (s.fld R.ETH_GCL_STATE [p, e] 7 0, (s.rd R.ETH_GCL_TIME [p, e]).toNat)

/-- The next frame of a queue of a port leaves it, and those behind it, while the gate is open and the caps allow it. -/
def State.drainPort (s : State) (p q : Nat) : Nat → State
  | 0 => s
  | fuel + 1 =>
    match s.eth.queued.find? fun e => e.1 == p && e.2.1 == q with
    | none => s
    | some e =>
      if s.gateOpen p q && !s.overCap p e.2.2.pcp then
        ((s.withEth { s.eth with queued := s.eth.queued.erase e }).transmit p e.2.2).drainPort p q fuel
      else s

/-- Frames of a port that may leave it do, in order. -/
def State.openGates (s : State) (p : Nat) : State := (rangeFrom 0 8).foldl (fun s q => s.drainPort p q (s.queuedIn p q)) s

/-- GATE_CONTROL_INTERVAL (R324): the port moves to the next entry; at a cycle start a new list takes effect. -/
def execGateControlInterval (port : Fin 2) (s : State) : Host.Outcome State Fault Refusal :=
  s.awake fun s =>
    let p := port.val
    if !s.bit R.ETH_TSN_CTRL [p] 0 then s
    else
      let list := vecGet s.eth.gcl p []
      let e := vecGet s.eth.gateEntry p 0 + 1
      let start := decide (list.length ≤ e)
      let list := if start && (vecGet s.eth.newList p false || list.isEmpty) then s.gclOf p else list
      let e := if start then 0 else e
      let gates := match list[e]? with | some g => g.1 | none => 0xFF
      let eth := { s.eth with gcl := vecSet s.eth.gcl p list, gateEntry := vecSet s.eth.gateEntry p e }
      let eth := { eth with gates := vecSet eth.gates p gates }
      let eth := { eth with newList := if start then vecSet eth.newList p false else eth.newList }
      (s.withEth eth).openGates p

/-- FRER_RESET_TIMEOUT (R324): the sequence history of a recovery stream is reset. -/
def execFrerResetTimeout (stream : Fin 16) (s : State) : Host.Outcome State Fault Refusal :=
  s.awake fun s => s.withEth { s.eth with recovery := s.eth.recovery.filter fun x => x.ident != stream.val }

/-! ### ARP and neighbour solicitation (R326) -/

/-- A reply that is no SCT frame. -/
def State.sendReply (s : State) (kind : TxKind) (port : Nat) (sender : BitVec 48) (encap : Encap) (payload : List Byte) : State :=
  s.send { kind := kind, ports := [port], pcp := s.fld R.SCT_VLAN [] 15 13, rtag := none,
           dst := { port := port, mac := sender, encap := encap }, header := [], payload := payload, tag := [] }

/-- A frame that is no SCT frame is received. -/
def State.arrives (s : State) (p : Nat) : State := if s.linkUp p then s.count R.ETH_CNT_RX [p] 1 else s

/-- ARP_REQUEST (R326): Shothen answers for SCT_IP4. -/
def execArpRequest (port : Fin 2) (sender : BitVec 48) (senderIp targetIp : BitVec 32) (s : State) :
    Host.Outcome State Fault Refusal :=
  s.awake fun s =>
    let s := s.arrives port.val
    let ip := s.rd R.SCT_IP4 []
    if s.linkUp port.val && s.bit R.SCT_CTRL [] 2 && ip != 0 && targetIp == ip then
      s.sendReply .arpReply port.val sender (.l2 0x0806)
        (beBytes 2 1 ++ beBytes 2 0x0800 ++ [6, 4] ++ beBytes 2 2 ++ beBytes 6 (s.macOf port.val) ++ beBytes 4 ip.toNat
          ++ beBytes 6 sender.toNat ++ beBytes 4 senderIp.toNat)
    else s

/-- SCT_IP6 as a number. -/
def State.ip6 (s : State) : Nat := ofBe ((rangeFrom 0 4).map fun i => beBytes 4 (s.rd R.SCT_IP6 [i]).toNat).flatten

/-- The Internet checksum of an even number of bytes. -/
def inetSum (bs : List Byte) : Nat :=
  let t := ((rangeFrom 0 (bs.length / 2)).map fun i => ofBe (sliceBytes bs (2 * i) 2)).sum
  let t := t % 65536 + t / 65536
  0xFFFF - (t % 65536 + t / 65536)

/-- NEIGHBOR_SOLICITATION (R326): Shothen answers for SCT_IP6. -/
def execNeighborSolicitation (port : Fin 2) (sender : BitVec 48) (senderIp targetIp : BitVec 128) (s : State) :
    Host.Outcome State Fault Refusal :=
  s.awake fun s =>
    let s := s.arrives port.val
    if s.linkUp port.val && s.bit R.SCT_CTRL [] 2 && s.ip6 != 0 && targetIp.toNat == s.ip6 then
      let rest := beBytes 4 0x60000000 ++ beBytes 16 s.ip6 ++ [2, 1] ++ beBytes 6 (s.macOf port.val)
      let pseudo := beBytes 16 s.ip6 ++ beBytes 16 senderIp.toNat ++ beBytes 4 32 ++ beBytes 4 58
      let sum := inetSum (pseudo ++ [136, 0, 0, 0] ++ rest)
      s.sendReply .neighborAdvert port.val sender (.l2 0x86DD) ([136, 0] ++ beBytes 2 sum ++ rest)
    else s

end Sys2Proof.Machine
end

