-- ==== Sys2Proof/Machine/Sct.lean ====
section
/-! DEFINITION. The Shothen command transport: which frames are accepted, their order, their items, and the streams to the
host (R321, R326–R343). -/

namespace Sys2Proof.Machine

/-! ### Ops (Table 14.4) -/

/-- Does a payload agree with the item counts and lengths of its op? -/
def payloadOk (op : Nat) (p : List Byte) : Bool :=
  let n := p.length
  match op with
  | 1 => n % 4 == 0 && decide (1 ≤ n / 4) && decide (n / 4 ≤ 256)
  | 2 => n % 8 == 0 && decide (1 ≤ n / 8) && decide (n / 8 ≤ 256)
  | 3 => decide (16 ≤ n) && ofLe (sliceBytes p 8 4) == n - 16
  | 4 => n == 16
  | 5 => n % 8 == 0 && decide (1 ≤ n / 8) && decide (n / 8 ≤ 64)
  | 6 => n == 8
  | _ => false

/-- R329: is a frame well formed? An ACK, and no other op, carries the unsequenced flag. -/
def State.frameOk (s : State) (op : Nat) (f : RxFrame) : Bool :=
  let v := f.version.toNat
  f.subtype.toNat == s.fld R.SCT_L2 [] 7 0 && v % 16 == 1 && f.payload.length == f.len.toNat && decide (f.payload.length ≤ 8224)
    && f.tag.length == (if natBit v 4 then 16 else 0) && natBit v 5 == (op == 6) && payloadOk op f.payload

/-! ### Acceptance (R326, R333) -/

/-- R326: does a frame carry SCT in an enabled form, addressed to Shothen? -/
def State.encapOk (s : State) (e : Encap) : Bool :=
  match e with
  | .l2 t => s.bit R.SCT_CTRL [] 3 && t == 0x88B5
  | .udp4 _ dst _ port options fragment zeroSum badSum =>
    s.bit R.SCT_CTRL [] 2 && !s.bit R.SCT_CTRL [] 5 && dst == s.rd R.SCT_IP4 [] && port.toNat == s.fld R.SCT_UDP_PORT [] 15 0
      && !options && !fragment && (zeroSum || !badSum)
  | .udp6 _ dst _ port fragment badSum =>
    s.bit R.SCT_CTRL [] 2 && s.bit R.SCT_CTRL [] 5 && dst.toNat == s.ip6 && port.toNat == s.fld R.SCT_UDP_PORT [] 15 0
      && !fragment && !badSum

/-- R326: are its tags accepted? -/
def State.tagsOk (s : State) (f : RxFrame) : Bool :=
  match f.tags with
  | [] => s.bit R.SCT_CTRL [] 4
  | [_] => rxVid f == 0 || rxVid f == s.fld R.SCT_VLAN [] 11 0
  | _ => false

/-- Does the responder serve frames at all (R300, R373)? -/
def State.responderUp (s : State) : Bool :=
  s.bit R.BRG_READY [] 1 && !(s.fatal && s.err.fatalUnit == hubUnit 0x00060000)

/-! ### Tags (R336, R337) -/

/-- R337: the session key of a frame's number: the replaced key up to the frame that committed its replacement. -/
def State.keyOf (s : State) (esn : Nat) : Option (List Byte) :=
  match (s.sec.oldKeys.filter fun k => decide (esn ≤ k.1)).getLast? with
  | some k => some k.2
  | none => s.sec.currentKey

/-- R336: the tag of a frame. -/
def sctTag (key : List Byte) (dir stream esn : Nat) (body : List Byte) : List Byte :=
  (hmac key (leBytes 1 dir ++ leBytes 1 stream ++ leBytes 8 esn ++ body)).take 16

/-- The header of a host frame, as received. -/
def rxHeader (op : Nat) (f : RxFrame) : List Byte :=
  [f.subtype, f.version, BitVec.ofNat 8 op, f.stream] ++ leBytes 2 f.seq.toNat ++ leBytes 2 f.len.toNat ++ leBytes 8 f.rest.toNat

/-- R336: is a host frame authentic? Before SEAL nothing is checked. -/
def State.authentic (s : State) (op : Nat) (f : RxFrame) (stream esn : Nat) (key : Option (List Byte)) : Bool :=
  !s.sealed ||
    match key with
    | some k => f.tag == sctTag k 0 stream esn (rxHeader op f ++ f.payload)
    | none => false

/-- A frame whose tag is missing or wrong. -/
def State.authFailed (s : State) : State := (s.countSat R.SCT_CNT_AUTH [] 1 R.SCT_CNT_OVF [] 3).alert 4

/-! ### Frames to the host (R327, R333) -/

/-- The tag of a device frame: none before SEAL. With no session key it is a free value. -/
def State.deviceTag (s : State) (stream esn : Nat) (body : List Byte) (key : Option (List Byte)) : State × List Byte :=
  if !s.sealed then (s, [])
  else
    match key with
    | some k => (s, sctTag k 1 stream esn body)
    | none => (s.draw, leBytes 16 (s.drawn 128).toNat)

/-- What a device frame says, beside its place in a stream. -/
structure DeviceMsg where
  kind : TxKind
  op : Nat
  stream : Nat
  unseq : Bool
  seq : Nat
  esn : Nat
  status : Nat
  badIndex : Nat
  /-- The lowest bit of its PCP in SCT_VLAN. -/
  pcpBit : Nat
  payload : List Byte
  deriving DecidableEq, Repr

/-- A device frame with its header (Table 14.3) and tag. -/
def State.buildFrame (s : State) (m : DeviceMsg) (dst : HostAddr) (key : Option (List Byte)) : State × TxFrame :=
  let flags := 1 + 16 * b2n s.sealed + 32 * b2n m.unseq
  let header := leBytes 1 (s.fld R.SCT_L2 [] 7 0) ++ leBytes 1 flags ++ leBytes 1 m.op ++ leBytes 1 m.stream ++ leBytes 2 m.seq
    ++ leBytes 2 m.payload.length ++ leBytes 1 m.status ++ [0] ++ leBytes 2 m.badIndex ++ zeros 4
  let (s, tag) := s.deviceTag m.stream m.esn (header ++ m.payload) key
  (s, { kind := m.kind, ports := [], pcp := s.fld R.SCT_VLAN [] (m.pcpBit + 2) m.pcpBit, rtag := none, dst := dst,
        header := header, payload := m.payload, tag := tag })

/-- R333: the ports on which a frame to a host port goes out. -/
def State.outPorts (s : State) (own : Nat) : List Nat :=
  match s.fld R.SCT_CTRL [] 1 0 with
  | 1 => [own]
  | _ => s.sctPorts

/-- R333: a frame leaves on the session's ports; under 802.1CB each carries the next R-TAG number. -/
def State.post (s : State) (f : TxFrame) : State :=
  let ports := s.outPorts f.dst.port
  if s.fld R.SCT_CTRL [] 1 0 = 3 then
    let n := s.eth.rtag
    (s.withEth { s.eth with rtag := (n + 1) % 65536 }).send { f with ports := ports, rtag := some n }
  else s.send { f with ports := ports, rtag := none }

/-- R330: a RESYNC, at most one each millisecond. -/
def State.resync (s : State) (from_ : HostAddr) : State :=
  let free := match s.sct.lastResync with
    | some t => decide (t + 1000000 ≤ s.now)
    | none => true
  if free then
    let m : DeviceMsg :=
      { kind := .resync, op := 0x13, stream := 2, unseq := true, seq := 0, esn := 0, status := 0, badIndex := 0, pcpBit := 13,
        payload := leBytes 8 s.nextEsn ++ leBytes 8 s.now }
    let (s, f) := s.buildFrame m (s.sct.lastSource.getD from_) s.sec.currentKey
    (s.withSct { s.sct with lastResync := some s.now }).post f
  else s

/-! ### Items (R328, R334, R335, R371) -/

/-- Items applied so far: their statuses, in order, and the data read. -/
structure ItemRun where
  statuses : List Nat
  data : List Byte
  deriving DecidableEq, Repr

/-- REG_READ items. -/
def State.readItems : List Byte → Nat → State → ItemRun → State × ItemRun
  | _, 0, s, r => (s, r)
  | p, n + 1, s, r =>
    let (s, v, st) := s.cfgRead (ofLe (p.take 4))
    let v := if st = 0 then v.toNat else 0
    State.readItems (p.drop 4) n s { statuses := r.statuses ++ [st], data := r.data ++ leBytes 4 v }

/-- REG_WRITE items. -/
def State.writeItems : List Byte → Nat → State → ItemRun → State × ItemRun
  | _, 0, s, r => (s, r)
  | p, n + 1, s, r =>
    let (s, st) := s.cfgWrite (ofLe (p.take 4)) (BitVec.ofNat 32 (ofLe (sliceBytes p 4 4)))
    State.writeItems (p.drop 8) n s { r with statuses := r.statuses ++ [st] }

/-- DOORBELL items: each writes SCH_DBq of its queue. -/
def State.doorbellItems : List Byte → Nat → State → ItemRun → State × ItemRun
  | _, 0, s, r => (s, r)
  | p, n + 1, s, r =>
    let q := ofLe (p.take 2) % 2 ^ 14
    let (s, st) := s.cfgWrite (regAddr R.SCH_DB [q]) (BitVec.ofNat 32 (ofLe (sliceBytes p 4 4)))
    State.doorbellItems (p.drop 8) n s { r with statuses := r.statuses ++ [st] }

/-- R334, R335: does a memory item reach its range? -/
def State.memReached (s : State) (a n : Nat) : Bool :=
  let asm := s.dev.assembly
  let powered (die : Nat) : Bool := s.bit R.BRG_READY [] (9 + die)
  populated asm a n && !s.stopped &&
    match placeOf asm a with
    | .hub => true
    | .dram => s.sealed && s.dramReady a n
    | .cluster d k => s.sealed && powered d && !s.clusterAbsent d k
    | .core d k c => s.sealed && powered d && !s.clusterAbsent d k && !s.coreAbsent (128 * d + 16 * k + c)
    | .unpopulated => false

/-- R371: does a range touch a share of a partition that is being reset? -/
def State.inResettingShare (s : State) (a n : Nat) : Bool :=
  match placeOf s.dev.assembly a with
  | .cluster d k =>
    (rangeFrom 0 16).any fun p =>
      s.partResetting p &&
        [s.rd R.CLC_CSHARE [d, k, p], s.rd R.CLC_CBSHARE [d, k, p]].any fun v =>
          overlaps a n (clusterBase d k + 65536 * bits v 7 0) (65536 * bits v 15 8)
  | .core d k c =>
    (rangeFrom 0 4).any fun i =>
      let sh := s.share (128 * d + 16 * k + c) i
      sh.valid && s.partResetting sh.part && overlaps a n (coreMemBase d k c + 65536 * sh.memBase) (65536 * sh.memUnits)
  | _ => false

/-- What refuses a memory item: its form, the fatal state (R373), reach, or a partition reset (R371). -/
def State.memStatus (s : State) (a n : Nat) : Nat :=
  if a % 4 ≠ 0 ∨ n % 4 ≠ 0 ∨ n < 4 ∨ 8192 < n then 0x10
  else if s.fatal then 0x21
  else if !s.memReached a n then 0x13
  else if s.inResettingShare a n then 0x20
  else 0

/-- A memory write that is not refused. A word in error that it covers only in part stays as it is (R357, R431): such words
lie at the ends of the range. -/
def State.memWrite (s : State) (a : Nat) (bs : List Byte) : State × Nat :=
  let size (w : Nat) : Nat := protSize s.dev.assembly w
  let stuck := (s.badIn a bs.length).filter fun w => !(decide (a ≤ w) && decide (w + size w ≤ a + bs.length))
  let lo := match stuck.find? fun w => decide (w < a) with
    | some w => w + size w
    | none => a
  let hi := match stuck.find? fun w => decide (a ≤ w) with
    | some w => w
    | none => a + bs.length
  let s := s.hostStore lo (sliceBytes bs (lo - a) (hi - lo))
  (stuck.foldl (fun s w => s.readerEnds .sct w) s, if stuck.isEmpty then 0 else 0x11)

/-- The bytes that a memory read returns: 0 for those of words in error. -/
def State.memRead (s : State) (a n : Nat) : State × List Byte × Nat :=
  let bad := s.badIn a n
  let at_ (b : Nat) : Byte :=
    if bad.any fun w => decide (w ≤ b) && decide (b < w + protSize s.dev.assembly w) then 0 else s.byte b
  (bad.foldl (fun s w => s.readerEnds .sct w) s, (rangeFrom a n).map at_, if bad.isEmpty then 0 else 0x11)

/-- MEM_WRITE. -/
def State.memWriteItem (s : State) (p : List Byte) : State × ItemRun :=
  let a := ofLe (p.take 8)
  let st := s.memStatus a (ofLe (sliceBytes p 8 4))
  let (s, st) := if st = 0 then s.memWrite a (p.drop 16) else (s, st)
  (s, { statuses := [st], data := [] })

/-- MEM_READ. -/
def State.memReadItem (s : State) (p : List Byte) : State × ItemRun :=
  let a := ofLe (p.take 8)
  let n := ofLe (sliceBytes p 8 4)
  match s.memStatus a n with
  | 0 => let (s, bs, st) := s.memRead a n; (s, { statuses := [st], data := bs })
  | 0x10 => (s, { statuses := [0x10], data := [] })
  | st => (s, { statuses := [st], data := zeros n })

/-- The items of a frame. -/
def State.items (s : State) (op : Nat) (p : List Byte) : State × ItemRun :=
  let none_ : ItemRun := { statuses := [], data := [] }
  match op with
  | 1 => State.readItems p (p.length / 4) s none_
  | 2 => State.writeItems p (p.length / 8) s none_
  | 3 => s.memWriteItem p
  | 4 => s.memReadItem p
  | _ => State.doorbellItems p (p.length / 8) s none_

/-! ### Order (R330, R331) -/

/-- The next number that the responder applies. -/
def State.nExp (s : State) : Nat := s.fld R.SCT_STATUS [] 31 16

/-- The next number moves on; the epoch rises when it wraps. -/
def State.advance (s : State) : State :=
  let n := (s.nExp + 1) % 65536
  let t := s.setFld R.SCT_STATUS [] 31 16 n
  if n = 0 then t.poke64 R.SCT_EPOCH_LO R.SCT_EPOCH_HI [] ((s.rd64 R.SCT_EPOCH_LO R.SCT_EPOCH_HI [] + 1) % 2 ^ 48) else t

/-- The frame whose turn it is applies: its items in order, then one response (R328), which is kept. -/
def State.applyFrame (s : State) (op : Nat) (f : RxFrame) (esn : Nat) : State :=
  let src : HostAddr := { port := f.port.val, mac := f.src, encap := f.encap }
  let s := (s.advance).count R.SCT_CNT_RX [] 1
  let s := s.withSct { s.sct with applied := true, lastSource := some src }
  let (s, r) := s.items op f.payload
  let bad := r.statuses.findIdx fun st => st != 0
  let m : DeviceMsg :=
    { kind := .response, op := 0x10, stream := 0, unseq := false, seq := f.seq.toNat, esn := esn, status := r.statuses.getD bad 0,
      badIndex := if bad < r.statuses.length then bad else 0xFFFF, pcpBit := 13, payload := r.data }
  let (s, out) := s.buildFrame m src (s.keyOf esn)
  let cache := s.sct.cache ++ [{ seq := f.seq.toNat, frame := out }]
  (s.withSct { s.sct with cache := cache.drop (cache.length - 64) }).post out

/-- Held frames that are next in turn apply; after a write of ERR_DEVRST none does (R374). -/
def State.applyHeld : Nat → State → State
  | 0, s => s
  | n + 1, s =>
    match s.sct.held.find? fun h => h.esn == s.nextEsn with
    | none => s
    | some h =>
      if s.dev.resetAsked.isSome then s
      else
        let s := s.withSct { s.sct with held := s.sct.held.filter fun x => x.esn != h.esn }
        if s.authentic h.op h.frame h.frame.stream.toNat h.esn (s.keyOf h.esn) then
          State.applyHeld n (s.applyFrame h.op h.frame h.esn)
        else s.authFailed

/-- A sequenced host frame that is well formed (R330, R331). -/
def State.sequenced (s : State) (op : Nat) (f : RxFrame) : State :=
  let d := (f.seq.toNat + 65536 - s.nExp) % 65536
  let esn := if d < 0x8000 then s.nextEsn + d else s.nextEsn + d - 65536
  let src : HostAddr := { port := f.port.val, mac := f.src, encap := f.encap }
  let outOfWindow (s : State) : State := (s.countSat R.SCT_CNT_OOW [] 1 R.SCT_CNT_OVF [] 2).resync src
  if !s.authentic op f f.stream.toNat esn (s.keyOf esn) then s.authFailed
  else if d = 0 then let t := s.applyFrame op f esn; State.applyHeld (t.sct.held.length + 1) t
  else if !s.sct.applied then outOfWindow s
  else if d < 64 then
    if s.sct.held.any fun h => h.esn == esn then s
    else s.withSct { s.sct with held := s.sct.held ++ [{ esn := esn, op := op, frame := f }] }
  else if d < 4096 then s.countSat R.SCT_CNT_AHEAD [] 1 R.SCT_CNT_OVF [] 1
  else if 65472 ≤ d then
    let s := s.countSat R.SCT_CNT_DUP [] 1 R.SCT_CNT_OVF [] 0
    match s.sct.cache.find? fun c => c.seq == f.seq.toNat with
    | some c => s.post c.frame
    | none => s
  else if 61440 ≤ d then s.countSat R.SCT_CNT_DUP [] 1 R.SCT_CNT_OVF [] 0
  else outOfWindow s

/-! ### Streams to the host (R338–R341) -/

/-- A device stream. -/
def State.streamOf (s : State) (x : Nat) : Stream :=
  (s.sct.streams.find? fun st => st.ident == x).getD { ident := x, nextEsn := 0, outstanding := [], lastSent := 0 }

/-- Keep a device stream. -/
def State.putStream (s : State) (x : Stream) : State :=
  s.withSct { s.sct with streams := upsert (fun y => y.ident == x.ident) x s.sct.streams }

/-- May a stream send a new frame: is a host known, a port's link up, and are fewer than 64 frames outstanding? -/
def State.streamReady (s : State) (x : Nat) : Bool :=
  match s.sct.lastSource with
  | some d => (s.outPorts d.port).any s.linkUp && decide ((s.streamOf x).outstanding.length < 64)
  | none => false

/-- The next frame of a stream. -/
def State.streamSend (s : State) (x : Nat) (kind : TxKind) (op pcpBit records : Nat) (payload : List Byte) : State :=
  match s.sct.lastSource with
  | none => s
  | some dst =>
    let st := s.streamOf x
    let m : DeviceMsg :=
      { kind := kind, op := op, stream := x, unseq := false, seq := st.nextEsn % 65536, esn := st.nextEsn, status := 0, badIndex := 0,
        pcpBit := pcpBit, payload := payload }
    let (s, f) := s.buildFrame m dst s.sec.currentKey
    let o : Outstanding := { seq := st.nextEsn % 65536, esn := st.nextEsn, frame := f, records := records }
    (s.putStream { st with
      nextEsn := st.nextEsn + 1
      outstanding := st.outstanding ++ [o]
      lastSent := if st.outstanding.isEmpty then s.now else st.lastSent }).post f

/-- Pending event records go out, 64 to a frame. -/
def State.flushEvents : Nat → State → State
  | 0, s => s
  | n + 1, s =>
    if s.sct.events.isEmpty || !s.streamReady 1 then s
    else
      let now := s.sct.events.take 64
      let t := s.withSct { s.sct with events := s.sct.events.drop 64, eventWait := s.now }
      State.flushEvents n (t.streamSend 1 .event 0x11 16 now.length (now.map EventRec.encode).flatten)

/-- EVENT_FLUSH (R339). -/
def execEventFlush (s : State) : Host.Outcome State Fault Refusal :=
  s.awake fun s => State.flushEvents (s.sct.events.length + 1) s

/-- A token record of a ring; where its memory is in error it is a free value. -/
def State.ringRecord (s : State) (a : Nat) : State × List Byte :=
  if (s.readError a 16).isSome then (s.draw, leBytes 16 (s.drawn 128).toNat) else (s, s.bytes a 16)

/-- The records of a RESULT frame. -/
def State.ringRecords : List Nat → State → List Byte → State × List Byte
  | [], s, bs => (s, bs)
  | a :: as, s, bs => let (s, r) := s.ringRecord a; State.ringRecords as s (bs ++ r)

/-- Token records of context `c` already handed to RESULT frames, as SCT_RESc_WR counts them. -/
def State.resultsSent (s : State) (c : Nat) : Nat := ((s.sct.resultSent.find? fun e => e.1 == c).map (·.2)).getD 0

/-- Unsent records of a context's ring go out, 512 to a frame. -/
def State.flushResults (c : Nat) : Nat → State → State
  | 0, s => s
  | n + 1, s =>
    let sent := s.resultsSent c
    let unsent := ((s.rd R.SCT_RES_WR [c]).toNat + 2 ^ 32 - sent) % 2 ^ 32
    if unsent = 0 then s.withSct { s.sct with resultWait := s.sct.resultWait.filter fun e => e.1 != c }
    else if !s.streamReady (0x40 + c) then s
    else
      let k := min unsent 512
      let ring := 2 ^ s.fld R.SCT_RES_CFG [c] 5 1
      let base := s.rdAddr R.SCT_RES_LO R.SCT_RES_HI [c]
      let (s, bs) := State.ringRecords ((rangeFrom sent k).map fun i => base + 16 * (i % ring)) s []
      let s := s.withSct { s.sct with
        resultSent := upsert (fun e => e.1 == c) (c, (sent + k) % 2 ^ 32) s.sct.resultSent }
      State.flushResults c n (s.streamSend (0x40 + c) .result 0x12 19 k
        (leBytes 1 c ++ zeros 3 ++ leBytes 4 sent ++ leBytes 4 k ++ zeros 4 ++ bs))

/-- RESULT_FLUSH (R341). -/
def execResultFlush (ctx : Fin 64) (s : State) : Host.Outcome State Fault Refusal :=
  s.awake fun s =>
    let unsent := ((s.rd R.SCT_RES_WR [ctx.val]).toNat + 2 ^ 32 - s.resultsSent ctx.val) % 2 ^ 32
    State.flushResults ctx.val (unsent / 512 + 2) s

/-- R338: the outstanding frames of a stream go out again, in order, each with the tag that now applies to it (R336, R337). -/
def State.resendAll : List Outstanding → State → List Outstanding → State × List Outstanding
  | [], s, done => (s, done)
  | o :: os, s, done =>
    let dst := s.sct.lastSource.getD o.frame.dst
    let flags := BitVec.ofNat 8 (1 + 16 * b2n s.sealed)
    let header := o.frame.header.set 1 flags
    let (s, tag) := s.deviceTag (o.frame.header.getD 3 0).toNat o.esn (header ++ o.frame.payload) s.sec.currentKey
    let f := { o.frame with dst := dst, header := header, tag := tag }
    State.resendAll os (s.post f) (done ++ [{ o with frame := f }])

/-- A stream whose port has a link is retransmitted. -/
def State.retransmit (s : State) (x : Nat) : State :=
  let st := s.streamOf x
  let up := match s.sct.lastSource with
    | some d => (s.outPorts d.port).any s.linkUp
    | none => false
  if st.outstanding.isEmpty || !up then s
  else
    let (s, os) := State.resendAll st.outstanding s []
    s.putStream { st with outstanding := os, lastSent := s.now }

/-- STREAM_RETRANSMIT (R338). -/
def execStreamRetransmit (stream : Byte) (s : State) : Host.Outcome State Fault Refusal :=
  s.awake fun s => s.retransmit stream.toNat

/-- R338, R341: an acknowledgement. Acknowledged records of a result ring free their entries. -/
def State.acked (s : State) (f : RxFrame) : State :=
  let x := (f.payload.getD 0 0).toNat
  let a := ofLe (sliceBytes f.payload 2 2)
  let st := s.streamOf x
  let back := (st.nextEsn + 65535 - a) % 65536
  let esn := if back < st.nextEsn then st.nextEsn - 1 - back else a
  if !s.authentic 6 f x esn s.sec.currentKey then s.authFailed
  else if st.outstanding.any fun o => o.esn == esn then
    let freed := ((st.outstanding.filter fun o => decide (o.esn ≤ esn)).map (·.records)).sum
    let s := s.putStream { st with outstanding := st.outstanding.filter fun o => decide (esn < o.esn) }
    if 0x40 ≤ x ∧ x < 0x80 then (s.count R.SCT_RES_ACK [x - 0x40] freed).endTimedOut (x - 0x40) else s
  else s

/-! ### Host frames -/

/-- A host frame arrives at a port (R322, R326, R329, R333). -/
def State.hostFrame (s : State) (op : Nat) (f : RxFrame) : State :=
  match s.receive f with
  | (s, false) => s
  | (s, true) =>
    if s.responderUp && s.sctPorts.contains f.port.val && s.encapOk f.encap && s.tagsOk f then
      if !s.frameOk op f then s.countSat R.SCT_CNT_MALFORMED [] 1 R.SCT_CNT_OVF [] 4
      else if op = 6 then s.acked f
      else s.sequenced op f
    else s

/-- SCT_REG_READ (R328). -/
def execSctRegRead (f : RxFrame) (s : State) : Host.Outcome State Fault Refusal := s.mayReset fun s => s.hostFrame 1 f

/-- SCT_REG_WRITE (R328). -/
def execSctRegWrite (f : RxFrame) (s : State) : Host.Outcome State Fault Refusal := s.mayReset fun s => s.hostFrame 2 f

/-- SCT_MEM_WRITE (R328). -/
def execSctMemWrite (f : RxFrame) (s : State) : Host.Outcome State Fault Refusal := s.mayReset fun s => s.hostFrame 3 f

/-- SCT_MEM_READ (R328). -/
def execSctMemRead (f : RxFrame) (s : State) : Host.Outcome State Fault Refusal := s.mayReset fun s => s.hostFrame 4 f

/-- SCT_DOORBELL (R328). -/
def execSctDoorbell (f : RxFrame) (s : State) : Host.Outcome State Fault Refusal := s.mayReset fun s => s.hostFrame 5 f

/-- SCT_ACK (R338). -/
def execSctAck (f : RxFrame) (s : State) : Host.Outcome State Fault Refusal := s.mayReset fun s => s.hostFrame 6 f

/-! ### Links (R321, R338) -/

/-- R321: the speed code of a link in a port mode; a mode that negotiates says it itself. -/
def linkSpeed (mode negotiated : Nat) : Nat :=
  match mode with
  | 0 => 0
  | 1 => 1
  | 2 => negotiated
  | _ => 3

/-- ETH_LINK_CHANGE (R321): a mode that negotiates keeps the link down with a half-duplex partner. Whether pre-emption is
verified is the partner's answer, and open. Streams resume with retransmission (R338). -/
def execEthLinkChange (port : Fin 2) (up : Bool) (speed : Fin 4) (halfDuplex : Bool) (s : State) :
    Host.Outcome State Fault Refusal :=
  s.awake fun s =>
    let p := port.val
    let mode := s.fld R.ETH_CTRL [p] 2 1
    let negotiates := mode == 0 || mode == 2
    if !s.bit R.ETH_CTRL [p] 0 then s
    else if !up then s.poke R.ETH_STATUS [p] 0
    else if negotiates && halfDuplex then s.poke R.ETH_STATUS [p] 0x10
    else
      let verified := s.bit R.ETH_TSN_CTRL [p] 1 && (s.drawn 1 == 1)
      let v := 1 + fieldAt 1 (linkSpeed mode speed.val) + fieldAt 3 (b2n negotiates) + fieldAt 5 (b2n verified)
      let s := s.draw.poke R.ETH_STATUS [p] (BitVec.ofNat 32 v)
      s.sct.streams.foldl (fun s st => s.retransmit st.ident) s

end Sys2Proof.Machine
end

