-- ==== Sys2Proof/Machine/Dispatch.lean ====
section
/-! DEFINITION. The dispatcher: one arm for each command, a direct call of its meaning. -/

namespace Sys2Proof.Machine

/-- The effect of a command. -/
def exec (i : Instr) (s : State) : Host.Outcome State Fault Refusal :=
  match i with
  | .resetRelease straps faults => Sys2Proof.Machine.execResetRelease straps faults s
  | .resetNAssert => Sys2Proof.Machine.execResetNAssert s
  | .refclkLoss => Sys2Proof.Machine.execRefclkLoss s
  | .registerWrite addr value => Sys2Proof.Machine.execRegisterWrite addr value s
  | .sliceRelease output => Sys2Proof.Machine.execSliceRelease output s
  | .keyframeDirectEnd tag good => Sys2Proof.Machine.execKeyframeDirectEnd tag good s
  | .soaArrival pipe => Sys2Proof.Machine.execSoaArrival pipe s
  | .taggedSliceWrite tag offset data => Sys2Proof.Machine.execTaggedSliceWrite tag offset data s
  | .sliceDoneWord tag word => Sys2Proof.Machine.execSliceDoneWord tag word s
  | .fallbackPoint tag => Sys2Proof.Machine.execFallbackPoint tag s
  | .warpEnd tag => Sys2Proof.Machine.execWarpEnd tag s
  | .warpDeadline tag => Sys2Proof.Machine.execWarpDeadline tag s
  | .sliceFetch tag => Sys2Proof.Machine.execSliceFetch tag s
  | .sliceWritebackEnd tag => Sys2Proof.Machine.execSliceWritebackEnd tag s
  | .frameActiveEnd pipe => Sys2Proof.Machine.execFrameActiveEnd pipe s
  | .vblankStart pipe => Sys2Proof.Machine.execVblankStart pipe s
  | .lineMatch pipe => Sys2Proof.Machine.execLineMatch pipe s
  | .synEnable output value => Sys2Proof.Machine.execSynEnable output value s
  | .synEnableCheckEnd output header => Sys2Proof.Machine.execSynEnableCheckEnd output header s
  | .synDisable output value => Sys2Proof.Machine.execSynDisable output value s
  | .synLockedWrite output reg value => Sys2Proof.Machine.execSynLockedWrite output reg value s
  | .synTestedWrite output reg value => Sys2Proof.Machine.execSynTestedWrite output reg value s
  | .bankPublish output bank => Sys2Proof.Machine.execBankPublish output bank s
  | .bankCopyEnd output bank => Sys2Proof.Machine.execBankCopyEnd output bank s
  | .adaptJobLaunch output => Sys2Proof.Machine.execAdaptJobLaunch output s
  | .adaptReport output ref flags lossA lossB => Sys2Proof.Machine.execAdaptReport output ref flags lossA lossB s
  | .adaptJobTimeout output => Sys2Proof.Machine.execAdaptJobTimeout output s
  | .adaptRearm output => Sys2Proof.Machine.execAdaptRearm output s
  | .adaptModeWrite output mode => Sys2Proof.Machine.execAdaptModeWrite output mode s
  | .engineLdw at_ cmd => Sys2Proof.Machine.execEngineLdw at_ cmd s
  | .engineMma at_ cmd => Sys2Proof.Machine.execEngineMma at_ cmd s
  | .engineConv at_ cmd => Sys2Proof.Machine.execEngineConv at_ cmd s
  | .engineDwc at_ cmd => Sys2Proof.Machine.execEngineDwc at_ cmd s
  | .engineAcc at_ row rows fp op => Sys2Proof.Machine.execEngineAcc at_ row rows fp op s
  | .engineGap at_ row rows into fp => Sys2Proof.Machine.execEngineGap at_ row rows into fp s
  | .engineRq at_ cmd => Sys2Proof.Machine.execEngineRq at_ cmd s
  | .engineSig at_ event => Sys2Proof.Machine.execEngineSig at_ event s
  | .engineWaite at_ event target => Sys2Proof.Machine.execEngineWaite at_ event target s
  | .simtFpArith at_ op rd ra rb rc => Sys2Proof.Machine.execSimtFpArith at_ op rd ra rb rc s
  | .simtInteger at_ op rd ra rb => Sys2Proof.Machine.execSimtInteger at_ op rd ra rb s
  | .simtConvert at_ src dst rounding sat rd ra => Sys2Proof.Machine.execSimtConvert at_ src dst rounding sat rd ra s
  | .simtHamperExchange at_ op rd ra rb => Sys2Proof.Machine.execSimtHamperExchange at_ op rd ra rb s
  | .simtLoadStore at_ store space words rd ra => Sys2Proof.Machine.execSimtLoadStore at_ store space words rd ra s
  | .simtAtomic at_ op space rd ra rb rc => Sys2Proof.Machine.execSimtAtomic at_ op space rd ra rb rc s
  | .simtBranch at_ op => Sys2Proof.Machine.execSimtBranch at_ op s
  | .simtBarrier at_ barrier => Sys2Proof.Machine.execSimtBarrier at_ barrier s
  | .simtFence at_ => Sys2Proof.Machine.execSimtFence at_ s
  | .eventWait at_ waiter event target => Sys2Proof.Machine.execEventWait at_ waiter event target s
  | .eventSignal at_ event => Sys2Proof.Machine.execEventSignal at_ event s
  | .flagWait at_ addr target => Sys2Proof.Machine.execFlagWait at_ addr target s
  | .simtSample at_ texture rd ra => Sys2Proof.Machine.execSimtSample at_ texture rd ra s
  | .ebreak at_ pc => Sys2Proof.Machine.execEbreak at_ pc s
  | .dmaSubmit at_ channel desc => Sys2Proof.Machine.execDmaSubmit at_ channel desc s
  | .dmaDescriptorComplete at_ channel => Sys2Proof.Machine.execDmaDescriptorComplete at_ channel s
  | .boxCallSubmit at_ addr => Sys2Proof.Machine.execBoxCallSubmit at_ addr s
  | .boxDecode die cluster => Sys2Proof.Machine.execBoxDecode die cluster s
  | .boxNms die cluster => Sys2Proof.Machine.execBoxNms die cluster s
  | .boxCallEnd die cluster clocks => Sys2Proof.Machine.execBoxCallEnd die cluster clocks s
  | .semAcquire at_ sem units => Sys2Proof.Machine.execSemAcquire at_ sem units s
  | .semRelease at_ sem units => Sys2Proof.Machine.execSemRelease at_ sem units s
  | .semAcquireTimeout at_ sem => Sys2Proof.Machine.execSemAcquireTimeout at_ sem s
  | .semForceRel sem => Sys2Proof.Machine.execSemForceRel sem s
  | .semClrAbandoned sem => Sys2Proof.Machine.execSemClrAbandoned sem s
  | .tokenRecordWrite queue seq token reason => Sys2Proof.Machine.execTokenRecordWrite queue seq token reason s
  | .tokenIterationEnd queue seq => Sys2Proof.Machine.execTokenIterationEnd queue seq s
  | .tokenLoopCancel ctx value => Sys2Proof.Machine.execTokenLoopCancel ctx value s
  | .slotCounterRead at_ counter => Sys2Proof.Machine.execSlotCounterRead at_ counter s
  | .traceMarker source value => Sys2Proof.Machine.execTraceMarker source value s
  | .layerStepEnd queue seq master copies => Sys2Proof.Machine.execLayerStepEnd queue seq master copies s
  | .slotSwitch core => Sys2Proof.Machine.execSlotSwitch core s
  | .taskDispatch turn => Sys2Proof.Machine.execTaskDispatch turn s
  | .groupDispatch task returned => Sys2Proof.Machine.execGroupDispatch task returned s
  | .taskComplete queue seq status => Sys2Proof.Machine.execTaskComplete queue seq status s
  | .taskTimeout queue seq => Sys2Proof.Machine.execTaskTimeout queue seq s
  | .deadlineAbort queue seq => Sys2Proof.Machine.execDeadlineAbort queue seq s
  | .quantumExpiry core => Sys2Proof.Machine.execQuantumExpiry core s
  | .waitYield at_ => Sys2Proof.Machine.execWaitYield at_ s
  | .evictionEnd at_ error => Sys2Proof.Machine.execEvictionEnd at_ error s
  | .restoreStart at_ queue seq => Sys2Proof.Machine.execRestoreStart at_ queue seq s
  | .restoreEnd at_ error => Sys2Proof.Machine.execRestoreEnd at_ error s
  | .dependencyCancel queue => Sys2Proof.Machine.execDependencyCancel queue s
  | .transferRelease transfer => Sys2Proof.Machine.execTransferRelease transfer s
  | .regulatorRefill => Sys2Proof.Machine.execRegulatorRefill s
  | .queueEnable ctx value => Sys2Proof.Machine.execQueueEnable ctx value s
  | .queueDisable ctx value => Sys2Proof.Machine.execQueueDisable ctx value s
  | .doorbell queue count => Sys2Proof.Machine.execDoorbell queue count s
  | .cqConsumerDoorbell queue count => Sys2Proof.Machine.execCqConsumerDoorbell queue count s
  | .entryTask queue => Sys2Proof.Machine.execEntryTask queue s
  | .coolBoxLoad queue => Sys2Proof.Machine.execCoolBoxLoad queue s
  | .coolBoxLoadEnd part handle => Sys2Proof.Machine.execCoolBoxLoadEnd part handle s
  | .coolBoxPin queue => Sys2Proof.Machine.execCoolBoxPin queue s
  | .coolBoxUnpin queue => Sys2Proof.Machine.execCoolBoxUnpin queue s
  | .coolBoxDrop queue => Sys2Proof.Machine.execCoolBoxDrop queue s
  | .entryMarker queue => Sys2Proof.Machine.execEntryMarker queue s
  | .modelReloadEnd part handle => Sys2Proof.Machine.execModelReloadEnd part handle s
  | .park part => Sys2Proof.Machine.execPark part s
  | .parkEnd part => Sys2Proof.Machine.execParkEnd part s
  | .unpark part => Sys2Proof.Machine.execUnpark part s
  | .ctxRestart ctx => Sys2Proof.Machine.execCtxRestart ctx s
  | .sketchPassSubmit at_ pass => Sys2Proof.Machine.execSketchPassSubmit at_ pass s
  | .passResume lead => Sys2Proof.Machine.execPassResume lead s
  | .sceneNop lead => Sys2Proof.Machine.execSceneNop lead s
  | .sceneEnd lead => Sys2Proof.Machine.execSceneEnd lead s
  | .sceneSetClear lead => Sys2Proof.Machine.execSceneSetClear lead s
  | .sceneSetLayer lead => Sys2Proof.Machine.execSceneSetLayer lead s
  | .sceneSetState lead => Sys2Proof.Machine.execSceneSetState lead s
  | .sceneBindProg lead => Sys2Proof.Machine.execSceneBindProg lead s
  | .sceneBindTex lead => Sys2Proof.Machine.execSceneBindTex lead s
  | .sceneBindBuf lead => Sys2Proof.Machine.execSceneBindBuf lead s
  | .sceneDraw die cluster shaded => Sys2Proof.Machine.execSceneDraw die cluster shaded s
  | .sceneDrawSurface die cluster => Sys2Proof.Machine.execSceneDrawSurface die cluster s
  | .quadRetire unit lead quads stalls => Sys2Proof.Machine.execQuadRetire unit lead quads stalls s
  | .passEnd lead => Sys2Proof.Machine.execPassEnd lead s
  | .visChainSubmit source addr => Sys2Proof.Machine.execVisChainSubmit source addr s
  | .pyramidStage builder => Sys2Proof.Machine.execPyramidStage builder s
  | .flowStage engine => Sys2Proof.Machine.execFlowStage engine s
  | .stereoStage engine => Sys2Proof.Machine.execStereoStage engine s
  | .visStageEnd engine ns => Sys2Proof.Machine.execVisStageEnd engine ns s
  | .visStageStop engine => Sys2Proof.Machine.execVisStageStop engine s
  | .visStageResume engine => Sys2Proof.Machine.execVisStageResume engine s
  | .visEngineFail engine => Sys2Proof.Machine.execVisEngineFail engine s
  | .visChainTimeout chain => Sys2Proof.Machine.execVisChainTimeout chain s
  | .commitArm pipe value => Sys2Proof.Machine.execCommitArm pipe value s
  | .commitLine pipe => Sys2Proof.Machine.execCommitLine pipe s
  | .dspDeclare pipe value => Sys2Proof.Machine.execDspDeclare pipe value s
  | .lineUnderrun pipe line x => Sys2Proof.Machine.execLineUnderrun pipe line x s
  | .pipeFail pipe fault => Sys2Proof.Machine.execPipeFail pipe fault s
  | .takeoverSwitch => Sys2Proof.Machine.execTakeoverSwitch s
  | .pclkRelock pipe => Sys2Proof.Machine.execPclkRelock pipe s
  | .ltolReport pipe line buffered => Sys2Proof.Machine.execLtolReport pipe line buffered s
  | .train output value sink => Sys2Proof.Machine.execTrain output value sink s
  | .hpdWaitTimeout output => Sys2Proof.Machine.execHpdWaitTimeout output s
  | .trainEnd output failed => Sys2Proof.Machine.execTrainEnd output failed s
  | .irqHpd output good sink => Sys2Proof.Machine.execIrqHpd output good sink s
  | .auxDpcdRead output length => Sys2Proof.Machine.execAuxDpcdRead output length s
  | .auxDpcdWrite output length => Sys2Proof.Machine.execAuxDpcdWrite output length s
  | .auxI2cRead output length => Sys2Proof.Machine.execAuxI2cRead output length s
  | .auxI2cSegmentWrite output length => Sys2Proof.Machine.execAuxI2cSegmentWrite output length s
  | .auxReply output reply data => Sys2Proof.Machine.execAuxReply output reply data s
  | .auxTimeout output => Sys2Proof.Machine.execAuxTimeout output s
  | .csiFrameStart rx vc corrected => Sys2Proof.Machine.execCsiFrameStart rx vc corrected s
  | .csiLongPacket rx vc dt corrected crcGood pixels => Sys2Proof.Machine.execCsiLongPacket rx vc dt corrected crcGood pixels s
  | .csiFrameEnd rx vc corrected => Sys2Proof.Machine.execCsiFrameEnd rx vc corrected s
  | .csiHeaderError rx => Sys2Proof.Machine.execCsiHeaderError rx s
  | .lineBufferOverrun rx => Sys2Proof.Machine.execLineBufferOverrun rx s
  | .captureFrameTimeout stream => Sys2Proof.Machine.execCaptureFrameTimeout stream s
  | .captureRelease stream mask => Sys2Proof.Machine.execCaptureRelease stream mask s
  | .captureDisable stream value => Sys2Proof.Machine.execCaptureDisable stream value s
  | .tdmFrame port slots => Sys2Proof.Machine.execTdmFrame port slots s
  | .tdmResync port => Sys2Proof.Machine.execTdmResync port s
  | .tdmFsLost port => Sys2Proof.Machine.execTdmFsLost port s
  | .audioRdWrite stream value => Sys2Proof.Machine.execAudioRdWrite stream value s
  | .fsyncEnable output value => Sys2Proof.Machine.execFsyncEnable output value s
  | .fsyncEdge output => Sys2Proof.Machine.execFsyncEdge output s
  | .i2cCommand ctrl value => Sys2Proof.Machine.execI2cCommand ctrl value s
  | .i2cCommandEnd ctrl result data => Sys2Proof.Machine.execI2cCommandEnd ctrl result data s
  | .qziVerify => Sys2Proof.Machine.execQziVerify s
  | .qziVerifyEnd => Sys2Proof.Machine.execQziVerifyEnd s
  | .qziSeal => Sys2Proof.Machine.execQziSeal s
  | .diePowerUp die => Sys2Proof.Machine.execDiePowerUp die s
  | .diePowerUpEnd die good => Sys2Proof.Machine.execDiePowerUpEnd die good s
  | .linkTraining => Sys2Proof.Machine.execLinkTraining s
  | .linkTrainingEnd lanes mesh => Sys2Proof.Machine.execLinkTrainingEnd lanes mesh s
  | .dramTraining die => Sys2Proof.Machine.execDramTraining die s
  | .dramTrainingEnd die channelFailed rows => Sys2Proof.Machine.execDramTrainingEnd die channelFailed rows s
  | .selfTest die => Sys2Proof.Machine.execSelfTest die s
  | .selfTestEnd die faults => Sys2Proof.Machine.execSelfTestEnd die faults s
  | .firmwareBroadcast => Sys2Proof.Machine.execFirmwareBroadcast s
  | .firmwareBroadcastEnd rounds => Sys2Proof.Machine.execFirmwareBroadcastEnd rounds s
  | .reportRingSet value => Sys2Proof.Machine.execReportRingSet value s
  | .ramblerTestDue => Sys2Proof.Machine.execRamblerTestDue s
  | .ramblerReq value => Sys2Proof.Machine.execRamblerReq value s
  | .ramblerSlackCheck => Sys2Proof.Machine.execRamblerSlackCheck s
  | .ramblerMoveEnd => Sys2Proof.Machine.execRamblerMoveEnd s
  | .ramblerTestEnd pass repaired => Sys2Proof.Machine.execRamblerTestEnd pass repaired s
  | .ramblerWaitExpiry => Sys2Proof.Machine.execRamblerWaitExpiry s
  | .sctRegRead f => Sys2Proof.Machine.execSctRegRead f s
  | .sctRegWrite f => Sys2Proof.Machine.execSctRegWrite f s
  | .sctMemWrite f => Sys2Proof.Machine.execSctMemWrite f s
  | .sctMemRead f => Sys2Proof.Machine.execSctMemRead f s
  | .sctDoorbell f => Sys2Proof.Machine.execSctDoorbell f s
  | .sctAck f => Sys2Proof.Machine.execSctAck f s
  | .streamRetransmit stream => Sys2Proof.Machine.execStreamRetransmit stream s
  | .eventFlush => Sys2Proof.Machine.execEventFlush s
  | .resultFlush ctx => Sys2Proof.Machine.execResultFlush ctx s
  | .ethLinkChange port up speed halfDuplex => Sys2Proof.Machine.execEthLinkChange port up speed halfDuplex s
  | .arpRequest port sender senderIp targetIp => Sys2Proof.Machine.execArpRequest port sender senderIp targetIp s
  | .neighborSolicitation port sender senderIp targetIp => Sys2Proof.Machine.execNeighborSolicitation port sender senderIp targetIp s
  | .gptpSync port optionalDomain offset => Sys2Proof.Machine.execGptpSync port optionalDomain offset s
  | .ppsInEdge rising => Sys2Proof.Machine.execPpsInEdge rising s
  | .ppsLoss => Sys2Proof.Machine.execPpsLoss s
  | .holdoverTimeout => Sys2Proof.Machine.execHoldoverTimeout s
  | .timAdj value => Sys2Proof.Machine.execTimAdj value s
  | .timSet value => Sys2Proof.Machine.execTimSet value s
  | .launchInstant channel => Sys2Proof.Machine.execLaunchInstant channel s
  | .correctedError kind unit loc => Sys2Proof.Machine.execCorrectedError kind unit loc s
  | .dramUncorrectable addr reader => Sys2Proof.Machine.execDramUncorrectable addr reader s
  | .onchipUncorrectable place reader => Sys2Proof.Machine.execOnchipUncorrectable place reader s
  | .coolBoxError die cluster part handle => Sys2Proof.Machine.execCoolBoxError die cluster part handle s
  | .patrolScrub addr found => Sys2Proof.Machine.execPatrolScrub addr found s
  | .flitCrcError link replays => Sys2Proof.Machine.execFlitCrcError link replays s
  | .moduleRetrainEnd pair module good => Sys2Proof.Machine.execModuleRetrainEnd pair module good s
  | .meshLinkFail die router port => Sys2Proof.Machine.execMeshLinkFail die router port s
  | .coreFailInService die cluster slot => Sys2Proof.Machine.execCoreFailInService die cluster slot s
  | .clusterWithdraw die cluster => Sys2Proof.Machine.execClusterWithdraw die cluster s
  | .errorRingSet => Sys2Proof.Machine.execErrorRingSet s
  | .partitionReset part code => Sys2Proof.Machine.execPartitionReset part code s
  | .partitionResetEnd part => Sys2Proof.Machine.execPartitionResetEnd part s
  | .fatalStateEntry code unit loc => Sys2Proof.Machine.execFatalStateEntry code unit loc s
  | .fatalTimeout => Sys2Proof.Machine.execFatalTimeout s
  | .deviceResetRequest value => Sys2Proof.Machine.execDeviceResetRequest value s
  | .unlockSubmit value => Sys2Proof.Machine.execUnlockSubmit value s
  | .unlockEnd => Sys2Proof.Machine.execUnlockEnd s
  | .debugLock => Sys2Proof.Machine.execDebugLock s
  | .breakpointArm unit value => Sys2Proof.Machine.execBreakpointArm unit value s
  | .breakpointHit at_ pc => Sys2Proof.Machine.execBreakpointHit at_ pc s
  | .debugResume at_ all => Sys2Proof.Machine.execDebugResume at_ all s
  | .debugStep at_ all => Sys2Proof.Machine.execDebugStep at_ all s
  | .globalStop cause => Sys2Proof.Machine.execGlobalStop cause s
  | .globalStopRelease value => Sys2Proof.Machine.execGlobalStopRelease value s
  | .scanDataRead => Sys2Proof.Machine.execScanDataRead s
  | .pmcSnap value => Sys2Proof.Machine.execPmcSnap value s
  | .pmcSampleTick => Sys2Proof.Machine.execPmcSampleTick s
  | .pmcCounterWrap counter => Sys2Proof.Machine.execPmcCounterWrap counter s
  | .pcSample core channel pc stall => Sys2Proof.Machine.execPcSample core channel pc stall s
  | .traceRingEnable ring value => Sys2Proof.Machine.execTraceRingEnable ring value s
  | .secProvision => Sys2Proof.Machine.execSecProvision s
  | .secUnwrap => Sys2Proof.Machine.execSecUnwrap s
  | .secAttest => Sys2Proof.Machine.execSecAttest s
  | .secSkLoad => Sys2Proof.Machine.execSecSkLoad s
  | .secSkCommit => Sys2Proof.Machine.execSecSkCommit s
  | .secOperationEnd trngOk => Sys2Proof.Machine.execSecOperationEnd trngOk s
  | .pstateTarget cluster value => Sys2Proof.Machine.execPstateTarget cluster value s
  | .dvfsTransitionEnd cluster => Sys2Proof.Machine.execDvfsTransitionEnd cluster s
  | .powerCheck mean => Sys2Proof.Machine.execPowerCheck mean s
  | .currentFastLimit die high => Sys2Proof.Machine.execCurrentFastLimit die high s
  | .railCurrentPoll currents => Sys2Proof.Machine.execRailCurrentPoll currents s
  | .thermalSample temps => Sys2Proof.Machine.execThermalSample temps s
  | .powerGoodLoss rail => Sys2Proof.Machine.execPowerGoodLoss rail s
  | .domainGate domain => Sys2Proof.Machine.execDomainGate domain s
  | .domainWakeEnd domain => Sys2Proof.Machine.execDomainWakeEnd domain s
  | .selfRefreshEntry stack free => Sys2Proof.Machine.execSelfRefreshEntry stack free s
  | .selfRefreshExit stack stall => Sys2Proof.Machine.execSelfRefreshExit stack stall s
  | .refclkReturn straps faults => Sys2Proof.Machine.execRefclkReturn straps faults s
  | .syncReceiptTimeout => Sys2Proof.Machine.execSyncReceiptTimeout s
  | .hpdLoss output => Sys2Proof.Machine.execHpdLoss output s
  | .jtagInstruction instr => Sys2Proof.Machine.execJtagInstruction instr s
  | .gateControlInterval port => Sys2Proof.Machine.execGateControlInterval port s
  | .frerResetTimeout stream => Sys2Proof.Machine.execFrerResetTimeout stream s

end Sys2Proof.Machine
end

