-- ==== Sys2Proof/Machine/Tick.lean ====
section
/-! DEFINITION. What time alone does: a step on an empty queue is one tick, in which TIMEBASE moves (R344) and frames that their
caps have held leave (R295). -/

namespace Sys2Proof.Machine

/-- TIMEBASE advances by 1 + a ns (R344, R347). -/
def State.passTime (s : State) : State :=
  { s with tim := { s.tim with base := s.tim.base + BitVec.ofInt 96 (2 ^ 32 + s.tim.a) } }

/-- DESIGN CHOICE (log 1): on an empty queue 1 ns passes, unless the device is held in reset. Frames in the port queues that may
leave then do (R295). -/
def State.tick (s : State) : State :=
  if s.dev.inReset then s
  else if s.eth.queued.isEmpty then s.passTime
  else (s.passTime.openGates 0).openGates 1

end Sys2Proof.Machine
end

