-- ==== Sys2Proof/WellFormed.lean ====
section
/-! DEFINITION. Which commands a sender can give: the operands that are lists have the lengths that the spec gives. -/

namespace Sys2Proof

/-- Is a command well formed? -/
def Instr.wellFormed : Instr → Bool
  | .dmaSubmit _ _ desc => desc.length == 64
  | .simtSample _ (.desc bytes) _ _ => bytes.length == 32
  | .taggedSliceWrite _ _ data => !data.isEmpty
  | .csiLongPacket _ _ dt _ _ pixels =>
    match dt with
    | .lineStart | .lineEnd => pixels.isEmpty
    | .other code => pixels.isEmpty && !(code.val ∈ [0x00, 0x01, 0x02, 0x03, 0x2A, 0x2B, 0x2C, 0x2D, 0x2E] : Bool)
    | _ => !pixels.isEmpty
  | .tdmFrame _ slots => decide (1 ≤ slots.length) && decide (slots.length ≤ 32)
  | _ => true

end Sys2Proof
end

