-- ==== Sys2Proof/Safety.lean ====
section
/-! DEFINITION. What a sound state is, in the terms the claims use. -/

namespace Sys2Proof.Machine

/-- The device is out of reset. -/
abbrev State.isUp (s : State) : Prop := s.dev.inReset = false

/-- The device is out of reset and no global stop holds it (R389). -/
abbrev State.isLive (s : State) : Prop := s.dev.inReset = false ∧ s.stopped = false

/-- The parts of the state, to say which of them a command leaves alone. -/
inductive Part where
  | queue | free | regs | mem | dev | img | tim | syn | boxes | passes | vis | dsp | cap | brg | eth | sct | err | sch | dbg | sec | pwr
  deriving DecidableEq, Repr

/-- Is a part of two states the same? -/
def Part.same (s t : State) : Part → Prop
  | .queue => t.pending = s.pending
  | .free => t.free = s.free
  | .regs => t.cfg = s.cfg
  | .mem => t.mem = s.mem
  | .dev => t.dev = s.dev
  | .img => t.img = s.img
  | .tim => t.tim = s.tim
  | .syn => t.syn = s.syn
  | .boxes => t.boxes = s.boxes
  | .passes => t.passes = s.passes
  | .vis => t.vis = s.vis
  | .dsp => t.dsp = s.dsp
  | .cap => t.cap = s.cap
  | .brg => t.brg = s.brg
  | .eth => t.eth = s.eth
  | .sct => t.sct = s.sct
  | .err => t.err = s.err
  | .sch => t.sch = s.sch
  | .dbg => t.dbg = s.dbg
  | .sec => t.sec = s.sec
  | .pwr => t.pwr = s.pwr

/-- `t` differs from `s` in the listed parts only. -/
def changesOnly (parts : List Part) (s t : State) : Prop := ∀ p, p ∉ parts → p.same s t

/-- Every CFG register outside a list of addresses holds in `t` what it holds in `s`. -/
def sameRegsBut (addrs : List Nat) (s t : State) : Prop := ∀ a, a ∉ addrs → cfgGet t.cfg a = cfgGet s.cfg a

/-- The registers that the loss of an event record changes (R340). -/
def eventRegs : List Nat := [regAddr R.SCT_CNT_EVLOSS [], regAddr R.SCT_CNT_OVF [], regAddr R.SCT_ALERT_STATUS []]

/-- The register file and DEV memory are in their canonical forms. -/
def State.canonical (s : State) : Prop := cfgWf s.cfg = true ∧ s.memWf = true

/-! ### Shapes of claims -/

/-- A command completes: exec answers a next state that differs from `s` in the listed parts only, and of which `post`
holds. -/
def completes (c : Instr) (s : State) (parts : List Part) (post : State → Prop) : Prop :=
  ∃ t, exec c s = .next t ∧ changesOnly parts s t ∧ post t

/-- A 32-bit counter that saturates has counted one event (R375). -/
abbrev counted (r : Reg) (ix : List Nat) (s t : State) : Prop := (t.rd r ix).toNat = min ((s.rd r ix).toNat + 1) 0xFFFFFFFF

/-- A 32-bit counter that wraps has counted one event (R375). -/
abbrev counted32 (r : Reg) (ix : List Nat) (s t : State) : Prop := t.rd r ix = s.rd r ix + 1

/-- Every byte of memory outside the `n` bytes from `a` is as it was. -/
def sameMemBut (a n : Nat) (s t : State) : Prop := ∀ b, (b < a ∨ a + n ≤ b) → t.byte b = s.byte b

/-- A command starts step `i` of bring-up (R298). -/
def stepStarts (c : Instr) (i : Nat) (s : State) : Prop :=
  completes c s [.regs, .brg, .pwr] fun t => t.fld R.BRG_BOOT_STATUS [] (2 * i + 1) (2 * i) = 1
    ∧ sameRegsBut [regAddr R.BRG_BOOT_STATUS []] s t

/-- A start of step `i` is refused with a code of BRG_BOOT_FAULT, and changes nothing else (R298). -/
def stepRefused (c : Instr) (i code : Nat) (s : State) : Prop :=
  exec c s = .next (s.poke R.BRG_BOOT_FAULT [] (BitVec.ofNat 32 (code + 256 * i)))

/-- The end of step `i` leaves it done, with its ready bits set (R298, R299). -/
def stepEnds (c : Instr) (i : Nat) (ready : List Nat) (s : State) (parts : List Part) (post : State → Prop) : Prop :=
  completes c s parts fun t => t.fld R.BRG_BOOT_STATUS [] (2 * i + 1) (2 * i) = 2
    ∧ (∀ b ∈ ready, t.bit R.BRG_READY [] b = true) ∧ post t

/-- The end of step `i` leaves it failed, with a code, and tells the host (R298). -/
def stepFails (c : Instr) (i code : Nat) (s : State) (parts : List Part) : Prop :=
  completes c s parts fun t => t.fld R.BRG_BOOT_STATUS [] (2 * i + 1) (2 * i) = 3
    ∧ t.rd R.BRG_BOOT_FAULT [] = BitVec.ofNat 32 (code + 256 * i) ∧ t.bit R.SCT_ALERT_STATUS [] 6 = true

/-- A command starts operation `op` of the key engine at an address (R404). -/
def keyOpStarts (c : Instr) (op addr : Nat) (s : State) : Prop :=
  ∃ t, exec c s = .next t ∧ changesOnly [.regs, .sec] s t ∧ sameRegsBut [regAddr R.SEC_STATUS []] s t
    ∧ t.sec = { s.sec with op := some op, opAddr := addr } ∧ t.bit R.SEC_STATUS [] 0 = true ∧ t.fld R.SEC_STATUS [] 18 16 = op

/-- A command of the key engine fails with a code of Table 18.6: it is counted, told, and changes no key. -/
def keyOpFails (c : Instr) (code : Nat) (s : State) : Prop :=
  ∃ t, exec c s = .next t ∧ changesOnly [.free, .regs, .sct] s t
    ∧ sameRegsBut ([regAddr R.SEC_STATUS [], regAddr R.SEC_CNT_FAIL [], regAddr R.SEC_CNT_OVF []] ++ eventRegs) s t
    ∧ t.fld R.SEC_STATUS [] 15 8 = code
    ∧ (t.rd R.SEC_CNT_FAIL []).toNat = min ((s.rd R.SEC_CNT_FAIL []).toNat + 1) 0xFFFFFFFF

/-- A host frame passes its port, is accepted, well formed and authentic, and is the next of the host's numbers; no frame is held
(R322, R326, R329, R330, R336). `u` is the state once the port has counted it. -/
abbrev State.turnOf (s u : State) (op : Nat) (f : RxFrame) : Prop :=
  s.isUp ∧ s.dev.resetAsked = none ∧ s.receive f = (u, true) ∧ u.responderUp = true ∧ u.sctPorts.contains f.port.val = true
    ∧ u.encapOk f.encap = true ∧ u.tagsOk f = true ∧ u.frameOk op f = true ∧ f.seq.toNat = u.nExp
    ∧ u.authentic op f f.stream.toNat u.nextEsn (u.keyOf u.nextEsn) = true ∧ u.sct.held = []

/-- The frame was answered: its response is kept, with its number, the status and index of its first item refused, and the data
read; the next number is expected (R328, R330). -/
abbrev answered (f : RxFrame) (status index : Nat) (data : List Byte) (u t : State) : Prop :=
  t.nExp = (u.nExp + 1) % 65536 ∧ t.pending = u.pending ∧
    ∃ e ∈ t.sct.cache, e.seq = f.seq.toNat ∧ e.frame.payload = data ∧ e.frame.header.getD 2 0 = 0x10
      ∧ e.frame.header.getD 8 0 = BitVec.ofNat 8 status ∧ sliceBytes e.frame.header 10 2 = leBytes 2 index

/-- The registers that sending a frame may count in. -/
def sendRegs : List Nat :=
  [regAddr R.ETH_CNT_TX [0], regAddr R.ETH_CNT_TX [1], regAddr R.ETH_CNT_DEST_DROP [0], regAddr R.ETH_CNT_DEST_DROP [1],
   regAddr R.ETH_CNT_EGRESS_DROP [0], regAddr R.ETH_CNT_EGRESS_DROP [1],
   regAddr R.ETH_CNT_OVF [0], regAddr R.ETH_CNT_OVF [1]] ++ eventRegs

/-- The registers that applying a host frame changes beside what its items change. -/
def frameRegs : List Nat :=
  [regAddr R.SCT_STATUS [], regAddr R.SCT_EPOCH_LO [], regAddr R.SCT_EPOCH_HI [], regAddr R.SCT_CNT_RX []] ++ sendRegs

/-- A write of this register instance only stores: it has no hook, and no armed commit shadows it. -/
abbrev storesOnly (r : Reg) : Prop := (forReg writeHooks r).isNone = true ∧ r.shadowed = false

/-- A CFG address that a write of the host reaches now (R334, R335, R373, R380, R389). -/
abbrev State.writable (s : State) (a : Nat) : Prop :=
  a % 4 = 0 ∧ s.fatal = false ∧ (s.sealed || inBringupSet a) = true ∧ s.dieReached a = true ∧ s.stopped = false
    ∧ inStaging a = false ∧ s.debugReach a = true

/-! ### The scheduler -/

/-- Slots lie on logical cores and belong to queues, and tasks to contexts. -/
abbrev State.numbered (s : State) : Prop :=
  (∀ x ∈ s.sch.slots, x.core < 256 ∧ x.idx < 4 ∧ x.qid < 16384) ∧ ∀ t ∈ s.sch.tasks, t.qid < 16384 ∧ t.ctx < 64

/-- As `State.numbered`, with what keeps it so: queues, bound cores and lay-by records have legal numbers too. -/
abbrev State.scheduleNumbered (s : State) : Prop :=
  s.numbered ∧ (∀ t ∈ s.sch.tasks, ∀ c ∈ t.cores, c < 256) ∧ (∀ q ∈ s.sch.queues, q.ident < 16384)
    ∧ ∀ l ∈ s.sch.layby, l.slot.core < 256 ∧ l.slot.idx < 4 ∧ l.slot.qid < 16384

/-- Passes belong to contexts, and sketch units lead them. -/
abbrev State.passesNumbered (s : State) : Prop := ∀ p ∈ s.passes, p.ctx < 64 ∧ p.lead < 16

/-- Entry `e` is the next of queue `q`, has the op, and nothing holds it back (R260, R263). -/
abbrev State.headReady (s : State) (q op : Nat) (x : Queue) (e : Entry) : Prop :=
  s.queue q = some x ∧ x.rung.head? = some e ∧ (∀ t ∈ s.sch.tasks, t.qid = q → t.started = true)
    ∧ s.dispatchOn (s.queuePart q) = true ∧ e.unreadable = none ∧ e.depBad = false ∧ e.op = op ∧ s.roomInFlight q = true
    ∧ ∀ d ∈ e.deps, s.depState d = .met

/-- Where a queue's next completion record goes. -/
def Queue.recordAt (x : Queue) : Nat := x.desc.cplBase + 32 * (x.posted.toNat % x.desc.size)

/-- The record of the entry with this sequence number is the next that its submission queue posts, and memory takes it. -/
abbrev State.inTurn (s : State) (x : Queue) (seq : Word) : Prop :=
  x.ended = [] ∧ x.desc.cqOnly = false ∧ x.disabling = false ∧ seq = x.posted ∧ s.writeError x.recordAt 32 = none

/-- The queue posted the record of an entry: its sequence number, tag, status and queue (Table 11.3), and nothing else in
memory. -/
def recordPosted (q : Nat) (x : Queue) (e : Entry) (status : Nat) (s t : State) : Prop :=
  t.le x.recordAt 4 = e.seq.toNat ∧ t.le (x.recordAt + 4) 4 = e.tag.toNat ∧ t.byte (x.recordAt + 8) = BitVec.ofNat 8 status
    ∧ t.le (x.recordAt + 10) 2 = q % 65536 ∧ sameMemBut x.recordAt 32 s t
    ∧ ∃ y, t.queue q = some y ∧ y.posted = x.posted + 1 ∧ y.ended = [] ∧ y.statuses.head? = some (e.seq, status)

/-- No output of SYN waits for this task. -/
abbrev State.notOfSyn (s : State) (q : Nat) (seq : Word) : Prop :=
  ∀ o, o < 4 → ∀ w, (s.out o).work = some w → w.job ≠ some (q, seq)

/-- A slot owes its box unit something: a call to submit again, or a write that a full unit stalls (R168, R169). -/
abbrev Slot.owesBox (x : Slot) : Prop := x.calls ≠ [] ∨ ∃ b since, x.wait = some (.boxFull b, since)

/-- Nothing of a slot goes on by itself when it runs: no engine command is queued, and its box unit is owed nothing. -/
abbrev Slot.quietUnits (x : Slot) : Prop := x.backlog = 0 ∧ ¬x.owesBox

/-- A slot, but for its transfers. -/
def Slot.butDma (x : Slot) : Slot := { x with image := { x.image with dma := [] } }

/-- Every slot is as it was, but for its transfers (R102). -/
def sameSlotsButDma (s t : State) : Prop :=
  ∀ c i, (t.slotAt c i).map Slot.butDma = (s.slotAt c i).map Slot.butDma

/-- A model of one segment, for one cluster whose share holds it, is copied there, from memory as it was; `apart` says of the
place that nothing else goes there. -/
def State.segmentCopied (s : State) (m : Model) (apart : Nat → Nat → Prop) (t : State) : Prop :=
  ∀ src size c, m.segments = [(src, size, c)] → s.clusters.contains c = true → size ≤ (s.boxShare m.part c).2 →
    let a := s.segmentPlace m 0 size c
    s.writeError a size = none → apart a size → t.bytes a size = s.bytes src size

/-! ### Task programs -/

/-- Engine `n` belongs to the running slot `x` and is free: it does not wait at WAITE, nothing is queued, and no row is in error. No
other engine of the slot has a command to go on with, and the control core is not stalled. -/
abbrev State.atEngine (s : State) (n : EngineName) (x : Slot) (e : Engine) : Prop :=
  s.slotNamed n.slot = some x ∧ x.engine n.engine.val = e ∧ e.free = true ∧ e.bad = [] ∧ x.readyEngine = none ∧ s.stalls x = false

/-- Hamper `n` belongs to the running slot `x`, and executes instructions. -/
abbrev State.onHamperOf (s : State) (n : HamperName) (x : Slot) (h : Hamper) : Prop :=
  s.slotNamed n.slot = some x ∧ x.image.hampers.find? (fun g => g.ident == n.hamper.val) = some h ∧ x.hamperWaits h = false

/-- As `State.onHamperOf`, in a slot of which no thread register is in error (R431). -/
abbrev State.atHamper (s : State) (n : HamperName) (x : Slot) (h : Hamper) : Prop := s.onHamperOf n x h ∧ x.image.badRegs = []

/-- A command of a slot completes: exec answers a next state that differs in the listed parts only, and in which the slot is
still there, changed in its image only, as `post` says. -/
def slotCompletes (c : Instr) (s : State) (n : SlotName) (x : Slot) (parts : List Part) (post : Slot → State → Prop) : Prop :=
  completes c s parts fun t => ∃ y, t.slotAt (coreId n.at_) n.slot.val = some y ∧ y = { x with image := y.image } ∧ post y t

/-- The next transfer of a descriptor in flight, as it arrives at its regulators. -/
def State.arriving (s : State) (x : Slot) (r : DmaRun) : HeldTransfer :=
  let m := r.desc.move r.next
  { ident := s.sch.nextTransfer, part := s.ctxPart (x.qid / 256), prio := s.prioOf x.qid x.seq, bytes := m.bytes, core := x.core,
    idx := x.idx, channel := r.channel, path := s.movePath (x.core / 128) r.desc m }

/-- A descriptor is the oldest in flight on a channel of a live slot, whose engines have nothing queued, and nothing keeps its next
transfer back but regulators. -/
abbrev State.atChannel (s : State) (n : SlotName) (channel : Fin 4) (x : Slot) (r : DmaRun) : Prop :=
  s.slotAt (coreId n.at_) n.slot.val = some x ∧ x.phase = .live ∧ x.halted = false ∧ x.backlog = 0
    ∧ x.image.dma.find? (fun q => q.channel == channel.val) = some r ∧ r.held = none ∧ r.aborted = false
    ∧ s.moveWaits (x.core / 128) r.desc (r.desc.move r.next) = false

/-- The registers in which bytes moved for a slot's context are counted (R282). -/
def bytesRegs (x : Slot) : List Nat := [regAddr R.SCH_CTX_ACCT [x.qid / 256, 2], regAddr R.SCH_CTX_ACCT [x.qid / 256, 3]]

/-- No engine of a slot but the one given differs, and of that one nothing but its tiles, rows and draws; hampers, registers,
events and the rest of the image are as they were. -/
def engineOnly (n : EngineName) (x y : Slot) : Prop :=
  y.image = { x.image with engines := y.image.engines }
    ∧ (∀ i, i < 4 → i ≠ n.engine.val → y.engine i = x.engine i) ∧ (y.engine n.engine.val).waiting = none

/-- As `engineOnly`, where the streams that the engines share may differ too (R93). -/
def engineStream (n : EngineName) (x y : Slot) : Prop :=
  engineOnly n { x with image := { x.image with streams := y.image.streams } } y

/-- No stream of a slot's engines has this tag; without a tag a command reads its own rows. -/
def ownStream (bcast : Option Byte) (x : Slot) : Prop := ∀ t ∈ x.image.streams, bcast ≠ some t.tag

/-- A command is queued behind what its engine waits for, or stalls the control core at a full queue (R94). -/
def queues (c : Instr) (q : EngineCmd) (s : State) (n : EngineName) (x : Slot) : Prop :=
  completes c s [.sch] fun t => t.slotAt (coreId n.slot.at_) n.slot.slot.val = some (
    let e := x.engine n.engine.val
    if e.queue.length < 32 then x.setEngine n.engine.val { e with queue := e.queue ++ [q] }
    else { x with wait := some (.engine n.engine.val q, s.now) })

/-- Accumulator rows outside a range are as they were. -/
def sameRowsBut (row n : Nat) (d e : Engine) : Prop := ∀ r, r < row ∨ row + n ≤ r → e.row r = d.row r

/-- The products of a channel, added as INT32: activation codes and places of the tile. -/
def dotInt (tile : Tile) (acts : List Nat) (c : Nat) (ks : List Nat) : Word :=
  (ks.map fun k => BitVec.ofInt 32 (signedOf 8 (acts.getD k 0)) * tile.weights.getD (c * tile.depth + k % tile.depth) 0).foldl
    (· + ·) 0

/-- Each active thread of a hamper has in `rd` what `f` gives for its lane; every other thread register is as it was. -/
def regWritten (h : Hamper) (rd : Nat) (f : Nat → Word) (x y : Slot) : Prop :=
  (∀ l ∈ h.lanes, y.reg h.ident l rd = f l) ∧
    ∀ g l r, l < 32 → r < 64 → ¬(g = h.ident ∧ l ∈ h.lanes ∧ r = rd) → y.reg g l r = x.reg g l r

/-- Nothing of a slot's image but its thread registers differs. -/
def regsOnly (x y : Slot) : Prop := y.image = { x.image with regs := y.image.regs }

/-! ### Sketch units -/

/-- The registers of a sketch unit that count or show errors. -/
def skuRegs : List Reg :=
  [R.SKU_CNT_PRIMS, R.SKU_CNT_PARTIAL, R.SKU_CNT_TILES, R.SKU_CNT_PASSES, R.SKU_CNT_RETSTALL, R.SKU_CNT_OVF, R.SKU_CNT_SUSPEND,
   R.SKU_CNT_ABORT, R.SKU_CNT_SAMPLES, R.SKU_ERR_CODE, R.SKU_ERR_OFFSET]

/-- The registers of the sketch units are as they were, but for those listed. -/
def skuSame (but : List (Reg × Nat)) (s t : State) : Prop :=
  ∀ r ∈ skuRegs, ∀ u, u < 16 → (r, u) ∉ but → t.rd r (skuIx u) = s.rd r (skuIx u)

/-- Memory takes each of several writes of a pass. -/
abbrev State.takesWrites (s : State) (p : Pass) (ws : List (Nat × List Byte)) : Prop :=
  ∀ w ∈ ws, s.accessOk p.ctx w.1 w.2.length true = true ∧ s.writeError w.1 w.2.length = none

/-- Bytes of memory outside several writes are as they were. -/
def sameMemButWrites (ws : List (Nat × List Byte)) (s t : State) : Prop :=
  ∀ a, (∀ w ∈ ws, a < w.1 ∨ w.1 + w.2.length ≤ a) → t.byte a = s.byte a

/-- What the first command of a pass writes: header and directory of empty lists (R180). -/
def Pass.firstWrites (p : Pass) : List (Nat × List Byte) := if p.parsed = 0 then p.emptyLists else []

/-- The next command of a lead's binning pass, of which no primitive waits, has this opcode and these bytes, and memory takes what
a first command writes. -/
abbrev State.atScene (s : State) (lead : ClusterName) (op : Nat) (p : Pass) (bs : List Byte) : Prop :=
  s.isLive ∧ s.binningPass lead = some p ∧ p.parsed < p.length ∧ p.ctx < 64 ∧ p.lead < 16 ∧ p.todo = []
    ∧ (s.nextScene p).toOption.bind (·.toOption) = some (op, bs) ∧ s.takesWrites p p.firstWrites

/-- A scene command of `bs` leaves its pass as `r` otherwise is, having parsed it: binning has ended if `ends` or if the range is
at its end, and the pass goes on to what is next. -/
def sceneLeaves (s : State) (p : Pass) (bs : List Byte) (ends : Bool) (r : Pass) (t : State) : Prop :=
  ∃ q, t.passes = s.passes.map (fun o => if o.is p then q else o)
    ∧ q = { r with parsed := p.parsed + bs.length, started := if p.parsed = 0 then s.now else p.started, binDone := q.binDone,
                   phase := q.phase }
    ∧ (r.todo = [] → q.binDone = (p.binDone || ends || decide (p.length ≤ p.parsed + bs.length))
        ∧ q.phase = (if q.binDone then .tiles else .binning))
    ∧ (r.todo ≠ [] → q.phase = .partialTiles)

/-- A scene command is taken: its scene state is `x`. -/
def sceneTaken (c : Instr) (s : State) (p : Pass) (bs : List Byte) (ends : Bool) (x : SceneState) : Prop :=
  completes c s [.free, .regs, .mem, .passes, .sct, .err, .sch] fun t => skuSame [] s t ∧ sameMemButWrites p.firstWrites s t
    ∧ sceneLeaves s p bs ends { p with scene := x } t

/-- A draw that leaves one primitive is taken. Where the pool has room, or holds nothing, the primitive is binned, with the scene
state at hand; else it waits for a partial render. -/
def drawTaken (c : Instr) (s : State) (p : Pass) (bs : List Byte) (b : Unbinned) : Prop :=
  (p.holds b = true ∨ p.entries = [] → s.takesWrites p (p.bin b).2 →
    completes c s [.free, .regs, .mem, .passes, .sct, .err, .sch] fun t => counted32 R.SKU_CNT_PRIMS (skuIx p.lead) s t
      ∧ skuSame [(R.SKU_CNT_PRIMS, p.lead)] s t ∧ sameMemButWrites (p.firstWrites ++ (p.bin b).2) s t
      ∧ ∃ r : Pass, sceneLeaves s p bs false r t ∧ r.prims = p.prims ++ [p.binned b] ∧ r.nextSeq = p.nextSeq + 1 ∧ r.todo = []
        ∧ r.poolLow = p.poolLow + p.lowFor b ∧ r.poolHigh = p.poolHigh + p.chunksFor b.tiles
        ∧ ∀ k, r.entriesOf k = (if k ∈ b.tiles then p.entriesOf k + 1 else p.entriesOf k)) ∧
  (p.holds b = false → p.entries ≠ [] →
    completes c s [.free, .regs, .mem, .passes, .sct, .err, .sch] fun t => skuSame [] s t ∧ sameMemButWrites p.firstWrites s t
      ∧ sceneLeaves s p bs false { p with todo := [b] } t)

/-- No pass waits for sketch units. -/
abbrev State.noneWaits (s : State) : Prop := ∀ q ∈ s.passes, q.phase ≠ .pending ∧ q.phase ≠ .stalled

/-- No pass may start, and no stalled submission has room. -/
abbrev State.sketchSettled (s : State) : Prop :=
  ∀ q ∈ s.passes, s.passMayStart q = false ∧ (q.phase = .stalled → s.passRoom q.mask = false)

/-- The render task `t` in slot `x` may submit its pass `k`: descriptor `d`, entry `e`, owner map `owners`. -/
abbrev State.atSubmit (s : State) (n : SlotName) (k : Fin 4) (x : Slot) (t : Task) (d e : List Byte) (owners : Option (List Byte)) :
    Prop :=
  s.isLive ∧ s.slotNamed n = some x ∧ s.slotTask x = some t ∧ s.stalls x = false ∧ t.rendered.passes = k.val
    ∧ (∀ p ∈ s.passes, t.holds p.qid p.seq = false) ∧ (s.renderWords t k.val).toOption = some (d, e)
    ∧ (s.ownerMap t.ctx d (entryTiles e)).toOption = some owners

/-- What its first pass tells of a render task. -/
def Task.renders (t : Task) (k : Fin 4) (d e : List Byte) : Task := if k.val = 0 then t.rendering d e else t

/-! ### Vision engines -/

/-- Chains carry rising numbers below the next one. -/
abbrev State.chainsNumbered (s : State) : Prop :=
  s.vis.chains.Pairwise (fun c d => c.ident < d.ident) ∧ ∀ c ∈ s.vis.chains, c.ident < s.vis.nextChain

/-- Nobody but its record counter hears of the end of a chain: no queue, no output of SYN, no capture stream. -/
abbrev Chain.alone (c : Chain) : Prop := c.queue = none ∧ 4 ≤ c.synOut ∧ ∀ n i, c.source ≠ .capture n i

/-- Who submits a chain now: its source, and the submissions that wait afterwards. -/
def State.submits (s : State) (by_ : ChainFrom) (a : Nat) (source : ChainSource) (w : List WaitingChain) : Prop :=
  match by_ with
  | .host => source = .host ∧ w = s.vis.waiting
  | .task n => (∃ x, s.slotNamed n = some x ∧ s.stalls x = false) ∧ source = .task ∧ w = s.vis.waiting
  | .sketch q seq => source = .sketch ∧ s.vis.waiting = { qid := q.val, seq := seq, addr := a, site := none } :: w
  | .capture n i => s.fld R.CAP_V_STATE [n.val] (2 * i.val + 1) (2 * i.val) = 3
      ∧ (∀ c ∈ s.vis.chains, c.source ≠ .capture n.val i.val) ∧ source = .capture n.val i.val ∧ w = s.vis.waiting

/-- Engine `e` runs stage `x`, at place `i` of chain `c`, and its work is to be done. -/
abbrev State.stageAt (s : State) (e : Nat) (c : Chain) (i : Nat) (x : Stage) : Prop :=
  s.isLive ∧ s.chainsNumbered ∧ s.running e = some (c, i) ∧ c.stages[i]? = some x ∧ x.done = false

/-- The stage's work is done: nothing else of the dispatcher differs. -/
def stageDone (c : Chain) (i : Nat) (x : Stage) (s t : State) : Prop :=
  t.vis = { s.vis with chains := t.vis.chains }
    ∧ t.vis.chains = s.vis.chains.map fun d =>
        if d.ident = c.ident then { c with stages := c.stages.set i { x with done := true } } else d

/-- Every row of an image in memory is granted to a context for writing, and no word in error lies there in part. -/
def State.rowsWritable (s : State) (ctx base pitch n h : Nat) : Prop :=
  ∀ y, y < h → s.accessOk ctx (base + y * pitch) n true = true ∧ s.writeError (base + y * pitch) n = none

/-- Level `l` of a pyramid over an image. -/
def pyramidLevel (m : Image) (w h : Nat) : Nat → Image
  | 0 => m
  | l + 1 => coarser (pyramidLevel m w h l) (levelDim w l) (levelDim h l)

/-! ### Capture -/

/-- A receiver is enabled, and takes what arrives. -/
abbrev State.receives (s : State) (rx : Nat) : Prop := s.isLive ∧ s.bit R.CAP_RX_CTRL [rx] 0 = true

/-- The frame record of a frame that ended (Table 10.1) is in memory, and memory differs nowhere else. -/
def frameRecorded (n : Nat) (f : CapFrame) (status flags : Nat) (s t : State) : Prop :=
  t.le (s.recordAt n f.buffer) 4 = (s.rd R.CAP_V_FRAMES [n]).toNat ∧ t.le (s.recordAt n f.buffer + 4) 1 = status
    ∧ t.le (s.recordAt n f.buffer + 5) 1 = flags ∧ t.le (s.recordAt n f.buffer + 6) 2 = f.lines % 2 ^ 16
    ∧ t.le (s.recordAt n f.buffer + 8) 8 = f.start % 2 ^ 64 ∧ t.le (s.recordAt n f.buffer + 16) 8 = s.now % 2 ^ 64
    ∧ t.le (s.recordAt n f.buffer + 24) 4 = f.corrected % 2 ^ 32 ∧ t.le (s.recordAt n f.buffer + 28) 4 = 0
    ∧ sameMemBut (s.recordAt n f.buffer) 32 s t

/-- Memory takes the record of buffer `i` of a stream. -/
abbrev State.recordFits (s : State) (n i : Nat) : Prop :=
  s.accessOk (s.vidCtx n) (s.recordAt n i) 32 true = true ∧ s.writeError (s.recordAt n i) 32 = none

/-- Memory takes the flags of the record of buffer `i` of a stream. -/
abbrev State.flagsFit (s : State) (n i : Nat) : Prop :=
  s.accessOk (s.vidCtx n) (s.recordAt n i + 5) 1 true = true ∧ s.writeError (s.recordAt n i + 5) 1 = none

/-- The open frame of a stream, with what the header of the packet at hand adds. -/
def State.openFrame (s : State) (n : Nat) (corrected : Bool) : Option CapFrame :=
  (s.vid n).frame.map fun f => { f with corrected := f.corrected + b2n corrected }

/-- The state of one buffer of a stream is `v`, and of the others what it was. -/
def bufferIs (n i v : Nat) (s t : State) : Prop :=
  t.bufState n i = v ∧ ∀ j, j < 8 → j ≠ i → t.bufState n j = s.bufState n j

/-- Work under way in capture, I²C controllers and AUX channels is within its limits (R243, R245, R250, R216). -/
abbrev State.unitsBounded (s : State) : Prop :=
  (∀ n, n < 16 → ∀ f ∈ (s.vid n).frame, f.buffer < 8) ∧ (∀ c, c < 4 → ∀ r ∈ vecGet s.cap.i2c c none, r.wlen ≤ 16 ∧ r.rlen ≤ 32)
    ∧ ∀ o, o < 4 → ∀ a ∈ (s.edp o).aux, 0 < a.len ∧ a.len ≤ 16

/-! ### Slice synthesis -/

/-- No two released slices of an output have the same frame and slice. -/
abbrev State.runsDistinct (s : State) (o : Nat) : Prop := ((s.out o).runs.map fun r => (r.frame, r.slice)).Nodup

/-- The slice that a tag names is released, and `r` is its entry. -/
abbrev State.atSlice (s : State) (tag : SliceTag) (r : SliceRun) : Prop :=
  s.isLive ∧ s.runsDistinct tag.output.val ∧ s.run tag.output.val tag.frame tag.slice.val = some r

/-- The slice is in state `r`, and its frame, where it is known, has its origin. -/
def sliceIs (tag : SliceTag) (r : SliceRun) (code : Nat) (t : State) : Prop :=
  t.run tag.output.val tag.frame tag.slice.val = some r
    ∧ ∀ f, t.frameRec tag.output.val tag.frame = some f → f.originOf tag.slice.val = code

/-- What the fallback ladder gives a slice: warped (1) with a last complete output, else blanket (3). -/
def State.ladderCode (s : State) (o : Nat) : Nat :=
  match s.pipeOf o with
  | some p => if s.lcoValid p then 1 else 3
  | none => 3

/-- The slice took the ladder: its write window is closed and its origin decided. -/
def ladderTaken (tag : SliceTag) (s t : State) : Prop :=
  ∃ y, t.run tag.output.val tag.frame tag.slice.val = some y ∧ y.origin = some (s.ladderCode tag.output.val) ∧ y.window = false
    ∧ ∀ f, t.frameRec tag.output.val tag.frame = some f → f.originOf tag.slice.val = s.ladderCode tag.output.val

end Sys2Proof.Machine
end

