-- ==== Sys2Proof/Certificates/Slice0/Obligations.lean ====
section
/-! DEFINITION. The statements for the provers, by chapter of the spec. -/

open Sys2Proof Sys2Proof.Machine

/-- A step on a queue that is not empty is exec of its front command on the state with the queue's rest. On an empty queue one tick of
1 ns passes, in which TIMEBASE moves at its rate, and frames that wait in a port's queue may leave it (log 1: the model's choice), unless
the device is held in reset. -/
def Obligations.StepRunsFrontCommand : Prop :=
  (∀ (s : State) (c : Instr) (rest : List Instr), s.pending = c :: rest → step s = exec c (s.withPending rest)) ∧
  (∀ (s : State) (q : List Instr), (s.withPending q).pending = q ∧ changesOnly [.queue] s (s.withPending q)) ∧
  (∀ s : State, s.pending = [] → s.dev.inReset = true → step s = .next s) ∧
  (∀ s : State, s.pending = [] → s.isUp → ∃ t, step s = .next t ∧ changesOnly [.tim, .regs, .eth] s t
    ∧ t.tim = { s.tim with base := s.tim.base + BitVec.ofInt 96 (2 ^ 32 + s.tim.a) }
    ∧ (s.eth.queued = [] → t.cfg = s.cfg ∧ t.eth = s.eth))

/-- Every register reads its reset value after reset, of which some with a value other than 0 are named; TIMEBASE is 0, the key engine
holds no key, no queue, task, slot, pass or chain is under way, and the device is held in reset (log 5). Memory reads 0 (log 3), and what
the spec gives no register for is empty (log 73): both are the model's choice. The invariants of the machine hold, and no word of the
opcode table spells a command (log 10). -/
def Obligations.ResetState : Prop :=
  (∀ (r : Reg) (ix : List Nat), State.reset.rd r ix = r.reset ix) ∧
  (∀ n : Fin 16, State.reset.rd R.CAP_V_CTRL [n.val] = 2 ∧ State.reset.rd R.CAP_V_NBUF [n.val] = 2
    ∧ State.reset.rd R.CAP_V_PAIR_TOL [n.val] = 0x7A120 ∧ State.reset.rd R.CAP_V_TMO [n.val] = 0x186A0) ∧
  (∀ n : Fin 8, State.reset.rd R.CAP_A_PERIOD [n.val] = 256 ∧ State.reset.rd R.CAP_A_NPER [n.val] = 2) ∧
  (∀ n : Fin 4, State.reset.rd R.I2C_CTRL [n.val] = 1 ∧ State.reset.rd R.I2C_STRETCH [n.val] = 25000) ∧
  (State.reset.tim.base = 0 ∧ State.reset.sec.identity = none ∧ State.reset.sec.currentKey = none ∧ State.reset.sch.queues = []
    ∧ State.reset.sch.tasks = [] ∧ State.reset.sch.slots = [] ∧ State.reset.passes = [] ∧ State.reset.vis.chains = []
    ∧ State.reset.dev.inReset = true ∧ State.reset.pending = [] ∧ ∀ a, State.reset.byte a = 0) ∧
  (State.reset.canonical ∧ State.reset.dev.resetAsked = none ∧ State.reset.scheduleNumbered ∧ State.reset.passesNumbered
    ∧ State.reset.chainsNumbered ∧ (∀ o, State.reset.runsDistinct o) ∧ State.reset.unitsBounded) ∧
  (∀ nbits w, decodeTableWord nbits w = none ∧ ∀ s : State, s.withFetchWord nbits w = s)

/-- Every step and every command answers a next state: no command faults or is refused (log 2). A step keeps the canonical forms of the register file and
of memory, the assembly, and that no device reset is left half asked; a command never changes the queue behind it; and while the device is
held in reset, nothing but its pins changes anything. -/
def Obligations.EveryStepKeepsCanonicalForm : Prop :=
  (∀ s : State, ∃ t, step s = .next t) ∧ (∀ (c : Instr) (s : State), ∃ t, exec c s = .next t) ∧
  (∀ s t : State, step s = .next t → (s.canonical → t.canonical) ∧ (s.dev.resetAsked = none → t.dev.resetAsked = none)
    ∧ t.dev.assembly = s.dev.assembly) ∧
  (∀ (c : Instr) (s t : State), exec c s = .next t → t.pending = s.pending) ∧
  (∀ (c : Instr) (s : State), s.dev.inReset = true → c ≠ .resetNAssert → c ≠ .refclkLoss →
    (∀ straps faults, c ≠ .resetRelease straps faults ∧ c ≠ .refclkReturn straps faults) → exec c s = .next s)

/-- In every state in which slots lie on logical cores, and tasks and queues have legal numbers, a step leaves them so, and likewise:
passes belong to contexts and to sketch units; vision chains carry rising numbers; no two released slices of an output are of the same
frame and slice; capture frames fill buffers 0 to 7, and I²C reads and AUX transactions are of legal lengths. -/
def Obligations.EveryStepKeepsNumbering : Prop :=
  ∀ s t : State, step s = .next t →
    (s.scheduleNumbered → t.scheduleNumbered) ∧
    (s.scheduleNumbered → s.passesNumbered → t.passesNumbered) ∧
    (s.chainsNumbered → t.chainsNumbered) ∧
    (∀ o, s.runsDistinct o → t.runsDistinct o) ∧
    (s.unitsBounded → t.unitsBounded)

/-- R34: an enable check passes only for S = 16, 32 or 64; a slice that a pipe fetches is shown from line floor(s × V / S) up to the line
before the next slice's first; every active line lies in exactly one slice, and the last slice ends at line V − 1. -/
def Obligations.SlicesCoverTheFrame : Prop :=
  (∀ (s : State) (o : Nat) (h : ModelHeader), s.enableCheck o h = 0 → s.synS o = 16 ∨ s.synS o = 32 ∨ s.synS o = 64) ∧
  (∀ (s : State) (tag : SliceTag) (p m : Nat), s.isLive → s.pipeOf tag.output.val = some p → m ∈ s.readersOf p → m < 5 →
    let S := s.synS tag.output.val
    let V := (s.synTiming tag.output.val).vActive
    let n := tag.slice.val
    ∃ t, exec (.sliceFetch tag) s = .next t ∧ t.pending = s.pending
      ∧ ((t.pipe m).shown.find? fun y => y.frame == tag.frame && y.slice == n).map (fun y => (y.first, y.first + y.lines)) = some (n * V / S, (n + 1) * V / S)) ∧
  (∀ S V y : Nat, S = 16 ∨ S = 32 ∨ S = 64 → y < V →
    ∃ n, n < S ∧ (n * V / S ≤ y ∧ y < (n + 1) * V / S) ∧ ∀ k, k < S → k * V / S ≤ y → y < (k + 1) * V / S → k = n) ∧
  (∀ S V : Nat, S = 16 ∨ S = 32 ∨ S = 64 → (S - 1 + 1) * V / S = V)

/-- R40: the next slice of an output is released with its entry in the queue, and the first of a frame latches the keyframe pair and the
values in force; R42: without room in the queue it is counted, and has no task. R45: a tagged write enters the open write window, and is
counted and discarded else. R51, R52: a complete and confident slice-done word makes the slice synthesized; a short or unsure one, and
the fallback point, send it to the ladder, which warps it or leaves it blanket. R54: a warp that ends gives its pixels, or in error
blanket; so does its deadline. R56: a keyframe-direct copy gives the keyframe's rows. R57: a slice fetched before it is final is blanket,
and counts.
R48: write-back stores the slice's rows and frees its entry. -/
def Obligations.SlicesAreReleasedAndDecided : Prop :=
  (∀ (s : State) (o : Fin 4) (fr : FrameRec) (k0 k1 : Keyframe) (qu : Queue), s.isLive → s.synOn o.val = true →
    let x := s.out o.val
    let f := x.nextFrame
    let n := x.nextSlice
    x.first = false → (s.pipeOf o.val).isSome = true → n ≠ 0 → n + 1 < s.synS o.val → s.runsDistinct o.val →
    (∀ r ∈ x.runs, ¬(r.frame = f ∧ r.slice = n)) → x.runs.length < s.fld R.SYN_ENTRIES [o.val] 7 0 → x.work = none →
    s.frameRec o.val f = some fr → fr.pair = some (k0, k1) →
    (s.synD o.val == 1 && s.bit R.SYN_CTRL [o.val] 1 && s.isKfRefresh o.val f && x.kfComplete (s.kfIndex o.val f)) = false →
    let q := s.fld R.SYN_QUEUE [o.val] 13 0
    let due := (s.sliceTimes o.val f n x.budget x.margin).deadline.toNat
    (s.openQueue q = some qu →
      let a := qu.desc.subBase + 64 * (qu.pLast.toNat % qu.desc.size)
      qu.ident = q → s.writeError a 64 = none → s.partResetting (s.ctxPart (q / 256)) = false → 0 < qu.desc.size →
      qu.desc.size < 2 ^ 31 →
      ∃ t, exec (.sliceRelease o) s = .next t ∧ t.pending = s.pending ∧ (t.out o.val).nextFrame = f ∧ (t.out o.val).nextSlice = n + 1
        ∧ (∃ r, t.run o.val f n = some r ∧ r.task = some (q, qu.pLast) ∧ r.window = true ∧ r.origin = none ∧ r.deadline = due
            ∧ r.history = x.histGood.contains (n, f - 1))
        ∧ t.le a 1 = 1 ∧ t.le (a + 4) 4 = f.toNat % 65536 + 65536 * n + 2 ^ 24 * o.val
        ∧ t.le (a + 8) 8 = due / 2 ^ 32 % 2 ^ 64 ∧ t.le (a + 16) 8 = s.rd64 R.SYN_LAUNCH_LO R.SYN_LAUNCH_HI [o.val]
        ∧ sameMemBut a 64 s t ∧ ∃ y, t.queue q = some y ∧ y.pLast = qu.pLast + 1) ∧
    (s.openQueue q = none →
      completes (.sliceRelease o) s [.regs, .syn] fun t => counted R.SYN_CNT_RELDROP [o.val] s t
        ∧ ∃ r, t.run o.val f n = some r ∧ r.task = none ∧ r.window = true ∧ r.deadline = due)) ∧
  (∀ (s : State) (o : Fin 4), s.isLive → s.synOn o.val = true →
    let x := s.out o.val
    x.first = false → (s.pipeOf o.val).isSome = true → x.nextSlice = 0 →
    ∃ t, exec (.sliceRelease o) s = .next t ∧ t.pending = s.pending
      ∧ (∃ fr ∈ (t.out o.val).frames, fr.frame = x.nextFrame ∧ fr.pair = x.latchPair.1 ∧ fr.conf = s.rd R.SYN_CONF [o.val] ∧ fr.recorded = false)
      ∧ (t.out o.val).budget = (s.rd R.SYN_BUDGET [o.val]).toNat ∧ (t.out o.val).margin = s.fld R.SYN_MARGIN [o.val] 17 0) ∧
  (∀ (s : State) (o : Fin 4), s.isLive → (s.synOn o.val = false ∨ (s.out o.val).first = true) → exec (.sliceRelease o) s = .next s) ∧
  (∀ (s : State) (tag : SliceTag) (r : SliceRun) (offset : BitVec 24) (data : List Byte), s.atSlice tag r → r.window = true →
    completes (.taggedSliceWrite tag offset data) s [.syn] fun t =>
      ∃ y, t.run tag.output.val tag.frame tag.slice.val = some y ∧ y = { r with data := y.data }
        ∧ (∀ i, i < data.length → offset.toNat + i < 5 * s.runPixels tag.output.val r → (offset.toNat + i, data.getD i 0) ∈ y.data)
        ∧ ∀ c ∈ y.data, c ∈ r.data ∨ (offset.toNat ≤ c.1 ∧ c.1 < offset.toNat + data.length ∧ c.1 < 5 * s.runPixels tag.output.val r)) ∧
  (∀ (s : State) (tag : SliceTag) (offset : BitVec 24) (data : List Byte) (word : Word), s.isLive →
    (∀ r, s.run tag.output.val tag.frame tag.slice.val = some r → r.window = false) →
    ∀ c ∈ [.taggedSliceWrite tag offset data, .sliceDoneWord tag word],
      completes c s [.regs] fun t => counted R.SYN_CNT_LATEWRITE [tag.output.val] s t
        ∧ sameRegsBut [regAddr R.SYN_CNT_LATEWRITE [tag.output.val], regAddr R.SYN_CNT_OVF [tag.output.val]] s t) ∧
  (∀ (s : State) (tag : SliceTag) (r : SliceRun) (word : Word), s.atSlice tag r → r.window = true →
    let o := tag.output.val
    let P := s.runPixels o r
    let conf := match s.frameRec o tag.frame with | some f => f.conf | none => (s.out o).conf
    let fails := confidenceFails conf P (lowConfidence r.data P (bits conf 7 0)) (natBit word.toNat 0)
    (5 * P ≤ r.data.length → fails = false →
      completes (.sliceDoneWord tag word) s [.regs, .syn, .sch] fun t =>
        sliceIs tag { r with final := true, origin := some 0, window := false, direct := false } 0 t) ∧
    (5 * P ≤ r.data.length → fails = true →
      completes (.sliceDoneWord tag word) s [.regs, .syn, .sch] fun t => counted R.SYN_CNT_LOWCONF [o] s t ∧ ladderTaken tag s t) ∧
    (r.data.length < 5 * P →
      completes (.sliceDoneWord tag word) s [.regs, .syn, .sch] fun t => counted R.SYN_CNT_SHORT [o] s t ∧ ladderTaken tag s t)) ∧
  (∀ (s : State) (tag : SliceTag) (r : SliceRun), s.atSlice tag r →
    (r.origin.isSome = true → exec (.fallbackPoint tag) s = .next s) ∧
    (r.origin = none → r.task = none →
      completes (.fallbackPoint tag) s [.regs, .syn] fun t => counted R.SYN_CNT_MISSED [tag.output.val] s t ∧ ladderTaken tag s t) ∧
    (∀ q seq, r.origin = none → r.task = some (q, seq) →
      ∃ t, exec (.fallbackPoint tag) s = .next t ∧ t.pending = s.pending ∧ ladderTaken tag s t
        ∧ ((s.task q seq).isSome = true → t.task q seq = none))) ∧
  (∀ (s : State) (tag : SliceTag) (r : SliceRun) (p b : Nat) (records : List Byte), s.atSlice tag r →
    let o := tag.output.val
    s.pipeOf o = some p → r.warp = some (b, records) → r.origin = some 1 → r.final = false →
    let px := s.warpSlice o p tag.frame tag.slice.val records ((s.frameRec o tag.frame).bind fun f => f.pair.map fun k => k.1)
    completes (.warpEnd tag) s [.free, .regs, .syn, .sct, .sch] fun t => t.rd R.WRP_LAST_NS [p] = BitVec.ofNat 32 (tWarp (s.runPixels o r)) ∧
      (∀ bs, px = some bs → t.rd R.WRP_COUNT [p] = s.rd R.WRP_COUNT [p] + 1
        ∧ t.run o tag.frame tag.slice.val = some { r with data := cellsOf bs, final := true, warp := none, warpCopying := false }) ∧
      (px = none → counted R.WRP_ERR_COUNT [p] s t ∧ ∃ y, t.run o tag.frame tag.slice.val = some y ∧ y.origin = some 3 ∧ y.final = false)) ∧
  (∀ (s : State) (tag : SliceTag) (r : SliceRun), s.atSlice tag r →
    (r.origin = some 1 → r.final = false →
      completes (.warpDeadline tag) s [.regs, .syn] fun t => sliceIs tag { r with origin := some 3, window := false, direct := false } 3 t) ∧
    ((r.origin ≠ some 1 ∨ r.final = true) → exec (.warpDeadline tag) s = .next s)) ∧
  (∀ (s : State) (tag : SliceTag) (r : SliceRun) (k : Keyframe) (rows : List (List Byte)), s.atSlice tag r → r.direct = true →
    r.origin = none →
    let o := tag.output.val
    let T := s.synTiming o
    (s.out o).keyframe (s.kfIndex o tag.frame) = some k → k.disp ≠ 0 →
    rows.length = sliceLines (s.synS o) T.vActive tag.slice.val →
    (∀ y, y < rows.length → s.readFor (s.synCtx o) (k.disp + (firstLine (s.synS o) T.vActive tag.slice.val + y) * k.dispPitch) (4 * T.hActive)
      = .ok (rows.getD y [])) →
    completes (.keyframeDirectEnd tag true) s [.free, .regs, .syn, .sct, .sch] (fun t =>
        sliceIs tag { r with data := cellsOf rows.flatten, final := true, origin := some 2, window := false, direct := false } 2 t)
      ∧ completes (.keyframeDirectEnd tag false) s [.free, .regs, .syn, .sct, .sch] (fun t => ladderTaken tag s t)) ∧
  (∀ (s : State) (tag : SliceTag) (r : SliceRun) (p : Nat), s.atSlice tag r → s.pipeOf tag.output.val = some p →
    (r.final = true → completes (.sliceFetch tag) s [.dsp] fun t => ∀ m ∈ s.readersOf p, m < 5 →
      ((t.pipe m).shown.find? fun y => y.frame == tag.frame && y.slice == tag.slice.val).map (·.pixels) = some (some r.data)) ∧
    (∀ f, r.final = false → s.frameRec tag.output.val tag.frame = some f →
      completes (.sliceFetch tag) s [.regs, .syn, .dsp] fun t => counted R.SYN_CNT_GUARD [tag.output.val] s t
        ∧ sliceIs tag { r with origin := some 3, window := false, direct := false } 3 t
        ∧ ∀ m ∈ s.readersOf p, m < 5 → ((t.pipe m).shown.find? fun y => y.frame == tag.frame && y.slice == tag.slice.val).map (·.pixels) = some none)) ∧
  (∀ (s : State) (tag : SliceTag) (r : SliceRun) (f : FrameRec) (p : Nat), s.atSlice tag r →
    let o := tag.output.val
    s.pipeOf o = some p → s.frameRec o tag.frame = some f → s.synOn o = true →
    let T := s.synTiming o
    let n := tag.slice.val
    let surf := s.lcoSurface p (tag.frame.toNat % 2) T.hActive T.vActive
    let first := firstLine (s.synS o) T.vActive n
    let lines := sliceLines (s.synS o) T.vActive n
    let data := s.finalPixels o p (some r) n
    data.length = 4 * T.hActive * lines → 4 * T.hActive ≤ surf.pitch →
    (∀ y, y < lines → s.accessOk (s.synCtx o) (surf.base + (first + y) * surf.pitch) (4 * T.hActive) true = true
      ∧ s.writeError (surf.base + (first + y) * surf.pitch) (4 * T.hActive) = none) →
    completes (.sliceWritebackEnd tag) s [.free, .regs, .mem, .syn, .sct, .err, .sch] fun t => t.run o tag.frame n = none
      ∧ (∀ y, y < lines → t.bytes (surf.base + (first + y) * surf.pitch) (4 * T.hActive) = sliceBytes data (4 * T.hActive * y) (4 * T.hActive))
      ∧ (∀ b, (∀ y, y < lines → b < surf.base + (first + y) * surf.pitch ∨ surf.base + (first + y) * surf.pitch + 4 * T.hActive ≤ b) →
          t.byte b = s.byte b)
      ∧ ((n :: f.written.filter (· != n)).length = s.synS o → f.spoiled = false →
          t.bit R.WRP_STATUS [p] 1 = true ∧ t.rd R.WRP_LCO_FRAME [p] = tag.frame))

/-- R66: an enable starts a check, whose end enables the output and writes its slice registers, or takes `syn_en` back and leaves the
code of the first failing test. R63: a disable ends synthesis. R68: a locked write, and a tested one that fails, changes nothing but the
code. R73, R74: a bank is published, and copies from it end with its bytes. R81: a job is launched with its descriptor and entry. R83–R85:
a report of the outstanding job is accepted and may ask for a swap, enter the window, or revert; any other is counted. (In mode 1 it only
ends the job: log 34, the model's choice.) R86, R87: a timeout
fails the job, and at the limit reverts; a rearm clears the revert. R88: a mode is taken. -/
def Obligations.SynthesisIsConfiguredAndAdapted : Prop :=
  (∀ (s : State) (o : Fin 4) (v : Word), s.isLive →
    completes (.synEnable o v) s [.regs, .syn] fun t => t.rd R.SYN_CTRL [o.val] = (v &&& 0x3F) ||| 1
      ∧ sameRegsBut [regAddr R.SYN_CTRL [o.val]] s t
      ∧ (s.synOn o.val = false → (t.out o.val).checking = true) ∧ (s.synOn o.val = true → t.syn = s.syn)) ∧
  (∀ (s : State) (o : Fin 4) (h : ModelHeader), s.isLive → (s.out o.val).checking = true →
    let code := (s.setOut o.val { s.out o.val with checking := false, halo := h.halo }).enableCheck o.val h
    (code ≠ 0 → completes (.synEnableCheckEnd o h) s [.free, .regs, .syn, .sct, .sch] fun t => t.sch = { s.sch with models := t.sch.models } ∧ t.bit R.SYN_CTRL [o.val] 0 = false
      ∧ t.synOn o.val = false ∧ t.fld R.SYN_STATUS [o.val] 15 8 = code ∧ (t.out o.val).checking = false
      ∧ sameRegsBut ([regAddr R.SYN_CTRL [o.val], regAddr R.SYN_STATUS [o.val]] ++ eventRegs) s t) ∧
    (code = 0 → completes (.synEnableCheckEnd o h) s [.regs, .syn] fun t => t.synOn o.val = true ∧ t.fld R.SYN_STATUS [o.val] 15 8 = 0
      ∧ t.rd R.SYN_ORING_WR [o.val] = 0 ∧ (t.out o.val).checking = false ∧ (t.out o.val).histGood = []
      ∧ ∀ n, n < s.synS o.val → t.rd R.SYN_SLICE [o.val, n] = BitVec.ofNat 32
          (firstLine (s.synS o.val) (s.synTiming o.val).vActive n + 65536 * sliceLines (s.synS o.val) (s.synTiming o.val).vActive n))) ∧
  (∀ (s : State) (o : Fin 4) (h : ModelHeader), s.isLive → (s.out o.val).checking = false → exec (.synEnableCheckEnd o h) s = .next s) ∧
  (∀ (s : State) (o : Fin 4) (v : Word), s.isLive → (∀ r ∈ (s.out o.val).runs, r.task = none) →
    s.runsDistinct o.val →
    completes (.synDisable o v) s [.regs, .syn, .sch] fun t => t.sch = { s.sch with models := t.sch.models } ∧ t.rd R.SYN_CTRL [o.val] = v &&& 0x3E ∧ t.synOn o.val = false
      ∧ (t.out o.val).checking = false ∧ (s.synOn o.val = true → t.bit R.SYN_STATUS [o.val] 4 = false
        ∧ ∀ r ∈ (t.out o.val).runs, r.origin ≠ none)) ∧
  (∀ (s : State) (o : Fin 4) (reg : SynLocked) (v : Word), s.isLive →
    (s.bit R.SYN_CTRL [o.val] 0 = true → completes (.synLockedWrite o reg v) s [.free, .regs, .sct] fun t =>
      t.fld R.SYN_STATUS [o.val] 15 8 = 0x0C ∧ sameRegsBut (regAddr R.SYN_STATUS [o.val] :: eventRegs) s t) ∧
    (s.bit R.SYN_CTRL [o.val] 0 = false → completes (.synLockedWrite o reg v) s [.regs] fun t =>
      t.rd (lockedReg reg) [o.val] = (s.rd (lockedReg reg) [o.val] &&& ~~~(lockedReg reg).rw) ||| (v &&& (lockedReg reg).rw)
        ∧ sameRegsBut [regAddr (lockedReg reg) [o.val]] s t)) ∧
  (∀ (s : State) (o : Fin 4) (reg : SynTested) (v : Word), s.isLive →
    let code := if s.bit R.SYN_CTRL [o.val] 0 then s.testedCode o.val reg v else 0
    (code ≠ 0 → completes (.synTestedWrite o reg v) s [.free, .regs, .sct] fun t =>
      t.fld R.SYN_STATUS [o.val] 15 8 = code ∧ sameRegsBut (regAddr R.SYN_STATUS [o.val] :: eventRegs) s t) ∧
    (code = 0 → completes (.synTestedWrite o reg v) s [.regs] fun t =>
      t.rd (testedReg reg) [o.val] = (s.rd (testedReg reg) [o.val] &&& ~~~(testedReg reg).rw) ||| (v &&& (testedReg reg).rw)
        ∧ sameRegsBut [regAddr (testedReg reg) [o.val]] s t)) ∧
  (∀ (s : State) (o : Fin 4) (b : Fin 2), s.isLive →
    completes (.bankPublish o b) s [.regs, .syn] fun t => t.curBank o.val = b.val ∧ (t.out o.val).published = true
      ∧ sameRegsBut [regAddr R.SYN_STATUS [o.val]] s t) ∧
  (∀ (s : State) (o : Fin 4) (b : Fin 2) (r : SliceRun), s.isLive → s.runsDistinct o.val → r ∈ (s.out o.val).runs →
    let fails (x : SliceRun) := (s.runView o.val x).bind fun v => s.readsFail (s.synCtx o.val) (s.sliceReads v)
    ((∀ x ∈ (s.out o.val).runs, x.copying = true → x.bank = b.val → fails x = none) →
      completes (.bankCopyEnd o b) s [.free, .regs, .mem, .syn, .sct, .err, .sch] fun t => t.bit R.SYN_STATUS [o.val] (2 + b.val) = false
      ∧ ∃ y, t.run o.val r.frame r.slice = some y ∧ y.busyWith b.val = false ∧ (r.busyWith b.val = false → y = r)
          ∧ (∀ i, i < r.vectors.length → r.vectors.getD i 0 = s.byte (s.bankAddr o.val b.val + i) →
              y.vectors.getD i 0 = r.vectors.getD i 0)
          ∧ ∀ v, r.copying = true → r.bank = b.val → s.runView o.val r = some v →
              y.inputs.take 4 = [s.kfTensor v, s.flowTensor v, s.histTensor v, y.vectors]) ∧
    (∀ q seq, (∀ x ∈ (s.out o.val).runs, x.busyWith b.val = true → x = r) → r.copying = true → r.bank = b.val → r.task = some (q, seq) →
      (fails r).isSome = true → (s.task q seq).isSome = true →
      ∃ t, exec (.bankCopyEnd o b) s = .next t ∧ t.pending = s.pending ∧ t.task q seq = none)) ∧
  (∀ (s : State) (o : Fin 4) (w : AdaptWork) (q : Queue), s.isLive → (s.out o.val).work = some w →
    let target := s.adpTarget o.val
    let work := s.rdAddr R.SYN_ADP_WORK_LO R.SYN_ADP_WORK_HI [o.val]
    let a := q.desc.subBase + 64 * (q.pLast.toNat % q.desc.size)
    s.openQueue (s.fld R.SYN_QUEUE [o.val] 29 16) = some q → q.ident = s.fld R.SYN_QUEUE [o.val] 29 16 →
    (s.bufferFree o.val target = false → exec (.adaptJobLaunch o) s = .next s) ∧
    (w.job = none → w.left = [] → (s.out o.val).kfComplete w.keyframe = true → s.bufferFree o.val target = true → s.adpMode o.val = 2 →
      s.accessOk (s.synCtx o.val) (work + 0x40) 64 true = true → s.writeError (work + 0x40) 64 = none → s.writeError a 64 = none →
      (work + 0x80 ≤ a ∨ a + 64 ≤ work + 0x40) →
      completes (.adaptJobLaunch o) s [.free, .regs, .mem, .err, .syn, .sct, .sch] fun t => (t.out o.val).claim = target
        ∧ (t.out o.val).refNumber = w.ref + 1 ∧ (t.out o.val).work = some { w with job := some (q.ident, q.pLast) }
        ∧ t.le (work + 0x40) 4 = w.ref.toNat ∧ t.le (work + 0x44) 1 = o.val ∧ t.le (work + 0x48) 1 = target
        ∧ t.le a 1 = 1 ∧ t.le (a + 4) 4 = w.ref.toNat ∧ t.le (a + 24) 8 = work)) ∧
  (∀ (s : State) (o : Fin 4) (ref lossA lossB : Word) (flags : Byte), s.isLive → (s.out o.val).ignore.contains ref = true →
    completes (.adaptReport o ref flags lossA lossB) s [.syn] fun t =>
      t.out o.val = { s.out o.val with ignore := (s.out o.val).ignore.erase ref }) ∧
  (∀ (s : State) (o : Fin 4) (ref lossA lossB : Word) (flags : Byte), s.isLive → (s.out o.val).ignore.contains ref = false →
    (∀ w, (s.out o.val).work = some w → w.job = none ∨ w.ref ≠ ref ∨ s.bit R.SYN_ADP_STATUS [o.val] 3 = false
      ∨ (flOf lossB).isFinite = false) →
    completes (.adaptReport o ref flags lossA lossB) s [.regs] fun t => counted R.SYN_ADP_CNT_BAD [o.val] s t
      ∧ sameRegsBut [regAddr R.SYN_ADP_CNT_BAD [o.val], regAddr R.SYN_ADP_CNT_OVF [o.val]] s t) ∧
  (∀ (s : State) (o : Fin 4) (ref lossA lossB : Word) (flags : Byte) (w : AdaptWork), s.isLive →
    let x := s.out o.val
    x.ignore.contains ref = false → x.work = some w → w.job.isSome = true → w.ref = ref → s.bit R.SYN_ADP_STATUS [o.val] 3 = true →
    (flOf lossB).isFinite = true →
    let all := x.window ++ [(lossA, lossB)]
    let window := if natBit flags.toNat 3 then all.drop (all.length - s.adpWindow o.val) else x.window
    let full : Bool := natBit flags.toNat 3 && window.length == s.adpWindow o.val
    let reverts : Bool := !(flOf lossA).isFinite || (full && windowReverts window (s.rd R.SYN_ADP_THETA [o.val]))
    let buffer := if natBit flags.toNat 1 then 2 else 1
    (s.adpMode o.val ≠ 2 → completes (.adaptReport o ref flags lossA lossB) s [.regs, .syn] fun t =>
      (t.out o.val).work = none ∧ (t.out o.val).failedRun = 0 ∧ (t.out o.val).window = x.window ∧ (t.out o.val).swapTo = x.swapTo
        ∧ (t.out o.val).claim = x.swapTo) ∧
    (s.adpMode o.val = 2 → reverts = true → completes (.adaptReport o ref flags lossA lossB) s [.free, .regs, .syn, .sct, .sch] fun t =>
      (t.out o.val).work = none ∧ (t.out o.val).window = [] ∧ (t.out o.val).toZero = true ∧ (t.out o.val).swapTo = 0
        ∧ t.bit R.SYN_ADP_STATUS [o.val] 6 = true ∧ counted R.SYN_ADP_CNT_REVERT [o.val] s t) ∧
    (s.adpMode o.val = 2 → reverts = false → completes (.adaptReport o ref flags lossA lossB) s [.regs, .syn] fun t =>
      (t.out o.val).work = none ∧ (t.out o.val).failedRun = 0 ∧ (t.out o.val).window = window
        ∧ (full = true → t.rd R.SYN_ADP_MEAN_A [o.val] = meanFp32 (window.map (·.1)) ∧ t.rd R.SYN_ADP_MEAN_B [o.val] = meanFp32 (window.map (·.2)))
        ∧ (natBit flags.toNat 0 = false → (t.out o.val).claim = 0 ∧ (t.out o.val).swapTo = x.swapTo)
        ∧ (natBit flags.toNat 0 = true → x.swapTo = 0 → buffer = x.claim → (t.out o.val).swapTo = buffer)
        ∧ (natBit flags.toNat 0 = true → (x.swapTo ≠ 0 ∨ buffer ≠ x.claim) → counted R.SYN_ADP_CNT_REFUSED [o.val] s t
          ∧ (t.out o.val).swapTo = x.swapTo))) ∧
  (∀ (s : State) (o : Fin 4) (w : AdaptWork), s.isLive → (s.out o.val).work = some w → w.job.isSome = true →
    let limit := s.fld R.SYN_ADP_LIMITS [o.val] 19 16
    let reverts : Prop := limit ≠ 0 ∧ limit ≤ (s.out o.val).failedRun + 1 ∧ s.adpMode o.val = 2
    completes (.adaptJobTimeout o) s [.free, .regs, .syn, .sct] fun t => (t.out o.val).work = none
      ∧ counted R.SYN_ADP_CNT_FAIL [o.val] s t
      ∧ (¬reverts → (t.out o.val).failedRun = (s.out o.val).failedRun + 1 ∧ (t.out o.val).swapTo = (s.out o.val).swapTo
          ∧ (t.out o.val).claim = (s.out o.val).swapTo)
      ∧ (reverts → (t.out o.val).toZero = true ∧ (t.out o.val).claim = 0 ∧ t.bit R.SYN_ADP_STATUS [o.val] 6 = true
          ∧ counted R.SYN_ADP_CNT_REVERT [o.val] s t)) ∧
  (∀ (s : State) (o : Fin 4), s.isLive →
    completes (.adaptRearm o) s [.regs] fun t => t.bit R.SYN_ADP_STATUS [o.val] 6 = false ∧ t.bit R.SYN_ADP_STATUS [o.val] 7 = true
      ∧ sameRegsBut [regAddr R.SYN_ADP_STATUS [o.val]] s t) ∧
  (∀ (s : State) (o : Fin 4) (m : Fin 4), s.isLive →
    completes (.adaptModeWrite o m) s [.regs, .syn] fun t => t.fld R.SYN_ADP_CTRL [o.val] 1 0 = m.val
      ∧ sameRegsBut [regAddr R.SYN_ADP_CTRL [o.val], regAddr R.SYN_ADP_STATUS [o.val]] s t
      ∧ (m.val = 2 → s.fld R.SYN_ADP_CTRL [o.val] 1 0 = 0 → t.bit R.SYN_ADP_STATUS [o.val] 7 = true)
      ∧ (m.val = 0 → s.fld R.SYN_ADP_CTRL [o.val] 1 0 ≠ 0 → (t.out o.val).toZero = true ∧ (t.out o.val).work = none
          ∧ (t.out o.val).swapTo = 0 ∧ (t.out o.val).window = [])
      ∧ (m.val = 1 → ∀ w, (s.out o.val).work = some w → (t.out o.val).work = if w.job.isSome then some w else none))

/-- R92, R139: LDW loads a tile, plain or codebook, beside the one in use. R90, R91, R131, R154, R157: MMA, CONV and DWC take the
tile that LDW loaded and add, for each row of activations, the products of every output channel to the row's entries, in INT32; only
those rows, the tiles and the bytes moved change. R93: with a stream tag, the rows that another engine has read under it serve this one
too. -/
def Obligations.EnginesMultiply : Prop :=
  (∀ (s : State) (n : EngineName) (cmd : LdwCmd) (x : Slot) (e : Engine) (bs : List Byte), s.isLive → s.atEngine n x e →
    cbOf cmd.fmt = none → (s.readShare x cmd.addr.toNat (plainBytes cmd.fmt)).toOption = some bs →
    slotCompletes (.engineLdw n cmd) s n.slot x [.regs, .sch] fun y t => engineOnly n x y ∧ sameRegsBut (bytesRegs x) s t
      ∧ y.engine n.engine.val = { e with idle := some (plainTile cmd.fmt bs) }) ∧
  (∀ (s : State) (n : EngineName) (cmd : LdwCmd) (x : Slot) (e : Engine) (nb : Nat) (k : ElemKind) (tile : Tile), s.isLive →
    s.atEngine n x e → cbOf cmd.fmt = some (nb, k) → (s.codebookTile x cmd nb k).toOption = some tile →
    slotCompletes (.engineLdw n cmd) s n.slot x [.regs, .sch] fun y t => engineOnly n x y ∧ sameRegsBut (bytesRegs x) s t
      ∧ y.engine n.engine.val = { e with idle := some tile }) ∧
  (∀ (s : State) (n : EngineName) (cmd : MmaCmd) (x : Slot) (e : Engine) (acts : Nat → List Byte), s.isLive → s.atEngine n x e →
    let tile := e.swapTile.current
    s.rowsHeld x cmd.accRow.toNat cmd.rows.toNat = true → tile.act = aCls cmd.afmt →
    (∀ r, r < cmd.rows.toNat →
      (s.readShare x (cmd.addr.toNat + r * cmd.pitch.toNat) (tile.depth * aSize cmd.afmt)).toOption = some (acts r)) →
    ownStream cmd.bcast x →
    slotCompletes (.engineMma n cmd) s n.slot x [.regs, .sch] fun y t => engineStream n x y
      ∧ (cmd.bcast = none → y.image.streams = x.image.streams) ∧ sameRegsBut (bytesRegs x) s t
      ∧ (y.engine n.engine.val).current = tile ∧ (y.engine n.engine.val).idle = none
      ∧ sameRowsBut cmd.accRow.toNat cmd.rows.toNat e (y.engine n.engine.val)
      ∧ (tile.fp = false → ∀ r c, r < cmd.rows.toNat → c < 16 →
          ((y.engine n.engine.val).row (cmd.accRow.toNat + r)).getD c 0 =
            (if cmd.overwrite then 0 else (e.row (cmd.accRow.toNat + r)).getD c 0)
              + dotInt tile ((rangeFrom 0 tile.depth).map (aElem cmd.afmt (acts r))) c (rangeFrom 0 tile.depth))) ∧
  (∀ (s : State) (n : EngineName) (cmd : MmaCmd) (x : Slot) (e : Engine) (tag : Byte) (u : ActStream), s.isLive → s.atEngine n x e →
    let tile := e.swapTile.current
    s.rowsHeld x cmd.accRow.toNat cmd.rows.toNat = true → tile.act = aCls cmd.afmt → cmd.bcast = some tag →
    x.image.streams.find? (fun v => v.tag == tag && !v.taken.contains n.engine.val && v.rows.length == cmd.rows.toNat) = some u →
    slotCompletes (.engineMma n cmd) s n.slot x [.regs, .sch] fun y t => engineStream n x y ∧ sameRegsBut (bytesRegs x) s t
      ∧ sameRowsBut cmd.accRow.toNat cmd.rows.toNat e (y.engine n.engine.val)
      ∧ (tile.fp = false → ∀ r c, r < cmd.rows.toNat → c < 16 →
          ((y.engine n.engine.val).row (cmd.accRow.toNat + r)).getD c 0 =
            (if cmd.overwrite then 0 else (e.row (cmd.accRow.toNat + r)).getD c 0)
              + dotInt tile (u.rows.getD r []) c (rangeFrom 0 tile.depth))) ∧
  (∀ (s : State) (n : EngineName) (cmd : ConvCmd) (x : Slot) (e : Engine) (acts : Nat → List Nat), s.isLive → s.atEngine n x e →
    let tile := e.swapTile.current
    let block := cmd.blkdiag.val ≠ 0 ∧ cmd.blkdiag.val ≠ 4
    let g := 2 ^ cmd.blkdiag.val
    s.rowsHeld x cmd.accRow.toNat cmd.rows.toNat = true → tile.act = aCls cmd.afmt →
    (cmd.blkdiag.val = 0 ∨ tile.plain = true) →
    (∀ p, p < cmd.rows.toNat →
      (s.convInput x cmd (if block then 16 else tile.depth) (cmd.first.toNat + p)).toOption = some (acts p)) →
    ownStream cmd.bcast x →
    slotCompletes (.engineConv n cmd) s n.slot x [.regs, .sch] fun y t => engineStream n x y
      ∧ (cmd.bcast = none → y.image.streams = x.image.streams) ∧ sameRegsBut (bytesRegs x) s t
      ∧ (y.engine n.engine.val).current = tile ∧ (y.engine n.engine.val).idle = none
      ∧ sameRowsBut cmd.accRow.toNat cmd.rows.toNat e (y.engine n.engine.val)
      ∧ (tile.fp = false → ∀ p c, p < cmd.rows.toNat → c < 16 →
          ((y.engine n.engine.val).row (cmd.accRow.toNat + p)).getD c 0 =
            (if cmd.overwrite then 0 else (e.row (cmd.accRow.toNat + p)).getD c 0)
              + dotInt tile (acts p) c (if block then rangeFrom (c / g * g) g else rangeFrom 0 tile.depth))) ∧
  (∀ (s : State) (n : EngineName) (cmd : ConvCmd) (x : Slot) (e : Engine) (acts : Nat → List Nat), s.isLive → s.atEngine n x e →
    let tile := e.swapTile.current
    s.rowsHeld x cmd.accRow.toNat cmd.rows.toNat = true → tile.act = aCls cmd.afmt → tile.plain = true → cmd.cb32 = false →
    (∀ p, p < cmd.rows.toNat → (s.convInput x cmd 16 (cmd.first.toNat + p)).toOption = some (acts p)) →
    ownStream cmd.bcast x →
    slotCompletes (.engineDwc n cmd) s n.slot x [.regs, .sch] fun y t => engineStream n x y
      ∧ (cmd.bcast = none → y.image.streams = x.image.streams) ∧ sameRegsBut (bytesRegs x) s t
      ∧ (y.engine n.engine.val).current = tile ∧ (y.engine n.engine.val).idle = none
      ∧ sameRowsBut cmd.accRow.toNat cmd.rows.toNat e (y.engine n.engine.val)
      ∧ (tile.fp = false → ∀ p c, p < cmd.rows.toNat → c < 16 →
          ((y.engine n.engine.val).row (cmd.accRow.toNat + p)).getD c 0 =
            (if cmd.overwrite then 0 else (e.row (cmd.accRow.toNat + p)).getD c 0) + dotInt tile (acts p) c [c]))

/-- R90, R160: ACC zeroes rows, or adds a vector, spilled rows or other rows to them; R166: GAP adds rows into one. R142: RQ in INT
mode writes, for every row and channel of its range, the accumulator scaled, rounded, offset and clamped as Table 5.6 says; R160:
bypassed, it writes the entries as they are. R94: SIG adds 1 to an event counter; WAITE makes its engine wait unless the counter has
reached the target; a command for an engine that waits is queued, or at a full queue stalls the control core. R431: a command that reads a
row in error ends the task. -/
def Obligations.EnginesAccumulateAndRequantise : Prop :=
  (∀ (s : State) (n : EngineName) (row : BitVec 10) (rows : BitVec 11) (fp : Bool) (x : Slot) (e : Engine), s.isLive →
    s.atEngine n x e → s.rowsHeld x row.toNat rows.toNat = true →
    slotCompletes (.engineAcc n row rows fp .zero) s n.slot x [.regs, .sch] fun y t => engineOnly n x y
      ∧ sameRegsBut (bytesRegs x) s t ∧ sameRowsBut row.toNat rows.toNat e (y.engine n.engine.val)
      ∧ ∀ r, r < rows.toNat → (y.engine n.engine.val).row (row.toNat + r) = List.replicate 16 0) ∧
  (∀ (s : State) (n : EngineName) (row : BitVec 10) (rows : BitVec 11) (fp : Bool) (op : AccOp) (add : Nat → List Word) (x : Slot)
    (e : Engine), s.isLive → s.atEngine n x e → s.rowsHeld x row.toNat rows.toNat = true →
    (match op with
      | .zero => False
      | .addVector a => ∃ bs, (s.readShare x a.toNat 64).toOption = some bs ∧ ∀ r, add r = wordsOf 16 bs
      | .addMemory a => ∃ bs, (s.readShare x a.toNat (64 * rows.toNat)).toOption = some bs
          ∧ ∀ r, add r = wordsOf 16 (sliceBytes bs (64 * r) 64)
      | .addRows src => s.rowsHeld x src.toNat rows.toNat = true
          ∧ (src.toNat + rows.toNat ≤ row.toNat ∨ row.toNat + rows.toNat ≤ src.toNat) ∧ ∀ r, add r = e.row (src.toNat + r)) →
    slotCompletes (.engineAcc n row rows fp op) s n.slot x [.regs, .sch] fun y t => engineOnly n x y
      ∧ sameRegsBut (bytesRegs x) s t ∧ sameRowsBut row.toNat rows.toNat e (y.engine n.engine.val)
      ∧ ∀ r, r < rows.toNat → (y.engine n.engine.val).row (row.toNat + r) = rowAdd fp (e.row (row.toNat + r)) (add r)) ∧
  (∀ (s : State) (n : EngineName) (row : BitVec 10) (rows : BitVec 11) (into : BitVec 10) (x : Slot) (e : Engine), s.isLive →
    s.atEngine n x e → s.rowsHeld x row.toNat rows.toNat = true → s.rowsHeld x into.toNat 1 = true →
    (into.toNat < row.toNat ∨ row.toNat + rows.toNat ≤ into.toNat) → (∀ a ∈ e.acc, a.2.length = 16) →
    slotCompletes (.engineGap n row rows into false) s n.slot x [.sch] fun y _ => engineOnly n x y
      ∧ sameRowsBut into.toNat 1 e (y.engine n.engine.val)
      ∧ ∀ c, c < 16 → ((y.engine n.engine.val).row into.toNat).getD c 0 =
          ((rangeFrom row.toNat rows.toNat).map fun r => (e.row r).getD c 0).foldl (· + ·) ((e.row into.toNat).getD c 0)) ∧
  (∀ (s : State) (n : EngineName) (cmd : RqCmd) (pars : List Byte) (x : Slot) (e : Engine), s.isLive → s.atEngine n x e →
    let k := (rqRange cmd).length
    cmd.intMode = true → cmd.bypass = false → cmd.record = none → s.rowsHeld x cmd.accRow.toNat cmd.rows.toNat = true →
    (s.readShare x cmd.params.toNat (8 * k)).toOption = some pars → k ≤ cmd.pitch.toNat →
    (∀ r, r < cmd.rows.toNat → cmd.dst.toNat + r * cmd.pitch.toNat + k ≤ (s.coreShare x.core x.idx).2
      ∧ s.writeError ((s.coreShare x.core x.idx).1 + cmd.dst.toNat + r * cmd.pitch.toNat) k = none) →
    slotCompletes (.engineRq n cmd) s n.slot x [.free, .regs, .mem, .err, .sch] fun y t => y.image = x.image
      ∧ sameRegsBut (bytesRegs x) s t
      ∧ (∀ r c, r < cmd.rows.toNat → c < k →
          let par := sliceBytes pars (8 * c) 8
          let sh := leAt par 4 1 % 64
          let v : Int := ((((e.row (cmd.accRow.toNat + r)).getD (cmd.lane.val + c) 0).toInt * (leAt par 0 4 : Nat)
            + (if sh = 0 then 0 else 2 ^ (sh - 1))) / 2 ^ sh) + signedOf 8 (leAt par 5 1)
          signedOf 8 (leAt par 6 1) ≤ signedOf 8 (leAt par 7 1) →
          (t.byte ((s.coreShare x.core x.idx).1 + cmd.dst.toNat + r * cmd.pitch.toNat + c)).toInt =
            clampInt (signedOf 8 (leAt par 6 1)) (signedOf 8 (leAt par 7 1)) (clampInt (-128) 127 v))
      ∧ ∀ b, (∀ r, r < cmd.rows.toNat → let a := (s.coreShare x.core x.idx).1 + cmd.dst.toNat + r * cmd.pitch.toNat
          b < a ∨ a + k ≤ b) → t.byte b = s.byte b) ∧
  (∀ (s : State) (n : EngineName) (cmd : RqCmd) (x : Slot) (e : Engine), s.isLive → s.atEngine n x e →
    let k := (rqRange cmd).length
    cmd.bypass = true → s.rowsHeld x cmd.accRow.toNat cmd.rows.toNat = true → 4 * k ≤ cmd.pitch.toNat →
    (∀ r, r < cmd.rows.toNat → cmd.dst.toNat + r * cmd.pitch.toNat + 4 * k ≤ (s.coreShare x.core x.idx).2
      ∧ s.writeError ((s.coreShare x.core x.idx).1 + cmd.dst.toNat + r * cmd.pitch.toNat) (4 * k) = none) →
    slotCompletes (.engineRq n cmd) s n.slot x [.regs, .mem, .err, .sch] fun y t => y.image = x.image
      ∧ sameRegsBut (bytesRegs x) s t
      ∧ (∀ r c, r < cmd.rows.toNat → c < k →
          t.le ((s.coreShare x.core x.idx).1 + cmd.dst.toNat + r * cmd.pitch.toNat + 4 * c) 4 =
            ((e.row (cmd.accRow.toNat + r)).getD (cmd.lane.val + c) 0).toNat)
      ∧ ∀ b, (∀ r, r < cmd.rows.toNat → let a := (s.coreShare x.core x.idx).1 + cmd.dst.toNat + r * cmd.pitch.toNat
          b < a ∨ a + 4 * k ≤ b) → t.byte b = s.byte b) ∧
  (∀ (s : State) (n : EngineName) (row : BitVec 10) (rows : BitVec 11) (into : BitVec 10) (fp : Bool) (x : Slot) (u : Task), s.isLive →
    s.slotNamed n.slot = some x → (x.engine n.engine.val).free = true → s.stalls x = false → s.slotTask x = some u →
    s.rowsHeld x row.toNat rows.toNat = true → s.rowsHeld x into.toNat 1 = true →
    (∃ r ∈ (x.engine n.engine.val).bad, row.toNat ≤ r ∧ r < row.toNat + rows.toNat) →
    ∃ t, exec (.engineGap n row rows into fp) s = .next t ∧ t.pending = s.pending ∧ t.task u.qid u.entry.seq = none) ∧
  (∀ (s : State) (n : EngineName) (ev : Fin 32) (x : Slot) (e : Engine), s.isLive → s.atEngine n x e → x.backlog = 0 →
    completes (.engineSig n ev) s [.sch] fun t => ∃ y, t.slotAt (coreId n.slot.at_) n.slot.slot.val = some y
      ∧ y.eventCount ev.val = x.eventCount ev.val + 1
      ∧ ∀ k, k < 32 → k ≠ ev.val → y.eventCount k = x.eventCount k) ∧
  (∀ (s : State) (n : EngineName) (ev : Fin 32) (target : BitVec 16) (x : Slot) (e : Engine), s.isLive → s.atEngine n x e →
    completes (.engineWaite n ev target) s [.sch] fun t => ∃ y, t.slotAt (coreId n.slot.at_) n.slot.slot.val = some y
      ∧ y.engine n.engine.val = { e with
          waiting := if waitDone (x.eventCount ev.val) target.toNat then none else some (ev.val, target.toNat) }) ∧
  (∀ (s : State) (n : EngineName) (x : Slot) (ldw : LdwCmd) (mma : MmaCmd) (conv : ConvCmd) (rq : RqCmd) (ev : Fin 32)
    (target : BitVec 16) (row into : BitVec 10) (rows : BitVec 11) (fp : Bool) (op : AccOp), s.isLive → s.slotNamed n.slot = some x →
    (x.engine n.engine.val).waiting.isSome = true → x.readyEngine = none → s.stalls x = false →
    queues (.engineLdw n ldw) (.ldw ldw) s n x ∧ queues (.engineMma n mma) (.mma mma) s n x ∧ queues (.engineConv n conv) (.conv conv) s n x
      ∧ queues (.engineDwc n conv) (.dwc conv) s n x ∧ queues (.engineAcc n row rows fp op) (.acc row rows fp op) s n x
      ∧ queues (.engineGap n row rows into fp) (.gap row rows into fp) s n x ∧ queues (.engineRq n rq) (.rq rq) s n x
      ∧ queues (.engineSig n ev) (.sig ev) s n x ∧ queues (.engineWaite n ev target) (.waite ev target) s n x)

/-- Table 4.3: an FP32 or integer instruction writes its result, lane by lane, in the active threads of its hamper and nowhere else;
a multiply-wide writes both halves of the exact product. R134: a conversion from or to FP32 rounds in the mode it selects. R96: an
integer reduce-add delivers the sum of the active lanes to every active thread, a broadcast the value of its lane, and the votes and
the ballot say where the operand is not 0. R431: an instruction that reads a register in error ends its task. -/
def Obligations.SimtArithmetic : Prop :=
  (∀ (s : State) (n : HamperName) (op : FpOp) (rd ra rb rc : Fin 64) (x : Slot) (h : Hamper), s.isLive → s.atHamper n x h →
    slotCompletes (.simtFpArith n op rd ra rb rc) s n.slot x [.sch] fun y _ => regsOnly x y
      ∧ regWritten h rd.val (fun l => fpOp op (x.reg h.ident l ra.val) (x.reg h.ident l rb.val) (x.reg h.ident l rc.val)) x y) ∧
  (∀ (s : State) (n : HamperName) (op : FpOp) (rd ra rb rc : Fin 64) (x : Slot) (h : Hamper) (u : Task), s.isLive →
    s.onHamperOf n x h → s.slotTask x = some u → x.regsSound h (fpReads op ra.val rb.val rc.val) = false →
    ∃ t, exec (.simtFpArith n op rd ra rb rc) s = .next t ∧ t.pending = s.pending ∧ t.task u.qid u.entry.seq = none) ∧
  (∀ (s : State) (n : HamperName) (op : IntOp) (rd ra rb : Fin 64) (x : Slot) (h : Hamper), s.isLive → s.atHamper n x h →
    (∀ signed, op ≠ .mulWide signed) →
    slotCompletes (.simtInteger n op rd ra rb) s n.slot x [.free, .sch] fun y _ => regsOnly x y
      ∧ regWritten h rd.val (fun l =>
          intOp op (Config.freeBits 32 (s.free + l)) (x.reg h.ident l ra.val) (x.reg h.ident l rb.val)) x y) ∧
  (∀ (s : State) (n : HamperName) (signed : Bool) (rd ra rb : Fin 64) (x : Slot) (h : Hamper), s.isLive → s.atHamper n x h →
    rd.val < 63 →
    slotCompletes (.simtInteger n (.mulWide signed) rd ra rb) s n.slot x [.free, .sch] fun y _ => regsOnly x y
      ∧ ∀ l ∈ h.lanes, (y.reg h.ident l (rd.val + 1) ++ y.reg h.ident l rd.val : BitVec 64) =
          wideProduct signed (x.reg h.ident l ra.val) (x.reg h.ident l rb.val)) ∧
  (∀ (s : State) (n : HamperName) (src dst : CvtFmt) (rounding : Fin 5) (sat : Bool) (rd ra : Fin 64) (x : Slot) (h : Hamper),
    s.isLive → s.atHamper n x h → (src == .fp32) ≠ (dst == .fp32) → rounding.val < 4 →
    slotCompletes (.simtConvert n src dst rounding sat rd ra) s n.slot x [.sch] fun y _ => regsOnly x y
      ∧ regWritten h rd.val (fun l => cvtResult dst (roundingOf rounding.val 0) sat (cvtValue src (x.reg h.ident l ra.val))) x y) ∧
  (∀ (s : State) (n : HamperName) (op : ExchangeOp) (rd ra rb : Fin 64) (x : Slot) (h : Hamper), s.isLive → s.atHamper n x h →
    slotCompletes (.simtHamperExchange n op rd ra rb) s n.slot x [.free, .sch] fun y _ => regsOnly x y
      ∧ (∀ g l r, l < 32 → r < 64 → ¬(g = h.ident ∧ l ∈ h.lanes ∧ r = rd.val) → y.reg g l r = x.reg g l r)
      ∧ ∀ l ∈ h.lanes,
          (op = .reduceAddInt →
            y.reg h.ident l rd.val = (h.lanes.map fun i => x.reg h.ident i ra.val).foldl (· + ·) 0)
          ∧ (∀ i : Fin 32, op = .broadcast i → i.val ∈ h.lanes → y.reg h.ident l rd.val = x.reg h.ident i.val ra.val)
          ∧ (op = .shuffle → (x.reg h.ident l rb.val).toNat ∈ h.lanes →
              y.reg h.ident l rd.val = x.reg h.ident (x.reg h.ident l rb.val).toNat ra.val)
          ∧ (op = .voteAny → (y.reg h.ident l rd.val = 1 ↔ ∃ i ∈ h.lanes, x.reg h.ident i ra.val ≠ 0))
          ∧ (op = .voteAll → (y.reg h.ident l rd.val = 1 ↔ ∀ i ∈ h.lanes, x.reg h.ident i ra.val ≠ 0))
          ∧ (op = .ballot → ∀ i, i < 32 →
              ((y.reg h.ident l rd.val).getLsbD i = true ↔ i ∈ h.lanes ∧ x.reg h.ident i ra.val ≠ 0)))

/-- R97: a load reads memory into the registers of the active threads, and a store to core memory and an atomic change only the words
that they name; the atomic returns the word before it. R98: a store to cluster memory waits for the thread's fence, which makes it
visible; until then only that thread reads it. R95: a divergent branch runs its taken side and stacks the other, predication keeps the
threads whose register is not 0, an exit ends the active threads. R98: threads that arrive at a barrier wait until every live thread
of the group has. R118: in reproducible mode an atomic waits for the hampers before its own (log 24: the model's choice). R187: a
sample writes four registers and is counted. -/
def Obligations.SimtMemoryAndControl : Prop :=
  (∀ (s : State) (n : HamperName) (space : SimtSpace) (words : Fin 4) (rd ra : Fin 64) (x : Slot) (h : Hamper), s.isLive →
    s.atHamper n x h → words.val ≠ 2 → rd.val + words.val < 64 →
    s.accessFault (s.spaceShare x space) (h.lanes.map fun l => (x.reg h.ident l ra.val).toNat) (4 * (words.val + 1)) false = none →
    slotCompletes (.simtLoadStore n false space words rd ra) s n.slot x [.sch] fun y _ => regsOnly x y
      ∧ ∀ l ∈ h.lanes, ∀ i, i ≤ words.val → y.reg h.ident l (rd.val + i) =
          BitVec.ofNat 32 (ofLe (s.threadBytes x (h.thread l) ((s.spaceShare x space).1 + (x.reg h.ident l ra.val).toNat + 4 * i) 4))) ∧
  (∀ (s : State) (x : Slot) (thread a n : Nat), (∀ u ∈ x.image.unfenced, u.thread ≠ thread) → s.threadBytes x thread a n = s.bytes a n) ∧
  (∀ (s : State) (n : HamperName) (words : Fin 4) (rd ra : Fin 64) (x : Slot) (h : Hamper) (l : Nat),
    s.isLive → s.atHamper n x h → words.val ≠ 2 → rd.val + words.val < 64 → h.lanes = [l] →
    s.accessFault (s.spaceShare x .cluster) [(x.reg h.ident l ra.val).toNat] (4 * (words.val + 1)) true = none →
    let a := (s.spaceShare x .cluster).1 + (x.reg h.ident l ra.val).toNat
    slotCompletes (.simtLoadStore n true .cluster words rd ra) s n.slot x [.sch] fun y t =>
      y.image = { x.image with unfenced := y.image.unfenced }
        ∧ (∀ i, i ≤ words.val → ofLe (t.threadBytes y (h.thread l) (a + 4 * i) 4) = (x.reg h.ident l (rd.val + i)).toNat)
        ∧ ∀ u : Unfenced, u.thread ≠ h.thread l → (u ∈ y.image.unfenced ↔ u ∈ x.image.unfenced)) ∧
  (∀ (s : State) (n : HamperName) (words : Fin 4) (rd ra : Fin 64) (x : Slot) (h : Hamper) (l : Nat),
    s.isLive → s.atHamper n x h → words.val ≠ 2 → rd.val + words.val < 64 → h.lanes = [l] →
    s.accessFault (s.spaceShare x .core) [(x.reg h.ident l ra.val).toNat] (4 * (words.val + 1)) true = none →
    let a := (s.spaceShare x .core).1 + (x.reg h.ident l ra.val).toNat
    completes (.simtLoadStore n true .core words rd ra) s [.mem, .err] fun t => sameMemBut a (4 * (words.val + 1)) s t
      ∧ ∀ i, i ≤ words.val → t.le (a + 4 * i) 4 = (x.reg h.ident l (rd.val + i)).toNat) ∧
  (∀ (s : State) (n : HamperName) (op : AtomicOp) (space : SimtSpace) (rd ra rb rc : Fin 64) (x : Slot) (h : Hamper) (l : Nat),
    s.isLive → s.atHamper n x h → h.lanes = [l] → s.atomicWaits x h = false →
    s.accessFault (s.spaceShare x space) [(x.reg h.ident l ra.val).toNat] 4 true = none →
    let a := (s.spaceShare x space).1 + (x.reg h.ident l ra.val).toNat
    (space = .core ∨ (∀ u ∈ x.image.unfenced, u.thread ≠ h.thread l)) →
    slotCompletes (.simtAtomic n op space rd ra rb rc) s n.slot x [.mem, .err, .sch] fun y t => sameMemBut a 4 s t
      ∧ regWritten h rd.val (fun _ => BitVec.ofNat 32 (s.le a 4)) x y ∧ regsOnly x y
      ∧ t.le a 4 = (atomicOp op (BitVec.ofNat 32 (s.le a 4)) (x.reg h.ident l rb.val) (x.reg h.ident l rc.val)).toNat) ∧
  (∀ (s : State) (n : HamperName) (op : AtomicOp) (space : SimtSpace) (rd ra rb rc : Fin 64) (x : Slot) (h : Hamper),
    s.isLive → s.onHamperOf n x h → s.atomicWaits x h = true → exec (.simtAtomic n op space rd ra rb rc) s = .next s) ∧
  (∀ (s : State) (n : HamperName) (c : Fin 64) (x : Slot) (h : Hamper), s.isLive → s.atHamper n x h → h.exited ≠ 0xFFFFFFFF →
    let on := maskOf (h.lanes.filter fun l => x.reg h.ident l c.val != 0)
    let off := h.active &&& ~~~on
    on ≠ 0 → off ≠ 0 → h.stack.length < 32 →
    slotCompletes (.simtBranch n (.branch c)) s n.slot x [.sch] fun y _ => y.image.regs = x.image.regs
      ∧ y.image.hampers.find? (fun g => g.ident == n.hamper.val) =
          some { h with active := on, stack := { other := off, mask := h.active } :: h.stack }) ∧
  (∀ (s : State) (n : HamperName) (c : Fin 64) (x : Slot) (h : Hamper), s.isLive → s.atHamper n x h → h.exited ≠ 0xFFFFFFFF →
    slotCompletes (.simtBranch n (.predicate c)) s n.slot x [.sch] fun y _ => y.image.regs = x.image.regs
      ∧ y.image.hampers.find? (fun g => g.ident == n.hamper.val) =
          some { h with active := maskOf (h.lanes.filter fun l => x.reg h.ident l c.val != 0) }) ∧
  (∀ (s : State) (n : HamperName) (x : Slot) (h : Hamper), s.isLive → s.atHamper n x h → h.stack = [] →
    h.exited ||| h.active ≠ 0xFFFFFFFF →
    slotCompletes (.simtBranch n .exit) s n.slot x [.sch] fun y _ =>
      y.image.hampers.find? (fun g => g.ident == n.hamper.val) = some { h with exited := h.exited ||| h.active, active := 0 }) ∧
  (∀ (s : State) (n : HamperName) (k : Fin 16) (x : Slot) (h : Hamper) (u : Task), s.isLive → s.atHamper n x h →
    s.slotTask x = some u → k.val < u.launch.barriers → (∀ b ∈ x.image.barriers, ¬(b.group = h.group ∧ b.unit = k.val)) →
    slotCompletes (.simtBarrier n k) s n.slot x [.sch] fun y _ => y.image.regs = x.image.regs ∧ y.image.hampers = x.image.hampers
      ∧ ((∀ j ∈ x.groupThreads h.group, j ∈ h.lanes.map fun l => h.rank * 32 + l) →
          ∀ b ∈ y.image.barriers, ¬(b.group = h.group ∧ b.unit = k.val))
      ∧ ((∃ j ∈ x.groupThreads h.group, j ∉ h.lanes.map fun l => h.rank * 32 + l) →
          ({ group := h.group, unit := k.val, arrived := h.lanes.map fun l => h.rank * 32 + l } : Barrier) ∈ y.image.barriers)) ∧
  (∀ (s : State) (n : HamperName) (x : Slot) (h : Hamper), s.isLive → s.onHamperOf n x h →
    let mine (u : Unfenced) : Bool := h.lanes.any fun l => u.thread == h.thread l
    ((x.image.unfenced.filter mine).map (·.addr)).Nodup →
    slotCompletes (.simtFence n) s n.slot x [.mem, .err, .sch] fun y t =>
      y.image = { x.image with unfenced := x.image.unfenced.filter fun u => !mine u }
        ∧ (∀ u ∈ x.image.unfenced, mine u = true → s.writeError u.addr 1 = none → t.byte u.addr = u.byte)
        ∧ ∀ b, (∀ u ∈ x.image.unfenced, mine u = true → u.addr ≠ b) → t.byte b = s.byte b) ∧
  (∀ (s : State) (n : HamperName) (texture : TexRef) (d : List Byte) (values : List (List Word)) (rd ra : Fin 64) (x : Slot) (h : Hamper),
    s.isLive → s.atHamper n x h → rd.val ≤ 60 → ra.val ≤ 62 → s.textureOf x texture = some d → textureGood d = true →
    sampleFixed d = true → (s.laneSamples x h d ra.val h.lanes).toOption = some values →
    slotCompletes (.simtSample n texture rd ra) s n.slot x [.free, .regs, .sct, .sch] fun y t => regsOnly x y
      ∧ t.rd R.SKU_CNT_SAMPLES [x.core / 128, x.core / 16 % 8] =
          s.rd R.SKU_CNT_SAMPLES [x.core / 128, x.core / 16 % 8] + BitVec.ofNat 32 h.lanes.length
      ∧ (∀ i c, i < h.lanes.length → c < 4 → y.reg h.ident (h.lanes.getD i 0) (rd.val + c) = (values.getD i []).getD c 0)
      ∧ ∀ g l r, l < 32 → r < 64 → ¬(g = h.ident ∧ l ∈ h.lanes ∧ rd.val ≤ r ∧ r < rd.val + 4) → y.reg g l r = x.reg g l r) ∧
  (∀ (s : State) (n : HamperName) (texture : TexRef) (rd ra : Fin 64) (x : Slot) (h : Hamper), s.isLive → s.atHamper n x h →
    rd.val ≤ 60 → ra.val ≤ 62 →
    (∀ d, s.textureOf x texture = some d → textureGood d = true ∧ sampleFixed d = false
      ∧ s.accessOk (x.qid / 256) (leAt d 0 8) (textureBytes d) false = true ∧ s.readError (leAt d 0 8) (textureBytes d) = none) →
    slotCompletes (.simtSample n texture rd ra) s n.slot x [.free, .regs, .sct, .sch] fun y t => regsOnly x y
      ∧ t.rd R.SKU_CNT_SAMPLES [x.core / 128, x.core / 16 % 8] =
          s.rd R.SKU_CNT_SAMPLES [x.core / 128, x.core / 16 % 8] + BitVec.ofNat 32 h.lanes.length
      ∧ sameRegsBut [regAddr R.SKU_CNT_SAMPLES [x.core / 128, x.core / 16 % 8]] s t
      ∧ ∀ g l r, l < 32 → r < 64 → ¬(g = h.ident ∧ l ∈ h.lanes ∧ rd.val ≤ r ∧ r < rd.val + 4) → y.reg g l r = x.reg g l r)

/-- R109: a signal adds 1 to its counter alone; a wait that is satisfied goes on at once, and one that is not stalls the slot or the
hamper. R163, R165: a look at a flag that satisfies its target lets the slot go on and counts the clocks that it stalled; one that
does not leaves the slot waiting. -/
def Obligations.EventsAndFlags : Prop :=
  (∀ (s : State) (n : SlotName) (ev : Fin 32) (x : Slot), s.isLive → s.slotNamed n = some x → x.backlog = 0 →
    completes (.eventSignal n ev) s [.sch] fun t => ∃ y, t.slotAt (coreId n.at_) n.slot.val = some y
      ∧ y.eventCount ev.val = x.eventCount ev.val + 1 ∧ y.image.regs = x.image.regs
      ∧ ∀ k, k < 32 → k ≠ ev.val → y.eventCount k = x.eventCount k) ∧
  (∀ (s : State) (n : SlotName) (ev : Fin 32) (target : BitVec 16) (x : Slot), s.isLive → s.slotNamed n = some x → x.wait = none → x.backlog = 0 →
    completes (.eventWait n .control ev target) s [.sch] fun t => ∃ y, t.slotAt (coreId n.at_) n.slot.val = some y
      ∧ y.wait = (if waitDone (x.eventCount ev.val) target.toNat then none else some (.event ev.val target.toNat, s.now))
      ∧ y.image.regs = x.image.regs ∧ y.image.events = x.image.events) ∧
  (∀ (s : State) (n : SlotName) (k : Fin 32) (ev : Fin 32) (target : BitVec 16) (x : Slot) (h : Hamper), s.isLive →
    s.atHamper { slot := n, hamper := k } x h →
    completes (.eventWait n (.hamper k) ev target) s [.sch] fun t => ∃ y, t.slotAt (coreId n.at_) n.slot.val = some y
      ∧ y.image.hampers.find? (fun g => g.ident == k.val) = some { h with
          waiting := if waitDone (x.eventCount ev.val) target.toNat then none else some (ev.val, target.toNat) }
      ∧ y.image.regs = x.image.regs ∧ y.image.events = x.image.events) ∧
  (∀ (s : State) (n : SlotName) (addr : BitVec 48) (target : Word) (x : Slot), s.isLive →
    s.flagWaiter n addr.toNat target.toNat = some x → (s.clusterShareOf x).1 ≤ addr.toNat →
    s.accessFault (s.clusterShareOf x) [addr.toNat - (s.clusterShareOf x).1] 4 false = none →
    (BitVec.ofNat 32 (s.le addr.toNat 4) - target).toNat < 2 ^ 31 →
    completes (.flagWait n addr target) s [.free, .regs, .mem, .err, .sch, .boxes, .dbg] fun t => ∃ y,
      t.slotAt (coreId n.at_) n.slot.val = some y ∧ y.wait = none ∧ y.yielded = false ∧ y.image.regs = x.image.regs
        ∧ y.image.events = x.image.events) ∧
  (∀ (s : State) (n : SlotName) (addr : BitVec 48) (target : Word) (x : Slot), s.isLive →
    s.flagWaiter n addr.toNat target.toNat = some x → (s.clusterShareOf x).1 ≤ addr.toNat →
    s.accessFault (s.clusterShareOf x) [addr.toNat - (s.clusterShareOf x).1] 4 false = none →
    2 ^ 31 ≤ (BitVec.ofNat 32 (s.le addr.toNat 4) - target).toNat → x.wait = none →
    completes (.flagWait n addr target) s [.sch] fun t =>
      t.slotAt (coreId n.at_) n.slot.val = some { x with wait := some (.flag addr.toNat target.toNat, s.now) })

/-- R114: a good descriptor joins its channel, another ends the task with 0x10. R116, R280: the oldest descriptor of a channel
whose one transfer may proceed moves its bytes, leaves the channel and signals its event counter; without its tokens, or behind a
transfer that has them, the transfer is held, and moves nothing. A held transfer that may proceed moves its bytes and no longer waits,
another stays, as does one whose module retrains. A period of TIMEBASE
gives every regulator its budget, up to budget × burst. -/
def Obligations.DmaMovesData : Prop :=
  (∀ (s : State) (n : SlotName) (channel : Fin 4) (desc : List Byte) (x : Slot), s.isLive → s.slotNamed n = some x →
    s.stalls x = false → (decodeDma desc).good = true →
    slotCompletes (.dmaSubmit n channel desc) s n x [.sch] fun y _ => y.image = { x.image with dma :=
      x.image.dma ++ [{ channel := channel.val, desc := decodeDma desc, next := 0, held := none, aborted := false }] }) ∧
  (∀ (s : State) (n : SlotName) (channel : Fin 4) (desc : List Byte) (x : Slot), s.isLive → s.slotNamed n = some x →
    s.stalls x = false → (decodeDma desc).good = false →
    exec (.dmaSubmit n channel desc) s = .next ((s.endSlot x 0x10).kept s)) ∧
  (∀ (s : State) (n : SlotName) (channel : Fin 4) (x : Slot) (r : DmaRun) (bs : List Byte), s.isLive →
    s.atChannel n channel x r → r.desc.transfers = 1 → r.next = 0 → r.desc.event < 32 →
    let ctx := x.qid / 256
    let m := r.desc.move 0
    s.mayProceed (s.arriving x r) = some false →
    (s.moveBytes ctx r.desc m).toOption = some bs → s.accessOk ctx m.dst bs.length true = true →
    s.writeError m.dst bs.length = none →
    completes (.dmaDescriptorComplete n channel) s [.free, .regs, .mem, .err, .sct, .sch] fun t =>
      (∀ i, i < bs.length → t.byte (m.dst + i) = bs.getD i 0) ∧ sameMemBut m.dst bs.length s t
        ∧ ∃ y, t.slotAt (coreId n.at_) n.slot.val = some y ∧ y.image.dma = putRun channel.val none x.image.dma
          ∧ (r.desc.signal = true → y.eventCount r.desc.event = x.eventCount r.desc.event + 1)
          ∧ (r.desc.signal = false → y = { x with image := { x.image with dma := y.image.dma } })) ∧
  (∀ (s : State) (n : SlotName) (channel : Fin 4) (x : Slot) (r : DmaRun), s.isLive →
    s.atChannel n channel x r → r.next < r.desc.transfers → s.mayProceed (s.arriving x r) ≠ some false →
    slotCompletes (.dmaDescriptorComplete n channel) s n x [.sch] fun y t =>
      t.sch.transfers = s.sch.transfers ++ [s.arriving x r] ∧ y.image.dma.length = x.image.dma.length
        ∧ y.image.dma.find? (fun q => q.channel == channel.val) = some { r with held := some s.sch.nextTransfer }
        ∧ y.image = { x.image with dma := y.image.dma }) ∧
  (∀ (s : State) (k : Nat) (h : HeldTransfer) (x : Slot) (r : DmaRun) (borrowed : Bool) (bs : List Byte), s.isLive →
    s.sch.transfers.find? (fun t => t.ident == k) = some h → s.slotAt h.core h.idx = some x →
    x.image.dma.find? (fun q => q.channel == h.channel && q.held == some h.ident) = some r → s.mayProceed h = some borrowed →
    let ctx := x.qid / 256
    let m := r.desc.move r.next
    s.moveWaits (h.core / 128) r.desc m = false →
    (s.moveBytes ctx r.desc m).toOption = some bs → s.accessOk ctx m.dst bs.length true = true →
    s.writeError m.dst bs.length = none →
    completes (.transferRelease k) s [.free, .regs, .mem, .err, .sct, .sch] fun t =>
      (∀ i, i < bs.length → t.byte (m.dst + i) = bs.getD i 0) ∧ sameMemBut m.dst bs.length s t
        ∧ t.sch.transfers = s.sch.transfers.filter (fun q => q.ident != k)
        ∧ ∃ y, t.slotAt h.core h.idx = some y
            ∧ y.image.dma = putRun h.channel (some { r with next := r.next + 1, held := none }) x.image.dma) ∧
  (∀ (s : State) (k : Nat) (h : HeldTransfer) (x : Slot) (r : DmaRun), s.isLive →
    s.sch.transfers.find? (fun t => t.ident == k) = some h → s.slotAt h.core h.idx = some x →
    x.image.dma.find? (fun q => q.channel == h.channel && q.held == some h.ident) = some r →
    s.moveWaits (h.core / 128) r.desc (r.desc.move r.next) = true ∨ s.mayProceed h = none →
    exec (.transferRelease k) s = .next s) ∧
  (∀ s : State, s.isLive →
    completes .regulatorRefill s [.free, .regs, .sct, .sch] fun t => t.sch = { s.sch with buckets := t.sch.buckets }
      ∧ ∀ g ∈ s.regulators, ∀ p, p < 16 → (t.bucket g p).tokens =
          min (bits (s.regCfg g p) 15 0 * (bits (s.regCfg g p) 19 16 + 1)) ((s.bucket g p).tokens + bits (s.regCfg g p) 15 0))

/-- R146: the working copies are merged into the master record. R148: without a mismatch the step's amax enters the history at
`head`, which moves on, and the number of valid entries grows up to 16. R149, R150: with one, under policy 1 and no deadline, the layer
is replayed once, and the merged record counts the mismatch; under policy 2 it ends the task of an entry that names no slice. -/
def Obligations.LayerStepsMergeScales : Prop :=
  (∀ (s : State) (q : Fin 16384) (seq : Word) (m : BitVec 48) (copies : List (BitVec 48)) (t : Task) (rec : List Byte)
    (cs : List (List Byte)), s.isLive → s.task q.val seq = some t → t.started = true → t.forced = none →
    t.replays.contains m.toNat = false →
    (s.tryRead t.ctx m.toNat 128).toOption = some rec → (s.readRecords t.ctx (copies.map (·.toNat))).toOption = some cs →
    (∀ a ∈ m :: copies, s.accessOk t.ctx a.toNat 128 true = true ∧ s.writeError a.toNat 128 = none) →
    (∀ a ∈ copies, a.toNat + 128 ≤ m.toNat ∨ m.toNat + 128 ≤ a.toNat) →
    let merged := mergeRecords (startStep rec) cs
    mismatches merged = false →
    completes (.layerStepEnd q seq m copies) s [.mem, .err, .sch] fun u =>
      let head := leAt rec 0x48 1 % 16
      u.bytes (m.toNat + 4 * head) 4 = sliceBytes merged 0x50 4
        ∧ u.le (m.toNat + 0x48) 1 = (head + 1) % 16 ∧ u.le (m.toNat + 0x49) 1 = min 16 (min 16 (leAt rec 0x49 1) + 1)
        ∧ u.bytes (m.toNat + 0x40) 4 = leBytes 4 (stepScale rec).toNat
        ∧ u.le (m.toNat + 0x54) 4 = min (2 ^ 32 - 1) ((cs.map fun c => leAt c 0x54 4).sum)) ∧
  (∀ (s : State) (q : Fin 16384) (seq : Word) (m : BitVec 48) (copies : List (BitVec 48)) (t : Task) (rec : List Byte)
    (cs : List (List Byte)), s.isLive → s.task q.val seq = some t → t.started = true → t.forced = none →
    (s.tryRead t.ctx m.toNat 128).toOption = some rec → (s.readRecords t.ctx (copies.map (·.toNat))).toOption = some cs →
    (∀ a ∈ m :: copies, s.accessOk t.ctx a.toNat 128 true = true ∧ s.writeError a.toNat 128 = none) →
    (∀ a ∈ copies, a.toNat + 128 ≤ m.toNat ∨ m.toNat + 128 ≤ a.toNat) →
    let again := t.replays.contains m.toNat
    let merged := mergeRecords (if again then rec else startStep rec) cs
    let what := (stepPolicy merged again t.entry.dlValid).2
    (what = .kept ∨ what = .replay) →
    completes (.layerStepEnd q seq m copies) s [.free, .regs, .mem, .err, .sct, .sch] fun u => sameRegsBut eventRegs s u
      ∧ (∀ i, i < 128 → u.byte (m.toNat + i) = (stepPolicy merged again t.entry.dlValid).1.getD i 0)
      ∧ (∀ b, (∀ a ∈ m :: copies, b < a.toNat ∨ a.toNat + 128 ≤ b) → u.byte b = s.byte b)
      ∧ ∃ v, u.task q.val seq = some v ∧ v = { t with replays := v.replays, stepBefore := v.stepBefore }
          ∧ v.replays.contains m.toNat = (what == .replay)
          ∧ (what = .replay → v.stepBefore.head? = some (m.toNat, rec))
          ∧ (what = .kept → ∀ e ∈ v.stepBefore, e.1 ≠ m.toNat)) ∧
  (∀ (rec : List Byte), mismatches rec = true → leAt rec 0x4C 1 % 4 = 1 → rec.length = 128 →
    (stepPolicy rec false false).2 = .replay
      ∧ leAt (stepPolicy rec false false).1 0x70 4 = min (2 ^ 32 - 1) (leAt rec 0x70 4 + 1)
      ∧ leAt (stepPolicy rec false false).1 0x50 4 = 0) ∧
  (∀ (rec : List Byte) (again : Bool), mismatches rec = true → leAt rec 0x4C 1 % 4 = 2 → again = false →
    (stepPolicy rec again false).2 = .failed) ∧
  (∀ (rec : List Byte), mismatches rec = true → natBit (leAt rec 0x4C 1) 2 = true → (stepPolicy rec true false).2 = .aborted)

/-- R168: a good call joins the box unit of its cluster, and the unit runs the one of the highest priority that has started or
came first; a unit with 64 calls waiting
stalls the control core. R171: DECODE appends the candidates that it finds, in order, as room allows, and
its header counts them and those dropped. R173: NMS writes the records that it keeps and the numbers kept, above the score threshold
and given. A call that ends is counted and signals its event counter. -/
def Obligations.BoxUnitsRunCalls : Prop :=
  (∀ (s : State) (n : SlotName) (a : BitVec 48) (x : Slot) (desc : List Byte), s.isLive → s.slotNamed n = some x →
    let d := x.core / 128
    let k := x.core / 16 % 8
    s.stalls x = false → a.toNat % 64 = 0 →
    (s.tryRead (x.qid / 256) a.toNat 64).toOption = some desc → boxGood desc = true → s.boxPending d k < 64 →
    completes (.boxCallSubmit n a) s [.boxes] fun t => t.boxes.length = s.boxes.length + 1
      ∧ (∃ b, t.boxes.getLast? = some b ∧ b.cluster = 8 * d + k ∧ b.core = x.core ∧ b.idx = x.idx ∧ b.qid = x.qid
          ∧ b.seq = x.seq ∧ b.prio = s.prioOf x.qid x.seq ∧ b.desc = desc ∧ b.done = false)
      ∧ (∃ r, t.boxRunning d k = some r ∧ r.started = true
          ∧ ∀ c ∈ t.boxes, c.on d k = true → r.prio ≤ c.prio)) ∧
  (∀ (s : State) (n : SlotName) (a : BitVec 48) (x : Slot) (desc : List Byte), s.isLive → s.slotNamed n = some x →
    s.stalls x = false → a.toNat % 64 = 0 →
    (s.tryRead (x.qid / 256) a.toNat 64).toOption = some desc → boxGood desc = true →
    64 ≤ s.boxPending (x.core / 128) (x.core / 16 % 8) →
    completes (.boxCallSubmit n a) s [.sch] fun t => ∃ b, b.desc = desc ∧ b.core = x.core ∧ b.idx = x.idx
      ∧ t.slotAt (coreId n.at_) n.slot.val = some { x with wait := some (.boxFull b, s.now) }) ∧
  (∀ (s : State) (d : Fin 2) (k : Fin 8) (b : BoxCall) (table : List Word) (found : List (List (List Byte))) (h : List Byte),
    s.isLive → s.boxRunning d.val k.val = some b → b.done = false → leAt b.desc 0 1 = 1 →
    let ctx := b.qid / 256
    let w := leAt b.desc 4 2
    let na := leAt b.desc 8 1
    let list := leAt b.desc 0x28 8
    let cap := leAt b.desc 14 2 + 1
    (s.anchorTable ctx b.desc).toOption = some table →
    ((rangeFrom 0 (w * leAt b.desc 6 2 * na)).mapM fun i => s.cellCandidates ctx b.desc table (i / na % w) (i / na / w) (i % na)
      (table.getD (4 + 2 * (i % na)) 0) (table.getD (5 + 2 * (i % na)) 0)).toOption = some found →
    (s.tryRead ctx list 8).toOption = some h →
    s.accessOk ctx list 8 true = true → s.writeError list 8 = none →
    (∀ i, i < cap → s.accessOk ctx (list + 16 + 16 * i) 16 true = true ∧ s.writeError (list + 16 + 16 * i) 16 = none) →
    (∀ r ∈ found.flatten, r.length = 16) →
    let n := leAt h 0 4
    let m := min found.flatten.length (cap - n)
    completes (.boxDecode d k) s [.free, .regs, .mem, .boxes, .sct, .err, .sch] fun t =>
      t.le list 4 = n + m ∧ t.le (list + 4) 4 = (leAt h 4 4 + (found.flatten.length - m)) % 2 ^ 32
      ∧ (∀ i, i < m → t.bytes (list + 16 + 16 * (n + i)) 16 = found.flatten.getD i [])
      ∧ (∀ a, (a < list ∨ list + 8 ≤ a) → (a < list + 16 + 16 * n ∨ list + 16 + 16 * (n + m) ≤ a) → t.byte a = s.byte a)
      ∧ ∃ c, t.boxRunning d.val k.val = some c ∧ c = { b with done := true }) ∧
  (∀ (s : State) (d : Fin 2) (k : Fin 8) (b : BoxCall) (h : List Byte) (all : List (List Byte)),
    s.isLive → s.boxRunning d.val k.val = some b → b.done = false → leAt b.desc 0 1 = 2 →
    let ctx := b.qid / 256
    let list := leAt b.desc 0x10 8
    let out := leAt b.desc 0x18 8
    let thr := flOf (BitVec.ofNat 32 (leAt b.desc 0x24 4))
    (s.tryRead ctx list 4).toOption = some h →
    ((rangeFrom 0 (ofLe h)).mapM fun i => s.tryRead ctx (list + 16 + 16 * i) 16).toOption = some all →
    let good := all.filter fun r => !(flOf (recHalf r 8)).isNan && !thr.isNan && !(flOf (recHalf r 8)).lt thr
    let kept := nmsKeep (leAt b.desc 1 1 == 1) (BitVec.ofNat 32 (leAt b.desc 0x20 4)) (leAt b.desc 4 2) [] ((sortBy nmsKey good).take 4096)
    s.accessOk ctx out 16 true = true → s.writeError out 16 = none →
    s.accessOk ctx (out + 16) (16 * kept.length) true = true → s.writeError (out + 16) (16 * kept.length) = none →
    completes (.boxNms d k) s [.free, .regs, .mem, .boxes, .sct, .err, .sch] fun t =>
      (∀ r ∈ kept, r ∈ good) ∧ kept.length ≤ leAt b.desc 4 2
      ∧ t.le out 4 = kept.length ∧ t.le (out + 4) 4 = good.length ∧ t.le (out + 8) 4 = ofLe h
      ∧ t.le (out + 12) 4 = (if 4096 < good.length then 1 else 0)
      ∧ (∀ i, i < kept.length → t.bytes (out + 16 + 16 * i) 16 = kept.getD i [])
      ∧ sameMemBut out (16 + 16 * kept.length) s t
      ∧ ∃ c, t.boxRunning d.val k.val = some c ∧ c = { b with done := true }) ∧
  (∀ (s : State) (d : Fin 2) (k : Fin 8) (clocks : Word) (b : BoxCall) (x : Slot), s.isLive →
    s.boxRunning d.val k.val = some b → b.done = true → s.slotAt b.core b.idx = some x → x.backlog = 0 → boxEvent b.desc < 32 →
    (∀ z ∈ s.sch.slots, z.calls = [] ∧ ∀ c n, z.wait ≠ some (.boxFull c, n)) →
    completes (.boxCallEnd d k clocks) s [.regs, .boxes, .sch] fun t =>
      sameRegsBut [regAddr R.BOX_CNT_CALLS [d.val, k.val], regAddr R.BOX_BUSY_CLK [d.val, k.val]] s t
      ∧ t.rd R.BOX_CNT_CALLS [d.val, k.val] = s.rd R.BOX_CNT_CALLS [d.val, k.val] + 1
      ∧ t.rd R.BOX_BUSY_CLK [d.val, k.val] = s.rd R.BOX_BUSY_CLK [d.val, k.val] + clocks
      ∧ t.boxes.length = (s.boxes.filter fun c => !(c.on d.val k.val && c.running)).length
      ∧ ∃ y, t.slotAt b.core b.idx = some y ∧ y.eventCount (boxEvent b.desc) = x.eventCount (boxEvent b.desc) + 1)

/-- R176, Table 7.3: a scene command that is next in the ring of a binning pass is taken, and gives the scene state its fields; END
or the end of the range ends binning. R187: a texture descriptor outside Table 7.6 is rejected. R178, R180, R182: a draw whose
vertices are shaded bins the primitive that it leaves in the pool, which grows by its records and chunks, or keeps it for a partial
render when the pool has no room; one whose vertices are not shaded yet waits. R177: a draw of what is not bound ends the task with 0x10
and leaves its place in the error registers. A command of another opcode waits. -/
def Obligations.SceneCommandsAreParsed : Prop :=
  (∀ (s : State) (l : ClusterName) (p : Pass) (bs : List Byte), s.atScene l 0x00 p bs →
    sceneTaken (.sceneNop l) s p bs false p.scene) ∧
  (∀ (s : State) (l : ClusterName) (p : Pass) (bs : List Byte), s.atScene l 0x01 p bs →
    sceneTaken (.sceneEnd l) s p bs true p.scene) ∧
  (∀ (s : State) (l : ClusterName) (p : Pass) (bs : List Byte), s.atScene l 0x02 p bs →
    sceneTaken (.sceneSetClear l) s p bs false { p.scene with
      clear := [BitVec.ofNat 32 (leAt bs 8 4), BitVec.ofNat 32 (leAt bs 12 4), BitVec.ofNat 32 (leAt bs 16 4), BitVec.ofNat 32 (leAt bs 20 4)]
      clearDepth := BitVec.ofNat 32 (leAt bs 24 4), clearLayer := leAt bs 28 4 % 32 }) ∧
  (∀ (s : State) (l : ClusterName) (p : Pass) (bs : List Byte), s.atScene l 0x03 p bs →
    sceneTaken (.sceneSetLayer l) s p bs false { p.scene with
      layer := leAt bs 8 1 % 32, motionNone := natBit (leAt bs 9 1) 0, idWrite := natBit (leAt bs 9 1) 1, blend := leAt bs 9 1 / 4 % 4 }) ∧
  (∀ (s : State) (l : ClusterName) (p : Pass) (bs : List Byte), s.atScene l 0x04 p bs →
    sceneTaken (.sceneSetState l) s p bs false { p.scene with
      depthFn := leAt bs 8 4 % 8, depthWrite := natBit (leAt bs 8 4) 3, cull := leAt bs 8 4 / 16 % 4
      scissor := (leAt bs 12 2, leAt bs 14 2, leAt bs 16 2, leAt bs 18 2) }) ∧
  (∀ (s : State) (l : ClusterName) (p : Pass) (bs : List Byte), s.atScene l 0x05 p bs →
    sceneTaken (.sceneBindProg l) s p bs false { p.scene with program := some (leAt bs 8 4, leAt bs 12 4, leAt bs 16 4) }) ∧
  (∀ (s : State) (l : ClusterName) (p : Pass) (bs : List Byte), s.atScene l 0x06 p bs → textureGood (sliceBytes bs 16 32) = true →
    ∃ x : SceneState, sceneTaken (.sceneBindTex l) s p bs false { p.scene with textures := x.textures }
      ∧ ∀ k, x.textures.find? (fun e => e.1 == k) =
          if k = leAt bs 8 4 % 16 then some (k, sliceBytes bs 16 32) else p.scene.textures.find? (fun e => e.1 == k)) ∧
  (∀ (s : State) (l : ClusterName) (p : Pass) (bs : List Byte), s.atScene l 0x06 p bs → textureGood (sliceBytes bs 16 32) = false →
    exec (.sceneBindTex l) s =
      .next (((s.sceneError p.lead 6 (some ((p.start + p.parsed) % p.ringSize))).endPassTask p 0x10 none).kept s)) ∧
  (∀ (s : State) (l : ClusterName) (p : Pass) (bs : List Byte), s.atScene l 0x07 p bs →
    ∃ x : SceneState, sceneTaken (.sceneBindBuf l) s p bs false { p.scene with buffers := x.buffers }
      ∧ ∀ k, x.buffers.find? (fun e => e.1 == k) =
          if k = leAt bs 8 4 % 8 then some (k, leAt bs 12 4, leAt bs 16 8) else p.scene.buffers.find? (fun e => e.1 == k)) ∧
  (∀ (s : State) (l : ClusterName) (p : Pass) (bs : List Byte) (vs : List Nat) (shaded : List (List Byte)), s.atScene l 0x08 p bs →
    ((s.sketchWrite p p.lead p.firstWrites).1.drawVertices p bs).toOption.map (·.1) = some vs →
    (s.drawShaded p bs vs shaded = false → exec (.sceneDraw l.die l.cluster shaded) s = .next s) ∧
    (s.drawShaded p bs vs shaded = true → p.drawPrims bs vs shaded = [] → sceneTaken (.sceneDraw l.die l.cluster shaded) s p bs false p.scene) ∧
    (∀ b, s.drawShaded p bs vs shaded = true → p.drawPrims bs vs shaded = [b] → drawTaken (.sceneDraw l.die l.cluster shaded) s p bs b)) ∧
  (∀ (s : State) (l : ClusterName) (p : Pass) (bs : List Byte) (z : Int), s.atScene l 0x09 p bs →
    p.scene.textures.any (fun u => u.1 == leAt bs 8 4) = true → fixOf (BitVec.ofNat 32 (leAt bs 0x14 4)) = some z →
    (p.surfacePrims bs z = [] → sceneTaken (.sceneDrawSurface l.die l.cluster) s p bs false p.scene) ∧
    (∀ b, p.surfacePrims bs z = [b] → drawTaken (.sceneDrawSurface l.die l.cluster) s p bs b)) ∧
  (∀ (s : State) (l : ClusterName) (p : Pass) (bs : List Byte) (shaded : List (List Byte)), s.atScene l 0x08 p bs →
    natBit (leAt bs 8 4) 2 = true → p.scene.buffers.any (fun u => u.1 == leAt bs 8 4 / 16 % 8) = false →
    exec (.sceneDraw l.die l.cluster shaded) s =
      .next (((s.sceneError p.lead 3 (some ((p.start + p.parsed) % p.ringSize))).endPassTask p 0x10 none).kept s)) ∧
  (∀ (s : State) (l : ClusterName) (p : Pass) (bs : List Byte), s.atScene l 0x09 p bs →
    p.scene.textures.any (fun u => u.1 == leAt bs 8 4) = false →
    exec (.sceneDrawSurface l.die l.cluster) s =
      .next (((s.sceneError p.lead 3 (some ((p.start + p.parsed) % p.ringSize))).endPassTask p 0x10 none).kept s)) ∧
  (∀ (s : State) (l : ClusterName) (p : Pass) (bs : List Byte), s.atScene l 0x01 p bs → exec (.sceneNop l) s = .next s)

/-- R174, R191: a good pass of a running render task joins its sketch units, and starts when no other pass is on them; it is pending
behind one of its priority or above, and stalls where a unit has 16 pending. R177: a refused pass ends its task with 0x10. R191: a stopped
pass goes on when no pass of its units keeps it back. R185: a fragment of a primitive before `through` commits; the order in which
fragments come changes nothing. R188, R189: the end of a drained pass stores its pixels at its target, and R190: the last one also writes the
result block. -/
def Obligations.SketchPassesRun : Prop :=
  (∀ (s : State) (n : SlotName) (k : Fin 4) (x : Slot) (t : Task) (d e : List Byte) (owners : Option (List Byte)),
    s.atSubmit n k x t d e owners → s.passRefusal t d e owners k.val = none →
    s.accessOk t.ctx (leAt e 0x28 8) (leAt e 0x30 4) true = true → s.sketchSettled →
    let p := newPass t (x.core, x.idx) k.val d e owners
    let joins (q : Pass) : Prop := completes (.sketchPassSubmit n k) s [.passes, .sch] fun u => u.passes = s.passes ++ [q]
      ∧ u.task t.qid t.entry.seq = some (t.renders k d e)
    (s.passRoom p.mask = false → joins { p with phase := .stalled }) ∧
    (s.passRoom p.mask = true → (∃ q ∈ s.passes, q.shares p = true ∧ q.begun = true ∧ q.prio ≤ p.prio) → joins p) ∧
    (s.passRoom p.mask = true → (∀ q ∈ s.passes, q.shares p = false) →
      (∀ g, g < 16 → natBit p.mask g = true → Domain.sketch g ∉ s.pwr.gated) → joins p.settle)) ∧
  (∀ (s : State) (n : SlotName) (k : Fin 4) (x : Slot) (t : Task) (d e : List Byte) (owners : Option (List Byte)) (code : Nat),
    s.atSubmit n k x t d e owners → s.passRefusal t d e owners k.val = some (some code) →
    exec (.sketchPassSubmit n k) s = .next (((((s.putTask (t.renders k d e)).sceneError ((maskUnits (leAt d 0x0C 2)).headD 0) code
      none).endTask (t.renders k d e) 0x10)).kept s)) ∧
  (∀ (s : State) (l : ClusterName) (p : Pass), s.isLive → p ∈ s.passes → p.lead = 8 * l.die.val + l.cluster.val →
    p.phase = .stopped → p.fault = none → (∀ q ∈ s.passes, q.lead = p.lead → q.phase = .stopped → q = p) →
    let kept := s.passes.any fun q => !q.is p && q.shares p && (q.active || (q.phase == .pending && decide (q.prio < p.prio)))
    (kept = true → exec (.passResume l) s = .next s) ∧
    (kept = false → completes (.passResume l) s [.passes] fun t =>
      t.passes = s.passes.map fun q => if q.is p then p.settle else q)) ∧
  (∀ (s : State) (u l : ClusterName) (p : Pass) (r : Retire) (f : Fragment) (b : Binned) (through : Nat) (stalls : Word), s.isLive →
    let g := 8 * u.die.val + u.cluster.val
    s.passes.find? (fun p => p.lead == 8 * l.die.val + l.cluster.val
      && ((p.phase == .partialTiles || p.phase == .tiles) && natBit p.mask g)) = some p → p.phase = .tiles →
    (∃ x ∈ s.sch.slots, x.qid = p.qid ∧ x.seq = p.seq ∧ x.core / 16 = g) → p.retireOf g = r → r.held = [] → r.through ≤ f.prim →
    f.prim < through → through ≤ p.nextSeq → p.primOf g f = some b → p.tileOf f.x.toNat f.y.toNat ∉ p.stored →
    completes (.quadRetire u l ⟨[f], through⟩ stalls) s [.regs, .passes] fun t =>
      sameRegsBut [regAddr R.SKU_CNT_RETSTALL (skuIx g)] s t
      ∧ t.rd R.SKU_CNT_RETSTALL (skuIx g) = s.rd R.SKU_CNT_RETSTALL (skuIx g) + stalls
      ∧ ∃ q, t.passes = s.passes.map (fun r => if r.is p then q else r) ∧ q = { p with pixels := q.pixels, retire := q.retire }
        ∧ q.retireOf g = { unit := g, through := through, held := [] }
        ∧ ∀ i, q.pixel i = if i = f.y.toNat * p.width + f.x.toNat then commitFragment b f (p.pixel i) else p.pixel i) ∧
  (∀ (s : State) (u l : ClusterName) (fs gs : List Fragment) (through : Nat) (stalls : Word), fs.Perm gs →
    (fs.map fun f => (f.prim, f.y, f.x)).Nodup → exec (.quadRetire u l ⟨fs, through⟩ stalls) s = exec (.quadRetire u l ⟨gs, through⟩ stalls) s) ∧
  (∀ (s : State) (l : ClusterName) (p : Pass) (t : Task), s.isLive →
    s.passes.find? (fun p => p.lead == 8 * l.die.val + l.cluster.val && p.phase == .tiles) = some p →
    s.task p.qid p.seq = some t → p.ctx < 64 → p.drained = true → p.stored = [] → s.noneWaits →
    let size := if p.kind = 0 then 16 else 4
    let data (i : Nat) : List Byte := if p.kind = 0 then (p.pixel i).bundle else (p.pixel i).argb
    (∀ i, (data i).length = size) → size * p.width ≤ p.pitch →
    (p.dispCopy = true → 4 * p.width ≤ p.dispPitch
      ∧ (p.target + p.pitch * p.height ≤ p.disp ∨ p.disp + p.dispPitch * p.height ≤ p.target)) →
    (∀ k, k < p.tileCount → s.takesWrites p (p.storeRows true k)) →
    (p.last = false → completes (.passEnd l) s [.free, .regs, .mem, .passes, .sct, .err, .sch] fun u =>
      u.passes = s.passes.filter (fun q => !q.is p)
        ∧ u.task p.qid p.seq = some { t with rendered := t.rendered.add p }
        ∧ (∀ g, natBit p.mask g = true → g < 16 → counted32 R.SKU_CNT_PASSES (skuIx g) s u)
        ∧ (∀ x y, x < p.width → y < p.height → u.bytes (p.target + y * p.pitch + size * x) size = data (y * p.width + x))
        ∧ (p.dispCopy = true → ∀ x y, x < p.width → y < p.height →
            u.bytes (p.disp + y * p.dispPitch + 4 * x) 4 = (p.pixel (y * p.width + x)).argb)) ∧
    (p.last = true → leAt p.desc 0x28 8 = 0 → s.takesWrites p [(leAt p.desc 0x30 8, zeros 32)] →
      completes (.passEnd l) s [.free, .regs, .mem, .passes, .sct, .err, .sch] fun u => u.passes = s.passes.filter (fun q => !q.is p)
        ∧ u.bytes (leAt p.desc 0x30 8) 32 = (t.rendered.add p).block s.now))

/-- R194, R196: a good chain joins the dispatcher, and its first stage starts on the first engine free for it. R211: with 256 chains
held, a submission by the host is counted and dropped, and one of a task waits and stalls its control core. R195: the end of the last stage ends its chain. R197:
a stage gives way to one of higher priority, and goes on when none waits. R207: a failed engine runs nothing more, its stage starts
again elsewhere, once, and the spare takes the place of a flow engine. R199: a chain with a timeout ends when it has passed. -/
def Obligations.VisionChainsAreDispatched : Prop :=
  (∀ (s : State) (by_ : ChainFrom) (a : BitVec 48) (source : ChainSource) (w : List WaitingChain) (d : List Byte) (e : Nat),
    s.isLive → s.chainsNumbered → s.visAct = none → s.vis.chains.length < 256 → s.submits by_ a.toNat source w →
    let ctx := leAt d 4 1 % 64
    let x : Stage := { desc := d, state := .waiting, done := false, restarted := false, pin := none }
    a.toNat % 64 = 0 → d = s.bytes a.toNat 128 → s.readFor ctx a.toNat 128 = .ok d → s.partResetting (s.ctxPart ctx) = false →
    chainHeaderGood d = true → stageHeaderGood d = true → stageBodyGood d = true →
    s.prioAllowed (s.ctxPart ctx) (leAt d 2 1 % 4) = true → (x.par = false ∨ x.nextAddr = 0) →
    (s.stageEngines x).find? (fun g => s.engineFree g (leAt d 2 1 % 4)) = some e →
    completes (.visChainSubmit by_ a) s [.vis] fun t => t.vis.nextChain = s.vis.nextChain + 1 ∧ t.vis.waiting = w
      ∧ ∃ c, t.vis.chains = s.vis.chains ++ [c] ∧ c.ident = s.vis.nextChain ∧ c.source = source ∧ c.ctx = ctx
          ∧ c.prio = leAt d 2 1 % 4 ∧ c.ended = none ∧ c.firstRun = s.now ∧ c.stages = [{ x with state := .running e }]) ∧
  (∀ (s : State) (a : BitVec 48), s.isLive → 256 ≤ s.vis.chains.length →
    completes (.visChainSubmit .host a) s [.regs] fun t => counted R.VIS_CD_CNT_REJECT [] s t
      ∧ sameRegsBut [regAddr R.VIS_CD_CNT_REJECT [], regAddr R.VIS_CD_CNT_OVF []] s t) ∧
  (∀ (s : State) (n : SlotName) (a : BitVec 48) (x : Slot), s.isLive → 256 ≤ s.vis.chains.length → s.slotNamed n = some x →
    s.stalls x = false →
    completes (.visChainSubmit (.task n) a) s [.vis] fun t => t.stalls x = true ∧ t.vis = { s.vis with
      waiting := s.vis.waiting ++ [{ qid := x.qid, seq := x.seq, addr := a.toNat, site := some (x.core, x.idx) }] }) ∧
  (∀ (s : State) (g : Fin 16) (ns : Word) (c : Chain) (i : Nat) (x : Stage), s.isLive → s.vis.chains = [c] → s.vis.waiting = [] →
    c.ended = none → c.alone → s.running g.val = some (c, i) → c.stages[i]? = some x → x.done = true → x.nextAddr = 0 →
    i + 1 = c.stages.length → (∀ y ∈ c.stages.take i, y.state = .ended) →
    completes (.visStageEnd g ns) s [.regs, .vis] fun t => t.vis = { s.vis with chains := [] }
      ∧ t.rd R.VIS_ENG_CNT_STAGES [g.val] = s.rd R.VIS_ENG_CNT_STAGES [g.val] + 1
      ∧ t.rd R.VIS_ENG_BUSY_CLK [g.val] = s.rd R.VIS_ENG_BUSY_CLK [g.val] + ns ∧ t.rd R.VIS_ENG_LAST_NS [g.val] = ns
      ∧ t.rd R.VIS_CD_CNT_CHAINS [] = s.rd R.VIS_CD_CNT_CHAINS [] + 1) ∧
  (∀ (s : State) (g : Fin 16) (ns : Word) (c : Chain) (i : Nat) (x : Stage), s.isLive → s.running g.val = some (c, i) →
    c.stages[i]? = some x → (∀ y ∈ c.stages, y.state = .running g.val → y.done = false) → exec (.visStageEnd g ns) s = .next s) ∧
  (∀ (s : State) (g : Fin 16) (c : Chain) (i prio : Nat), s.isLive → s.chainsNumbered → s.visAct = none →
    s.running g.val = some (c, i) → s.waitingFor g.val = some prio → prio < c.prio → s.stoppedOn g.val = none →
    ∃ t, exec (.visStageStop g) s = .next t ∧ t.pending = s.pending
      ∧ ∃ d ∈ t.vis.chains, d.ident = c.ident ∧ (d.stages[i]?).map (·.state) = some (.stopped g.val)) ∧
  (∀ (s : State) (g : Fin 16) (c : Chain) (i : Nat), s.isLive → s.chainsNumbered → s.visAct = none → s.running g.val = none →
    s.stoppedOn g.val = some (c, i) → (∀ p, s.waitingFor g.val = some p → c.prio ≤ p) →
    completes (.visStageResume g) s [.vis] fun t => ∃ d ∈ t.vis.chains, d.ident = c.ident
      ∧ d.stages = mapPlaces (fun j x => if j = i then { x with state := .running g.val } else x) 0 c.stages) ∧
  (∀ (s : State) (g : Fin 16), s.isLive → g.val ∈ visEngines → s.bit R.VIS_ENG_STATUS [g.val] 4 = false → s.vis.chains = [] →
    s.vis.waiting = [] →
    ∃ t, exec (.visEngineFail g) s = .next t ∧ t.pending = s.pending ∧ t.vis = s.vis ∧ t.bit R.VIS_ENG_STATUS [g.val] 4 = true
      ∧ (8 ≤ g.val → g.val < 12 → t.engineAbsent 3 (g.val - 8) = true) ∧ (12 ≤ g.val → t.engineAbsent 1 (g.val - 12) = true)
      ∧ (∀ l, l < 4 → g.val < 4 → (∀ k, k < 4 → s.fld R.VIS_CD_FMAP [] (4 * k + 2) (4 * k) = g.val ↔ k = l) → s.engineAbsent 2 l = false →
          s.bit R.VIS_CD_STATUS [] 20 = false → s.bit R.VIS_ENG_STATUS [4] 4 = false →
          t.fld R.VIS_CD_FMAP [] (4 * l + 2) (4 * l) = 4 ∧ t.bit R.VIS_CD_STATUS [] 20 = true ∧ t.engineAbsent 2 l = false)
      ∧ exec (.visEngineFail g) t = .next t) ∧
  (∀ (s : State) (g : Fin 16) (c : Chain) (x : Stage) (l e : Nat), s.isLive → g.val ∈ visEngines →
    s.bit R.VIS_ENG_STATUS [g.val] 4 = false → s.vis.chains = [c] → s.vis.waiting = [] → c.ended = none → c.stages = [x] →
    x.state = .running g.val → x.restarted = false → x.logical = 15 → x.nextAddr = 0 → x.op = 1 ∨ x.op = 2 ∨ x.op = 3 → (s.classEngines x.op).Nodup →
    g.val ∈ s.classEngines x.op → (s.classEngines x.op)[l]? = some e → e ≠ g.val → s.engineAbsent x.op l = false → s.pwr.gated = [] →
    ∃ t, exec (.visEngineFail g) s = .next t ∧ t.pending = s.pending ∧ counted R.VIS_CD_CNT_RESTART [] s t
      ∧ ∃ f p d, f ≠ g.val ∧ t.vis.chains = [d]
          ∧ d.stages = [{ x with state := .running f, done := false, restarted := true, pin := p }] ∧ (∀ e, p = some e → f = e)) ∧
  (∀ (s : State) (g : Fin 16) (c : Chain) (x : Stage), s.isLive → g.val ∈ visEngines → s.bit R.VIS_ENG_STATUS [g.val] 4 = false →
    s.vis.chains = [c] → s.vis.waiting = [] → c.ended = none → c.alone → c.stages = [x] → x.state = .running g.val →
    x.restarted = true →
    ∃ t, exec (.visEngineFail g) s = .next t ∧ t.pending = s.pending ∧ t.vis = { s.vis with chains := [] }
      ∧ t.rd R.VIS_CD_CNT_CHAINS [] = s.rd R.VIS_CD_CNT_CHAINS [] + 1) ∧
  (∀ (s : State) (k : Nat) (c : Chain), s.isLive → s.vis.chains = [c] → s.vis.waiting = [] → c.ident = k → c.ended = none → c.alone →
    c.timeout ≠ 0 → (∀ y ∈ c.stages, ∀ e, y.state = .running e ∨ y.state = .stopped e → e < 16) →
    completes (.visChainTimeout k) s [.regs, .vis] fun t => t.vis = { s.vis with chains := [] }
      ∧ t.rd R.VIS_CD_CNT_CHAINS [] = s.rd R.VIS_CD_CNT_CHAINS [] + 1) ∧
  (∀ (s : State) (k : Nat) (c : Chain), s.isLive → c ∈ s.openChains → c.ident = k → (∀ d ∈ s.openChains, d.ident = k → d = c) →
    c.timeout = 0 → exec (.visChainTimeout k) s = .next s)

/-- R200, R201: a pyramid stage writes the 8-bit image of its source, remapped if it asks for that, as level 0, and every further
level as the 5 × 5 binomial reduction of the one before. R203–R205: a flow stage writes a record for each block: the vector found, or
the code of no match for a confidence below its threshold, or of an occlusion. R208, R209: a stereo stage writes the disparity of every
pixel, or its code, and its confidence. The stage's work is then done. -/
def Obligations.VisionStagesCompute : Prop :=
  (∀ (s : State) (g : Fin 4) (c : Chain) (i : Nat) (x : Stage) (rows grid : List (List Byte)), s.stageAt (12 + g.val) c i x →
    let d := x.desc
    let w := leAt d 0x2C 2
    let h := leAt d 0x2E 2
    let fmt := leAt d 0x30 1
    let px := sourceBytes fmt
    let base := leAt d 0x38 8
    let remap : Bool := leAt d 0x33 1 == 1
    0 < w → 0 < h → (s.readImage c.ctx (leAt d 0x20 8) (leAt d 0x28 4) (w * px) h).toOption = some rows →
    (remap = true → (s.readImage c.ctx (leAt d 0x40 8) (8 * (ceilDiv w 16 + 1)) (8 * (ceilDiv w 16 + 1)) (ceilDiv h 16 + 1)).toOption = some grid) →
    (∀ l, l < leAt d 0x32 1 → s.rowsWritable c.ctx (base + levelOffset w h l) (levelPitch w l) (levelDim w l) (levelDim h l)) →
    let src : Image := rows.map fun r => (rangeFrom 0 w).map fun k => sourcePixel fmt (leAt d 0x31 1) (sliceBytes r (k * px) px)
    let m := if remap then remapImage src w h grid (fun k => (Config.freeBits 8 (s.free + k)).toNat) else src
    completes (.pyramidStage g) s [.free, .regs, .mem, .vis, .sct, .err, .sch] fun t => stageDone c i x s t
      ∧ ∀ l px py, l < leAt d 0x32 1 → px < levelDim w l → py < levelDim h l →
          t.byte (base + levelOffset w h l + py * levelPitch w l + px) = BitVec.ofNat 8 ((pyramidLevel m w h l).px px py)) ∧
  (∀ (s : State) (g : Fin 5) (c : Chain) (i : Nat) (x : Stage) (as_ bs : List Image) (hints : List (List Byte)),
    s.stageAt g.val c i x →
    let d := x.desc
    let w := leAt d 0x30 2
    let h := leAt d 0x32 2
    let levels := leAt d 0x34 1
    let size := if natBit (leAt d 0x35 1) 0 then 16 else 8
    let fb := natBit (leAt d 0x35 1) 1
    let hint := natBit (leAt d 0x35 1) 2
    let base := leAt d 0x38 8
    let pitch := leAt d 0x40 4
    ((rangeFrom 0 levels).mapM (s.readLevel c.ctx (leAt d 0x20 8) w h)).toOption = some as_ →
    ((rangeFrom 0 levels).mapM (s.readLevel c.ctx (leAt d 0x28 8) w h)).toOption = some bs →
    (hint = true → (s.readImage c.ctx (leAt d 0x48 8) pitch (8 * ceilDiv w size) (ceilDiv h size)).toOption = some hints) →
    8 * ceilDiv w size ≤ pitch → s.rowsWritable c.ctx base pitch (8 * ceilDiv w size) (ceilDiv h size) →
    let a (l : Nat) : Image := as_.getD l []
    let b (l : Nat) : Image := bs.getD l []
    let field := flowField a b size w h levels (if hint then hintCentre hints levels size else fun _ _ => (0, 0))
    let back := flowField b a size w h levels fun _ _ => (0, 0)
    let thr := if leAt d 0x37 1 = 0 then 32 else leAt d 0x37 1
    completes (.flowStage g) s [.free, .regs, .mem, .vis, .sct, .err, .sch] fun t => stageDone c i x s t
      ∧ ∀ bx by_ r, bx < ceilDiv w size → by_ < ceilDiv h size → ((field.getD by_ [])[bx]?) = some r →
          let o := base + by_ * pitch + 8 * bx
          (r.confidence < leAt d 0x36 1 → t.le o 2 = 0x8000 ∧ t.le (o + 2) 2 = 0x8000 ∧ t.le (o + 4) 1 = 0) ∧
          (leAt d 0x36 1 ≤ r.confidence → fb = true → occluded back size bx by_ thr r = true →
            t.le o 2 = 0x8001 ∧ t.le (o + 2) 2 = 0x8001 ∧ t.le (o + 4) 1 = 0) ∧
          (leAt d 0x36 1 ≤ r.confidence → (fb = true → occluded back size bx by_ thr r = false) →
            t.le o 2 = twosNat 16 r.x ∧ t.le (o + 2) 2 = twosNat 16 r.y ∧ t.le (o + 4) 1 = r.confidence % 256) ∧
          t.le (o + 6) 2 = (if natBit (leAt d 2 1) 3 then min r.c1 0xFFFF else 0)) ∧
  (∀ (s : State) (g : Fin 2) (c : Chain) (i : Nat) (x : Stage) (ls rs : List Image), s.stageAt (8 + g.val) c i x →
    let d := x.desc
    let w := leAt d 0x30 2
    let h := leAt d 0x32 2
    let levels := leAt d 0x34 1
    let dmax := leAt d 0x36 2
    let pitch := leAt d 0x58 4
    let cost := natBit (leAt d 2 1) 3
    ((rangeFrom 0 levels).mapM (s.readLevel c.ctx (leAt d 0x20 8) w h)).toOption = some ls →
    ((rangeFrom 0 levels).mapM (s.readLevel c.ctx (leAt d 0x28 8) w h)).toOption = some rs →
    2 * w ≤ pitch → s.rowsWritable c.ctx (leAt d 0x40 8) pitch (2 * w) h →
    s.rowsWritable c.ctx (leAt d 0x48 8) (pitch / 2) w h → (cost = true → s.rowsWritable c.ctx (leAt d 0x50 8) pitch (2 * w) h) →
    let apart (a b : Nat) : Prop := a + pitch * h ≤ b ∨ b + pitch * h ≤ a
    apart (leAt d 0x40 8) (leAt d 0x48 8) →
    (cost = true → apart (leAt d 0x48 8) (leAt d 0x50 8) ∧ apart (leAt d 0x40 8) (leAt d 0x50 8)) →
    let r := stereoSearch (stereoLevel (fun l => ls.getD l []) (fun l => rs.getD l []) w h dmax (leAt d 0x38 1) (leAt d 0x39 1)
      (leAt d 0x3A 1) (natBit (leAt d 0x35 1) 0)) (levels - 1) none
    let lr := if natBit (leAt d 0x35 1) 1 then some (if leAt d 0x3C 1 = 0 then 16 else leAt d 0x3C 1) else none
    completes (.stereoStage g) s [.free, .regs, .mem, .vis, .sct, .err, .sch] fun t => stageDone c i x s t
      ∧ ∀ px py, px < w → py < h →
          let p := stereoPixel r.1 r.2 dmax (leAt d 0x3B 1) lr px py
          t.le (leAt d 0x40 8 + py * pitch + 2 * px) 2 = p.1 % 65536
            ∧ t.le (leAt d 0x48 8 + py * (pitch / 2) + px) 1 = p.2.1 % 256
            ∧ (cost = true → t.le (leAt d 0x50 8 + py * pitch + 2 * px) 2 = p.2.2 % 65536)) ∧
  (∀ (s : State) (g : Fin 4) (k : Fin 5) (m : Fin 2), s.isLive →
    (s.running (12 + g.val) = none → exec (.pyramidStage g) s = .next s)
      ∧ (s.running k.val = none → exec (.flowStage k) s = .next s) ∧ (s.running (8 + m.val) = none → exec (.stereoStage m) s = .next s))

/-- R227–R229: a commit of a stopped pipe takes effect at once or is refused with its code; a running pipe is armed, latches what passes
at its commit line, and applies it at the next start of active. R39: that start counts the frame and stamps it, and
with it one of a composed member, which has none of its own. R237: vertical blanking
and line match set their status. R232: an underrun is counted. R234, R235: the end of the active lines leaves the signature of the frame,
and a repeated one counts up under a declared change. R59: the origin record goes to its ring. R231: a failed pipe is marked, and pipe P4
takes its place. R221, R233: relock and latency tolerance. -/
def Obligations.PipesCommitAndScan : Prop :=
  (∀ (s : State) (p : Fin 5) (v : Word), s.isLive → s.bit R.DSP_COMMIT [p.val] 17 = false →
    let l := s.shadowList p.val
    let code := s.commitCode p.val l
    (s.pipeRuns p.val = false → code = 0 → completes (.commitArm p v) s [.free, .regs, .dsp, .sct] fun t =>
      (t.pipe p.val).applied = l ∧ (t.pipe p.val).latched = none ∧ (t.pipe p.val).needCommit = false
        ∧ t.fld R.DSP_COMMIT [p.val] 23 20 = 0 ∧ t.fld R.DSP_COMMIT [p.val] 11 0 = bits v 11 0) ∧
    (s.pipeRuns p.val = false → code ≠ 0 → completes (.commitArm p v) s [.free, .regs, .sct] fun t =>
      t.bit R.DSP_COMMIT [p.val] 19 = true ∧ t.fld R.DSP_COMMIT [p.val] 23 20 = code ∧ counted R.DSP_CNT_REFUSED [p.val] s t) ∧
    (s.pipeRuns p.val = true → completes (.commitArm p v) s [.free, .regs, .sct] fun t => t.bit R.DSP_COMMIT [p.val] 17 = true
      ∧ t.fld R.DSP_COMMIT [p.val] 11 0 = bits v 11 0
      ∧ ((s.pipe p.val).linePassed = true → t.bit R.DSP_COMMIT [p.val] 18 = true ∧ counted R.DSP_CNT_LATE [p.val] s t))) ∧
  (∀ (s : State) (p : Fin 5), s.isLive → s.pipeRuns p.val = true →
    let l := s.shadowList p.val
    let code := s.commitCode p.val l
    completes (.commitLine p) s [.free, .regs, .dsp, .sct] fun t => (t.pipe p.val).linePassed = true ∧ (t.pipe p.val).declared = 0
      ∧ (t.pipe p.val).declNext = (s.pipe p.val).declared ∧ t.bit R.DSP_COMMIT [p.val] 17 = false
      ∧ (s.bit R.DSP_COMMIT [p.val] 17 = true → code = 0 → (t.pipe p.val).latched = some l)
      ∧ (s.bit R.DSP_COMMIT [p.val] 17 = true → code ≠ 0 → (t.pipe p.val).latched = (s.pipe p.val).latched
          ∧ t.fld R.DSP_COMMIT [p.val] 23 20 = code ∧ counted R.DSP_CNT_REFUSED [p.val] s t)
      ∧ (s.bit R.DSP_COMMIT [p.val] 17 = false → (t.pipe p.val).latched = (s.pipe p.val).latched)) ∧
  (∀ (s : State) (p : Fin 5) (v : Word), s.isLive →
    completes (.dspDeclare p v) s [.dsp] fun t => t.pipe p.val = { s.pipe p.val with declared := v &&& 7 }) ∧
  (∀ (s : State) (p : Fin 5), s.isLive → s.follows p.val = false → s.followersOf p.val = [] → s.pipeRuns p.val = true →
    (s.pipe p.val).relock = false → (s.pipe p.val).genFailed = false → (s.pipe p.val).stopAtEnd = false →
    completes (.soaArrival p) s [.free, .regs, .tim, .syn, .dsp, .sct] fun t => t.rd R.DSP_FRAME [p.val] = (s.pipe p.val).nextFrame
      ∧ t.rd64 R.DSP_SOA_LO R.DSP_SOA_HI [p.val] = s.now % 2 ^ 64 ∧ (t.pipe p.val).nextFrame = (s.pipe p.val).nextFrame + 1
      ∧ (t.pipe p.val).latched = none ∧ (t.pipe p.val).applied = (s.pipe p.val).latched.getD (s.pipe p.val).applied
      ∧ ∀ o, s.outputOf p.val = some o → t.rd R.SYN_FRAME [o] = (s.pipe p.val).nextFrame ∧ (t.out o).soa = some s.tb) ∧
  (∀ (s : State) (p m : Fin 5), s.isLive → s.follows p.val = false → s.followersOf p.val = [m.val] →
    (∀ k ∈ [p.val, m.val], s.pipeRuns k = true ∧ (s.pipe k).relock = false ∧ (s.pipe k).genFailed = false
      ∧ (s.pipe k).stopAtEnd = false) →
    completes (.soaArrival p) s [.free, .regs, .tim, .syn, .dsp, .sct] fun t => ∀ k ∈ [p.val, m.val],
      t.rd R.DSP_FRAME [k] = (s.pipe k).nextFrame ∧ t.rd64 R.DSP_SOA_LO R.DSP_SOA_HI [k] = s.now % 2 ^ 64) ∧
  (∀ (s : State) (p : Fin 5), s.isUp → s.follows p.val = true → exec (.soaArrival p) s = .next s) ∧
  (∀ (s : State) (p : Fin 5), s.isLive → s.follows p.val = false → s.followersOf p.val = [] → s.pipeRuns p.val = true →
    (s.pipe p.val).relock = false → (s.pipe p.val).genFailed = false → (s.pipe p.val).stopAtEnd = true →
    s.bit R.DSP_COMMIT [p.val] 17 = false →
    completes (.soaArrival p) s [.regs, .dsp] fun t => t.pipeRuns p.val = false ∧ (t.pipe p.val).needCommit = true) ∧
  (∀ (s : State) (p : Fin 5), s.isUp → s.followersOf p.val = [] → s.pipeRuns p.val = false → exec (.soaArrival p) s = .next s) ∧
  (∀ (s : State) (p : Fin 5), s.isLive → s.pipeRuns p.val = true →
    (completes (.vblankStart p) s [.free, .regs, .sct] fun t => t.bit R.DSP_STATUS [p.val] 4 = true
      ∧ t.fld R.DSP_STATUS [p.val] 19 8 = (s.timing p.val).vActive
      ∧ (s.bit R.DSP_CTRL [p.val] 1 = true → s.bit R.DSP_IRQ_EN [p.val] 0 = true → t.bit R.DSP_IRQ_STATUS [p.val] 0 = true)) ∧
    (completes (.lineMatch p) s [.free, .regs, .sct] fun t => t.fld R.DSP_STATUS [p.val] 19 8 = s.fld R.DSP_LINE_MATCH [p.val] 11 0
      ∧ (s.bit R.DSP_CTRL [p.val] 1 = true → s.bit R.DSP_IRQ_EN [p.val] 1 = true → t.bit R.DSP_IRQ_STATUS [p.val] 1 = true)) ∧
    (∀ (line : BitVec 12) (x : BitVec 13), line.toNat < (s.timing p.val).vActive → x.toNat < (s.timing p.val).hActive →
      (s.pipe p.val).underruns.any (fun u => u.1 == line.toNat) = false →
      completes (.lineUnderrun p line x) s [.free, .regs, .dsp, .sct] fun t => counted R.DSP_CNT_UNDERRUN [p.val] s t
        ∧ (t.pipe p.val).underruns = (s.pipe p.val).underruns ++ [(line.toNat, x.toNat)])) ∧
  (∀ (s : State) (p : Fin 5), s.isLive → s.pipeRuns p.val = true → (s.pipe p.val).began = true →
    let sig := s.outSignature p.val
    let cfg := s.applied p.val R.DSP_FRZ_CFG []
    let run := s.fld R.DSP_SIG_STATUS [p.val] 7 0 + 1
    let limit := if bits cfg 7 0 = 0 then 4 else bits cfg 7 0
    completes (.frameActiveEnd p) s [.free, .regs, .mem, .err, .syn, .dsp, .sct, .sch] fun t => t.rd R.DSP_SIG_OUT [p.val] = sig
      ∧ (t.pipe p.val).prevOut = some sig ∧ (t.pipe p.val).shown = (s.pipe p.val).shown.filter (fun y => after32 y.frame (s.rd R.DSP_FRAME [p.val]))
      ∧ (bits cfg 8 8 = 1 → (s.pipe p.val).prevOut = some sig → s.windowDeclared p.val = true →
          t.fld R.DSP_SIG_STATUS [p.val] 7 0 = min run 255
            ∧ (run = limit → t.bit R.DSP_SIG_STATUS [p.val] 8 = true ∧ counted R.DSP_CNT_FREEZE [p.val] s t))
      ∧ (bits cfg 8 8 = 1 → (s.pipe p.val).prevOut ≠ some sig → t.fld R.DSP_SIG_STATUS [p.val] 7 0 = 0)
      ∧ ∀ o f k0 k1, s.outputOf p.val = some o → s.frameRec o (s.rd R.DSP_FRAME [p.val]) = some f → f.recorded = false →
          f.pair = some (k0, k1) →
          let wr := s.fld R.SYN_ORING_WR [o] 15 0
          let a := s.rdAddr R.SYN_ORING_LO R.SYN_ORING_HI [o] + 32 * wr
          s.accessOk (s.synCtx o) a 32 true = true → s.writeError a 32 = none →
          t.le a 4 = (s.rd R.DSP_FRAME [p.val]).toNat ∧ t.le (a + 4) 1 = s.synS o ∧ t.le (a + 16) 16 = f.map (s.synS o) % 2 ^ 128
            ∧ sameMemBut a 32 s t ∧ (t.rd R.SYN_ORING_WR [o]).toNat = (wr + 1) % 2 ^ min 16 (s.fld R.SYN_ORING_SIZE [o] 4 0)) ∧
  (∀ (s : State) (p : Fin 5) (fault : PipeFault), s.isUp → s.bit R.DSP_STATUS [p.val] 2 = false → Domain.pipe p.val ∉ s.pwr.gated →
    ∃ t, exec (.pipeFail p fault) s = .next t ∧ t.pending = s.pending ∧ t.bit R.DSP_STATUS [p.val] 2 = true
      ∧ t.bit R.DSP_COMMIT [p.val] 17 = false ∧ (t.pipe p.val).latched = none ∧ (fault = .timing → t.pipeRuns p.val = false)
      ∧ (p.val < 4 → s.bit R.DSP_MAP [p.val] 3 = true → s.dsp.takeover = none → s.dsp.replacing = none →
          s.bit R.DSP_STATUS [4] 2 = false → t.dsp.takeover = some (p.val, s.now) ∧ (t.pipe 4).applied = (s.pipe p.val).applied
            ∧ (t.pipe 4).relock = true)) ∧
  (∀ (s : State) (p : Fin 5) (fault : PipeFault), s.isUp → s.bit R.DSP_STATUS [p.val] 2 = true →
    exec (.pipeFail p fault) s = .next s) ∧
  (∀ (s : State) (p at_ : Nat), s.isUp → s.dsp.takeover = some (p, at_) → p < 4 →
    ((s.bit R.DSP_STATUS [4] 2 = true ∨ (s.pipe 4).relock = true ∨ ((s.pipe p).genFailed = false ∧ s.now < at_ + 500000)) → exec .takeoverSwitch s = .next s) ∧
    (s.bit R.DSP_STATUS [4] 2 = false → (s.pipe 4).relock = false → ((s.pipe p).genFailed = true ∨ at_ + 500000 ≤ s.now) →
      ∃ t, exec .takeoverSwitch s = .next t ∧ t.pending = s.pending ∧ t.dsp.takeover = none ∧ t.dsp.replacing = some p
        ∧ t.bit R.DSP_STATUS [p] 3 = true ∧ t.pipeRuns 4 = true ∧ (t.pipe 4).nextFrame = (s.pipe p).nextFrame
        ∧ ∀ o ∈ s.outputsFed p, o < 4 → (vecGet t.dsp.outs o EdpOut.reset).p4 = true)) ∧
  (∀ (s : State) (p : Fin 5), s.isUp →
    ((s.pipe p.val).relock = true → completes (.pclkRelock p) s [.regs, .dsp] fun t => (t.pipe p.val) = { s.pipe p.val with relock := false }
      ∧ t.bit R.DSP_STATUS [p.val] 1 = true) ∧
    ((s.pipe p.val).relock = false → exec (.pclkRelock p) s = .next s)) ∧
  (∀ (s : State) (p : Fin 5) (line : BitVec 12) (buffered : Vector Nat 8), s.isLive →
    completes (.ltolReport p line buffered) s [.regs] fun t => (t.rd R.DSP_LTOL [p.val]).toNat ≤ 0xFFFF
      ∧ (s.pipeRuns p.val = false → t.rd R.DSP_LTOL [p.val] = 0xFFFF) ∧ sameRegsBut [regAddr R.DSP_LTOL [p.val]] s t)

/-- R215: a training starts with the panel that answers, and reads its identity (R217), or waits for HPD; it ends trained at the lanes
and rate of the first try that holds, or with a code of Table 9.1; without HPD in time, with code 1. A link that an IRQ finds bad is
trained again; the loss of HPD loses the link. R216: an AUX transaction that is allowed is sent or waits for the training, another is
refused with result 4; a reply ends it, and so does the fourth timeout. -/
def Obligations.OutputsTrainAndTalk : Prop :=
  (∀ (s : State) (o : Fin 4) (v : Word) (sink : Option SinkAnswer), s.isUp →
    let goes := s.bit R.EDP_STATUS [o.val] 12 = false ∨ ((s.edp o.val).panel = none ∧ sink.isSome = true)
    (goes → completes (.train o v sink) s [.free, .regs, .dsp, .sct] fun t => t.rd R.EDP_CTRL [o.val] = v &&& 0xFD
      ∧ t.bit R.EDP_STATUS [o.val] 12 = true ∧ t.bit R.EDP_STATUS [o.val] 1 = false
      ∧ t.bit R.EDP_STATUS [o.val] 0 = (s.bit R.EDP_STATUS [o.val] 0 || sink.isSome)
      ∧ (t.edp o.val).panel.isSome = sink.isSome
      ∧ ∀ a, sink = some a → (t.edp o.val).declared = declaredTimings (identityBlocks a.edid)
          ∧ (t.rd R.EDP_ID_COUNT [o.val]).toNat = (declaredTimings (identityBlocks a.edid)).length) ∧
    (¬goes → completes (.train o v sink) s [.regs] fun t => t.rd R.EDP_CTRL [o.val] = v &&& 0xFD
      ∧ sameRegsBut [regAddr R.EDP_CTRL [o.val]] s t)) ∧
  (∀ (s : State) (o : Fin 4), s.isUp →
    (s.bit R.EDP_STATUS [o.val] 12 = true → s.bit R.EDP_STATUS [o.val] 0 = false →
      completes (.hpdWaitTimeout o) s [.free, .regs, .dsp, .sct] fun t => t.fld R.EDP_STATUS [o.val] 11 8 = 1
        ∧ t.bit R.EDP_STATUS [o.val] 12 = false) ∧
    ((s.bit R.EDP_STATUS [o.val] 12 = false ∨ s.bit R.EDP_STATUS [o.val] 0 = true) → exec (.hpdWaitTimeout o) s = .next s)) ∧
  (∀ (s : State) (o : Fin 4) (failed : List Bool) (a : Panel), s.isUp → s.bit R.EDP_STATUS [o.val] 12 = true →
    (s.edp o.val).panel = some a →
    (a.dpcd = none → completes (.trainEnd o failed) s [.free, .regs, .dsp, .sct] fun t => t.fld R.EDP_STATUS [o.val] 11 8 = 2
      ∧ t.bit R.EDP_STATUS [o.val] 12 = false ∧ t.bit R.EDP_STATUS [o.val] 1 = s.bit R.EDP_STATUS [o.val] 1) ∧
    (∀ rate lanes assr, a.dpcd = some (rate, lanes, assr) →
      let tries := trainingTries (min (s.fld R.EDP_CTRL [o.val] 5 4) (min lanes 2)) (min (s.fld R.EDP_CTRL [o.val] 7 6) rate)
      (∀ n q, tries[failed.length]? = some (n, q) →
        completes (.trainEnd o failed) s [.free, .regs, .dsp, .sct] fun t => t.bit R.EDP_STATUS [o.val] 12 = false
          ∧ (linkCarries (s.timing (s.sourceOf o.val)) n q = true → t.bit R.EDP_STATUS [o.val] 1 = true
              ∧ t.fld R.EDP_STATUS [o.val] 3 2 = n ∧ t.fld R.EDP_STATUS [o.val] 5 4 = q
              ∧ t.bit R.EDP_STATUS [o.val] 6 = (assr && s.bit R.EDP_CTRL [o.val] 2))
          ∧ (linkCarries (s.timing (s.sourceOf o.val)) n q = false → t.fld R.EDP_STATUS [o.val] 11 8 = 5)) ∧
      (tries.length ≤ failed.length →
        completes (.trainEnd o failed) s [.free, .regs, .dsp, .sct] fun t => t.bit R.EDP_STATUS [o.val] 12 = false
          ∧ ((∀ x ∈ failed.take tries.length, x = false) → t.fld R.EDP_STATUS [o.val] 11 8 = 3)
          ∧ ((∀ x ∈ failed.take tries.length, x = true) → failed ≠ [] → t.fld R.EDP_STATUS [o.val] 11 8 = 4)
          ∧ (t.fld R.EDP_STATUS [o.val] 11 8 = 3 ∨ t.fld R.EDP_STATUS [o.val] 11 8 = 4)))) ∧
  (∀ (s : State) (o : Fin 4) (good : Bool) (sink : SinkAnswer), s.isUp →
    let again := s.bit R.EDP_STATUS [o.val] 1 = true ∧ good = false ∧ s.bit R.EDP_CTRL [o.val] 3 = true
    (again → completes (.irqHpd o good sink) s [.free, .regs, .dsp, .sct] fun t => counted R.EDP_CNT_RETRAIN [o.val] s t
      ∧ t.bit R.EDP_STATUS [o.val] 12 = true ∧ t.bit R.EDP_STATUS [o.val] 1 = false) ∧
    (¬again → exec (.irqHpd o good sink) s = .next s)) ∧
  (∀ (s : State) (o : Fin 4), s.isUp →
    (s.bit R.EDP_STATUS [o.val] 0 = true → completes (.hpdLoss o) s [.free, .regs, .dsp, .sct] fun t =>
      t.bit R.EDP_STATUS [o.val] 0 = false ∧ t.bit R.EDP_STATUS [o.val] 1 = false ∧ (t.edp o.val).panel = none) ∧
    (s.bit R.EDP_STATUS [o.val] 0 = false → exec (.hpdLoss o) s = .next s)) ∧
  (∀ (s : State) (o : Fin 4) (n : Fin 16) (c : Instr) (op : Nat), s.isUp →
    (c, op) ∈ [(.auxDpcdRead o n, 0), (.auxDpcdWrite o n, 1), (.auxI2cRead o n, 2), (.auxI2cSegmentWrite o n, 3)] →
    let word := s.rd R.EDP_AUX_ADDR [o.val]
    let allowed := op = 0 ∨ (op = 1 ∧ dpcdWriteAllowed (bits word 19 0) (n.val + 1) = true) ∨ (op = 2 ∧ bits word 6 0 = 0x50)
      ∨ (op = 3 ∧ bits word 6 0 = 0x30)
    let regs := [regAddr R.EDP_AUX_CMD [o.val], regAddr R.EDP_AUX_STATUS [o.val]]
    completes c s [.regs, .dsp] fun t => sameRegsBut regs s t
      ∧ t.rd R.EDP_AUX_CMD [o.val] = BitVec.ofNat 32 (op + 16 * n.val)
      ∧ ((s.edp o.val).aux.isSome = true → t.edp o.val = s.edp o.val ∧ t.rd R.EDP_AUX_STATUS [o.val] = s.rd R.EDP_AUX_STATUS [o.val])
      ∧ ((s.edp o.val).aux = none → allowed → t.rd R.EDP_AUX_STATUS [o.val] = 1
          ∧ (t.edp o.val).aux.map (fun a => (a.op, a.addr, a.len, a.tries, a.sent)) =
              some (op, word.toNat, n.val + 1, 0, !s.bit R.EDP_STATUS [o.val] 12))
      ∧ ((s.edp o.val).aux = none → ¬allowed → t.rd R.EDP_AUX_STATUS [o.val] = 8 ∧ (t.edp o.val).aux = none)) ∧
  (∀ (s : State) (o : Fin 4) (a : AuxTx) (data : List Byte), s.isUp → (s.edp o.val).aux = some a → a.sent = true →
    (a.len ≤ 16 → completes (.auxReply o .ack data) s [.regs, .dsp] fun t => (t.edp o.val).aux = none ∧ t.rd R.EDP_AUX_STATUS [o.val] = 0
      ∧ (a.op = 0 ∨ a.op = 2 → ∀ i, i < min a.len data.length →
          t.fld R.EDP_AUX_DATA [o.val, i / 4] (8 * (i % 4) + 7) (8 * (i % 4)) = (data.getD i 0).toNat)) ∧
    (∀ r v, (r, v) ∈ [(AuxReply.nack, 2), (AuxReply.deferLimit, 4)] →
      completes (.auxReply o r data) s [.regs, .dsp] fun t => (t.edp o.val).aux = none ∧ t.rd R.EDP_AUX_STATUS [o.val] = v) ∧
    (a.tries < 3 → completes (.auxTimeout o) s [.dsp] fun t =>
      (t.edp o.val).aux = some { a with tries := a.tries + 1 }) ∧
    (3 ≤ a.tries → completes (.auxTimeout o) s [.regs, .dsp] fun t => (t.edp o.val).aux = none
      ∧ t.rd R.EDP_AUX_STATUS [o.val] = 6 ∧ counted R.EDP_CNT_AUXERR [o.val] s t))

/-- R240, R241: a receiver counts corrected and bad headers, unrouted packets (Line Start and Line End are none), bad CRCs and overruns, and an overrun or a bad header marks the
open frames. R243: a Frame Start takes a free buffer, or the frame is dropped and counted. R242: a line of pixels goes to its row of the
buffer. R244: the end of a frame writes its record with its status; a good frame leaves its buffer ready, another frees it and is counted.
R245: ready buffers are released; a pair takes a common index, and fails or is complete at its later end; a good frame or a complete pair
submits its chain with the buffers held, and a refused trigger is flagged and counted. R246: a stream that is disabled discards its open
frame and frees what is not held. -/
def Obligations.CaptureTakesFrames : Prop :=
  (∀ (s : State) (rx : Fin 4) (vc : Fin 16) (dt : PacketType) (cor crc : Bool) (px : List Half) (c : Instr), s.isUp →
    s.bit R.CAP_RX_CTRL [rx.val] 0 = false →
    c ∈ [.csiFrameStart rx vc cor, .csiLongPacket rx vc dt cor crc px, .csiFrameEnd rx vc cor, .csiHeaderError rx, .lineBufferOverrun rx] →
    exec c s = .next s) ∧
  (∀ (s : State) (rx : Fin 4) (vc : Fin 16) (dt : PacketType) (cor crc : Bool) (px : List Half) (c : Instr), s.receives rx.val →
    (s.vidsOf rx.val vc.val = [] ∧ (c = .csiFrameStart rx vc cor ∨ c = .csiFrameEnd rx vc cor))
      ∨ (s.takers rx.val vc.val dt = [] ∧ dt ≠ .lineStart ∧ dt ≠ .lineEnd ∧ c = .csiLongPacket rx vc dt cor crc px) →
    completes c s [.regs] fun t => counted R.CAP_RX_CNT_UNROUTED [rx.val] s t ∧ (cor = true → counted R.CAP_RX_CNT_ECC [rx.val] s t)
      ∧ sameRegsBut [regAddr R.CAP_RX_CNT_UNROUTED [rx.val], regAddr R.CAP_RX_CNT_ECC [rx.val], regAddr R.CAP_RX_CNT_OVF [rx.val]] s t) ∧
  (∀ (s : State) (rx : Fin 4) (vc : Fin 16) (dt : PacketType) (cor crc : Bool) (px : List Half) (n : Nat) (f : CapFrame),
    s.receives rx.val → dt = .lineStart ∨ dt = .lineEnd → s.vidsOf rx.val vc.val = [n] → (s.vid n).frame = some f →
    completes (.csiLongPacket rx vc dt cor crc px) s [.regs, .cap] fun t => (cor = true → counted R.CAP_RX_CNT_ECC [rx.val] s t)
      ∧ t.rd R.CAP_RX_CNT_UNROUTED [rx.val] = s.rd R.CAP_RX_CNT_UNROUTED [rx.val]
      ∧ t.vid n = { s.vid n with frame := some { f with corrected := f.corrected + b2n cor } }) ∧
  (∀ (s : State) (rx : Fin 4) (c : Instr) (r : Reg), s.receives rx.val →
    (c, r) ∈ [(.csiHeaderError rx, R.CAP_RX_CNT_HDR), (.lineBufferOverrun rx, R.CAP_RX_CNT_OVR)] →
    completes c s [.regs, .cap] fun t => counted r [rx.val] s t
      ∧ ∀ n ∈ s.vidsOn rx.val, ∀ f, (s.vid n).frame = some f → t.vid n = { s.vid n with frame := some { f with header := true } }
          ∧ t.frameStatus n { f with header := true } false = 4) ∧
  (∀ (s : State) (rx : Fin 4) (vc : Fin 16) (cor : Bool) (n : Nat), s.receives rx.val → s.vidsOf rx.val vc.val = [n] →
    s.partner n = none → (s.vid n).frame = none →
    (∀ i, s.freeBuffer n = some i → i < 8 → completes (.csiFrameStart rx vc cor) s [.regs, .cap] fun t => bufferIs n i 1 s t
      ∧ (cor = true → counted R.CAP_RX_CNT_ECC [rx.val] s t) ∧ (t.vid n).last = some i
      ∧ (t.vid n).frame = some { buffer := i, start := s.now, lines := 0, long := false, short := false, crc := false, header := false,
                                 corrected := b2n cor }
      ∧ ∀ m, m ≠ n → t.vid m = s.vid m) ∧
    (s.freeBuffer n = none → completes (.csiFrameStart rx vc cor) s [.free, .regs, .cap, .sct] fun t =>
      counted R.CAP_V_CNT_DROP [n] s t ∧ (t.vid n).frame = none ∧ ∀ j, j < 8 → t.bufState n j = s.bufState n j)) ∧
  (∀ (s : State) (rx : Fin 4) (vc : Fin 16) (cor : Bool) (n : Nat) (f : CapFrame), s.receives rx.val → s.vidsOf rx.val vc.val = [n] →
    s.partner n = none → (s.vid n).frame = some f → s.recordFits n f.buffer →
    completes (.csiFrameStart rx vc cor) s [.free, .regs, .mem, .err, .cap, .sct, .sch] fun t =>
      frameRecorded n f (s.frameStatus n f true) 0 s t ∧ counted R.CAP_V_CNT_BAD [n] s t ∧ counted32 R.CAP_V_FRAMES [n] s t) ∧
  (∀ (s : State) (rx : Fin 4) (vc : Fin 16) (cor : Bool) (n m : Nat), s.receives rx.val → s.vidsOf rx.val vc.val = [n] →
    s.partner n = some m → (s.vid n).frame = none →
    (∀ i, (s.vid n).common = none → (s.vid m).common = none → s.freeBuffer (min n m) = some i → i < 8 → s.bufState n i = 0 →
      s.bufState m i = 0 → completes (.csiFrameStart rx vc cor) s [.regs, .cap] fun t => bufferIs n i 1 s t ∧ bufferIs m i 1 s t
        ∧ (t.vid n).frame.map (·.buffer) = some i ∧ (t.vid m).common = some i) ∧
    (∀ i, (s.vid n).common = some i → i < 8 → completes (.csiFrameStart rx vc cor) s [.regs, .cap] fun t => bufferIs n i 1 s t
      ∧ (t.vid n).frame.map (·.buffer) = some i ∧ (t.vid n).common = none) ∧
    ((s.vid n).common = some 8 ∨ ((s.vid n).common = none ∧ (s.vid m).common = none
        ∧ ∀ i, s.freeBuffer (min n m) = some i → s.bufState n i ≠ 0 ∨ s.bufState m i ≠ 0) →
      completes (.csiFrameStart rx vc cor) s [.free, .regs, .cap, .sct] fun t => counted R.CAP_V_CNT_DROP [n] s t
        ∧ (t.vid n).frame = none ∧ ((s.vid n).common = none → (t.vid m).common = some 8))) ∧
  (∀ (s : State) (rx : Fin 4) (vc : Fin 16) (dt : PacketType) (cor crc : Bool) (px : List Half) (n : Nat) (f : CapFrame), s.receives rx.val →
    s.takers rx.val vc.val dt = [n] → (s.vid n).frame = some f →
    let w := s.fld R.CAP_V_SIZE [n] 12 0
    let h := s.fld R.CAP_V_SIZE [n] 27 16
    let b := if dt = .raw8 then 1 else 2
    let a := s.rdAddr R.CAP_V_BASE_LO R.CAP_V_BASE_HI [n] + f.buffer * (s.rd R.CAP_V_STRIDE [n]).toNat
      + f.lines * (s.rd R.CAP_V_PITCH [n]).toNat
    s.accessOk (s.vidCtx n) a (b * w) true = true → s.writeError a (b * w) = none →
    completes (.csiLongPacket rx vc dt cor crc px) s [.free, .regs, .mem, .cap, .sct, .err, .sch] fun t =>
      (f.lines < h → (∀ x, x < w → t.le (a + b * x) b = (if x < px.length then (px.getD x 0).toNat % 2 ^ rawBits dt else 0))
        ∧ sameMemBut a (b * w) s t)
      ∧ (h ≤ f.lines → ∀ x, t.byte x = s.byte x) ∧ (crc = false → counted R.CAP_RX_CNT_CRC [rx.val] s t)
      ∧ t.vid n = { s.vid n with frame := some { f with
          lines := f.lines + 1
          long := f.long || decide (w < px.length) || decide (h ≤ f.lines)
          short := f.short || (decide (px.length < w) && decide (f.lines < h))
          crc := f.crc || !crc
          corrected := f.corrected + b2n cor } }) ∧
  (∀ (s : State) (rx : Fin 4) (vc : Fin 16) (cor : Bool) (n : Nat) (f : CapFrame), s.receives rx.val → s.vidsOf rx.val vc.val = [n] →
    s.openFrame n cor = some f → s.partner n = none → f.buffer < 8 → s.recordFits n f.buffer →
    let st := s.frameStatus n f false
    (st ≠ 0 → completes (.csiFrameEnd rx vc cor) s [.free, .regs, .mem, .err, .cap, .sct, .sch] fun t => frameRecorded n f st 0 s t
      ∧ bufferIs n f.buffer 0 s t ∧ counted R.CAP_V_CNT_BAD [n] s t ∧ counted32 R.CAP_V_FRAMES [n] s t ∧ (t.vid n).frame = none) ∧
    (st = 0 → s.bit R.CAP_V_CTRL [n] 2 = false → completes (.csiFrameEnd rx vc cor) s [.free, .regs, .mem, .cap, .sct, .err, .sch] fun t =>
      frameRecorded n f 0 0 s t ∧ bufferIs n f.buffer 2 s t ∧ counted32 R.CAP_V_FRAMES [n] s t ∧ (t.vid n).frame = none) ∧
    (st = 0 → s.bit R.CAP_V_CTRL [n] 2 = true → s.flagsFit n f.buffer → s.visFull = true →
      completes (.csiFrameEnd rx vc cor) s [.free, .regs, .mem, .err, .cap, .sct, .sch] fun t => frameRecorded n f 0 2 s t
        ∧ bufferIs n f.buffer (if s.bit R.CAP_V_CTRL [n] 1 then 0 else 2) s t ∧ counted R.CAP_V_CNT_TRIGFAIL [n] s t) ∧
    (st = 0 → s.bit R.CAP_V_CTRL [n] 2 = true → s.flagsFit n f.buffer → s.visFull = false → ∃ u,
      exec (.csiFrameEnd rx vc cor) s =
          .next ((u.acceptChain (.capture n f.buffer) (s.rdAddr R.CAP_V_CHAIN_LO R.CAP_V_CHAIN_HI [n, f.buffer])).kept s)
        ∧ changesOnly [.free, .regs, .mem, .cap, .sct, .err, .sch] s u ∧ frameRecorded n f 0 1 s u ∧ bufferIs n f.buffer 3 s u)) ∧
  (∀ (s : State) (rx : Fin 4) (vc : Fin 16) (cor : Bool) (n m : Nat) (f : CapFrame), s.receives rx.val → s.vidsOf rx.val vc.val = [n] →
    s.openFrame n cor = some f → s.partner n = some m → f.buffer < 8 → s.recordFits n f.buffer → s.flagsFit n f.buffer →
    s.flagsFit m f.buffer →
    let st := s.frameStatus n f false
    let low := min n m
    let tol := (s.rd R.CAP_V_PAIR_TOL [low]).toNat
    ((s.vid m).pair = none → s.vidOn m = true → ((s.vid m).common = some f.buffer ∨ (s.vid m).frame.map (·.buffer) = some f.buffer) →
      completes (.csiFrameEnd rx vc cor) s [.free, .regs, .mem, .err, .cap, .sct, .sch] fun t => frameRecorded n f st 0 s t
        ∧ (t.vid n).pair = some { buffer := f.buffer, start := f.start, good := st == 0 }
        ∧ bufferIs n f.buffer (if st = 0 then 2 else 0) s t) ∧
    (∀ w, (s.vid m).pair = some w → w.buffer = f.buffer →
      (st = 0 → w.good = true → f.start - w.start ≤ tol → w.start - f.start ≤ tol → s.bit R.CAP_V_CTRL [low] 2 = true →
        s.visFull = false → s.bufState m f.buffer = 2 → ∃ u,
          exec (.csiFrameEnd rx vc cor) s =
              .next ((u.acceptChain (.capture low f.buffer) (s.rdAddr R.CAP_V_CHAIN_LO R.CAP_V_CHAIN_HI [low, f.buffer])).kept s)
            ∧ changesOnly [.free, .regs, .mem, .cap, .sct, .err, .sch] s u ∧ bufferIs n f.buffer 3 s u ∧ bufferIs m f.buffer 3 s u
            ∧ u.le (s.recordAt n f.buffer + 5) 1 = 1 ∧ u.le (s.recordAt m f.buffer + 5) 1 = 1) ∧
      ((st ≠ 0 ∨ w.good = false ∨ tol < f.start - w.start ∨ tol < w.start - f.start) →
        completes (.csiFrameEnd rx vc cor) s [.free, .regs, .mem, .err, .cap, .sct, .sch] fun t => counted R.CAP_V_CNT_PAIRFAIL [low] s t
          ∧ bufferIs n f.buffer 0 s t ∧ bufferIs m f.buffer (if s.bufState m f.buffer = 2 then 0 else s.bufState m f.buffer) s t
          ∧ (t.vid m).pair = none ∧ t.le (s.recordAt n f.buffer + 5) 1 = 4 ∧ t.le (s.recordAt m f.buffer + 5) 1 = 4))) ∧
  (∀ (s : State) (n : Fin 16), s.isUp → (s.rd R.CAP_V_TMO [n.val] = 0 ∨ (s.vid n.val).frame = none) →
    exec (.captureFrameTimeout n) s = .next s) ∧
  (∀ (s : State) (n : Fin 16) (f : CapFrame), s.isLive → s.rd R.CAP_V_TMO [n.val] ≠ 0 → (s.vid n.val).frame = some f →
    s.partner n.val = none → f.buffer < 8 → s.recordFits n.val f.buffer →
    completes (.captureFrameTimeout n) s [.free, .regs, .mem, .err, .cap, .sct, .sch] fun t =>
      frameRecorded n.val f (s.frameStatus n.val f true) 0 s t ∧ bufferIs n.val f.buffer 0 s t ∧ counted R.CAP_V_CNT_BAD [n.val] s t
        ∧ (t.vid n.val).frame = none ∧ (f.header = false → f.crc = false → f.long = false → s.frameStatus n.val f true = 1)) ∧
  (∀ (s : State) (n : Fin 16) (mask : Byte), s.isLive →
    completes (.captureRelease n mask) s [.regs] fun t => sameRegsBut [regAddr R.CAP_V_STATE [n.val]] s t
      ∧ ∀ i, i < 8 → t.bufState n.val i = (if mask.getLsbD i = true ∧ s.bufState n.val i = 2 then 0 else s.bufState n.val i)) ∧
  (∀ (s : State) (n : Fin 16) (v : Word), s.isLive →
    (s.bit R.CAP_V_CTRL [n.val] 0 = false → completes (.captureDisable n v) s [.regs] fun t => t.rd R.CAP_V_CTRL [n.val] = v &&& 0xE
      ∧ sameRegsBut [regAddr R.CAP_V_CTRL [n.val]] s t) ∧
    (s.bit R.CAP_V_CTRL [n.val] 0 = true → (s.vid n.val).frame = none → s.partner n.val = none →
      completes (.captureDisable n v) s [.regs, .cap] fun t => t.rd R.CAP_V_CTRL [n.val] = v &&& 0xE ∧ (t.vid n.val).pair = none
        ∧ ∀ i, i < 8 → t.bufState n.val i = (if s.bufState n.val i = 3 then 3 else 0)) ∧
    (∀ m w, s.bit R.CAP_V_CTRL [n.val] 0 = true → (s.vid n.val).frame = none → s.partner n.val = some m → (s.vid m).pair = some w →
      w.buffer < 8 → s.flagsFit n.val w.buffer → s.flagsFit m w.buffer →
      completes (.captureDisable n v) s [.free, .regs, .mem, .err, .cap, .sct, .sch] fun t => counted R.CAP_V_CNT_PAIRFAIL [min n.val m] s t
        ∧ (t.vid m).pair = none ∧ t.le (s.recordAt n.val w.buffer + 5) 1 = 4 ∧ t.le (s.recordAt m w.buffer + 5) 1 = 4) ∧
    (∀ f, s.bit R.CAP_V_CTRL [n.val] 0 = true → (s.vid n.val).frame = some f → s.partner n.val = none → f.buffer < 8 →
      s.recordFits n.val f.buffer →
      completes (.captureDisable n v) s [.free, .regs, .mem, .err, .cap, .sct, .sch] fun t => t.rd R.CAP_V_CTRL [n.val] = v &&& 0xE
        ∧ frameRecorded n.val f 5 0 s t ∧ (t.vid n.val).frame = none
        ∧ ∀ i, i < 8 → t.bufState n.val i = (if s.bufState n.val i = 3 ∧ i ≠ f.buffer then 3 else 0)))

/-- R248, R249: a frame's channels join the period of each stream of the port; the last frame of a period writes it into the ring,
or counts a gap where the ring is full; a port that was lost takes two frames before its streams go on. A resynchronisation is counted
and marks the periods, and a lost frame sync is told. A read number that would leave more than the ring holds is ignored. R247: an FSYNC
output reads its schedule when it is enabled and steps along it. R250: an I²C command is sent or refused, and ends with its result and
data. -/
def Obligations.CaptureTakesSoundAndPins : Prop :=
  (∀ (s : State) (p : Fin 2) (slots : List Word) (c : Instr), s.isUp → s.bit R.CAP_AP_CFG [p.val] 0 = false →
    c ∈ [.tdmFrame p slots, .tdmResync p, .tdmFsLost p] → exec c s = .next s) ∧
  (∀ (s : State) (p : Fin 2) (slots : List Word) (a : Nat), s.isLive → s.bit R.CAP_AP_CFG [p.val] 0 = true →
    s.bit R.CAP_AP_STATUS [p.val] 1 = false → s.audsOf p.val = [a] →
    let first := s.fld R.CAP_A_ROUTE [a] 5 1
    let count := s.fld R.CAP_A_ROUTE [a] 10 6 + 1
    let wide := s.bit R.CAP_A_CTRL [a] 1
    let samples := (s.aud a).samples ++
      ((rangeFrom first count).map fun k => sampleBytes (s.slotBits p.val) wide (slots.getD k 0)).flatten
    let started := if (s.aud a).frames = 0 then s.now else (s.aud a).first
    let seq := s.rd R.CAP_A_WR [a]
    let nper := s.fld R.CAP_A_NPER [a] 8 0
    let full := nper ≤ (seq - s.rd R.CAP_A_RD [a]).toNat
    let at_ := s.rdAddr R.CAP_A_RING_LO R.CAP_A_RING_HI [a]
      + (seq.toNat % nper) * roundUp (16 + s.fld R.CAP_A_PERIOD [a] 12 0 * count * (if wide then 4 else 2)) 256
    first + count ≤ slots.length →
    ((s.aud a).frames + 1 < s.fld R.CAP_A_PERIOD [a] 12 0 → completes (.tdmFrame p slots) s [.regs, .cap] fun t =>
      t.aud a = { s.aud a with samples := samples, frames := (s.aud a).frames + 1, first := started }
        ∧ t.bit R.CAP_AP_STATUS [p.val] 0 = true ∧ t.rd R.CAP_A_WR [a] = seq) ∧
    (s.fld R.CAP_A_PERIOD [a] 12 0 ≤ (s.aud a).frames + 1 → 0 < nper → ¬full →
      s.accessOk (s.fld R.CAP_A_ROUTE [a] 16 11) at_ (16 + samples.length) true = true → s.writeError at_ (16 + samples.length) = none →
      completes (.tdmFrame p slots) s [.free, .regs, .mem, .cap, .sct, .err, .sch] fun t => t.rd R.CAP_A_WR [a] = seq + 1 ∧ t.aud a = AudioStream.reset
        ∧ t.le at_ 4 = seq.toNat ∧ t.le (at_ + 4) 1 = b2n (s.aud a).gap + 2 * b2n (s.aud a).resync ∧ t.le (at_ + 5) 1 = count
        ∧ t.le (at_ + 6) 2 = ((s.aud a).frames + 1) % 2 ^ 16 ∧ t.le (at_ + 8) 8 = started % 2 ^ 64
        ∧ (∀ k, k < samples.length → t.byte (at_ + 16 + k) = samples.getD k 0) ∧ sameMemBut at_ (16 + samples.length) s t) ∧
    (s.fld R.CAP_A_PERIOD [a] 12 0 ≤ (s.aud a).frames + 1 → full →
      completes (.tdmFrame p slots) s [.free, .regs, .cap, .sct] fun t => t.rd R.CAP_A_WR [a] = seq + 1
        ∧ counted R.CAP_A_CNT_GAP [a] s t ∧ t.aud a = { AudioStream.reset with gap := true })) ∧
  (∀ (s : State) (p : Fin 2) (slots : List Word), s.isLive → s.bit R.CAP_AP_CFG [p.val] 0 = true → s.bit R.CAP_AP_STATUS [p.val] 1 = true →
    ((s.tdm p.val).good = 0 → completes (.tdmFrame p slots) s [.regs, .cap] fun t => (t.tdm p.val).good = 1
      ∧ t.bit R.CAP_AP_STATUS [p.val] 1 = true ∧ ∀ a, t.aud a = s.aud a) ∧
    ((s.tdm p.val).good ≠ 0 → completes (.tdmFrame p slots) s [.regs, .cap] fun t => t.bit R.CAP_AP_STATUS [p.val] 1 = false
      ∧ t.bit R.CAP_AP_STATUS [p.val] 0 = true ∧ ∀ a ∈ s.audsOf p.val, t.aud a = { s.aud a with gap := true })) ∧
  (∀ (s : State) (p : Fin 2), s.isLive → s.bit R.CAP_AP_CFG [p.val] 0 = true →
    (completes (.tdmResync p) s [.regs, .cap] fun t => counted R.CAP_AP_CNT_RESYNC [p.val] s t ∧ t.bit R.CAP_AP_STATUS [p.val] 0 = false
      ∧ ∀ a, t.aud a = (if a ∈ s.audsOf p.val then { s.aud a with resync := true } else s.aud a)) ∧
    (s.bit R.CAP_AP_STATUS [p.val] 1 = false → completes (.tdmFsLost p) s [.free, .regs, .cap, .sct] fun t =>
      t.bit R.CAP_AP_STATUS [p.val] 1 = true ∧ t.bit R.CAP_AP_STATUS [p.val] 0 = false ∧ (t.tdm p.val).good = 0
        ∧ ∀ a, t.aud a = s.aud a) ∧
    (s.bit R.CAP_AP_STATUS [p.val] 1 = true → exec (.tdmFsLost p) s = .next s)) ∧
  (∀ (s : State) (a : Fin 8) (v : Word), s.isLive →
    ((s.rd R.CAP_A_WR [a.val] - v).toNat ≤ s.fld R.CAP_A_NPER [a.val] 8 0 → completes (.audioRdWrite a v) s [.regs] fun t =>
      t.rd R.CAP_A_RD [a.val] = v ∧ sameRegsBut [regAddr R.CAP_A_RD [a.val]] s t) ∧
    (s.fld R.CAP_A_NPER [a.val] 8 0 < (s.rd R.CAP_A_WR [a.val] - v).toNat → exec (.audioRdWrite a v) s = .next s)) ∧
  (∀ (s : State) (k : Fin 4) (v : Word), s.isLive →
    let start := s.rd64 R.CAP_FS_START_LO R.CAP_FS_START_HI [k.val]
    let period := (s.rd R.CAP_FS_PERIOD [k.val]).toNat
    let width := (s.rd R.CAP_FS_WIDTH [k.val]).toNat
    let good := 100000 ≤ period ∧ period ≤ 1000000000 ∧ 100 ≤ width ∧ width + 100 ≤ period
    (s.bit R.CAP_FS_CTRL [k.val] 0 = true → completes (.fsyncEnable k v) s [.regs] fun t =>
      t.rd R.CAP_FS_CTRL [k.val] = (v &&& 2) ||| 1 ∧ sameRegsBut [regAddr R.CAP_FS_CTRL [k.val]] s t) ∧
    (s.bit R.CAP_FS_CTRL [k.val] 0 = false → completes (.fsyncEnable k v) s [.regs, .cap] fun t =>
      t.rd R.CAP_FS_CTRL [k.val] = (v &&& 2) ||| 1
        ∧ t.fs k.val = { s.fs k.val with running := decide good, start := start, period := period, width := width }
        ∧ (good → s.now ≤ start → t.fsNext k.val = start)
        ∧ (good → start < s.now → ∃ j, t.fsNext k.val = (start + j * period) % 2 ^ 64 ∧ s.now < start + j * period
            ∧ start + j * period ≤ s.now + period)) ∧
    ((s.fs k.val).running = true → completes (.fsyncEdge k) s [.regs, .cap] fun t => t.fsNext k.val = (s.fsNext k.val + (s.fs k.val).period) % 2 ^ 64
      ∧ t.fs k.val = { s.fs k.val with pulses := (s.fs k.val).pulses + 1, lastEdge := s.fsNext k.val }) ∧
    ((s.fs k.val).running = false → exec (.fsyncEdge k) s = .next s)) ∧
  (∀ (s : State) (c : Fin 4) (v : Word), s.isLive →
    let idle := s.bit R.I2C_CTRL [c.val] 0 = true ∧ vecGet s.cap.i2c c.val none = none
    let wlen := min 16 (bits v 12 8)
    let allowed := s.sealed = false ∨ ∃ e, s.i2cAllow c.val (bits v 6 0) = some e ∧ (wlen = 0 ∨ s.bit R.I2C_ALLOW [c.val, e] 7 = true)
    let cmd := regAddr R.I2C_CMD [c.val]
    let status := regAddr R.I2C_STATUS [c.val]
    (¬idle → completes (.i2cCommand c v) s [.regs] fun t => t.rd R.I2C_CMD [c.val] = v &&& 0x3F1F7F ∧ sameRegsBut [cmd] s t) ∧
    (idle → allowed → completes (.i2cCommand c v) s [.regs, .cap] fun t => t.rd R.I2C_CMD [c.val] = v &&& 0x3F1F7F
      ∧ t.rd R.I2C_STATUS [c.val] = 1 ∧ sameRegsBut [cmd, status] s t
      ∧ vecGet t.cap.i2c c.val none = some { addr := bits v 6 0, wlen := wlen, rlen := min 32 (bits v 21 16), data := s.i2cBytes c.val wlen }) ∧
    (idle → ¬allowed → completes (.i2cCommand c v) s [.regs, .cap] fun t => t.rd R.I2C_STATUS [c.val] = 10
      ∧ counted R.I2C_CNT_REFUSED [c.val] s t ∧ vecGet t.cap.i2c c.val none = none)) ∧
  (∀ (s : State) (c : Fin 4) (result : Fin 5) (data : List Byte), s.isUp →
    (vecGet s.cap.i2c c.val none = none → exec (.i2cCommandEnd c result data) s = .next s) ∧
    (∀ r, s.isLive → vecGet s.cap.i2c c.val none = some r → r.rlen ≤ 32 →
      completes (.i2cCommandEnd c result data) s [.regs, .cap] fun t => t.rd R.I2C_STATUS [c.val] = BitVec.ofNat 32 (2 * result.val)
        ∧ vecGet t.cap.i2c c.val none = none ∧ (result.val ≠ 0 → counted R.I2C_CNT_ERR [c.val] s t)
        ∧ (result.val = 0 → ∀ i, i < min r.rlen data.length →
            t.fld R.I2C_DATA [c.val, i / 4] (8 * (i % 4) + 7) (8 * (i % 4)) = (data.getD i 0).toNat)))

/-- R256: enabling a queue with a valid descriptor makes it an enabled queue with zero counts, enabling an enabled one is refused
with code 4, and disabling a queue with nothing to finish removes it. R257: a doorbell reads the new entries, and one for a queue
that is not enabled is rejected and counted. R258: the consumer count of a `cq_only` queue is taken. -/
def Obligations.QueuesAndDoorbells : Prop :=
  (∀ (s : State) (c : Fin 64) (v : Word), s.isLive → bits v 9 8 = 1 → s.ctxValid c.val = true → s.ctxDown c.val = false →
    s.queue (256 * c.val + bits v 7 0) = none →
    let bs := s.bytes (s.rdAddr R.SCH_CTX_QTAB_LO R.SCH_CTX_QTAB_HI [c.val] + 32 * bits v 7 0) 32
    let d := decodeQDesc bs
    qdescGood bs = true → s.regionOk c.val d.subBase (64 * d.size) false = true →
    s.regionOk c.val d.cplBase (32 * d.size) true = true → s.prioAllowed (s.ctxPart c.val) d.prio = true →
    completes (.queueEnable c v) s [.sch] fun t => t.sch = { s.sch with queues := t.sch.queues }
      ∧ t.queue (256 * c.val + bits v 7 0) = some
          { ident := 256 * c.val + bits v 7 0, desc := d, pLast := 0, posted := 0, consumer := 0, disabling := false,
            rung := [], ended := [], statuses := [] }
      ∧ ∀ q, q ≠ 256 * c.val + bits v 7 0 → t.queue q = s.queue q) ∧
  (∀ (s : State) (c : Fin 64) (v : Word), s.isLive → bits v 9 8 = 1 → s.ctxValid c.val = true → s.ctxDown c.val = false →
    (s.queue (256 * c.val + bits v 7 0)).isSome = true →
    completes (.queueEnable c v) s [.regs] fun t => sameRegsBut [regAddr R.SCH_CTX_QERR [c.val]] s t
      ∧ t.rd R.SCH_CTX_QERR [c.val] = BitVec.ofNat 32 (bits v 7 0 + 256 * 4)) ∧
  (∀ (s : State) (c : Fin 64) (v : Word) (x : Queue), s.isLive → bits v 9 8 = 2 → s.queue (256 * c.val + bits v 7 0) = some x →
    x.rung = [] → x.ended = [] → (∀ t ∈ s.sch.tasks, t.qid ≠ 256 * c.val + bits v 7 0) →
    (∀ m ∈ s.sch.models, m.loading = none) →
    completes (.queueDisable c v) s [.sch] fun t => t.queue (256 * c.val + bits v 7 0) = none
      ∧ ∀ q, q ≠ 256 * c.val + bits v 7 0 → (t.queue q).isSome = (s.queue q).isSome) ∧
  (∀ (s : State) (q : Fin 16384) (count : Word) (x : Queue), s.isLive → s.partResetting (s.ctxPart (q.val / 256)) = false →
    s.ctxDown (q.val / 256) = false → s.queue q.val = some x → x.desc.cqOnly = false → x.disabling = false → count ≠ x.pLast →
    after32 count x.pLast = true → (count - x.posted).toNat ≤ x.desc.size →
    completes (.doorbell q count) s [.sch] fun t => t.sch = { s.sch with queues := t.sch.queues }
      ∧ ∃ y, t.queue q.val = some y ∧ y = { x with pLast := count, rung := y.rung }
          ∧ y.rung.take x.rung.length = x.rung ∧ y.rung.length = x.rung.length + (count - x.pLast).toNat) ∧
  (∀ (s : State) (q : Fin 16384) (count : Word), s.isLive → s.partResetting (s.ctxPart (q.val / 256)) = false →
    s.ctxDown (q.val / 256) = false → s.queue q.val = none →
    completes (.doorbell q count) s [.free, .regs, .sct] fun t => counted R.SCH_CTX_CNT_DBREJ [q.val / 256] s t
      ∧ sameRegsBut ([regAddr R.SCH_CTX_CNT_DBREJ [q.val / 256], regAddr R.SCH_CTX_CNT_OVF [q.val / 256]] ++ eventRegs) s t) ∧
  (∀ (s : State) (q : Fin 16384) (count : Word) (x : Queue), s.isLive → s.ctxDown (q.val / 256) = false →
    s.queue q.val = some x → x.desc.cqOnly = true → x.disabling = false → x.ended = [] →
    completes (.cqConsumerDoorbell q count) s [.sch] fun t => t.sch = { s.sch with queues := t.sch.queues }
      ∧ t.queue q.val = some { x with consumer := count })

/-- R260: a ready op 0x01 entry becomes a task, and a ready marker completes with 0x00. R263: an entry with a failed dependency
completes with 0x01. R262: the completion record goes to the queue's next record. Entries come to a queue that R256 enables with its
descriptor and R257 rings; its consumer count is taken (R258), and disabling leaves nothing that was rung and not started (R256). -/
def Obligations.EntriesAreTaken : Prop :=
  (∀ (s : State) (q : Fin 16384) (x : Queue) (e : Entry), s.isLive → s.headReady q.val 1 x e →
    completes (.entryTask q) s [.sch] fun t => t.queue q.val = some { x with rung := x.rung.drop 1 }
      ∧ ∃ u, t.sch.tasks = s.sch.tasks ++ [u] ∧ u.qid = q.val ∧ u.entry = e ∧ u.ctx = q.val / 256
          ∧ u.part = s.queuePart q.val ∧ u.prio = x.desc.prio ∧ u.eff = x.desc.prio ∧ u.started = false) ∧
  (∀ (s : State) (q : Fin 16384) (x : Queue) (e : Entry), s.isLive → s.headReady q.val 6 x e → s.inTurn x e.seq →
    completes (.entryMarker q) s [.mem, .err, .sch] fun t => recordPosted q.val x e 0 s t ∧ t.sch.tasks = s.sch.tasks) ∧
  (∀ (s : State) (q : Fin 16384) (x : Queue) (e : Entry), s.isLive → s.queue q.val = some x → x.rung.head? = some e →
    (∀ t ∈ s.sch.tasks, t.qid = q.val → t.started = true) → e.unreadable = none → e.depBad = false →
    (∃ d ∈ e.deps, s.depState d = .failed) → s.inTurn x e.seq → s.notOfSyn q.val e.seq →
    completes (.dependencyCancel q) s [.regs, .mem, .err, .syn, .sch] fun t => recordPosted q.val x e 1 s t) ∧
  (∀ (s : State) (c : Fin 64) (v : Word), s.isLive → bits v 9 8 = 1 → s.ctxValid c.val = true → s.ctxDown c.val = false →
    s.queue (256 * c.val + bits v 7 0) = none →
    let bs := s.bytes (s.rdAddr R.SCH_CTX_QTAB_LO R.SCH_CTX_QTAB_HI [c.val] + 32 * bits v 7 0) 32
    let d := decodeQDesc bs
    qdescGood bs = true → s.regionOk c.val d.subBase (64 * d.size) false = true →
    s.regionOk c.val d.cplBase (32 * d.size) true = true → s.prioAllowed (s.ctxPart c.val) d.prio = true →
    ∃ t x, exec (.queueEnable c v) s = .next t ∧ t.queue (256 * c.val + bits v 7 0) = some x ∧ x.desc = d ∧ x.rung = []
      ∧ x.disabling = false) ∧
  (∀ (s : State) (c : Fin 64) (v : Word) (x : Queue), s.isLive → bits v 9 8 = 2 → s.queue (256 * c.val + bits v 7 0) = some x →
    ∃ t, exec (.queueDisable c v) s = .next t
      ∧ ∀ y, t.queue (256 * c.val + bits v 7 0) = some y → y.desc = x.desc ∧ y.disabling = true ∧ y.rung = []) ∧
  (∀ (s : State) (q : Fin 16384) (count : Word) (x : Queue), s.isLive → s.ctxDown (q.val / 256) = false →
    s.queue q.val = some x → x.desc.cqOnly = false → x.disabling = false → count ≠ x.pLast →
    after32 count x.pLast = true → (count - x.posted).toNat ≤ x.desc.size →
    ∃ t y, exec (.doorbell q count) s = .next t ∧ t.queue q.val = some y ∧ y.pLast = count
      ∧ y.rung.length = x.rung.length + (count - x.pLast).toNat) ∧
  (∀ (s : State) (q : Fin 16384) (count : Word) (x : Queue), s.isLive → s.ctxDown (q.val / 256) = false →
    s.queue q.val = some x → x.desc.cqOnly = true → x.disabling = false →
    ∃ t y, exec (.cqConsumerDoorbell q count) s = .next t ∧ t.queue q.val = some y ∧ y.consumer = count)


/-- R277: a ready load whose record, room and sources are good begins to copy its model; its last segment makes the model resident
and completes the entry with 0x00. R278: a pin, an unpin and a drop of a known model do so and complete with 0x00, an unknown handle
with 0x10; R75: the unpin of a model that an enabled output names waits. R279: a reload that ends leaves the model resident. -/
def Obligations.CoolBoxKeepsModels : Prop :=
  (∀ (s : State) (q : Fin 16384) (x : Queue) (e : Entry) (m : Model) (pin : Bool), s.isLive → s.headReady q.val 2 x e →
    (s.readLoadRecord (q.val / 256) e.launch).toOption = some (m, pin) → s.model m.part m.handle = none →
    s.coolExceeds m = false → (s.sourcesReadable m).toOption = some () → s.coolFits m = true →
    completes (.coolBoxLoad q) s [.sch] fun t => t.queue q.val = some { x with rung := x.rung.drop 1 }
      ∧ ∃ y, t.model m.part m.handle = some y ∧ y.loading = some (q.val, e) ∧ y.pinned = pin ∧ y.segments = m.segments
          ∧ y.resident = false) ∧
  (∀ (s : State) (p : Fin 16) (h : BitVec 16) (m : Model) (q : Nat) (e : Entry) (x : Queue), s.isLive → s.parked p.val = false →
    s.model p.val h.toNat = some m → m.loading = some (q, e) → s.queue q = some x → s.inTurn x e.seq →
    completes (.coolBoxLoadEnd p h) s [.free, .regs, .mem, .sct, .err, .sch] fun t =>
      t.model p.val h.toNat = some { m with loading := none, resident := true } ∧ (m.segments = [] → recordPosted q x e 0 s t)
      ∧ (∃ y, t.queue q = some y ∧ y.posted = x.posted + 1 ∧ y.ended = [] ∧ y.statuses.head? = some (e.seq, 0))
      ∧ s.segmentCopied m (fun a n => a + n ≤ x.recordAt ∨ x.recordAt + 32 ≤ a) t) ∧
  (∀ (s : State) (q : Fin 16384) (x : Queue) (e : Entry) (m : Model), s.isLive → s.headReady q.val 3 x e → s.inTurn x e.seq →
    s.model (s.queuePart q.val) (e.launch % 65536) = some m →
    completes (.coolBoxPin q) s [.mem, .err, .sch] fun t => recordPosted q.val x e 0 s t
      ∧ t.model (s.queuePart q.val) (e.launch % 65536) = some { m with pinned := true, unpinDeferred := false }) ∧
  (∀ (s : State) (q : Fin 16384) (x : Queue) (e : Entry) (m : Model), s.isLive → s.headReady q.val 4 x e → s.inTurn x e.seq →
    s.model (s.queuePart q.val) (e.launch % 65536) = some m →
    completes (.coolBoxUnpin q) s [.mem, .err, .sch] fun t => recordPosted q.val x e 0 s t
      ∧ t.model (s.queuePart q.val) (e.launch % 65536) = some
          (if s.outputNames m then { m with unpinDeferred := true } else { m with pinned := false })) ∧
  (∀ (s : State) (q : Fin 16384) (x : Queue) (e : Entry) (m : Model), s.isLive → s.headReady q.val 5 x e → s.inTurn x e.seq →
    s.model (s.queuePart q.val) (e.launch % 65536) = some m → s.modelInUse m = false →
    completes (.coolBoxDrop q) s [.mem, .err, .sch] fun t => recordPosted q.val x e 0 s t
      ∧ t.model (s.queuePart q.val) (e.launch % 65536) = none) ∧
  (∀ (s : State) (q : Fin 16384) (x : Queue) (e : Entry) (c : Instr) (op : Nat), s.isLive →
    (c, op) ∈ [(Instr.coolBoxPin q, 3), (Instr.coolBoxUnpin q, 4), (Instr.coolBoxDrop q, 5)] → s.headReady q.val op x e →
    s.inTurn x e.seq → s.model (s.queuePart q.val) (e.launch % 65536) = none →
    completes c s [.mem, .err, .sch] fun t => recordPosted q.val x e 0x10 s t ∧ t.sch.models = s.sch.models) ∧
  (∀ (s : State) (p : Fin 16) (h : BitVec 16) (m : Model), s.isLive → s.parked p.val = false → s.model p.val h.toNat = some m →
    m.reloading = true →
    completes (.modelReloadEnd p h) s [.free, .regs, .mem, .sct, .err, .sch] fun t => t.model p.val h.toNat = some
        { m with reloading := false, resident := true, lastUse := s.sch.uses + 1 }
      ∧ s.segmentCopied m (fun _ _ => True) t ∧ (m.segments = [] → ∀ a, t.byte a = s.byte a))

/-- R265, R100: a core switches to the slot chosen, and idles when there is none; at the end of a quantum the next slot of equal rank
runs, and with a quantum of 0 none does; a slot that waits yields. R264, R266: the first competitor of a partition takes a free slot
and is started. R112: the next group of a task goes to a slot; the group of an engine-only task ends when its program returns. -/
def Obligations.SlotsAndGroups : Prop :=
  (∀ (s : State) (c : CoreName) (x : Slot), s.isLive → s.numbered → s.physOf (coreId c) < 17 → s.chooseSlot (coreId c) = some x →
    s.slotAt (coreId c) x.idx = some x → x.quietUnits →
    completes (.slotSwitch c) s [.regs, .mem, .err, .sch, .dbg] fun t => t.coreRuns (coreId c) = some x.idx
      ∧ sameSlotsButDma s t ∧ t.sch.queues = s.sch.queues) ∧
  (∀ (s : State) (c : CoreName), s.isLive → s.numbered → s.physOf (coreId c) < 17 → s.chooseSlot (coreId c) = none →
    completes (.slotSwitch c) s [.regs, .sch] fun t => t.coreRuns (coreId c) = none ∧ sameSlotsButDma s t) ∧
  (∀ (s : State) (c : CoreName) (i : Nat) (x y : Slot) (u : Task), s.isLive → s.numbered → s.physOf (coreId c) < 17 →
    s.coreRuns (coreId c) = some i → s.slotAt (coreId c) i = some x → s.slotTask x = some u → s.fld R.SCH_QUANTUM [] 15 0 ≠ 0 →
    u.entry.dlValid = false →
    leastBy (fun x : Slot => [(x.idx + 3 - i) % 4]) ((s.rotation (coreId c) u).filter fun x => x.idx != i) = some y →
    s.slotAt (coreId c) y.idx = some y → y.quietUnits →
    completes (.quantumExpiry c) s [.regs, .mem, .err, .sch, .dbg] fun t => t.coreRuns (coreId c) = some y.idx
      ∧ sameSlotsButDma s t) ∧
  (∀ (s : State) (c : CoreName), s.isLive → s.fld R.SCH_QUANTUM [] 15 0 = 0 → exec (.quantumExpiry c) s = .next s) ∧
  (∀ (s : State) (n : SlotName) (x : Slot), s.isLive → s.slotAt (coreId n.at_) n.slot.val = some x → x.phase = .live →
    x.wait.any (·.1.yields) = true →
    (∀ y ∈ s.sch.slots, y.core = coreId n.at_ → y.idx ≠ n.slot.val → y.quietUnits) →
    completes (.waitYield n) s [.regs, .mem, .err, .sch, .dbg] fun t =>
      t.slotAt (coreId n.at_) n.slot.val = some { x with yielded := true }) ∧
  (∀ (s : State) (p : Fin 16) (b : TaskStart) (k u : Task) (rest : List Task) (c i : Nat) (more : List (Nat × Nat)), s.isLive →
    s.dispatchOn p.val = true → s.isStatic p.val = false →
    sortBy s.taskRank (s.sch.tasks.filter fun t => t.part == p && s.competes t) = k :: rest → k.started = false →
    (s.prepare k).toOption = some u → u.entry.handle = 0 → u.width = 1 → s.heldCount k = 0 → s.freeSlotsFor u = (c, i) :: more →
    s.slotFault c i = false → u.launch.reload = false →
    (s.sch.code.any fun h => h.site == s.siteAt c && h.idx == i && h.code == u.launch.code && h.size == u.launch.codeSize) = true →
    let r := (s.markStarted { u with awaitsModel := false }).takeSlots u.qid u.entry.seq (s.freeSlotsFor u)
    (r.startWrites u.ctx b).toOption.isSome = true →
    completes (.taskDispatch ⟨p, b⟩) s [.regs, .mem, .boxes, .err, .sch, .dbg] fun t => (r.startWrites u.ctx b).toOption = some t
      ∧ (∃ y, t.task k.qid k.entry.seq = some y ∧ y.started = true ∧ y.launch = u.launch)
      ∧ ∃ x, t.slotAt c i = some x ∧ x.qid = k.qid ∧ x.seq = k.entry.seq ∧ x.phase = .live ∧ x.wait = none) ∧
  (∀ (s : State) (q : Fin 16384) (seq : Word) (returned : List SlotName) (u : Task) (x : Slot), s.isLive →
    let r := s.groupsReturned q.val seq returned
    r.task q.val seq = some u → u.started = true → u.nextGroup < u.launch.groups → r.groupSlot u = some x →
    completes (.groupDispatch ⟨q, seq⟩ returned) s [.sch] fun t => t.task q.val seq = some { u with nextGroup := u.nextGroup + 1 }
      ∧ ∃ y, t.slotAt x.core x.idx = some y ∧ y.qid = x.qid ∧ y.seq = x.seq ∧ ∃ g ∈ y.image.groups, g.index = u.nextGroup) ∧
  (∀ (s : State) (q : Fin 16384) (seq : Word) (n : SlotName) (u : Task) (x : Slot), s.isLive → s.slotNamed n = some x →
    s.task q.val seq = some u → u.holds x.qid x.seq = true → u.launch.groupSize = 0 → x.image.groups ≠ [] →
    u.launch.groups ≤ u.nextGroup →
    completes (.groupDispatch ⟨q, seq⟩ [n]) s [.sch] fun t => t.task q.val seq = some { u with groupsEnded := u.groupsEnded + 1 }
      ∧ t.slotAt (coreId n.at_) n.slot.val = some { x with image := { x.image with groups := [] } })

/-- R113: a started task ends: it leaves the task list, its slots and its lay-by records, and its record is posted, with 0x00 only
when its work is done. R261: a task with `dl_abort` ends with 0x14 at its deadline. A task with a timeout ends with 0x12. Here for
a task without box calls or passes and a status that does not tear its context down. R149–R151: a step of a layer ends, and its task goes
on, runs the layer again, fails once its slice is done, or ends, as the mismatch policy says. -/
def Obligations.TasksEnd : Prop :=
  (∀ (s : State) (q : Fin 16384) (seq : Word) (u : Task) (x : Queue) (st : Byte) (c : Instr), s.isLive → s.task q.val seq = some u →
    u.started = true → s.queue q.val = some x → s.inTurn x seq → s.boxes = [] → s.passes = [] → s.notOfSyn q.val seq →
    u.render = none → tearsDown (u.endStatus st.toNat) = false →
    (c = .taskComplete q seq st ∧ statusCodes.contains st.toNat = true ∧ (st = 0 → s.taskDone u = true)
      ∨ c = .deadlineAbort q seq ∧ st = 0x14 ∧ u.entry.dlValid = true ∧ u.entry.dlAbort = true
      ∨ c = .taskTimeout q seq ∧ st = 0x12 ∧ u.launch.timeout ≠ 0
        ∧ ∀ l, u.token = some l → l.finished.isSome = true ∨ s.bit R.SCT_RES_CFG [u.ctx] 0 = false) →
    ∃ t, exec c s = .next t ∧ t.pending = s.pending ∧ t.dev = s.dev ∧ t.img = s.img ∧ t.tim = s.tim ∧ t.task q.val seq = none
      ∧ (∀ y ∈ t.sch.slots, ¬(y.qid = q.val ∧ y.seq = seq)) ∧ (∀ l ∈ t.sch.layby, ¬(l.slot.qid = q.val ∧ l.slot.seq = seq))
      ∧ ∃ y, t.queue q.val = some y ∧ y.posted = x.posted + 1 ∧ y.statuses.head? = some (seq, u.endStatus st.toNat)) ∧
  (∀ (s : State) (q : Fin 16384) (seq : Word) (m : BitVec 48) (copies : List (BitVec 48)) (t : Task) (rec : List Byte)
    (cs : List (List Byte)), s.isLive → s.task q.val seq = some t → t.started = true → t.forced = none →
    (s.tryRead t.ctx m.toNat 128).toOption = some rec → (s.readRecords t.ctx (copies.map (·.toNat))).toOption = some cs →
    (∀ a ∈ m :: copies, s.accessOk t.ctx a.toNat 128 true = true ∧ s.writeError a.toNat 128 = none) →
    ∃ u, exec (.layerStepEnd q seq m copies) s = .next u ∧
      match (stepPolicy (mergeRecords (if t.replays.contains m.toNat then rec else startStep rec) cs)
        (t.replays.contains m.toNat) t.entry.dlValid).2 with
      | .kept => ∃ v, u.task q.val seq = some v ∧ v = { t with replays := v.replays, stepBefore := v.stepBefore }
          ∧ v.replays.contains m.toNat = false
      | .replay => ∃ v, u.task q.val seq = some v ∧ v = { t with replays := v.replays, stepBefore := v.stepBefore }
          ∧ v.replays.contains m.toNat = true
      | .failed => u.task q.val seq = if (s.sliceTag t).isSome then some { t with forced := some 0x15 } else none
      | .aborted => u.task q.val seq = none)


/-- R271, R272: a task that ends with a context-fault status raises one contained error and tears its context down; the entries rung
on its queue are gone. A restart clears `torn_down`, and leaves every queue of the context disabled. Here for a task alone in its
context, without box calls, passes or semaphores. -/
def Obligations.ContextTeardownAndRestart : Prop :=
  (∀ (s : State) (q : Fin 16384) (seq : Word) (u : Task) (x : Queue) (st : Byte), s.isLive → s.task q.val seq = some u →
    u.started = true → s.sch.tasks = [u] → u.ctx = q.val / 256 → s.ctxDown u.ctx = false → s.queue q.val = some x →
    s.inTurn x seq → s.boxes = [] → s.passes = [] → (∀ o, o < 4 → (s.out o).work = none) → s.sch.sems = [] → u.render = none →
    s.numbered → s.brg.rambler.donor = none → (st = 0x10 ∨ st = 0x13 ∨ st = 0x16) →
    ∃ t, exec (.taskComplete q seq st) s = .next t ∧ t.pending = s.pending ∧ t.dev = s.dev ∧ t.ctxDown u.ctx = true
      ∧ t.sch.tasks = [] ∧ (∀ y, t.queue q.val = some y → y.rung = [])
      ∧ counted R.ERR_CNT_CONT [] s t) ∧
  (∀ (s : State) (c : Fin 64), s.isLive → s.ctxDown c.val = true →
    completes (.ctxRestart c) s [.regs, .sch] fun t => sameRegsBut [regAddr R.SCH_CTX_STATUS [c.val]] s t ∧ t.ctxDown c.val = false
      ∧ (∀ q, q / 256 = c.val → t.queue q = none) ∧ ∀ q, q / 256 ≠ c.val → (t.queue q).isSome = (s.queue q).isSome) ∧
  (∀ (s : State) (c : Fin 64), s.isLive → s.ctxDown c.val = false → exec (.ctxRestart c) s = .next s)

/-- R125: an iteration writes its token record at the ring's next entry and the ring's count moves on; with a full ring the loop
stalls. R126: the end of an iteration with its record written starts the next one; one without, or with a cancel, leaves the last
record, with reason 3 after a cancel and 5 otherwise; a cancel reaches the loops of the queues that it names; with a full ring a
timeout waits. R381: a slot counter that a program reads is a free value. R388: a marker goes to a trace ring that takes markers,
and to none otherwise. -/
def Obligations.TokenLoops : Prop :=
  (∀ (s : State) (q : Fin 16384) (seq token : Word) (reason : Fin 6) (u : Task) (l : TokenLoop) (r : Nat), s.isLive →
    s.numbered → s.task q.val seq = some u → u.started = true → u.token = some l → l.written = false → l.finished = none →
    s.resultRoom u.ctx = true →
    r = (if reason = 1 then 1 else if l.cancel then 3 else if reason = 5 then 5
      else if l.index + 1 = u.launch.maxTokens then 2 else 0) →
    let a := s.rdAddr R.SCT_RES_LO R.SCT_RES_HI [u.ctx]
      + 16 * ((s.rd R.SCT_RES_WR [u.ctx]).toNat % 2 ^ s.fld R.SCT_RES_CFG [u.ctx] 5 1)
    s.accessOk u.ctx a 16 true = true → s.writeError a 16 = none →
    completes (.tokenRecordWrite q seq token reason) s [.regs, .mem, .err, .sct, .sch] fun t =>
      t.rd R.SCT_RES_WR [u.ctx] = s.rd R.SCT_RES_WR [u.ctx] + 1 ∧ t.bytes a 16 = tokenRecord l token (r != 0) r
      ∧ sameMemBut a 16 s t ∧ t.task q.val seq = some { u with token := some { l with
          written := true, stalled := none, finished := if r = 0 then none else some r } }) ∧
  (∀ (s : State) (q : Fin 16384) (seq token : Word) (reason : Fin 6) (u : Task) (l : TokenLoop) (c : Instr), s.isLive →
    s.task q.val seq = some u → u.started = true → u.token = some l → l.finished = none → s.resultRoom u.ctx = false →
    (c = .tokenRecordWrite q seq token reason ∧ l.written = false
      ∨ c = .tokenIterationEnd q seq ∧ (l.written = false ∨ l.cancel = true)) →
    completes c s [.sch] fun t =>
      t.task q.val seq = some { u with token := some { l with stalled := some (l.stalled.getD s.now) } }) ∧
  (∀ (s : State) (q : Fin 16384) (seq : Word) (u : Task) (l : TokenLoop), s.isLive → s.task q.val seq = some u →
    u.started = true → u.token = some l → l.finished = none → u.launch.timeout ≠ 0 → s.resultRoom u.ctx = false →
    s.bit R.SCT_RES_CFG [u.ctx] 0 = true →
    completes (.taskTimeout q seq) s [.sch] fun t =>
      t.task q.val seq = some { u with token := some { l with timedOut := true, stalled := some (l.stalled.getD s.now) } }) ∧
  (∀ (s : State) (q : Fin 16384) (seq : Word) (u : Task) (l : TokenLoop), s.isLive → s.task q.val seq = some u →
    u.started = true → u.token = some l → l.written = true → l.cancel = false → l.finished = none →
    completes (.tokenIterationEnd q seq) s [.sch] fun t => t.task q.val seq = some { u with
      timerStart := s.now, token := some { l with written := false, index := l.index + 1 } }) ∧
  (∀ (s : State) (q : Fin 16384) (seq : Word) (u : Task) (l : TokenLoop), s.isLive → s.numbered → s.task q.val seq = some u →
    u.started = true → u.token = some l → (l.written = false ∨ l.cancel = true) → l.finished = none → s.resultRoom u.ctx = true →
    let a := s.rdAddr R.SCT_RES_LO R.SCT_RES_HI [u.ctx]
      + 16 * ((s.rd R.SCT_RES_WR [u.ctx]).toNat % 2 ^ s.fld R.SCT_RES_CFG [u.ctx] 5 1)
    let m := if l.written then { l with index := l.index + 1 } else l
    s.accessOk u.ctx a 16 true = true → s.writeError a 16 = none →
    completes (.tokenIterationEnd q seq) s [.regs, .mem, .err, .sct, .sch] fun t =>
      t.rd R.SCT_RES_WR [u.ctx] = s.rd R.SCT_RES_WR [u.ctx] + 1 ∧ sameMemBut a 16 s t
      ∧ t.bytes a 16 = tokenRecord m 0xFFFFFFFF true (if l.cancel then 3 else 5)
      ∧ t.task q.val seq = some { u with token := some { m with
          written := true, stalled := none, finished := some (if l.cancel then 3 else 5) } }) ∧
  (∀ (s : State) (c : Fin 64) (v : Word), s.isLive →
    completes (.tokenLoopCancel c v) s [.sch] fun t => t.sch = { s.sch with tasks := t.sch.tasks }
      ∧ t.sch.tasks.length = s.sch.tasks.length
      ∧ (∀ u ∈ t.sch.tasks, u.ctx = c.val → (bits v 8 8 = 1 ∨ u.qid % 256 = bits v 7 0) → ∀ l, u.token = some l → l.cancel = true)
      ∧ ∀ u ∈ s.sch.tasks, (u.ctx ≠ c.val ∨ (bits v 8 8 = 0 ∧ u.qid % 256 ≠ bits v 7 0)) → u ∈ t.sch.tasks) ∧
  (∀ (s : State) (n : SlotName) (k : Fin 4) (x : Slot), s.isLive → s.slotNamed n = some x →
    completes (.slotCounterRead n k) s [.free, .sch] fun t => ∃ y, t.slotAt (coreId n.at_) n.slot.val = some y
      ∧ y = { x with image := y.image } ∧ vecGet y.image.counters k.val 0 = s.drawn 32 ∧ y.image.regs = x.image.regs) ∧
  (∀ (s : State) (v : BitVec 128), s.isLive → s.traceTakes 0 9 none = true → s.traceTakes 1 9 none = false →
    completes (.traceMarker none v) s [.regs, .mem, .err, .dbg] fun t => t.rd R.TRC_RING_WR [0] = s.rd R.TRC_RING_WR [0] + 1) ∧
  (∀ (s : State) (n : SlotName) (x : Slot) (v : BitVec 128), s.isLive → s.slotNamed n = some x →
    s.traceTakes 0 9 (some (x.qid / 256)) = true → s.traceTakes 1 9 (some (x.qid / 256)) = false →
    completes (.traceMarker (some n) v) s [.regs, .mem, .err, .dbg] fun t => t.rd R.TRC_RING_WR [0] = s.rd R.TRC_RING_WR [0] + 1) ∧
  (∀ (s : State) (v : BitVec 128), s.isLive → s.traceTakes 0 9 none = false → s.traceTakes 1 9 none = false →
    exec (.traceMarker none v) s = .next s)

/-- R268: an eviction that ends leaves the slot free and its record in the lay-by, the slot's core memory copied to the record. R269:
an evicted slot whose place is free begins to be restored, and a restore that ends leaves the slot live, without its record, its core
memory as the record has it. R270: a park evicts every slot of its partition, or is refused when there is no room; its end leaves
the partition parked, its slots in lay-bys, and an unpark not. -/
def Obligations.EvictionRestoreAndPark : Prop :=
  (∀ (s : State) (n : SlotName) (x : Slot), s.isLive → s.memWf = true → s.slotAt (coreId n.at_) n.slot.val = some x →
    x.phase = .evicting →
    let share := s.coreShare x.core x.idx
    let a := s.laybyAddr (x.qid / 256) (s.laybyPlace (x.qid / 256))
    completes (.evictionEnd n none) s [.free, .regs, .mem, .sct, .err, .sch] fun t => t.slotAt (coreId n.at_) n.slot.val = none
      ∧ (∃ l, t.sch.layby = s.sch.layby ++ [l] ∧ l.slot = x ∧ l.ctx = x.qid / 256 ∧ l.place = s.laybyPlace (x.qid / 256)
          ∧ l.parked = false ∧ l.since = s.now)
      ∧ (∀ k, k < share.2 → t.byte (a + 4096 + k) = s.byte (share.1 + k))
      ∧ sameMemBut a (s.share x.core x.idx).recordSize s t) ∧
  (∀ (s : State) (n : SlotName) (q : Fin 16384) (seq : Word) (l : Layby), s.isLive →
    (s.sch.layby.find? fun l => l.slot.core == coreId n.at_ && l.slot.idx == n.slot.val && l.slot.qid == q.val
      && l.slot.seq == seq && !l.parked) = some l →
    s.dispatchOn (s.queuePart q.val) = true → s.slotFree (coreId n.at_) n.slot.val = true → s.coreUsable (coreId n.at_) = true →
    s.claimed (coreId n.at_) n.slot.val (s.restoreRank l) = false →
    (∀ t ∈ s.sch.tasks, t.part = s.queuePart q.val → s.competes t = true → keyLt (s.taskRank t) (s.restoreRank l) = false) →
    completes (.restoreStart n q seq) s [.regs, .sch] fun t =>
      t.slotAt (coreId n.at_) n.slot.val = some { l.slot with phase := .restoring, evictFor := none }
      ∧ t.sch.layby = s.sch.layby) ∧
  (∀ (s : State) (n : SlotName) (x : Slot) (l : Layby), s.isLive → s.memWf = true → s.slotAt (coreId n.at_) n.slot.val = some x →
    x.phase = .restoring → ¬x.owesBox → s.sch.layby.find? (fun l => l.isOf x) = some l →
    s.bit R.TRC_RING_CFG [0] 0 = false → s.bit R.TRC_RING_CFG [1] 0 = false →
    let share := s.coreShare x.core x.idx
    completes (.restoreEnd n none) s [.free, .regs, .mem, .boxes, .sct, .err, .sch] fun t =>
      (∃ y, t.slotAt (coreId n.at_) n.slot.val = some y ∧ y.butDma =
          { x with phase := .live, yielded := false, wait := x.wait.map fun (w : SlotWait × Nat) => (w.1, s.now) }.butDma)
      ∧ (∀ m ∈ t.sch.layby, m.isOf x = false)
      ∧ (∀ k, k < share.2 → t.byte (share.1 + k) = s.byte (s.laybyAddr l.ctx l.place + 4096 + k))
      ∧ sameMemBut share.1 share.2 s t) ∧
  (∀ (s : State) (p : Fin 16), s.isLive → s.numbered → s.parked p.val = false → s.parkRecords p.val = true →
    s.parkShares p.val = true →
    completes (.park p) s [.free, .regs, .mem, .boxes, .err, .sch, .dbg] fun t =>
      t.bit R.SCH_PART_STATUS [p.val] 1 = true ∧ t.bit R.SCH_PART_STATUS [p.val] 2 = false ∧ p.val ∈ t.sch.stopped
      ∧ ∀ x ∈ t.sch.slots, s.queuePart x.qid = p.val → x.phase = .evicting) ∧
  (∀ (s : State) (p : Fin 16), s.isLive → s.parked p.val = false → s.parkRecords p.val = false →
    completes (.park p) s [.free, .regs, .sct] fun t => t.bit R.SCH_PART_STATUS [p.val] 2 = true
      ∧ t.fld R.SCH_PART_STATUS [p.val] 1 0 = 0
      ∧ sameRegsBut ([regAddr R.SCH_PART_STATUS [p.val], regAddr R.SCH_PART_PARK [p.val]] ++ eventRegs) s t) ∧
  (∀ (s : State) (p : Fin 16), s.isLive → s.numbered → s.bit R.SCH_PART_STATUS [p.val] 1 = true →
    (∀ x ∈ s.partSlots p.val, s.ramMoving x.core = false) →
    completes (.parkEnd p) s [.free, .regs, .mem, .sct, .err, .sch] fun t => t.fld R.SCH_PART_STATUS [p.val] 1 0 = 1
      ∧ (∀ x ∈ t.sch.slots, s.queuePart x.qid ≠ p.val)
      ∧ ∀ x ∈ s.partSlots p.val, ∃ l ∈ t.sch.layby, l.slot = x ∧ l.parked = true) ∧
  (∀ (s : State) (p : Fin 16), s.isLive → s.scheduleNumbered → (∀ l ∈ s.sch.layby, l.ctx < 64) →
    s.fld R.SCH_PART_STATUS [p.val] 1 0 = 1 →
    completes (.unpark p) s [.free, .regs, .mem, .boxes, .sct, .err, .sch, .dbg] fun t => t.fld R.SCH_PART_STATUS [p.val] 1 0 = 0
      ∧ t.bit R.SCH_PART_PARK [p.val] 0 = false ∧ p.val ∉ t.sch.stopped)

/-- R273: an acquire that the semaphore can grant holds its units for the task's context and is answered, with the abandoned mark if
it is set; one that it cannot blocks its slot; a release without waiters gives its units back; a blocked acquire that times out no
longer waits. R275: a forced release holds nothing and marks the semaphore abandoned, and the mark is cleared by its bit. -/
def Obligations.SemaphoresGrantAndBlock : Prop :=
  (∀ (s : State) (n : SlotName) (k : Fin 4096) (units : BitVec 16) (x : Slot) (u : Task), s.isLive → s.slotNamed n = some x →
    s.slotTask x = some u → x.wait = none → s.bit R.SCH_SEM_CFG [k.val] 4 = true → s.fld R.SCH_SEM_CFG [k.val] 3 0 = u.part →
    s.semGrants k.val u.ctx units.toNat = true →
    completes (.semAcquire n k units) s [.regs, .mem, .err, .sch, .dbg] fun t =>
      t.semHeld k.val = s.semHeld k.val + units.toNat
      ∧ t.sch.lastAcquire = some (u.qid, u.entry.seq, if s.bit R.SCH_SEM_STATE [k.val] 23 then .abandoned else .granted)
      ∧ t.sch.slots = s.sch.slots) ∧
  (∀ (s : State) (n : SlotName) (k : Fin 4096) (units : BitVec 16) (x : Slot) (u : Task), s.isLive → s.slotNamed n = some x →
    s.slotTask x = some u → x.wait = none → s.bit R.SCH_SEM_CFG [k.val] 4 = true → s.fld R.SCH_SEM_CFG [k.val] 3 0 = u.part →
    s.semGrants k.val u.ctx units.toNat = false →
    completes (.semAcquire n k units) s [.regs, .mem, .err, .sch, .dbg] fun t => t.semHeld k.val = s.semHeld k.val
      ∧ t.slotAt (coreId n.at_) n.slot.val = some { x with wait := some (.sem k.val, s.now) }
      ∧ ∃ w, (t.sem k.val).waiters = (s.sem k.val).waiters ++ [w] ∧ w.qid = u.qid ∧ w.seq = u.entry.seq ∧ w.units = units.toNat) ∧
  (∀ (s : State) (n : SlotName) (k : Fin 4096) (units : BitVec 16) (x : Slot) (u : Task), s.isLive → s.slotNamed n = some x →
    s.slotTask x = some u → s.bit R.SCH_SEM_CFG [k.val] 4 = true → s.fld R.SCH_SEM_CFG [k.val] 3 0 = u.part →
    s.semOwner k.val = some u.ctx → units.toNat ≤ s.semHeld k.val → (s.sem k.val).waiters = [] →
    completes (.semRelease n k units) s [.regs, .mem, .err, .sch, .dbg] fun t =>
      t.semHeld k.val = s.semHeld k.val - units.toNat ∧ (units.toNat = s.semHeld k.val → t.semOwner k.val = none)
      ∧ t.sch.slots = s.sch.slots) ∧
  (∀ (s : State) (n : SlotName) (k : Fin 4096) (w : SemWait), s.isLive →
    (((s.sem k.val).waiters.filter fun w => w.core == coreId n.at_ && w.idx == n.slot.val).find? fun w =>
        s.sch.slots.any w.isOf).or
      ((s.sem k.val).waiters.filter fun w => w.core == coreId n.at_ && w.idx == n.slot.val).head? = some w →
    completes (.semAcquireTimeout n k) s [.regs, .mem, .boxes, .err, .sch, .dbg] fun t => w ∉ (t.sem k.val).waiters
      ∧ (∀ x, s.slotAt (coreId n.at_) n.slot.val = some x → w.isOf x = true →
          ∃ y, t.slotAt (coreId n.at_) n.slot.val = some y ∧ y.qid = x.qid ∧ y.seq = x.seq ∧ y.wait = none ∧ y.yielded = false)
      ∧ (∀ l ∈ t.sch.layby, w.isOf l.slot = true → l.slot.wait = none)
      ∧ ((s.sem k.val).waiters = [w] → t.sch.lastAcquire = some (w.qid, w.seq, .failed))) ∧
  (∀ (s : State) (k : Fin 4096), s.isLive → (s.sem k.val).waiters = [] →
    completes (.semForceRel k) s [.regs, .mem, .err, .sch, .dbg] fun t => t.semHeld k.val = 0 ∧ t.semOwner k.val = none
      ∧ t.bit R.SCH_SEM_STATE [k.val] 23 = true ∧ (t.sem k.val).holders = []) ∧
  (∀ (s : State) (k : Fin 4096), s.isLive →
    completes (.semClrAbandoned k) s [.regs] fun t => sameRegsBut [regAddr R.SCH_SEM_STATE [k.val]] s t
      ∧ t.bit R.SCH_SEM_STATE [k.val] 23 = false ∧ t.semHeld k.val = s.semHeld k.val ∧ t.semOwner k.val = s.semOwner k.val)

/-- R298: a start of a step of a die that the assembly has, not running and not done, with its prerequisites ready, sets it
running. A die that is absent, a step running or done, and a missing prerequisite are refused with codes 2, 9 and 1. R297: a die's
rails are switched on. R310: a bundle that fails its check fails the step at its start. A step that runs comes to its end, done or failed. -/
def Obligations.BringUpStepsStart : Prop :=
  (∀ (s : State) (d : Fin 4), s.isUp → s.dev.assembly.hasDie d.val = true → s.step_ d.val ≠ 1 → s.step_ d.val ≠ 2 →
    s.isReady [0] = true →
    stepStarts (.diePowerUp d) d.val s ∧
    ∃ t, exec (.diePowerUp d) s = .next t ∧ (match d.val with | 0 => t.pwr.enCmp0 | 1 => t.pwr.enCmp1 | _ => t.pwr.enMem) = true) ∧
  (∀ (s : State), s.isUp → s.step_ 4 ≠ 1 → s.step_ 4 ≠ 2 → s.isReady s.dev.assembly.powerBits = true →
    stepStarts .linkTraining 4 s) ∧
  (∀ (s : State) (d : Fin 2), s.isUp → s.dev.assembly.hasDie (2 + d.val) = true → s.step_ (5 + d.val) ≠ 1 →
    s.step_ (5 + d.val) ≠ 2 → s.isReady [11 + d.val] = true → stepStarts (.dramTraining d) (5 + d.val) s) ∧
  (∀ (s : State) (d : Fin 2), s.isUp → s.dev.assembly.hasDie d.val = true → s.step_ (7 + d.val) ≠ 1 →
    s.step_ (7 + d.val) ≠ 2 → s.isReady [9 + d.val] = true → stepStarts (.selfTest d) (7 + d.val) s) ∧
  (∀ (s : State), s.isUp → s.step_ 9 ≠ 1 → s.step_ 9 ≠ 2 → s.isReady s.dev.assembly.firmwareNeeds = true →
    (s.bundleCode (s.rdAddr R.BRG_FW_SRC_LO R.BRG_FW_SRC_HI []) = 0 → stepStarts .firmwareBroadcast 9 s) ∧
    (s.bundleCode (s.rdAddr R.BRG_FW_SRC_LO R.BRG_FW_SRC_HI []) ≠ 0 →
      stepFails .firmwareBroadcast 9 (s.bundleCode (s.rdAddr R.BRG_FW_SRC_LO R.BRG_FW_SRC_HI [])) s [.free, .regs, .brg, .sct])) ∧
  (∀ (s : State) (d : Fin 4), s.isUp → s.dev.assembly.hasDie d.val = false → stepRefused (.diePowerUp d) d.val 2 s) ∧
  (∀ (s : State) (d : Fin 4), s.isUp → s.dev.assembly.hasDie d.val = true → (s.step_ d.val = 1 ∨ s.step_ d.val = 2) →
    stepRefused (.diePowerUp d) d.val 9 s) ∧
  (∀ (s : State), s.isUp → s.step_ 4 ≠ 1 → s.step_ 4 ≠ 2 → s.isReady s.dev.assembly.powerBits = false →
    stepRefused .linkTraining 4 1 s) ∧
  (∀ (s : State) (d : Fin 2), s.isUp → s.dev.assembly.hasDie (2 + d.val) = true → s.step_ (5 + d.val) ≠ 1 →
    s.step_ (5 + d.val) ≠ 2 → s.isReady [11 + d.val] = false → stepRefused (.dramTraining d) (5 + d.val) 1 s) ∧
  (∀ (s : State) (d : Fin 2), s.isUp → s.dev.assembly.hasDie d.val = false → stepRefused (.selfTest d) (7 + d.val) 2 s) ∧
  (∀ (s : State), s.isUp → s.step_ 9 ≠ 1 → s.step_ 9 ≠ 2 → s.isReady s.dev.assembly.firmwareNeeds = false →
    stepRefused .firmwareBroadcast 9 1 s) ∧
  (∀ (s : State) (d : Fin 4) (good : Bool), s.isUp → s.step_ d.val = 1 → s.pwr.tripped = false →
    ∃ t, exec (.diePowerUpEnd d good) s = .next t ∧ t.step_ d.val = if good then 2 else 3) ∧
  (∀ (s : State) (lanes : List LaneFault) (mesh : List MeshFault), s.isUp → s.step_ 4 = 1 →
    ∃ t, exec (.linkTrainingEnd lanes mesh) s = .next t ∧ (t.step_ 4 = 2 ∨ t.step_ 4 = 3)) ∧
  (∀ (s : State) (d : Fin 2) (bad : Bool) (rows : List RowFault), s.isUp → s.step_ (5 + d.val) = 1 →
    ∃ t, exec (.dramTrainingEnd d bad rows) s = .next t ∧ t.step_ (5 + d.val) = if bad then 3 else 2) ∧
  (∀ (s : State) (rounds : List (List FwStatus)), s.isUp → s.step_ 9 = 1 →
    ∃ t, exec (.firmwareBroadcastEnd rounds) s = .next t ∧ t.step_ 9 = 2)


/-- R298, R299: a step that ends well is done, and its ready bits are set; one that fails shows its code and alerts. R303: links end
done only when every die pair keeps a working module. R305: every row of a trained die is written with zeros. R312: the
targets that are incomplete after the last round are kept; when there is none, the step only ends. R291, R293: the steps that have no bit of BRG_BOOT_CTRL: a verification starts and ends with its result, and SEAL
after a good one seals. -/
def Obligations.BringUpStepsEnd : Prop :=
  (∀ (s : State) (d : Fin 4), s.isUp → s.step_ d.val = 1 → s.pwr.tripped = false →
    (stepEnds (.diePowerUpEnd d true) d.val [9 + d.val] s [.free, .regs, .sct] fun _ => True) ∧
    stepFails (.diePowerUpEnd d false) d.val 3 s [.free, .regs, .sct]) ∧
  (∀ (s : State) (lanes : List LaneFault) (mesh : List MeshFault), s.isUp → s.step_ 4 = 1 →
    (stepEnds (.linkTrainingEnd lanes mesh) 4 [13] s [.free, .regs, .mem, .brg, .sct, .err] fun t =>
      ∀ p ∈ s.dev.assembly.pairs, t.pairWorks p = true)
    ∨ stepFails (.linkTrainingEnd lanes mesh) 4 4 s [.free, .regs, .mem, .brg, .sct, .err]
    ∨ stepFails (.linkTrainingEnd lanes mesh) 4 5 s [.free, .regs, .mem, .brg, .sct, .err]) ∧
  (∀ (s : State) (mesh : List MeshFault) (f : MeshFault), s.isUp → s.step_ 4 = 1 → f ∈ mesh →
    f.die.val < s.dev.assembly.computeDies → meshRepaired f = false → ∀ (lanes : List LaneFault),
    ∃ t, exec (.linkTrainingEnd lanes mesh) s = .next t ∧ t.step_ 4 = 3) ∧
  (∀ (s : State) (d : Fin 2) (rows : List RowFault), s.isUp → s.step_ (5 + d.val) = 1 →
    (stepEnds (.dramTrainingEnd d false rows) (5 + d.val) [14 + d.val] s [.free, .regs, .mem, .brg, .sct, .err] fun t =>
      ∀ a, s.onMemDie d.val a = true → t.byte a = 0) ∧
    stepFails (.dramTrainingEnd d true rows) (5 + d.val) 6 s [.free, .regs, .mem, .brg, .sct, .err]) ∧
  (∀ (s : State) (d : Fin 2) (faults : List BistFault), s.isUp → s.step_ (7 + d.val) = 1 →
    stepEnds (.selfTestEnd d faults) (7 + d.val) [16 + d.val] s [.free, .regs, .mem, .brg, .sct, .err, .sch] fun _ => True) ∧
  (∀ (s : State) (rounds : List (List FwStatus)), s.isUp → s.step_ 9 = 1 →
    (stepEnds (.firmwareBroadcastEnd rounds) 9 [18] s [.free, .regs, .mem, .brg, .sct, .err, .sch] fun t =>
      t.brg.fwMissing = s.incomplete rounds) ∧
    (s.incomplete rounds = [] → stepEnds (.firmwareBroadcastEnd rounds) 9 [18] s [.free, .regs, .brg, .sct] fun t =>
      sameRegsBut ([regAddr R.BRG_BOOT_STATUS [], regAddr R.BRG_READY []] ++ eventRegs) s t)) ∧
  (∀ (s : State) (d : Fin 4) (good : Bool), s.step_ d.val ≠ 1 → exec (.diePowerUpEnd d good) s = .next s) ∧
  (∀ (s : State) (lanes : List LaneFault) (mesh : List MeshFault), s.step_ 4 ≠ 1 →
    exec (.linkTrainingEnd lanes mesh) s = .next s) ∧
  (∀ (s : State), s.isUp → s.sealed = false → s.brg.verifying = none →
    ∃ t, exec .qziVerify s = .next t ∧ t.brg.verifying = some s.stagedBytes ∧ t.bit R.BRG_QZI_STATUS [] 0 = true) ∧
  (∀ (s : State) (image : List Byte), s.isUp → s.brg.verifying = some image → s.brg.touched = false →
    ∃ t, exec .qziVerifyEnd s = .next t ∧ t.brg.verifying = none
      ∧ t.bit R.BRG_QZI_STATUS [] 1 = ((staged image).fault s.dev.assembly s.stepping).isNone) ∧
  (∀ (s : State), s.isUp → s.sealed = false → s.bit R.BRG_QZI_STATUS [] 1 = true →
    ∃ t, exec .qziSeal s = .next t ∧ t.sealed = true)


/-- R306, R127: at the end of a self-test with one core fault, in a cluster with no other fault, the spare, if it is free, takes the
core's logical ID; otherwise the logical core is absent. -/
def Obligations.SparesTakeTheIdsOfFailedCores : Prop :=
  ∀ (s : State) (d : Fin 2) (k : Fin 8) (j : Fin 17) (c : Nat), s.isUp → s.step_ (7 + d.val) = 1 →
    s.weakOf (7 + d.val) 1 = [] → j.val < 16 → s.siteFailed d.val k.val j.val = false → s.logicalAt d.val k.val j.val = some c →
    ∃ t, exec (.selfTestEnd d [.core k j true false]) s = .next t ∧ t.siteFailed d.val k.val j.val = true
    ∧ (s.spareFree d.val k.val = true → t.lmapByte (128 * d.val + 16 * k.val + c) = 16)
    ∧ (s.spareFree d.val k.val = false → t.coreAbsent (128 * d.val + 16 * k.val + c) = true)

/-- R291: a verification runs before SEAL, and a second one meanwhile is refused with code 0x0E. Its end applies an image that passes
every check, and leaves everything as it was, but for the code and the offset, when one fails. R293: SEAL after a good verification seals;
without one it shows its error; once sealed, neither does anything. -/
def Obligations.ImageVerificationAndSeal : Prop :=
  (∀ (s : State), s.isUp → s.sealed = false → s.brg.verifying = none → completes .qziVerify s [.regs, .brg] fun t =>
    t.brg = { s.brg with verifying := some s.stagedBytes, touched := false } ∧ t.bit R.BRG_QZI_STATUS [] 0 = true
    ∧ sameRegsBut [regAddr R.BRG_QZI_STATUS []] s t) ∧
  (∀ (s : State), s.isUp → s.sealed = false → s.brg.verifying.isSome = true → completes .qziVerify s [.regs] fun t =>
    t.fld R.BRG_QZI_STATUS [] 15 8 = 0x0E ∧ sameRegsBut [regAddr R.BRG_QZI_STATUS []] s t) ∧
  (∀ (s : State) (image : List Byte), s.isUp → s.brg.verifying = some image → s.brg.touched = false →
    (staged image).fault s.dev.assembly s.stepping = none →
    completes .qziVerifyEnd s [.free, .regs, .mem, .img, .syn, .vis, .dsp, .brg, .eth, .sct, .err, .sch] fun t =>
      t.bit R.BRG_QZI_STATUS [] 1 = true ∧ t.fld R.BRG_QZI_STATUS [] 15 8 = 0 ∧ t.bit R.BRG_READY [] 8 = true) ∧
  (∀ (s : State) (image : List Byte) (code off : Nat), s.isUp → s.brg.verifying = some image → s.brg.touched = false →
    (staged image).fault s.dev.assembly s.stepping = some (code, off) →
    completes .qziVerifyEnd s [.free, .regs, .brg, .sct] fun t =>
      t.brg = { s.brg with verifying := none, touched := false }
      ∧ t.bit R.BRG_QZI_STATUS [] 0 = false ∧ t.bit R.BRG_QZI_STATUS [] 1 = false
      ∧ t.fld R.BRG_QZI_STATUS [] 15 8 = code % 256 ∧ t.rd R.BRG_QZI_FAULT_OFF [] = BitVec.ofNat 32 off
      ∧ sameRegsBut ([regAddr R.BRG_QZI_STATUS [], regAddr R.BRG_QZI_FAULT_OFF []] ++ eventRegs) s t) ∧
  (∀ (s : State), s.isUp → s.sealed = false → s.bit R.BRG_QZI_STATUS [] 1 = true →
    completes .qziSeal s [.free, .regs, .sct] fun t => t.sealed = true ∧ t.bit R.BRG_QZI_STATUS [] 3 = false) ∧
  (∀ (s : State), s.isUp → s.sealed = false → s.bit R.BRG_QZI_STATUS [] 1 = false →
    completes .qziSeal s [.regs] fun t => t.sealed = false ∧ t.bit R.BRG_QZI_STATUS [] 3 = true
      ∧ sameRegsBut [regAddr R.BRG_QZI_STATUS []] s t) ∧
  (∀ (s : State), s.sealed = true → exec .qziVerify s = .next s ∧ exec .qziSeal s = .next s)

/-- R313: a report ring that a write of its size sets receives the entries held. R314: a requested slot that may be tested is the next
target, and the cycle gives the others. R316: with slack, a move to the spare starts. R315: its end gives the core the stand-in, and a test
that passes waits to return; R319: one that fails leaves the stand-in in service. R317: a target that finds no slack is deferred. -/
def Obligations.ReportRingAndRambler : Prop :=
  (∀ (s : State) (v : Word), s.isUp → (s.setFld R.BRG_RPT_SIZE [] 12 0 (bits v 12 0)).reportRingSet = true →
    completes (.reportRingSet v) s [.regs, .mem, .brg, .err] fun t =>
      t.brg = { s.brg with held := [], fill := s.brg.held.length }
      ∧ t.rd R.BRG_RPT_WR [] = s.rd R.BRG_RPT_WR [] + BitVec.ofNat 32 s.brg.held.length) ∧
  (∀ (s : State) (v : Word), s.isUp → (s.setFld R.BRG_RPT_SIZE [] 12 0 (bits v 12 0)).reportRingSet = false →
    completes (.reportRingSet v) s [.regs, .brg] fun t =>
      t.brg = { s.brg with fill := 0 } ∧ t.fld R.BRG_RPT_SIZE [] 12 0 = bits v 12 0
      ∧ sameRegsBut [regAddr R.BRG_RPT_SIZE []] s t) ∧
  (∀ (s : State) (q : Nat), s.isLive → s.bit R.BRG_RAM_CTRL [] 0 = true → s.bit R.BRG_READY [] 20 = true → s.ramState = 0 →
    s.brg.rambler.serving = [] → s.brg.rambler.request = some q → s.ramEligible (q / 136) (q / 17 % 8) (q % 17) = true →
    completes .ramblerTestDue s [.regs, .brg] fun t =>
      t.ramTarget = (q / 136, q / 17 % 8, q % 17) ∧ t.brg.rambler.request = none
      ∧ t.brg.rambler.cursor = s.brg.rambler.cursor
      ∧ t.ramState = (if (s.logicalAt (q / 136) (q / 17 % 8) (q % 17)).isSome then 1 else 3)) ∧
  (∀ (s : State) (n : Nat), s.isLive → s.bit R.BRG_RAM_CTRL [] 0 = true → s.bit R.BRG_READY [] 20 = true → s.ramState = 0 →
    s.brg.rambler.serving = [] → s.brg.rambler.request = none → s.nextPlace = some n →
    completes .ramblerTestDue s [.regs, .brg] fun t =>
      t.ramTarget = cyclePlace n ∧ t.brg.rambler.cursor = (n + 1) % 272) ∧
  (∀ (s : State) (v : Word), s.isUp → bits v 31 31 = 1 → s.ramEligible (bits v 8 8) (bits v 7 5) (bits v 4 0) = true →
    bits v 4 0 ≤ 16 → (s.ramState = 0 ∨ s.ramTarget ≠ (bits v 8 8, bits v 7 5, bits v 4 0)) →
    completes (.ramblerReq v) s [.brg] fun t =>
      t.brg.rambler = { s.brg.rambler with request := some (siteOf (bits v 8 8) (bits v 7 5) (bits v 4 0)) }) ∧
  (∀ (s : State) (core : Nat), s.isLive → s.ramState = 1 → s.brg.rambler.logical = some core → s.standIn core = some none →
    s.slackOn core (s.moveTime core) = true →
    completes .ramblerSlackCheck s [.regs, .brg, .sch] fun t =>
      t.ramState = 2 ∧ t.fld R.BRG_RAM_STATUS [] 22 18 = 16 ∧ t.bit R.BRG_RAM_STATUS [] 17 = false) ∧
  (∀ (s : State) (core : Nat), s.isLive → s.ramState = 4 → s.brg.rambler.logical = some core →
    s.slackOn core (s.moveTime core) = true →
    completes .ramblerSlackCheck s [.regs, .sch] fun t => t.ramState = 5) ∧
  (∀ (s : State) (core : Nat), s.isLive → s.ramState = 2 → s.brg.rambler.logical = some core → s.brg.rambler.donor = none →
    s.brg.rambler.owed = none → core < 256 → s.fld R.BRG_RAM_STATUS [] 22 18 ≤ 16 →
    completes .ramblerMoveEnd s [.regs, .mem, .boxes, .brg, .err, .sch, .dbg] fun t =>
      t.ramState = 3 ∧ t.lmapByte core = s.fld R.BRG_RAM_STATUS [] 22 18) ∧
  (∀ (s : State) (core : Nat) (repaired : Bool), s.isLive → s.ramState = 3 → s.brg.rambler.logical = some core →
    completes (.ramblerTestEnd true repaired) s [.regs, .mem, .brg, .err, .sch] fun t =>
      t.ramState = 4 ∧ t.rd R.BRG_RAM_CNT_TESTS [] = s.rd R.BRG_RAM_CNT_TESTS [] + 1) ∧
  (∀ (s : State) (core : Nat) (repaired : Bool), s.isLive → s.ramState = 3 → s.brg.rambler.logical = some core →
    s.brg.rambler.donor = none →
    completes (.ramblerTestEnd false repaired) s [.free, .regs, .mem, .brg, .sct, .err, .sch] fun t =>
      t.ramState = 0 ∧ t.brg.rambler.logical = none ∧ counted R.BRG_RAM_CNT_FAIL [] s t
      ∧ t.siteFailed s.ramTarget.1 s.ramTarget.2.1 s.ramTarget.2.2 = true ∧ t.lmapByte core = s.lmapByte core) ∧
  (∀ (s : State), s.isLive → s.ramState = 1 →
    completes .ramblerWaitExpiry s [.free, .regs, .mem, .brg, .sct, .err] fun t =>
      t.ramState = 0 ∧ t.brg.rambler.logical = none ∧ counted R.BRG_RAM_CNT_DEFER [] s t)

/-- R11: for every register of the map with an RWL field, a write after SEAL that reaches it leaves every RWL bit as it was, and a
RW bit of the same register takes the written value; when it came as the item of a REG_WRITE frame, the response carries status
0x13 and the item's index. -/
def Obligations.RwlFieldsAreLockedBySeal : Prop :=
  (∀ (s : State) (a v : Word) (r : Reg) (ix : List Nat), s.isUp → s.dev.resetAsked = none →
    findReg R.regTable a.toNat = some (r, ix) → r.rwl ≠ 0 → s.sealed = true → s.writable a.toNat →
    ∃ t, exec (.registerWrite a v) s = .next t ∧ t.pending = s.pending
    ∧ (∀ i, i < 32 → r.rwl.getLsbD i = true → (t.rd r ix).getLsbD i = (s.rd r ix).getLsbD i)
    ∧ (∀ i, i < 32 → r.rw.getLsbD i = true → (t.rd r ix).getLsbD i = v.getLsbD i)) ∧
  (∀ (s u : State) (f : RxFrame) (a v : Word) (r : Reg) (ix : List Nat), s.turnOf u 2 f →
    f.payload = leBytes 4 a.toNat ++ leBytes 4 v.toNat →
    findReg R.regTable a.toNat = some (r, ix) → r.rwl ≠ 0 → u.sealed = true → u.writable a.toNat →
    ∃ t, exec (.sctRegWrite f) s = .next t ∧ answered f 0x13 0 [] u t
    ∧ (∀ i, i < 32 → r.rwl.getLsbD i = true → (t.rd r ix).getLsbD i = (u.rd r ix).getLsbD i)
    ∧ (∀ i, i < 32 → r.rw.getLsbD i = true → (t.rd r ix).getLsbD i = v.getLsbD i))

/-- R9: a write that reaches a register that only stores changes that register alone: RW bits, and RWL bits before SEAL, take the
value, W1C bits are cleared by a 1, the rest keep theirs. R10: an address that holds no register takes no write; an address that is
not a multiple of 4 or, before SEAL, outside the bring-up set is not written (R334). -/
def Obligations.RegisterWritesStore : Prop :=
  (∀ (s : State) (a v : Word) (r : Reg) (ix : List Nat), s.isUp → s.dev.resetAsked = none →
    findReg R.regTable a.toNat = some (r, ix) → storesOnly r → s.writable a.toNat →
    completes (.registerWrite a v) s [.regs] fun t => sameRegsBut [a.toNat] s t
    ∧ ∀ i, i < 32 → (t.rd r ix).getLsbD i =
        if r.w1c.getLsbD i && v.getLsbD i then false
        else if r.rw.getLsbD i || (r.rwl.getLsbD i && !s.sealed) then v.getLsbD i
        else (s.rd r ix).getLsbD i) ∧
  (∀ (s : State) (a v : Word), s.isUp → s.dev.resetAsked = none → inStaging a.toNat = false →
    (findReg R.regTable a.toNat = none ∨ a.toNat % 4 ≠ 0 ∨ (s.sealed = false ∧ inBringupSet a.toNat = false)) →
    exec (.registerWrite a v) s = .next s)

/-- R328, R330: a REG_READ, REG_WRITE, MEM_WRITE, MEM_READ or DOORBELL frame whose turn it is applies its item and is answered with
one response, which is kept; the next number is expected. Here each with one item that is not refused: a plain register read
and written, memory written (and no other byte of it) and read, and a doorbell that names new entries. -/
def Obligations.HostFramesAreApplied : Prop :=
  (∀ (s u : State) (f : RxFrame) (a : Word) (r : Reg) (ix : List Nat), s.turnOf u 1 f → f.payload = leBytes 4 a.toNat →
    findReg R.regTable a.toNat = some (r, ix) → (forReg derivedReads r).isNone = true → r.rc = 0 → r.base ≠ R.DBG_SCAN_DATA.base →
    a.toNat ∉ frameRegs → a.toNat % 4 = 0 → u.dieReached a.toNat = true → u.stopped = false → inStaging a.toNat = false →
    u.debugReach a.toNat = true → u.advanceStalls r ix = u →
    ∃ t, exec (.sctRegRead f) s = .next t ∧ answered f 0 0xFFFF (leBytes 4 (u.rd r ix &&& ~~~r.wo).toNat) u t
    ∧ sameRegsBut frameRegs u t ∧ t.mem = s.mem ∧ t.sch = s.sch ∧ t.dev = s.dev) ∧
  (∀ (s u : State) (f : RxFrame) (a v : Word) (r : Reg) (ix : List Nat), s.turnOf u 2 f →
    f.payload = leBytes 4 a.toNat ++ leBytes 4 v.toNat → findReg R.regTable a.toNat = some (r, ix) → storesOnly r →
    (u.sealed = false ∨ r.rwl = 0) → a.toNat ∉ frameRegs → u.writable a.toNat →
    ∃ t, exec (.sctRegWrite f) s = .next t ∧ answered f 0 0xFFFF [] u t
    ∧ (∀ i, i < 32 → (r.rw ||| r.rwl).getLsbD i = true → r.w1c.getLsbD i = false → (t.rd r ix).getLsbD i = v.getLsbD i)
    ∧ sameRegsBut (a.toNat :: frameRegs) u t ∧ t.mem = s.mem ∧ t.sch = s.sch ∧ t.dev = s.dev) ∧
  (∀ (s u : State) (f : RxFrame) (a : Nat) (data : List Byte), s.turnOf u 3 f → a < 2 ^ 64 →
    f.payload = leBytes 8 a ++ leBytes 4 data.length ++ leBytes 4 0 ++ data → u.memStatus a data.length = 0 →
    u.badIn a data.length = [] →
    ∃ t, exec (.sctMemWrite f) s = .next t ∧ answered f 0 0xFFFF [] u t
    ∧ t.bytes a data.length = data ∧ sameMemBut a data.length s t ∧ sameRegsBut frameRegs u t ∧ t.sch = s.sch ∧ t.dev = s.dev) ∧
  (∀ (s u : State) (f : RxFrame) (a n : Nat), s.turnOf u 4 f → a < 2 ^ 64 → n < 2 ^ 32 →
    f.payload = leBytes 8 a ++ leBytes 4 n ++ leBytes 4 0 → u.memStatus a n = 0 → u.badIn a n = [] →
    ∃ t, exec (.sctMemRead f) s = .next t ∧ answered f 0 0xFFFF (s.bytes a n) u t
    ∧ sameRegsBut frameRegs u t ∧ t.mem = s.mem ∧ t.sch = s.sch ∧ t.dev = s.dev) ∧
  (∀ (s u : State) (f : RxFrame) (q : Fin 16384) (count : Word) (x : Queue), s.turnOf u 5 f →
    f.payload = leBytes 2 q.val ++ leBytes 2 0 ++ leBytes 4 count.toNat → u.writable (regAddr R.SCH_DB [q.val]) → u.sealed = true →
    u.partResetting (u.ctxPart (q.val / 256)) = false → u.ctxDown (q.val / 256) = false → u.queue q.val = some x → x.ident = q.val →
    x.desc.cqOnly = false → x.disabling = false → count ≠ x.pLast → after32 count x.pLast = true →
    (count - x.posted).toNat ≤ x.desc.size →
    ∃ t, exec (.sctDoorbell f) s = .next t ∧ answered f 0 0xFFFF [] u t
    ∧ sameRegsBut frameRegs u t ∧ t.mem = s.mem ∧ t.dev = s.dev
    ∧ ∃ y, t.queue q.val = some y ∧ y.pLast = count ∧ y.rung.length = x.rung.length + (count - x.pLast).toNat)

/-- R322: a frame whose FCS is wrong is counted and dropped; one for a port without a link does nothing. R329: a malformed frame is
counted. R330: a frame up to 63 ahead of its turn is held once a frame has been applied. R338, R341: an ACK frees the outstanding
frames of its stream up to the one it names, and counts the records of a result ring that they carried. -/
def Obligations.FramesThatAreNotAppliedYet : Prop :=
  (∀ (s : State) (f : RxFrame) (c : Instr), s.isUp → s.dev.resetAsked = none → s.linkUp f.port.val = true → f.fcsGood = false →
    f.wireLen ≤ 9022 →
    c ∈ [.sctRegRead f, .sctRegWrite f, .sctMemWrite f, .sctMemRead f, .sctDoorbell f, .sctAck f] →
    completes c s [.regs] fun t => counted R.ETH_CNT_FCS [f.port.val] s t
      ∧ sameRegsBut [regAddr R.ETH_CNT_FCS [f.port.val], regAddr R.ETH_CNT_OVF [f.port.val]] s t) ∧
  (∀ (s : State) (f : RxFrame) (c : Instr), s.isUp → s.dev.resetAsked = none → s.linkUp f.port.val = false →
    c ∈ [.sctRegRead f, .sctRegWrite f, .sctMemWrite f, .sctMemRead f, .sctDoorbell f, .sctAck f] → exec c s = .next s) ∧
  (∀ (s u : State) (f : RxFrame), s.isUp → s.dev.resetAsked = none → s.receive f = (u, true) → u.responderUp = true →
    u.sctPorts.contains f.port.val = true → u.encapOk f.encap = true → u.tagsOk f = true → u.frameOk 2 f = false →
    completes (.sctRegWrite f) s [.regs, .eth] fun t => counted R.SCT_CNT_MALFORMED [] u t) ∧
  (∀ (s u : State) (f : RxFrame) (d : Nat), s.isUp → s.dev.resetAsked = none → s.receive f = (u, true) → u.responderUp = true →
    u.sctPorts.contains f.port.val = true → u.encapOk f.encap = true → u.tagsOk f = true → u.frameOk 2 f = true →
    0 < d → d < 64 → f.seq.toNat = (u.nExp + d) % 65536 → u.sct.applied = true →
    u.authentic 2 f f.stream.toNat (u.nextEsn + d) (u.keyOf (u.nextEsn + d)) = true →
    (∀ h ∈ u.sct.held, h.esn ≠ u.nextEsn + d) →
    completes (.sctRegWrite f) s [.regs, .eth, .sct] fun t => t.cfg = u.cfg ∧
      t.sct = { u.sct with held := u.sct.held ++ [{ esn := u.nextEsn + d, op := 2, frame := f }] }) ∧
  (∀ (s u : State) (f : RxFrame) (x : Nat) (o : Outstanding), s.isUp → s.dev.resetAsked = none → s.receive f = (u, true) →
    u.responderUp = true → u.sctPorts.contains f.port.val = true → u.encapOk f.encap = true → u.tagsOk f = true →
    u.frameOk 6 f = true → (f.payload.getD 0 0).toNat = x → o ∈ (u.streamOf x).outstanding → o.esn < (u.streamOf x).nextEsn →
    (u.streamOf x).nextEsn ≤ o.esn + 65536 → ofLe (sliceBytes f.payload 2 2) = o.esn % 65536 →
    u.authentic 6 f x o.esn u.sec.currentKey = true → (∀ k ∈ s.sch.tasks, ∀ l, k.token = some l → l.timedOut = false) →
    completes (.sctAck f) s [.regs, .eth, .sct] fun t =>
      (t.streamOf x).outstanding = (u.streamOf x).outstanding.filter (fun p => decide (o.esn < p.esn))
      ∧ (t.streamOf x).nextEsn = (u.streamOf x).nextEsn
      ∧ (0x40 ≤ x → x < 0x80 → t.rd R.SCT_RES_ACK [x - 0x40] = u.rd R.SCT_RES_ACK [x - 0x40] + BitVec.ofNat 32
          (((u.streamOf x).outstanding.filter (fun p => decide (p.esn ≤ o.esn))).map (·.records)).sum))

/-- R339: a flush sends the pending event records in one frame of stream 1, if a host is known, a port's link is up and the window
is open. R341: a flush of a ring sends the records not yet sent. R338: a retransmission sends the outstanding frames of a stream
again, with their numbers and data. -/
def Obligations.StreamsToTheHost : Prop :=
  (∀ (s : State) (d : HostAddr), s.isUp → s.sct.events ≠ [] → s.sct.events.length ≤ 64 → s.streamReady 1 = true →
    s.sct.lastSource = some d → (∀ p ∈ s.outPorts d.port, s.destListed p d.mac = true) →
    completes .eventFlush s [.free, .regs, .eth, .sct] fun t => sameRegsBut sendRegs s t ∧ t.sct.events = []
      ∧ (t.streamOf 1).nextEsn = (s.streamOf 1).nextEsn + 1
      ∧ ∃ o, (t.streamOf 1).outstanding = (s.streamOf 1).outstanding ++ [o] ∧ o.records = s.sct.events.length
          ∧ o.frame.payload = (s.sct.events.map EventRec.encode).flatten) ∧
  (∀ s : State, s.isUp → (s.sct.events = [] ∨ s.streamReady 1 = false) → exec .eventFlush s = .next s) ∧
  (∀ (s : State) (c : Fin 64) (k : Nat), s.isUp → s.streamReady (0x40 + c.val) = true → 0 < k → k ≤ 512 →
    ((s.rd R.SCT_RES_WR [c.val]).toNat + 2 ^ 32 - s.resultsSent c.val) % 2 ^ 32 = k →
    completes (.resultFlush c) s [.free, .regs, .eth, .sct] fun t => sameRegsBut sendRegs s t
      ∧ t.resultsSent c.val = (s.rd R.SCT_RES_WR [c.val]).toNat
      ∧ (t.streamOf (0x40 + c.val)).nextEsn = (s.streamOf (0x40 + c.val)).nextEsn + 1
      ∧ ∃ o, (t.streamOf (0x40 + c.val)).outstanding = (s.streamOf (0x40 + c.val)).outstanding ++ [o] ∧ o.records = k) ∧
  (∀ (s : State) (x : Byte) (d : HostAddr), s.isUp → (s.streamOf x.toNat).outstanding ≠ [] → s.sct.lastSource = some d →
    (s.outPorts d.port).any s.linkUp = true →
    completes (.streamRetransmit x) s [.free, .regs, .eth, .sct] fun t => sameRegsBut sendRegs s t
      ∧ (t.streamOf x.toNat).lastSent = s.now ∧ (t.streamOf x.toNat).nextEsn = (s.streamOf x.toNat).nextEsn
      ∧ (t.streamOf x.toNat).outstanding.map (fun o => (o.esn, o.records, o.frame.payload))
          = (s.streamOf x.toNat).outstanding.map (fun o => (o.esn, o.records, o.frame.payload))) ∧
  (∀ (s : State) (x : Byte), s.isUp → (s.streamOf x.toNat).outstanding = [] → exec (.streamRetransmit x) s = .next s)

/-- R321: a link that comes up shows its speed, one that goes down shows nothing, and a half-duplex partner keeps a negotiated link
down. R324: a gate interval moves to the next entry of the list, a new list takes effect at a cycle start, and a frame waits
behind an open gate only for the cap of its queue; a recovery timeout drops its stream's history. R326: Shothen answers an ARP request or a neighbour solicitation for
its own address, and no other. -/
def Obligations.LinksGatesAndNeighbours : Prop :=
  (∀ (s : State) (p : Fin 2) (up half : Bool) (speed : Fin 4), s.isUp → s.bit R.ETH_CTRL [p.val] 0 = true →
    completes (.ethLinkChange p up speed half) s [.free, .regs, .eth, .sct] fun t =>
      sameRegsBut (regAddr R.ETH_STATUS [p.val] :: sendRegs) s t
      ∧ (up = false → t.rd R.ETH_STATUS [p.val] = 0)
      ∧ (up = true → half = true → s.fld R.ETH_CTRL [p.val] 2 1 % 2 = 0 → t.rd R.ETH_STATUS [p.val] = 0x10)
      ∧ (up = true → (half = false ∨ s.fld R.ETH_CTRL [p.val] 2 1 % 2 = 1) →
          t.bit R.ETH_STATUS [p.val] 0 = true ∧ t.bit R.ETH_STATUS [p.val] 4 = false
          ∧ t.fld R.ETH_STATUS [p.val] 2 1 = linkSpeed (s.fld R.ETH_CTRL [p.val] 2 1) speed.val)) ∧
  (∀ (s : State) (p : Fin 2), s.isUp → s.bit R.ETH_TSN_CTRL [p.val] 0 = true →
    completes (.gateControlInterval p) s [.regs, .eth] fun t => sameRegsBut [regAddr R.ETH_CNT_TX [p.val]] s t
      ∧ (vecGet s.eth.gateEntry p.val 0 + 1 < (vecGet s.eth.gcl p.val []).length →
          vecGet t.eth.gateEntry p.val 0 = vecGet s.eth.gateEntry p.val 0 + 1
          ∧ vecGet t.eth.gcl p.val [] = vecGet s.eth.gcl p.val [] ∧ t.eth.newList = s.eth.newList)
      ∧ ((vecGet s.eth.gcl p.val []).length ≤ vecGet s.eth.gateEntry p.val 0 + 1 →
          vecGet t.eth.gateEntry p.val 0 = 0 ∧ vecGet t.eth.newList p.val false = false
          ∧ (vecGet s.eth.newList p.val false = true → vecGet t.eth.gcl p.val [] = s.gclOf p.val))
      ∧ (∀ g, (vecGet t.eth.gcl p.val [])[vecGet t.eth.gateEntry p.val 0]? = some g → vecGet t.eth.gates p.val 0 = g.1)
      ∧ (∀ x ∈ t.eth.queued, x.1 = p.val → x.2.1 < 8 → natBit (vecGet t.eth.gates p.val 0xFF) x.2.1 = false
          ∨ ∃ y ∈ t.eth.queued, y.1 = p.val ∧ y.2.1 = x.2.1 ∧ t.overCap p.val y.2.2.pcp = true)) ∧
  (∀ (s : State) (r : Fin 16), s.isUp → completes (.frerResetTimeout r) s [.eth] fun t =>
    (∀ x ∈ t.eth.recovery, x.ident ≠ r.val) ∧ (∀ x ∈ s.eth.recovery, x.ident ≠ r.val → x ∈ t.eth.recovery)
      ∧ t.eth = { s.eth with recovery := t.eth.recovery }) ∧
  (∀ (s : State) (p : Fin 2) (sender : BitVec 48) (senderIp target : BitVec 32), s.isUp → s.linkUp p.val = true →
    s.bit R.SCT_CTRL [] 2 = true → target ≠ 0 → target = s.rd R.SCT_IP4 [] → s.destListed p.val sender = true →
    s.gateOpen p.val (s.txQueue p.val (s.fld R.SCT_VLAN [] 15 13)) = true →
    s.queuedIn p.val (s.txQueue p.val (s.fld R.SCT_VLAN [] 15 13)) = 0 → s.overCap p.val (s.fld R.SCT_VLAN [] 15 13) = false →
    completes (.arpRequest p sender senderIp target) s [.regs, .eth] fun t =>
      sameRegsBut [regAddr R.ETH_CNT_TX [p.val], regAddr R.ETH_CNT_RX [p.val]] s t
      ∧ ∃ f, t.eth = { s.eth with tx := s.eth.tx ++ [f], capUntil := t.eth.capUntil } ∧ f.kind = .arpReply ∧ f.ports = [p.val] ∧ f.dst.mac = sender
          ∧ sliceBytes f.payload 6 2 = beBytes 2 2 ∧ sliceBytes f.payload 8 6 = beBytes 6 (s.macOf p.val)
          ∧ sliceBytes f.payload 14 4 = beBytes 4 target.toNat) ∧
  (∀ (s : State) (p : Fin 2) (sender : BitVec 48) (senderIp target : BitVec 32), s.isUp → target ≠ s.rd R.SCT_IP4 [] →
    completes (.arpRequest p sender senderIp target) s [.regs] fun t => sameRegsBut [regAddr R.ETH_CNT_RX [p.val]] s t
      ∧ (s.linkUp p.val = true → counted32 R.ETH_CNT_RX [p.val] s t)) ∧
  (∀ (s : State) (p : Fin 2) (sender : BitVec 48) (senderIp target : BitVec 128), s.isUp → s.linkUp p.val = true →
    s.bit R.SCT_CTRL [] 2 = true → target ≠ 0 → target.toNat = s.ip6 → s.destListed p.val sender = true →
    s.gateOpen p.val (s.txQueue p.val (s.fld R.SCT_VLAN [] 15 13)) = true →
    s.queuedIn p.val (s.txQueue p.val (s.fld R.SCT_VLAN [] 15 13)) = 0 → s.overCap p.val (s.fld R.SCT_VLAN [] 15 13) = false →
    completes (.neighborSolicitation p sender senderIp target) s [.regs, .eth] fun t =>
      sameRegsBut [regAddr R.ETH_CNT_TX [p.val], regAddr R.ETH_CNT_RX [p.val]] s t
      ∧ ∃ f, t.eth = { s.eth with tx := s.eth.tx ++ [f], capUntil := t.eth.capUntil } ∧ f.kind = .neighborAdvert ∧ f.ports = [p.val] ∧ f.dst.mac = sender
          ∧ f.payload.getD 0 0 = 136 ∧ sliceBytes f.payload 26 6 = beBytes 6 (s.macOf p.val)) ∧
  (∀ (s : State) (p : Fin 2) (sender : BitVec 48) (senderIp target : BitVec 128), s.isUp → target.toNat ≠ s.ip6 →
    completes (.neighborSolicitation p sender senderIp target) s [.regs] fun t => sameRegsBut [regAddr R.ETH_CNT_RX [p.val]] s t
      ∧ (s.linkUp p.val = true → counted32 R.ETH_CNT_RX [p.val] s t))

/-- R346, R347: a Sync of the selected domain on a port that is up makes gPTP valid; while gPTP is the reference the servo takes its
offset: one within the step threshold slews and leaves TIMEBASE where it is, a greater one steps TIMEBASE by itself, and while a step is
blocked (R348) it is counted as deferred. A PPS_IN edge of the selected polarity is noted, and, while PPS_IN is the reference, gives the
distance from the nearest second plus TIM_PPS_OFS. -/
def Obligations.ServoTakesOffsets : Prop :=
  (∀ (s : State) (p : Fin 2) (o : Int), s.isLive → s.bit R.TIM_CTRL [] 4 = false → s.linkUp p.val = true → s.timSrc = 1 →
    s.bit R.TIM_STATUS [] 1 = false → o.natAbs ≤ (s.rd R.TIM_STEP_THR []).toNat →
    completes (.gptpSync p false o) s [.free, .regs, .tim] fun t =>
      t.bit R.TIM_STATUS [] 3 = true ∧ t.rd R.TIM_OFFSET [] = satWord o ∧ t.tim.base = s.tim.base
      ∧ t.tim.lastOffset = some s.now ∧ t.tim.slavePort = some p.val
      ∧ -s.slewMax ≤ t.tim.a ∧ t.tim.a ≤ s.slewMax) ∧
  (∀ (s : State) (p : Fin 2) (o : Int), s.isLive → s.bit R.TIM_CTRL [] 4 = false → s.linkUp p.val = true → s.timSrc = 1 →
    s.bit R.TIM_STATUS [] 1 = false → (s.rd R.TIM_STEP_THR []).toNat < o.natAbs → s.bit R.TIM_CTRL [] 2 = false →
    s.stepBlocked = false → (∀ k, k < 4 → (s.lch k).running = false) →
    completes (.gptpSync p false o) s [.free, .regs, .tim, .cap, .sct] fun t =>
      t.tim.base = s.tim.base + BitVec.ofInt 96 (o * 2 ^ 32) ∧ counted R.TIM_CNT_STEP [] s t ∧ t.bit R.TIM_STATUS [] 0 = false) ∧
  (∀ (s : State) (p : Fin 2) (o : Int), s.isLive → s.bit R.TIM_CTRL [] 4 = false → s.linkUp p.val = true → s.timSrc = 1 →
    s.bit R.TIM_STATUS [] 1 = false → (s.rd R.TIM_STEP_THR []).toNat < o.natAbs → s.bit R.TIM_CTRL [] 2 = false →
    s.stepBlocked = true →
    completes (.gptpSync p false o) s [.free, .regs, .tim, .sct] fun t =>
      t.tim.base = s.tim.base ∧ counted R.TIM_CNT_DEFER [] s t ∧ t.bit R.TIM_STATUS [] 4 = true) ∧
  (∀ (s : State) (rising : Bool), s.isUp → rising ≠ s.bit R.TIM_CTRL [] 3 → s.timSrc < 2 →
    completes (.ppsInEdge rising) s [.regs, .tim] fun t =>
      t.tim.ppsLast = some s.now ∧ t.rd R.TIM_PPS_LAST_LO [] = BitVec.ofNat 32 s.now
      ∧ t.rd R.TIM_PPS_LAST_HI [] = BitVec.ofNat 32 (s.now / 2 ^ 32) ∧ t.tim.base = s.tim.base) ∧
  (∀ (s : State) (rising : Bool), s.isLive → rising ≠ s.bit R.TIM_CTRL [] 3 → s.timSrc = 3 → s.bit R.TIM_STATUS [] 2 = true →
    s.bit R.TIM_STATUS [] 1 = false →
    ((s.now : Int) - (s.rd R.TIM_PPS_OFS []).toNat) % 1000000000 < 500000000 →
    ((s.now : Int) - (s.rd R.TIM_PPS_OFS []).toNat) % 1000000000 ≤ (s.rd R.TIM_STEP_THR []).toNat →
    completes (.ppsInEdge rising) s [.free, .regs, .tim] fun t =>
      t.rd R.TIM_OFFSET [] = satWord (-(((s.now : Int) - (s.rd R.TIM_PPS_OFS []).toNat) % 1000000000))
      ∧ t.tim.lastOffset = some s.now ∧ t.tim.base = s.tim.base) ∧
  (∀ (s : State) (rising : Bool), rising = s.bit R.TIM_CTRL [] 3 → exec (.ppsInEdge rising) s = .next s)

/-- R346, R349: a source that is lost is invalid, and holdover follows where it was the reference: the rate is held, holdover shows, lock is
gone, and it is counted. R348: a host step moves TIMEBASE by the value, or to it, and is ignored and noted while a step is blocked.
A source that is there gives its offset or its edge (R346, R347). R350: an instant of a channel starts the tasks that it can, which are the channel's, or is skipped and counted while a task of an earlier
launch has not completed; the channel goes on to its next instant. -/
def Obligations.SourcesAreLostAndHostSteps : Prop :=
  (∀ (s : State), s.isUp → s.bit R.TIM_STATUS [] 2 = true → s.timSrc = 3 → s.bit R.TIM_STATUS [] 1 = false →
    completes .ppsLoss s [.free, .regs, .tim, .sct] fun t =>
      t.bit R.TIM_STATUS [] 2 = false ∧ t.bit R.TIM_STATUS [] 1 = true ∧ t.bit R.TIM_STATUS [] 0 = false
      ∧ t.tim.a = s.tim.fi ∧ counted R.TIM_CNT_HOLD [] s t) ∧
  (∀ (s : State), s.isUp → s.bit R.TIM_STATUS [] 2 = true → s.timSrc < 2 →
    completes .ppsLoss s [.free, .regs, .tim, .sct] fun t =>
      t.bit R.TIM_STATUS [] 2 = false ∧ t.bit R.TIM_STATUS [] 1 = s.bit R.TIM_STATUS [] 1 ∧ t.tim.a = s.tim.a) ∧
  (∀ (s : State), s.isUp → s.bit R.TIM_STATUS [] 3 = true → s.timSrc = 1 → s.bit R.TIM_STATUS [] 1 = false →
    completes .syncReceiptTimeout s [.free, .regs, .tim, .sct] fun t =>
      t.bit R.TIM_STATUS [] 3 = false ∧ t.tim.slavePort = none ∧ t.bit R.TIM_STATUS [] 1 = true ∧ t.tim.a = s.tim.fi
      ∧ counted R.TIM_CNT_HOLD [] s t) ∧
  (∀ (s : State), s.isUp → s.timSrc ≠ 0 → s.bit R.TIM_STATUS [] 1 = false →
    completes .holdoverTimeout s [.free, .regs, .tim, .sct] fun t =>
      t.bit R.TIM_STATUS [] 1 = true ∧ t.tim.a = s.tim.fi ∧ counted R.TIM_CNT_HOLD [] s t) ∧
  (∀ (s : State) (v : Word), s.isUp → s.stepBlocked = true →
    (completes (.timAdj v) s [.regs] fun t => t.bit R.TIM_STATUS [] 5 = true ∧ sameRegsBut [regAddr R.TIM_STATUS []] s t) ∧
    (completes (.timSet v) s [.regs] fun t => t.bit R.TIM_STATUS [] 5 = true ∧ sameRegsBut [regAddr R.TIM_STATUS []] s t)) ∧
  (∀ (s : State) (v : Word), s.isUp → s.stepBlocked = false → (∀ k, k < 4 → (s.lch k).running = false) →
    (completes (.timAdj v) s [.free, .regs, .tim, .cap, .sct] fun t =>
      t.tim.base = s.tim.base + BitVec.ofInt 96 (v.toInt * 2 ^ 32) ∧ counted R.TIM_CNT_STEP [] s t) ∧
    (completes (.timSet v) s [.free, .regs, .tim, .cap, .sct] fun t =>
      t.now = s.tim.setLo.toNat + 2 ^ 32 * v.toNat ∧ counted R.TIM_CNT_STEP [] s t)) ∧
  (∀ (s : State) (k : Fin 4), s.isLive → (s.lch k.val).running = true → (s.lch k.val).done = false →
    (∃ u ∈ (s.lch k.val).tasks, ∃ t ∈ s.sch.tasks, t.holds u.1 u.2 = true) →
    completes (.launchInstant k) s [.free, .regs, .tim, .sct] fun t =>
      counted R.TIM_LCH_SKIP [k.val] s t
      ∧ (t.lch k.val).next = (s.lch k.val).next + (s.lch k.val).period ∧ (t.lch k.val).done = ((s.lch k.val).period == 0)) ∧
  (∀ (s : State) (k : Fin 4), s.isLive → (s.lch k.val).running = true → (s.lch k.val).done = false →
    (∀ u ∈ (s.lch k.val).tasks, ∀ t ∈ s.sch.tasks, t.holds u.1 u.2 = false) →
    ∃ t, exec (.launchInstant k) s = .next t ∧ t.pending = s.pending ∧ t.dev = s.dev
    ∧ (t.lch k.val).next = (s.lch k.val).next + (s.lch k.val).period ∧ (t.lch k.val).done = ((s.lch k.val).period == 0)
    ∧ (t.lch k.val).tasks =
        ((t.sch.tasks.filter fun u => u.part == s.lchPart k.val && u.started).map fun u => (u.qid, u.entry.seq)).filter
          fun u => !((s.sch.tasks.filter (·.started)).map fun v => (v.qid, v.entry.seq)).contains u) ∧
  (∀ (s : State) (k : Fin 4), ((s.lch k.val).running = false ∨ (s.lch k.val).done = true) →
    exec (.launchInstant k) s = .next s) ∧
  (∀ (s : State) (p : Fin 2) (o : Int), s.isLive → s.bit R.TIM_CTRL [] 4 = false → s.linkUp p.val = true → s.timSrc = 1 →
    s.bit R.TIM_STATUS [] 1 = false → o.natAbs ≤ (s.rd R.TIM_STEP_THR []).toNat →
    ∃ t, exec (.gptpSync p false o) s = .next t ∧ t.bit R.TIM_STATUS [] 3 = true ∧ t.rd R.TIM_OFFSET [] = satWord o) ∧
  (∀ (s : State) (rising : Bool), s.isUp → rising ≠ s.bit R.TIM_CTRL [] 3 → s.timSrc < 2 →
    ∃ t, exec (.ppsInEdge rising) s = .next t ∧ t.tim.ppsLast = some s.now)

/-- R356: a corrected error is counted for its kind and for its class, and loses nothing. R357: the scrubber counts a corrected
block, and poisons an uncorrectable one. An uncorrectable DRAM read by other than a task is counted and recorded. R359: a model
hit in its cool box share is non-resident and is reloaded. R363: a ring that becomes set receives every held record. -/
def Obligations.CorrectedAndScrubbedErrors : Prop :=
  (∀ (s : State) (kind : CorrectedKind) (unit : BitVec 16) (loc : Option (BitVec 48)), s.isLive →
    completes (.correctedError kind unit loc) s [.free, .regs, .mem, .sct, .err] fun t =>
      counted R.ERR_CNT_CORR [] s t ∧
      match kind with
      | .dramEcc st => counted R.ERR_CNT_DRAMCE [st.val] s t
      | .linkEcc st => counted R.ERR_CNT_DRAMCE [st.val] s t
      | .scratchpad => counted R.ERR_CNT_SCRCE [] s t
      | .coreMemory d k j => counted R.ERR_CNT_SCRCE [] s t ∧ counted R.CORE_CNT_MEMCE [d.val, k.val, j.val] s t) ∧
  (∀ (s : State) (a : BitVec 48) (found : ScrubResult), s.isLive →
    placeOf s.dev.assembly (protBase s.dev.assembly a.toNat) = .dram →
    completes (.patrolScrub a found) s [.free, .regs, .mem, .sct, .err, .pwr] fun t =>
      match found with
      | .clean => t.err = s.err ∧ t.mem = s.mem
      | .correctable => counted R.ERR_CNT_CORR [] s t
          ∧ counted R.ERR_CNT_DRAMCE [s.stackOf (protBase s.dev.assembly a.toNat)] s t
      | .uncorrectable => counted R.ERR_CNT_CORR [] s t ∧ protBase s.dev.assembly a.toNat ∈ t.err.bad) ∧
  (∀ (s : State) (a : BitVec 48), s.isLive → placeOf s.dev.assembly (protBase s.dev.assembly a.toNat) = .dram →
    completes (.dramUncorrectable a .sct) s [.free, .regs, .mem, .sct, .err] fun t =>
      counted R.ERR_CNT_CORR [] s t ∧ protBase s.dev.assembly a.toNat ∈ t.err.bad) ∧
  (∀ (s : State) (d : Fin 2) (k : Fin 8) (p : Fin 16) (h : BitVec 16) (m : Model), s.isLive →
    s.model p.val h.toNat = some m → m.resident = true → m.ctx < 64 → s.modelBytes m (8 * d.val + k.val) ≠ 0 →
    completes (.coolBoxError d k p h) s [.free, .regs, .mem, .sct, .err, .sch] fun t =>
      t.model p.val h.toNat = some { m with resident := false, reloading := true } ∧ counted R.ERR_CNT_CORR [] s t) ∧
  (∀ s : State, s.isUp → completes .errorRingSet s [.regs, .mem, .err] fun t =>
    (s.errRingSet = true → t.bit R.ERR_STATUS [] 9 = false
      ∧ (s.err.fill = none → t.err.fill = some s.err.held.length ∧ t.err.held = [] ∧ t.fld R.ERR_STATUS [] 8 2 = 0)
      ∧ (s.err.fill ≠ none → t.err = s.err ∧ t.mem = s.mem))
    ∧ (s.errRingSet = false → t.err.fill = none ∧ t.mem = s.mem ∧ t.bit R.ERR_STATUS [] 9 = s.bit R.ERR_CTRL [] 0))

/-- R358: a bad flit is replayed and counted; after 8 replays its module retrains, and a mesh link is device-fatal; a module that
fails retraining is retired while its pair has another. R360: the spare takes the ID of a failed core, or its logical core is absent.
R361: a cluster is withdrawn. R431: an error in hub state is device-fatal, and one in a firmware area fails its core. -/
def Obligations.LinksCoresAndClustersFail : Prop :=
  (∀ (s : State) (p : Fin 7) (m : Fin 4) (n : Fin 16), s.isLive → s.moduleWorks p.val m.val = true →
    (p.val, m.val) ∉ s.brg.retraining →
    (n.val < 8 → completes (.flitCrcError (.module p m) n) s [.free, .regs, .mem, .sct, .err] fun t =>
      counted R.ERR_CNT_D2DRTY [p.val] s t ∧ counted R.ERR_CNT_CORR [] s t) ∧
    (8 ≤ n.val → completes (.flitCrcError (.module p m) n) s [.brg] fun t =>
      t.brg = { s.brg with retraining := s.brg.retraining ++ [(p.val, m.val)] })) ∧
  (∀ (s : State) (d : Fin 2) (r : Fin 8) (port : Fin 5) (n : Fin 16), s.isLive → d.val < s.dev.assembly.computeDies →
    n.val < 8 → completes (.flitCrcError (.mesh d r port) n) s [.free, .regs, .mem, .sct, .err] fun t =>
      counted R.ERR_CNT_MESHRTY [] s t ∧ counted R.ERR_CNT_CORR [] s t) ∧
  (∀ (s : State) (p : Fin 7) (m : Fin 4), s.isLive → s.moduleWorks p.val m.val = true → (p.val, m.val) ∈ s.brg.retraining →
    (∃ m', m' ≠ m.val ∧ s.moduleWorks p.val m' = true) →
    completes (.moduleRetrainEnd p m false) s [.free, .regs, .mem, .brg, .sct, .err] fun t =>
      t.brg.retired = s.brg.retired ++ [(p.val, m.val)] ∧ (p.val, m.val) ∉ t.brg.retraining
      ∧ counted R.ERR_CNT_CORR [] s t) ∧
  (∀ (s : State) (p : Fin 7) (m : Fin 4), s.isLive → s.moduleWorks p.val m.val = true → (p.val, m.val) ∈ s.brg.retraining →
    (s.brg.retrains.filter fun e => e.1 == p.val && e.2.1 == m.val).length < 2 →
    completes (.moduleRetrainEnd p m true) s [.free, .regs, .mem, .brg, .sct, .err] fun t =>
      t.brg.retired = s.brg.retired ∧ (p.val, m.val) ∉ t.brg.retraining ∧ counted R.ERR_CNT_CORR [] s t) ∧
  (∀ (s : State) (d : Fin 2) (r : Fin 8) (port : Fin 4), s.isLive → d.val < s.dev.assembly.computeDies →
    ∃ t, exec (.meshLinkFail d r port) s = .next t ∧ t.pending = s.pending ∧ t.dev = s.dev ∧ t.fatal = true) ∧
  (∀ (s : State) (d : Fin 2) (k : Fin 8) (j : Fin 17) (core : Nat), s.isLive → d.val < s.dev.assembly.computeDies →
    s.siteFailed d.val k.val j.val = false → s.clusterAbsent d.val k.val = false → s.brg.rambler.logical = none →
    s.logicalsAt d.val k.val j.val = [core] → (∀ t ∈ s.sch.tasks, t.started = true → ∀ x ∈ s.slotsOf t, x.core ≠ core) →
    completes (.coreFailInService d k j) s [.free, .regs, .mem, .brg, .sct, .err, .sch] fun t =>
      t.siteFailed d.val k.val j.val = true ∧ counted R.ERR_CNT_CORR [] s t
      ∧ (s.spareFree d.val k.val = true → t.lmapByte core = 16)
      ∧ (s.spareFree d.val k.val = false → t.coreAbsent core = true)) ∧
  (∀ (s : State) (d : Fin 2) (k : Fin 8), s.isLive → d.val < s.dev.assembly.computeDies →
    s.clusterAbsent d.val k.val = false →
    (∀ c, c < 16 → s.coreAbsent (128 * d.val + 16 * k.val + c) = false → ∀ i, i < 4 →
      (s.share (128 * d.val + 16 * k.val + c) i).valid = false) →
    completes (.clusterWithdraw d k) s [.free, .regs, .mem, .sct, .err, .dbg, .pwr] fun t =>
      t.clusterAbsent d.val k.val = true ∧ counted R.ERR_CNT_PFATAL [] s t ∧ t.bit R.ERR_STATUS [] 1 = true) ∧
  (∀ (s : State) (a : BitVec 48), s.isLive → placeOf s.dev.assembly (protBase s.dev.assembly a.toNat) = .hub →
    (completes (.onchipUncorrectable (.memory a) .sct) s [.free, .regs, .mem, .sct, .err] fun t =>
      counted R.ERR_CNT_CORR [] s t) ∧
    (∃ t, exec (.onchipUncorrectable (.memory a) .hub) s = .next t ∧ t.pending = s.pending ∧ t.dev = s.dev
      ∧ t.fatal = true)) ∧
  (∀ (s : State) (d : Fin 2) (k : Fin 8) (c : Fin 16) (i : Fin 4) (j : Fin 17) (r : Reader),
    s.physOf (128 * d.val + 16 * k.val + c.val) = j.val →
    exec (.onchipUncorrectable (.scratchpad d k c i true) r) s = exec (.coreFailInService d k j) s) ∧
  (∀ (s : State) (d : Fin 2) (k : Fin 8) (c : Fin 16) (i : Fin 4) (entry : Nat) (r : Reader), s.isLive →
    s.slotAt (coreId ⟨d, k, c⟩) i.val = none →
    completes (.onchipUncorrectable (.slotArray d k c i 0 entry) r) s [.sch] fun t =>
      ∃ e ∈ t.sch.rest, e.1 = s.siteAt (coreId ⟨d, k, c⟩) ∧ e.2.1 = i.val ∧ entry ∈ e.2.2.badRegs)

/-- R370: a reset of a partition starts, is counted as partition-fatal, and shows until it ends; its end leaves every context of the
partition up, its park state gone and dispatch of it possible again. R377: a request while it runs is ignored. R373: a code of class 3
brings the fatal state, which shows and alerts; R374: a device reset ends it, by a write or by its time-out. -/
def Obligations.PartitionResetAndFatalState : Prop :=
  (∀ (s : State) (p : Fin 16), s.isLive → s.fatal = false → s.partResetting p.val = false →
    (∀ t ∈ s.sch.tasks, t.part = p.val → t.started = false) → (∀ m ∈ s.sch.models, m.part = p.val → m.loading = none) →
    s.vis.chains = [] → (∀ n, n < 16 → s.bit R.CAP_V_ROUTE [n] 18 = false) → (∀ a, a < 8 → s.bit R.CAP_A_ROUTE [a] 17 = false) →
    (∀ o, o < 4 → s.bit R.SYN_QUEUE [o] 15 = false) → s.vis.waiting = [] →
    completes (.partitionReset p none) s [.free, .regs, .mem, .vis, .sct, .err, .sch, .dbg, .pwr] fun t =>
      t.partResetting p.val = true ∧ counted R.ERR_CNT_PFATAL [] s t ∧ t.bit R.ERR_STATUS [] 1 = true
      ∧ t.sch.transfers = s.sch.transfers.filter (fun h => h.part != p.val)) ∧
  (∀ (s : State) (p : Fin 16), s.partResetting p.val = true → exec (.partitionReset p none) s = .next s) ∧
  (∀ (s : State) (p : Fin 16) (c : Fin 21), s.isLive → s.fatal = false → s.partResetting p.val = true →
    (c.val = 0x0C ∨ c.val = 0x11) →
    completes (.partitionReset p (some c)) s [.free, .regs, .mem, .sct, .err, .dbg, .pwr] fun t =>
      t.partResetting p.val = true ∧ counted R.ERR_CNT_PFATAL [] s t) ∧
  (∀ (s : State) (p : Fin 16), s.isLive → s.partResetting p.val = true →
    completes (.partitionResetEnd p) s [.free, .regs, .mem, .syn, .boxes, .sct, .err, .sch, .dbg] fun t =>
      t.partResetting p.val = false ∧ (∀ e ∈ t.err.resets, e.1 ≠ p.val)
      ∧ (∀ c, c < 64 → t.ctxValid c = true → t.ctxPart c = p.val → t.ctxDown c = false)) ∧
  (∀ (s : State) (c : Fin 21) (unit : BitVec 16) (loc : Option (BitVec 64)), s.isLive → c.val ∈ fatalCodes →
    ∃ t, exec (.fatalStateEntry c unit loc) s = .next t ∧ t.pending = s.pending ∧ t.dev = s.dev ∧ t.fatal = true
    ∧ (s.fatal = false → t.err.fatalCode = c.val ∧ t.err.fatalUnit = unit.toNat ∧ t.err.fatalAt.isSome = true)) ∧
  (∀ (s : State) (c : Fin 21) (unit : BitVec 16) (loc : Option (BitVec 64)), c.val ∉ fatalCodes →
    exec (.fatalStateEntry c unit loc) s = .next s) ∧
  (∀ (s : State) (v : Word), s.isUp → bits v 31 16 = 0xD5E7 → bits v 0 0 = 1 →
    ∃ t, exec (.deviceResetRequest v) s = .next t ∧ t.dev.inReset = true ∧ t.fatal = false) ∧
  (∀ (s : State) (t0 tmo : Nat), s.isUp → s.err.fatalAt = some (t0, tmo) → s.fatal = true → s.bit R.ERR_CTRL [] 2 = true →
    t0 + tmo * 1000000 ≤ s.now → ∃ t, exec .fatalTimeout s = .next t ∧ t.dev.inReset = true ∧ t.fatal = false)


/-- R374: a write of ERR_DEVRST with its key, and the time-out of the fatal state with `auto_rst`, reset the device: the cause shows,
hub SRAM keeps its bytes, and every register but ERR_RESET_CAUSE is at its reset value. R423: so does RESET_N, and R424 the loss of
REFCLK. What DRAM holds afterwards, the spec leaves undefined; the model's choice is log 3. -/
def Obligations.DeviceResetLeavesOnlyWhatSurvives : Prop :=
  (∀ (s : State) (v : Word), s.isUp → bits v 31 16 = 0xD5E7 → bits v 0 0 = 1 →
    exec (.deviceResetRequest v) s = .next (s.deviceReset 2)) ∧
  (∀ (s : State) (v : Word), s.isUp → s.dev.resetAsked = none → (bits v 31 16 ≠ 0xD5E7 ∨ bits v 0 0 ≠ 1) →
    exec (.deviceResetRequest v) s = .next s) ∧
  (∀ (s : State) (t0 tmo : Nat), s.isUp → s.err.fatalAt = some (t0, tmo) → s.fatal = true → s.bit R.ERR_CTRL [] 2 = true →
    t0 + tmo * 1000000 ≤ s.now → exec .fatalTimeout s = .next (s.deviceReset 3)) ∧
  (∀ (s : State), s.isUp → s.dev.resetAsked = none → (s.fatal = false ∨ s.bit R.ERR_CTRL [] 2 = false) →
    exec .fatalTimeout s = .next s) ∧
  (∀ s : State, s.isUp → ∃ t, exec .resetNAssert s = .next t ∧ t.dev.inReset = true ∧ t.dev.resetLow = true
    ∧ t.cfg = (s.deviceReset 1).cfg ∧ t.mem = (s.deviceReset 1).mem) ∧
  (∀ s : State, s.isUp → ∃ t, exec .refclkLoss s = .next t ∧ t.dev.inReset = true ∧ t.dev.refclkLost = true
    ∧ t.dev.resetLow = s.dev.resetLow ∧ t.cfg = (s.deviceReset 1).cfg ∧ t.mem = (s.deviceReset 1).mem) ∧
  (∀ (s : State) (cause : Nat), cause < 5 → s.err.fatalCode < 256 →
    let t := s.deviceReset cause
    t.dev.inReset = true ∧ t.fld R.ERR_RESET_CAUSE [] 2 0 = cause ∧ t.fld R.ERR_RESET_CAUSE [] 15 8 = s.err.fatalCode
    ∧ t.bit R.ERR_RESET_CAUSE [] 16 = s.fatal
    ∧ (∀ (r : Reg) (ix : List Nat), regAddr r ix ≠ regAddr R.ERR_RESET_CAUSE [] → t.rd r ix = r.reset ix)
    ∧ (∀ a, hubBase ≤ a → a < hubBase + hubSize → t.byte a = s.byte a)
    ∧ t.pending = s.pending ∧ t.dev.assembly = s.dev.assembly ∧ t.pwr.tripped = s.pwr.tripped ∧ t.eth.tx = s.eth.tx)

/-- R300, R422: RESET_N rises and the device leaves reset, with the straps latched, unless REFCLK is lost (R424); a hub array that
cannot be repaired in a vital block ends bring-up there. When REFCLK returns the device leaves reset unless RESET_N is low. R426: the
JTAG port serves the mandatory instructions and IDCODE. -/
def Obligations.ResetReleaseStartsBringUp : Prop :=
  (∀ (s : State) (straps : Byte), s.dev.inReset = true → s.dev.refclkLost = false → s.dev.resetAsked = none →
    s.brg.hubBad = false →
    ∃ t, exec (.resetRelease straps []) s = .next t ∧ changesOnly [.free, .regs, .dev, .sct, .sec] s t
    ∧ t.dev.inReset = false ∧ t.dev.resetLow = false ∧ t.fld R.BRG_STRAP [] 5 0 = straps.toNat % 64
    ∧ t.bit R.BRG_READY [] 0 = true ∧ t.bit R.BRG_READY [] 1 = true ∧ t.bit R.BRG_READY [] 2 = true
    ∧ t.rd R.BRG_ID [] = s.dev.assembly.id
    ∧ t.fld R.ETH_CTRL [straps.toNat % 2] 2 1 = straps.toNat % 8 / 2 ∧ t.bit R.ETH_CTRL [straps.toNat % 2] 0 = true) ∧
  (∀ (s : State) (straps : Byte) (faults : List HubFault), s.dev.inReset = true → s.dev.refclkLost = true →
    exec (.resetRelease straps faults) s = .next (s.withDev { s.dev with resetLow := false })) ∧
  (∀ (s : State) (straps : Byte) (faults : List HubFault), s.isUp → exec (.resetRelease straps faults) s = .next s) ∧
  (∀ (s : State) (straps : Byte), s.dev.refclkLost = true → s.dev.resetLow = false → s.dev.resetAsked = none →
    s.brg.hubBad = false →
    ∃ t, exec (.refclkReturn straps []) s = .next t ∧ changesOnly [.free, .regs, .dev, .sct, .sec] s t
    ∧ t.dev.inReset = false ∧ t.dev.refclkLost = false ∧ t.fld R.BRG_STRAP [] 5 0 = straps.toNat % 64
    ∧ t.bit R.BRG_READY [] 0 = true) ∧
  (∀ (s : State) (straps : Byte) (faults : List HubFault), s.dev.refclkLost = true → s.dev.resetLow = true →
    exec (.refclkReturn straps faults) s = .next (s.withDev { s.dev with refclkLost := false })) ∧
  (∀ (s : State) (i : JtagInstr), s.isUp → completes (.jtagInstruction i) s [.free, .dbg] fun t =>
    match i with
    | .bypass => t.dbg.jtag = 0 ∧ t.dbg.jtagData = 0
    | .idcode => t.dbg.jtag = 1 ∧ t.dbg.jtagData = 0x158400B5
    | .sample => t.dbg.jtag = 2 ∧ t.dbg.jtagData = s.drawn 32
    | .extest => t.dbg.jtag = 3 ∧ t.dbg.jtagData = s.drawn 32
    | .scan _ _ => t.dbg.jtag = if s.scope 2 && s.stopped then 4 else 0)

/-- R379: after SEAL, a write of DBG_TOKEN_HI submits the token at the address, with the nonce of that moment; while a verification
runs, or before SEAL, it fails with code 0x8. The end of a verification shows its code; a token that passes adds its scopes and
contexts, and one that fails adds nothing. R380: a lock withdraws every grant, disarms every breakpoint, disables sampling and
tracing, and leaves no slot halted. -/
def Obligations.DebugUnlockAndLock : Prop :=
  (∀ (s : State) (v : Word), s.isUp → s.sealed = true → s.bit R.DBG_UNLOCK [] 3 = false →
    ∃ t, exec (.unlockSubmit v) s = .next t
    ∧ changesOnly [.regs, .dbg] s t ∧ sameRegsBut [regAddr R.DBG_UNLOCK []] s t ∧ t.bit R.DBG_UNLOCK [] 3 = true
    ∧ t.fld R.DBG_UNLOCK [] 2 0 = s.fld R.DBG_UNLOCK [] 2 0
    ∧ t.dbg.token = some (s.dbg.tokenLo.toNat + 2 ^ 32 * bits v 15 0)
    ∧ t.dbg.tokenNonce = (rangeFrom 0 4).map fun i => s.rd R.DBG_NONCE [i]) ∧
  (∀ (s : State) (v : Word), s.isUp → (s.sealed = false ∨ s.bit R.DBG_UNLOCK [] 3 = true) →
    ∃ t, exec (.unlockSubmit v) s = .next t
    ∧ changesOnly [.free, .regs, .sct] s t ∧ t.fld R.DBG_UNLOCK [] 11 8 = 8
    ∧ t.fld R.DBG_UNLOCK [] 3 0 = s.fld R.DBG_UNLOCK [] 3 0) ∧
  (∀ (s : State) (a : Nat), s.isUp → s.dbg.token = some a →
    ∃ t, exec .unlockEnd s = .next t ∧ changesOnly [.free, .regs, .sct, .dbg] s t
    ∧ t.dbg.token = none ∧ t.bit R.DBG_UNLOCK [] 3 = false
    ∧ t.fld R.DBG_UNLOCK [] 11 8 = s.tokenCode a (s.bytes a 448)
    ∧ (s.tokenCode a (s.bytes a 448) = 0 →
        (∀ i, i < 3 → t.scope i = (s.scope i || natBit (leAt (s.bytes a 448) 4 1) i))
        ∧ t.rd R.DBG_UNLOCK_CTX_LO [] = s.rd R.DBG_UNLOCK_CTX_LO [] ||| BitVec.ofNat 32 (leAt (s.bytes a 448) 8 4)
        ∧ t.rd R.DBG_UNLOCK_CTX_HI [] = s.rd R.DBG_UNLOCK_CTX_HI [] ||| BitVec.ofNat 32 (leAt (s.bytes a 448) 12 4))
    ∧ (s.tokenCode a (s.bytes a 448) ≠ 0 →
        (∀ i, i < 3 → t.scope i = s.scope i)
        ∧ t.rd R.DBG_UNLOCK_CTX_LO [] = s.rd R.DBG_UNLOCK_CTX_LO []
        ∧ t.rd R.DBG_UNLOCK_CTX_HI [] = s.rd R.DBG_UNLOCK_CTX_HI [])) ∧
  (∀ s : State, s.isLive → s.numbered → ∃ t, exec .debugLock s = .next t ∧ changesOnly [.regs, .mem, .boxes, .err, .sch, .dbg] s t
    ∧ t.fld R.DBG_UNLOCK [] 2 0 = 0 ∧ t.rd R.DBG_UNLOCK_CTX_LO [] = 0 ∧ t.rd R.DBG_UNLOCK_CTX_HI [] = 0
    ∧ (∀ b, b < 16 → t.bit R.DBG_BP_CTRL [b] 0 = false)
    ∧ (∀ n, n < 4 → t.bit R.DBG_PCS_CFG [n] 0 = false) ∧ (∀ r, r < 2 → t.bit R.TRC_RING_CFG [r] 0 = false)
    ∧ (∀ x ∈ t.sch.slots, x.halted = false)) ∧
  (∀ s : State, s.isUp → s.stopped = true → exec .debugLock s = .next s)

/-- R384: a breakpoint unit is armed for a granted context outside static-schedule partitions, and refused otherwise; an EBREAK
halts only a granted context's slot. R385: a hit halts the slot before the instruction, with its pc. R386: a halted slot of a
granted context resumes, or resumes for one instruction. -/
def Obligations.BreakpointsHaltAndResume : Prop :=
  (∀ (s : State) (b : Fin 16) (v : Word), s.isUp → bits v 0 0 = 1 → ∃ t, exec (.breakpointArm b v) s = .next t
    ∧ changesOnly [.regs] s t ∧ sameRegsBut [regAddr R.DBG_BP_CTRL [b.val]] s t
    ∧ (s.ctxGranted (bits v 6 1) = true → s.isStatic (s.ctxPart (bits v 6 1)) = false →
        t.rd R.DBG_BP_CTRL [b.val] = v &&& 0x1FF)
    ∧ ((s.ctxGranted (bits v 6 1) = false ∨ s.isStatic (s.ctxPart (bits v 6 1)) = true) →
        t.bit R.DBG_BP_CTRL [b.val] 0 = false ∧ t.bit R.DBG_BP_CTRL [b.val] 9 = true)) ∧
  (∀ (s : State) (n : SlotName) (pc : Word) (x : Slot) (b : Nat), s.isLive → s.slotNamed n = some x → b < 16 →
    s.bpMatches x pc b = true → ∃ t, exec (.breakpointHit n pc) s = .next t
    ∧ changesOnly [.free, .regs, .mem, .boxes, .sct, .err, .sch, .dbg, .pwr] s t
    ∧ ∃ y, t.slotOfName n = some y ∧ y.halted = true ∧ y.image = { x.image with pc := pc, dma := y.image.dma }) ∧
  (∀ (s : State) (n : SlotName) (pc : Word) (x : Slot), s.isLive → s.slotNamed n = some x →
    (∀ b, b < 16 → s.bpMatches x pc b = false) → x.stepping = false →
    exec (.breakpointHit n pc) s = .next (s.putSlot { x with image := { x.image with pc := pc } })) ∧
  (∀ (s : State) (n : SlotName) (pc : Word) (x : Slot), s.isLive → s.slotNamed n = some x →
    s.ctxGranted (x.qid / 256) = true → ∃ t, exec (.ebreak n pc) s = .next t
    ∧ changesOnly [.free, .regs, .mem, .boxes, .sct, .err, .sch, .dbg] s t
    ∧ ∃ y, t.slotOfName n = some y ∧ y.halted = true ∧ y.image = { x.image with pc := pc, dma := y.image.dma }) ∧
  (∀ (s : State) (n : SlotName) (pc : Word) (x : Slot), s.isLive → s.slotNamed n = some x →
    s.ctxGranted (x.qid / 256) = false → x.stepping = false →
    exec (.ebreak n pc) s = .next (s.putSlot { x with image := { x.image with pc := pc } })) ∧
  (∀ (s : State) (n : SlotName) (all : Bool) (x : Slot), s.isLive → s.slotOfName n = some x → x.halted = true →
    s.ctxGranted (x.qid / 256) = true →
    (∃ t, exec (.debugResume n all) s = .next t ∧ changesOnly [.regs, .mem, .boxes, .err, .sch, .dbg] s t
      ∧ ∃ y, t.slotOfName n = some y ∧ y.halted = false ∧ y.stepping = false) ∧
    (∃ t, exec (.debugStep n all) s = .next t ∧ changesOnly [.regs, .mem, .boxes, .err, .sch, .dbg] s t
      ∧ ∃ y, t.slotOfName n = some y ∧ y.halted = false ∧ y.stepping = true))

/-- R389: with the service scope and POLICY [1], each of the three triggers stops the device: the status shows the cause, and
every stack is in self-refresh; without them nothing happens. R391: `release` lets every clock run again. R390: a read of the
scan data takes the chain's next 32 bits. -/
def Obligations.GlobalStopAndScan : Prop :=
  (∀ (s : State) (cause : StopCause), s.isLive → s.stopAllowed = true →
    (match cause with
      | .write v => bits v 0 0 = 1 ∧ bits v 31 16 = 0x5709
      | .breakpoint => True
      | .error => s.bit R.DBG_STOP_CFG [] 0 = true) →
    ∃ t, exec (.globalStop cause) s = .next t ∧ changesOnly [.free, .regs, .sct, .dbg, .pwr] s t ∧ t.stopped = true
    ∧ t.fld R.DBG_STOP_STATUS [] 2 1 = (match cause with | .write _ => 1 | .breakpoint => 2 | .error => 3)
    ∧ t.dbg.stoppedAt = s.now ∧ ∀ st, st < s.dev.assembly.stacks → (t.srSince st).isSome = true) ∧
  (∀ (s : State) (cause : StopCause), s.isLive → s.stopAllowed = false → exec (.globalStop cause) s = .next s) ∧
  (∀ (s : State) (v : Word), s.isUp → s.stopped = true → bits v 1 1 = 1 →
    ∃ t, exec (.globalStopRelease v) s = .next t
    ∧ changesOnly [.free, .regs, .mem, .tim, .syn, .boxes, .passes, .vis, .cap, .brg, .sct, .err, .sch, .dbg] s t
    ∧ t.stopped = false) ∧
  (∀ s : State, s.isUp → s.scope 2 = true → s.stopped = true → ∃ t, exec .scanDataRead s = .next t
    ∧ changesOnly [.free, .regs, .dbg] s t ∧ sameRegsBut [regAddr R.DBG_SCAN_DATA []] s t
    ∧ t.rd R.DBG_SCAN_DATA [] = s.drawn 32 ∧ t.dbg = { s.dbg with scanned := s.dbg.scanned + 32 }) ∧
  (∀ s : State, s.isUp → (s.scope 2 = false ∨ s.stopped = false) → exec .scanDataRead s = .next s)

/-- R382: with the global scope, a snapshot latches all 32 counters at one instant; a sample tick latches them too; a counter that
passes its top shows it. R383: a sample of a granted, enabled channel goes to the ring's next place. R388: with the global scope, a
ring in populated memory is enabled, and another is disabled. -/
def Obligations.CountersSamplesAndTrace : Prop :=
  (∀ (s : State) (v : Word), s.isLive → s.scope 1 = true → ∃ t, exec (.pmcSnap v) s = .next t ∧ changesOnly [.regs] s t
    ∧ t.rd R.PMC_CTRL [] = v &&& 1
    ∧ (bits v 1 1 = 1 → (∀ i, i < 32 → t.rd R.PMC_SNAP [i] = s.rd R.PMC_CNT [i])
        ∧ t.rd R.PMC_SNAP_TIME_LO [] = BitVec.ofNat 32 s.now)
    ∧ (bits v 1 1 = 0 → sameRegsBut [regAddr R.PMC_CTRL []] s t)) ∧
  (∀ s : State, s.isLive → s.fld R.PMC_SAMPLE [] 23 0 ≠ 0 → ∃ t, exec .pmcSampleTick s = .next t
    ∧ changesOnly [.regs, .mem, .err, .dbg] s t ∧ ∀ i, i < 32 → t.rd R.PMC_SNAP [i] = s.rd R.PMC_CNT [i]) ∧
  (∀ (s : State) (i : Fin 32), s.isLive → s.bit R.PMC_CTRL [] 0 = true → ∃ t, exec (.pmcCounterWrap i) s = .next t
    ∧ changesOnly [.free, .regs, .sct] s t
    ∧ sameRegsBut ([regAddr R.PMC_CNT [i.val], regAddr R.PMC_OVF []] ++ eventRegs) s t
    ∧ t.rd R.PMC_CNT [i.val] = 0 ∧ t.bit R.PMC_OVF [] i.val = true) ∧
  (∀ (s : State) (c : CoreName) (n : Fin 4) (pc : Word) (stall : Fin 16) (x : Slot), s.isLive →
    (s.coreRuns (coreId c)).bind (s.slotAt (coreId c)) = some x → s.bit R.DBG_PCS_CFG [n.val] 0 = true →
    s.bit R.DBG_POLICY [] 2 = true → x.qid / 256 = s.fld R.DBG_PCS_CFG [n.val] 6 1 → s.ctxGranted (x.qid / 256) = true →
    s.accessOk (x.qid / 256) (s.rdAddr R.DBG_PCS_RING_LO R.DBG_PCS_RING_HI [n.val])
      (16 * 2 ^ s.fld R.DBG_PCS_SIZE [n.val] 4 0) true = true →
    s.writeError (s.rdAddr R.DBG_PCS_RING_LO R.DBG_PCS_RING_HI [n.val]
      + 16 * ((s.rd R.DBG_PCS_WR [n.val]).toNat % 2 ^ s.fld R.DBG_PCS_SIZE [n.val] 4 0)) 16 = none →
    ∃ t, exec (.pcSample c n pc stall) s = .next t
    ∧ changesOnly [.regs, .mem, .err, .dbg] s t
    ∧ t.rd R.DBG_PCS_WR [n.val] = s.rd R.DBG_PCS_WR [n.val] + 1
    ∧ t.le (s.rdAddr R.DBG_PCS_RING_LO R.DBG_PCS_RING_HI [n.val]
        + 16 * ((s.rd R.DBG_PCS_WR [n.val]).toNat % 2 ^ s.fld R.DBG_PCS_SIZE [n.val] 4 0)) 4 = pc.toNat
    ∧ ∀ a, (a < s.rdAddr R.DBG_PCS_RING_LO R.DBG_PCS_RING_HI [n.val]
          + 16 * ((s.rd R.DBG_PCS_WR [n.val]).toNat % 2 ^ s.fld R.DBG_PCS_SIZE [n.val] 4 0)
        ∨ s.rdAddr R.DBG_PCS_RING_LO R.DBG_PCS_RING_HI [n.val]
          + 16 * ((s.rd R.DBG_PCS_WR [n.val]).toNat % 2 ^ s.fld R.DBG_PCS_SIZE [n.val] 4 0) + 16 ≤ a) → t.byte a = s.byte a) ∧
  (∀ (s : State) (r : Fin 2) (v : Word), s.isLive → s.scope 1 = true → bits v 0 0 = 1 →
    ∃ t, exec (.traceRingEnable r v) s = .next t ∧ changesOnly [.free, .regs, .sct] s t
    ∧ sameRegsBut (regAddr R.TRC_RING_CFG [r.val] :: eventRegs) s t
    ∧ t.fld R.TRC_RING_CFG [r.val] 9 1 = bits v 9 1
    ∧ t.bit R.TRC_RING_CFG [r.val] 0 =
        (within 6 22 (s.fld R.TRC_RING_SIZE [r.val] 4 0)
          && s.rdAddr R.TRC_RING_LO R.TRC_RING_HI [r.val] % 32 == 0
          && inDramOrHub s.dev.assembly (s.rdAddr R.TRC_RING_LO R.TRC_RING_HI [r.val])
            (32 * 2 ^ s.fld R.TRC_RING_SIZE [r.val] 4 0)))

/-- R399–R403: with no operation under way and its condition met, each of the four operations starts: `busy` is 1, `last_op` names
it, and it has taken its address; nothing else changes. R404, Table 18.6: an operation asked for while one runs fails with code 1; one
whose state condition is not met fails with code 2 (a commit without a pending key with code 8). A failure is counted and changes no key.
The end of an operation and a commit complete too: the engine is idle, and the pending key is the session key. -/
def Obligations.KeyEngineStartsAndRefuses : Prop :=
  (∀ s : State, s.isLive → s.sec.op = none → s.bit R.BRG_READY [] 0 = true → s.sealed = false → s.idLoaded = false →
    inHub (s.rdAddr R.SEC_ID_SRC_LO R.SEC_ID_SRC_HI []) 16 2416 = true →
    keyOpStarts .secProvision 0 (s.rdAddr R.SEC_ID_SRC_LO R.SEC_ID_SRC_HI []) s) ∧
  (∀ s : State, s.isLive → s.sec.op = none → s.sealed = false → s.idLoaded = false →
    inHub (s.rdAddr R.SEC_ID_SRC_LO R.SEC_ID_SRC_HI []) 16 2416 = true →
    keyOpStarts .secUnwrap 1 (s.rdAddr R.SEC_ID_SRC_LO R.SEC_ID_SRC_HI []) s) ∧
  (∀ s : State, s.isLive → s.sec.op = none → s.idLoaded = true →
    inHub (s.rdAddr R.SEC_ATT_DST_LO R.SEC_ATT_DST_HI []) 64 672 = true →
    keyOpStarts .secAttest 2 (s.rdAddr R.SEC_ATT_DST_LO R.SEC_ATT_DST_HI []) s) ∧
  (∀ s : State, s.isLive → s.sec.op = none → s.idLoaded = true → s.sealed = false →
    inHub (s.rdAddr R.SEC_SK_SRC_LO R.SEC_SK_SRC_HI []) 16 384 = true →
    keyOpStarts .secSkLoad 3 (s.rdAddr R.SEC_SK_SRC_LO R.SEC_SK_SRC_HI []) s) ∧
  (∀ s : State, s.isLive → s.sec.op = none → s.idLoaded = true → s.sealed = true →
    s.rdAddr R.SEC_SK_SRC_LO R.SEC_SK_SRC_HI [] % 16 = 0 →
    populated s.dev.assembly (s.rdAddr R.SEC_SK_SRC_LO R.SEC_SK_SRC_HI []) 384 = true →
    keyOpStarts .secSkLoad 3 (s.rdAddr R.SEC_SK_SRC_LO R.SEC_SK_SRC_HI []) s) ∧
  (∀ (s : State) (c : Instr), s.isLive → s.sec.op.isSome = true →
    c ∈ [Instr.secProvision, .secUnwrap, .secAttest, .secSkLoad, .secSkCommit] → keyOpFails c 1 s) ∧
  (∀ s : State, s.isLive → s.sec.op = none → s.idLoaded = true → keyOpFails .secProvision 2 s ∧ keyOpFails .secUnwrap 2 s) ∧
  (∀ s : State, s.isLive → s.sec.op = none → s.idLoaded = false → keyOpFails .secAttest 2 s ∧ keyOpFails .secSkLoad 2 s) ∧
  (∀ s : State, s.isLive → s.sec.op = none → s.sec.pendingKey = none → keyOpFails .secSkCommit 8 s) ∧
  (∀ (s : State) (ok : Bool) (op : Nat), s.isLive → s.sec.op = some op →
    ∃ t, exec (.secOperationEnd ok) s = .next t ∧ t.sec.op = none ∧ t.bit R.SEC_STATUS [] 0 = false) ∧
  (∀ (s : State) (k : List Byte), s.isLive → s.sec.op = none → s.sec.pendingKey = some k →
    ∃ t, exec .secSkCommit s = .next t ∧ t.sec.currentKey = some k)

/-- R404: an operation that ends leaves the engine idle and shows what the TRNG's tests said; an attestation writes its report,
which opens with the magic number, and is counted. R403, R337: a commit makes the pending key the session key; before SEAL it
leaves no older key behind, after SEAL the key before it stays good up to the frame of the write. -/
def Obligations.KeyEngineEndsAndCommits : Prop :=
  (∀ (s : State) (ok : Bool) (op : Nat), s.isLive → s.sec.op = some op →
    ∃ t, exec (.secOperationEnd ok) s = .next t ∧ changesOnly [.free, .regs, .mem, .sct, .err, .sec] s t
    ∧ t.sec.op = none ∧ t.bit R.SEC_STATUS [] 0 = false ∧ t.bit R.SEC_STATUS [] 4 = ok
    ∧ t.sec.currentKey = s.sec.currentKey
    ∧ (∀ x, ¬ (s.sec.opAddr ≤ x ∧ x < s.sec.opAddr + 2416) → t.byte x = s.byte x)) ∧
  (∀ (s : State) (k : RsaKey), s.isLive → s.sec.op = some 2 → s.sec.identity = some k → s.err.bad = [] →
    ∃ t, exec (.secOperationEnd true) s = .next t
    ∧ t.le s.sec.opAddr 4 = 0x5454415A ∧ t.rd R.SEC_ATT_COUNT [] = s.rd R.SEC_ATT_COUNT [] + 1
    ∧ t.fld R.SEC_STATUS [] 15 8 = 0) ∧
  (∀ (s : State) (k : List Byte), s.isLive → s.sec.op = none → s.sec.pendingKey = some k →
    ∃ t, exec .secSkCommit s = .next t ∧ changesOnly [.regs, .sec] s t
    ∧ sameRegsBut [regAddr R.SEC_STATUS [], regAddr R.SEC_SK_KCV []] s t
    ∧ t.sec.currentKey = some k ∧ t.sec.pendingKey = none ∧ t.sec.identity = s.sec.identity
    ∧ t.bit R.SEC_STATUS [] 2 = false ∧ t.bit R.SEC_STATUS [] 3 = true ∧ t.fld R.SEC_STATUS [] 18 16 = 4
    ∧ (s.sealed = false → t.sec.oldKeys = s.sec.oldKeys)
    ∧ (∀ old, s.sealed = true → s.sec.currentKey = some old → t.sec.oldKeys = (s.nextEsn - 1, old) :: s.sec.oldKeys))

/-- R410, R411: a write of PWR_CLUi_PSTATE stores `target`; a cluster that is not in the state now wanted starts a transition
there, unless one runs (then the change waits). The end of a transition puts its state in force, and a change asked for meanwhile
starts. Only the cluster's own register, its destination and its die's VDD_CMP request change. -/
def Obligations.PstateTargetAndTransition : Prop :=
  (∀ (s : State) (i : Fin 16) (v : Word), s.isUp → ∃ t, exec (.pstateTarget i v) s = .next t
    ∧ changesOnly [.regs, .pwr] s t ∧ sameRegsBut [regAddr R.PWR_CLU_PSTATE [i.val]] s t
    ∧ t.fld R.PWR_CLU_PSTATE [i.val] 2 0 = bits v 2 0
    ∧ t.fld R.PWR_CLU_PSTATE [i.val] 6 4 = s.fld R.PWR_CLU_PSTATE [i.val] 6 4
    ∧ t.fld R.PWR_CLU_PSTATE [i.val] 10 8 = s.fld R.PWR_CLU_PSTATE [i.val] 10 8
    ∧ t.fld R.PWR_CLU_PSTATE [i.val] 14 12 = s.fld R.PWR_CLU_PSTATE [i.val] 14 12
    ∧ (s.bit R.PWR_CLU_PSTATE [i.val] 15 = true → t.bit R.PWR_CLU_PSTATE [i.val] 15 = true ∧ t.pwr = s.pwr)
    ∧ (s.bit R.PWR_CLU_PSTATE [i.val] 15 = false → i.val / 8 < s.dev.assembly.computeDies →
        max (bits v 2 0) (max (s.fld R.PWR_CLU_PSTATE [i.val] 6 4) (s.fld R.PWR_CLU_PSTATE [i.val] 10 8))
          ≠ s.fld R.PWR_CLU_PSTATE [i.val] 14 12 →
        t.bit R.PWR_CLU_PSTATE [i.val] 15 = true
        ∧ vecGet t.pwr.dest i.val 0 =
            max (bits v 2 0) (max (s.fld R.PWR_CLU_PSTATE [i.val] 6 4) (s.fld R.PWR_CLU_PSTATE [i.val] 10 8)))) ∧
  (∀ (s : State) (i : Fin 16), s.isUp → s.bit R.PWR_CLU_PSTATE [i.val] 15 = true →
    ∃ t, exec (.dvfsTransitionEnd i) s = .next t
    ∧ changesOnly [.regs, .pwr] s t ∧ sameRegsBut [regAddr R.PWR_CLU_PSTATE [i.val]] s t
    ∧ t.fld R.PWR_CLU_PSTATE [i.val] 2 0 = s.fld R.PWR_CLU_PSTATE [i.val] 2 0
    ∧ t.fld R.PWR_CLU_PSTATE [i.val] 14 12 = vecGet s.pwr.dest i.val 0 % 8
    ∧ (t.bit R.PWR_CLU_PSTATE [i.val] 15 = false → i.val / 8 < s.dev.assembly.computeDies →
        t.fld R.PWR_CLU_PSTATE [i.val] 14 12 = t.pstateWanted i.val))

/-- R412: a power check shows the mean; with `thr_en` and a mean above the ceiling it throttles, and the first step of an
episode is counted, alerted and shown. R413: PWR_STATUS follows the fast limit of a die, an episode is counted and alerted.
R429: a poll shows each rail's current; a rail that does not answer reads 0xFFFF (rails 0 and 1 are not polled so). What lowers the power
completes too: a P-state is asked for and taken (R411), domains are gated and wake (R408, R409), stacks enter and leave self-refresh
(R417), sensors are read (R414), and a rail whose PG falls is dropped (R416). -/
def Obligations.PowerAndCurrentLimits : Prop :=
  (∀ (s : State) (mean : Word), s.isUp → ∃ t, exec (.powerCheck mean) s = .next t
    ∧ changesOnly [.free, .regs, .sct, .pwr] s t ∧ t.rd R.PWR_PKG_EST [] = mean
    ∧ (s.bit R.PWR_CTRL [] 0 = false → t = s.poke R.PWR_PKG_EST [] mean)
    ∧ (s.bit R.PWR_CTRL [] 0 = true → 1000 * s.fld R.PWR_PKG_CEIL [] 7 0 < mean.toNat →
        t.pwr.throttling = true ∧
        (s.pwr.throttling = false →
          t.bit R.PWR_STATUS [] 0 = true ∧ t.bit R.SCT_ALERT_STATUS [] 5 = true
          ∧ (t.rd R.PWR_CNT_THROTTLE []).toNat = min ((s.rd R.PWR_CNT_THROTTLE []).toNat + 1) 0xFFFFFFFF))) ∧
  (∀ (s : State) (d : Fin 2) (high : Bool), s.isUp → d.val < s.dev.assembly.computeDies →
    ∃ t, exec (.currentFastLimit d high) s = .next t
    ∧ changesOnly [.free, .regs, .sct] s t
    ∧ sameRegsBut ([regAddr R.PWR_STATUS [], regAddr R.PWR_CNT_FASTLIM [], regAddr R.PWR_CNT_OVF []] ++ eventRegs) s t
    ∧ t.bit R.PWR_STATUS [] (1 + d.val) = high
    ∧ (high = true → s.bit R.PWR_STATUS [] (1 + d.val) = false →
        t.bit R.SCT_ALERT_STATUS [] 5 = true
        ∧ (t.rd R.PWR_CNT_FASTLIM []).toNat = min ((s.rd R.PWR_CNT_FASTLIM []).toNat + 1) 0xFFFFFFFF)) ∧
  (∀ (s : State) (cs : Vector (Option Half) 12), s.isUp → ∃ t, exec (.railCurrentPoll cs) s = .next t
    ∧ changesOnly [.free, .regs, .sct, .pwr] s t
    ∧ ∀ r, r < 12 → t.rd R.PWR_RAIL_CUR [r] =
        match vecGet cs r none with
        | some v => v.setWidth 32
        | none => if r < 2 then s.rd R.PWR_RAIL_CUR [r] else 0xFFFF) ∧
  (∀ (s : State) (i : Fin 16) (v : Word), s.isUp →
    ∃ t, exec (.pstateTarget i v) s = .next t ∧ t.fld R.PWR_CLU_PSTATE [i.val] 2 0 = bits v 2 0) ∧
  (∀ (s : State) (i : Fin 16), s.isUp → s.bit R.PWR_CLU_PSTATE [i.val] 15 = true →
    ∃ t, exec (.dvfsTransitionEnd i) s = .next t ∧ t.fld R.PWR_CLU_PSTATE [i.val] 14 12 = vecGet s.pwr.dest i.val 0 % 8) ∧
  (∀ (s : State) (temps : Vector Half 25), s.isUp → s.dev.resetAsked = none →
    (∀ i, i < 25 → s.dev.assembly.hasSensor i = true → i ∈ s.pwr.hot →
      (vecGet temps i 0).toInt < 16 * (s.fld R.PWR_TRIP_TEMP [] 7 0 : Int)) →
    ∃ t, exec (.thermalSample temps) s = .next t
      ∧ ∀ i, i < 25 → s.dev.assembly.hasSensor i = true → t.rd R.PWR_TEMP [i] = (vecGet temps i 0).setWidth 32) ∧
  (∀ (s : State) (rail : Fin 3), s.isUp →
    (match rail.val with | 0 => s.pwr.enCmp0 | 1 => s.pwr.enCmp1 | _ => s.pwr.enMem) = true →
    ∃ t, exec (.powerGoodLoss rail) s = .next t ∧ t.fatal = true
      ∧ (match rail.val with | 0 => t.pwr.enCmp0 | 1 => t.pwr.enCmp1 | _ => t.pwr.enMem) = false) ∧
  (∀ (s : State) (d : DomainName), s.isLive → domainOf d ∉ s.pwr.gated → s.gateable d = true →
    ∃ t, exec (.domainGate d) s = .next t ∧ domainOf d ∈ t.pwr.gated) ∧
  (∀ (s : State) (d : DomainName), s.isLive → domainOf d ∈ s.pwr.gated →
    ∃ t, exec (.domainWakeEnd d) s = .next t ∧ domainOf d ∉ t.pwr.gated) ∧
  (∀ (s : State) (st : Fin 4) (free : Vector Nat 4), s.isLive → st.val < s.dev.assembly.stacks → s.srSince st.val = none →
    (∀ k, k < 4 → s.bit R.TIM_LCH_CFG [k] 0 = true → s.isStatic (s.fld R.TIM_LCH_CFG [k] 7 4) = false) →
    (∀ x ∈ s.tolerances free, 12000 + 1000 * s.fld R.PWR_SR_CFG [] 31 16 < x) →
    ∃ t, exec (.selfRefreshEntry st free) s = .next t ∧ t.srSince st.val = some s.now) ∧
  (∀ (s : State) (st : Fin 4) (stall : Word) (since : Nat), s.isLive → s.srSince st.val = some since →
    ∃ t, exec (.selfRefreshExit st stall) s = .next t ∧ t.srSince st.val = none)


/-- R414: a sample shows the temperature of every sensor that the assembly has. R416: a sensor at or above the trip temperature
in two samples running drops the switched rails and resets the device with cause 4, and the trip is remembered; a PG input that
falls while its rail is enabled enters the fatal state and drops that rail alone. -/
def Obligations.ThermalTripAndPowerGoodLoss : Prop :=
  (∀ (s : State) (temps : Vector Half 25), s.isUp → s.dev.resetAsked = none →
    (∀ i, i < 25 → s.dev.assembly.hasSensor i = true → i ∈ s.pwr.hot →
      (vecGet temps i 0).toInt < 16 * (s.fld R.PWR_TRIP_TEMP [] 7 0 : Int)) →
    ∃ t, exec (.thermalSample temps) s = .next t ∧ changesOnly [.regs, .pwr] s t
    ∧ ∀ i, i < 25 → s.dev.assembly.hasSensor i = true → t.rd R.PWR_TEMP [i] = (vecGet temps i 0).setWidth 32) ∧
  (∀ (s : State) (temps : Vector Half 25) (i : Nat), s.isUp → i < 25 → s.dev.assembly.hasSensor i = true → i ∈ s.pwr.hot →
    16 * (s.fld R.PWR_TRIP_TEMP [] 7 0 : Int) ≤ (vecGet temps i 0).toInt →
    ∃ t, exec (.thermalSample temps) s = .next t
    ∧ t.dev.inReset = true ∧ t.fld R.ERR_RESET_CAUSE [] 7 0 = 4 ∧ t.pwr.tripped = true
    ∧ t.pwr.enCmp0 = false ∧ t.pwr.enCmp1 = false ∧ t.pwr.enMem = false ∧ t.pending = s.pending) ∧
  (∀ (s : State) (rail : Fin 3), s.isUp →
    (match rail.val with | 0 => s.pwr.enCmp0 | 1 => s.pwr.enCmp1 | _ => s.pwr.enMem) = true →
    ∃ t, exec (.powerGoodLoss rail) s = .next t ∧ t.bit R.ERR_STATUS [] 0 = true
    ∧ t.pwr.enCmp0 = (s.pwr.enCmp0 && rail.val != 0) ∧ t.pwr.enCmp1 = (s.pwr.enCmp1 && rail.val != 1)
    ∧ t.pwr.enMem = (s.pwr.enMem && rail.val != 2)
    ∧ t.dev = s.dev ∧ t.img = s.img ∧ t.tim = s.tim ∧ t.dsp = s.dsp ∧ t.cap = s.cap ∧ t.eth = s.eth ∧ t.sec = s.sec)

/-- R408: a domain that meets its condition is gated, and a gated one wakes. R417: a stack whose clients all tolerate the exit
enters self-refresh, which is counted; a request wakes it, and the clocks that requests waited are counted. -/
def Obligations.GatingAndSelfRefresh : Prop :=
  (∀ (s : State) (d : DomainName), s.isLive → domainOf d ∉ s.pwr.gated → s.gateable d = true →
    ∃ t, exec (.domainGate d) s = .next t ∧ changesOnly [.mem, .brg, .err, .sch, .pwr] s t
    ∧ t.pwr = { s.pwr with gated := s.pwr.gated ++ [domainOf d] }) ∧
  (∀ (s : State) (d : DomainName), s.isLive → domainOf d ∈ s.pwr.gated →
    ∃ t, exec (.domainWakeEnd d) s = .next t ∧ changesOnly [.free, .regs, .mem, .syn, .passes, .vis, .sct, .err, .sch, .pwr] s t
    ∧ t.pwr = { s.pwr with gated := s.pwr.gated.filter (· != domainOf d) }) ∧
  (∀ (s : State) (st : Fin 4) (free : Vector Nat 4), s.isLive → st.val < s.dev.assembly.stacks → s.srSince st.val = none →
    (∀ k, k < 4 → s.bit R.TIM_LCH_CFG [k] 0 = true → s.isStatic (s.fld R.TIM_LCH_CFG [k] 7 4) = false) →
    (∀ x ∈ s.tolerances free, 12000 + 1000 * s.fld R.PWR_SR_CFG [] 31 16 < x) →
    ∃ t, exec (.selfRefreshEntry st free) s = .next t ∧ changesOnly [.regs, .pwr] s t
    ∧ sameRegsBut [regAddr R.PWR_SR_ENTRIES [st.val]] s t
    ∧ t.srSince st.val = some s.now ∧ t.rd R.PWR_SR_ENTRIES [st.val] = s.rd R.PWR_SR_ENTRIES [st.val] + 1) ∧
  (∀ (s : State) (st : Fin 4) (stall : Word) (since : Nat), s.isLive → s.srSince st.val = some since →
    ∃ t, exec (.selfRefreshExit st stall) s = .next t ∧ changesOnly [.regs, .pwr] s t
    ∧ sameRegsBut [regAddr R.PWR_SR_TIME [st.val], regAddr R.PWR_SR_WAKESTALL [st.val]] s t
    ∧ t.srSince st.val = none
    ∧ t.rd R.PWR_SR_WAKESTALL [st.val] = s.rd R.PWR_SR_WAKESTALL [st.val] + stall
    ∧ t.rd R.PWR_SR_TIME [st.val] = s.rd R.PWR_SR_TIME [st.val] + BitVec.ofNat 32 ((s.now - since) / 1000))
end

