-- ==== Sys2Proof/Laws/Bits.lean ====
section
/-! SUPPORT. Laws of bit fields and byte strings. -/

namespace Sys2Proof.Machine

/-- A bit of a field's value. -/
theorem testBit_bits (w : Word) (hi lo i : Nat) :
    (bits w hi lo).testBit i = (decide (i < hi + 1 - lo) && w.toNat.testBit (lo + i)) := by
  simp [bits, Nat.testBit_mod_two_pow, Nat.testBit_div_two_pow, Nat.add_comm]

/-- A bit of a mask of ones. -/
theorem testBit_fieldMask (hi lo i : Nat) (h : i < 32) :
    (fieldMask hi lo).toNat.testBit i = (decide (lo ≤ i) && decide (i < hi + 1)) := by
  have h1 : (fieldMask hi lo).toNat = (2 ^ (hi + 1 - lo) - 1) * 2 ^ lo % 2 ^ 32 := by simp [fieldMask]
  rw [h1, Nat.testBit_mod_two_pow, Nat.testBit_mul_two_pow, Nat.testBit_two_pow_sub_one]
  by_cases hl : lo ≤ i <;> simp [h, hl] ; omega

/-- A bit of a word with a field replaced. -/
theorem testBit_setBits (w : Word) (hi lo v i : Nat) (h : i < 32) :
    (setBits w hi lo v).toNat.testBit i =
      if lo ≤ i ∧ i < hi + 1 then v.testBit (i - lo) else w.toNat.testBit i := by
  have hm := testBit_fieldMask hi lo i h
  simp only [setBits, BitVec.toNat_or, BitVec.toNat_and, Nat.testBit_or, Nat.testBit_and, BitVec.testBit_toNat,
    BitVec.getLsbD_not, BitVec.getLsbD_ofNat, Nat.testBit_mul_two_pow, Nat.testBit_mod_two_pow] at hm ⊢
  rw [hm]
  by_cases h1 : lo ≤ i <;> by_cases h2 : i < hi + 1 <;> simp [h, h1, h2] <;> omega

/-- A field reads as what was put into it. -/
theorem bits_setBits_same (w : Word) (hi lo v : Nat) (h : hi < 32) :
    bits (setBits w hi lo v) hi lo = v % 2 ^ (hi + 1 - lo) := by
  apply Nat.eq_of_testBit_eq
  intro i
  rw [testBit_bits, Nat.testBit_mod_two_pow]
  by_cases hi' : i < hi + 1 - lo
  · rw [testBit_setBits _ _ _ _ _ (by omega)]
    have : lo ≤ lo + i ∧ lo + i < hi + 1 := by omega
    simp [hi', this]
  · simp [hi']

/-- A field that another field does not touch keeps its value. -/
theorem bits_setBits_apart (w : Word) (hi lo v hi' lo' : Nat) (h : hi' < 32) (ha : hi' < lo ∨ hi < lo') :
    bits (setBits w hi lo v) hi' lo' = bits w hi' lo' := by
  apply Nat.eq_of_testBit_eq
  intro i
  rw [testBit_bits, testBit_bits]
  by_cases hi2 : i < hi' + 1 - lo'
  · rw [testBit_setBits _ _ _ _ _ (by omega)]
    rw [if_neg (by omega)]
  · simp [hi2]

/-- A one-bit field holds a truth value. -/
theorem bits_setBits_bool (w : Word) (b : Nat) (v : Bool) (h : b < 32) :
    bits (setBits w b b (b2n v)) b b = b2n v := by
  rw [bits_setBits_same _ _ _ _ h]
  cases v <;> simp [b2n]

@[simp] theorem leBytes_length (n v : Nat) : (leBytes n v).length = n := by
  induction n generalizing v with
  | zero => rfl
  | succ n ih => simp [leBytes, ih]

@[simp] theorem rangeFrom_length (a n : Nat) : (rangeFrom a n).length = n := by
  induction n generalizing a with
  | zero => rfl
  | succ n ih => simp [rangeFrom, ih]

/-- What `rangeFrom` lists. -/
theorem mem_rangeFrom (a n x : Nat) : x ∈ rangeFrom a n ↔ a ≤ x ∧ x < a + n := by
  induction n generalizing a with
  | zero => simp [rangeFrom]
  | succ n ih => simp [rangeFrom, ih]; omega

end Sys2Proof.Machine
end

