-- ==== Sys2Proof/Laws/Ops.lean ====
section
/-! SUPPORT. Laws of the register file and of DEV memory: a read after a write, and what a write leaves alone. -/

namespace Sys2Proof.Machine

/-! ### Lists with keys -/

@[simp] theorem cfgGet_cfgSet_self (l : List (Nat × Word)) (a : Nat) (v : Word) : cfgGet (cfgSet l a v) a = some v := by
  induction l with
  | nil => simp [cfgSet, cfgGet]
  | cons p t ih =>
    obtain ⟨k, w⟩ := p
    simp only [cfgSet]
    split
    · simp [cfgGet]
    · split <;> simp_all [cfgGet]

theorem cfgGet_cfgSet_ne (l : List (Nat × Word)) (a b : Nat) (v : Word) (h : b ≠ a) :
    cfgGet (cfgSet l a v) b = cfgGet l b := by
  induction l with
  | nil => simp [cfgSet, cfgGet, Ne.symm h]
  | cons p t ih =>
    obtain ⟨k, w⟩ := p
    simp only [cfgSet]
    split
    · simp [cfgGet, Ne.symm h]
    · split
      · simp_all [cfgGet, eq_comm]
      · simp [cfgGet, ih]

@[simp] theorem cellsGet_cellsPut_self (l : List Host.Cell) (a : Nat) (b : Byte) : cellsGet (cellsPut l a b) a = b := by
  induction l with
  | nil => simp [cellsPut, cellsGet]
  | cons p t ih =>
    obtain ⟨k, w⟩ := p
    simp only [cellsPut]
    split
    · simp [cellsGet]
    · split <;> simp_all [cellsGet]

theorem cellsGet_cellsPut_ne (l : List Host.Cell) (a x : Nat) (b : Byte) (h : x ≠ a) :
    cellsGet (cellsPut l a b) x = cellsGet l x := by
  induction l with
  | nil => simp [cellsPut, cellsGet, Ne.symm h]
  | cons p t ih =>
    obtain ⟨k, w⟩ := p
    simp only [cellsPut]
    split
    · simp [cellsGet, Ne.symm h]
    · split
      · simp_all [cellsGet, eq_comm]
      · simp [cellsGet, ih]

@[simp] theorem cellsGet_cellsDel_self (l : List Host.Cell) (a : Nat) : cellsGet (cellsDel l a) a = 0 := by
  induction l with
  | nil => rfl
  | cons p t ih =>
    obtain ⟨k, w⟩ := p
    by_cases h : k = a <;> simp [cellsDel, cellsGet, h, ih]

theorem cellsGet_cellsDel_ne (l : List Host.Cell) (a x : Nat) (h : x ≠ a) : cellsGet (cellsDel l a) x = cellsGet l x := by
  induction l with
  | nil => rfl
  | cons p t ih =>
    obtain ⟨k, w⟩ := p
    by_cases hk : k = a
    · have : ¬ a = x := fun e => h e.symm
      simp [cellsDel, cellsGet, hk, ih, this]
    · simp [cellsDel, cellsGet, hk, ih]

@[simp] theorem cellsGet_cellsSet_self (l : List Host.Cell) (a : Nat) (b : Byte) : cellsGet (cellsSet l a b) a = b := by
  unfold cellsSet
  split
  · simp_all
  · simp

theorem cellsGet_cellsSet_ne (l : List Host.Cell) (a x : Nat) (b : Byte) (h : x ≠ a) :
    cellsGet (cellsSet l a b) x = cellsGet l x := by
  unfold cellsSet
  split
  · exact cellsGet_cellsDel_ne l a x h
  · exact cellsGet_cellsPut_ne l a x b h

/-- What a store of consecutive bytes leaves at an address. -/
theorem cellsGet_cellsWrite (bs : List Byte) (l : List Host.Cell) (a x : Nat) :
    cellsGet (cellsWrite l a bs) x = if a ≤ x ∧ x < a + bs.length then bs.getD (x - a) 0 else cellsGet l x := by
  induction bs generalizing l a with
  | nil => simp [cellsWrite]
  | cons b bs ih =>
    rw [cellsWrite, ih]
    by_cases hx : x = a
    · subst hx; simp
    · rw [cellsGet_cellsSet_ne _ _ _ _ hx]
      by_cases h : a + 1 ≤ x ∧ x < a + 1 + bs.length
      · have h2 : a ≤ x ∧ x < a + (b :: bs).length := by simp; omega
        have h3 : x - a = (x - (a + 1)) + 1 := by omega
        rw [if_pos h, if_pos h2, h3, List.getD_cons_succ]
      · have h2 : ¬ (a ≤ x ∧ x < a + (b :: bs).length) := by simp; omega
        simp only [h, h2, if_false]

/-! ### Registers -/

@[simp] theorem State.rd_poke_self (s : State) (r : Reg) (ix : List Nat) (v : Word) : (s.poke r ix v).rd r ix = v := by
  simp [State.poke, State.rd]

/-- The CFG file outside one address. -/
theorem State.cfgGet_poke_ne (s : State) (r : Reg) (ix : List Nat) (v : Word) (a : Nat) (h : a ≠ regAddr r ix) :
    cfgGet (s.poke r ix v).cfg a = cfgGet s.cfg a := by
  simp [State.poke, cfgGet_cfgSet_ne _ _ _ _ h]

/-- A register at another address keeps its value. -/
theorem State.rd_poke_ne (s : State) (r r' : Reg) (ix ix' : List Nat) (v : Word) (h : regAddr r' ix' ≠ regAddr r ix) :
    (s.poke r ix v).rd r' ix' = s.rd r' ix' := by
  unfold State.rd
  rw [State.cfgGet_poke_ne _ _ _ _ _ h]

@[simp] theorem State.fld_setFld_self (s : State) (r : Reg) (ix : List Nat) (hi lo v : Nat) (h : hi < 32) :
    (s.setFld r ix hi lo v).fld r ix hi lo = v % 2 ^ (hi + 1 - lo) := by
  simp [State.fld, State.setFld, bits_setBits_same _ _ _ _ h]

theorem State.fld_setFld_apart (s : State) (r : Reg) (ix : List Nat) (hi lo v hi' lo' : Nat) (h : hi' < 32)
    (ha : hi' < lo ∨ hi < lo') : (s.setFld r ix hi lo v).fld r ix hi' lo' = s.fld r ix hi' lo' := by
  simp [State.fld, State.setFld, bits_setBits_apart _ _ _ _ _ _ h ha]

@[simp] theorem State.bit_setBit_self (s : State) (r : Reg) (ix : List Nat) (b : Nat) (v : Bool) (h : b < 32) :
    (s.setBit r ix b v).bit r ix b = v := by
  simp only [State.bit, State.setBit, State.fld, State.setFld, State.rd_poke_self, bits_setBits_bool _ _ _ h]
  cases v <;> rfl

/-! ### DEV memory -/

/-- A byte of memory after a store. -/
theorem State.byte_store (s : State) (a x : Nat) (bs : List Byte) :
    (s.store a bs).byte x = if a ≤ x ∧ x < a + bs.length then bs.getD (x - a) 0 else s.byte x := by
  simp [State.byte, State.store, cellsGet_cellsWrite]

/-- A byte of memory after a write access that no word in error stops. -/
theorem State.byte_write (s : State) (a x : Nat) (bs : List Byte) (h : s.writeError a bs.length = none) :
    (s.write a bs).byte x = if a ≤ x ∧ x < a + bs.length then bs.getD (x - a) 0 else s.byte x := by
  unfold State.write
  rw [h]
  exact State.byte_store (s.unpoison a bs.length) a x bs

/-- A write access changes no byte outside its range. -/
theorem State.byte_write_apart (s : State) (a x : Nat) (bs : List Byte) (h : ¬ (a ≤ x ∧ x < a + bs.length)) :
    (s.write a bs).byte x = s.byte x := by
  cases hw : s.writeError a bs.length with
  | none => rw [State.byte_write s a x bs hw, if_neg h]
  | some w => simp [State.write, hw]

/-! ### The canonical form of memory -/

/-- The first key of a list is above `a`. -/
def Memory.above (a : Nat) : List Host.Cell → Prop
  | [] => True
  | (k, _) :: _ => a < k

theorem Memory.wf_cons (k : Nat) (v : Byte) (t : List Host.Cell) :
    Memory.wf ((k, v) :: t) = true ↔ v ≠ 0 ∧ Memory.above k t ∧ Memory.wf t = true := by
  cases t with
  | nil => simp [Memory.wf, Memory.above]
  | cons p u => obtain ⟨k', v'⟩ := p; simp [Memory.wf, Memory.above, and_assoc]

theorem Memory.above_mono {a b : Nat} {l : List Host.Cell} (h : a ≤ b) (hl : Memory.above b l) : Memory.above a l := by
  cases l with
  | nil => trivial
  | cons p t => exact lt_of_le_of_lt h hl

theorem Memory.above_del {a : Nat} {l : List Host.Cell} (x : Nat) (hw : Memory.wf l = true) (h : Memory.above a l) :
    Memory.above a (cellsDel l x) := by
  induction l with
  | nil => trivial
  | cons p t ih =>
    obtain ⟨k, v⟩ := p
    obtain ⟨-, hk, ht⟩ := (Memory.wf_cons k v t).1 hw
    by_cases hx : k = x
    · simp only [cellsDel, hx, if_true]
      exact ih ht (Memory.above_mono (le_of_lt h) hk)
    · simp only [cellsDel, hx, if_false]; exact h

theorem Memory.wf_del {l : List Host.Cell} (x : Nat) (hw : Memory.wf l = true) : Memory.wf (cellsDel l x) = true := by
  induction l with
  | nil => rfl
  | cons p t ih =>
    obtain ⟨k, v⟩ := p
    obtain ⟨hv, hk, ht⟩ := (Memory.wf_cons k v t).1 hw
    by_cases hx : k = x
    · simpa [cellsDel, hx] using ih ht
    · simp only [cellsDel, hx, if_false]
      exact (Memory.wf_cons _ _ _).2 ⟨hv, Memory.above_del x ht hk, ih ht⟩

theorem Memory.above_put {a : Nat} {l : List Host.Cell} (x : Nat) (b : Byte) (hx : a < x) (h : Memory.above a l) :
    Memory.above a (cellsPut l x b) := by
  cases l with
  | nil => exact hx
  | cons p t =>
    obtain ⟨k, v⟩ := p
    simp only [cellsPut]
    split
    · exact hx
    · split
      · exact hx
      · exact h

theorem Memory.wf_put {l : List Host.Cell} (x : Nat) (b : Byte) (hb : b ≠ 0) (hw : Memory.wf l = true) :
    Memory.wf (cellsPut l x b) = true := by
  induction l with
  | nil => exact (Memory.wf_cons _ _ _).2 ⟨hb, trivial, rfl⟩
  | cons p t ih =>
    obtain ⟨k, v⟩ := p
    obtain ⟨hv, hk, ht⟩ := (Memory.wf_cons k v t).1 hw
    simp only [cellsPut]
    split
    · next h => exact (Memory.wf_cons _ _ _).2 ⟨hb, h, hw⟩
    · split
      · next h => subst h; exact (Memory.wf_cons _ _ _).2 ⟨hb, hk, ht⟩
      · next h1 h2 =>
        exact (Memory.wf_cons _ _ _).2 ⟨hv, Memory.above_put x b (by omega) hk, ih ht⟩

theorem Memory.wf_set {l : List Host.Cell} (x : Nat) (b : Byte) (hw : Memory.wf l = true) :
    Memory.wf (cellsSet l x b) = true := by
  unfold cellsSet
  split
  · exact Memory.wf_del x hw
  · next h => exact Memory.wf_put x b h hw

theorem Memory.wf_cellsWrite (bs : List Byte) (l : List Host.Cell) (a : Nat) (hw : Memory.wf l = true) :
    Memory.wf (cellsWrite l a bs) = true := by
  induction bs generalizing l a with
  | nil => exact hw
  | cons b bs ih => exact ih _ _ (Memory.wf_set a b hw)

theorem Memory.above_filter {a : Nat} {l : List Host.Cell} (f : Host.Cell → Bool) (hw : Memory.wf l = true)
    (h : Memory.above a l) : Memory.above a (l.filter f) := by
  induction l with
  | nil => trivial
  | cons p t ih =>
    obtain ⟨k, v⟩ := p
    obtain ⟨-, hk, ht⟩ := (Memory.wf_cons k v t).1 hw
    by_cases hf : f (k, v) = true
    · simp only [List.filter, hf]; exact h
    · simp only [List.filter, hf]
      exact ih ht (Memory.above_mono (le_of_lt h) hk)

theorem Memory.wf_filter {l : List Host.Cell} (f : Host.Cell → Bool) (hw : Memory.wf l = true) :
    Memory.wf (l.filter f) = true := by
  induction l with
  | nil => rfl
  | cons p t ih =>
    obtain ⟨k, v⟩ := p
    obtain ⟨hv, hk, ht⟩ := (Memory.wf_cons k v t).1 hw
    by_cases hf : f (k, v) = true
    · simp only [List.filter, hf]
      exact (Memory.wf_cons _ _ _).2 ⟨hv, Memory.above_filter f ht hk, ih ht⟩
    · simpa [List.filter, hf] using ih ht

/-- A store keeps the canonical form. -/
theorem State.memWf_store (s : State) (a : Nat) (bs : List Byte) (h : s.memWf = true) : (s.store a bs).memWf = true :=
  Memory.wf_cellsWrite bs s.mem a h

/-- Clearing keeps it. -/
theorem State.memWf_clear (s : State) (a n : Nat) (h : s.memWf = true) : (s.clear a n).memWf = true :=
  Memory.wf_filter _ h

/-- A write access keeps it. -/
theorem State.memWf_write (s : State) (a : Nat) (bs : List Byte) (h : s.memWf = true) : (s.write a bs).memWf = true := by
  unfold State.write
  split
  · exact State.memWf_store (s.unpoison a bs.length) a bs h
  · exact h

/-- A write of a number keeps it. -/
theorem State.memWf_writeLe (s : State) (a n v : Nat) (h : s.memWf = true) : (s.writeLe a n v).memWf = true :=
  State.memWf_write s a _ h

/-- Marking a word in error keeps it. -/
theorem State.memWf_poison (s : State) (a : Nat) (h : s.memWf = true) : (s.poison a).memWf = true := by
  unfold State.poison
  dsimp only
  split <;> exact h

/-- A device reset keeps it. -/
theorem State.memWf_deviceReset (s : State) (cause : Nat) (h : s.memWf = true) : (s.deviceReset cause).memWf = true :=
  Memory.wf_filter _ h

/-- Memory at reset has it. -/
theorem State.memWf_reset : State.reset.memWf = true := rfl

end Sys2Proof.Machine
end

