-- ==== Sys2Proof/Laws/State.lean ====
section
/-! SUPPORT. One lemma for each field and each basic update of the state, and what the frames of the commands do. -/

namespace Sys2Proof.Machine

@[simp] theorem State.poke_pending (s : State) (r : Reg) (ix : List Nat) (v : Word) : (s.poke r ix v).pending = s.pending := rfl
@[simp] theorem State.poke_free (s : State) (r : Reg) (ix : List Nat) (v : Word) : (s.poke r ix v).free = s.free := rfl
@[simp] theorem State.poke_mem (s : State) (r : Reg) (ix : List Nat) (v : Word) : (s.poke r ix v).mem = s.mem := rfl
@[simp] theorem State.poke_dev (s : State) (r : Reg) (ix : List Nat) (v : Word) : (s.poke r ix v).dev = s.dev := rfl
@[simp] theorem State.poke_img (s : State) (r : Reg) (ix : List Nat) (v : Word) : (s.poke r ix v).img = s.img := rfl
@[simp] theorem State.poke_tim (s : State) (r : Reg) (ix : List Nat) (v : Word) : (s.poke r ix v).tim = s.tim := rfl
@[simp] theorem State.poke_syn (s : State) (r : Reg) (ix : List Nat) (v : Word) : (s.poke r ix v).syn = s.syn := rfl
@[simp] theorem State.poke_boxes (s : State) (r : Reg) (ix : List Nat) (v : Word) : (s.poke r ix v).boxes = s.boxes := rfl
@[simp] theorem State.poke_passes (s : State) (r : Reg) (ix : List Nat) (v : Word) : (s.poke r ix v).passes = s.passes := rfl
@[simp] theorem State.poke_vis (s : State) (r : Reg) (ix : List Nat) (v : Word) : (s.poke r ix v).vis = s.vis := rfl
@[simp] theorem State.poke_dsp (s : State) (r : Reg) (ix : List Nat) (v : Word) : (s.poke r ix v).dsp = s.dsp := rfl
@[simp] theorem State.poke_cap (s : State) (r : Reg) (ix : List Nat) (v : Word) : (s.poke r ix v).cap = s.cap := rfl
@[simp] theorem State.poke_brg (s : State) (r : Reg) (ix : List Nat) (v : Word) : (s.poke r ix v).brg = s.brg := rfl
@[simp] theorem State.poke_eth (s : State) (r : Reg) (ix : List Nat) (v : Word) : (s.poke r ix v).eth = s.eth := rfl
@[simp] theorem State.poke_sct (s : State) (r : Reg) (ix : List Nat) (v : Word) : (s.poke r ix v).sct = s.sct := rfl
@[simp] theorem State.poke_err (s : State) (r : Reg) (ix : List Nat) (v : Word) : (s.poke r ix v).err = s.err := rfl
@[simp] theorem State.poke_sch (s : State) (r : Reg) (ix : List Nat) (v : Word) : (s.poke r ix v).sch = s.sch := rfl
@[simp] theorem State.poke_dbg (s : State) (r : Reg) (ix : List Nat) (v : Word) : (s.poke r ix v).dbg = s.dbg := rfl
@[simp] theorem State.poke_sec (s : State) (r : Reg) (ix : List Nat) (v : Word) : (s.poke r ix v).sec = s.sec := rfl
@[simp] theorem State.poke_pwr (s : State) (r : Reg) (ix : List Nat) (v : Word) : (s.poke r ix v).pwr = s.pwr := rfl

@[simp] theorem State.setFld_pending (s : State) (r : Reg) (ix : List Nat) (hi lo v : Nat) : (s.setFld r ix hi lo v).pending = s.pending := rfl
@[simp] theorem State.setFld_free (s : State) (r : Reg) (ix : List Nat) (hi lo v : Nat) : (s.setFld r ix hi lo v).free = s.free := rfl
@[simp] theorem State.setFld_mem (s : State) (r : Reg) (ix : List Nat) (hi lo v : Nat) : (s.setFld r ix hi lo v).mem = s.mem := rfl
@[simp] theorem State.setFld_dev (s : State) (r : Reg) (ix : List Nat) (hi lo v : Nat) : (s.setFld r ix hi lo v).dev = s.dev := rfl
@[simp] theorem State.setFld_img (s : State) (r : Reg) (ix : List Nat) (hi lo v : Nat) : (s.setFld r ix hi lo v).img = s.img := rfl
@[simp] theorem State.setFld_tim (s : State) (r : Reg) (ix : List Nat) (hi lo v : Nat) : (s.setFld r ix hi lo v).tim = s.tim := rfl
@[simp] theorem State.setFld_syn (s : State) (r : Reg) (ix : List Nat) (hi lo v : Nat) : (s.setFld r ix hi lo v).syn = s.syn := rfl
@[simp] theorem State.setFld_boxes (s : State) (r : Reg) (ix : List Nat) (hi lo v : Nat) : (s.setFld r ix hi lo v).boxes = s.boxes := rfl
@[simp] theorem State.setFld_passes (s : State) (r : Reg) (ix : List Nat) (hi lo v : Nat) : (s.setFld r ix hi lo v).passes = s.passes := rfl
@[simp] theorem State.setFld_vis (s : State) (r : Reg) (ix : List Nat) (hi lo v : Nat) : (s.setFld r ix hi lo v).vis = s.vis := rfl
@[simp] theorem State.setFld_dsp (s : State) (r : Reg) (ix : List Nat) (hi lo v : Nat) : (s.setFld r ix hi lo v).dsp = s.dsp := rfl
@[simp] theorem State.setFld_cap (s : State) (r : Reg) (ix : List Nat) (hi lo v : Nat) : (s.setFld r ix hi lo v).cap = s.cap := rfl
@[simp] theorem State.setFld_brg (s : State) (r : Reg) (ix : List Nat) (hi lo v : Nat) : (s.setFld r ix hi lo v).brg = s.brg := rfl
@[simp] theorem State.setFld_eth (s : State) (r : Reg) (ix : List Nat) (hi lo v : Nat) : (s.setFld r ix hi lo v).eth = s.eth := rfl
@[simp] theorem State.setFld_sct (s : State) (r : Reg) (ix : List Nat) (hi lo v : Nat) : (s.setFld r ix hi lo v).sct = s.sct := rfl
@[simp] theorem State.setFld_err (s : State) (r : Reg) (ix : List Nat) (hi lo v : Nat) : (s.setFld r ix hi lo v).err = s.err := rfl
@[simp] theorem State.setFld_sch (s : State) (r : Reg) (ix : List Nat) (hi lo v : Nat) : (s.setFld r ix hi lo v).sch = s.sch := rfl
@[simp] theorem State.setFld_dbg (s : State) (r : Reg) (ix : List Nat) (hi lo v : Nat) : (s.setFld r ix hi lo v).dbg = s.dbg := rfl
@[simp] theorem State.setFld_sec (s : State) (r : Reg) (ix : List Nat) (hi lo v : Nat) : (s.setFld r ix hi lo v).sec = s.sec := rfl
@[simp] theorem State.setFld_pwr (s : State) (r : Reg) (ix : List Nat) (hi lo v : Nat) : (s.setFld r ix hi lo v).pwr = s.pwr := rfl

@[simp] theorem State.setBit_pending (s : State) (r : Reg) (ix : List Nat) (b : Nat) (v : Bool) : (s.setBit r ix b v).pending = s.pending := rfl
@[simp] theorem State.setBit_free (s : State) (r : Reg) (ix : List Nat) (b : Nat) (v : Bool) : (s.setBit r ix b v).free = s.free := rfl
@[simp] theorem State.setBit_mem (s : State) (r : Reg) (ix : List Nat) (b : Nat) (v : Bool) : (s.setBit r ix b v).mem = s.mem := rfl
@[simp] theorem State.setBit_dev (s : State) (r : Reg) (ix : List Nat) (b : Nat) (v : Bool) : (s.setBit r ix b v).dev = s.dev := rfl
@[simp] theorem State.setBit_img (s : State) (r : Reg) (ix : List Nat) (b : Nat) (v : Bool) : (s.setBit r ix b v).img = s.img := rfl
@[simp] theorem State.setBit_tim (s : State) (r : Reg) (ix : List Nat) (b : Nat) (v : Bool) : (s.setBit r ix b v).tim = s.tim := rfl
@[simp] theorem State.setBit_syn (s : State) (r : Reg) (ix : List Nat) (b : Nat) (v : Bool) : (s.setBit r ix b v).syn = s.syn := rfl
@[simp] theorem State.setBit_boxes (s : State) (r : Reg) (ix : List Nat) (b : Nat) (v : Bool) : (s.setBit r ix b v).boxes = s.boxes := rfl
@[simp] theorem State.setBit_passes (s : State) (r : Reg) (ix : List Nat) (b : Nat) (v : Bool) : (s.setBit r ix b v).passes = s.passes := rfl
@[simp] theorem State.setBit_vis (s : State) (r : Reg) (ix : List Nat) (b : Nat) (v : Bool) : (s.setBit r ix b v).vis = s.vis := rfl
@[simp] theorem State.setBit_dsp (s : State) (r : Reg) (ix : List Nat) (b : Nat) (v : Bool) : (s.setBit r ix b v).dsp = s.dsp := rfl
@[simp] theorem State.setBit_cap (s : State) (r : Reg) (ix : List Nat) (b : Nat) (v : Bool) : (s.setBit r ix b v).cap = s.cap := rfl
@[simp] theorem State.setBit_brg (s : State) (r : Reg) (ix : List Nat) (b : Nat) (v : Bool) : (s.setBit r ix b v).brg = s.brg := rfl
@[simp] theorem State.setBit_eth (s : State) (r : Reg) (ix : List Nat) (b : Nat) (v : Bool) : (s.setBit r ix b v).eth = s.eth := rfl
@[simp] theorem State.setBit_sct (s : State) (r : Reg) (ix : List Nat) (b : Nat) (v : Bool) : (s.setBit r ix b v).sct = s.sct := rfl
@[simp] theorem State.setBit_err (s : State) (r : Reg) (ix : List Nat) (b : Nat) (v : Bool) : (s.setBit r ix b v).err = s.err := rfl
@[simp] theorem State.setBit_sch (s : State) (r : Reg) (ix : List Nat) (b : Nat) (v : Bool) : (s.setBit r ix b v).sch = s.sch := rfl
@[simp] theorem State.setBit_dbg (s : State) (r : Reg) (ix : List Nat) (b : Nat) (v : Bool) : (s.setBit r ix b v).dbg = s.dbg := rfl
@[simp] theorem State.setBit_sec (s : State) (r : Reg) (ix : List Nat) (b : Nat) (v : Bool) : (s.setBit r ix b v).sec = s.sec := rfl
@[simp] theorem State.setBit_pwr (s : State) (r : Reg) (ix : List Nat) (b : Nat) (v : Bool) : (s.setBit r ix b v).pwr = s.pwr := rfl

@[simp] theorem State.poke64_pending (s : State) (lo hi : Reg) (ix : List Nat) (v : Nat) : (s.poke64 lo hi ix v).pending = s.pending := rfl
@[simp] theorem State.poke64_free (s : State) (lo hi : Reg) (ix : List Nat) (v : Nat) : (s.poke64 lo hi ix v).free = s.free := rfl
@[simp] theorem State.poke64_mem (s : State) (lo hi : Reg) (ix : List Nat) (v : Nat) : (s.poke64 lo hi ix v).mem = s.mem := rfl
@[simp] theorem State.poke64_dev (s : State) (lo hi : Reg) (ix : List Nat) (v : Nat) : (s.poke64 lo hi ix v).dev = s.dev := rfl
@[simp] theorem State.poke64_img (s : State) (lo hi : Reg) (ix : List Nat) (v : Nat) : (s.poke64 lo hi ix v).img = s.img := rfl
@[simp] theorem State.poke64_tim (s : State) (lo hi : Reg) (ix : List Nat) (v : Nat) : (s.poke64 lo hi ix v).tim = s.tim := rfl
@[simp] theorem State.poke64_syn (s : State) (lo hi : Reg) (ix : List Nat) (v : Nat) : (s.poke64 lo hi ix v).syn = s.syn := rfl
@[simp] theorem State.poke64_boxes (s : State) (lo hi : Reg) (ix : List Nat) (v : Nat) : (s.poke64 lo hi ix v).boxes = s.boxes := rfl
@[simp] theorem State.poke64_passes (s : State) (lo hi : Reg) (ix : List Nat) (v : Nat) : (s.poke64 lo hi ix v).passes = s.passes := rfl
@[simp] theorem State.poke64_vis (s : State) (lo hi : Reg) (ix : List Nat) (v : Nat) : (s.poke64 lo hi ix v).vis = s.vis := rfl
@[simp] theorem State.poke64_dsp (s : State) (lo hi : Reg) (ix : List Nat) (v : Nat) : (s.poke64 lo hi ix v).dsp = s.dsp := rfl
@[simp] theorem State.poke64_cap (s : State) (lo hi : Reg) (ix : List Nat) (v : Nat) : (s.poke64 lo hi ix v).cap = s.cap := rfl
@[simp] theorem State.poke64_brg (s : State) (lo hi : Reg) (ix : List Nat) (v : Nat) : (s.poke64 lo hi ix v).brg = s.brg := rfl
@[simp] theorem State.poke64_eth (s : State) (lo hi : Reg) (ix : List Nat) (v : Nat) : (s.poke64 lo hi ix v).eth = s.eth := rfl
@[simp] theorem State.poke64_sct (s : State) (lo hi : Reg) (ix : List Nat) (v : Nat) : (s.poke64 lo hi ix v).sct = s.sct := rfl
@[simp] theorem State.poke64_err (s : State) (lo hi : Reg) (ix : List Nat) (v : Nat) : (s.poke64 lo hi ix v).err = s.err := rfl
@[simp] theorem State.poke64_sch (s : State) (lo hi : Reg) (ix : List Nat) (v : Nat) : (s.poke64 lo hi ix v).sch = s.sch := rfl
@[simp] theorem State.poke64_dbg (s : State) (lo hi : Reg) (ix : List Nat) (v : Nat) : (s.poke64 lo hi ix v).dbg = s.dbg := rfl
@[simp] theorem State.poke64_sec (s : State) (lo hi : Reg) (ix : List Nat) (v : Nat) : (s.poke64 lo hi ix v).sec = s.sec := rfl
@[simp] theorem State.poke64_pwr (s : State) (lo hi : Reg) (ix : List Nat) (v : Nat) : (s.poke64 lo hi ix v).pwr = s.pwr := rfl

@[simp] theorem State.store_pending (s : State) (a : Nat) (bs : List Byte) : (s.store a bs).pending = s.pending := rfl
@[simp] theorem State.store_free (s : State) (a : Nat) (bs : List Byte) : (s.store a bs).free = s.free := rfl
@[simp] theorem State.store_cfg (s : State) (a : Nat) (bs : List Byte) : (s.store a bs).cfg = s.cfg := rfl
@[simp] theorem State.store_dev (s : State) (a : Nat) (bs : List Byte) : (s.store a bs).dev = s.dev := rfl
@[simp] theorem State.store_img (s : State) (a : Nat) (bs : List Byte) : (s.store a bs).img = s.img := rfl
@[simp] theorem State.store_tim (s : State) (a : Nat) (bs : List Byte) : (s.store a bs).tim = s.tim := rfl
@[simp] theorem State.store_syn (s : State) (a : Nat) (bs : List Byte) : (s.store a bs).syn = s.syn := rfl
@[simp] theorem State.store_boxes (s : State) (a : Nat) (bs : List Byte) : (s.store a bs).boxes = s.boxes := rfl
@[simp] theorem State.store_passes (s : State) (a : Nat) (bs : List Byte) : (s.store a bs).passes = s.passes := rfl
@[simp] theorem State.store_vis (s : State) (a : Nat) (bs : List Byte) : (s.store a bs).vis = s.vis := rfl
@[simp] theorem State.store_dsp (s : State) (a : Nat) (bs : List Byte) : (s.store a bs).dsp = s.dsp := rfl
@[simp] theorem State.store_cap (s : State) (a : Nat) (bs : List Byte) : (s.store a bs).cap = s.cap := rfl
@[simp] theorem State.store_brg (s : State) (a : Nat) (bs : List Byte) : (s.store a bs).brg = s.brg := rfl
@[simp] theorem State.store_eth (s : State) (a : Nat) (bs : List Byte) : (s.store a bs).eth = s.eth := rfl
@[simp] theorem State.store_sct (s : State) (a : Nat) (bs : List Byte) : (s.store a bs).sct = s.sct := rfl
@[simp] theorem State.store_err (s : State) (a : Nat) (bs : List Byte) : (s.store a bs).err = s.err := rfl
@[simp] theorem State.store_sch (s : State) (a : Nat) (bs : List Byte) : (s.store a bs).sch = s.sch := rfl
@[simp] theorem State.store_dbg (s : State) (a : Nat) (bs : List Byte) : (s.store a bs).dbg = s.dbg := rfl
@[simp] theorem State.store_sec (s : State) (a : Nat) (bs : List Byte) : (s.store a bs).sec = s.sec := rfl
@[simp] theorem State.store_pwr (s : State) (a : Nat) (bs : List Byte) : (s.store a bs).pwr = s.pwr := rfl

@[simp] theorem State.draw_pending (s : State) : (s.draw).pending = s.pending := rfl
@[simp] theorem State.draw_cfg (s : State) : (s.draw).cfg = s.cfg := rfl
@[simp] theorem State.draw_mem (s : State) : (s.draw).mem = s.mem := rfl
@[simp] theorem State.draw_dev (s : State) : (s.draw).dev = s.dev := rfl
@[simp] theorem State.draw_img (s : State) : (s.draw).img = s.img := rfl
@[simp] theorem State.draw_tim (s : State) : (s.draw).tim = s.tim := rfl
@[simp] theorem State.draw_syn (s : State) : (s.draw).syn = s.syn := rfl
@[simp] theorem State.draw_boxes (s : State) : (s.draw).boxes = s.boxes := rfl
@[simp] theorem State.draw_passes (s : State) : (s.draw).passes = s.passes := rfl
@[simp] theorem State.draw_vis (s : State) : (s.draw).vis = s.vis := rfl
@[simp] theorem State.draw_dsp (s : State) : (s.draw).dsp = s.dsp := rfl
@[simp] theorem State.draw_cap (s : State) : (s.draw).cap = s.cap := rfl
@[simp] theorem State.draw_brg (s : State) : (s.draw).brg = s.brg := rfl
@[simp] theorem State.draw_eth (s : State) : (s.draw).eth = s.eth := rfl
@[simp] theorem State.draw_sct (s : State) : (s.draw).sct = s.sct := rfl
@[simp] theorem State.draw_err (s : State) : (s.draw).err = s.err := rfl
@[simp] theorem State.draw_sch (s : State) : (s.draw).sch = s.sch := rfl
@[simp] theorem State.draw_dbg (s : State) : (s.draw).dbg = s.dbg := rfl
@[simp] theorem State.draw_sec (s : State) : (s.draw).sec = s.sec := rfl
@[simp] theorem State.draw_pwr (s : State) : (s.draw).pwr = s.pwr := rfl

@[simp] theorem State.withPending_pending (s : State) {x} : (s.withPending x).pending = x := rfl
@[simp] theorem State.withPending_free (s : State) {x} : (s.withPending x).free = s.free := rfl
@[simp] theorem State.withPending_cfg (s : State) {x} : (s.withPending x).cfg = s.cfg := rfl
@[simp] theorem State.withPending_mem (s : State) {x} : (s.withPending x).mem = s.mem := rfl
@[simp] theorem State.withPending_dev (s : State) {x} : (s.withPending x).dev = s.dev := rfl
@[simp] theorem State.withPending_img (s : State) {x} : (s.withPending x).img = s.img := rfl
@[simp] theorem State.withPending_tim (s : State) {x} : (s.withPending x).tim = s.tim := rfl
@[simp] theorem State.withPending_syn (s : State) {x} : (s.withPending x).syn = s.syn := rfl
@[simp] theorem State.withPending_boxes (s : State) {x} : (s.withPending x).boxes = s.boxes := rfl
@[simp] theorem State.withPending_passes (s : State) {x} : (s.withPending x).passes = s.passes := rfl
@[simp] theorem State.withPending_vis (s : State) {x} : (s.withPending x).vis = s.vis := rfl
@[simp] theorem State.withPending_dsp (s : State) {x} : (s.withPending x).dsp = s.dsp := rfl
@[simp] theorem State.withPending_cap (s : State) {x} : (s.withPending x).cap = s.cap := rfl
@[simp] theorem State.withPending_brg (s : State) {x} : (s.withPending x).brg = s.brg := rfl
@[simp] theorem State.withPending_eth (s : State) {x} : (s.withPending x).eth = s.eth := rfl
@[simp] theorem State.withPending_sct (s : State) {x} : (s.withPending x).sct = s.sct := rfl
@[simp] theorem State.withPending_err (s : State) {x} : (s.withPending x).err = s.err := rfl
@[simp] theorem State.withPending_sch (s : State) {x} : (s.withPending x).sch = s.sch := rfl
@[simp] theorem State.withPending_dbg (s : State) {x} : (s.withPending x).dbg = s.dbg := rfl
@[simp] theorem State.withPending_sec (s : State) {x} : (s.withPending x).sec = s.sec := rfl
@[simp] theorem State.withPending_pwr (s : State) {x} : (s.withPending x).pwr = s.pwr := rfl
@[simp] theorem State.withPending_rd (s : State) {x} (r : Reg) (ix : List Nat) : (s.withPending x).rd r ix = s.rd r ix := rfl
@[simp] theorem State.withPending_fld (s : State) {x} (r : Reg) (ix : List Nat) (hi lo : Nat) :
    (s.withPending x).fld r ix hi lo = s.fld r ix hi lo := rfl
@[simp] theorem State.withPending_bit (s : State) {x} (r : Reg) (ix : List Nat) (b : Nat) :
    (s.withPending x).bit r ix b = s.bit r ix b := rfl

@[simp] theorem State.withFree_pending (s : State) {x} : (s.withFree x).pending = s.pending := rfl
@[simp] theorem State.withFree_free (s : State) {x} : (s.withFree x).free = x := rfl
@[simp] theorem State.withFree_cfg (s : State) {x} : (s.withFree x).cfg = s.cfg := rfl
@[simp] theorem State.withFree_mem (s : State) {x} : (s.withFree x).mem = s.mem := rfl
@[simp] theorem State.withFree_dev (s : State) {x} : (s.withFree x).dev = s.dev := rfl
@[simp] theorem State.withFree_img (s : State) {x} : (s.withFree x).img = s.img := rfl
@[simp] theorem State.withFree_tim (s : State) {x} : (s.withFree x).tim = s.tim := rfl
@[simp] theorem State.withFree_syn (s : State) {x} : (s.withFree x).syn = s.syn := rfl
@[simp] theorem State.withFree_boxes (s : State) {x} : (s.withFree x).boxes = s.boxes := rfl
@[simp] theorem State.withFree_passes (s : State) {x} : (s.withFree x).passes = s.passes := rfl
@[simp] theorem State.withFree_vis (s : State) {x} : (s.withFree x).vis = s.vis := rfl
@[simp] theorem State.withFree_dsp (s : State) {x} : (s.withFree x).dsp = s.dsp := rfl
@[simp] theorem State.withFree_cap (s : State) {x} : (s.withFree x).cap = s.cap := rfl
@[simp] theorem State.withFree_brg (s : State) {x} : (s.withFree x).brg = s.brg := rfl
@[simp] theorem State.withFree_eth (s : State) {x} : (s.withFree x).eth = s.eth := rfl
@[simp] theorem State.withFree_sct (s : State) {x} : (s.withFree x).sct = s.sct := rfl
@[simp] theorem State.withFree_err (s : State) {x} : (s.withFree x).err = s.err := rfl
@[simp] theorem State.withFree_sch (s : State) {x} : (s.withFree x).sch = s.sch := rfl
@[simp] theorem State.withFree_dbg (s : State) {x} : (s.withFree x).dbg = s.dbg := rfl
@[simp] theorem State.withFree_sec (s : State) {x} : (s.withFree x).sec = s.sec := rfl
@[simp] theorem State.withFree_pwr (s : State) {x} : (s.withFree x).pwr = s.pwr := rfl
@[simp] theorem State.withFree_rd (s : State) {x} (r : Reg) (ix : List Nat) : (s.withFree x).rd r ix = s.rd r ix := rfl
@[simp] theorem State.withFree_fld (s : State) {x} (r : Reg) (ix : List Nat) (hi lo : Nat) :
    (s.withFree x).fld r ix hi lo = s.fld r ix hi lo := rfl
@[simp] theorem State.withFree_bit (s : State) {x} (r : Reg) (ix : List Nat) (b : Nat) :
    (s.withFree x).bit r ix b = s.bit r ix b := rfl

@[simp] theorem State.withCfg_pending (s : State) {x} : (s.withCfg x).pending = s.pending := rfl
@[simp] theorem State.withCfg_free (s : State) {x} : (s.withCfg x).free = s.free := rfl
@[simp] theorem State.withCfg_cfg (s : State) {x} : (s.withCfg x).cfg = x := rfl
@[simp] theorem State.withCfg_mem (s : State) {x} : (s.withCfg x).mem = s.mem := rfl
@[simp] theorem State.withCfg_dev (s : State) {x} : (s.withCfg x).dev = s.dev := rfl
@[simp] theorem State.withCfg_img (s : State) {x} : (s.withCfg x).img = s.img := rfl
@[simp] theorem State.withCfg_tim (s : State) {x} : (s.withCfg x).tim = s.tim := rfl
@[simp] theorem State.withCfg_syn (s : State) {x} : (s.withCfg x).syn = s.syn := rfl
@[simp] theorem State.withCfg_boxes (s : State) {x} : (s.withCfg x).boxes = s.boxes := rfl
@[simp] theorem State.withCfg_passes (s : State) {x} : (s.withCfg x).passes = s.passes := rfl
@[simp] theorem State.withCfg_vis (s : State) {x} : (s.withCfg x).vis = s.vis := rfl
@[simp] theorem State.withCfg_dsp (s : State) {x} : (s.withCfg x).dsp = s.dsp := rfl
@[simp] theorem State.withCfg_cap (s : State) {x} : (s.withCfg x).cap = s.cap := rfl
@[simp] theorem State.withCfg_brg (s : State) {x} : (s.withCfg x).brg = s.brg := rfl
@[simp] theorem State.withCfg_eth (s : State) {x} : (s.withCfg x).eth = s.eth := rfl
@[simp] theorem State.withCfg_sct (s : State) {x} : (s.withCfg x).sct = s.sct := rfl
@[simp] theorem State.withCfg_err (s : State) {x} : (s.withCfg x).err = s.err := rfl
@[simp] theorem State.withCfg_sch (s : State) {x} : (s.withCfg x).sch = s.sch := rfl
@[simp] theorem State.withCfg_dbg (s : State) {x} : (s.withCfg x).dbg = s.dbg := rfl
@[simp] theorem State.withCfg_sec (s : State) {x} : (s.withCfg x).sec = s.sec := rfl
@[simp] theorem State.withCfg_pwr (s : State) {x} : (s.withCfg x).pwr = s.pwr := rfl

@[simp] theorem State.withMem_pending (s : State) {x} : (s.withMem x).pending = s.pending := rfl
@[simp] theorem State.withMem_free (s : State) {x} : (s.withMem x).free = s.free := rfl
@[simp] theorem State.withMem_cfg (s : State) {x} : (s.withMem x).cfg = s.cfg := rfl
@[simp] theorem State.withMem_mem (s : State) {x} : (s.withMem x).mem = x := rfl
@[simp] theorem State.withMem_dev (s : State) {x} : (s.withMem x).dev = s.dev := rfl
@[simp] theorem State.withMem_img (s : State) {x} : (s.withMem x).img = s.img := rfl
@[simp] theorem State.withMem_tim (s : State) {x} : (s.withMem x).tim = s.tim := rfl
@[simp] theorem State.withMem_syn (s : State) {x} : (s.withMem x).syn = s.syn := rfl
@[simp] theorem State.withMem_boxes (s : State) {x} : (s.withMem x).boxes = s.boxes := rfl
@[simp] theorem State.withMem_passes (s : State) {x} : (s.withMem x).passes = s.passes := rfl
@[simp] theorem State.withMem_vis (s : State) {x} : (s.withMem x).vis = s.vis := rfl
@[simp] theorem State.withMem_dsp (s : State) {x} : (s.withMem x).dsp = s.dsp := rfl
@[simp] theorem State.withMem_cap (s : State) {x} : (s.withMem x).cap = s.cap := rfl
@[simp] theorem State.withMem_brg (s : State) {x} : (s.withMem x).brg = s.brg := rfl
@[simp] theorem State.withMem_eth (s : State) {x} : (s.withMem x).eth = s.eth := rfl
@[simp] theorem State.withMem_sct (s : State) {x} : (s.withMem x).sct = s.sct := rfl
@[simp] theorem State.withMem_err (s : State) {x} : (s.withMem x).err = s.err := rfl
@[simp] theorem State.withMem_sch (s : State) {x} : (s.withMem x).sch = s.sch := rfl
@[simp] theorem State.withMem_dbg (s : State) {x} : (s.withMem x).dbg = s.dbg := rfl
@[simp] theorem State.withMem_sec (s : State) {x} : (s.withMem x).sec = s.sec := rfl
@[simp] theorem State.withMem_pwr (s : State) {x} : (s.withMem x).pwr = s.pwr := rfl
@[simp] theorem State.withMem_rd (s : State) {x} (r : Reg) (ix : List Nat) : (s.withMem x).rd r ix = s.rd r ix := rfl
@[simp] theorem State.withMem_fld (s : State) {x} (r : Reg) (ix : List Nat) (hi lo : Nat) :
    (s.withMem x).fld r ix hi lo = s.fld r ix hi lo := rfl
@[simp] theorem State.withMem_bit (s : State) {x} (r : Reg) (ix : List Nat) (b : Nat) :
    (s.withMem x).bit r ix b = s.bit r ix b := rfl

@[simp] theorem State.withDev_pending (s : State) {x} : (s.withDev x).pending = s.pending := rfl
@[simp] theorem State.withDev_free (s : State) {x} : (s.withDev x).free = s.free := rfl
@[simp] theorem State.withDev_cfg (s : State) {x} : (s.withDev x).cfg = s.cfg := rfl
@[simp] theorem State.withDev_mem (s : State) {x} : (s.withDev x).mem = s.mem := rfl
@[simp] theorem State.withDev_dev (s : State) {x} : (s.withDev x).dev = x := rfl
@[simp] theorem State.withDev_img (s : State) {x} : (s.withDev x).img = s.img := rfl
@[simp] theorem State.withDev_tim (s : State) {x} : (s.withDev x).tim = s.tim := rfl
@[simp] theorem State.withDev_syn (s : State) {x} : (s.withDev x).syn = s.syn := rfl
@[simp] theorem State.withDev_boxes (s : State) {x} : (s.withDev x).boxes = s.boxes := rfl
@[simp] theorem State.withDev_passes (s : State) {x} : (s.withDev x).passes = s.passes := rfl
@[simp] theorem State.withDev_vis (s : State) {x} : (s.withDev x).vis = s.vis := rfl
@[simp] theorem State.withDev_dsp (s : State) {x} : (s.withDev x).dsp = s.dsp := rfl
@[simp] theorem State.withDev_cap (s : State) {x} : (s.withDev x).cap = s.cap := rfl
@[simp] theorem State.withDev_brg (s : State) {x} : (s.withDev x).brg = s.brg := rfl
@[simp] theorem State.withDev_eth (s : State) {x} : (s.withDev x).eth = s.eth := rfl
@[simp] theorem State.withDev_sct (s : State) {x} : (s.withDev x).sct = s.sct := rfl
@[simp] theorem State.withDev_err (s : State) {x} : (s.withDev x).err = s.err := rfl
@[simp] theorem State.withDev_sch (s : State) {x} : (s.withDev x).sch = s.sch := rfl
@[simp] theorem State.withDev_dbg (s : State) {x} : (s.withDev x).dbg = s.dbg := rfl
@[simp] theorem State.withDev_sec (s : State) {x} : (s.withDev x).sec = s.sec := rfl
@[simp] theorem State.withDev_pwr (s : State) {x} : (s.withDev x).pwr = s.pwr := rfl
@[simp] theorem State.withDev_rd (s : State) {x} (r : Reg) (ix : List Nat) : (s.withDev x).rd r ix = s.rd r ix := rfl
@[simp] theorem State.withDev_fld (s : State) {x} (r : Reg) (ix : List Nat) (hi lo : Nat) :
    (s.withDev x).fld r ix hi lo = s.fld r ix hi lo := rfl
@[simp] theorem State.withDev_bit (s : State) {x} (r : Reg) (ix : List Nat) (b : Nat) :
    (s.withDev x).bit r ix b = s.bit r ix b := rfl

@[simp] theorem State.withImg_pending (s : State) {x} : (s.withImg x).pending = s.pending := rfl
@[simp] theorem State.withImg_free (s : State) {x} : (s.withImg x).free = s.free := rfl
@[simp] theorem State.withImg_cfg (s : State) {x} : (s.withImg x).cfg = s.cfg := rfl
@[simp] theorem State.withImg_mem (s : State) {x} : (s.withImg x).mem = s.mem := rfl
@[simp] theorem State.withImg_dev (s : State) {x} : (s.withImg x).dev = s.dev := rfl
@[simp] theorem State.withImg_img (s : State) {x} : (s.withImg x).img = x := rfl
@[simp] theorem State.withImg_tim (s : State) {x} : (s.withImg x).tim = s.tim := rfl
@[simp] theorem State.withImg_syn (s : State) {x} : (s.withImg x).syn = s.syn := rfl
@[simp] theorem State.withImg_boxes (s : State) {x} : (s.withImg x).boxes = s.boxes := rfl
@[simp] theorem State.withImg_passes (s : State) {x} : (s.withImg x).passes = s.passes := rfl
@[simp] theorem State.withImg_vis (s : State) {x} : (s.withImg x).vis = s.vis := rfl
@[simp] theorem State.withImg_dsp (s : State) {x} : (s.withImg x).dsp = s.dsp := rfl
@[simp] theorem State.withImg_cap (s : State) {x} : (s.withImg x).cap = s.cap := rfl
@[simp] theorem State.withImg_brg (s : State) {x} : (s.withImg x).brg = s.brg := rfl
@[simp] theorem State.withImg_eth (s : State) {x} : (s.withImg x).eth = s.eth := rfl
@[simp] theorem State.withImg_sct (s : State) {x} : (s.withImg x).sct = s.sct := rfl
@[simp] theorem State.withImg_err (s : State) {x} : (s.withImg x).err = s.err := rfl
@[simp] theorem State.withImg_sch (s : State) {x} : (s.withImg x).sch = s.sch := rfl
@[simp] theorem State.withImg_dbg (s : State) {x} : (s.withImg x).dbg = s.dbg := rfl
@[simp] theorem State.withImg_sec (s : State) {x} : (s.withImg x).sec = s.sec := rfl
@[simp] theorem State.withImg_pwr (s : State) {x} : (s.withImg x).pwr = s.pwr := rfl
@[simp] theorem State.withImg_rd (s : State) {x} (r : Reg) (ix : List Nat) : (s.withImg x).rd r ix = s.rd r ix := rfl
@[simp] theorem State.withImg_fld (s : State) {x} (r : Reg) (ix : List Nat) (hi lo : Nat) :
    (s.withImg x).fld r ix hi lo = s.fld r ix hi lo := rfl
@[simp] theorem State.withImg_bit (s : State) {x} (r : Reg) (ix : List Nat) (b : Nat) :
    (s.withImg x).bit r ix b = s.bit r ix b := rfl

@[simp] theorem State.withTim_pending (s : State) {x} : (s.withTim x).pending = s.pending := rfl
@[simp] theorem State.withTim_free (s : State) {x} : (s.withTim x).free = s.free := rfl
@[simp] theorem State.withTim_cfg (s : State) {x} : (s.withTim x).cfg = s.cfg := rfl
@[simp] theorem State.withTim_mem (s : State) {x} : (s.withTim x).mem = s.mem := rfl
@[simp] theorem State.withTim_dev (s : State) {x} : (s.withTim x).dev = s.dev := rfl
@[simp] theorem State.withTim_img (s : State) {x} : (s.withTim x).img = s.img := rfl
@[simp] theorem State.withTim_tim (s : State) {x} : (s.withTim x).tim = x := rfl
@[simp] theorem State.withTim_syn (s : State) {x} : (s.withTim x).syn = s.syn := rfl
@[simp] theorem State.withTim_boxes (s : State) {x} : (s.withTim x).boxes = s.boxes := rfl
@[simp] theorem State.withTim_passes (s : State) {x} : (s.withTim x).passes = s.passes := rfl
@[simp] theorem State.withTim_vis (s : State) {x} : (s.withTim x).vis = s.vis := rfl
@[simp] theorem State.withTim_dsp (s : State) {x} : (s.withTim x).dsp = s.dsp := rfl
@[simp] theorem State.withTim_cap (s : State) {x} : (s.withTim x).cap = s.cap := rfl
@[simp] theorem State.withTim_brg (s : State) {x} : (s.withTim x).brg = s.brg := rfl
@[simp] theorem State.withTim_eth (s : State) {x} : (s.withTim x).eth = s.eth := rfl
@[simp] theorem State.withTim_sct (s : State) {x} : (s.withTim x).sct = s.sct := rfl
@[simp] theorem State.withTim_err (s : State) {x} : (s.withTim x).err = s.err := rfl
@[simp] theorem State.withTim_sch (s : State) {x} : (s.withTim x).sch = s.sch := rfl
@[simp] theorem State.withTim_dbg (s : State) {x} : (s.withTim x).dbg = s.dbg := rfl
@[simp] theorem State.withTim_sec (s : State) {x} : (s.withTim x).sec = s.sec := rfl
@[simp] theorem State.withTim_pwr (s : State) {x} : (s.withTim x).pwr = s.pwr := rfl
@[simp] theorem State.withTim_rd (s : State) {x} (r : Reg) (ix : List Nat) : (s.withTim x).rd r ix = s.rd r ix := rfl
@[simp] theorem State.withTim_fld (s : State) {x} (r : Reg) (ix : List Nat) (hi lo : Nat) :
    (s.withTim x).fld r ix hi lo = s.fld r ix hi lo := rfl
@[simp] theorem State.withTim_bit (s : State) {x} (r : Reg) (ix : List Nat) (b : Nat) :
    (s.withTim x).bit r ix b = s.bit r ix b := rfl

@[simp] theorem State.withSyn_pending (s : State) {x} : (s.withSyn x).pending = s.pending := rfl
@[simp] theorem State.withSyn_free (s : State) {x} : (s.withSyn x).free = s.free := rfl
@[simp] theorem State.withSyn_cfg (s : State) {x} : (s.withSyn x).cfg = s.cfg := rfl
@[simp] theorem State.withSyn_mem (s : State) {x} : (s.withSyn x).mem = s.mem := rfl
@[simp] theorem State.withSyn_dev (s : State) {x} : (s.withSyn x).dev = s.dev := rfl
@[simp] theorem State.withSyn_img (s : State) {x} : (s.withSyn x).img = s.img := rfl
@[simp] theorem State.withSyn_tim (s : State) {x} : (s.withSyn x).tim = s.tim := rfl
@[simp] theorem State.withSyn_syn (s : State) {x} : (s.withSyn x).syn = x := rfl
@[simp] theorem State.withSyn_boxes (s : State) {x} : (s.withSyn x).boxes = s.boxes := rfl
@[simp] theorem State.withSyn_passes (s : State) {x} : (s.withSyn x).passes = s.passes := rfl
@[simp] theorem State.withSyn_vis (s : State) {x} : (s.withSyn x).vis = s.vis := rfl
@[simp] theorem State.withSyn_dsp (s : State) {x} : (s.withSyn x).dsp = s.dsp := rfl
@[simp] theorem State.withSyn_cap (s : State) {x} : (s.withSyn x).cap = s.cap := rfl
@[simp] theorem State.withSyn_brg (s : State) {x} : (s.withSyn x).brg = s.brg := rfl
@[simp] theorem State.withSyn_eth (s : State) {x} : (s.withSyn x).eth = s.eth := rfl
@[simp] theorem State.withSyn_sct (s : State) {x} : (s.withSyn x).sct = s.sct := rfl
@[simp] theorem State.withSyn_err (s : State) {x} : (s.withSyn x).err = s.err := rfl
@[simp] theorem State.withSyn_sch (s : State) {x} : (s.withSyn x).sch = s.sch := rfl
@[simp] theorem State.withSyn_dbg (s : State) {x} : (s.withSyn x).dbg = s.dbg := rfl
@[simp] theorem State.withSyn_sec (s : State) {x} : (s.withSyn x).sec = s.sec := rfl
@[simp] theorem State.withSyn_pwr (s : State) {x} : (s.withSyn x).pwr = s.pwr := rfl
@[simp] theorem State.withSyn_rd (s : State) {x} (r : Reg) (ix : List Nat) : (s.withSyn x).rd r ix = s.rd r ix := rfl
@[simp] theorem State.withSyn_fld (s : State) {x} (r : Reg) (ix : List Nat) (hi lo : Nat) :
    (s.withSyn x).fld r ix hi lo = s.fld r ix hi lo := rfl
@[simp] theorem State.withSyn_bit (s : State) {x} (r : Reg) (ix : List Nat) (b : Nat) :
    (s.withSyn x).bit r ix b = s.bit r ix b := rfl

@[simp] theorem State.withBoxes_pending (s : State) {x} : (s.withBoxes x).pending = s.pending := rfl
@[simp] theorem State.withBoxes_free (s : State) {x} : (s.withBoxes x).free = s.free := rfl
@[simp] theorem State.withBoxes_cfg (s : State) {x} : (s.withBoxes x).cfg = s.cfg := rfl
@[simp] theorem State.withBoxes_mem (s : State) {x} : (s.withBoxes x).mem = s.mem := rfl
@[simp] theorem State.withBoxes_dev (s : State) {x} : (s.withBoxes x).dev = s.dev := rfl
@[simp] theorem State.withBoxes_img (s : State) {x} : (s.withBoxes x).img = s.img := rfl
@[simp] theorem State.withBoxes_tim (s : State) {x} : (s.withBoxes x).tim = s.tim := rfl
@[simp] theorem State.withBoxes_syn (s : State) {x} : (s.withBoxes x).syn = s.syn := rfl
@[simp] theorem State.withBoxes_boxes (s : State) {x} : (s.withBoxes x).boxes = x := rfl
@[simp] theorem State.withBoxes_passes (s : State) {x} : (s.withBoxes x).passes = s.passes := rfl
@[simp] theorem State.withBoxes_vis (s : State) {x} : (s.withBoxes x).vis = s.vis := rfl
@[simp] theorem State.withBoxes_dsp (s : State) {x} : (s.withBoxes x).dsp = s.dsp := rfl
@[simp] theorem State.withBoxes_cap (s : State) {x} : (s.withBoxes x).cap = s.cap := rfl
@[simp] theorem State.withBoxes_brg (s : State) {x} : (s.withBoxes x).brg = s.brg := rfl
@[simp] theorem State.withBoxes_eth (s : State) {x} : (s.withBoxes x).eth = s.eth := rfl
@[simp] theorem State.withBoxes_sct (s : State) {x} : (s.withBoxes x).sct = s.sct := rfl
@[simp] theorem State.withBoxes_err (s : State) {x} : (s.withBoxes x).err = s.err := rfl
@[simp] theorem State.withBoxes_sch (s : State) {x} : (s.withBoxes x).sch = s.sch := rfl
@[simp] theorem State.withBoxes_dbg (s : State) {x} : (s.withBoxes x).dbg = s.dbg := rfl
@[simp] theorem State.withBoxes_sec (s : State) {x} : (s.withBoxes x).sec = s.sec := rfl
@[simp] theorem State.withBoxes_pwr (s : State) {x} : (s.withBoxes x).pwr = s.pwr := rfl
@[simp] theorem State.withBoxes_rd (s : State) {x} (r : Reg) (ix : List Nat) : (s.withBoxes x).rd r ix = s.rd r ix := rfl
@[simp] theorem State.withBoxes_fld (s : State) {x} (r : Reg) (ix : List Nat) (hi lo : Nat) :
    (s.withBoxes x).fld r ix hi lo = s.fld r ix hi lo := rfl
@[simp] theorem State.withBoxes_bit (s : State) {x} (r : Reg) (ix : List Nat) (b : Nat) :
    (s.withBoxes x).bit r ix b = s.bit r ix b := rfl

@[simp] theorem State.withPasses_pending (s : State) {x} : (s.withPasses x).pending = s.pending := rfl
@[simp] theorem State.withPasses_free (s : State) {x} : (s.withPasses x).free = s.free := rfl
@[simp] theorem State.withPasses_cfg (s : State) {x} : (s.withPasses x).cfg = s.cfg := rfl
@[simp] theorem State.withPasses_mem (s : State) {x} : (s.withPasses x).mem = s.mem := rfl
@[simp] theorem State.withPasses_dev (s : State) {x} : (s.withPasses x).dev = s.dev := rfl
@[simp] theorem State.withPasses_img (s : State) {x} : (s.withPasses x).img = s.img := rfl
@[simp] theorem State.withPasses_tim (s : State) {x} : (s.withPasses x).tim = s.tim := rfl
@[simp] theorem State.withPasses_syn (s : State) {x} : (s.withPasses x).syn = s.syn := rfl
@[simp] theorem State.withPasses_boxes (s : State) {x} : (s.withPasses x).boxes = s.boxes := rfl
@[simp] theorem State.withPasses_passes (s : State) {x} : (s.withPasses x).passes = x := rfl
@[simp] theorem State.withPasses_vis (s : State) {x} : (s.withPasses x).vis = s.vis := rfl
@[simp] theorem State.withPasses_dsp (s : State) {x} : (s.withPasses x).dsp = s.dsp := rfl
@[simp] theorem State.withPasses_cap (s : State) {x} : (s.withPasses x).cap = s.cap := rfl
@[simp] theorem State.withPasses_brg (s : State) {x} : (s.withPasses x).brg = s.brg := rfl
@[simp] theorem State.withPasses_eth (s : State) {x} : (s.withPasses x).eth = s.eth := rfl
@[simp] theorem State.withPasses_sct (s : State) {x} : (s.withPasses x).sct = s.sct := rfl
@[simp] theorem State.withPasses_err (s : State) {x} : (s.withPasses x).err = s.err := rfl
@[simp] theorem State.withPasses_sch (s : State) {x} : (s.withPasses x).sch = s.sch := rfl
@[simp] theorem State.withPasses_dbg (s : State) {x} : (s.withPasses x).dbg = s.dbg := rfl
@[simp] theorem State.withPasses_sec (s : State) {x} : (s.withPasses x).sec = s.sec := rfl
@[simp] theorem State.withPasses_pwr (s : State) {x} : (s.withPasses x).pwr = s.pwr := rfl
@[simp] theorem State.withPasses_rd (s : State) {x} (r : Reg) (ix : List Nat) : (s.withPasses x).rd r ix = s.rd r ix := rfl
@[simp] theorem State.withPasses_fld (s : State) {x} (r : Reg) (ix : List Nat) (hi lo : Nat) :
    (s.withPasses x).fld r ix hi lo = s.fld r ix hi lo := rfl
@[simp] theorem State.withPasses_bit (s : State) {x} (r : Reg) (ix : List Nat) (b : Nat) :
    (s.withPasses x).bit r ix b = s.bit r ix b := rfl

@[simp] theorem State.withVis_pending (s : State) {x} : (s.withVis x).pending = s.pending := rfl
@[simp] theorem State.withVis_free (s : State) {x} : (s.withVis x).free = s.free := rfl
@[simp] theorem State.withVis_cfg (s : State) {x} : (s.withVis x).cfg = s.cfg := rfl
@[simp] theorem State.withVis_mem (s : State) {x} : (s.withVis x).mem = s.mem := rfl
@[simp] theorem State.withVis_dev (s : State) {x} : (s.withVis x).dev = s.dev := rfl
@[simp] theorem State.withVis_img (s : State) {x} : (s.withVis x).img = s.img := rfl
@[simp] theorem State.withVis_tim (s : State) {x} : (s.withVis x).tim = s.tim := rfl
@[simp] theorem State.withVis_syn (s : State) {x} : (s.withVis x).syn = s.syn := rfl
@[simp] theorem State.withVis_boxes (s : State) {x} : (s.withVis x).boxes = s.boxes := rfl
@[simp] theorem State.withVis_passes (s : State) {x} : (s.withVis x).passes = s.passes := rfl
@[simp] theorem State.withVis_vis (s : State) {x} : (s.withVis x).vis = x := rfl
@[simp] theorem State.withVis_dsp (s : State) {x} : (s.withVis x).dsp = s.dsp := rfl
@[simp] theorem State.withVis_cap (s : State) {x} : (s.withVis x).cap = s.cap := rfl
@[simp] theorem State.withVis_brg (s : State) {x} : (s.withVis x).brg = s.brg := rfl
@[simp] theorem State.withVis_eth (s : State) {x} : (s.withVis x).eth = s.eth := rfl
@[simp] theorem State.withVis_sct (s : State) {x} : (s.withVis x).sct = s.sct := rfl
@[simp] theorem State.withVis_err (s : State) {x} : (s.withVis x).err = s.err := rfl
@[simp] theorem State.withVis_sch (s : State) {x} : (s.withVis x).sch = s.sch := rfl
@[simp] theorem State.withVis_dbg (s : State) {x} : (s.withVis x).dbg = s.dbg := rfl
@[simp] theorem State.withVis_sec (s : State) {x} : (s.withVis x).sec = s.sec := rfl
@[simp] theorem State.withVis_pwr (s : State) {x} : (s.withVis x).pwr = s.pwr := rfl
@[simp] theorem State.withVis_rd (s : State) {x} (r : Reg) (ix : List Nat) : (s.withVis x).rd r ix = s.rd r ix := rfl
@[simp] theorem State.withVis_fld (s : State) {x} (r : Reg) (ix : List Nat) (hi lo : Nat) :
    (s.withVis x).fld r ix hi lo = s.fld r ix hi lo := rfl
@[simp] theorem State.withVis_bit (s : State) {x} (r : Reg) (ix : List Nat) (b : Nat) :
    (s.withVis x).bit r ix b = s.bit r ix b := rfl

@[simp] theorem State.withDsp_pending (s : State) {x} : (s.withDsp x).pending = s.pending := rfl
@[simp] theorem State.withDsp_free (s : State) {x} : (s.withDsp x).free = s.free := rfl
@[simp] theorem State.withDsp_cfg (s : State) {x} : (s.withDsp x).cfg = s.cfg := rfl
@[simp] theorem State.withDsp_mem (s : State) {x} : (s.withDsp x).mem = s.mem := rfl
@[simp] theorem State.withDsp_dev (s : State) {x} : (s.withDsp x).dev = s.dev := rfl
@[simp] theorem State.withDsp_img (s : State) {x} : (s.withDsp x).img = s.img := rfl
@[simp] theorem State.withDsp_tim (s : State) {x} : (s.withDsp x).tim = s.tim := rfl
@[simp] theorem State.withDsp_syn (s : State) {x} : (s.withDsp x).syn = s.syn := rfl
@[simp] theorem State.withDsp_boxes (s : State) {x} : (s.withDsp x).boxes = s.boxes := rfl
@[simp] theorem State.withDsp_passes (s : State) {x} : (s.withDsp x).passes = s.passes := rfl
@[simp] theorem State.withDsp_vis (s : State) {x} : (s.withDsp x).vis = s.vis := rfl
@[simp] theorem State.withDsp_dsp (s : State) {x} : (s.withDsp x).dsp = x := rfl
@[simp] theorem State.withDsp_cap (s : State) {x} : (s.withDsp x).cap = s.cap := rfl
@[simp] theorem State.withDsp_brg (s : State) {x} : (s.withDsp x).brg = s.brg := rfl
@[simp] theorem State.withDsp_eth (s : State) {x} : (s.withDsp x).eth = s.eth := rfl
@[simp] theorem State.withDsp_sct (s : State) {x} : (s.withDsp x).sct = s.sct := rfl
@[simp] theorem State.withDsp_err (s : State) {x} : (s.withDsp x).err = s.err := rfl
@[simp] theorem State.withDsp_sch (s : State) {x} : (s.withDsp x).sch = s.sch := rfl
@[simp] theorem State.withDsp_dbg (s : State) {x} : (s.withDsp x).dbg = s.dbg := rfl
@[simp] theorem State.withDsp_sec (s : State) {x} : (s.withDsp x).sec = s.sec := rfl
@[simp] theorem State.withDsp_pwr (s : State) {x} : (s.withDsp x).pwr = s.pwr := rfl
@[simp] theorem State.withDsp_rd (s : State) {x} (r : Reg) (ix : List Nat) : (s.withDsp x).rd r ix = s.rd r ix := rfl
@[simp] theorem State.withDsp_fld (s : State) {x} (r : Reg) (ix : List Nat) (hi lo : Nat) :
    (s.withDsp x).fld r ix hi lo = s.fld r ix hi lo := rfl
@[simp] theorem State.withDsp_bit (s : State) {x} (r : Reg) (ix : List Nat) (b : Nat) :
    (s.withDsp x).bit r ix b = s.bit r ix b := rfl

@[simp] theorem State.withCap_pending (s : State) {x} : (s.withCap x).pending = s.pending := rfl
@[simp] theorem State.withCap_free (s : State) {x} : (s.withCap x).free = s.free := rfl
@[simp] theorem State.withCap_cfg (s : State) {x} : (s.withCap x).cfg = s.cfg := rfl
@[simp] theorem State.withCap_mem (s : State) {x} : (s.withCap x).mem = s.mem := rfl
@[simp] theorem State.withCap_dev (s : State) {x} : (s.withCap x).dev = s.dev := rfl
@[simp] theorem State.withCap_img (s : State) {x} : (s.withCap x).img = s.img := rfl
@[simp] theorem State.withCap_tim (s : State) {x} : (s.withCap x).tim = s.tim := rfl
@[simp] theorem State.withCap_syn (s : State) {x} : (s.withCap x).syn = s.syn := rfl
@[simp] theorem State.withCap_boxes (s : State) {x} : (s.withCap x).boxes = s.boxes := rfl
@[simp] theorem State.withCap_passes (s : State) {x} : (s.withCap x).passes = s.passes := rfl
@[simp] theorem State.withCap_vis (s : State) {x} : (s.withCap x).vis = s.vis := rfl
@[simp] theorem State.withCap_dsp (s : State) {x} : (s.withCap x).dsp = s.dsp := rfl
@[simp] theorem State.withCap_cap (s : State) {x} : (s.withCap x).cap = x := rfl
@[simp] theorem State.withCap_brg (s : State) {x} : (s.withCap x).brg = s.brg := rfl
@[simp] theorem State.withCap_eth (s : State) {x} : (s.withCap x).eth = s.eth := rfl
@[simp] theorem State.withCap_sct (s : State) {x} : (s.withCap x).sct = s.sct := rfl
@[simp] theorem State.withCap_err (s : State) {x} : (s.withCap x).err = s.err := rfl
@[simp] theorem State.withCap_sch (s : State) {x} : (s.withCap x).sch = s.sch := rfl
@[simp] theorem State.withCap_dbg (s : State) {x} : (s.withCap x).dbg = s.dbg := rfl
@[simp] theorem State.withCap_sec (s : State) {x} : (s.withCap x).sec = s.sec := rfl
@[simp] theorem State.withCap_pwr (s : State) {x} : (s.withCap x).pwr = s.pwr := rfl
@[simp] theorem State.withCap_rd (s : State) {x} (r : Reg) (ix : List Nat) : (s.withCap x).rd r ix = s.rd r ix := rfl
@[simp] theorem State.withCap_fld (s : State) {x} (r : Reg) (ix : List Nat) (hi lo : Nat) :
    (s.withCap x).fld r ix hi lo = s.fld r ix hi lo := rfl
@[simp] theorem State.withCap_bit (s : State) {x} (r : Reg) (ix : List Nat) (b : Nat) :
    (s.withCap x).bit r ix b = s.bit r ix b := rfl

@[simp] theorem State.withBrg_pending (s : State) {x} : (s.withBrg x).pending = s.pending := rfl
@[simp] theorem State.withBrg_free (s : State) {x} : (s.withBrg x).free = s.free := rfl
@[simp] theorem State.withBrg_cfg (s : State) {x} : (s.withBrg x).cfg = s.cfg := rfl
@[simp] theorem State.withBrg_mem (s : State) {x} : (s.withBrg x).mem = s.mem := rfl
@[simp] theorem State.withBrg_dev (s : State) {x} : (s.withBrg x).dev = s.dev := rfl
@[simp] theorem State.withBrg_img (s : State) {x} : (s.withBrg x).img = s.img := rfl
@[simp] theorem State.withBrg_tim (s : State) {x} : (s.withBrg x).tim = s.tim := rfl
@[simp] theorem State.withBrg_syn (s : State) {x} : (s.withBrg x).syn = s.syn := rfl
@[simp] theorem State.withBrg_boxes (s : State) {x} : (s.withBrg x).boxes = s.boxes := rfl
@[simp] theorem State.withBrg_passes (s : State) {x} : (s.withBrg x).passes = s.passes := rfl
@[simp] theorem State.withBrg_vis (s : State) {x} : (s.withBrg x).vis = s.vis := rfl
@[simp] theorem State.withBrg_dsp (s : State) {x} : (s.withBrg x).dsp = s.dsp := rfl
@[simp] theorem State.withBrg_cap (s : State) {x} : (s.withBrg x).cap = s.cap := rfl
@[simp] theorem State.withBrg_brg (s : State) {x} : (s.withBrg x).brg = x := rfl
@[simp] theorem State.withBrg_eth (s : State) {x} : (s.withBrg x).eth = s.eth := rfl
@[simp] theorem State.withBrg_sct (s : State) {x} : (s.withBrg x).sct = s.sct := rfl
@[simp] theorem State.withBrg_err (s : State) {x} : (s.withBrg x).err = s.err := rfl
@[simp] theorem State.withBrg_sch (s : State) {x} : (s.withBrg x).sch = s.sch := rfl
@[simp] theorem State.withBrg_dbg (s : State) {x} : (s.withBrg x).dbg = s.dbg := rfl
@[simp] theorem State.withBrg_sec (s : State) {x} : (s.withBrg x).sec = s.sec := rfl
@[simp] theorem State.withBrg_pwr (s : State) {x} : (s.withBrg x).pwr = s.pwr := rfl
@[simp] theorem State.withBrg_rd (s : State) {x} (r : Reg) (ix : List Nat) : (s.withBrg x).rd r ix = s.rd r ix := rfl
@[simp] theorem State.withBrg_fld (s : State) {x} (r : Reg) (ix : List Nat) (hi lo : Nat) :
    (s.withBrg x).fld r ix hi lo = s.fld r ix hi lo := rfl
@[simp] theorem State.withBrg_bit (s : State) {x} (r : Reg) (ix : List Nat) (b : Nat) :
    (s.withBrg x).bit r ix b = s.bit r ix b := rfl

@[simp] theorem State.withEth_pending (s : State) {x} : (s.withEth x).pending = s.pending := rfl
@[simp] theorem State.withEth_free (s : State) {x} : (s.withEth x).free = s.free := rfl
@[simp] theorem State.withEth_cfg (s : State) {x} : (s.withEth x).cfg = s.cfg := rfl
@[simp] theorem State.withEth_mem (s : State) {x} : (s.withEth x).mem = s.mem := rfl
@[simp] theorem State.withEth_dev (s : State) {x} : (s.withEth x).dev = s.dev := rfl
@[simp] theorem State.withEth_img (s : State) {x} : (s.withEth x).img = s.img := rfl
@[simp] theorem State.withEth_tim (s : State) {x} : (s.withEth x).tim = s.tim := rfl
@[simp] theorem State.withEth_syn (s : State) {x} : (s.withEth x).syn = s.syn := rfl
@[simp] theorem State.withEth_boxes (s : State) {x} : (s.withEth x).boxes = s.boxes := rfl
@[simp] theorem State.withEth_passes (s : State) {x} : (s.withEth x).passes = s.passes := rfl
@[simp] theorem State.withEth_vis (s : State) {x} : (s.withEth x).vis = s.vis := rfl
@[simp] theorem State.withEth_dsp (s : State) {x} : (s.withEth x).dsp = s.dsp := rfl
@[simp] theorem State.withEth_cap (s : State) {x} : (s.withEth x).cap = s.cap := rfl
@[simp] theorem State.withEth_brg (s : State) {x} : (s.withEth x).brg = s.brg := rfl
@[simp] theorem State.withEth_eth (s : State) {x} : (s.withEth x).eth = x := rfl
@[simp] theorem State.withEth_sct (s : State) {x} : (s.withEth x).sct = s.sct := rfl
@[simp] theorem State.withEth_err (s : State) {x} : (s.withEth x).err = s.err := rfl
@[simp] theorem State.withEth_sch (s : State) {x} : (s.withEth x).sch = s.sch := rfl
@[simp] theorem State.withEth_dbg (s : State) {x} : (s.withEth x).dbg = s.dbg := rfl
@[simp] theorem State.withEth_sec (s : State) {x} : (s.withEth x).sec = s.sec := rfl
@[simp] theorem State.withEth_pwr (s : State) {x} : (s.withEth x).pwr = s.pwr := rfl
@[simp] theorem State.withEth_rd (s : State) {x} (r : Reg) (ix : List Nat) : (s.withEth x).rd r ix = s.rd r ix := rfl
@[simp] theorem State.withEth_fld (s : State) {x} (r : Reg) (ix : List Nat) (hi lo : Nat) :
    (s.withEth x).fld r ix hi lo = s.fld r ix hi lo := rfl
@[simp] theorem State.withEth_bit (s : State) {x} (r : Reg) (ix : List Nat) (b : Nat) :
    (s.withEth x).bit r ix b = s.bit r ix b := rfl

@[simp] theorem State.withSct_pending (s : State) {x} : (s.withSct x).pending = s.pending := rfl
@[simp] theorem State.withSct_free (s : State) {x} : (s.withSct x).free = s.free := rfl
@[simp] theorem State.withSct_cfg (s : State) {x} : (s.withSct x).cfg = s.cfg := rfl
@[simp] theorem State.withSct_mem (s : State) {x} : (s.withSct x).mem = s.mem := rfl
@[simp] theorem State.withSct_dev (s : State) {x} : (s.withSct x).dev = s.dev := rfl
@[simp] theorem State.withSct_img (s : State) {x} : (s.withSct x).img = s.img := rfl
@[simp] theorem State.withSct_tim (s : State) {x} : (s.withSct x).tim = s.tim := rfl
@[simp] theorem State.withSct_syn (s : State) {x} : (s.withSct x).syn = s.syn := rfl
@[simp] theorem State.withSct_boxes (s : State) {x} : (s.withSct x).boxes = s.boxes := rfl
@[simp] theorem State.withSct_passes (s : State) {x} : (s.withSct x).passes = s.passes := rfl
@[simp] theorem State.withSct_vis (s : State) {x} : (s.withSct x).vis = s.vis := rfl
@[simp] theorem State.withSct_dsp (s : State) {x} : (s.withSct x).dsp = s.dsp := rfl
@[simp] theorem State.withSct_cap (s : State) {x} : (s.withSct x).cap = s.cap := rfl
@[simp] theorem State.withSct_brg (s : State) {x} : (s.withSct x).brg = s.brg := rfl
@[simp] theorem State.withSct_eth (s : State) {x} : (s.withSct x).eth = s.eth := rfl
@[simp] theorem State.withSct_sct (s : State) {x} : (s.withSct x).sct = x := rfl
@[simp] theorem State.withSct_err (s : State) {x} : (s.withSct x).err = s.err := rfl
@[simp] theorem State.withSct_sch (s : State) {x} : (s.withSct x).sch = s.sch := rfl
@[simp] theorem State.withSct_dbg (s : State) {x} : (s.withSct x).dbg = s.dbg := rfl
@[simp] theorem State.withSct_sec (s : State) {x} : (s.withSct x).sec = s.sec := rfl
@[simp] theorem State.withSct_pwr (s : State) {x} : (s.withSct x).pwr = s.pwr := rfl
@[simp] theorem State.withSct_rd (s : State) {x} (r : Reg) (ix : List Nat) : (s.withSct x).rd r ix = s.rd r ix := rfl
@[simp] theorem State.withSct_fld (s : State) {x} (r : Reg) (ix : List Nat) (hi lo : Nat) :
    (s.withSct x).fld r ix hi lo = s.fld r ix hi lo := rfl
@[simp] theorem State.withSct_bit (s : State) {x} (r : Reg) (ix : List Nat) (b : Nat) :
    (s.withSct x).bit r ix b = s.bit r ix b := rfl

@[simp] theorem State.withErr_pending (s : State) {x} : (s.withErr x).pending = s.pending := rfl
@[simp] theorem State.withErr_free (s : State) {x} : (s.withErr x).free = s.free := rfl
@[simp] theorem State.withErr_cfg (s : State) {x} : (s.withErr x).cfg = s.cfg := rfl
@[simp] theorem State.withErr_mem (s : State) {x} : (s.withErr x).mem = s.mem := rfl
@[simp] theorem State.withErr_dev (s : State) {x} : (s.withErr x).dev = s.dev := rfl
@[simp] theorem State.withErr_img (s : State) {x} : (s.withErr x).img = s.img := rfl
@[simp] theorem State.withErr_tim (s : State) {x} : (s.withErr x).tim = s.tim := rfl
@[simp] theorem State.withErr_syn (s : State) {x} : (s.withErr x).syn = s.syn := rfl
@[simp] theorem State.withErr_boxes (s : State) {x} : (s.withErr x).boxes = s.boxes := rfl
@[simp] theorem State.withErr_passes (s : State) {x} : (s.withErr x).passes = s.passes := rfl
@[simp] theorem State.withErr_vis (s : State) {x} : (s.withErr x).vis = s.vis := rfl
@[simp] theorem State.withErr_dsp (s : State) {x} : (s.withErr x).dsp = s.dsp := rfl
@[simp] theorem State.withErr_cap (s : State) {x} : (s.withErr x).cap = s.cap := rfl
@[simp] theorem State.withErr_brg (s : State) {x} : (s.withErr x).brg = s.brg := rfl
@[simp] theorem State.withErr_eth (s : State) {x} : (s.withErr x).eth = s.eth := rfl
@[simp] theorem State.withErr_sct (s : State) {x} : (s.withErr x).sct = s.sct := rfl
@[simp] theorem State.withErr_err (s : State) {x} : (s.withErr x).err = x := rfl
@[simp] theorem State.withErr_sch (s : State) {x} : (s.withErr x).sch = s.sch := rfl
@[simp] theorem State.withErr_dbg (s : State) {x} : (s.withErr x).dbg = s.dbg := rfl
@[simp] theorem State.withErr_sec (s : State) {x} : (s.withErr x).sec = s.sec := rfl
@[simp] theorem State.withErr_pwr (s : State) {x} : (s.withErr x).pwr = s.pwr := rfl
@[simp] theorem State.withErr_rd (s : State) {x} (r : Reg) (ix : List Nat) : (s.withErr x).rd r ix = s.rd r ix := rfl
@[simp] theorem State.withErr_fld (s : State) {x} (r : Reg) (ix : List Nat) (hi lo : Nat) :
    (s.withErr x).fld r ix hi lo = s.fld r ix hi lo := rfl
@[simp] theorem State.withErr_bit (s : State) {x} (r : Reg) (ix : List Nat) (b : Nat) :
    (s.withErr x).bit r ix b = s.bit r ix b := rfl

@[simp] theorem State.withSch_pending (s : State) {x} : (s.withSch x).pending = s.pending := rfl
@[simp] theorem State.withSch_free (s : State) {x} : (s.withSch x).free = s.free := rfl
@[simp] theorem State.withSch_cfg (s : State) {x} : (s.withSch x).cfg = s.cfg := rfl
@[simp] theorem State.withSch_mem (s : State) {x} : (s.withSch x).mem = s.mem := rfl
@[simp] theorem State.withSch_dev (s : State) {x} : (s.withSch x).dev = s.dev := rfl
@[simp] theorem State.withSch_img (s : State) {x} : (s.withSch x).img = s.img := rfl
@[simp] theorem State.withSch_tim (s : State) {x} : (s.withSch x).tim = s.tim := rfl
@[simp] theorem State.withSch_syn (s : State) {x} : (s.withSch x).syn = s.syn := rfl
@[simp] theorem State.withSch_boxes (s : State) {x} : (s.withSch x).boxes = s.boxes := rfl
@[simp] theorem State.withSch_passes (s : State) {x} : (s.withSch x).passes = s.passes := rfl
@[simp] theorem State.withSch_vis (s : State) {x} : (s.withSch x).vis = s.vis := rfl
@[simp] theorem State.withSch_dsp (s : State) {x} : (s.withSch x).dsp = s.dsp := rfl
@[simp] theorem State.withSch_cap (s : State) {x} : (s.withSch x).cap = s.cap := rfl
@[simp] theorem State.withSch_brg (s : State) {x} : (s.withSch x).brg = s.brg := rfl
@[simp] theorem State.withSch_eth (s : State) {x} : (s.withSch x).eth = s.eth := rfl
@[simp] theorem State.withSch_sct (s : State) {x} : (s.withSch x).sct = s.sct := rfl
@[simp] theorem State.withSch_err (s : State) {x} : (s.withSch x).err = s.err := rfl
@[simp] theorem State.withSch_sch (s : State) {x} : (s.withSch x).sch = x := rfl
@[simp] theorem State.withSch_dbg (s : State) {x} : (s.withSch x).dbg = s.dbg := rfl
@[simp] theorem State.withSch_sec (s : State) {x} : (s.withSch x).sec = s.sec := rfl
@[simp] theorem State.withSch_pwr (s : State) {x} : (s.withSch x).pwr = s.pwr := rfl
@[simp] theorem State.withSch_rd (s : State) {x} (r : Reg) (ix : List Nat) : (s.withSch x).rd r ix = s.rd r ix := rfl
@[simp] theorem State.withSch_fld (s : State) {x} (r : Reg) (ix : List Nat) (hi lo : Nat) :
    (s.withSch x).fld r ix hi lo = s.fld r ix hi lo := rfl
@[simp] theorem State.withSch_bit (s : State) {x} (r : Reg) (ix : List Nat) (b : Nat) :
    (s.withSch x).bit r ix b = s.bit r ix b := rfl

@[simp] theorem State.withDbg_pending (s : State) {x} : (s.withDbg x).pending = s.pending := rfl
@[simp] theorem State.withDbg_free (s : State) {x} : (s.withDbg x).free = s.free := rfl
@[simp] theorem State.withDbg_cfg (s : State) {x} : (s.withDbg x).cfg = s.cfg := rfl
@[simp] theorem State.withDbg_mem (s : State) {x} : (s.withDbg x).mem = s.mem := rfl
@[simp] theorem State.withDbg_dev (s : State) {x} : (s.withDbg x).dev = s.dev := rfl
@[simp] theorem State.withDbg_img (s : State) {x} : (s.withDbg x).img = s.img := rfl
@[simp] theorem State.withDbg_tim (s : State) {x} : (s.withDbg x).tim = s.tim := rfl
@[simp] theorem State.withDbg_syn (s : State) {x} : (s.withDbg x).syn = s.syn := rfl
@[simp] theorem State.withDbg_boxes (s : State) {x} : (s.withDbg x).boxes = s.boxes := rfl
@[simp] theorem State.withDbg_passes (s : State) {x} : (s.withDbg x).passes = s.passes := rfl
@[simp] theorem State.withDbg_vis (s : State) {x} : (s.withDbg x).vis = s.vis := rfl
@[simp] theorem State.withDbg_dsp (s : State) {x} : (s.withDbg x).dsp = s.dsp := rfl
@[simp] theorem State.withDbg_cap (s : State) {x} : (s.withDbg x).cap = s.cap := rfl
@[simp] theorem State.withDbg_brg (s : State) {x} : (s.withDbg x).brg = s.brg := rfl
@[simp] theorem State.withDbg_eth (s : State) {x} : (s.withDbg x).eth = s.eth := rfl
@[simp] theorem State.withDbg_sct (s : State) {x} : (s.withDbg x).sct = s.sct := rfl
@[simp] theorem State.withDbg_err (s : State) {x} : (s.withDbg x).err = s.err := rfl
@[simp] theorem State.withDbg_sch (s : State) {x} : (s.withDbg x).sch = s.sch := rfl
@[simp] theorem State.withDbg_dbg (s : State) {x} : (s.withDbg x).dbg = x := rfl
@[simp] theorem State.withDbg_sec (s : State) {x} : (s.withDbg x).sec = s.sec := rfl
@[simp] theorem State.withDbg_pwr (s : State) {x} : (s.withDbg x).pwr = s.pwr := rfl
@[simp] theorem State.withDbg_rd (s : State) {x} (r : Reg) (ix : List Nat) : (s.withDbg x).rd r ix = s.rd r ix := rfl
@[simp] theorem State.withDbg_fld (s : State) {x} (r : Reg) (ix : List Nat) (hi lo : Nat) :
    (s.withDbg x).fld r ix hi lo = s.fld r ix hi lo := rfl
@[simp] theorem State.withDbg_bit (s : State) {x} (r : Reg) (ix : List Nat) (b : Nat) :
    (s.withDbg x).bit r ix b = s.bit r ix b := rfl

@[simp] theorem State.withSec_pending (s : State) {x} : (s.withSec x).pending = s.pending := rfl
@[simp] theorem State.withSec_free (s : State) {x} : (s.withSec x).free = s.free := rfl
@[simp] theorem State.withSec_cfg (s : State) {x} : (s.withSec x).cfg = s.cfg := rfl
@[simp] theorem State.withSec_mem (s : State) {x} : (s.withSec x).mem = s.mem := rfl
@[simp] theorem State.withSec_dev (s : State) {x} : (s.withSec x).dev = s.dev := rfl
@[simp] theorem State.withSec_img (s : State) {x} : (s.withSec x).img = s.img := rfl
@[simp] theorem State.withSec_tim (s : State) {x} : (s.withSec x).tim = s.tim := rfl
@[simp] theorem State.withSec_syn (s : State) {x} : (s.withSec x).syn = s.syn := rfl
@[simp] theorem State.withSec_boxes (s : State) {x} : (s.withSec x).boxes = s.boxes := rfl
@[simp] theorem State.withSec_passes (s : State) {x} : (s.withSec x).passes = s.passes := rfl
@[simp] theorem State.withSec_vis (s : State) {x} : (s.withSec x).vis = s.vis := rfl
@[simp] theorem State.withSec_dsp (s : State) {x} : (s.withSec x).dsp = s.dsp := rfl
@[simp] theorem State.withSec_cap (s : State) {x} : (s.withSec x).cap = s.cap := rfl
@[simp] theorem State.withSec_brg (s : State) {x} : (s.withSec x).brg = s.brg := rfl
@[simp] theorem State.withSec_eth (s : State) {x} : (s.withSec x).eth = s.eth := rfl
@[simp] theorem State.withSec_sct (s : State) {x} : (s.withSec x).sct = s.sct := rfl
@[simp] theorem State.withSec_err (s : State) {x} : (s.withSec x).err = s.err := rfl
@[simp] theorem State.withSec_sch (s : State) {x} : (s.withSec x).sch = s.sch := rfl
@[simp] theorem State.withSec_dbg (s : State) {x} : (s.withSec x).dbg = s.dbg := rfl
@[simp] theorem State.withSec_sec (s : State) {x} : (s.withSec x).sec = x := rfl
@[simp] theorem State.withSec_pwr (s : State) {x} : (s.withSec x).pwr = s.pwr := rfl
@[simp] theorem State.withSec_rd (s : State) {x} (r : Reg) (ix : List Nat) : (s.withSec x).rd r ix = s.rd r ix := rfl
@[simp] theorem State.withSec_fld (s : State) {x} (r : Reg) (ix : List Nat) (hi lo : Nat) :
    (s.withSec x).fld r ix hi lo = s.fld r ix hi lo := rfl
@[simp] theorem State.withSec_bit (s : State) {x} (r : Reg) (ix : List Nat) (b : Nat) :
    (s.withSec x).bit r ix b = s.bit r ix b := rfl

@[simp] theorem State.withPwr_pending (s : State) {x} : (s.withPwr x).pending = s.pending := rfl
@[simp] theorem State.withPwr_free (s : State) {x} : (s.withPwr x).free = s.free := rfl
@[simp] theorem State.withPwr_cfg (s : State) {x} : (s.withPwr x).cfg = s.cfg := rfl
@[simp] theorem State.withPwr_mem (s : State) {x} : (s.withPwr x).mem = s.mem := rfl
@[simp] theorem State.withPwr_dev (s : State) {x} : (s.withPwr x).dev = s.dev := rfl
@[simp] theorem State.withPwr_img (s : State) {x} : (s.withPwr x).img = s.img := rfl
@[simp] theorem State.withPwr_tim (s : State) {x} : (s.withPwr x).tim = s.tim := rfl
@[simp] theorem State.withPwr_syn (s : State) {x} : (s.withPwr x).syn = s.syn := rfl
@[simp] theorem State.withPwr_boxes (s : State) {x} : (s.withPwr x).boxes = s.boxes := rfl
@[simp] theorem State.withPwr_passes (s : State) {x} : (s.withPwr x).passes = s.passes := rfl
@[simp] theorem State.withPwr_vis (s : State) {x} : (s.withPwr x).vis = s.vis := rfl
@[simp] theorem State.withPwr_dsp (s : State) {x} : (s.withPwr x).dsp = s.dsp := rfl
@[simp] theorem State.withPwr_cap (s : State) {x} : (s.withPwr x).cap = s.cap := rfl
@[simp] theorem State.withPwr_brg (s : State) {x} : (s.withPwr x).brg = s.brg := rfl
@[simp] theorem State.withPwr_eth (s : State) {x} : (s.withPwr x).eth = s.eth := rfl
@[simp] theorem State.withPwr_sct (s : State) {x} : (s.withPwr x).sct = s.sct := rfl
@[simp] theorem State.withPwr_err (s : State) {x} : (s.withPwr x).err = s.err := rfl
@[simp] theorem State.withPwr_sch (s : State) {x} : (s.withPwr x).sch = s.sch := rfl
@[simp] theorem State.withPwr_dbg (s : State) {x} : (s.withPwr x).dbg = s.dbg := rfl
@[simp] theorem State.withPwr_sec (s : State) {x} : (s.withPwr x).sec = s.sec := rfl
@[simp] theorem State.withPwr_pwr (s : State) {x} : (s.withPwr x).pwr = x := rfl
@[simp] theorem State.withPwr_rd (s : State) {x} (r : Reg) (ix : List Nat) : (s.withPwr x).rd r ix = s.rd r ix := rfl
@[simp] theorem State.withPwr_fld (s : State) {x} (r : Reg) (ix : List Nat) (hi lo : Nat) :
    (s.withPwr x).fld r ix hi lo = s.fld r ix hi lo := rfl
@[simp] theorem State.withPwr_bit (s : State) {x} (r : Reg) (ix : List Nat) (b : Nat) :
    (s.withPwr x).bit r ix b = s.bit r ix b := rfl

@[simp] theorem State.kept_pending (t s : State) : (t.kept s).pending = s.pending := rfl
@[simp] theorem State.kept_dev (t s : State) : (t.kept s).dev = s.dev := rfl
@[simp] theorem State.kept_free (t s : State) : (t.kept s).free = t.free := rfl
@[simp] theorem State.kept_cfg (t s : State) : (t.kept s).cfg = t.cfg := rfl
@[simp] theorem State.kept_mem (t s : State) : (t.kept s).mem = t.mem := rfl
@[simp] theorem State.kept_img (t s : State) : (t.kept s).img = t.img := rfl
@[simp] theorem State.kept_tim (t s : State) : (t.kept s).tim = t.tim := rfl
@[simp] theorem State.kept_syn (t s : State) : (t.kept s).syn = t.syn := rfl
@[simp] theorem State.kept_boxes (t s : State) : (t.kept s).boxes = t.boxes := rfl
@[simp] theorem State.kept_passes (t s : State) : (t.kept s).passes = t.passes := rfl
@[simp] theorem State.kept_vis (t s : State) : (t.kept s).vis = t.vis := rfl
@[simp] theorem State.kept_dsp (t s : State) : (t.kept s).dsp = t.dsp := rfl
@[simp] theorem State.kept_cap (t s : State) : (t.kept s).cap = t.cap := rfl
@[simp] theorem State.kept_brg (t s : State) : (t.kept s).brg = t.brg := rfl
@[simp] theorem State.kept_eth (t s : State) : (t.kept s).eth = t.eth := rfl
@[simp] theorem State.kept_sct (t s : State) : (t.kept s).sct = t.sct := rfl
@[simp] theorem State.kept_err (t s : State) : (t.kept s).err = t.err := rfl
@[simp] theorem State.kept_sch (t s : State) : (t.kept s).sch = t.sch := rfl
@[simp] theorem State.kept_dbg (t s : State) : (t.kept s).dbg = t.dbg := rfl
@[simp] theorem State.kept_sec (t s : State) : (t.kept s).sec = t.sec := rfl
@[simp] theorem State.kept_pwr (t s : State) : (t.kept s).pwr = t.pwr := rfl

@[simp] theorem State.kept_rd (t s : State) (r : Reg) (ix : List Nat) : (t.kept s).rd r ix = t.rd r ix := rfl
@[simp] theorem State.kept_fld (t s : State) (r : Reg) (ix : List Nat) (hi lo : Nat) :
    (t.kept s).fld r ix hi lo = t.fld r ix hi lo := rfl
@[simp] theorem State.kept_bit (t s : State) (r : Reg) (ix : List Nat) (b : Nat) : (t.kept s).bit r ix b = t.bit r ix b := rfl
@[simp] theorem State.kept_byte (t s : State) (a : Nat) : (t.kept s).byte a = t.byte a := rfl

/-- A command of a stoppable block, on a device that runs. -/
theorem State.live_next (s : State) (f : State → State) (h : s.isLive) : s.live f = .next ((f s).kept s) := by
  simp [State.live, h.1, h.2]

/-- A command of a keep-alive block, on a device out of reset. -/
theorem State.awake_next (s : State) (f : State → State) (h : s.isUp) : s.awake f = .next ((f s).kept s) := by
  simp [State.awake, State.isUp.eq_1 s ▸ h]

/-- What such a command can do at all. -/
theorem State.live_cases (s : State) (f : State → State) : s.live f = .next s ∨ s.live f = .next ((f s).kept s) := by
  unfold State.live
  split
  · exact Or.inl rfl
  · exact Or.inr rfl

/-- What such a command can do at all. -/
theorem State.awake_cases (s : State) (f : State → State) : s.awake f = .next s ∨ s.awake f = .next ((f s).kept s) := by
  unfold State.awake
  split
  · exact Or.inl rfl
  · exact Or.inr rfl

/-- Without a reset asked for, a command that may ask for one leaves what its effect leaves. -/
theorem State.settle_next (t : State) (q : List Instr) (h : t.dev.resetAsked = none) :
    t.settle q = { t with pending := q, dev := { t.dev with inReset := false } } := by
  simp [State.settle, h]

end Sys2Proof.Machine
end

