-- ==== Sys2Proof/Laws/Frame.lean ====
section
/-! SUPPORT. Frames: which parts of the state an operation can change, and how frames compose. -/

namespace Sys2Proof.Machine

theorem changesOnly_refl (parts : List Part) (s : State) : changesOnly parts s s := fun p _ => by cases p <;> rfl

theorem Part.same_trans {s t u : State} {p : Part} (h : p.same s t) (k : p.same t u) : p.same s u := by
  cases p <;> exact Eq.trans k h

theorem changesOnly_trans {parts : List Part} {s t u : State} (h : changesOnly parts s t) (k : changesOnly parts t u) :
    changesOnly parts s u := fun p hp => Part.same_trans (h p hp) (k p hp)

/-- A frame may name more parts. -/
theorem changesOnly_mono {parts more : List Part} {s t : State} (h : changesOnly parts s t) (hm : ∀ p ∈ parts, p ∈ more) :
    changesOnly more s t := fun p hp => h p fun hq => hp (hm p hq)

/-- A loop over a list keeps the frame of its body. -/
theorem changesOnly_foldl {α : Type} {parts : List Part} (f : State → α → State) (h : ∀ s a, changesOnly parts s (f s a))
    (xs : List α) (s : State) : changesOnly parts s (xs.foldl f s) := by
  induction xs generalizing s with
  | nil => exact changesOnly_refl parts s
  | cons x xs ih => exact changesOnly_trans (h s x) (ih (f s x))

theorem changesOnly_poke (s : State) (r : Reg) (ix : List Nat) (v : Word) : changesOnly [.regs] s (s.poke r ix v) :=
  fun p hp => by cases p <;> first | rfl | simp at hp

theorem changesOnly_setFld (s : State) (r : Reg) (ix : List Nat) (hi lo v : Nat) :
    changesOnly [.regs] s (s.setFld r ix hi lo v) := changesOnly_poke s r ix _

theorem changesOnly_setBit (s : State) (r : Reg) (ix : List Nat) (b : Nat) (v : Bool) :
    changesOnly [.regs] s (s.setBit r ix b v) := changesOnly_poke s r ix _

theorem changesOnly_poke64 (s : State) (lo hi : Reg) (ix : List Nat) (v : Nat) :
    changesOnly [.regs] s (s.poke64 lo hi ix v) := changesOnly_trans (changesOnly_poke _ _ _ _) (changesOnly_poke _ _ _ _)

theorem changesOnly_draw (s : State) : changesOnly [.free] s s.draw := fun p hp => by cases p <;> first | rfl | simp at hp

theorem changesOnly_store (s : State) (a : Nat) (bs : List Byte) : changesOnly [.mem] s (s.store a bs) :=
  fun p hp => by cases p <;> first | rfl | simp at hp

theorem changesOnly_write (s : State) (a : Nat) (bs : List Byte) : changesOnly [.mem, .err] s (s.write a bs) := by
  unfold State.write State.unpoison
  split
  · exact fun p hp => by cases p <;> first | rfl | simp at hp
  · exact changesOnly_refl _ s

theorem changesOnly_count (s : State) (r : Reg) (ix : List Nat) (n : Nat) : changesOnly [.regs] s (s.count r ix n) :=
  changesOnly_poke s r ix _

theorem changesOnly_countSat (s : State) (r : Reg) (ix : List Nat) (n : Nat) (ovf : Reg) (oix : List Nat) (b : Nat) :
    changesOnly [.regs] s (s.countSat r ix n ovf oix b) := by
  unfold State.countSat
  dsimp only
  split
  · exact changesOnly_refl _ s
  · split
    · exact changesOnly_trans (changesOnly_poke _ _ _ _) (changesOnly_setBit _ _ _ _ _)
    · exact changesOnly_poke _ _ _ _

theorem changesOnly_countTop (s : State) (r : Reg) (ix : List Nat) (n : Nat) : changesOnly [.regs] s (s.countTop r ix n) :=
  changesOnly_poke s r ix _

theorem changesOnly_alert (s : State) (source : Nat) : changesOnly [.regs] s (s.alert source) := changesOnly_setBit _ _ _ _ _

/-- An event touches the transport's records, its counters, and the counter of free values. -/
theorem changesOnly_queueEvent (s : State) (cls inst code : Nat) (payload : List Byte) :
    changesOnly [.regs, .sct] s (s.queueEvent cls inst code payload) := by
  unfold State.queueEvent State.putSource
  dsimp only
  split
  · exact fun p hp => by cases p <;> first | rfl | simp at hp
  · refine changesOnly_trans ?_ (changesOnly_mono (changesOnly_alert _ _) (by simp))
    refine changesOnly_trans ?_ (changesOnly_mono (changesOnly_countSat _ _ _ _ _ _ _) (by simp))
    exact fun p hp => by cases p <;> first | rfl | simp at hp

theorem changesOnly_event (s : State) (cls inst code : Nat) (payload : List Byte) :
    changesOnly [.free, .regs, .sct] s (s.event cls inst code payload) := by
  unfold State.event
  split
  · exact changesOnly_trans (changesOnly_mono (changesOnly_draw s) (by simp))
      (changesOnly_mono (changesOnly_queueEvent _ _ _ _ _) (by simp))
  · exact changesOnly_mono (changesOnly_queueEvent _ _ _ _ _) (by simp)

theorem changesOnly_eventOpen (s : State) (cls inst : Nat) (payload : List Byte) :
    changesOnly [.free, .regs, .sct] s (s.eventOpen cls inst payload) :=
  changesOnly_trans (changesOnly_mono (changesOnly_draw s) (by simp)) (changesOnly_event _ _ _ _ _)

/-- The queue and the pins stay as they were; the other parts are those of the effect. -/
theorem changesOnly_kept {parts : List Part} {s t : State} (h : changesOnly parts s t) : changesOnly parts s (t.kept s) := by
  intro p hp
  have := h p hp
  cases p <;> first | rfl | exact this

end Sys2Proof.Machine
end

