-- ==== Sys2Proof/Tests/Slice0.lean ====
section
/-! SUPPORT. Tests of the model: ill-formed commands are refused, and for every statement with hypotheses a state and operands
that meet them all. -/

namespace Sys2Proof.Tests

open Sys2Proof.Machine

set_option Elab.async false

/-- A device out of reset, its links and DRAM ready, with every other register at its reset value. -/
def up : State :=
  (State.reset.withDev { State.reset.dev with inReset := false, resetLow := false }).poke R.BRG_READY [] 0xE000

/-- Such a device with some registers at other values. -/
def upWith (regs : List (Reg × List Nat × Word)) : State := regs.foldl (fun s e => s.poke e.1 e.2.1 e.2.2) up

/-- What a command leaves. -/
def after (c : Instr) (s : State) : State :=
  match exec c s with
  | .next t => t
  | _ => s

/-- Core 0 of cluster 0 of C0, and its slot 0. -/
def core0 : CoreName := ⟨0, 0, 0⟩
def name0 : SlotName := ⟨core0, 0⟩

/-- A task of queue 0, started, with nothing in its launch record. -/
def task0 : Task :=
  { qid := 0, entry := { decodeEntry 0 (zeros 64) with op := 1 }, ctx := 0, part := 0, prio := 0, eff := 0, started := true,
    launch := decodeLaunch (zeros 64), width := 1, cores := [], nextGroup := 0, groupsEnded := 0, firstRun := 0,
    preempted := false, startTime := 0, order := 0, engineNs := 0, awaitsModel := false, token := none, timerStart := 0,
    replays := [], stepBefore := [], forced := none, render := none,
    rendered := { passes := 0, prims := 0, partials := 0, stops := 0, tiles := 0, high := 0, started := 0, total := 0 } }

/-- Its slot. -/
def slot0 : Slot :=
  { core := 0, idx := 0, qid := 0, seq := 0, phase := .live, evictFor := none, wait := none, yielded := false, halted := false,
    stepping := false, image := SlotImage.empty, calls := [] }

/-- A device on which that task runs in slot 0 of core 0, with some registers at other values. -/
def busyWith (regs : List (Reg × List Nat × Word)) : State :=
  (upWith ([(R.CORE_STATUS, [0, 0, 0], 4), (R.SCH_CTX_CFG, [0], 0x10)] ++ regs)).withSch { up.sch with slots := [slot0], tasks := [task0] }

/-- Queue 0, enabled, with a submission ring of 16 entries at DEV 0x1000 and its completion ring at 0x2000. -/
def queue0 : Queue :=
  { ident := 0, desc := { subBase := 0x1000, cplBase := 0x2000, logSize := 4, prio := 2, cqOnly := false, serial := false, maxInflight := 16 },
    pLast := 0, posted := 0, consumer := 0, disabling := false, rung := [], ended := [], statuses := [] }

/-- A device that dispatches for partition 0, whose region is the low GiB of DRAM, with queue 0 holding these entries, its record
ring in that memory. -/
def dispatching (regs : List (Reg × List Nat × Word)) (entries : List Entry) : State :=
  ((upWith ([(R.SCH_CTX_CFG, [0], 0x10), (R.SCH_CTRL, [], 1), (R.SCH_PART_CFG, [0], 0x4F)] ++ regs)).withSch
    { up.sch with queues := [{ queue0 with rung := entries }] }).withImg
      { up.img with regions := [{ part := 0, base := 0, size := 2 ^ 30, read := true, write := true, shared := false }] }

/-- An entry with an op and a launch record, with sequence number 0. -/
def entryOf (op launch : Nat) : Entry := { decodeEntry 0 (zeros 64) with op := op, launch := launch, tag := 9 }

/-- Model 7 of partition 0. -/
def model7 : Model :=
  { part := 0, handle := 7, segments := [(0x8000, 64, 0)], pinned := false, resident := true, loading := none, reloading := false,
    unpinDeferred := false, lastUse := 0, ctx := 0 }

/-! ### The machine as a whole -/

theorem witness_step : let s := up.withPending [.auxTimeout 0, .fsyncEdge 1]
    s.pending = .auxTimeout 0 :: [.fsyncEdge 1] ∧ up.pending = [] ∧ State.reset.dev.inReset = true
    ∧ (match step s with | .next t => t.pending == [.fsyncEdge 1] | _ => false) = true
    ∧ (match step up with | .next t => t.tim.base == 4294967296 | _ => false) = true := by decide +kernel

theorem witness_invariants : up.canonical ∧ up.dev.resetAsked = none ∧ up.scheduleNumbered ∧ up.passesNumbered ∧ up.chainsNumbered
    ∧ up.unitsBounded ∧ up.runsDistinct 0 := ⟨⟨by decide +kernel, by decide +kernel⟩, by decide +kernel⟩


/-! ### Well-formed commands -/

theorem smoke_dmaSubmit : (Instr.dmaSubmit name0 0 (zeros 64)).wellFormed = true ∧ (Instr.dmaSubmit name0 0 (zeros 63)).wellFormed = false := by
  decide +kernel

theorem smoke_simtSample : (Instr.simtSample ⟨name0, 0⟩ (.desc (zeros 32)) 0 0).wellFormed = true
    ∧ (Instr.simtSample ⟨name0, 0⟩ (.desc (zeros 31)) 0 0).wellFormed = false := by decide +kernel

theorem smoke_taggedSliceWrite : let tag : SliceTag := { output := 0, frame := 0, slice := 0 }
    (Instr.taggedSliceWrite tag 0 [1]).wellFormed = true ∧ (Instr.taggedSliceWrite tag 0 []).wellFormed = false := by decide +kernel

theorem smoke_csiLongPacket : (Instr.csiLongPacket 0 0 .raw8 false true [1]).wellFormed = true
    ∧ (Instr.csiLongPacket 0 0 .raw8 false true []).wellFormed = false := by decide +kernel

theorem smoke_tdmFrame : (Instr.tdmFrame 0 [1]).wellFormed = true ∧ (Instr.tdmFrame 0 []).wellFormed = false
    ∧ (Instr.tdmFrame 0 (List.replicate 33 0)).wellFormed = false := by decide +kernel

/-! ### Slice synthesis (chapter 2) -/

/-- Frame 5 of output 0, whose pair is one keyframe. -/
def keyframe0 : Keyframe :=
  { index := 5, refresh := 5, render := some 0, flow := some 0, base := 0, pitch := 0, disp := 0x7000, dispPitch := 256, scene := 0,
    vectors := 0, vecPitch := 0, boundary := false }
def frame5 : FrameRec :=
  { frame := 5, pair := some (keyframe0, keyframe0), count := 1, change := false, conf := 0, origins := [], written := [], spoiled := false,
    recorded := false }

/-- Output 0 with such a frame, of which slice 3 is next. -/
def out5 (runs : List SliceRun) : SynOut :=
  { SynOut.reset with first := false, nextFrame := 5, nextSlice := 3, soa := some 0, runs := runs, frames := [frame5], keyframes := [keyframe0] }

/-- A released slice 2 of frame 5. -/
def slice2 : SliceRun :=
  { frame := 5, slice := 2, deadline := 0, fallback := 0, task := none, window := true, direct := false, data := [], origin := none, final := false,
    warp := none, bank := 0, vectors := [], inputs := [], history := false, mid := 0, copying := false, warpCopying := false }

/-- The tag that names it, on output 0. -/
def tag2 : SliceTag := ⟨0, 5, 2⟩

/-- Output 0 under synthesis in 16 slices of one line of one pixel each, on pipe 0; the slice context is that of queue 0. -/
def racing (regs : List (Reg × List Nat × Word)) (x : SynOut) : State :=
  let s := dispatching ([(R.DSP_MAP, [0], 4), (R.SYN_GEOM, [0], 0x1018), (R.SYN_STATUS, [0], 1), (R.SYN_ENTRIES, [0], 0xFF), (R.SYN_LAUNCH_LO, [0], 0x5000)] ++ regs) []
  (s.setPipe 0 { s.pipe 0 with applied := [(regAddr R.DSP_TIMING_H [0] - 0x100000, 1), (regAddr R.DSP_TIMING_V [0] - 0x100000, 16)] }).setOut 0 x

theorem witness_sliceGeometry : let s := racing [] (out5 [slice2])
    (s.pipeOf 0) = some 0 ∧ (s.synTiming 0).vActive = 16 ∧ s.synS 0 = 16 ∧ s.runPixels 0 slice2 = 1 ∧ 0 ∈ s.readersOf 0
    ∧ ((after (.sliceFetch tag2) s).pipe 0).shown.map (fun y => (y.slice, y.first, y.lines)) = [(2, 2, 1)] := by decide +kernel

theorem witness_sliceRelease : let s := racing [] (out5 [])
    let t := after (.sliceRelease 0) s
    let u := (racing [] (out5 [])).withSch up.sch
    s.frameRec 0 5 = some frame5 ∧ s.openQueue 0 = some queue0 ∧ s.synD 0 = 2 ∧ s.writeError 0x1000 64 = none
    ∧ t.le 0x1000 1 = 1 ∧ t.le 0x1004 4 = 0x30005 ∧ t.le 0x1010 8 = 0x5000 ∧ (t.queue 0).map (·.pLast) = some 1
    ∧ (t.run 0 5 3).map (·.task) = some (some (0, 0)) ∧ u.openQueue 0 = none
    ∧ (after (.sliceRelease 0) u).rd R.SYN_CNT_RELDROP [0] = 1 := by decide +kernel

theorem witness_frameBoundary : let s := racing [(R.SYN_CONF, [0], 7), (R.SYN_BUDGET, [0], 9)] { out5 [] with nextSlice := 0, nextFrame := 6 }
    let t := after (.sliceRelease 0) s
    (t.out 0).frames.map (fun f => (f.frame, f.conf)) = [(6, 7), (5, 0)] ∧ (t.out 0).budget = 9
    ∧ (racing [] SynOut.reset).out 0 = SynOut.reset := by decide +kernel

theorem witness_taggedSliceWrite : let s := racing [] (out5 [slice2])
    let v := racing [] (out5 [])
    s.atSlice tag2 slice2 ∧ ((after (.taggedSliceWrite tag2 1 [7, 8]) s).run 0 5 2).map (·.data) = some [(1, 7), (2, 8)]
    ∧ (after (.taggedSliceWrite tag2 1 [7]) v).rd R.SYN_CNT_LATEWRITE [0] = 1
    ∧ (after (.sliceDoneWord tag2 0) v).rd R.SYN_CNT_LATEWRITE [0] = 1 := by decide +kernel

/-- Slice 2 with its pixel and its confidence written. -/
def written2 : SliceRun := { slice2 with data := cellsOf [1, 2, 3, 255, 9] }

theorem witness_sliceDoneWord : let s := racing [] (out5 [written2])
    confidenceFails 0 1 (lowConfidence written2.data 1 0) false = false ∧ confidenceFails 0 1 (lowConfidence written2.data 1 0) true = true
    ∧ ((after (.sliceDoneWord tag2 0) s).run 0 5 2).map (fun y => (y.final, y.origin)) = some (true, some 0)
    ∧ ((after (.sliceDoneWord tag2 1) s).run 0 5 2).map (·.origin) = some (some 3)
    ∧ (after (.sliceDoneWord tag2 1) s).rd R.SYN_CNT_LOWCONF [0] = 1
    ∧ (after (.sliceDoneWord tag2 0) (racing [] (out5 [slice2]))).rd R.SYN_CNT_SHORT [0] = 1 := by decide +kernel

theorem witness_fallbackPoint : let s := racing [(R.WRP_STATUS, [0], 2)] (out5 [slice2])
    let v := racing [] (out5 [{ slice2 with task := some (0, 7) }])
    let v := v.withSch { v.sch with tasks := [{ task0 with entry := { task0.entry with seq := 7 }, started := false }] }
    s.ladderCode 0 = 1 ∧ ((after (.fallbackPoint tag2) s).run 0 5 2).map (fun y => (y.origin, y.warp.isSome)) = some (some 1, true)
    ∧ (after (.fallbackPoint tag2) s).rd R.SYN_CNT_MISSED [0] = 1
    ∧ v.atSlice tag2 { slice2 with task := some (0, 7) } ∧ (v.task 0 7).isSome = true ∧ ((after (.fallbackPoint tag2) v).task 0 7).isNone = true
    ∧ (after (.fallbackPoint tag2) (racing [] (out5 [{ slice2 with origin := some 0 }]))).syn = (racing [] (out5 [{ slice2 with origin := some 0 }])).syn := by
  decide +kernel

theorem witness_warpEnd : let r := { slice2 with origin := some 1, warp := some (0, []), window := false }
    let s := racing [(R.WRP_STATUS, [0], 3)] (out5 [r])
    let v := racing [(R.WRP_STATUS, [0], 3), (R.WRP_LCO0_HI, [0], 0x4000)] (out5 [r])
    s.atSlice tag2 r ∧ (s.warpSlice 0 0 5 2 [] (some keyframe0)).map (·.length) = some 4
    ∧ (v.warpSlice 0 0 5 2 [] (some keyframe0)).isNone = true
    ∧ ((after (.warpDeadline tag2) s).run 0 5 2).map (·.origin) = some (some 3) := by decide +kernel

theorem witness_keyframeDirectEnd : let r := { slice2 with direct := true }
    let s := racing [(R.SYN_GEOM, [0], 0x1014)] (out5 [r])
    s.atSlice tag2 r ∧ (s.out 0).keyframe (s.kfIndex 0 5) = some keyframe0
    ∧ s.readFor (s.synCtx 0) (0x7000 + 2 * 256) 4 = .ok [0, 0, 0, 0]
    ∧ ((after (.keyframeDirectEnd tag2 true) s).run 0 5 2).map (fun y => (y.final, y.origin)) = some (true, some 2)
    ∧ ((after (.keyframeDirectEnd tag2 false) s).run 0 5 2).map (·.origin) = some (some 3) := by decide +kernel

theorem witness_sliceFetch : let r := { written2 with final := true }
    let s := racing [] (out5 [r])
    let v := racing [] (out5 [slice2])
    ((after (.sliceFetch tag2) s).pipe 0).shown.map (·.pixels) = [some r.data] ∧ (after (.sliceFetch tag2) v).rd R.SYN_CNT_GUARD [0] = 1
    ∧ ((after (.sliceFetch tag2) v).pipe 0).shown.map (·.pixels) = [none] := by decide +kernel

theorem witness_sliceWritebackEnd : let r := { written2 with final := true }
    let s := racing [(R.WRP_LCO1_LO, [0], 0x8000), (R.WRP_LCO_PITCH, [0], 256)] { out5 [r] with frames := [{ frame5 with written := [0, 1, 3, 4, 5, 6, 7, 8, 9, 10, 11, 12, 13, 14, 15] }] }
    s.finalPixels 0 0 (some r) 2 = [1, 2, 3, 255] ∧ s.accessOk 0 0x8200 4 true = true
    ∧ (after (.sliceWritebackEnd tag2) s).bytes 0x8200 4 = [1, 2, 3, 255] ∧ (after (.sliceWritebackEnd tag2) s).rd R.WRP_LCO_FRAME [0] = 5
    ∧ (after (.sliceWritebackEnd tag2) s).bit R.WRP_STATUS [0] 1 = true := by decide +kernel

/-! ### Programming synthesis and adaptation (chapter 3) -/

/-- Pipe 0 with a valid timing of 64 × 128 at 25 MHz, and output 0 with settings that pass the enable check. -/
def enabling : State :=
  let s := dispatching [(R.DSP_MAP, [0], 4), (R.SYN_GEOM, [0], 0x1014), (R.SYN_MARGIN, [0], 10000), (R.SYN_BUDGET, [0], 30000),
    (R.SYN_MODEL, [0], 7), (R.SYN_QUEUE, [0], 0x8000), (R.SCH_CTX_CFG, [0], 0x30), (R.SYN_BANK_HI, [0], 0x8000), (R.SYN_HIST_LO, [0], 0x10000),
    (R.SYN_ORING_LO, [0], 0x20000), (R.SYN_LAUNCH_LO, [0], 0x30000), (R.WRP_LCO_PITCH, [0], 256), (R.WRP_LCO0_LO, [0], 0x40000),
    (R.WRP_LCO1_LO, [0], 0x50000)] []
  let s := s.withImg { s.img with regions := s.img.regions ++ [{ part := 0, base := hubBase, size := hubSize, read := true, write := false, shared := false }] }
  let s := s.withSch { s.sch with queues := [{ queue0 with desc := { queue0.desc with prio := 1 } }], models := [{ model7 with pinned := true }] }
  let key (r : Reg) (v : Word) : Nat × Word := (regAddr r [0] - 0x100000, v)
  (s.setPipe 0 { s.pipe 0 with applied := [key R.DSP_TIMING_H 0x80040, key R.DSP_TIMING_H2 0x80008, key R.DSP_TIMING_V 0x10080,
    key R.DSP_TIMING_V2 0x10001, key R.DSP_PCLK 25000000] }).setOut 0 { SynOut.reset with checking := true }

def header0 : ModelHeader := { maxWidth := 64, maxLines := 8, halo := 4, adapterBytes := 0 }

theorem witness_synEnable : (after (.synEnable 0 0x21) up).rd R.SYN_CTRL [0] = 0x21 ∧ ((after (.synEnable 0 0x21) up).out 0).checking = true
    ∧ (racing [] SynOut.reset).synOn 0 = true := by decide +kernel

theorem witness_synEnableCheckEnd : let u := enabling.setOut 0 { enabling.out 0 with checking := false, halo := 4 }
    let t := after (.synEnableCheckEnd 0 header0) enabling
    let v := up.setOut 0 { SynOut.reset with checking := true }
    u.enableCheck 0 header0 = 0 ∧ t.synOn 0 = true ∧ t.rd R.SYN_SLICE [0, 15] = 0x80078
    ∧ (v.setOut 0 { SynOut.reset with halo := 4 }).enableCheck 0 header0 = 0x0A
    ∧ (after (.synEnableCheckEnd 0 header0) v).fld R.SYN_STATUS [0] 15 8 = 0x0A := by decide +kernel

theorem witness_synDisable : let s := racing [(R.SYN_CTRL, [0], 1)] (out5 [slice2])
    s.runsDistinct 0 ∧ (after (.synDisable 0 0x20) s).synOn 0 = false
    ∧ ((after (.synDisable 0 0x20) s).out 0).runs.map (·.origin) = [some 3] := by decide +kernel

theorem witness_synLockedWrite : let s := upWith [(R.SYN_CTRL, [0], 1)]
    (after (.synLockedWrite 0 .geom 0x1014) up).rd R.SYN_GEOM [0] = 0x1014
    ∧ (after (.synLockedWrite 0 .geom 0x1014) s).fld R.SYN_STATUS [0] 15 8 = 0x0C
    ∧ s.testedCode 0 .margin 5 = 3 ∧ (after (.synTestedWrite 0 .margin 5) s).fld R.SYN_STATUS [0] 15 8 = 3
    ∧ (after (.synTestedWrite 0 .margin 5) up).rd R.SYN_MARGIN [0] = 5 := by decide +kernel

theorem witness_bankCopyEnd : let r := { slice2 with copying := true, vectors := [1, 2] }
    let s := (racing [(R.SYN_STATUS, [0], 5)] (out5 [r])).store 0 [1, 3]
    s.runsDistinct 0 ∧ r.busyWith 0 = true ∧ s.bankAddr 0 0 = 0 ∧ (after (.bankCopyEnd 0 0) s).bit R.SYN_STATUS [0] 2 = false
    ∧ ((after (.bankCopyEnd 0 0) s).run 0 5 2).map (fun y => (y.copying, y.vectors.getD 0 0)) = some (false, 1)
    ∧ (after (.bankPublish 0 1) s).curBank 0 = 1 := by decide +kernel

theorem witness_bankCopyFails : let r := { slice2 with copying := true, task := some (0, 7) }
    let bad := { keyframe0 with base := 2 ^ 40 }
    let s (k : Keyframe) : State :=
      let s := racing [(R.SYN_STATUS, [0], 5)] { out5 [r] with frames := [{ frame5 with pair := some (k, k) }] }
      s.withSch { s.sch with tasks := [{ task0 with entry := { task0.entry with seq := 7 } }] }
    let fails (s : State) := (s.runView 0 r).bind fun v => s.readsFail (s.synCtx 0) (s.sliceReads v)
    (s bad).runsDistinct 0 ∧ (∀ x ∈ ((s bad).out 0).runs, x.busyWith 0 = true → x = r) ∧ (fails (s bad)).isSome = true
    ∧ ((s bad).task 0 7).isSome = true ∧ ((s keyframe0).runView 0 r).isSome = true ∧ fails (s keyframe0) = none := by decide +kernel

/-- Output 0 with a captured reference, or an outstanding job. -/
def work0 (job : Option (Nat × Word)) : AdaptWork := { ref := 3, keyframe := 5, refresh := 5, samples := [], left := [], sel := 0, job := job }
def adapting (regs : List (Reg × List Nat × Word)) (job : Option (Nat × Word)) : State :=
  racing ([(R.SYN_ADP_CTRL, [0], 0x02000102), (R.SYN_QUEUE, [0], 0x80008000), (R.SYN_ADP_STATUS, [0], 0x38), (R.SYN_ADP_WORK_LO, [0], 0x8000)] ++ regs)
    { out5 [] with work := some (work0 job), claim := if job.isSome then 1 else 0 }

theorem witness_adaptJobLaunch : let s := adapting [] none
    let t := after (.adaptJobLaunch 0) s
    s.openQueue 0 = some queue0 ∧ (s.out 0).kfComplete 5 = true ∧ s.bufferFree 0 (s.adpTarget 0) = true ∧ s.adpMode 0 = 2
    ∧ (adapting [(R.SYN_ADP_STATUS, [0], 0)] none).bufferFree 0 1 = false
    ∧ s.accessOk 0 0x8040 64 true = true ∧ (s.jobDescriptor 0 (work0 none) 1 0).take 9 = [3, 0, 0, 0, 0, 0, 0, 0, 1]
    ∧ (s.jobEntry 0 0x8000 3).take 8 = [1, 0, 0, 0, 3, 0, 0, 0] ∧ (t.out 0).refNumber = 4 ∧ (t.out 0).claim = 1 := by decide +kernel

theorem witness_adaptReport : let s := adapting [] (some (0, 0))
    let r (flags : Byte) (a : Word) (u : State) : State := after (.adaptReport 0 3 flags a 0) u
    ((r 1 0 s).out 0).swapTo = 1 ∧ ((r 0 0 s).out 0).claim = 0 ∧ (r 3 0 s).rd R.SYN_ADP_CNT_REFUSED [0] = 1
    ∧ (r 0 0x7F800000 s).bit R.SYN_ADP_STATUS [0] 6 = true ∧ ((r 8 0 s).out 0).window = [(0, 0)]
    ∧ s.adpWindow 0 = 2 ∧ (r 8 0x40000000 (s.setOut 0 { s.out 0 with window := [(0, 0)] })).bit R.SYN_ADP_STATUS [0] 6 = true
    ∧ (r 8 0 (s.setOut 0 { s.out 0 with window := [(0x3F800000, 0x40000000)] })).rd R.SYN_ADP_MEAN_B [0] = 0x3F800000
    ∧ (after (.adaptReport 0 4 0 0 0) s).rd R.SYN_ADP_CNT_BAD [0] = 1
    ∧ ((after (.adaptReport 0 4 0 0 0) (up.setOut 0 { SynOut.reset with ignore := [4, 6] })).out 0).ignore = [6] := by decide +kernel

theorem witness_adaptJobTimeout : let s := adapting [] (some (0, 0))
    let v := adapting [(R.SYN_ADP_LIMITS, [0], 0x10000)] (some (0, 0))
    (s.fld R.SYN_ADP_LIMITS [0] 19 16 = 0 ∨ (s.out 0).failedRun + 1 < s.fld R.SYN_ADP_LIMITS [0] 19 16)
    ∧ ((after (.adaptJobTimeout 0) s).out 0).failedRun = 1
    ∧ (after (.adaptJobTimeout 0) v).bit R.SYN_ADP_STATUS [0] 6 = true ∧ (after (.adaptRearm 0) v).bit R.SYN_ADP_STATUS [0] 7 = true
    ∧ (after (.adaptModeWrite 0 2) up).bit R.SYN_ADP_STATUS [0] 7 = true ∧ ((after (.adaptModeWrite 0 0) s).out 0).toZero = true
    ∧ ((after (.adaptModeWrite 0 1) (adapting [] none)).out 0).work = none := by decide +kernel

/-! ### Task programs (chapters 4 to 6) -/

/-- Hamper 0 of group 0: threads 0 to 3 are active, the others have exited. -/
def hamper0 : Hamper := { ident := 0, group := 0, rank := 0, active := 0xF, exited := 0xFFFFFFF0, stack := [], waiting := none }

/-- Slot 0 with that hamper and thread registers: register 1 of thread l holds l, register 2 holds 5. -/
def simtSlot : Slot :=
  let x := { slot0 with image := { slot0.image with hampers := [hamper0] } }
  (rangeFrom 0 4).foldl (fun x l => (x.setReg 0 l 1 (BitVec.ofNat 32 l)).setReg 0 l 2 5) x

/-- A device on which that slot runs, with core memory, cluster memory and accumulator rows of its own; its core memory begins
with 16 bytes of 1. -/
def running (x : Slot) (task : Task) : State :=
  let s := busyWith [(R.CORE_SLOT_MEM, [0, 0, 0, 0], 0x400), (R.CORE_SLOT_EXE, [0, 0, 0, 0], 0x80100400), (R.CLC_CSHARE, [0, 0, 0], 0x100)]
  (s.withSch { s.sch with slots := [x], tasks := [task] }).store 0x800020000000 (List.replicate 16 1)

/-- Engine 0 of the slot. -/
def engine0 : EngineName := ⟨name0, 0⟩

/-- Hamper 0 of the slot. -/
def atH0 : HamperName := ⟨name0, 0⟩

/-- The slot after a command. -/
def slotAfter (c : Instr) (s : State) : Slot := ((after c s).slotAt 0 0).getD slot0

/-- A load of a plain INT8 tile, a product of two rows, a 1 × 1 convolution of two pixels, and a requantisation. -/
def ldw0 : LdwCmd := { fmt := .int8, addr := 0, tile := 0, table := 0, esc := false, real := 0 }
def mma0 : MmaCmd := { afmt := .int8, addr := 0, pitch := 0, rows := 2, accRow := 3, overwrite := true, bcast := none }
def conv0 : ConvCmd :=
  { afmt := .int8, cb32 := false, addr := 0, height := 2, width := 2, block := 0, passRow := 0, passCol := 0, tapRow := 0, tapCol := 0, stride := 0, dilation := 0,
    padTop := 0, padLeft := 0, outWidth := 2, first := 0, rows := 2, accRow := 3, overwrite := true, zeroCode := 0, blkdiag := 0, bcast := none }
def rq0 : RqCmd :=
  { intMode := true, target := .int8, rounding := 0, accRow := 3, rows := 2, lane := 0, lanes := 16, bypass := false, params := 512, dst := 1024, pitch := 16, lo := 0, hi := 0,
    accInt := true, record := none }

/-- The running slot once the tile has been loaded. -/
def loaded : State := after (.engineLdw engine0 ldw0) (running slot0 task0)

theorem witness_engineLdw : let s := running slot0 task0
    s.atEngine engine0 slot0 (slot0.engine 0) ∧ cbOf ldw0.fmt = none ∧ (s.readShare slot0 0 256).toOption = some (List.replicate 16 1 ++ zeros 240)
    ∧ cbOf .cb8Int8 = some (8, .int 8)
    ∧ ((s.codebookTile slot0 { ldw0 with fmt := .cb8Int8, real := 128, tile := 1 } 8 (.int 8)).toOption).isSome = true
    ∧ ((slotAfter (.engineLdw engine0 ldw0) s).engine 0).idle.map (·.depth) = some 16 := by decide +kernel

theorem witness_engineMma : let s := loaded
    let x := slotAfter (.engineLdw engine0 ldw0) (running slot0 task0)
    let e := x.engine 0
    s.atEngine engine0 x e ∧ s.rowsHeld x 3 2 = true ∧ e.swapTile.current.act = 0
    ∧ (∀ r, r < 2 → (s.readShare x (0 + r * 0) 16).toOption = some (List.replicate 16 1)) ∧ e.swapTile.current.fp = false
    ∧ ((slotAfter (.engineMma engine0 mma0) s).engine 0).row 4 = 16 :: List.replicate 15 0 := by decide +kernel

theorem witness_engineConv : let s := loaded
    let x := slotAfter (.engineLdw engine0 ldw0) (running slot0 task0)
    let e := x.engine 0
    e.swapTile.current.plain = true ∧ (∀ p, p < 2 → ((s.convInput x conv0 16 (0 + p)).toOption).isSome = true)
    ∧ ((slotAfter (.engineConv engine0 conv0) s).engine 0).row 3 = 16 :: List.replicate 15 0
    ∧ ((slotAfter (.engineConv engine0 { conv0 with blkdiag := 2 }) s).engine 0).row 3 = 4 :: List.replicate 15 0
    ∧ ((slotAfter (.engineDwc engine0 conv0) s).engine 0).row 3 = 1 :: List.replicate 15 0 := by decide +kernel

theorem witness_engineAcc : let s := after (.engineMma engine0 mma0) loaded
    let x := slotAfter (.engineMma engine0 mma0) loaded
    s.atEngine engine0 x (x.engine 0) ∧ s.rowsHeld x 4 1 = true ∧ s.rowsHeld x 3 1 = true ∧ (s.readShare x 0 64).toOption = some (List.replicate 16 1 ++ zeros 48)
    ∧ ((slotAfter (.engineAcc engine0 4 1 false .zero) s).engine 0).row 4 = List.replicate 16 0
    ∧ ((slotAfter (.engineAcc engine0 4 1 false (.addRows 3)) s).engine 0).row 4 = 32 :: List.replicate 15 0
    ∧ ((slotAfter (.engineAcc engine0 4 1 false (.addVector 0)) s).engine 0).row 4 = 0x01010111 :: (List.replicate 3 0x01010101 ++ List.replicate 12 0)
    ∧ ((slotAfter (.engineAcc engine0 4 1 false (.addMemory 0)) s).engine 0).row 4 = 0x01010111 :: (List.replicate 3 0x01010101 ++ List.replicate 12 0)
    ∧ (∀ a ∈ (x.engine 0).acc, a.2.length = 16)
    ∧ ((slotAfter (.engineGap engine0 3 2 9 false) s).engine 0).row 9 = 32 :: List.replicate 15 0 := by decide +kernel

theorem witness_engineRq :
    let s := (after (.engineMma engine0 mma0) loaded).store 0x800020000200 ((List.replicate 16 ([3, 0, 0, 0, 2, 1, 0xF0, 12] : List Byte)).flatten)
    let x := slotAfter (.engineMma engine0 mma0) loaded
    s.atEngine engine0 x (x.engine 0) ∧ s.rowsHeld x 3 2 = true
    ∧ (s.readShare x 512 128).toOption = some ((List.replicate 16 ([3, 0, 0, 0, 2, 1, 0xF0, 12] : List Byte)).flatten)
    ∧ (∀ r, r < 2 → 1024 + r * 16 + 16 ≤ (s.coreShare x.core x.idx).2 ∧ s.writeError ((s.coreShare x.core x.idx).1 + 1024 + r * 16) 16 = none)
    ∧ (after (.engineRq engine0 rq0) s).byte 0x800020000410 = 12 ∧ (after (.engineRq engine0 rq0) s).byte 0x80002000041F = 1 := by decide +kernel

theorem witness_engineSig : let s := running slot0 task0
    (slotAfter (.engineSig engine0 31) s).eventCount 31 = 1 ∧ waitDone (slot0.eventCount 31) 1 = false
    ∧ ((slotAfter (.engineWaite engine0 31 1) s).engine 0).waiting = some (31, 1)
    ∧ ((slotAfter (.engineWaite engine0 31 0) s).engine 0).waiting = none
    ∧ (after (.engineWaite engine0 31 1) s).slotNamed name0 = some (slotAfter (.engineWaite engine0 31 1) s) := by decide +kernel

/-- The slot with its tile and a stream of two rows that engine 1 has read under tag 7. -/
def fanned : Slot :=
  let x := slotAfter (.engineLdw engine0 ldw0) (running slot0 task0)
  { x with image := { x.image with streams := [{ tag := 7, rows := [List.replicate 16 2, List.replicate 16 3], taken := [1] }] } }

theorem witness_engineStream : let s := running fanned task0
    s.atEngine engine0 fanned (fanned.engine 0) ∧ s.rowsHeld fanned 3 2 = true ∧ (fanned.engine 0).swapTile.current.act = 0
    ∧ fanned.image.streams.find? (fun v => v.tag == 7 && !v.taken.contains 0 && v.rows.length == 2) = fanned.image.streams.head?
    ∧ ((slotAfter (.engineMma engine0 { mma0 with bcast := some 7 }) s).engine 0).row 4 = 48 :: List.replicate 15 0 := by decide +kernel

theorem witness_engineRqBypass : let s := after (.engineMma engine0 mma0) loaded
    let x := slotAfter (.engineMma engine0 mma0) loaded
    let c := { rq0 with bypass := true, pitch := 64, lane := 0, lanes := 2 }
    (rqRange c).length = 2 ∧ (∀ r, r < 2 → 1024 + r * 64 + 8 ≤ (s.coreShare x.core x.idx).2
      ∧ s.writeError ((s.coreShare x.core x.idx).1 + 1024 + r * 64) 8 = none)
    ∧ (after (.engineRq engine0 c) s).bytes 0x800020000440 9 = [16, 0, 0, 0, 0, 0, 0, 0, 0] := by decide +kernel

/-- The slot with an entry of row 4 of engine 0 in error, and the slot with engine 0 waiting. -/
def spoiled : Slot := slot0.setEngine 0 { Engine.empty with bad := [4] }
def stuck : Slot := slot0.setEngine 0 { Engine.empty with waiting := some (31, 1) }

theorem witness_engineErrors : let s := running spoiled task0
    s.slotNamed name0 = some spoiled ∧ (spoiled.engine 0).free = true ∧ s.stalls spoiled = false ∧ s.slotTask spoiled = some task0
    ∧ s.rowsHeld spoiled 3 2 = true ∧ s.rowsHeld spoiled 9 1 = true
    ∧ ((after (.engineGap engine0 3 2 9 false) s).task 0 0).isNone = true := by decide +kernel

theorem witness_engineQueue : let s := running stuck task0
    s.slotNamed name0 = some stuck ∧ (stuck.engine 0).waiting.isSome = true ∧ stuck.readyEngine = none ∧ s.stalls stuck = false
    ∧ ((slotAfter (.engineMma engine0 mma0) s).engine 0).queue = [.mma mma0]
    ∧ (slotAfter (.engineMma engine0 mma0) (running (stuck.setEngine 0 { stuck.engine 0 with queue := List.replicate 32 (.sig 0) }) task0)).wait.isSome
      = true := by decide +kernel

theorem witness_simtArith : let s := running simtSlot task0
    s.atHamper atH0 simtSlot hamper0
    ∧ (slotAfter (.simtFpArith atH0 .select 3 1 2 1) s).reg 0 0 3 = 5
    ∧ (slotAfter (.simtInteger atH0 .sub 3 1 2) s).reg 0 3 3 = 0xFFFFFFFE
    ∧ (slotAfter (.simtInteger atH0 (.mulWide true) 3 1 2) s).reg 0 3 3 = 15
    ∧ (slotAfter (.simtConvert atH0 .int32 .fp32 0 false 3 2) s).reg 0 1 3 = 0x40A00000
    ∧ (slotAfter (.simtHamperExchange atH0 .reduceAddInt 3 1 0) s).reg 0 2 3 = 6
    ∧ (slotAfter (.simtHamperExchange atH0 (.broadcast 3) 3 1 0) s).reg 0 2 3 = 3
    ∧ (slotAfter (.simtHamperExchange atH0 .shuffle 3 2 1) s).reg 0 2 3 = 5
    ∧ (slotAfter (.simtHamperExchange atH0 .voteAll 3 1 0) s).reg 0 2 3 = 0
    ∧ (slotAfter (.simtHamperExchange atH0 .voteAny 3 1 0) s).reg 0 2 3 = 1
    ∧ (slotAfter (.simtHamperExchange atH0 .ballot 3 1 0) s).reg 0 2 3 = 0xE := by decide +kernel

/-- The hamper with one active thread, and its slot. -/
def lone : Hamper := { hamper0 with active := 8, exited := 0xFFFFFFF7 }
def loneSlot : Slot := { simtSlot with image := { simtSlot.image with hampers := [lone] } }.setReg 0 3 1 4

theorem witness_simtMemory : let s := running loneSlot task0
    s.atHamper atH0 loneSlot lone ∧ lone.lanes = [3] ∧ (loneSlot.reg 0 3 1).toNat = 4
    ∧ s.accessFault (s.spaceShare loneSlot .core) [4] 4 true = none ∧ s.accessFault (s.spaceShare loneSlot .core) [4] 4 false = none
    ∧ (slotAfter (.simtLoadStore atH0 false .core 0 3 1) s).reg 0 3 3 = 0x01010101
    ∧ (after (.simtLoadStore atH0 true .core 0 2 1) s).bytes 0x800020000004 5 = [5, 0, 0, 0, 1]
    ∧ (after (.simtAtomic atH0 .add .core 3 1 2 2) s).bytes 0x800020000004 5 = [6, 1, 1, 1, 1]
    ∧ (slotAfter (.simtAtomic atH0 .add .core 3 1 2 2) s).reg 0 3 3 = 0x01010101 := by decide +kernel

/-- The slot with register 1 of thread 0 in error. -/
theorem witness_simtError : let x := { simtSlot with image := { simtSlot.image with badRegs := [1] } }
    let s := running x task0
    s.onHamperOf atH0 x hamper0 ∧ s.slotTask x = some task0 ∧ x.regsSound hamper0 (fpReads .add 1 2 0) = false
    ∧ ((after (.simtFpArith atH0 .add 3 1 2 0) s).task 0 0).isNone = true := by decide +kernel

theorem witness_simtUnfenced : let s := running loneSlot task0
    let base := (s.spaceShare loneSlot .cluster).1
    let t := after (.simtLoadStore atH0 true .cluster 0 2 1) s
    let y := slotAfter (.simtLoadStore atH0 true .cluster 0 2 1) s
    s.accessFault (s.spaceShare loneSlot .cluster) [4] 4 true = none ∧ (∀ u ∈ loneSlot.image.unfenced, u.thread ≠ 3)
    ∧ t.mem = s.mem ∧ t.threadBytes y 3 (base + 4) 4 = [5, 0, 0, 0] ∧ (y.image.unfenced.map (·.addr)).Nodup
    ∧ t.onHamperOf atH0 y lone ∧ (after (.simtFence atH0) t).bytes (base + 4) 4 = [5, 0, 0, 0]
    ∧ (slotAfter (.simtFence atH0) t).image.unfenced = [] := by decide +kernel

/-- The slot with a second hamper of the same group, in a reproducible partition. -/
theorem witness_simtAtomicOrder : let h := { lone with ident := 1, rank := 1 }
    let x := { loneSlot with image := { loneSlot.image with hampers := [lone, h] } }
    let s := (running x task0).poke R.SCH_PART_CFG [0] 0x10
    s.reproducible 0 = true ∧ s.atomicWaits x h = true ∧ s.onHamperOf ⟨name0, 1⟩ x h ∧ s.atomicWaits x lone = false := by decide +kernel

theorem witness_simtBranch : let s := running simtSlot task0
    let on := maskOf (hamper0.lanes.filter fun l => simtSlot.reg 0 l 1 != 0)
    on = 0xE ∧ hamper0.active &&& ~~~on = 1 ∧ hamper0.exited ≠ 0xFFFFFFFF
    ∧ ((slotAfter (.simtBranch atH0 (.branch 1)) s).image.hampers.map (·.stack)) = [[{ other := 1, mask := 0xF }]]
    ∧ ((slotAfter (.simtBranch atH0 (.predicate 1)) s).image.hampers.map (·.active)) = [0xE] := by decide +kernel

theorem witness_simtExit : let h := { hamper0 with exited := 0 }
    let x := { simtSlot with image := { simtSlot.image with hampers := [h] } }
    (running x task0).atHamper atH0 x h ∧ h.exited ||| h.active ≠ 0xFFFFFFFF
    ∧ ((slotAfter (.simtBranch atH0 .exit) (running x task0)).image.hampers.map (·.exited)) = [0xF] := by decide +kernel

theorem witness_simtBarrier : let u := { task0 with launch := { task0.launch with barriers := 1 } }
    let h := { hamper0 with exited := 0 }
    let x := { simtSlot with image := { simtSlot.image with hampers := [h] } }
    (running simtSlot u).slotTask simtSlot = some u
    ∧ (∀ j ∈ simtSlot.groupThreads 0, j ∈ hamper0.lanes.map fun l => hamper0.rank * 32 + l)
    ∧ (slotAfter (.simtBarrier atH0 0) (running simtSlot u)).image.barriers = []
    ∧ (∃ j ∈ x.groupThreads 0, j ∉ h.lanes.map fun l => h.rank * 32 + l)
    ∧ (slotAfter (.simtBarrier atH0 0) (running x u)).image.barriers.map (·.arrived) = [[0, 1, 2, 3]] := by decide +kernel

theorem witness_simtSample : let t : List Byte := leBytes 8 0x4000 ++ leBytes 2 4 ++ leBytes 2 4 ++ leBytes 4 256 ++ [0, 1, 0, 0] ++ zeros 12
    let s := ((running simtSlot task0).withImg { up.img with regions := [{ part := 0, base := 0, size := 2 ^ 30, read := true, write := true, shared := false }] }).store
      0x4000 [255, 0, 0, 255]
    let m := putAt t 17 [2]
    s.textureOf simtSlot (.desc t) = some t ∧ textureGood t = true ∧ sampleFixed t = true
    ∧ ((s.laneSamples simtSlot hamper0 t 4 hamper0.lanes).toOption.map (·.length)) = some 4
    ∧ textureGood m = true ∧ sampleFixed m = false ∧ s.accessOk 0 0x4000 (textureBytes m) false = true ∧ s.readError 0x4000 (textureBytes m) = none
    ∧ s.atHamper atH0 simtSlot hamper0 := by decide +kernel

theorem witness_events : let s := running simtSlot task0
    s.slotNamed name0 = some simtSlot ∧ (slotAfter (.eventSignal name0 5) s).eventCount 5 = 1 ∧ simtSlot.wait = none
    ∧ (slotAfter (.eventWait name0 .control 5 1) s).wait = some (.event 5 1, 0) ∧ (slotAfter (.eventWait name0 .control 5 0) s).wait = none
    ∧ ((slotAfter (.eventWait name0 (.hamper 0) 5 1) s).image.hampers.map (·.waiting)) = [some (5, 1)] := by decide +kernel

theorem witness_flagWait : let s := running simtSlot task0
    s.flagWaiter name0 0x800010000000 1 = some simtSlot ∧ (s.clusterShareOf simtSlot).1 = 0x800010000000
    ∧ s.accessFault (s.clusterShareOf simtSlot) [0] 4 false = none
    ∧ (slotAfter (.flagWait name0 0x800010000000 1) s).wait = some (.flag 0x800010000000 1, 0)
    ∧ s.flagWaiter name0 0x800010000000 0 = some simtSlot ∧ (slotAfter (.flagWait name0 0x800010000000 0) s).wait = none := by decide +kernel

/-! ### DMA, layer steps and box units (chapters 4 to 6) -/

/-- The running slot's device, with the low GiB of DRAM as the partition's region. -/
def mapped (regs : List (Reg × List Nat × Word)) : State :=
  let s := busyWith regs
  s.withImg { s.img with regions := [{ part := 0, base := 0, size := 2 ^ 30, read := true, write := true, shared := false }] }

/-- A descriptor that fills 8 bytes at 0x1000 with a value, and signals event 2. -/
def fill8 : List Byte := leBytes 8 0x05060708 ++ leBytes 8 0x1000 ++ leBytes 4 8 ++ leBytes 2 1 ++ leBytes 2 1 ++ zeros 16 ++ [1, 1, 2] ++ zeros 21

/-- The slot once it is submitted; tokens on its path, to M1 stack 0. -/
def filling : State :=
  let s := after (.dmaSubmit name0 0 fill8) (mapped [])
  s.withSch { s.sch with buckets := [{ kind := 0, index := 1, part := 0, tokens := 1, heldNow := false },
    { kind := 1, index := 1, part := 0, tokens := 1, heldNow := false }] }
def fillRun : DmaRun := { channel := 0, desc := decodeDma fill8, next := 0, held := none, aborted := false }

theorem witness_dmaSubmit : let s := mapped []
    s.slotNamed name0 = some slot0 ∧ (decodeDma fill8).good = true ∧ (decodeDma []).good = false
    ∧ (slotAfter (.dmaSubmit name0 0 fill8) s).image.dma = [fillRun]
    ∧ (after (.dmaSubmit name0 0 []) s).sch.slots = [] := by decide +kernel

theorem witness_dmaDescriptorComplete : let s := filling
    let x := slotAfter (.dmaSubmit name0 0 fill8) (mapped [])
    let m := fillRun.desc.move 0
    s.atChannel name0 0 x fillRun ∧ fillRun.desc.transfers = 1 ∧ s.mayProceed (s.arriving x fillRun) = some false
    ∧ (s.moveBytes 0 fillRun.desc m).toOption = some [8, 7, 6, 5, 8, 7, 6, 5] ∧ s.accessOk 0 0x1000 8 true = true
    ∧ (after (.dmaDescriptorComplete name0 0) s).bytes 0x1000 8 = [8, 7, 6, 5, 8, 7, 6, 5]
    ∧ (slotAfter (.dmaDescriptorComplete name0 0) s).eventCount 2 = 1 := by decide +kernel

theorem witness_dmaHeld : let s := filling.withSch { filling.sch with buckets := [] }
    let u := after (.dmaDescriptorComplete name0 0) s
    let v := u.withSch { u.sch with buckets := filling.sch.buckets }
    let x := slotAfter (.dmaSubmit name0 0 fill8) (mapped [])
    s.atChannel name0 0 x fillRun ∧ s.mayProceed (s.arriving x fillRun) ≠ some false ∧ u.sch.transfers = [s.arriving x fillRun]
    ∧ v.moveWaits 0 fillRun.desc (fillRun.desc.move 0) = false
    ∧ (u.sch.transfers.map fun h => (u.mayProceed h, v.mayProceed h)) = [(none, some false)]
    ∧ (after (.transferRelease 0) u).sch.transfers.length = 1
    ∧ (after (.transferRelease 0) v).sch.transfers.length = 0 ∧ (after (.transferRelease 0) v).byte 0x1007 = 5 := by decide +kernel

theorem witness_regulatorRefill : let s := upWith [(R.BWR_REG_CFG, [1, 1, 3], 0x10007)]
    let t := after .regulatorRefill s
    let u := after .regulatorRefill t
    (3, 3) ∉ s.regulators ∧ (0, 3) ∈ s.regulators ∧ (t.bucket (0, 3) 3).tokens = 7 ∧ (u.bucket (0, 3) 3).tokens = 14
    ∧ ((after .regulatorRefill u).bucket (0, 3) 3).tokens = 14 := by decide +kernel

/-- A scale history record: history depth 4, head 2, policy 1, threshold shift 1, and a working copy that saw 3 saturations
in 4 elements. -/
def scaleRecord : List Byte := putAt (zeros 128) 0x48 [2, 0, 4, 0, 1, 0]
def scaleCopy (sat : Nat) : List Byte := putAt (putAt (zeros 128) 0x50 (leBytes 4 0x3F800000 ++ leBytes 4 sat)) 0x60 (leBytes 8 4)
def stepping (shift : Byte) (sat : Nat) : State := ((mapped []).store 0x1000 (putAt scaleRecord 0x4D [shift])).store 0x2000 (scaleCopy sat)

theorem witness_layerStepEnd : let s := stepping 0 3
    let t := after (.layerStepEnd 0 0 0x1000 [0x2000]) s
    s.task 0 0 = some task0 ∧ (s.tryRead 0 0x1000 128).toOption = some scaleRecord
    ∧ (s.readRecords 0 [0x2000]).toOption = some [scaleCopy 3]
    ∧ (∀ a ∈ [0x1000, 0x2000], s.accessOk 0 a 128 true = true ∧ s.writeError a 128 = none)
    ∧ mismatches (mergeRecords (startStep scaleRecord) [scaleCopy 3]) = false
    ∧ t.le 0x1008 4 = 0x3F800000 ∧ t.le 0x1048 2 = 0x103 ∧ t.le 0x1054 4 = 3 := by decide +kernel

theorem witness_layerReplay : let s := stepping 1 3
    let merged := mergeRecords (startStep (putAt scaleRecord 0x4D [1])) [scaleCopy 3]
    let t := after (.layerStepEnd 0 0 0x1000 [0x2000]) s
    mismatches merged = true ∧ (stepPolicy merged false false).2 = .replay ∧ leAt merged 0x4C 1 % 4 = 1
    ∧ (t.task 0 0).map (·.replays) = some [0x1000] ∧ (stepPolicy (putAt merged 0x4C [2]) false false).2 = .failed
    ∧ (stepPolicy (putAt merged 0x4C [5]) true false).2 = .aborted := by decide +kernel

/-- A box call of queue 0, which runs. -/
def boxCall (desc : List Byte) (done : Bool) : BoxCall :=
  { cluster := 0, core := 0, idx := 0, qid := 0, seq := 0, prio := 0, desc := desc, started := true, running := true, done := done }

/-- A DECODE of one anchor-free cell of one class (FP16, stride 1, image 16 × 16), and an NMS. -/
def decode0 : List Byte :=
  [1, 1, 0, 0] ++ leBytes 2 1 ++ leBytes 2 1 ++ [1, 3] ++ leBytes 2 1 ++ leBytes 2 1 ++ leBytes 2 3 ++ leBytes 8 0x1000 ++ leBytes 8 0x2000 ++ zeros 8 ++ leBytes 8 0x3000 ++ zeros 10 ++ leBytes 2 16 ++ leBytes 2 16 ++ zeros 2
def nms0 : List Byte := [2, 0, 0, 0] ++ leBytes 2 8 ++ [3] ++ zeros 9 ++ leBytes 8 0x3000 ++ leBytes 8 0x4000 ++ leBytes 4 0x3F000000 ++ zeros 28

theorem witness_boxCallSubmit : let s := (mapped []).store 0x1000 nms0
    (s.tryRead 0 0x1000 64).toOption = some nms0 ∧ boxGood nms0 = true ∧ boxGood decode0 = true
    ∧ ((after (.boxCallSubmit name0 0x1000) s).boxRunning 0 0) = some (boxCall nms0 false)
    ∧ (let t := s.withBoxes (List.replicate 64 { boxCall nms0 false with started := false })
       64 ≤ t.boxPending 0 0 ∧ t.stalls slot0 = false ∧ (after (.boxCallSubmit name0 0x1000) t).boxes.length = 64
       ∧ (slotAfter (.boxCallSubmit name0 0x1000) t).wait.isSome = true) := by decide +kernel

/-- Inputs of the DECODE: every element is 1. -/
def decoding : State := (((mapped []).store 0x1000 (leBytes 2 0x3C00)).store 0x2000 (leBytes 8 0x3C003C003C003C00)).withBoxes [boxCall decode0 false]

theorem witness_boxDecode : let s := decoding
    s.boxRunning 0 0 = some (boxCall decode0 false) ∧ (s.anchorTable 0 decode0).toOption = some []
    ∧ ((s.cellCandidates 0 decode0 [] 0 0 0 0 0).toOption.map fun l => l.map (·.length)) = some [16]
    ∧ s.accessOk 0 0x3000 8 true = true ∧ (∀ i, i < 4 → s.accessOk 0 (0x3000 + 16 + 16 * i) 16 true = true)
    ∧ (after (.boxDecode 0 0) s).bytes 0x3000 8 = [1, 0, 0, 0, 0, 0, 0, 0]
    ∧ (after (.boxDecode 0 0) s).bytes 0x3010 10 = [0, 0, 0, 0, 0, 0x3E, 0, 0x3E, 0, 0x3C] := by decide +kernel

theorem witness_boxNms : let s := (after (.boxDecode 0 0) decoding).withBoxes [boxCall nms0 false]
    (s.tryRead 0 0x3000 4).toOption = some [1, 0, 0, 0] ∧ s.accessOk 0 0x4000 16 true = true ∧ s.accessOk 0 0x4010 16 true = true
    ∧ (after (.boxNms 0 0) s).bytes 0x4000 12 = [1, 0, 0, 0, 1, 0, 0, 0, 1, 0, 0, 0]
    ∧ (after (.boxNms 0 0) s).bytes 0x4010 10 = [0, 0, 0, 0, 0, 0x3E, 0, 0x3E, 0, 0x3C] := by decide +kernel

theorem witness_boxCallEnd : let s := (mapped []).withBoxes [boxCall nms0 true]
    s.boxRunning 0 0 = some (boxCall nms0 true) ∧ boxEvent nms0 = 3 ∧ (slotAfter (.boxCallEnd 0 0 50) s).eventCount 3 = 1
    ∧ (after (.boxCallEnd 0 0 50) s).rd R.BOX_BUSY_CLK [0, 0] = 50 ∧ (after (.boxCallEnd 0 0 50) s).boxes = [] := by decide +kernel

/-! ### Sketch units (chapter 7) -/

/-- A render descriptor of one pass on sketch unit 0, with its ring at 0x10000, and a pass entry of a 1 × 1 ARGB8888 target at
0x20000. -/
def renderDesc : List Byte := leBytes 8 0x10000 ++ leBytes 4 4096 ++ leBytes 2 1 ++ [1, 7] ++ zeros 48
def passEntry (len : Nat) : List Byte :=
  leBytes 4 0 ++ leBytes 4 len ++ [1, 0] ++ leBytes 2 1 ++ leBytes 2 1 ++ zeros 2 ++ leBytes 8 0x20000 ++ leBytes 4 256 ++ zeros 12 ++ leBytes 8 0x30000 ++ leBytes 4 0x20000 ++ zeros 12

/-- The task that renders it, and its device. -/
def renderTask : Task := { task0 with launch := { task0.launch with param := 0x1000 } }
def rendering : State :=
  let s := mapped []
  ((s.withSch { s.sch with tasks := [renderTask] }).store 0x1000 renderDesc).store 0x1040 (passEntry 32)

/-- Its pass, at work: the commands, bytes parsed, phase. -/
def pass0 (len : Nat) (phase : PassPhase) : Pass := { newPass renderTask (0, 0) 0 renderDesc (passEntry len) none with phase := phase }
def lead0 : ClusterName := ⟨0, 0⟩
def parsing (cmd : List Byte) : State :=
  let s := (mapped []).store 0x10000 cmd
  (s.withSch { s.sch with tasks := [renderTask] }).withPasses [pass0 64 .binning]

/-- The pass of another task, and a submission behind the passes `ps`. -/
def other (seq : Word) (phase : PassPhase) : Pass := { pass0 32 phase with seq := seq }
def behind (ps : List Pass) : State := rendering.withPasses ps

theorem witness_sketchPassSubmit : let e := passEntry 32
    let v := behind [other 5 .binning]
    let w := behind (other 5 .binning :: (rangeFrom 0 16).map fun i => other (6 + BitVec.ofNat 32 i) .pending)
    let bad := rendering.store 0x1040 (passEntry 3)
    (∀ s ∈ [rendering, v, w], s.atSubmit name0 0 slot0 renderTask renderDesc e none ∧ s.passRefusal renderTask renderDesc e none 0 = none
      ∧ s.accessOk 0 0x30000 0x20000 true = true ∧ s.sketchSettled)
    ∧ w.passRoom 1 = false ∧ v.passRoom 1 = true ∧ v.passes.map (·.shares (pass0 32 .pending)) = [true]
    ∧ (after (.sketchPassSubmit name0 0) rendering).passes.map (·.phase) = [.binning]
    ∧ (after (.sketchPassSubmit name0 0) v).passes.map (·.phase) = [.binning, .pending]
    ∧ ((after (.sketchPassSubmit name0 0) w).passes.drop 17).map (·.phase) = [.stalled]
    ∧ bad.atSubmit name0 0 slot0 renderTask renderDesc (passEntry 3) none
    ∧ bad.passRefusal renderTask renderDesc (passEntry 3) none 0 = some (some 4) := by decide +kernel

theorem witness_passResume : let s := up.withPasses [pass0 32 .stopped]
    let t := up.withPasses [pass0 32 .stopped, { pass0 32 .tiles with seq := 5, lead := 1 }]
    (after (.passResume lead0) s).passes = [pass0 32 .binning] ∧ (after (.passResume lead0) t).passes = t.passes := by decide +kernel

/-- A scene command by its opcode and payload. -/
def sceneCmd (op words : Nat) (payload : List Byte) : List Byte := [BitVec.ofNat 8 op, 0] ++ leBytes 2 words ++ zeros 4 ++ payload

/-- The scene state and place of the only pass after a command. -/
def scened (c : Instr) (s : State) : Option (SceneState × Nat) := (after c s).passes.head?.map fun p => (p.scene, p.parsed)

theorem witness_sceneState : let s0 := parsing (sceneCmd 0 1 [])
    let s1 := parsing (sceneCmd 1 1 [])
    let s2 := parsing (sceneCmd 2 4 (zeros 4 ++ [1]))
    let s3 := parsing (sceneCmd 3 2 [3, 0xA])
    let s4 := parsing (sceneCmd 4 3 [0x1B, 0, 0, 0, 5])
    s0.atScene lead0 0 (pass0 64 .binning) (sceneCmd 0 1 []) ∧ scened (.sceneNop lead0) s0 = some (SceneState.first, 8)
    ∧ s1.atScene lead0 1 (pass0 64 .binning) (sceneCmd 1 1 [])
    ∧ (after (.sceneEnd lead0) s1).passes.map (fun p => p.phase) = [.tiles]
    ∧ scened (.sceneSetClear lead0) s2 = some ({ SceneState.first with clear := [0, 1, 0, 0] }, 32)
    ∧ scened (.sceneSetLayer lead0) s3 = some ({ SceneState.first with layer := 3, idWrite := true, blend := 2 }, 16)
    ∧ scened (.sceneSetState lead0) s4 = some ({ SceneState.first with
        depthFn := 3, depthWrite := true, cull := 1, scissor := (5, 0, 0, 0) }, 24) := by decide +kernel

/-- A texture descriptor that Table 7.6 allows. -/
def texture0 : List Byte := leBytes 8 0x1000 ++ leBytes 2 16 ++ leBytes 2 16 ++ leBytes 4 256 ++ [0, 1] ++ zeros 14

theorem witness_sceneBind : let s5 := parsing (sceneCmd 5 3 (leBytes 4 7 ++ leBytes 4 8 ++ leBytes 4 2))
    let s6 := parsing (sceneCmd 6 6 (leBytes 4 3 ++ zeros 4 ++ texture0))
    let s7 := parsing (sceneCmd 7 3 (leBytes 4 2 ++ leBytes 4 64 ++ leBytes 8 0x2000))
    (scened (.sceneBindProg lead0) s5).map (·.1.program) = some (some (7, 8, 2))
    ∧ textureGood texture0 = true ∧ s6.atScene lead0 6 (pass0 64 .binning) (sceneCmd 6 6 (leBytes 4 3 ++ zeros 4 ++ texture0))
    ∧ (scened (.sceneBindTex lead0) s6).map (·.1.textures) = some [(3, texture0)]
    ∧ (scened (.sceneBindBuf lead0) s7).map (·.1.buffers) = some [(2, 64, 0x2000)] := by decide +kernel

theorem witness_sceneBindTexBad : let bs := sceneCmd 6 6 (leBytes 4 3 ++ zeros 4 ++ List.replicate 32 1)
    textureGood (sliceBytes bs 16 32) = false ∧ (parsing bs).atScene lead0 6 (pass0 64 .binning) bs
    ∧ (after (.sceneBindTex lead0) (parsing bs)).rd R.SKU_ERR_CODE [0, 0] = 6 := by decide +kernel

/-- A shaded vertex at a place of the target, which spans −1 to 1, and its record; three of them cover the target. -/
def vertexAt (x y : Nat) : List Byte := let p := leBytes 4 x ++ leBytes 4 y ++ zeros 4 ++ leBytes 4 0x3F800000; p ++ p
def covering : List (List Byte) := [vertexAt 0xBF800000 0xBF800000, vertexAt 0x40400000 0xBF800000, vertexAt 0xBF800000 0x40400000]

/-- A pass with a program whose vertex records have 32 bytes, and a device whose memory holds a scene command. -/
def shading (len : Nat) : Pass := { pass0 len .binning with scene := { SceneState.first with program := some (7, 8, 2) } }
def drawing (p : Pass) (cmd : List Byte) : State := (parsing cmd).withPasses [p]

theorem witness_sceneDraw : let d := sceneCmd 8 4 (zeros 4 ++ leBytes 4 3 ++ zeros 4 ++ leBytes 4 1 ++ zeros 8)
    let p := shading 64
    let s := drawing p d
    let full := { p with entries := [⟨0, 1, 1, 1⟩], poolLow := 1000000 }
    let bs := p.drawPrims d [0, 1, 2] covering
    s.atScene lead0 8 p d ∧ ((s.sketchWrite p p.lead p.firstWrites).1.drawVertices p d).toOption.map (·.1) = some [0, 1, 2]
    ∧ s.drawShaded p d [0, 1, 2] [] = false ∧ s.drawShaded p d [0, 1, 2] covering = true ∧ bs.length = 1
    ∧ (∀ b ∈ bs, b.tiles = [0] ∧ p.holds b = true ∧ s.takesWrites p (p.bin b).2 ∧ full.holds b = false)
    ∧ p.drawPrims d [0, 1, 2] (List.replicate 3 (zeros 32)) = []
    ∧ (after (.sceneDraw 0 0 covering) s).passes.map (fun p => p.prims.map (·.tiles)) = [[[0]]]
    ∧ (after (.sceneDraw 0 0 covering) (drawing full d)).passes.map (fun p => p.phase) = [.partialTiles] := by decide +kernel

theorem witness_sceneDrawUnbound : let x := sceneCmd 8 4 ([4] ++ zeros 23)
    let y := sceneCmd 9 3 (leBytes 4 3 ++ zeros 12)
    (parsing x).atScene lead0 8 (pass0 64 .binning) x ∧ (after (.sceneDraw 0 0 []) (parsing x)).rd R.SKU_ERR_CODE [0, 0] = 3
    ∧ (parsing y).atScene lead0 9 (pass0 64 .binning) y ∧ (after (.sceneDrawSurface 0 0) (parsing y)).rd R.SKU_ERR_CODE [0, 0] = 3 := by decide +kernel

theorem witness_sceneDrawSurface : let rect (n : Nat) := sceneCmd 9 3 (leBytes 4 3 ++ zeros 4 ++ leBytes 2 n ++ leBytes 2 n ++ leBytes 4 0x3F000000)
    let p := { pass0 64 .binning with scene := { SceneState.first with textures := [(3, texture0)] } }
    let s (n : Nat) := drawing p (rect n)
    (∀ n ∈ [0, 100], (s n).atScene lead0 9 p (rect n)) ∧ (fixOf 0x3F000000).isSome = true
    ∧ (∀ z, fixOf 0x3F000000 = some z → p.surfacePrims (rect 0) z = [] ∧ (p.surfacePrims (rect 100) z).length = 1)
    ∧ (after (.sceneDrawSurface 0 0) (s 100)).passes.map (fun p => p.prims.map (·.tiles)) = [[[0]]] := by decide +kernel

/-- A pass with one primitive, and a white fragment of it. -/
def corner0 (x y : Int) : Corner := { x := x, y := y, z := 1, w := 1, px := x, py := y, pw := 1 }
def binned0 : Binned := { seq := 0, shape := ⟨corner0 0 0, corner0 0 2, corner0 2 0⟩, scissor := (0, 0, 1, 1), textures := [], layer := 2, motionNone := true, idWrite := true, blend := 0, depthFn := 7, depthWrite := true, tiles := [0] }
def fragment0 : Fragment := { x := 0, y := 0, prim := 0, color := Vector.replicate 4 0x3F800000, depth := some 0x3F800000, discard := false }
def drawn0 (phase : PassPhase) : Pass := { pass0 64 phase with prims := [binned0], nextSeq := 1 }

theorem witness_quadRetire : let p := drawn0 .tiles
    let s := (mapped []).withPasses [p]
    let t := after (.quadRetire lead0 lead0 ⟨[fragment0], 1⟩ 4) s
    (∃ x ∈ s.sch.slots, x.qid = p.qid ∧ x.seq = p.seq ∧ x.core / 16 = 0) ∧ p.retireOf 0 = ⟨0, 0, []⟩ ∧ p.primOf 0 fragment0 = some binned0
    ∧ p.tileOf 0 0 ∉ p.stored ∧ t.passes.map (fun p => (p.pixel 0).argb) = [[255, 255, 255, 255]]
    ∧ t.rd R.SKU_CNT_RETSTALL [0, 0] = 4
    ∧ [fragment0, { fragment0 with prim := 1 }].Perm [{ fragment0 with prim := 1 }, fragment0]
    ∧ ([fragment0, { fragment0 with prim := 1 }].map fun f => (f.prim, f.y, f.x)).Nodup := by decide +kernel

/-- The pass of the only pixel, whose fragment has committed, before another pass and as the last. -/
def ending (last : Bool) : Pass :=
  { drawn0 .tiles with last := last, pixels := [(0, commitFragment binned0 fragment0 SceneState.first.clearPixel)], desc := putAt renderDesc 0x30 (leBytes 8 0x3000) }

theorem witness_passEnd : let p := ending false
    let s := rendering.withPasses [p]
    let u := rendering.withPasses [ending true]
    s.task 0 0 = some renderTask ∧ p.drained = true ∧ p.stored = [] ∧ s.noneWaits ∧ p.kind = 1 ∧ 4 * p.width ≤ p.pitch ∧ p.dispCopy = false
    ∧ (∀ k, k < p.tileCount → s.takesWrites p (p.storeRows true k))
    ∧ (after (.passEnd lead0) s).bytes 0x20000 4 = [255, 255, 255, 255] ∧ (after (.passEnd lead0) s).passes = []
    ∧ leAt (ending true).desc 0x28 8 = 0 ∧ u.takesWrites (ending true) [(0x3000, zeros 32)]
    ∧ (after (.passEnd lead0) u).bytes 0x300C 4 = leBytes 4 1 := by decide +kernel

theorem witness_passEndPixels : ∀ i, ((ending false).pixel i).argb.length = 4 := fun _ => rfl

/-! ### Vision engines (chapter 8) -/

/-- A stage descriptor: op, logical engine, flags and priority, output 7, context 0, no queue, and its body. -/
def stageDesc (op logical flags : Nat) (body : List Byte) : List Byte :=
  [BitVec.ofNat 8 op, BitVec.ofNat 8 logical, BitVec.ofNat 8 flags, 7] ++ zeros 28 ++ body ++ zeros (96 - body.length)

/-- A pyramid of a w × h 8-bit image at 0x1000, one level, to 0x2000. -/
def pyramidDesc (w h levels : Nat) : List Byte :=
  stageDesc 1 15 0 (leBytes 8 0x1000 ++ leBytes 4 256 ++ leBytes 2 w ++ leBytes 2 h ++ [0, 0, BitVec.ofNat 8 levels, 0] ++ zeros 4 ++ leBytes 8 0x2000)

/-- A waiting stage, and a chain with some stages. -/
def stageOf (d : List Byte) (st : StageState) (done : Bool) : Stage := { desc := d, state := st, done := done, restarted := false, pin := none }
def chainOf (ident prio timeout : Nat) (stages : List Stage) : Chain :=
  { ident := ident, source := .host, ctx := 0, prio := prio, synOut := 7, queue := none, tag := 0, timeout := timeout, refresh := 0,
    stages := stages, firstRun := 0, engineNs := 0, ended := none }
def withChains (s : State) (cs : List Chain) : State := s.withVis { s.vis with chains := cs, nextChain := 9 }

theorem witness_visChainSubmit : let d := pyramidDesc 16 16 1
    let s := (dispatching [] []).store 0x4000 d
    let x := stageOf d .waiting false
    s.chainsNumbered ∧ s.visAct.isNone = true ∧ d = s.bytes 0x4000 128 ∧ s.readFor 0 0x4000 128 = .ok d
    ∧ s.partResetting 0 = false ∧ chainHeaderGood d = true ∧ stageHeaderGood d = true ∧ stageBodyGood d = true
    ∧ s.prioAllowed 0 0 = true ∧ (s.stageEngines x).find? (fun g => s.engineFree g 0) = some 12
    ∧ (after (.visChainSubmit .host 0x4000) s).vis.chains.map (fun c => c.stages.map (·.state)) = [[.running 12]] := by decide +kernel

theorem witness_visChainFrom : let d := pyramidDesc 16 16 1
    let s := ((mapped [(R.SCH_PART_CFG, [0], 0x4F), (R.CAP_V_STATE, [2], 3)]).store 0x4000 d)
    let v := s.withVis { s.vis with waiting := [{ qid := 0, seq := 5, addr := 0x4000, site := none }] }
    s.submits (.task name0) 0x4000 .task [] ∧ v.submits (.sketch 0 5) 0x4000 .sketch [] ∧ s.submits (.capture 2 0) 0x4000 (.capture 2 0) []
    ∧ (after (.visChainSubmit (.task name0) 0x4000) s).vis.chains.map (·.source) = [.task]
    ∧ (after (.visChainSubmit (.sketch 0 5) 0x4000) v).vis.waiting = []
    ∧ (after (.visChainSubmit (.capture 2 0) 0x4000) s).vis.chains.map (·.source) = [.capture 2 0] := by
  refine ⟨⟨by decide +kernel, rfl, rfl⟩, ⟨rfl, rfl⟩, ⟨by decide +kernel, ?_, rfl, rfl⟩, by decide +kernel, by decide +kernel, by decide +kernel⟩
  intro c hc
  cases hc

theorem witness_visFull : let s := withChains up (List.replicate 256 (chainOf 0 0 0 []))
    let v := busyWith [] |> (withChains · (List.replicate 256 (chainOf 0 0 0 [])))
    (after (.visChainSubmit .host 0) s).rd R.VIS_CD_CNT_REJECT [] = 1
    ∧ v.slotNamed name0 = some slot0 ∧ v.stalls slot0 = false ∧ (after (.visChainSubmit (.task name0) 64) v).stalls slot0 = true
    ∧ (after (.visChainSubmit (.task name0) 64) v).vis.waiting = [{ qid := 0, seq := 0, addr := 64, site := some (0, 0) }] := by decide +kernel

theorem witness_visStageEnd : let x := stageOf (pyramidDesc 1 1 1) (.running 12) true
    let c := chainOf 3 1 7 [x]
    let s := withChains up [c]
    c.alone ∧ s.running 12 = some (c, 0) ∧ x.nextAddr = 0 ∧ (after (.visStageEnd 12 500) s).vis.chains = []
    ∧ (after (.visStageEnd 12 500) s).rd R.VIS_CD_CNT_CHAINS [] = 1 ∧ (after (.visStageEnd 12 500) s).rd R.VIS_ENG_LAST_NS [12] = 500
    ∧ (after (.visChainTimeout 3) s).vis.chains = [] ∧ c.timeout ≠ 0
    ∧ (after (.visChainTimeout 3) (withChains up [{ c with timeout := 0 }])).vis.chains.length = 1 := by
  refine ⟨⟨rfl, by decide +kernel, ?_⟩, by decide +kernel⟩
  intro n i h
  cases h

theorem witness_visStageStop : let low := chainOf 1 2 0 [stageOf (stageDesc 3 0 0 []) (.running 8) false]
    let high := chainOf 2 0 0 [stageOf (stageDesc 3 0 0 []) .waiting false]
    let s := withChains up [low, high]
    let t := withChains up [chainOf 1 2 0 [stageOf (stageDesc 3 0 0 []) (.stopped 8) false]]
    s.chainsNumbered ∧ s.visAct.isNone = true ∧ s.running 8 = some (low, 0) ∧ s.waitingFor 8 = some 0 ∧ s.stoppedOn 8 = none
    ∧ (after (.visStageStop 8) s).vis.chains.map (fun c => c.stages.map (·.state)) = [[.stopped 8], [.running 8]]
    ∧ t.visAct.isNone = true ∧ (t.stoppedOn 8).isSome = true ∧ t.waitingFor 8 = none
    ∧ (after (.visStageResume 8) t).vis.chains.map (fun c => c.stages.map (·.state)) = [[.running 8]] := by decide +kernel

theorem witness_visEngineFail : let t := after (.visEngineFail 2) up
    let x := stageOf (pyramidDesc 1 1 1) (.running 13) false
    let u := after (.visEngineFail 13) (withChains up [chainOf 1 2 0 [x]])
    let c := chainOf 1 2 0 [{ x with restarted := true }]
    let v := after (.visEngineFail 13) (withChains up [c])
    (∀ k, k < 4 → (up.fld R.VIS_CD_FMAP [] (4 * k + 2) (4 * k) = 2 ↔ k = 2)) ∧ up.engineAbsent 2 2 = false
    ∧ t.fld R.VIS_CD_FMAP [] 10 8 = 4 ∧ (after (.visEngineFail 9) up).engineAbsent 3 1 = true ∧ x.logical = 15 ∧ x.op = 1 ∧ x.restarted = false
    ∧ u.engineAbsent 1 1 = true ∧ u.vis.chains.map (fun c => c.stages.map fun y => (y.state, y.restarted)) = [[(.running 12, true)]]
    ∧ c.alone ∧ v.vis.chains = [] ∧ v.rd R.VIS_CD_CNT_CHAINS [] = 1 := by
  refine ⟨by decide +kernel, by decide +kernel, by decide +kernel, by decide +kernel, by decide +kernel, by decide +kernel, by decide +kernel, by decide +kernel, by decide +kernel, ⟨rfl, by decide +kernel, ?_⟩, by decide +kernel, by decide +kernel⟩
  intro n i h
  cases h

theorem witness_pyramidStage : let d := pyramidDesc 2 2 2
    let c := chainOf 3 1 0 [stageOf d (.running 12) false]
    let s := withChains ((mapped []).store 0x1000 [10, 20]) [c]
    s.stageAt 12 c 0 (stageOf d (.running 12) false) ∧ (s.readImage 0 0x1000 256 2 2).toOption = some [[10, 20], [0, 0]]
    ∧ (∀ l, l < 2 → ∀ y, y < levelDim 2 l → s.accessOk 0 (0x2000 + levelOffset 2 2 l + y * 64) (levelDim 2 l) true = true)
    ∧ (after (.pyramidStage 0) s).bytes 0x2000 2 = [10, 20] ∧ (after (.pyramidStage 0) s).byte 0x2100 = 9
    ∧ (after (.pyramidStage 0) s).vis.chains.map (fun c => c.stages.map (·.done)) = [[true]] := by decide +kernel

theorem witness_stereoStage :
    let d := stageDesc 3 0 0 (leBytes 8 0x1000 ++ leBytes 8 0x1800 ++ leBytes 2 2 ++ leBytes 2 1 ++ [1, 0] ++ leBytes 2 16 ++ [1, 2, 1, 0] ++ zeros 4 ++ leBytes 8 0x2000 ++ leBytes 8 0x3000 ++ zeros 8 ++ leBytes 4 256)
    let c := chainOf 3 1 0 [stageOf d (.running 8) false]
    let s := withChains ((mapped []).store 0x1000 [10, 20]) [c]
    s.stageAt 8 c 0 (stageOf d (.running 8) false)
    ∧ ((rangeFrom 0 1).mapM (s.readLevel 0 0x1000 2 1)).toOption = some [[[10, 20]]]
    ∧ s.accessOk 0 0x2000 4 true = true ∧ s.accessOk 0 0x3000 2 true = true
    ∧ (after (.stereoStage 0) s).bytes 0x2000 4 = [0xFF, 0xFF, 0xFF, 0xFF] := by decide +kernel

/-- A flow stage of a 1 × 1 image. -/
def flowDesc : List Byte :=
  stageDesc 2 0 0 (leBytes 8 0x1000 ++ leBytes 8 0x1800 ++ leBytes 2 1 ++ leBytes 2 1 ++ [1, 0] ++ [255, 0] ++ leBytes 8 0x2000 ++ leBytes 4 256)

theorem witness_flowStage :
    let c := chainOf 3 1 0 [stageOf flowDesc (.running 0) false]
    let s := withChains (mapped []) [c]
    s.stageAt 0 c 0 (stageOf flowDesc (.running 0) false)
    ∧ ((rangeFrom 0 1).mapM (s.readLevel 0 0x1000 1 1)).toOption = some [[[0]]] ∧ s.accessOk 0 0x2000 8 true = true
    ∧ ((flowField (fun _ => [[0]]) (fun _ => [[0]]) 8 1 1 1 fun _ _ => (0, 0)).getD 0 [])[0]?.isSome = true
    ∧ leAt flowDesc 0x36 1 = 255
    ∧ occluded [[{ x := 0, y := 0, c1 := 0, c2 := 9 }]] 8 0 0 32 { x := 64, y := 0, c1 := 0, c2 := 9 } = true := by decide +kernel

/-- No record has the confidence 255: with that threshold every block is marked, with 0 none. -/
theorem witness_flowConfidence (r : FlowResult) : r.confidence < 255 := by
  unfold FlowResult.confidence
  rw [Nat.div_lt_iff_lt_mul (by omega)]
  omega

/-! ### Display pipes and outputs (chapter 9) -/

/-- Pipe 0 runs, on the tiny timing of the slice race. -/
def scanning (regs : List (Reg × List Nat × Word)) (x : DspPipe → DspPipe) : State :=
  let s := racing ([(R.DSP_STATUS, [0], 3), (R.DSP_CTRL, [0], 2), (R.DSP_IRQ_EN, [0], 0xF)] ++ regs) (out5 [])
  s.setPipe 0 (x (s.pipe 0))

/-- Pipe P4, which feeds no output, with a valid timing in its shadow registers. -/
def programmed (regs : List (Reg × List Nat × Word)) : State :=
  upWith ([(R.DSP_TIMING_H, [4], 0x80040), (R.DSP_TIMING_H2, [4], 0x80008), (R.DSP_TIMING_V, [4], 0x10080), (R.DSP_TIMING_V2, [4], 0x10001),
    (R.DSP_PCLK, [4], 25000000)] ++ regs)

theorem witness_commitArm : let s := programmed []
    let v := scanning [] fun x => { x with linePassed := true }
    s.commitCode 4 (s.shadowList 4) = 0 ∧ s.pipeRuns 4 = false ∧ ((after (.commitArm 4 0x2000) s).pipe 4).applied = s.shadowList 4
    ∧ up.commitCode 1 (up.shadowList 1) ≠ 0 ∧ (after (.commitArm 1 0) up).rd R.DSP_CNT_REFUSED [1] = 1
    ∧ v.pipeRuns 0 = true ∧ (after (.commitArm 0 5) v).bit R.DSP_COMMIT [0] 18 = true
    ∧ (after (.commitArm 0 5) v).fld R.DSP_COMMIT [0] 11 0 = 5 := by decide +kernel

theorem witness_commitLine : let s := programmed [(R.DSP_STATUS, [4], 1), (R.DSP_COMMIT, [4], 0x20000)]
    let v := upWith [(R.DSP_STATUS, [0], 1), (R.DSP_COMMIT, [0], 0x20000)]
    s.commitCode 4 (s.shadowList 4) = 0 ∧ ((after (.commitLine 4) s).pipe 4).latched = some (s.shadowList 4)
    ∧ v.commitCode 0 (v.shadowList 0) = 1 ∧ (after (.commitLine 0) v).fld R.DSP_COMMIT [0] 23 20 = 1
    ∧ ((after (.commitLine 0) (upWith [(R.DSP_STATUS, [0], 1)])).pipe 0).linePassed = true
    ∧ ((after (.dspDeclare 0 0xF) up).pipe 0).declared = 7 := by decide +kernel

theorem witness_soaArrival : let s := scanning [] fun x => { x with nextFrame := 6, latched := some x.applied }
    let v := scanning [] fun x => { x with stopAtEnd := true }
    (after (.soaArrival 0) s).rd R.DSP_FRAME [0] = 6 ∧ (after (.soaArrival 0) s).rd R.SYN_FRAME [0] = 6 ∧ s.outputOf 0 = some 0
    ∧ ((after (.soaArrival 0) s).pipe 0).latched.isNone = true ∧ (after (.soaArrival 0) v).pipeRuns 0 = false ∧ up.pipeRuns 0 = false
    ∧ s.follows 0 = false ∧ s.followersOf 0 = [] ∧ (s.pipe 0).relock = false ∧ (s.pipe 0).genFailed = false ∧ (s.pipe 0).stopAtEnd = false
    ∧ (v.pipe 0).stopAtEnd = true ∧ v.bit R.DSP_COMMIT [0] 17 = false ∧ ((after (.soaArrival 0) v).pipe 0).needCommit = true := by decide +kernel

theorem witness_soaFollows :
    let s := scanning [(R.DSP_MAP, [1], 0x80), (R.DSP_STATUS, [1], 3), (R.DSP_CTRL, [1], 2)] fun x => { x with nextFrame := 6 }
    let t := after (.soaArrival 0) s
    s.follows 0 = false ∧ s.followersOf 0 = [1] ∧ s.follows 1 = true ∧ s.pipeRuns 0 = true ∧ s.pipeRuns 1 = true
    ∧ (s.pipe 1).relock = false ∧ (s.pipe 1).genFailed = false ∧ (s.pipe 1).stopAtEnd = false
    ∧ t.rd R.DSP_FRAME [0] = 6 ∧ t.rd R.DSP_FRAME [1] = (s.pipe 1).nextFrame
    ∧ (after (.soaArrival 1) s).rd R.DSP_FRAME [0] = s.rd R.DSP_FRAME [0] := by decide +kernel

theorem witness_vblankStart : let s := scanning [(R.DSP_LINE_MATCH, [0], 9)] id
    (after (.vblankStart 0) s).fld R.DSP_STATUS [0] 19 8 = 16 ∧ (after (.vblankStart 0) s).rd R.DSP_IRQ_STATUS [0] = 1
    ∧ (after (.lineMatch 0) s).fld R.DSP_STATUS [0] 19 8 = 9 ∧ (after (.lineMatch 0) s).rd R.DSP_IRQ_STATUS [0] = 2
    ∧ (after (.lineUnderrun 0 3 0) s).rd R.DSP_CNT_UNDERRUN [0] = 1
    ∧ ((after (.lineUnderrun 0 3 0) s).pipe 0).underruns = [(3, 0)] ∧ (after (.ltolReport 0 0 (Vector.replicate 8 0)) up).rd R.DSP_LTOL [0] = 0xFFFF := by
  decide +kernel

theorem witness_frameActiveEnd :
    let s := scanning [(R.DSP_FRAME, [0], 5), (R.SYN_ORING_LO, [0], 0x8000), (R.SYN_ORING_SIZE, [0], 4)] fun x => { x with began := true }
    let t := after (.frameActiveEnd 0) s
    s.frameRec 0 5 = some frame5 ∧ s.accessOk (s.synCtx 0) 0x8000 32 true = true ∧ t.le 0x8000 4 = 5 ∧ t.le 0x8004 1 = 16
    ∧ t.rd R.SYN_ORING_WR [0] = 1 ∧ (t.pipe 0).prevOut.isSome = true := by decide +kernel

theorem witness_freeze : let key := (regAddr R.DSP_FRZ_CFG [0] - 0x100000, 0x101)
    let s := (scanning [] fun x => { x with began := true, declNow := 1, applied := x.applied ++ [key] }).withSyn up.syn
    let s := s.poke R.SYN_STATUS [0] 0
    let t := after (.frameActiveEnd 0) s
    bits (s.applied 0 R.DSP_FRZ_CFG []) 8 8 = 1 ∧ (s.pipe 0).prevOut ≠ some (s.outSignature 0) ∧ t.windowDeclared 0 = true
    ∧ (t.pipe 0).prevOut = some (t.outSignature 0) ∧ (after (.frameActiveEnd 0) t).rd R.DSP_CNT_FREEZE [0] = 1 := by decide +kernel

theorem witness_pipeFail : let s := scanning [(R.DSP_MAP, [0], 0xC)] id
    let t := after (.pipeFail 0 .timing) s
    let u := t.setPipe 4 { t.pipe 4 with relock := false }
    Domain.pipe 0 ∉ s.pwr.gated ∧ t.bit R.DSP_STATUS [0] 2 = true ∧ t.pipeRuns 0 = false ∧ t.dsp.takeover = some (0, 0)
    ∧ (t.pipe 4).applied = (s.pipe 0).applied ∧ (after .takeoverSwitch t).dsp.takeover = some (0, 0)
    ∧ (after .takeoverSwitch u).dsp.replacing = some 0 ∧ 0 ∈ u.outputsFed 0
    ∧ (vecGet (after .takeoverSwitch u).dsp.outs 0 EdpOut.reset).p4 = true
    ∧ (after (.takeoverSwitch) (u.poke R.DSP_STATUS [4] 4)).dsp.takeover = some (0, 0)
    ∧ (after (.pclkRelock 4) t).bit R.DSP_STATUS [4] 1 = true := by decide +kernel

/-- A panel with no readable EDID block, two lanes at rate 3. -/
def sink0 : SinkAnswer := { edid := [], dpcd := some (3, 1, true) }

/-- Output 0 in training with it. -/
def training : State := after (.train 0 0x34 (some sink0)) up

theorem witness_train : training.bit R.EDP_STATUS [0] 12 = true ∧ training.bit R.EDP_STATUS [0] 0 = true
    ∧ (after (.train 0 1 none) up).bit R.EDP_STATUS [0] 0 = false
    ∧ (after (.hpdWaitTimeout 0) (after (.train 0 1 none) up)).fld R.EDP_STATUS [0] 11 8 = 1
    ∧ (after (.train 0 1 none) training).rd R.EDP_CTRL [0] = 1 ∧ training.bit R.EDP_STATUS [0] 1 = false
    ∧ (after (.train 0 1 none) (upWith [(R.EDP_STATUS, [0], 1)])).rd R.EDP_STATUS [0] = 0x1001 := by decide +kernel

theorem witness_trainEnd : let t := after (.trainEnd 0 []) training
    let tries := trainingTries (min (training.fld R.EDP_CTRL [0] 5 4) (min 1 2)) (min (training.fld R.EDP_CTRL [0] 7 6) 3)
    tries = [(1, 0), (0, 0)] ∧ linkCarries (training.timing (training.sourceOf 0)) 1 0 = true ∧ t.bit R.EDP_STATUS [0] 1 = true ∧ t.fld R.EDP_STATUS [0] 3 2 = 1
    ∧ (after (.trainEnd 0 [false, false]) training).fld R.EDP_STATUS [0] 11 8 = 3
    ∧ (after (.trainEnd 0 [true, true]) training).fld R.EDP_STATUS [0] 11 8 = 4
    ∧ (let v := after (.train 0 1 (some { sink0 with dpcd := none })) up
       (after (.trainEnd 0 []) v).fld R.EDP_STATUS [0] 11 8 = 2)
    ∧ (let v := (training.setPipe 0 { training.pipe 0 with applied := [(regAddr R.DSP_PCLK [0] - 0x100000, 0x3FFFFFFF)] })
       linkCarries (v.timing 0) 1 0 = false ∧ (after (.trainEnd 0 []) v).fld R.EDP_STATUS [0] 11 8 = 5) := by decide +kernel

theorem witness_irqHpd : let s := upWith [(R.EDP_STATUS, [0], 3), (R.EDP_CTRL, [0], 8)]
    (after (.irqHpd 0 false sink0) s).rd R.EDP_CNT_RETRAIN [0] = 1 ∧ (after (.irqHpd 0 false sink0) s).bit R.EDP_STATUS [0] 12 = true
    ∧ (after (.hpdLoss 0) s).rd R.EDP_STATUS [0] = 0 ∧ up.bit R.EDP_STATUS [0] 0 = false := by decide +kernel

/-- An AUX transaction that has been sent. -/
def talking (op tries : Nat) : State := up.setEdp 0 { EdpOut.reset with aux := some { op := op, addr := 0x100, len := 2, tries := tries, sent := true } }

theorem witness_aux : let s := upWith [(R.EDP_AUX_ADDR, [0], 0x100)]
    let i := upWith [(R.EDP_AUX_ADDR, [0], 0x50)]
    let st (c : Instr) (u : State) : Word := (after c u).rd R.EDP_AUX_STATUS [0]
    st (.auxDpcdRead 0 1) s = 1 ∧ st (.auxDpcdWrite 0 1) s = 1 ∧ st (.auxDpcdWrite 0 1) i = 8 ∧ st (.auxI2cRead 0 1) i = 1
    ∧ st (.auxI2cSegmentWrite 0 1) i = 8 ∧ dpcdWriteAllowed 0x100 2 = true
    ∧ (after (.auxDpcdRead 0 1) (talking 1 0)).rd R.EDP_AUX_STATUS [0] = 0
    ∧ (after (.auxReply 0 .ack [7, 8]) (talking 0 0)).rd R.EDP_AUX_DATA [0, 0] = 0x807 ∧ st (.auxReply 0 .nack []) (talking 0 0) = 2
    ∧ ((after (.auxTimeout 0) (talking 0 0)).edp 0).aux.map (·.tries) = some 1 ∧ st (.auxTimeout 0) (talking 0 3) = 6 := by decide +kernel

/-! ### Capture (chapter 10) -/

/-- Receiver 0 and streams 0 and 1 of context 0, on virtual channels 0 and 1, of RAW12 frames of 2 pixels and 1 line, with two buffers
at 0x1000 and 0x2000 and their records at 0x3000 and 0x4000. -/
def filming (route0 route1 : Word) (regs : List (Reg × List Nat × Word)) : State :=
  mapped ([(R.CAP_RX_CTRL, [0], 1), (R.CAP_V_ROUTE, [0], route0), (R.CAP_V_ROUTE, [1], route1), (R.CAP_V_CTRL, [0], 3), (R.CAP_V_CTRL, [1], 3),
    (R.CAP_V_SIZE, [0], 0x10002), (R.CAP_V_SIZE, [1], 0x10002), (R.CAP_V_BASE_LO, [0], 0x1000), (R.CAP_V_BASE_LO, [1], 0x2000),
    (R.CAP_V_STRIDE, [0], 0x100), (R.CAP_V_STRIDE, [1], 0x100), (R.CAP_V_REC_LO, [0], 0x3000), (R.CAP_V_REC_LO, [1], 0x4000)] ++ regs)

/-- One stream, and a pair. -/
def film (regs : List (Reg × List Nat × Word)) : State := filming 0x00040B00 0 regs
def films (regs : List (Reg × List Nat × Word)) : State := filming 0x008C0B00 0x00840B04 regs

/-- A frame that has come whole to a buffer. -/
def whole (i : Nat) : CapFrame :=
  { buffer := i, start := 0, lines := 1, long := false, short := false, crc := false, header := false, corrected := 0 }

/-- A stream in such a frame. -/
def inFrame (n : Nat) (f : CapFrame) (s : State) : State :=
  (s.setVid n { s.vid n with frame := some f }).setBuf n f.buffer 1

theorem witness_receiver : let s := film []
    s.receives 0 ∧ s.vidsOf 0 2 = [] ∧ up.bit R.CAP_RX_CTRL [0] 0 = false
    ∧ (after (.csiFrameStart 0 2 true) s).rd R.CAP_RX_CNT_UNROUTED [0] = 1 ∧ (after (.csiFrameStart 0 2 true) s).rd R.CAP_RX_CNT_ECC [0] = 1
    ∧ s.takers 0 0 .raw8 = [] ∧ s.takers 0 0 (.other 0x12) = []
    ∧ (after (.csiLongPacket 0 0 .raw8 false true []) s).rd R.CAP_RX_CNT_UNROUTED [0] = 1
    ∧ (after (.csiLongPacket 0 0 (.other 0x12) false true []) s).rd R.CAP_RX_CNT_UNROUTED [0] = 1
    ∧ (let v := inFrame 0 (whole 1) s
       let line := after (.csiLongPacket 0 0 .lineStart true true []) v
       v.vidsOf 0 0 = [0] ∧ line.rd R.CAP_RX_CNT_ECC [0] = 1 ∧ line.rd R.CAP_RX_CNT_UNROUTED [0] = 0
       ∧ (line.vid 0).frame = some { whole 1 with corrected := 1 } ∧ 0 ∈ v.vidsOn 0 ∧ (after (.csiHeaderError 0) v).rd R.CAP_RX_CNT_HDR [0] = 1 ∧ (after (.lineBufferOverrun 0) v).rd R.CAP_RX_CNT_OVR [0] = 1
       ∧ ((after (.csiHeaderError 0) v).vid 0).frame = some { whole 1 with header := true }) := by decide +kernel

theorem witness_csiFrameStart : let s := film []
    let v := film [(R.CAP_V_STATE, [0], 0xA)]
    let t := after (.csiFrameStart 0 0 true) s
    s.vidsOf 0 0 = [0] ∧ s.partner 0 = none ∧ (s.vid 0).frame = none ∧ s.freeBuffer 0 = some 0 ∧ t.bufState 0 0 = 1
    ∧ (t.vid 0).frame = some { whole 0 with lines := 0, corrected := 1 } ∧ v.freeBuffer 0 = none
    ∧ (after (.csiFrameStart 0 0 false) v).rd R.CAP_V_CNT_DROP [0] = 1 := by decide +kernel

theorem witness_csiFrameEarly : let s := inFrame 0 { whole 0 with lines := 0, start := 5 } (film [(R.CAP_V_FRAMES, [0], 7)])
    let t := after (.csiFrameStart 0 0 false) s
    let u := after (.captureFrameTimeout 0) s
    s.recordFits 0 0 ∧ t.le 0x3000 4 = 7 ∧ t.le 0x3004 1 = 1 ∧ t.le 0x3008 8 = 5 ∧ t.rd R.CAP_V_CNT_BAD [0] = 1 ∧ t.rd R.CAP_V_FRAMES [0] = 8
    ∧ s.rd R.CAP_V_TMO [0] ≠ 0 ∧ u.le 0x3004 1 = 1 ∧ u.bufState 0 0 = 0 ∧ (u.vid 0).frame = none ∧ (up.vid 0).frame = none := by decide +kernel

theorem witness_pairStart : let s := films []
    let t := after (.csiFrameStart 0 0 false) s
    let u := after (.csiFrameStart 0 1 false) t
    let v := films [(R.CAP_V_STATE, [1], 0xA)]
    s.vidsOf 0 0 = [0] ∧ s.vidsOf 0 1 = [1] ∧ s.partner 0 = some 1 ∧ s.partner 1 = some 0 ∧ s.freeBuffer (min 0 1) = some 0
    ∧ (s.vid 1).common = none ∧ t.bufState 0 0 = 1 ∧ t.bufState 1 0 = 1 ∧ (t.vid 1).common = some 0 ∧ (t.vid 1).frame = none
    ∧ (u.vid 1).frame.map (·.buffer) = some 0 ∧ v.bufState 1 0 = 2 ∧ (after (.csiFrameStart 0 0 false) v).rd R.CAP_V_CNT_DROP [0] = 1
    ∧ ((after (.csiFrameStart 0 0 false) v).vid 1).common = some 8
    ∧ (after (.csiFrameStart 0 1 false) (after (.csiFrameStart 0 0 false) v)).rd R.CAP_V_CNT_DROP [1] = 1 := by decide +kernel

theorem witness_csiLongPacket : let s := inFrame 0 { whole 1 with lines := 0 } (film [])
    let t := after (.csiLongPacket 0 0 .raw12 false false [0xFABC]) s
    let u := after (.csiLongPacket 0 0 .raw12 false true [1, 2, 3]) t
    s.takers 0 0 .raw12 = [0] ∧ s.accessOk 0 0x1100 4 true = true
    ∧ t.le 0x1100 4 = 0xABC ∧ t.rd R.CAP_RX_CNT_CRC [0] = 1 ∧ (t.vid 0).frame = some { whole 1 with short := true, crc := true }
    ∧ u.le 0x1100 4 = 0xABC ∧ (u.vid 0).frame = some { whole 1 with lines := 2, short := true, crc := true, long := true } := by decide +kernel

theorem witness_csiFrameEnd : let s := inFrame 0 (whole 1) (film [])
    let t := after (.csiFrameEnd 0 0 false) s
    let v := after (.csiFrameEnd 0 0 true) (inFrame 0 { whole 1 with crc := true } (film []))
    s.openFrame 0 false = some (whole 1) ∧ s.frameStatus 0 (whole 1) false = 0 ∧ s.recordFits 0 1 ∧ s.bit R.CAP_V_CTRL [0] 2 = false
    ∧ t.bufState 0 1 = 2 ∧ t.le 0x3026 2 = 1 ∧ t.rd R.CAP_V_FRAMES [0] = 1 ∧ v.le 0x3024 1 = 3 ∧ v.le 0x3038 4 = 1 ∧ v.bufState 0 1 = 0
    ∧ v.rd R.CAP_V_CNT_BAD [0] = 1 := by decide +kernel

theorem witness_trigger : let s := inFrame 0 (whole 1) (film [(R.CAP_V_CTRL, [0], 7)])
    let v := withChains s (List.replicate 256 (chainOf 0 0 0 []))
    let t := after (.csiFrameEnd 0 0 false) s
    let u := after (.csiFrameEnd 0 0 false) v
    s.flagsFit 0 1 ∧ s.visFull = false ∧ t.le 0x3025 1 = 1 ∧ t.rd R.CAP_V_FRAMES [0] = 1 ∧ v.visFull = true ∧ u.le 0x3025 1 = 2
    ∧ u.rd R.CAP_V_CNT_TRIGFAIL [0] = 1 ∧ u.bufState 0 1 = 0 := by decide +kernel

theorem witness_pairEnd : let s := inFrame 1 (whole 1) (inFrame 0 (whole 1) (films [(R.CAP_V_CTRL, [0], 7)]))
    let t := after (.csiFrameEnd 0 0 false) s
    let u := after (.csiFrameEnd 0 1 false) t
    let bad := after (.csiFrameEnd 0 1 false) (t.setVid 1 { t.vid 1 with frame := some { whole 1 with start := 500001 } })
    s.vidOn 1 = true ∧ (s.vid 1).pair = none ∧ (s.vid 1).frame.map (·.buffer) = some 1 ∧ s.recordFits 0 1 ∧ s.flagsFit 1 1
    ∧ (t.vid 0).pair = some { buffer := 1, start := 0, good := true } ∧ t.bufState 0 1 = 2 ∧ t.visFull = false
    ∧ u.le 0x3025 1 = 1 ∧ u.le 0x4025 1 = 1 ∧ bad.rd R.CAP_V_CNT_PAIRFAIL [0] = 1 ∧ bad.bufState 0 1 = 0 ∧ bad.bufState 1 1 = 0
    ∧ bad.le 0x3025 1 = 4 ∧ bad.le 0x4025 1 = 4
    ∧ (let off := after (.captureDisable 1 0) (t.setVid 1 { t.vid 1 with frame := none })
       t.flagsFit 0 1 ∧ t.flagsFit 1 1 ∧ off.rd R.CAP_V_CNT_PAIRFAIL [0] = 1 ∧ (off.vid 0).pair = none ∧ off.le 0x3025 1 = 4
       ∧ off.le 0x4025 1 = 4) := by decide +kernel

theorem witness_captureRelease : let s := film [(R.CAP_V_STATE, [0], 0x2E)]
    (after (.captureRelease 0 6) s).rd R.CAP_V_STATE [0] = 0xE ∧ (after (.captureDisable 0 0xF) s).rd R.CAP_V_STATE [0] = 0xC
    ∧ (after (.captureDisable 0 0xF) s).rd R.CAP_V_CTRL [0] = 0xE ∧ up.bit R.CAP_V_CTRL [0] 0 = false
    ∧ (after (.captureDisable 0 2) up).rd R.CAP_V_CTRL [0] = 2
    ∧ (let v := inFrame 0 (whole 0) s
       v.recordFits 0 0 ∧ (after (.captureDisable 0 0) v).le 0x3004 1 = 5 ∧ (after (.captureDisable 0 0) v).rd R.CAP_V_STATE [0] = 0xC) := by
  decide +kernel

/-- Port 0, of two slots of 16 bits, and stream 0 of its channel 1, in periods of two frames and a ring of two at 0x1000. -/
def listening (regs : List (Reg × List Nat × Word)) : State :=
  mapped ([(R.CAP_AP_CFG, [0], 3), (R.CAP_A_ROUTE, [0], 0x20002), (R.CAP_A_CTRL, [0], 1), (R.CAP_A_PERIOD, [0], 2), (R.CAP_A_RING_LO, [0], 0x1000)] ++ regs)

theorem witness_tdmFrame : let s := listening [(R.CAP_A_WR, [0], 3), (R.CAP_A_RD, [0], 2)]
    let t := after (.tdmFrame 0 [1, 0x10234]) s
    let u := after (.tdmFrame 0 [1, 0x5678]) t
    s.audsOf 0 = [0] ∧ (t.aud 0).samples = [0x34, 0x02] ∧ t.bit R.CAP_AP_STATUS [0] 0 = true
    ∧ t.accessOk 0 0x1100 20 true = true ∧ u.rd R.CAP_A_WR [0] = 4 ∧ u.le 0x1100 4 = 3 ∧ u.le 0x1104 4 = 0x20100 ∧ u.le 0x1110 4 = 0x56780234
    ∧ (after (.tdmFrame 0 [1, 1]) (t.poke R.CAP_A_RD [0] 1)).rd R.CAP_A_CNT_GAP [0] = 1
    ∧ ((after (.tdmFrame 0 [1, 1]) (t.poke R.CAP_A_RD [0] 1)).aud 0).gap = true := by decide +kernel

theorem witness_tdmPort : let s := listening []
    let t := after (.tdmFsLost 0) s
    let u := after (.tdmFrame 0 [1, 2]) t
    s.bit R.CAP_AP_STATUS [0] 1 = false ∧ t.bit R.CAP_AP_STATUS [0] 1 = true ∧ (u.tdm 0).good = 1 ∧ u.bit R.CAP_AP_STATUS [0] 1 = true
    ∧ (after (.tdmFrame 0 [1, 2]) u).bit R.CAP_AP_STATUS [0] 1 = false ∧ ((after (.tdmFrame 0 [1, 2]) u).aud 0).gap = true
    ∧ (after (.tdmResync 0) s).rd R.CAP_AP_CNT_RESYNC [0] = 1 ∧ ((after (.tdmResync 0) s).aud 0).resync = true
    ∧ (after (.audioRdWrite 0 5) s).rd R.CAP_A_RD [0] = 0 ∧ (after (.audioRdWrite 0 0xFFFFFFFE) s).rd R.CAP_A_RD [0] = 0xFFFFFFFE
    ∧ up.bit R.CAP_AP_CFG [0] 0 = false := by decide +kernel

theorem witness_fsync : let s := (upWith [(R.CAP_FS_PERIOD, [0], 100000), (R.CAP_FS_WIDTH, [0], 100), (R.CAP_FS_START_LO, [0], 7)])
    let v := s.withTim { s.tim with base := 100008 * 2 ^ 32 }
    let t := after (.fsyncEnable 0 3) s
    t.rd R.CAP_FS_CTRL [0] = 3 ∧ (t.fs 0).running = true ∧ t.fsNext 0 = 7 ∧ v.now = 100008 ∧ (after (.fsyncEnable 0 1) v).fsNext 0 = 200007
    ∧ (after (.fsyncEdge 0) t).fsNext 0 = 100007 ∧ ((after (.fsyncEdge 0) t).fs 0).pulses = 1 ∧ (after (.fsyncEnable 0 1) t).rd R.CAP_FS_CTRL [0] = 1
    ∧ ((after (.fsyncEnable 1 1) s).fs 1).running = false := by decide +kernel

theorem witness_i2c : let s := upWith [(R.I2C_DATA, [0, 0], 0x1234)]
    let t := after (.i2cCommand 0 0x80020250) s
    let v := s.poke R.BRG_QZI_STATUS [] 4
    t.rd R.I2C_STATUS [0] = 1 ∧ vecGet t.cap.i2c 0 none = some { addr := 0x50, wlen := 2, rlen := 2, data := [0x34, 0x12] }
    ∧ (after (.i2cCommand 0 1) t).rd R.I2C_CMD [0] = 1 ∧ (after (.i2cCommand 0 0x80020250) v).rd R.I2C_STATUS [0] = 10
    ∧ (after (.i2cCommand 0 0x80020250) v).rd R.I2C_CNT_REFUSED [0] = 1
    ∧ (after (.i2cCommandEnd 0 0 [9, 8, 7]) t).rd R.I2C_DATA [0, 0] = 0x0809 ∧ (after (.i2cCommandEnd 0 3 []) t).rd R.I2C_STATUS [0] = 6
    ∧ (after (.i2cCommandEnd 0 3 []) t).rd R.I2C_CNT_ERR [0] = 1 ∧ vecGet up.cap.i2c 0 none = none := by decide +kernel

/-! ### Scheduling (chapter 11) -/

theorem witness_queueEnable :
    let s := ((dispatching [(R.SCH_CTX_QTAB_LO, [0], 0x10000)] []).withSch up.sch).store 0x10000 (leBytes 8 0x1000 ++ leBytes 8 0x2000 ++ [4, 2, 1])
    let bs := s.bytes 0x10000 32
    bits 0x100 9 8 = 1 ∧ s.ctxValid 0 = true ∧ s.ctxDown 0 = false ∧ s.queue 0 = none ∧ qdescGood bs = true
    ∧ s.regionOk 0 0x1000 1024 false = true ∧ s.regionOk 0 0x2000 512 true = true ∧ s.prioAllowed 0 2 = true
    ∧ (after (.queueEnable 0 0x100) s).queue 0 = some { queue0 with desc := { queue0.desc with maxInflight := 1 } }
    ∧ (after (.queueEnable 0 0x100) (after (.queueEnable 0 0x100) s)).rd R.SCH_CTX_QERR [0] = 0x400
    ∧ (after (.queueDisable 0 0x200) (after (.queueEnable 0 0x100) s)).queue 0 = none ∧ bits 0x200 9 8 = 2
    ∧ (let v := (busyWith []).withSch { (busyWith []).sch with queues := [{ queue0 with rung := [entryOf 6 0] }] }
       ((after (.queueDisable 0 0x200) v).queue 0).map (fun y => (y.disabling, y.rung.length)) = some (true, 0)) := by decide +kernel

theorem witness_doorbell : let s := dispatching [] []
    s.partResetting (s.ctxPart 0) = false ∧ s.ctxDown 0 = false ∧ s.queue 0 = some queue0 ∧ after32 3 queue0.pLast = true
    ∧ (3 - queue0.posted).toNat ≤ queue0.desc.size ∧ ((after (.doorbell 0 3) s).queue 0).map (·.rung.length) = some 3
    ∧ s.queue 1 = none ∧ (after (.doorbell 1 3) s).rd R.SCH_CTX_CNT_DBREJ [0] = 1 := by decide +kernel

theorem witness_cqDoorbell : let x := { queue0 with desc := { queue0.desc with cqOnly := true } }
    let s := up.withSch { up.sch with queues := [x] }
    s.ctxDown 0 = false ∧ s.queue 0 = some x ∧ (after (.cqConsumerDoorbell 0 3) s).queue 0 = some { x with consumer := 3 } := by decide +kernel

theorem witness_entryTask : let s := dispatching [] [entryOf 1 0]
    s.headReady 0 1 { queue0 with rung := [entryOf 1 0] } (entryOf 1 0) ∧ (after (.entryTask 0) s).sch.tasks.length = 1 := by decide +kernel

theorem witness_entryMarker : let s := dispatching [] [entryOf 6 0]
    s.headReady 0 6 { queue0 with rung := [entryOf 6 0] } (entryOf 6 0) ∧ s.inTurn { queue0 with rung := [entryOf 6 0] } 0
    ∧ (after (.entryMarker 0) s).bytes 0x2004 8 = [9, 0, 0, 0, 0, 1, 0, 0] := by decide +kernel

theorem witness_dependencyCancel : let e := { entryOf 6 0 with deps := [(5, 0)] }
    let s := dispatching [] [e]
    s.depState (5, 0) = .failed ∧ s.inTurn { queue0 with rung := [e] } 0 ∧ s.notOfSyn 0 0
    ∧ (after (.dependencyCancel 0) s).byte 0x2008 = 1 := by
  refine ⟨by decide +kernel, by decide +kernel, ?_, by decide +kernel⟩
  intro o ho w hw
  have h : ∀ o, o < 4 → ((dispatching [] [{ entryOf 6 0 with deps := [(5, 0)] }]).out o).work = none := by decide +kernel
  rw [h o ho] at hw
  cases hw

theorem witness_coolBoxLoad :
    let s := (dispatching [(R.CLC_CBSHARE, [0, 0, 0], 0x100)] [entryOf 2 0x4000]).store 0x4000 (leBytes 4 0x10007 ++ leBytes 4 1 ++ leBytes 8 0x4100)
    let s := s.store 0x4100 (leBytes 8 0x8000 ++ leBytes 4 64)
    let m := { model7 with resident := false }
    s.headReady 0 2 { queue0 with rung := [entryOf 2 0x4000] } (entryOf 2 0x4000)
    ∧ (s.readLoadRecord 0 0x4000).toOption = some (m, true) ∧ s.model 0 7 = none ∧ s.coolExceeds m = false
    ∧ (s.sourcesReadable m).toOption = some () ∧ s.coolFits m = true
    ∧ (after (.coolBoxLoad 0) s).sch.models.map (·.pinned) = [true] := by decide +kernel

theorem witness_coolBoxLoadEnd : let m := { model7 with resident := false, loading := some (0, entryOf 2 0x4000) }
    let s := dispatching [] []
    let s := s.withSch { s.sch with models := [m] }
    s.model 0 7 = some m ∧ s.inTurn queue0 0 ∧ (after (.coolBoxLoadEnd 0 7) s).sch.models.map (·.resident) = [true]
    ∧ (after (.coolBoxLoadEnd 0 7) s).byte 0x2004 = 9 := by decide +kernel

/-- Cluster 0 holds a segment of four bytes, wherever in its share it is placed (a free value), away from the record's place. -/
theorem witness_segmentCopied :
    let m := { model7 with resident := false, loading := some (0, entryOf 2 0x4000), segments := [(0x8000, 4, 0)] }
    let s := dispatching [(R.CLC_CBSHARE, [0, 0, 0], 0x100)] []
    s.clusters.contains 0 = true ∧ 4 ≤ (s.boxShare 0 0).2 ∧ s.writeError (s.segmentPlace m 0 4 0) 4 = none
    ∧ 0x2020 ≤ s.segmentPlace m 0 4 0 := by
  have h : 0x2020 ≤ ((dispatching [(R.CLC_CBSHARE, [0, 0, 0], 0x100)] []).boxShare 0 0).1 := by decide +kernel
  refine ⟨by decide +kernel, by decide +kernel, rfl, ?_⟩
  exact Nat.le_trans h (Nat.le_add_right _ _)

/-- A request of queue 0 for a handle, with model 7 in the cool box. -/
def asking (op h : Nat) : State :=
  let s := dispatching [] [entryOf op h]
  s.withSch { s.sch with models := [model7] }

/-- Queue 0 with such a request. -/
def holding (op : Nat) : Queue := { queue0 with rung := [entryOf op 7] }

theorem witness_coolBoxRequests :
    (asking 3 7).headReady 0 3 (holding 3) (entryOf 3 7) ∧ (asking 3 7).inTurn (holding 3) 0 ∧ (asking 3 7).model 0 7 = some model7
    ∧ (after (.coolBoxPin 0) (asking 3 7)).sch.models.map (·.pinned) = [true]
    ∧ (asking 4 7).headReady 0 4 (holding 4) (entryOf 4 7) ∧ (asking 4 7).outputNames model7 = false
    ∧ (after (.coolBoxUnpin 0) (asking 4 7)).byte 0x2004 = 9
    ∧ (asking 5 7).headReady 0 5 (holding 5) (entryOf 5 7) ∧ (asking 5 7).modelInUse model7 = false ∧ (after (.coolBoxDrop 0) (asking 5 7)).sch.models = []
    ∧ (asking 5 8).headReady 0 5 { queue0 with rung := [entryOf 5 8] } (entryOf 5 8) ∧ (asking 5 8).model 0 8 = none
    ∧ (after (.coolBoxDrop 0) (asking 5 8)).byte 0x2008 = 0x10 := by decide +kernel

theorem witness_modelReloadEnd : let m := { model7 with resident := false, reloading := true }
    let s := up.withSch { up.sch with models := [m] }
    s.model 0 7 = some m ∧ (after (.modelReloadEnd 0 7) s).sch.models = [{ model7 with lastUse := 1 }] := by decide +kernel

/-- Two tasks of queue 0, in slots 0 and 1 of core 0; slot 0 runs. -/
def twoSlots (regs : List (Reg × List Nat × Word)) : State :=
  let s := busyWith regs
  s.withSch { s.sch with slots := [slot0, { slot0 with idx := 1, seq := 1 }], tasks := [task0, { task0 with entry := { task0.entry with seq := 1 } }] }

/-- The other slot, and one that is restored, are owed nothing. -/
theorem witness_quietUnits : ({ slot0 with idx := 1, seq := 1 } : Slot).quietUnits ∧ ¬({ slot0 with phase := .restoring } : Slot).owesBox := by
  constructor
  · exact ⟨by decide +kernel, by simp [Slot.owesBox, slot0]⟩
  · simp [Slot.owesBox, slot0]

theorem witness_slotSwitch : let s := twoSlots [(R.CORE_STATUS, [0, 0, 0], 0)]
    s.numbered ∧ s.physOf 0 < 17 ∧ s.chooseSlot (coreId core0) = some { slot0 with idx := 1, seq := 1 }
    ∧ s.slotAt 0 1 = some { slot0 with idx := 1, seq := 1 }
    ∧ (after (.slotSwitch core0) s).coreRuns 0 = some 1 ∧ up.chooseSlot (coreId core0) = none
    ∧ (after (.slotSwitch core0) (upWith [(R.CORE_STATUS, [0, 0, 0], 4)])).coreRuns 0 = none := by decide +kernel

theorem witness_quantumExpiry : let s := twoSlots [(R.SCH_QUANTUM, [], 100)]
    s.coreRuns (coreId core0) = some 0 ∧ s.slotAt 0 0 = some slot0 ∧ s.slotTask slot0 = some task0
    ∧ (leastBy (fun x : Slot => [(x.idx + 3 - 0) % 4]) ((s.rotation 0 task0).filter fun x => x.idx != 0)) = some { slot0 with idx := 1, seq := 1 }
    ∧ (after (.quantumExpiry core0) s).coreRuns 0 = some 1 ∧ s.fld R.SCH_QUANTUM [] 15 0 ≠ 0 ∧ s.isStatic 0 = false
    ∧ (twoSlots [(R.SCH_QUANTUM, [], 0)]).fld R.SCH_QUANTUM [] 15 0 = 0 := by decide +kernel

theorem witness_waitYield : let x := { slot0 with wait := some (.sem 0, 0) }
    let s := (twoSlots []).withSch { (twoSlots []).sch with slots := [x, { slot0 with idx := 1, seq := 1 }] }
    s.slotAt 0 0 = some x ∧ x.phase = .live ∧ x.wait.any (·.1.yields) = true ∧ (after (.waitYield name0) s).coreRuns 0 = some 1 := by decide +kernel

/-- A task that waits for a slot of core 0, its launch record at DEV 0x4000 with one group of 32 threads on one core. -/
def waiting : State :=
  let s := dispatching [(R.CORE_SLOT_MEM, [0, 0, 0, 0], 0x01000400), (R.CORE_SLOT_EXE, [0, 0, 0, 0], 0x80100400), (R.BRG_READY, [], 0x4E000)] []
  let k := { task0 with entry := entryOf 1 0x4000, started := false }
  (s.withSch { s.sch with tasks := [k], code := [{ site := 0, idx := 0, code := 0, size := 0, bytes := [] }] }).store 0x4000
    (zeros 0x10 ++ [1, 0, 0, 0, 1, 0, 1, 0, 32, 0] ++ zeros 6 ++ [1])

/-- A start that clears no words and merges no records. -/
def start0 : TaskStart := { words := [], records := [] }

theorem witness_taskDispatch : let s := waiting
    let k := { task0 with entry := entryOf 1 0x4000, started := false }
    let u := { k with launch := { decodeLaunch (s.bytes 0x4000 64) with param := 0 } }
    s.dispatchOn 0 = true ∧ s.isStatic 0 = false ∧ sortBy s.taskRank (s.sch.tasks.filter fun t => t.part == 0 && s.competes t) = [k]
    ∧ (s.prepare k).toOption = some u ∧ u.width = 1 ∧ u.entry.handle = 0 ∧ s.heldCount k = 0 ∧ s.freeSlotsFor u = [(0, 0)]
    ∧ s.slotFault 0 0 = false ∧ u.launch.reload = false ∧ ((after (.taskDispatch ⟨0, start0⟩) s).slotAt 0 0).map (·.phase) = some .live
    ∧ (s.sch.code.any fun h => h.site == s.siteAt 0 && h.idx == 0 && h.code == u.launch.code && h.size == u.launch.codeSize) = true
    ∧ (let r := (s.markStarted { u with awaitsModel := false }).takeSlots u.qid u.entry.seq (s.freeSlotsFor u)
       (r.startWrites u.ctx start0).toOption.isSome = true) := by decide +kernel

theorem witness_groupDispatch : let s := after (.taskDispatch ⟨0, start0⟩) waiting
    (s.task 0 0).map (fun u => (u.started, decide (u.nextGroup < u.launch.groups))) = some (true, true)
    ∧ ((s.task 0 0).bind (s.groupsReturned 0 0 []).groupSlot).isSome = true
    ∧ ((after (.groupDispatch ⟨0, 0⟩ []) s).slotAt 0 0).map (fun x => x.image.groups.map (·.index)) = some [0] := by decide +kernel

theorem witness_groupReturned :
    let x := { slot0 with image := { SlotImage.empty with groups := [{ index := 0, memBase := 0 }] } }
    let s := (busyWith []).withSch { (busyWith []).sch with slots := [x] }
    s.slotNamed name0 = some x ∧ task0.holds x.qid x.seq = true ∧ task0.launch.groupSize = 0 ∧ x.image.groups ≠ []
    ∧ task0.launch.groups ≤ task0.nextGroup ∧ ((after (.groupDispatch ⟨0, 0⟩ [name0]) s).task 0 0).map (·.groupsEnded) = some 1
    ∧ ((after (.groupDispatch ⟨0, 0⟩ [name0]) s).slotAt 0 0).map (·.image.groups.length) = some 0 := by decide +kernel

theorem witness_taskEnds : let u := { task0 with entry := { task0.entry with dlValid := true, dlAbort := true }, launch := { task0.launch with timeout := 5 } }
    let s := (busyWith [])
    let s := s.withSch { s.sch with tasks := [u], queues := [queue0] }
    s.task 0 0 = some u ∧ s.queue 0 = some queue0 ∧ s.inTurn queue0 0 ∧ s.boxes = [] ∧ s.passes = [] ∧ s.taskDone u = true
    ∧ tearsDown (u.endStatus 0) = false ∧ tearsDown (u.endStatus 0x14) = false ∧ statusCodes.contains 0 = true
    ∧ (∀ o, o < 4 → (s.out o).work = none)
    ∧ ((after (.taskComplete 0 0 0) s).queue 0).map (·.statuses) = some [(0, 0)]
    ∧ ((after (.deadlineAbort 0 0) s).queue 0).map (·.statuses) = some [(0, 0x14)]
    ∧ ((after (.taskTimeout 0 0) s).queue 0).map (·.statuses) = some [(0, 0x12)] ∧ (after (.taskTimeout 0 0) s).sch.slots = [] := by decide +kernel

theorem witness_teardown : let s := busyWith []
    let s := s.withSch { s.sch with queues := [{ queue0 with rung := [entryOf 6 0] }] }
    s.task 0 0 = some task0 ∧ s.sch.tasks = [task0] ∧ s.ctxDown 0 = false ∧ s.inTurn { queue0 with rung := [entryOf 6 0] } 0
    ∧ s.numbered ∧ (after (.taskComplete 0 0 0x13) s).ctxDown 0 = true ∧ (after (.taskComplete 0 0 0x13) s).rd R.ERR_CNT_CONT [] = 1
    ∧ (after (.ctxRestart 0) (after (.taskComplete 0 0 0x13) s)).ctxDown 0 = false := by decide +kernel

/-- A task in a token loop, its result ring of 16 records at DEV 0x8000. -/
def looping (loop : TokenLoop) (regs : List (Reg × List Nat × Word)) : State :=
  let s := dispatching ([(R.SCT_RES_CFG, [0], 9), (R.SCT_RES_LO, [0], 0x8000)] ++ regs) []
  s.withSch { s.sch with tasks := [{ task0 with token := some loop }], slots := [slot0] }

/-- Its loop. -/
def loop0 : TokenLoop := { seqId := 5, index := 0, cancel := false, written := false, stalled := none, finished := none, timedOut := false }

theorem witness_tokenRecord : let s := looping loop0 []
    s.task 0 0 = some { task0 with token := some loop0 } ∧ s.resultRoom 0 = true ∧ s.accessOk 0 0x8000 16 true = true ∧ s.writeError 0x8000 16 = none
    ∧ (after (.tokenRecordWrite 0 0 77 1) s).bytes 0x8000 16 = [5, 0, 0, 0, 0, 0, 0, 0, 77, 0, 0, 0, 3, 0, 0, 0]
    ∧ (after (.tokenIterationEnd 0 0) s).bytes 0x8008 5 = [255, 255, 255, 255, 11]
    ∧ ((after (.tokenIterationEnd 0 0) (after (.tokenRecordWrite 0 0 77 0) s)).task 0 0).bind (fun u => u.token.map (·.index)) = some 1
    ∧ (looping loop0 [(R.SCT_RES_WR, [0], 16)]).resultRoom 0 = false
    ∧ ((after (.tokenRecordWrite 0 0 77 1) (looping loop0 [(R.SCT_RES_WR, [0], 16)])).task 0 0).bind (fun u => u.token.map (·.stalled)) = some (some 0)
    ∧ (let v := looping loop0 [(R.SCT_RES_WR, [0], 16)]
       let w := v.withSch { v.sch with tasks := [{ task0 with token := some loop0, launch := { task0.launch with timeout := 5 } }] }
       w.bit R.SCT_RES_CFG [0] 0 = true ∧ w.resultRoom 0 = false
       ∧ ((after (.taskTimeout 0 0) w).task 0 0).bind (fun u => u.token.map (·.timedOut)) = some true
       ∧ ((after (.tokenIterationEnd 0 0) v).task 0 0).bind (fun u => u.token.map (·.stalled)) = some (some 0))
    ∧ (let c := { loop0 with written := true, cancel := true }
       ((after (.tokenIterationEnd 0 0) (looping c [])).task 0 0).bind (fun u => u.token.map (·.finished)) = some (some 3))
    ∧ ((after (.tokenLoopCancel 0 0) s).task 0 0).bind (fun u => u.token.map (·.cancel)) = some true
    ∧ bits (0 : Word) 8 8 = 0 ∧ (0 : Nat) % 256 ≠ bits 1 7 0 := by decide +kernel

theorem witness_counterAndMarker : let s := busyWith [(R.TRC_RING_CFG, [0], 0x201), (R.TRC_RING_SIZE, [0], 4), (R.TRC_RING_CTX_LO, [0], 1)]
    s.slotNamed name0 = some slot0 ∧ s.traceTakes 0 9 none = true ∧ s.traceTakes 1 9 none = false ∧ s.traceTakes 0 9 (some 0) = true
    ∧ s.traceTakes 1 9 (some 0) = false ∧ (after (.traceMarker none 3) s).rd R.TRC_RING_WR [0] = 1
    ∧ (after (.traceMarker (some name0) 3) s).byte 0 = 9 ∧ up.traceTakes 0 9 none = false ∧ up.traceTakes 1 9 none = false
    ∧ (after (.slotCounterRead name0 2) s).free = s.free + 1 := by decide +kernel

theorem witness_eviction : let x := { slot0 with phase := .evicting }
    let s := waiting.withSch { waiting.sch with tasks := [task0], slots := [x] }
    let t := after (.evictionEnd name0 none) s
    let u := after (.restoreStart name0 0 0) t
    s.slotAt 0 0 = some x ∧ t.slotAt 0 0 = none ∧ t.sch.layby.length = 1 ∧ t.dispatchOn (t.queuePart 0) = true ∧ t.slotFree 0 0 = true
    ∧ t.coreUsable 0 = true ∧ (u.slotAt 0 0).map (·.phase) = some .restoring
    ∧ (∀ l ∈ t.sch.layby, t.claimed 0 0 (t.restoreRank l) = false) ∧ (∀ k ∈ t.sch.tasks, t.competes k = false) := by decide +kernel

/-- Slot 0 of core 0 is being restored from record 0 of context 0, or was saved by a park. -/
def restoring (parked : Bool) : State :=
  let s := dispatching [(R.SCH_CTX_LAYBY_SIZE, [0], 4), (R.SCH_PART_STATUS, [0], if parked then 1 else 0)] []
  s.withSch { s.sch with
    tasks := [task0]
    slots := if parked then [] else [{ slot0 with phase := .restoring }]
    layby := [{ ctx := 0, slot := slot0, place := 0, parked := parked, since := 0 }] }

theorem witness_restoreEnd : let s := restoring false
    let x := { slot0 with phase := .restoring }
    s.memWf = true ∧ s.slotAt 0 0 = some x ∧ (s.sch.layby.find? fun l => l.isOf x).isSome = true
    ∧ s.bit R.TRC_RING_CFG [0] 0 = false ∧ s.bit R.TRC_RING_CFG [1] 0 = false
    ∧ ((after (.restoreEnd name0 none) s).slotAt 0 0).map (·.phase) = some .live ∧ (after (.restoreEnd name0 none) s).sch.layby = [] := by decide +kernel

theorem witness_park : let s := (busyWith [(R.CORE_SLOT_EXE, [0, 0, 0, 0], 0x80000000), (R.SCH_CTX_LAYBY_SIZE, [0], 4)])
    let t := after (.park 0) s
    s.fld R.SCH_PART_STATUS [0] 1 0 = 0 ∧ s.parkRecords 0 = true ∧ s.parkShares 0 = true ∧ t.sch.slots.map (·.phase) = [.evicting]
    ∧ (∀ x ∈ t.partSlots 0, t.ramMoving x.core = false) ∧ t.bit R.SCH_PART_STATUS [0] 1 = true
    ∧ (restoring true).scheduleNumbered ∧ (restoring true).fld R.SCH_PART_STATUS [0] 1 0 = 1
    ∧ (after (.unpark 0) (restoring true)).fld R.SCH_PART_STATUS [0] 1 0 = 0
    ∧ (busyWith []).parkRecords 0 = false ∧ (after (.park 0) (busyWith [])).bit R.SCH_PART_STATUS [0] 2 = true := by decide +kernel

/-- A running task and semaphore 4095 of two units. -/
def sem4095 (state : Word) (sems : List Sem) : State :=
  let s := busyWith [(R.SCH_SEM_CFG, [4095], 0x20010), (R.SCH_SEM_STATE, [4095], state)]
  s.withSch { s.sch with sems := sems }

theorem witness_semAcquire : let s := sem4095 0 []
    s.slotNamed name0 = some slot0 ∧ s.slotTask slot0 = some task0 ∧ slot0.wait = none ∧ s.bit R.SCH_SEM_CFG [4095] 4 = true
    ∧ s.fld R.SCH_SEM_CFG [4095] 3 0 = 0 ∧ s.semGrants 4095 0 2 = true ∧ (after (.semAcquire name0 4095 2) s).semHeld 4095 = 2
    ∧ s.semGrants 4095 0 3 = false
    ∧ ((after (.semAcquire name0 4095 3) s).sem 4095).waiters.length = 1
    ∧ ((after (.semAcquireTimeout name0 4095) (after (.semAcquire name0 4095 3) s)).slotAt 0 0).map (·.wait) = some none := by decide +kernel

theorem witness_semRelease : let s := sem4095 0x400002 [{ ident := 4095, holders := [{ qid := 0, seq := 0, units := 2 }], waiters := [] }]
    s.semOwner 4095 = some task0.ctx ∧ s.semHeld 4095 = 2 ∧ (s.sem 4095).waiters = []
    ∧ (after (.semRelease name0 4095 2) s).semOwner 4095 = none ∧ (after (.semForceRel 4095) s).bit R.SCH_SEM_STATE [4095] 23 = true
    ∧ (after (.semClrAbandoned 4095) (after (.semForceRel 4095) s)).rd R.SCH_SEM_STATE [4095] = 0 := by decide +kernel

/-! ### Bring-up and the image (chapters 12 and 13) -/

theorem witness_diePowerUp : let s := upWith [(R.BRG_READY, [], 1)]
    s.isUp ∧ s.dev.assembly.hasDie 3 = true ∧ s.step_ 3 = 0 ∧ s.isReady [0] = true ∧ (after (.diePowerUp 3) s).step_ 3 = 1
    ∧ (after (.diePowerUp 3) s).pwr.enMem = true
    ∧ (after (.diePowerUp 3) (after (.diePowerUp 3) s)).rd R.BRG_BOOT_FAULT [] = 0x309 := by decide +kernel

theorem witness_diePowerUp_absent : let s := up.withDev { up.dev with assembly := .s }
    s.isUp ∧ s.dev.assembly.hasDie 1 = false ∧ (after (.diePowerUp 1) s).rd R.BRG_BOOT_FAULT [] = 0x102
    ∧ (after (.selfTest 1) s).rd R.BRG_BOOT_FAULT [] = 0x802 := by decide +kernel

theorem witness_linkTraining : let s := upWith [(R.BRG_READY, [], 0x1E00)]
    s.isUp ∧ s.step_ 4 = 0 ∧ s.isReady s.dev.assembly.powerBits = true ∧ (after .linkTraining s).step_ 4 = 1
    ∧ up.isReady up.dev.assembly.powerBits = false ∧ (after .linkTraining up).rd R.BRG_BOOT_FAULT [] = 0x401 := by decide +kernel

theorem witness_dramTraining : let s := upWith [(R.BRG_READY, [], 0x1000)]
    s.isUp ∧ s.dev.assembly.hasDie 3 = true ∧ s.step_ 6 = 0 ∧ s.isReady [12] = true ∧ (after (.dramTraining 1) s).step_ 6 = 1
    ∧ s.isReady [11] = false ∧ (after (.dramTraining 0) s).rd R.BRG_BOOT_FAULT [] = 0x501 := by decide +kernel

theorem witness_selfTest : let s := upWith [(R.BRG_READY, [], 0x400)]
    s.isUp ∧ s.dev.assembly.hasDie 1 = true ∧ s.step_ 8 = 0 ∧ s.isReady [10] = true ∧ (after (.selfTest 1) s).step_ 8 = 1 := by
  decide +kernel

theorem witness_firmwareBroadcast : let s := upWith [(R.BRG_READY, [], 0x32100)]
    s.isUp ∧ s.step_ 9 = 0 ∧ s.isReady s.dev.assembly.firmwareNeeds = true
    ∧ s.bundleCode (s.rdAddr R.BRG_FW_SRC_LO R.BRG_FW_SRC_HI []) = 8
    ∧ (after .firmwareBroadcast s).rd R.BRG_BOOT_FAULT [] = 0x908 ∧ (after .firmwareBroadcast s).step_ 9 = 3
    ∧ up.isReady up.dev.assembly.firmwareNeeds = false ∧ (after .firmwareBroadcast up).rd R.BRG_BOOT_FAULT [] = 0x901 := by decide +kernel

/-- The SHA-256 digest of 0 bytes (FIPS 180-4), as bytes. -/
def emptyDigest : List Byte := beBytes 32 0xe3b0c44298fc1c149afbf4c8996fb92427ae41e4649b934ca495991b7852b855

/-- A bundle with four empty components at DEV address 0, and its manifest. -/
def bundled : State :=
  let head := leBytes 4 0x4257465A ++ leBytes 4 4 ++ zeros 8
  let entries := ((rangeFrom 1 4).map fun i => leBytes 4 i ++ zeros 12).flatten
  let s := (upWith [(R.BRG_READY, [], 0x32100)]).store 0 (head ++ entries)
  s.withImg { s.img with manifest := (rangeFrom 1 4).map fun i => { ident := i, version := 0, size := 0, digest := emptyDigest } }

theorem witness_firmwareBroadcast_start : bundled.isUp ∧ bundled.isReady bundled.dev.assembly.firmwareNeeds = true
    ∧ bundled.step_ 9 = 0 := by decide +kernel

theorem witness_diePowerUpEnd : let s := upWith [(R.BRG_BOOT_STATUS, [], 0x40)]
    s.isUp ∧ s.step_ 3 = 1 ∧ s.pwr.tripped = false ∧ (after (.diePowerUpEnd 3 true) s).rd R.BRG_READY [] = 0xF000
    ∧ (after (.diePowerUpEnd 3 false) s).rd R.BRG_BOOT_FAULT [] = 0x303 ∧ up.step_ 3 = 0 := by decide +kernel

theorem witness_linkTrainingEnd : let s := upWith [(R.BRG_BOOT_STATUS, [], 0x100)]
    s.isUp ∧ s.step_ 4 = 1 ∧ (after (.linkTrainingEnd [] []) s).bit R.BRG_READY [] 13 = true
    ∧ (after (.linkTrainingEnd [] [⟨1, 7, 0, 1, 9, false⟩]) s).step_ 4 = 3 ∧ (⟨1, 7, 0, 1, 9, false⟩ : MeshFault).die.val < s.dev.assembly.computeDies
    ∧ up.step_ 4 = 0 := by decide +kernel

theorem witness_dramTrainingEnd : let s := (upWith [(R.BRG_BOOT_STATUS, [], 0x1000)]).store 0x1000 [9]
    s.isUp ∧ s.step_ 6 = 1 ∧ s.onMemDie 1 0x1000 = true ∧ s.byte 0x1000 = 9 ∧ (after (.dramTrainingEnd 1 false []) s).byte 0x1000 = 0
    ∧ (after (.dramTrainingEnd 1 true []) s).rd R.BRG_BOOT_FAULT [] = 0x606 := by decide +kernel

theorem witness_selfTestEnd : let s := upWith [(R.BRG_BOOT_STATUS, [], 0x10000)]
    s.isUp ∧ s.step_ 8 = 1 ∧ s.weakOf 8 1 = [] ∧ s.siteFailed 1 7 15 = false ∧ s.logicalAt 1 7 15 = some 15
    ∧ s.spareFree 1 7 = true ∧ (after (.selfTestEnd 1 [.core 7 15 true false]) s).lmapByte 255 = 16
    ∧ (after (.selfTestEnd 1 []) s).bit R.BRG_READY [] 17 = true := by decide +kernel

theorem witness_selfTestEnd_absent : let s := (upWith [(R.BRG_BOOT_STATUS, [], 0x10000)]).withBrg { up.brg with failed := [siteOf 1 7 16] }
    s.step_ 8 = 1 ∧ s.logicalAt 1 7 15 = some 15 ∧ s.spareFree 1 7 = false
    ∧ (after (.selfTestEnd 1 [.core 7 15 true false]) s).coreAbsent 255 = true := by decide +kernel

theorem witness_firmwareBroadcastEnd : let s := upWith [(R.BRG_BOOT_STATUS, [], 0x40000)]
    s.isUp ∧ s.step_ 9 = 1 ∧ (after (.firmwareBroadcastEnd []) s).bit R.BRG_READY [] 18 = true
    ∧ s.incomplete [] = [] ∧ (let lost := List.replicate 9 [(⟨.core 1 7 3, false, 0⟩ : FwStatus)]
      let v := s.withBrg { s.brg with firmware := [{ ident := 1, digest := [], packets := [[1]] }] }
      v.incomplete lost = [(.core 1 7 3, [0])] ∧ (after (.firmwareBroadcastEnd lost) v).rd R.BRG_FW_FAILED [] = 1
      ∧ (after (.firmwareBroadcastEnd lost) v).siteFailed 1 7 3 = true) := by decide +kernel

theorem witness_qziVerify : let s := up.withBrg { up.brg with verifying := some [] }
    s.isUp ∧ s.sealed = false ∧ up.brg.verifying = none ∧ (after .qziVerify up).brg.verifying.isSome = true
    ∧ (after .qziVerify s).fld R.BRG_QZI_STATUS [] 15 8 = 0x0E := by decide +kernel

theorem witness_qziVerifyEnd : let s := up.withBrg { up.brg with verifying := some [] }
    s.isUp ∧ s.brg.touched = false ∧ (staged []).fault s.dev.assembly s.stepping = some (1, 0)
    ∧ (after .qziVerifyEnd s).fld R.BRG_QZI_STATUS [] 15 8 = 1 := by decide +kernel

theorem witness_qziSeal : let s := upWith [(R.BRG_QZI_STATUS, [], 2)]
    s.isUp ∧ s.sealed = false ∧ s.bit R.BRG_QZI_STATUS [] 1 = true ∧ (after .qziSeal s).sealed = true
    ∧ up.bit R.BRG_QZI_STATUS [] 1 = false ∧ (after .qziSeal up).bit R.BRG_QZI_STATUS [] 3 = true := by decide +kernel

theorem witness_reportRingSet : let s := up.withBrg { up.brg with held := [{ kind := 1, loc := [], cause := 1, action := 0, time := 0 }] }
    s.isUp ∧ (s.setFld R.BRG_RPT_SIZE [] 12 0 (bits 16 12 0)).reportRingSet = true
    ∧ (after (.reportRingSet 16) s).rd R.BRG_RPT_WR [] = 1 ∧ (after (.reportRingSet 16) s).brg.held = []
    ∧ (s.setFld R.BRG_RPT_SIZE [] 12 0 (bits 17 12 0)).reportRingSet = false
    ∧ (after (.reportRingSet 17) s).fld R.BRG_RPT_SIZE [] 12 0 = 17 := by decide +kernel

theorem witness_ramblerTestDue : let s := (upWith [(R.BRG_RAM_CTRL, [], 1), (R.BRG_READY, [], 0x100000)]).withBrg { up.brg with rambler := { up.brg.rambler with request := some 271 } }
    s.isLive ∧ s.bit R.BRG_RAM_CTRL [] 0 = true ∧ s.bit R.BRG_READY [] 20 = true ∧ s.ramState = 0 ∧ s.brg.rambler.serving = []
    ∧ s.ramEligible (271 / 136) (271 / 17 % 8) (271 % 17) = true ∧ (after .ramblerTestDue s).ramTarget = (1, 7, 16)
    ∧ (after .ramblerTestDue s).ramState = 3 := by decide +kernel

theorem witness_ramblerTestDue_cycle : let s := (upWith [(R.BRG_RAM_CTRL, [], 1), (R.BRG_READY, [], 0x100000)]).withBrg { up.brg with rambler := { up.brg.rambler with cursor := 271 } }
    s.isLive ∧ s.ramState = 0 ∧ s.brg.rambler.request = none ∧ s.nextPlace = some 271
    ∧ (after .ramblerTestDue s).ramTarget = (1, 7, 16) ∧ (after .ramblerTestDue s).brg.rambler.cursor = 0 := by decide +kernel

theorem witness_ramblerReq : up.isUp ∧ bits 0x800001F0 31 31 = 1 ∧ up.ramEligible 1 7 16 = true ∧ bits 0x800001F0 4 0 ≤ 16
    ∧ up.ramState = 0 ∧ (after (.ramblerReq 0x800001F0) up).brg.rambler.request = some 271 := by decide +kernel

theorem witness_ramblerSlackCheck : let s := (upWith [(R.BRG_RAM_STATUS, [], 1)]).withBrg { up.brg with rambler := { up.brg.rambler with logical := some 0 } }
    s.isLive ∧ s.ramState = 1 ∧ s.standIn 0 = some none ∧ s.slackOn 0 (s.moveTime 0) = true
    ∧ (after .ramblerSlackCheck s).rd R.BRG_RAM_STATUS [] = 0x400002 := by decide +kernel

theorem witness_ramblerReturn : let s := (upWith [(R.BRG_RAM_STATUS, [], 4)]).withBrg { up.brg with rambler := { up.brg.rambler with logical := some 0 } }
    s.isLive ∧ s.ramState = 4 ∧ s.slackOn 0 (s.moveTime 0) = true ∧ (after .ramblerSlackCheck s).ramState = 5 := by decide +kernel

theorem witness_ramblerMoveEnd : let s := (upWith [(R.BRG_RAM_STATUS, [], 0x400002)]).withBrg { up.brg with rambler := { up.brg.rambler with logical := some 255 } }
    s.isLive ∧ s.ramState = 2 ∧ s.fld R.BRG_RAM_STATUS [] 22 18 ≤ 16 ∧ s.brg.rambler.donor = none ∧ s.brg.rambler.owed = none
    ∧ (after .ramblerMoveEnd s).lmapByte 255 = 16 ∧ (after .ramblerMoveEnd s).ramState = 3 := by decide +kernel

theorem witness_ramblerTestEnd : let s := (upWith [(R.BRG_RAM_STATUS, [], 0x40FF03)]).withBrg { up.brg with rambler := { up.brg.rambler with logical := some 255 } }
    s.isLive ∧ s.ramState = 3 ∧ s.brg.rambler.donor = none ∧ (after (.ramblerTestEnd true true) s).ramState = 4
    ∧ (after (.ramblerTestEnd false false) s).brg.failed = [17 * 7 + 31] ∧ (after (.ramblerTestEnd false false) s).ramState = 0 := by
  decide +kernel

theorem witness_ramblerWaitExpiry : let s := upWith [(R.BRG_RAM_STATUS, [], 1)]
    s.isLive ∧ s.ramState = 1 ∧ (after .ramblerWaitExpiry s).rd R.BRG_RAM_CNT_DEFER [] = 1 := by decide +kernel

/-! ### Link (chapter 14) -/

/-- A device whose port 0 has a link and takes SCT frames without tags. -/
def linked (regs : List (Reg × List Nat × Word)) : State :=
  upWith ([(R.ETH_CTRL, [0], 1), (R.ETH_STATUS, [0], 1), (R.SCT_CTRL, [], 0x1C), (R.BRG_READY, [], 3)] ++ regs)

/-- The same, sealed, with a session key. -/
def linkedSealed (regs : List (Reg × List Nat × Word)) : State :=
  (linked ((R.BRG_QZI_STATUS, [], 4) :: regs)).withSec { up.sec with currentKey := some (zeros 32) }

/-- A host frame with number 0. -/
def frameOf (payload : List Byte) : RxFrame :=
  { port := 0, src := 0x112233445566, dst := BitVec.ofNat 48 (up.macOf 0), tags := [], encap := .l2 0x88B5, wireLen := 100, fcsGood := true, rtag := none,
    subtype := BitVec.ofNat 8 (up.fld R.SCT_L2 [] 7 0), version := 1, stream := 0, seq := 0, len := BitVec.ofNat 16 payload.length,
    rest := 0, payload := payload, tag := [] }

/-- A host frame with its tag. -/
def taggedOf (op : Nat) (payload : List Byte) : RxFrame :=
  let f := (frameOf payload)
  let f := { f with version := 0x11 }
  { f with tag := sctTag (zeros 32) 0 0 0 (rxHeader op f ++ payload) }

set_option maxRecDepth 100000 in
theorem witness_rwl_reg : findReg R.regTable 0x10014 = some (R.PWR_TRIP_TEMP, []) ∧ R.PWR_TRIP_TEMP.rwl ≠ 0 := by
  exact ⟨rfl, by decide +kernel⟩

theorem witness_rwl : let s := linkedSealed []
    s.isUp ∧ s.dev.resetAsked = none ∧ s.sealed = true ∧ s.writable 0x10014
    ∧ (after (.registerWrite 0x10014 0) s).rd R.PWR_TRIP_TEMP [] = 125 := by decide +kernel

theorem witness_rwl_sct : let s := linkedSealed []
    let f := taggedOf 2 (leBytes 4 0x10014 ++ leBytes 4 0)
    s.turnOf (s.receive f).1 2 f ∧ ((s.receive f).1).sealed = true ∧ ((s.receive f).1).writable 0x10014 := by decide +kernel

theorem witness_sctRegRead : let s := linked []
    let f := frameOf (leBytes 4 0x60018)
    s.turnOf (s.receive f).1 1 f ∧ (after (.sctRegRead f) s).nExp = 1
    ∧ (after (.sctRegRead f) s).sct.cache.map (·.frame.payload) = [leBytes 4 0xA731] := by decide +kernel

set_option maxRecDepth 100000 in
theorem witness_sctRegRead_reg : findReg R.regTable 0x60018 = some (R.SCT_UDP_PORT, []) := by rfl

theorem witness_sctRegWrite : let s := linked []
    let f := frameOf (leBytes 4 0x60018 ++ leBytes 4 7)
    s.turnOf (s.receive f).1 2 f ∧ ((s.receive f).1).writable 0x60018 ∧ storesOnly R.SCT_UDP_PORT
    ∧ ((s.receive f).1).advanceStalls R.SCT_UDP_PORT [] = (s.receive f).1
    ∧ (after (.sctRegWrite f) s).rd R.SCT_UDP_PORT [] = 7 ∧ (after (.registerWrite 0x60018 7) s).rd R.SCT_UDP_PORT [] = 7
    ∧ (after (.registerWrite 0x6005C 1) (s.poke R.SCT_CNT_OVF [] 3)).rd R.SCT_CNT_OVF [] = 2 := by decide +kernel

theorem witness_sctMem : let s := linked []
    let a := 0x800000000000
    let f := frameOf (leBytes 8 a ++ leBytes 4 4 ++ leBytes 4 0 ++ [1, 2, 3, 4])
    let g := frameOf (leBytes 8 a ++ leBytes 4 4 ++ leBytes 4 0)
    s.turnOf (s.receive f).1 3 f ∧ ((s.receive f).1).memStatus a 4 = 0 ∧ ((s.receive f).1).badIn a 4 = []
    ∧ (after (.sctMemWrite f) s).bytes a 4 = [1, 2, 3, 4] ∧ s.turnOf (s.receive g).1 4 g
    ∧ (after (.sctMemRead g) s).sct.cache.map (·.frame.payload) = [[0, 0, 0, 0]] := by decide +kernel

theorem witness_sctDoorbell : let s := (linkedSealed []).withSch { up.sch with queues := [queue0] }
    let f := taggedOf 5 (leBytes 2 0 ++ leBytes 2 0 ++ leBytes 4 2)
    s.turnOf (s.receive f).1 5 f ∧ ((s.receive f).1).writable (regAddr R.SCH_DB [0]) ∧ s.partResetting (s.ctxPart 0) = false
    ∧ s.ctxDown 0 = false ∧ s.queue 0 = some queue0 ∧ after32 2 0 = true ∧ (2 - queue0.posted).toNat ≤ queue0.desc.size
    ∧ (after (.sctDoorbell f) s).sch.queues.map (·.pLast) = [2] := by decide +kernel

theorem witness_frameDropped : let s := linked []
    let f := { frameOf [] with fcsGood := false }
    s.linkUp f.port.val = true ∧ (after (.sctAck f) s).rd R.ETH_CNT_FCS [0] = 1 ∧ up.linkUp f.port.val = false := by decide +kernel

theorem witness_frameMalformed : let s := linked []
    let f := frameOf [1]
    let u := (s.receive f).1
    s.receive f = (u, true) ∧ u.responderUp = true ∧ u.encapOk f.encap = true ∧ u.tagsOk f = true ∧ u.frameOk 2 f = false
    ∧ u.sctPorts.contains f.port.val = true ∧ (after (.sctRegWrite f) s).rd R.SCT_CNT_MALFORMED [] = 1 := by decide +kernel

theorem witness_frameAhead : let s := (linked []).withSct { up.sct with applied := true }
    let f := { frameOf (leBytes 4 0x60018 ++ leBytes 4 7) with seq := 63 }
    let u := (s.receive f).1
    s.receive f = (u, true) ∧ u.frameOk 2 f = true ∧ f.seq.toNat = (u.nExp + 63) % 65536
    ∧ u.authentic 2 f f.stream.toNat (u.nextEsn + 63) (u.keyOf (u.nextEsn + 63)) = true ∧ (after (.sctRegWrite f) s).sct.held.length = 1 := by decide +kernel

/-- A frame of a stream, with the records that it carries. -/
def sentOf (esn records : Nat) : Outstanding :=
  { seq := esn, esn := esn, records := records,
    frame := { kind := .result, ports := [], pcp := 0, rtag := none, dst := { port := 0, mac := 0, encap := .l2 0x88B5 }, header := zeros 16, payload := [7], tag := [] } }

/-- A device with a known host and two outstanding RESULT frames of context 0. -/
def streaming (events : List EventRec) : State :=
  (linked []).withSct { up.sct with lastSource := some { port := 0, mac := 0, encap := .l2 0x88B5 }, events := events, streams := [{ ident := 0x40, nextEsn := 2, outstanding := [sentOf 0 5, sentOf 1 6], lastSent := 0 }] }

theorem witness_sctAck : let s := streaming []
    let f := { frameOf ([0x40, 0] ++ leBytes 2 0 ++ leBytes 4 0) with version := 0x21 }
    let u := (s.receive f).1
    s.receive f = (u, true) ∧ u.frameOk 6 f = true ∧ sentOf 0 5 ∈ (u.streamOf 0x40).outstanding ∧ (f.payload.getD 0 0).toNat = 0x40
    ∧ ofLe (sliceBytes f.payload 2 2) = 0 ∧ u.authentic 6 f 0x40 0 u.sec.currentKey = true
    ∧ ((after (.sctAck f) s).streamOf 0x40).outstanding = [sentOf 1 6] ∧ (after (.sctAck f) s).rd R.SCT_RES_ACK [0] = 5 := by decide +kernel

theorem witness_eventFlush :
    let s := streaming [{ cls := 1, inst := 0, code := 2, lostBefore := false, seq := 0, lost := 0, time := 0, payload := zeros 16 }]
    s.streamReady 1 = true ∧ (∀ p ∈ s.outPorts 0, s.destListed p 0 = true) ∧ (after .eventFlush s).sct.events = []
    ∧ (after .eventFlush s).eth.tx.length = 1 := by decide +kernel

theorem witness_resultFlush : let s := (streaming []).poke R.SCT_RES_WR [0] 3
    s.streamReady 0x40 = true ∧ ((s.rd R.SCT_RES_WR [0]).toNat + 2 ^ 32 - s.resultsSent 0) % 2 ^ 32 = 3
    ∧ (after (.resultFlush 0) s).resultsSent 0 = 3 ∧ ((after (.resultFlush 0) s).streamOf 0x40).nextEsn = 3 := by decide +kernel

theorem witness_retransmit : let s := streaming []
    (s.streamOf 0x40).outstanding ≠ [] ∧ (s.outPorts 0).any s.linkUp = true ∧ (after (.streamRetransmit 0x40) s).eth.tx.length = 2
    ∧ (s.streamOf 0x41).outstanding = [] := by decide +kernel

theorem witness_ethLinkChange : let s := linked []
    (after (.ethLinkChange 0 false 0 false) s).linkUp 0 = false
    ∧ (after (.ethLinkChange 0 true 0 true) s).rd R.ETH_STATUS [0] = 0x10
    ∧ (after (.ethLinkChange 0 true 1 false) ((s.poke R.ETH_CTRL [0] 5).poke R.ETH_STATUS [0] 0)).fld R.ETH_STATUS [0] 2 0 = 3 := by decide +kernel

theorem witness_gateControl : let s := (linked [(R.ETH_TSN_CTRL, [0], 1), (R.ETH_GCL_COUNT, [0], 2), (R.ETH_GCL_STATE, [0, 0], 0x01), (R.ETH_GCL_STATE, [0, 1], 0x80)]).withEth { up.eth with queued := [(0, 7, (sentOf 0 0).frame)] }
    let t := after (.gateControlInterval 0) s
    let u := after (.gateControlInterval 0) t
    vecGet t.eth.gates 0 0 = 1 ∧ t.eth.queued.length = 1 ∧ vecGet u.eth.gates 0 0 = 0x80 ∧ u.eth.queued = []
    ∧ vecGet t.eth.gateEntry 0 0 + 1 < (vecGet t.eth.gcl 0 []).length ∧ (vecGet s.eth.gcl 0 []).length ≤ vecGet s.eth.gateEntry 0 0 + 1
    ∧ (after (.gateControlInterval 0) (u.withEth { u.eth with newList := vecSet u.eth.newList 0 true })).eth.gateEntry = t.eth.gateEntry := by decide +kernel

theorem witness_frerReset : let s := up.withEth { up.eth with recovery := [{ ident := 3, last := 0, seen := [] }, { ident := 4, last := 0, seen := [] }] }
    ((after (.frerResetTimeout 3) s).eth.recovery.map (·.ident)) = [4] := by decide +kernel

theorem witness_neighbours : let s := linked [(R.SCT_IP4, [], 0xC0A80001), (R.SCT_IP6, [3], 5)]
    s.destListed 0 7 = true ∧ s.gateOpen 0 (s.txQueue 0 (s.fld R.SCT_VLAN [] 15 13)) = true ∧ s.ip6 = 5
    ∧ s.queuedIn 0 (s.txQueue 0 (s.fld R.SCT_VLAN [] 15 13)) = 0 ∧ s.overCap 0 (s.fld R.SCT_VLAN [] 15 13) = false
    ∧ (after (.arpRequest 0 7 8 0xC0A80002) s).rd R.ETH_CNT_RX [0] = 1 ∧ (after (.neighborSolicitation 0 7 8 6) s).rd R.ETH_CNT_RX [0] = 1
    ∧ (after (.arpRequest 0 7 8 0xC0A80001) s).eth.tx.length = 1 ∧ (after (.arpRequest 0 7 8 0xC0A80002) s).eth.tx = []
    ∧ (after (.neighborSolicitation 0 7 8 5) s).eth.tx.length = 1 := by decide +kernel

/-! ### Time (chapter 15) -/

/-- A device whose reference is gPTP on port 1, with a link there. -/
def timed (regs : List (Reg × List Nat × Word)) : State := upWith ([(R.TIM_CTRL, [], 1), (R.ETH_CTRL, [1], 1), (R.ETH_STATUS, [1], 1)] ++ regs)

theorem witness_gptpSync : let s := timed []
    s.isLive ∧ s.bit R.TIM_CTRL [] 4 = false ∧ s.linkUp 1 = true ∧ s.timSrc = 1 ∧ s.bit R.TIM_STATUS [] 1 = false
    ∧ Int.natAbs 0 ≤ (s.rd R.TIM_STEP_THR []).toNat ∧ (after (.gptpSync 1 false 0) s).bit R.TIM_STATUS [] 3 = true := by decide +kernel

theorem witness_gptpSync_step : let s := timed [(R.TIM_STEP_THR, [], 10)]
    (s.rd R.TIM_STEP_THR []).toNat < Int.natAbs 5000000000 ∧ s.bit R.TIM_CTRL [] 2 = false ∧ s.stepBlocked = false
    ∧ (∀ k, k < 4 → (s.lch k).running = false) ∧ (after (.gptpSync 1 false 5000000000) s).now = 5000000000 := by decide +kernel

theorem witness_gptpSync_deferred : let s := timed [(R.TIM_STEP_THR, [], 10), (R.SYN_CTRL, [3], 1)]
    s.isLive ∧ s.stepBlocked = true ∧ (after (.gptpSync 1 false 5000000000) s).rd R.TIM_CNT_DEFER [] = 1 := by decide +kernel

theorem witness_ppsInEdge : let s := up.withTim { up.tim with base := BitVec.ofNat 96 (2 ^ 32 * 5000000007) }
    s.isUp ∧ true ≠ s.bit R.TIM_CTRL [] 3 ∧ s.timSrc < 2 ∧ (after (.ppsInEdge true) s).tim.ppsLast = some 5000000007
    ∧ (after (.ppsInEdge false) s).tim.ppsLast = none := by decide +kernel

theorem witness_ppsInEdge_servo : let s := (upWith [(R.TIM_CTRL, [], 3), (R.TIM_STATUS, [], 4), (R.TIM_STEP_THR, [], 10)]).withTim { up.tim with base := BitVec.ofNat 96 (2 ^ 32 * 5000000007), lastOffset := some 0 }
    s.isLive ∧ s.timSrc = 3 ∧ s.bit R.TIM_STATUS [] 2 = true ∧ s.bit R.TIM_STATUS [] 1 = false
    ∧ ((s.now : Int) - (s.rd R.TIM_PPS_OFS []).toNat) % 1000000000 = 7 ∧ (s.rd R.TIM_STEP_THR []).toNat = 10
    ∧ (after (.ppsInEdge true) s).rd R.TIM_OFFSET [] = 0xFFFFFFF9 := by decide +kernel

theorem witness_ppsLoss : let s := upWith [(R.TIM_CTRL, [], 3), (R.TIM_STATUS, [], 4)]
    s.isUp ∧ s.bit R.TIM_STATUS [] 2 = true ∧ s.timSrc = 3 ∧ s.bit R.TIM_STATUS [] 1 = false
    ∧ (after .ppsLoss s).rd R.TIM_STATUS [] = 2 ∧ (after .holdoverTimeout s).bit R.TIM_STATUS [] 1 = true := by decide +kernel

theorem witness_ppsLoss_unused : let s := upWith [(R.TIM_CTRL, [], 1), (R.TIM_STATUS, [], 4)]
    s.isUp ∧ s.bit R.TIM_STATUS [] 2 = true ∧ s.timSrc < 2 ∧ (after .ppsLoss s).rd R.TIM_STATUS [] = 0 := by decide +kernel

theorem witness_syncReceiptTimeout : let s := upWith [(R.TIM_CTRL, [], 1), (R.TIM_STATUS, [], 8)]
    s.isUp ∧ s.bit R.TIM_STATUS [] 3 = true ∧ s.timSrc = 1 ∧ s.bit R.TIM_STATUS [] 1 = false
    ∧ (after .syncReceiptTimeout s).rd R.TIM_STATUS [] = 2 := by decide +kernel

theorem witness_timSteps : up.isUp ∧ up.stepBlocked = false ∧ (∀ k, k < 4 → (up.lch k).running = false)
    ∧ (after (.timAdj 7) up).now = 7 ∧ (after (.timSet 1) up).now = 2 ^ 32
    ∧ (upWith [(R.SYN_CTRL, [0], 1)]).isUp ∧ (upWith [(R.SYN_CTRL, [0], 1)]).stepBlocked = true
    ∧ (after (.timSet 1) (upWith [(R.SYN_CTRL, [0], 1)])).rd R.TIM_STATUS [] = 0x20 := by decide +kernel

theorem witness_launchInstant :
    let x : Launch := { running := true, start := 0, period := 10000, next := 0, done := false, tasks := [] }
    let s := up.setLch 3 x
    s.isLive ∧ (s.lch 3).running = true ∧ (s.lch 3).done = false ∧ (s.lch 3).tasks = [] ∧ ((after (.launchInstant 3) s).lch 3).next = 10000
    ∧ (up.lch 3).running = false ∧ ((after (.launchInstant 3) up).lch 3).next = 0 := by decide +kernel

theorem witness_launchInstant_skip :
    let x : Launch := { running := true, start := 0, period := 10000, next := 0, done := false, tasks := [(0, 0)] }
    let s := (busyWith []).setLch 3 x
    s.isLive ∧ (s.lch 3).running = true ∧ (s.lch 3).done = false ∧ (0, 0) ∈ (s.lch 3).tasks ∧ task0 ∈ s.sch.tasks
    ∧ task0.holds 0 0 = true ∧ (after (.launchInstant 3) s).rd R.TIM_LCH_SKIP [3] = 1 := by decide +kernel

/-! ### Errors (chapter 16) and resets -/

theorem witness_correctedError : up.isLive ∧ (after (.correctedError (.dramEcc 3) 0 none) up).rd R.ERR_CNT_DRAMCE [3] = 1
    ∧ (after (.correctedError (.coreMemory 1 7 16) 0 none) up).rd R.CORE_CNT_MEMCE [1, 7, 16] = 1
    ∧ (after (.correctedError .scratchpad 0 none) up).rd R.ERR_CNT_CORR [] = 1 := by decide +kernel

theorem witness_patrolScrub : up.isLive ∧ placeOf up.dev.assembly (protBase up.dev.assembly 0x1041) = .dram
    ∧ (after (.patrolScrub 0x1041 .uncorrectable) up).err.bad = [0x1040]
    ∧ (after (.patrolScrub 0x1041 .correctable) up).rd R.ERR_CNT_DRAMCE [2] = 1
    ∧ (after (.patrolScrub 0x1041 .clean) up).rd R.ERR_CNT_CORR [] = 0
    ∧ (after (.dramUncorrectable 0x1041 .sct) up).err.bad = [0x1040] := by decide +kernel

theorem witness_coolBoxError :
    let m : Model := { part := 15, handle := 5, segments := [(0, 64, 0)], pinned := false, resident := true, loading := none, reloading := false, unpinDeferred := false, lastUse := 0, ctx := 0 }
    let s := up.withSch { up.sch with models := [m] }
    s.isLive ∧ s.model 15 5 = some m ∧ m.resident = true ∧ m.ctx < 64 ∧ s.modelBytes m 0 ≠ 0
    ∧ ((after (.coolBoxError 0 0 15 5) s).model 15 5).map (·.reloading) = some true := by decide +kernel

theorem witness_errorRingSet : let s := upWith [(R.ERR_CTRL, [], 1), (R.ERR_RING_SIZE, [], 16)]
    s.isUp ∧ s.errRingSet = true ∧ s.err.fill = none ∧ (after .errorRingSet s).err.fill = some 0
    ∧ (after .errorRingSet (after .errorRingSet s)).err.fill = some 0
    ∧ up.errRingSet = false ∧ (after .errorRingSet up).err.fill = none := by decide +kernel

theorem witness_flitCrcError : up.isLive ∧ up.moduleWorks 6 3 = true ∧ (6, 3) ∉ up.brg.retraining
    ∧ (after (.flitCrcError (.module 6 3) 7) up).rd R.ERR_CNT_D2DRTY [6] = 1
    ∧ (after (.flitCrcError (.module 6 3) 8) up).brg.retraining = [(6, 3)]
    ∧ (after (.flitCrcError (.mesh 1 7 4) 7) up).rd R.ERR_CNT_MESHRTY [] = 1 := by decide +kernel

theorem witness_moduleRetrainEnd : let s := up.withBrg { up.brg with retraining := [(6, 3)] }
    s.isLive ∧ s.moduleWorks 6 3 = true ∧ (6, 3) ∈ s.brg.retraining ∧ s.moduleWorks 6 0 = true
    ∧ (s.brg.retrains.filter fun e => e.1 == 6 && e.2.1 == 3).length < 2
    ∧ (after (.moduleRetrainEnd 6 3 false) s).brg.retired = [(6, 3)]
    ∧ (after (.moduleRetrainEnd 6 3 true) s).brg.retired = [] := by decide +kernel

theorem witness_meshLinkFail : up.isLive ∧ 1 < up.dev.assembly.computeDies ∧ (after (.meshLinkFail 1 7 3) up).fatal = true := by
  decide +kernel

theorem witness_coreFailInService : up.isLive ∧ 1 < up.dev.assembly.computeDies ∧ up.siteFailed 1 7 15 = false
    ∧ up.clusterAbsent 1 7 = false ∧ up.brg.rambler.logical = none ∧ up.logicalsAt 1 7 15 = [255] ∧ up.sch.tasks = []
    ∧ up.spareFree 1 7 = true ∧ (after (.coreFailInService 1 7 15) up).lmapByte 255 = 16 := by decide +kernel

theorem witness_coreFailInService_absent : let s := up.withBrg { up.brg with failed := [siteOf 1 7 16] }
    s.isLive ∧ s.siteFailed 1 7 15 = false ∧ s.logicalsAt 1 7 15 = [255] ∧ s.spareFree 1 7 = false
    ∧ (after (.coreFailInService 1 7 15) s).coreAbsent 255 = true := by decide +kernel

theorem witness_clusterWithdraw : up.isLive ∧ 1 < up.dev.assembly.computeDies ∧ up.clusterAbsent 1 7 = false
    ∧ (∀ c, c < 16 → up.coreAbsent (128 * 1 + 16 * 7 + c) = false → ∀ i, i < 4 → (up.share (128 * 1 + 16 * 7 + c) i).valid = false)
    ∧ (after (.clusterWithdraw 1 7) up).clusterAbsent 1 7 = true := by decide +kernel

theorem witness_onchipUncorrectable : up.isLive ∧ placeOf up.dev.assembly (protBase up.dev.assembly 0x800000000021) = .hub
    ∧ (after (.onchipUncorrectable (.memory 0x800000000021) .sct) up).rd R.ERR_CNT_CORR [] = 1
    ∧ (after (.onchipUncorrectable (.memory 0x800000000021) .hub) up).fatal = true
    ∧ up.physOf (128 * 1 + 16 * 7 + 15) = 15 ∧ up.slotAt 255 3 = none
    ∧ (after (.onchipUncorrectable (.slotArray 1 7 15 3 0 5) .sct) up).sch.rest.map (·.2.2.badRegs) = [[5]] := by decide +kernel

theorem witness_partitionReset : up.isLive ∧ up.fatal = false ∧ up.partResetting 15 = false ∧ up.sch.tasks = [] ∧ up.sch.models = []
    ∧ up.vis.chains = [] ∧ (∀ n, n < 16 → up.bit R.CAP_V_ROUTE [n] 18 = false) ∧ (∀ a, a < 8 → up.bit R.CAP_A_ROUTE [a] 17 = false)
    ∧ (∀ o, o < 4 → up.bit R.SYN_QUEUE [o] 15 = false) ∧ up.vis.waiting = [] ∧ (after (.partitionReset 15 none) up).partResetting 15 = true := by decide +kernel

theorem witness_partitionReset_again : let s := upWith [(R.ERR_PRST_STATUS, [], 0x8000)]
    s.isLive ∧ s.fatal = false ∧ s.partResetting 15 = true
    ∧ (after (.partitionReset 15 (some 0x11)) s).rd R.ERR_CNT_PFATAL [] = 1
    ∧ (after (.partitionReset 15 none) s).rd R.ERR_CNT_PFATAL [] = 0 := by decide +kernel

theorem witness_partitionResetEnd : let s := upWith [(R.ERR_PRST_STATUS, [], 0x8000), (R.SCH_CTX_CFG, [63], 0x1F), (R.SCH_CTX_STATUS, [63], 1)]
    s.isLive ∧ s.partResetting 15 = true ∧ (after (.partitionResetEnd 15) s).partResetting 15 = false
    ∧ (after (.partitionResetEnd 15) s).ctxDown 63 = false := by decide +kernel

theorem witness_fatalStateEntry : up.isLive ∧ 0x14 ∈ fatalCodes ∧ up.fatal = false ∧ (after (.fatalStateEntry 0x14 9 none) up).fatal = true
    ∧ 0x10 ∉ fatalCodes ∧ (after (.fatalStateEntry 0x10 9 none) up).fatal = false := by decide +kernel

theorem witness_deviceReset : let s := upWith [(R.ERR_CTRL, [], 4), (R.ERR_STATUS, [], 1)]
    let s := s.withErr { s.err with fatalAt := some (0, 0), fatalCode := 0x14 }
    s.isUp ∧ s.dev.resetAsked = none ∧ bits 0xD5E70001 31 16 = 0xD5E7 ∧ bits 0xD5E70001 0 0 = 1
    ∧ s.err.fatalAt = some (0, 0) ∧ s.fatal = true ∧ s.bit R.ERR_CTRL [] 2 = true ∧ 0 + 0 * 1000000 ≤ s.now ∧ s.err.fatalCode < 256
    ∧ (after .fatalTimeout s).rd R.ERR_RESET_CAUSE [] = 0x11403
    ∧ (after (.deviceResetRequest 0xD5E70001) s).rd R.ERR_RESET_CAUSE [] = 0x11402
    ∧ (after (.deviceResetRequest 1) s).dev.inReset = false ∧ (after .fatalTimeout up).dev.inReset = false
    ∧ (after .resetNAssert s).dev.resetLow = true ∧ (after .refclkLoss s).dev.refclkLost = true := by decide +kernel

theorem witness_resetRelease : State.reset.dev.inReset = true ∧ State.reset.dev.refclkLost = false
    ∧ State.reset.dev.resetAsked = none ∧ State.reset.brg.hubBad = false
    ∧ (after (.resetRelease 0x3F []) State.reset).fld R.ETH_CTRL [1] 2 1 = 3
    ∧ (after (.resetRelease 0x3F []) State.reset).fld R.BRG_STRAP [] 5 0 = 0x3F := by decide +kernel

theorem witness_refclkReturn : let s := (after .refclkLoss up)
    s.dev.refclkLost = true ∧ s.dev.resetLow = false ∧ s.dev.resetAsked = none ∧ s.brg.hubBad = false
    ∧ s.dev.inReset = true ∧ (after (.resetRelease 0 []) s).dev.inReset = true
    ∧ (after (.refclkReturn 5 []) s).dev.inReset = false
    ∧ (after (.refclkReturn 5 []) (after .resetNAssert s)).dev.inReset = true := by decide +kernel

theorem witness_jtag : up.isUp ∧ (after (.jtagInstruction .idcode) up).dbg.jtagData = 0x158400B5
    ∧ (after (.jtagInstruction (.scan 4 0)) up).dbg.jtag = 0 := by decide +kernel

/-! ### Debug (chapter 17) -/

theorem witness_unlockSubmit : let s := upWith [(R.BRG_QZI_STATUS, [], 4)]
    s.isUp ∧ s.sealed = true ∧ s.bit R.DBG_UNLOCK [] 3 = false
    ∧ (after (.unlockSubmit 0x8000) s).dbg.token = some 0x800000000000 := by decide +kernel

theorem witness_unlockSubmit_refused : up.isUp ∧ up.sealed = false ∧ (after (.unlockSubmit 0) up).fld R.DBG_UNLOCK [] 11 8 = 8 := by
  decide +kernel

theorem witness_unlockEnd : let s := up.withDbg { up.dbg with token := some 1 }
    s.isUp ∧ s.dbg.token = some 1 ∧ s.tokenCode 1 (s.bytes 1 448) = 1 ∧ (after .unlockEnd s).fld R.DBG_UNLOCK [] 11 8 = 1 := by
  decide +kernel

theorem witness_debugLock : let s := upWith [(R.DBG_UNLOCK, [], 7), (R.DBG_BP_CTRL, [15], 1)]
    s.isLive ∧ s.numbered ∧ (after .debugLock s).rd R.DBG_UNLOCK [] = 0 ∧ (after .debugLock s).bit R.DBG_BP_CTRL [15] 0 = false := by decide +kernel

theorem witness_debugLock_stopped : let s := upWith [(R.DBG_UNLOCK, [], 7), (R.DBG_STOP_STATUS, [], 3)]
    s.isUp ∧ s.stopped = true ∧ (after .debugLock s).rd R.DBG_UNLOCK [] = 7 := by decide +kernel

theorem witness_breakpointArm : let s := upWith [(R.DBG_UNLOCK, [], 1), (R.DBG_UNLOCK_CTX_HI, [], 0x80000000)]
    s.isUp ∧ bits 0x7F 0 0 = 1 ∧ s.ctxGranted (bits 0x7F 6 1) = true ∧ s.isStatic (s.ctxPart (bits 0x7F 6 1)) = false
    ∧ (after (.breakpointArm 15 0x7F) s).rd R.DBG_BP_CTRL [15] = 0x7F
    ∧ up.ctxGranted 63 = false ∧ (after (.breakpointArm 15 0x7F) up).rd R.DBG_BP_CTRL [15] = 0x27E := by decide +kernel

theorem witness_breakpointHit : let s := busyWith [(R.DBG_BP_CTRL, [15], 1), (R.DBG_BP_PC, [15], 64)]
    s.isLive ∧ s.slotNamed name0 = some slot0 ∧ s.bpMatches slot0 64 15 = true
    ∧ ((after (.breakpointHit name0 64) s).slotOfName name0).map (·.halted) = some true := by decide +kernel

theorem witness_breakpointHit_none : let s := busyWith []
    s.isLive ∧ s.slotNamed name0 = some slot0 ∧ (∀ b, b < 16 → s.bpMatches slot0 64 b = false) ∧ slot0.stepping = false
    ∧ ((after (.breakpointHit name0 64) s).slotOfName name0).map (·.image.pc) = some 64 := by decide +kernel

theorem witness_ebreak : let s := busyWith [(R.DBG_UNLOCK, [], 1), (R.DBG_UNLOCK_CTX_LO, [], 1)]
    s.isLive ∧ s.slotNamed name0 = some slot0 ∧ s.ctxGranted (slot0.qid / 256) = true
    ∧ ((after (.ebreak name0 64) s).slotOfName name0).map (·.halted) = some true
    ∧ (busyWith []).ctxGranted 0 = false ∧ ((after (.ebreak name0 64) (busyWith [])).slotOfName name0).map (·.halted) = some false := by
  decide +kernel

theorem witness_debugResume : let s := after (.ebreak name0 64) (busyWith [(R.DBG_UNLOCK, [], 1), (R.DBG_UNLOCK_CTX_LO, [], 1)])
    s.isLive ∧ s.slotOfName name0 = some { slot0 with halted := true, image := { slot0.image with pc := 64 } }
    ∧ s.ctxGranted 0 = true
    ∧ ((after (.debugResume name0 false) s).slotOfName name0).map (·.halted) = some false
    ∧ ((after (.debugStep name0 true) s).slotOfName name0).map (·.stepping) = some true := by decide +kernel

theorem witness_globalStop : let s := upWith [(R.DBG_UNLOCK, [], 4), (R.DBG_POLICY, [], 2), (R.DBG_STOP_CFG, [], 1)]
    s.isLive ∧ s.stopAllowed = true ∧ bits 0x57090001 0 0 = 1 ∧ bits 0x57090001 31 16 = 0x5709
    ∧ s.bit R.DBG_STOP_CFG [] 0 = true ∧ (after (.globalStop (.write 0x57090001)) s).rd R.DBG_STOP_STATUS [] = 3
    ∧ (after (.globalStop .breakpoint) s).rd R.DBG_STOP_STATUS [] = 5 ∧ (after (.globalStop .error) s).rd R.DBG_STOP_STATUS [] = 7
    ∧ ((after (.globalStop .error) s).srSince 3).isSome = true := by decide +kernel

theorem witness_globalStop_denied : up.isLive ∧ up.stopAllowed = false
    ∧ (after (.globalStop (.write 0x57090001)) up).stopped = false := by decide +kernel

theorem witness_globalStopRelease : let s := upWith [(R.DBG_STOP_STATUS, [], 3)]
    s.isUp ∧ s.stopped = true ∧ bits 2 1 1 = 1 ∧ (after (.globalStopRelease 2) s).stopped = false := by decide +kernel

theorem witness_scanDataRead : let s := upWith [(R.DBG_UNLOCK, [], 4), (R.DBG_STOP_STATUS, [], 3)]
    s.isUp ∧ s.scope 2 = true ∧ s.stopped = true ∧ (after .scanDataRead s).dbg.scanned = 32
    ∧ up.scope 2 = false ∧ (after .scanDataRead up).dbg.scanned = 0 := by decide +kernel

theorem witness_pmcSnap : let s := upWith [(R.DBG_UNLOCK, [], 2), (R.PMC_CNT, [31], 9)]
    s.isLive ∧ s.scope 1 = true ∧ (after (.pmcSnap 3) s).rd R.PMC_SNAP [31] = 9 ∧ (after (.pmcSnap 3) s).rd R.PMC_CTRL [] = 1
    ∧ (after (.pmcSnap 1) s).rd R.PMC_SNAP [31] = 0 := by decide +kernel

theorem witness_pmcSampleTick : let s := upWith [(R.PMC_SAMPLE, [], 1), (R.PMC_CNT, [31], 9)]
    s.isLive ∧ s.fld R.PMC_SAMPLE [] 23 0 ≠ 0 ∧ (after .pmcSampleTick s).rd R.PMC_SNAP [31] = 9 := by decide +kernel

theorem witness_pmcCounterWrap : let s := upWith [(R.PMC_CTRL, [], 1), (R.PMC_CNT, [31], 9)]
    s.isLive ∧ s.bit R.PMC_CTRL [] 0 = true ∧ (after (.pmcCounterWrap 31) s).rd R.PMC_CNT [31] = 0
    ∧ (after (.pmcCounterWrap 31) s).rd R.PMC_OVF [] = 0x80000000 := by decide +kernel

theorem witness_pcSample :
    let s := State.withImg (busyWith [(R.DBG_UNLOCK, [], 1), (R.DBG_UNLOCK_CTX_LO, [], 1), (R.DBG_PCS_CFG, [3], 1), (R.DBG_POLICY, [], 4)]) { up.img with regions := [{ part := 0, base := 0, size := 64, read := true, write := true, shared := false }] }
    s.isLive ∧ (s.coreRuns (coreId core0)).bind (s.slotAt (coreId core0)) = some slot0 ∧ s.bit R.DBG_PCS_CFG [3] 0 = true
    ∧ s.bit R.DBG_POLICY [] 2 = true ∧ slot0.qid / 256 = s.fld R.DBG_PCS_CFG [3] 6 1 ∧ s.ctxGranted 0 = true
    ∧ s.accessOk 0 0 (16 * 2 ^ s.fld R.DBG_PCS_SIZE [3] 4 0) true = true ∧ s.writeError 0 16 = none
    ∧ (after (.pcSample core0 3 0x1234 5) s).le 0 4 = 0x1234 ∧ (after (.pcSample core0 3 0x1234 5) s).rd R.DBG_PCS_WR [3] = 1 := by
  decide +kernel

theorem witness_traceRingEnable : let s := upWith [(R.DBG_UNLOCK, [], 2), (R.TRC_RING_SIZE, [1], 22)]
    s.isLive ∧ s.scope 1 = true ∧ bits 0x3FF 0 0 = 1 ∧ (after (.traceRingEnable 1 0x3FF) s).rd R.TRC_RING_CFG [1] = 0x3FF
    ∧ (after (.traceRingEnable 0 0x3FF) s).rd R.TRC_RING_CFG [0] = 0x3FE := by decide +kernel

/-! ### Power (chapter 19) and keys (chapter 18) -/

theorem witness_pstateTarget : up.isUp ∧ up.bit R.PWR_CLU_PSTATE [15] 15 = false ∧ 15 / 8 < up.dev.assembly.computeDies
    ∧ (after (.pstateTarget 15 7) up).bit R.PWR_CLU_PSTATE [15] 15 = true := by decide +kernel

theorem witness_pstateTarget_busy : let s := after (.pstateTarget 0 3) up
    s.isUp ∧ s.bit R.PWR_CLU_PSTATE [0] 15 = true ∧ (after (.pstateTarget 0 5) s).fld R.PWR_CLU_PSTATE [0] 2 0 = 5 := by decide +kernel

theorem witness_dvfsTransitionEnd : let s := after (.pstateTarget 0 7) up
    s.isUp ∧ s.bit R.PWR_CLU_PSTATE [0] 15 = true ∧ (after (.dvfsTransitionEnd 0) s).fld R.PWR_CLU_PSTATE [0] 14 12 = 7 := by
  decide +kernel

theorem witness_powerCheck : up.isUp ∧ up.bit R.PWR_CTRL [] 0 = true ∧ 1000 * up.fld R.PWR_PKG_CEIL [] 7 0 < 180001
    ∧ up.pwr.throttling = false ∧ (after (.powerCheck 180001) up).bit R.PWR_STATUS [] 0 = true := by decide +kernel

theorem witness_currentFastLimit : up.isUp ∧ 1 < up.dev.assembly.computeDies
    ∧ (after (.currentFastLimit 1 true) up).bit R.PWR_STATUS [] 2 = true := by decide +kernel

set_option maxRecDepth 4000 in
theorem witness_railCurrentPoll : up.isUp
    ∧ (after (.railCurrentPoll ((Vector.replicate 12 (some 5)).set 11 none)) up).rd R.PWR_RAIL_CUR [11] = 0xFFFF
    ∧ (after (.railCurrentPoll ((Vector.replicate 12 (some 5)).set 11 none)) up).rd R.PWR_RAIL_CUR [0] = 5 := by decide +kernel

theorem witness_thermalSample : up.isUp ∧ up.dev.resetAsked = none ∧ up.pwr.hot = []
    ∧ (after (.thermalSample (Vector.replicate 25 0x7FFF)) up).rd R.PWR_TEMP [24] = 0x7FFF := by decide +kernel

theorem witness_thermalTrip : let s := after (.thermalSample (Vector.replicate 25 0x7FFF)) up
    s.isUp ∧ 24 ∈ s.pwr.hot ∧ s.dev.assembly.hasSensor 24 = true
    ∧ (after (.thermalSample (Vector.replicate 25 0x7FFF)) s).fld R.ERR_RESET_CAUSE [] 7 0 = 4 := by decide +kernel

theorem witness_powerGoodLoss : let s := up.withPwr { up.pwr with enMem := true }
    s.isUp ∧ s.pwr.enMem = true ∧ (after (.powerGoodLoss 2) s).bit R.ERR_STATUS [] 0 = true
    ∧ (after (.powerGoodLoss 2) s).pwr.enMem = false := by decide +kernel

theorem witness_domainGate : up.isLive ∧ domainOf (.pipe 4) ∉ up.pwr.gated ∧ up.gateable (.pipe 4) = true
    ∧ (after (.domainGate (.pipe 4)) up).pwr.gated = [.pipe 4] := by decide +kernel

theorem witness_domainWakeEnd : let s := up.withPwr { up.pwr with gated := [.capture] }
    s.isLive ∧ domainOf .capture ∈ s.pwr.gated ∧ (after (.domainWakeEnd .capture) s).pwr.gated = [] := by decide +kernel

theorem witness_selfRefreshEntry : up.isLive ∧ 3 < up.dev.assembly.stacks ∧ up.srSince 3 = none
    ∧ up.tolerances (Vector.replicate 4 0) = [] ∧ (∀ k, k < 4 → up.bit R.TIM_LCH_CFG [k] 0 = false)
    ∧ (after (.selfRefreshEntry 3 (Vector.replicate 4 0)) up).srSince 3 = some 0 := by decide +kernel

theorem witness_selfRefreshExit : let s := after (.selfRefreshEntry 3 (Vector.replicate 4 0)) up
    s.isLive ∧ s.srSince 3 = some 0 ∧ (after (.selfRefreshExit 3 9) s).rd R.PWR_SR_WAKESTALL [3] = 9 := by decide +kernel

theorem witness_secProvision : let s := upWith [(R.BRG_READY, [], 1), (R.SEC_ID_SRC_HI, [], 0x8000)]
    s.isLive ∧ s.sec.op = none ∧ s.bit R.BRG_READY [] 0 = true ∧ s.sealed = false ∧ s.idLoaded = false
    ∧ inHub (s.rdAddr R.SEC_ID_SRC_LO R.SEC_ID_SRC_HI []) 16 2416 = true
    ∧ (after .secProvision s).sec.op = some 0 ∧ (after .secUnwrap s).sec.op = some 1 := by decide +kernel

theorem witness_secAttest : let s := upWith [(R.SEC_STATUS, [], 2), (R.SEC_ATT_DST_HI, [], 0x8000), (R.SEC_SK_SRC_HI, [], 0x8000)]
    s.isLive ∧ s.sec.op = none ∧ s.idLoaded = true ∧ s.sealed = false
    ∧ inHub (s.rdAddr R.SEC_ATT_DST_LO R.SEC_ATT_DST_HI []) 64 672 = true
    ∧ inHub (s.rdAddr R.SEC_SK_SRC_LO R.SEC_SK_SRC_HI []) 16 384 = true
    ∧ (after .secAttest s).sec.op = some 2 ∧ (after .secSkLoad s).sec.op = some 3 := by decide +kernel

theorem witness_secSkLoad_sealed : let s := upWith [(R.SEC_STATUS, [], 2), (R.BRG_QZI_STATUS, [], 4)]
    s.isLive ∧ s.sec.op = none ∧ s.idLoaded = true ∧ s.sealed = true
    ∧ populated s.dev.assembly (s.rdAddr R.SEC_SK_SRC_LO R.SEC_SK_SRC_HI []) 384 = true
    ∧ (after .secSkLoad s).sec.opAddr = 0 := by decide +kernel

theorem witness_secOperationEnd : let s := (upWith [(R.SEC_STATUS, [], 1)]).withSec { up.sec with op := some 3 }
    s.isLive ∧ s.sec.op = some 3 ∧ (after (.secOperationEnd true) s).sec.op = none
    ∧ (after (.secOperationEnd true) s).fld R.SEC_STATUS [] 15 8 = 2 := by decide +kernel

theorem witness_attestation_end :
    let k : RsaKey := { modulus := 15, p := 3, q := 5, dp := 1, dq := 1, qinv := 2 }
    let s := up.withSec { up.sec with op := some 2, opAddr := 0x800000000000, identity := some k }
    s.isLive ∧ s.sec.op = some 2 ∧ s.sec.identity = some k ∧ s.err.bad = [] := by decide +kernel

theorem witness_secSkCommit : let s := State.withSec (upWith [(R.BRG_QZI_STATUS, [], 4), (R.SCT_STATUS, [], 0x50000)]) { up.sec with pendingKey := some [1], currentKey := some [2] }
    s.isLive ∧ s.sec.op = none ∧ s.sealed = true ∧ (after .secSkCommit s).sec.currentKey = some [1]
    ∧ (after .secSkCommit s).sec.oldKeys = [(4, [2])] := by decide +kernel

theorem witness_key_refusals : let s := up.withSec { up.sec with op := some 0 }
    s.isLive ∧ s.sec.op.isSome = true ∧ (after .secAttest s).fld R.SEC_STATUS [] 15 8 = 1
    ∧ up.idLoaded = false ∧ (after .secAttest up).fld R.SEC_STATUS [] 15 8 = 2
    ∧ up.sec.pendingKey = none ∧ (after .secSkCommit up).fld R.SEC_STATUS [] 15 8 = 8 := by decide +kernel

end Sys2Proof.Tests
end

section
/-! SUPPORT. The register that lies at a CFG address, and facts about the register map as a whole (R9, R24). -/

namespace Sys2Proof.Machine

/-- The indices that `locateOffset` finds lie at the offset. -/
theorem regOffset_of_locateOffset {ds : List (Nat × Nat)} {off : Nat} {ix : List Nat} (h : locateOffset ds off = some ix) :
    regOffset ds ix = off := by
  induction ds generalizing off ix with
  | nil =>
    simp only [locateOffset, Option.ite_none_right_eq_some] at h
    obtain ⟨rfl, -⟩ := h
    simp [regOffset]
  | cons d ds ih =>
    obtain ⟨n, stride⟩ := d
    simp only [locateOffset, Option.ite_none_right_eq_some, Option.map_eq_some_iff] at h
    obtain ⟨-, jx, hj, rfl⟩ := h
    rw [regOffset, ih hj, Nat.mul_comm]
    exact Nat.div_add_mod off stride

/-- The register that `findReg` finds is of the list, and lies at the address. -/
theorem findReg_some {rs : List Reg} {a : Nat} {r : Reg} {ix : List Nat} (h : findReg rs a = some (r, ix)) :
    r ∈ rs ∧ locate r a = some ix := by
  induction rs with
  | nil => simp [findReg] at h
  | cons q qs ih =>
    rw [findReg] at h
    split at h
    · next jx hj =>
      split at h
      · simp only [Option.some.injEq, Prod.mk.injEq] at h
        obtain ⟨rfl, rfl⟩ := h
        exact ⟨List.mem_cons_self, hj⟩
      · exact (ih h).imp_left (List.mem_cons_of_mem q)
    · exact (ih h).imp_left (List.mem_cons_of_mem q)

/-- What is located at an address has that address. -/
theorem regAddr_of_locate {r : Reg} {a : Nat} {ix : List Nat} (h : locate r a = some ix) : regAddr r ix = a := by
  simp only [locate, Option.ite_none_right_eq_some] at h
  obtain ⟨hb, hl⟩ := h
  rw [regAddr, regOffset_of_locateOffset hl]
  omega

theorem regAddr_of_findReg {rs : List Reg} {a : Nat} {r : Reg} {ix : List Nat} (h : findReg rs a = some (r, ix)) :
    regAddr r ix = a := regAddr_of_locate (findReg_some h).2

/-- No two registers of the map have the same first address. -/
theorem regTable_bases_nodup : (R.regTable.map Reg.base).Nodup := by decide +kernel

theorem reg_eq_of_base {r q : Reg} (hr : r ∈ R.regTable) (hq : q ∈ R.regTable) (h : r.base = q.base) : r = q :=
  List.inj_on_of_nodup_map regTable_bases_nodup hr hq h

/-- The registers of the map with an RWL field: none is shadowed, has W1C bits or gives a bit two codes, and a write of one only
stores but for three. -/
theorem rwl_reg_cases : ∀ r ∈ R.regTable, r.rwl ≠ 0 → r.shadowed = false ∧ r.w1c = 0 ∧ r.rwl &&& r.rw = 0 ∧
    ((forReg writeHooks r).isNone = true ∨ r.base = R.DSP_MAP.base ∨ r.base = R.EDP_SRC.base ∨ r.base = R.ETH_GCL_TIME.base) := by
  decide +kernel

end Sys2Proof.Machine
end

section
/-! PROOFS. Writes of registers: by access code, and to where no register is written (R9, R10, R334). Settles O39. -/

namespace Sys2Proof.Machine

theorem exec_registerWrite (a v : Word) (s : State) :
    exec (.registerWrite a v) s = s.mayReset fun s => (s.cfgWrite a.toNat v).1 := rfl

/-- A command that asked for no device reset leaves what its effect leaves, with the queue and the reset pin as they were. -/
theorem State.mayReset_next (s : State) (f : State → State) (hu : s.isUp) (hd : (f s).dev = s.dev)
    (hr : s.dev.resetAsked = none) : s.mayReset f = .next { f s with pending := s.pending } := by
  have hin : { (f s).dev with inReset := false } = (f s).dev := by
    rw [hd, ← hu]
  simp only [State.mayReset, hu, Bool.false_eq_true, if_false]
  rw [State.settle_next _ _ (hd ▸ hr), hin]

/-- A command without effect, on a device of which no reset is asked. -/
theorem State.mayReset_next_self (s : State) (f : State → State) (hu : s.isUp) (hf : f s = s)
    (hr : s.dev.resetAsked = none) : s.mayReset f = .next s := by
  rw [State.mayReset_next s f hu (by rw [hf]) hr, hf]

/-- A write that reaches the register it names (R9, R10). -/
theorem State.cfgWrite_writable (s : State) {a : Nat} (v : Word) {r : Reg} {ix : List Nat} (hf : findReg R.regTable a = some (r, ix))
    (hw : s.writable a) : s.cfgWrite a v = s.writeReg r ix v := by
  obtain ⟨h4, hfatal, hset, hdie, hstop, hstag, hdbg⟩ := hw
  simp [State.cfgWrite, h4, hfatal, hset, hdie, hstop, hstag, hf, hdbg]

/-- A write that reaches no register (R10, R334). -/
theorem State.cfgWrite_nowhere (s : State) (a : Nat) (v : Word) (hs : inStaging a = false)
    (h : findReg R.regTable a = none ∨ a % 4 ≠ 0 ∨ (s.sealed = false ∧ inBringupSet a = false)) : (s.cfgWrite a v).1 = s := by
  unfold State.cfgWrite
  split
  · rfl
  · next h4 =>
    split
    · rfl
    · split
      · rfl
      · next hreach =>
        obtain hnone | hmis | ⟨hseal, hset⟩ := h
        · simp [hs, hnone]
        · exact absurd hmis h4
        · simp [hseal, hset] at hreach

/-- A register that only stores takes a write by its access codes. -/
theorem State.writeReg_storesOnly (s : State) {r : Reg} (ix : List Nat) (v : Word) (h : storesOnly r) :
    s.writeReg r ix v = s.mergeWrite r ix v := by
  obtain ⟨hhook, hshadow⟩ := h
  simp [State.writeReg, Option.isNone_iff_eq_none.mp hhook, hshadow]

/-- What a write leaves in a bit of a register, by its access codes (R9, R11). -/
theorem State.rd_mergeWrite (s : State) (r : Reg) (ix : List Nat) (v : Word) (i : Nat) (hi : i < 32) :
    ((s.mergeWrite r ix v).1.rd r ix).getLsbD i =
      if r.w1c.getLsbD i && v.getLsbD i then false
      else if r.rw.getLsbD i || (r.rwl.getLsbD i && !s.sealed) then v.getLsbD i else (s.rd r ix).getLsbD i := by
  have hrwl : (if (s.sealed && r.rwl != 0) then (0 : BitVec 32) else r.rwl).getLsbD i = (r.rwl.getLsbD i && !s.sealed) := by
    cases s.sealed with
    | false => simp
    | true =>
      by_cases hr : r.rwl = 0
      · simp [hr]
      · rw [bne_iff_ne.mpr hr]
        simp
  simp only [State.mergeWrite, State.rd_poke_self, BitVec.getLsbD_and, BitVec.getLsbD_or, BitVec.getLsbD_not, hrwl, hi]
  generalize (r.rw.getLsbD i || (r.rwl.getLsbD i && !s.sealed)) = taken
  cases taken with
  | false => cases r.w1c.getLsbD i <;> simp [Bool.and_comm]
  | true => cases r.w1c.getLsbD i <;> simp

/-- Every register at another address is as it was. -/
theorem sameRegsBut_poke (s : State) (r : Reg) (ix : List Nat) (v : Word) : sameRegsBut [regAddr r ix] s (s.poke r ix v) :=
  fun a ha => State.cfgGet_poke_ne s r ix v a (by simpa using ha)

/-- A register outside the addresses excepted reads as before. -/
theorem rd_of_sameRegsBut {addrs : List Nat} {s t : State} (h : sameRegsBut addrs s t) {r : Reg} {ix : List Nat}
    (hr : regAddr r ix ∉ addrs) : t.rd r ix = s.rd r ix := by
  rw [State.rd, State.rd, h _ hr]

end Sys2Proof.Machine

open Sys2Proof Sys2Proof.Machine

/-- Settles O39: `State.cfgWrite` reaches the register that lies at the address, and merges by the access codes; or it answers its
state unchanged. -/
theorem registerWritesStore : Obligations.RegisterWritesStore := by
  unfold Obligations.RegisterWritesStore
  refine ⟨?_, ?_⟩
  · intro s a v r ix hu hr hf hst hw
    have hwrite : (s.cfgWrite a.toNat v).1 = (s.mergeWrite r ix v).1 := by
      rw [s.cfgWrite_writable v hf hw, s.writeReg_storesOnly ix v hst]
    refine ⟨_, (exec_registerWrite a v s).trans (State.mayReset_next s _ hu (by rw [hwrite]; rfl) hr), ?_⟩
    rw [hwrite]
    refine ⟨changesOnly_kept (changesOnly_poke s r ix _), ?_, fun i hi => s.rd_mergeWrite r ix v i hi⟩
    rw [← regAddr_of_findReg hf]
    exact sameRegsBut_poke s r ix _
  · intro s a v hu hr hs h
    exact (exec_registerWrite a v s).trans
      (State.mayReset_next_self s _ hu (s.cfgWrite_nowhere a.toNat v hs h) hr)
end

section
/-! SUPPORT. What events and sent frames change: a frame that also names registers, and leaves SCT's held frames and kept responses
alone (R295, R333, R339, R340). -/

namespace Sys2Proof.Machine

/-- `t` differs from `s` in the listed parts only, of the registers at most in those at addresses `moved`, and neither in the host
frames that SCT holds nor in the responses that it keeps. -/
structure ChangesWithin (parts : List Part) (moved : Nat → Prop) (s t : State) : Prop where
  parts : changesOnly parts s t
  regs : ∀ a, ¬moved a → cfgGet t.cfg a = cfgGet s.cfg a
  held : t.sct.held = s.sct.held
  cache : t.sct.cache = s.sct.cache

namespace ChangesWithin

variable {parts more : List Part} {moved wider : Nat → Prop} {s t u : State}

theorem refl (parts : List Part) (moved : Nat → Prop) (s : State) : ChangesWithin parts moved s s :=
  ⟨changesOnly_refl parts s, fun _ _ => rfl, rfl, rfl⟩

theorem trans (h : ChangesWithin parts moved s t) (k : ChangesWithin parts moved t u) : ChangesWithin parts moved s u :=
  ⟨changesOnly_trans h.parts k.parts, fun a ha => (k.regs a ha).trans (h.regs a ha), k.held.trans h.held, k.cache.trans h.cache⟩

theorem mono (h : ChangesWithin parts moved s t) (hp : ∀ p ∈ parts, p ∈ more) (hm : ∀ a, moved a → wider a) :
    ChangesWithin more wider s t :=
  ⟨changesOnly_mono h.parts hp, fun a ha => h.regs a fun hma => ha (hm a hma), h.held, h.cache⟩

/-- A loop over a list changes what its body changes. -/
theorem foldl {α : Type} (f : State → α → State) (xs : List α) (s : State)
    (h : ∀ s, ∀ x ∈ xs, ChangesWithin parts moved s (f s x)) : ChangesWithin parts moved s (xs.foldl f s) := by
  induction xs generalizing s with
  | nil => exact refl parts moved s
  | cons x xs ih =>
    exact (h s x List.mem_cons_self).trans (ih (f s x) fun s y hy => h s y (List.mem_cons_of_mem x hy))

/-- A change outside the register file. -/
theorem of_cfg (h : changesOnly parts s t) (hc : t.cfg = s.cfg) (hh : t.sct.held = s.sct.held) (hk : t.sct.cache = s.sct.cache) :
    ChangesWithin parts moved s t := ⟨h, fun _ _ => by rw [hc], hh, hk⟩

theorem poke (s : State) (r : Reg) (ix : List Nat) (v : Word) (hp : Part.regs ∈ parts) (hm : moved (regAddr r ix)) :
    ChangesWithin parts moved s (s.poke r ix v) :=
  ⟨changesOnly_mono (changesOnly_poke s r ix v) (by simpa using hp),
    fun a ha => State.cfgGet_poke_ne s r ix v a fun e => ha (e ▸ hm), rfl, rfl⟩

theorem setFld (s : State) (r : Reg) (ix : List Nat) (hi lo v : Nat) (hp : Part.regs ∈ parts) (hm : moved (regAddr r ix)) :
    ChangesWithin parts moved s (s.setFld r ix hi lo v) := poke s r ix _ hp hm

theorem setBit (s : State) (r : Reg) (ix : List Nat) (b : Nat) (v : Bool) (hp : Part.regs ∈ parts) (hm : moved (regAddr r ix)) :
    ChangesWithin parts moved s (s.setBit r ix b v) := poke s r ix _ hp hm

theorem count (s : State) (r : Reg) (ix : List Nat) (n : Nat) (hp : Part.regs ∈ parts) (hm : moved (regAddr r ix)) :
    ChangesWithin parts moved s (s.count r ix n) := poke s r ix _ hp hm

theorem countSat (s : State) (r : Reg) (ix : List Nat) (n : Nat) (ovf : Reg) (oix : List Nat) (b : Nat) (hp : Part.regs ∈ parts)
    (hm : moved (regAddr r ix)) (ho : moved (regAddr ovf oix)) : ChangesWithin parts moved s (s.countSat r ix n ovf oix b) := by
  unfold State.countSat
  dsimp only
  split
  · exact refl parts moved s
  · split
    · exact (poke s r ix _ hp hm).trans (setBit _ ovf oix b true hp ho)
    · exact poke s r ix _ hp hm

theorem draw (s : State) (hp : Part.free ∈ parts) : ChangesWithin parts moved s s.draw :=
  of_cfg (changesOnly_mono (changesOnly_draw s) (by simpa using hp)) rfl rfl rfl

/-- Registers outside those moved read as before. -/
theorem rd (h : ChangesWithin parts moved s t) {r : Reg} {ix : List Nat} (hr : ¬moved (regAddr r ix)) : t.rd r ix = s.rd r ix := by
  rw [State.rd, State.rd, h.regs _ hr]

theorem fld (h : ChangesWithin parts moved s t) {r : Reg} {ix : List Nat} (hr : ¬moved (regAddr r ix)) (hi lo : Nat) :
    t.fld r ix hi lo = s.fld r ix hi lo := by rw [State.fld, State.fld, h.rd hr]

theorem bit (h : ChangesWithin parts moved s t) {r : Reg} {ix : List Nat} (hr : ¬moved (regAddr r ix)) (b : Nat) :
    t.bit r ix b = s.bit r ix b := by rw [State.bit, State.bit, h.fld hr]

theorem dev (h : ChangesWithin parts moved s t) (hp : Part.dev ∉ parts) : t.dev = s.dev := h.parts .dev hp

end ChangesWithin

/-! ### Changes of one part -/

theorem changesOnly_withEth (s : State) (x : EthState) : changesOnly [.eth] s (s.withEth x) := by
  intro p hp
  cases p
  case eth => simp at hp
  all_goals rfl

theorem changesOnly_withSct (s : State) (x : SctState) : changesOnly [.sct] s (s.withSct x) := by
  intro p hp
  cases p
  case sct => simp at hp
  all_goals rfl

theorem changesOnly_withBrg (s : State) (x : BrgState) : changesOnly [.brg] s (s.withBrg x) := by
  intro p hp
  cases p
  case brg => simp at hp
  all_goals rfl

theorem changesOnly_withDsp (s : State) (x : DspState) : changesOnly [.dsp] s (s.withDsp x) := by
  intro p hp
  cases p
  case dsp => simp at hp
  all_goals rfl

theorem changesOnly_withCfg (s : State) (x : List (Nat × Word)) : changesOnly [.regs] s (s.withCfg x) := by
  intro p hp
  cases p
  case regs => simp at hp
  all_goals rfl

/-! ### Event records (R339, R340) -/

section Events
variable {parts : List Part} {moved : Nat → Prop} (s : State) (hr : Part.regs ∈ parts) (hs : Part.sct ∈ parts)
  (hm : ∀ a ∈ eventRegs, moved a)
include hr hs hm

theorem queueEvent_within (cls inst code : Nat) (payload : List Byte) :
    ChangesWithin parts moved s (s.queueEvent cls inst code payload) := by
  have hsct (s : State) (x : SctState) (hh : x.held = s.sct.held) (hc : x.cache = s.sct.cache) :
      ChangesWithin parts moved s (s.withSct x) :=
    .of_cfg (changesOnly_mono (changesOnly_withSct s x) (by simpa using hs)) rfl hh hc
  unfold State.queueEvent State.putSource
  dsimp only
  split
  · exact (hsct s _ rfl rfl).trans (hsct _ _ rfl rfl)
  · refine ChangesWithin.trans ?_ (.setBit _ _ _ _ _ hr (hm _ (by decide)))
    refine ChangesWithin.trans ?_ (.countSat _ _ _ _ _ _ _ hr (hm _ (by decide)) (hm _ (by decide)))
    exact hsct s _ rfl rfl

theorem event_within (hf : Part.free ∈ parts) (cls inst code : Nat) (payload : List Byte) :
    ChangesWithin parts moved s (s.event cls inst code payload) := by
  unfold State.event
  split
  · exact (ChangesWithin.draw s hf).trans (queueEvent_within _ hr hs hm _ _ _ _)
  · exact queueEvent_within s hr hs hm _ _ _ _

theorem eventOpen_within (hf : Part.free ∈ parts) (cls inst : Nat) (payload : List Byte) :
    ChangesWithin parts moved s (s.eventOpen cls inst payload) :=
  (ChangesWithin.draw s hf).trans (event_within _ hr hs hm hf _ _ _ _)

end Events

/-! ### Sending (R295, R333) -/

/-- The parts that sending a frame changes. -/
abbrev sendParts : List Part := [.free, .regs, .eth, .sct]

/-- The registers that a port counts in when it sends. -/
theorem sendRegs_of_port : ∀ p, p < 2 → regAddr R.ETH_CNT_TX [p] ∈ sendRegs ∧ regAddr R.ETH_CNT_DEST_DROP [p] ∈ sendRegs
    ∧ regAddr R.ETH_CNT_EGRESS_DROP [p] ∈ sendRegs ∧ regAddr R.ETH_CNT_OVF [p] ∈ sendRegs := by decide

theorem eventRegs_sub_sendRegs : ∀ a ∈ eventRegs, a ∈ sendRegs := by decide

theorem withEth_within (s : State) (x : EthState) : ChangesWithin sendParts (· ∈ sendRegs) s (s.withEth x) :=
  .of_cfg (changesOnly_mono (changesOnly_withEth s x) (by decide)) rfl rfl rfl

theorem transmit_within (s : State) (p : Nat) (hp : p < 2) (f : TxFrame) :
    ChangesWithin sendParts (· ∈ sendRegs) s (s.transmit p f) :=
  (withEth_within s _).trans (.count _ _ _ _ (by decide) (sendRegs_of_port p hp).1)

theorem sendOn_within (s : State) (f : TxFrame) (p : Nat) (hp : p < 2) :
    ChangesWithin sendParts (· ∈ sendRegs) s (s.sendOn f p) := by
  obtain ⟨-, hdest, hegress, hovf⟩ := sendRegs_of_port p hp
  unfold State.sendOn
  dsimp only
  split
  · exact .refl _ _ s
  · split
    · exact (ChangesWithin.countSat s _ _ _ _ _ _ (by decide) hdest hovf).trans
        (eventOpen_within _ (by decide) (by decide) eventRegs_sub_sendRegs (by decide) _ _ _)
    · split
      · split
        · exact .countSat s _ _ _ _ _ _ (by decide) hegress hovf
        · exact withEth_within s _
      · split
        · exact transmit_within s p hp f
        · exact withEth_within s _

theorem send_within (s : State) (f : TxFrame) (h : ∀ p ∈ f.ports, p < 2) :
    ChangesWithin sendParts (· ∈ sendRegs) s (s.send f) :=
  .foldl _ _ s fun s p hp => sendOn_within s f p (h p hp)

/-- The session's ports are ports of the device. -/
theorem outPorts_lt (s : State) (own : Nat) (h : own < 2) : ∀ p ∈ s.outPorts own, p < 2 := by
  have hstrap : s.fld R.BRG_STRAP [] 0 0 < 2 := Nat.mod_lt _ (by decide)
  intro p hp
  unfold State.outPorts State.sctPorts at hp
  split at hp
  · simp_all
  · split at hp <;> simp at hp <;> omega

theorem post_within (s : State) (f : TxFrame) (h : f.dst.port < 2) : ChangesWithin sendParts (· ∈ sendRegs) s (s.post f) := by
  unfold State.post
  dsimp only
  split
  · exact (withEth_within s _).trans (send_within _ _ (outPorts_lt s _ h))
  · exact send_within s _ (outPorts_lt s _ h)

end Sys2Proof.Machine
end

section
/-! SUPPORT. A host frame whose turn it is: what receiving it changes, that its items are applied, and how it is answered (R322, R328,
R330). -/

namespace Sys2Proof.Machine

/-! ### Receiving (R322, R324) -/

/-- The parts that a frame changes that reaches a port. -/
abbrev receiveParts : List Part := [.regs, .eth]

theorem changesOnly_receive_withEth (s : State) (x : EthState) : changesOnly receiveParts s (s.withEth x) :=
  changesOnly_mono (changesOnly_withEth s x) (by decide)

theorem changesOnly_receive_countSat (s : State) (r : Reg) (ix : List Nat) (n : Nat) (ovf : Reg) (oix : List Nat) (b : Nat) :
    changesOnly receiveParts s (s.countSat r ix n ovf oix b) := changesOnly_mono (changesOnly_countSat _ _ _ _ _ _ _) (by decide)

theorem changesOnly_receive_countTop (s : State) (r : Reg) (ix : List Nat) (n : Nat) :
    changesOnly receiveParts s (s.countTop r ix n) := changesOnly_mono (changesOnly_countTop _ _ _ _) (by decide)

theorem changesOnly_police (s : State) (p : Nat) (f : RxFrame) : changesOnly receiveParts s (s.police p f).1 := by
  have hmeter (m bytes : Nat) : changesOnly receiveParts s (s.meterTakes p m bytes).1 := changesOnly_receive_withEth s _
  unfold State.police
  split
  · exact changesOnly_refl _ s
  · extract_lets act sdu big
    split
    next t ok heq =>
    have ht : changesOnly receiveParts s (t, ok).1 := by
      rw [← heq]
      split
      · exact changesOnly_refl _ s
      · split
        · exact hmeter _ _
        · exact changesOnly_refl _ s
    split
    · exact ht
    · exact changesOnly_trans ht (changesOnly_trans (changesOnly_receive_countTop _ _ _ _) (changesOnly_receive_countSat _ _ _ _ _ _ _))

theorem changesOnly_recover (s : State) (r seq : Nat) : changesOnly receiveParts s (s.recover r seq).1 := by
  unfold State.recover State.putRecovery
  dsimp only
  split
  · exact changesOnly_receive_withEth s _
  · split
    · split
      · exact changesOnly_refl _ s
      · exact changesOnly_receive_withEth s _
    · split
      · exact changesOnly_trans (changesOnly_receive_withEth s _) (changesOnly_receive_countTop _ _ _ _)
      · exact changesOnly_refl _ s

/-- A frame that reaches a port changes counters, meters and sequence histories only. -/
theorem changesOnly_receive (s : State) (f : RxFrame) : changesOnly receiveParts s (s.receive f).1 := by
  unfold State.receive
  extract_lets p s1 s2 s3
  split
  · exact changesOnly_refl _ s
  · have h1 : changesOnly receiveParts s s1 := by
      unfold s1
      split
      · exact changesOnly_receive_countSat _ _ _ _ _ _ _
      · exact changesOnly_refl _ s
    have h2 : changesOnly receiveParts s s2 := by
      unfold s2
      split
      · exact changesOnly_trans h1 (changesOnly_receive_countSat _ _ _ _ _ _ _)
      · exact h1
    split
    · exact h2
    · have h3 : changesOnly receiveParts s s3 := changesOnly_trans h2 (changesOnly_mono (changesOnly_count _ _ _ _) (by decide))
      have hpolice := changesOnly_trans h3 (changesOnly_police s3 p f)
      split
      · exact h3
      · split
        · next heq => rwa [heq] at hpolice
        · next heq =>
          rw [heq] at hpolice
          split
          · exact changesOnly_trans hpolice (changesOnly_recover _ _ _)
          · exact hpolice

/-! ### The answer to a host frame (R328, R330) -/

/-- Where a host frame came from. -/
def senderOf (f : RxFrame) : HostAddr := { port := f.port.val, mac := f.src, encap := f.encap }

/-- The state in which the items of a host frame are applied: the next number has moved on, the frame is counted, and its sender is
known (R328, R330). -/
def State.admitted (s : State) (f : RxFrame) : State :=
  let t := s.advance.count R.SCT_CNT_RX [] 1
  t.withSct { t.sct with applied := true, lastSource := some (senderOf f) }

/-- Where the first item lies that was refused, or the number of items. -/
def ItemRun.firstBad (r : ItemRun) : Nat := r.statuses.findIdx fun st => st != 0

/-- The response to a host frame, once its items are applied. -/
def ItemRun.response (r : ItemRun) (f : RxFrame) (esn : Nat) : DeviceMsg :=
  { kind := .response, op := 0x10, stream := 0, unseq := false, seq := f.seq.toNat, esn := esn,
    status := r.statuses.getD r.firstBad 0, badIndex := if r.firstBad < r.statuses.length then r.firstBad else 0xFFFF,
    pcpBit := 13, payload := r.data }

/-- The frame of the response, and the state once it is built. -/
def State.builtResponse (s : State) (r : ItemRun) (f : RxFrame) (esn : Nat) : State × TxFrame :=
  s.buildFrame (r.response f esn) (senderOf f) (s.keyOf esn)

/-- SCT keeps its last 64 responses (R330). -/
def State.keepResponse (s : State) (e : CachedResponse) : State :=
  s.withSct { s.sct with cache := (s.sct.cache ++ [e]).drop ((s.sct.cache ++ [e]).length - 64) }

/-- The response is kept and sent. -/
def State.responded (s : State) (r : ItemRun) (f : RxFrame) (esn : Nat) : State :=
  ((s.builtResponse r f esn).1.keepResponse { seq := f.seq.toNat, frame := (s.builtResponse r f esn).2 }).post
    (s.builtResponse r f esn).2

theorem applyFrame_eq (s : State) (op : Nat) (f : RxFrame) (esn : Nat) :
    s.applyFrame op f esn =
      ((s.admitted f).items op f.payload).1.responded ((s.admitted f).items op f.payload).2 f esn := rfl

theorem advance_within (s : State) : ChangesWithin [.regs, .sct] (· ∈ frameRegs) s s.advance := by
  unfold State.advance
  dsimp only
  have hset := ChangesWithin.setFld (parts := [.regs, .sct]) (moved := (· ∈ frameRegs)) s R.SCT_STATUS [] 31 16
    ((s.nExp + 1) % 65536) (by decide) (by decide)
  split
  · exact hset.trans ((ChangesWithin.poke _ _ _ _ (by decide) (by decide)).trans (.poke _ _ _ _ (by decide) (by decide)))
  · exact hset

theorem admitted_within (s : State) (f : RxFrame) : ChangesWithin [.regs, .sct] (· ∈ frameRegs) s (s.admitted f) :=
  ((advance_within s).trans (.count _ _ _ _ (by decide) (by decide))).trans
    (.of_cfg (changesOnly_mono (changesOnly_withSct _ _) (by decide)) rfl rfl rfl)

/-- The next number moves on by one (R330). -/
theorem nExp_advance (s : State) : s.advance.nExp = (s.nExp + 1) % 65536 := by
  unfold State.advance
  extract_lets n t
  have ht : t.nExp = (s.nExp + 1) % 65536 := by
    simp [t, n, State.nExp]
  split
  · have hepoch : ChangesWithin [.regs] (· ∈ [regAddr R.SCT_EPOCH_LO [], regAddr R.SCT_EPOCH_HI []]) t
        (t.poke64 R.SCT_EPOCH_LO R.SCT_EPOCH_HI [] ((s.rd64 R.SCT_EPOCH_LO R.SCT_EPOCH_HI [] + 1) % 2 ^ 48)) :=
      (ChangesWithin.poke _ _ _ _ (by decide) (by decide)).trans (.poke _ _ _ _ (by decide) (by decide))
    exact (hepoch.fld (by decide) _ _).trans ht
  · exact ht

theorem nExp_admitted (s : State) (f : RxFrame) : (s.admitted f).nExp = (s.nExp + 1) % 65536 := by
  have hcount : ChangesWithin [.regs] (· = regAddr R.SCT_CNT_RX []) s.advance (s.advance.count R.SCT_CNT_RX [] 1) :=
    .count _ _ _ _ (by decide) rfl
  exact (hcount.fld (by decide) 31 16).trans (nExp_advance s)

theorem buildFrame_within (s : State) (m : DeviceMsg) (dst : HostAddr) (key : Option (List Byte)) :
    ChangesWithin sendParts (· ∈ sendRegs) s (s.buildFrame m dst key).1 := by
  unfold State.buildFrame State.deviceTag
  dsimp only
  split
  · exact .refl _ _ s
  · cases key with
    | some k => exact .refl _ _ s
    | none => exact .draw s (by decide)

/-- The header bytes of a device frame that name its op, its status and its first item refused (Table 14.3). -/
theorem buildFrame_header (s : State) (m : DeviceMsg) (dst : HostAddr) (key : Option (List Byte)) :
    let h := (s.buildFrame m dst key).2.header
    h.getD 2 0 = BitVec.ofNat 8 m.op ∧ h.getD 8 0 = BitVec.ofNat 8 m.status ∧ sliceBytes h 10 2 = leBytes 2 m.badIndex := by
  refine ⟨rfl, rfl, rfl⟩

theorem mem_keepResponse (s : State) (e : CachedResponse) : e ∈ (s.keepResponse e).sct.cache := by
  have hlen : (s.sct.cache ++ [e]).length - 64 ≤ s.sct.cache.length := by simp
  change e ∈ (s.sct.cache ++ [e]).drop _
  rw [List.drop_append_of_le_length hlen]
  exact List.mem_append_right _ (List.mem_singleton_self e)

/-- The response is the last of those kept, and goes out to the ports of the session. -/
theorem responded_spec (s : State) (r : ItemRun) (f : RxFrame) (esn : Nat) :
    changesOnly sendParts s (s.responded r f esn) ∧ sameRegsBut sendRegs s (s.responded r f esn)
      ∧ (s.responded r f esn).sct.held = s.sct.held
      ∧ ∃ e ∈ (s.responded r f esn).sct.cache, e.seq = f.seq.toNat ∧ e.frame.payload = r.data ∧ e.frame.header.getD 2 0 = 0x10
        ∧ e.frame.header.getD 8 0 = BitVec.ofNat 8 (r.statuses.getD r.firstBad 0)
        ∧ sliceBytes e.frame.header 10 2 = leBytes 2 (if r.firstBad < r.statuses.length then r.firstBad else 0xFFFF) := by
  have hbuild : ChangesWithin sendParts (· ∈ sendRegs) s (s.builtResponse r f esn).1 := buildFrame_within _ _ _ _
  have hkeep (t : State) (e : CachedResponse) : changesOnly sendParts t (t.keepResponse e) :=
    changesOnly_mono (changesOnly_withSct _ _) (by decide)
  have hpost (t : State) : ChangesWithin sendParts (· ∈ sendRegs) t (t.post (s.builtResponse r f esn).2) :=
    post_within t _ f.port.isLt
  refine ⟨changesOnly_trans hbuild.parts (changesOnly_trans (hkeep _ _) (hpost _).parts),
    fun a ha => ((hpost _).regs a ha).trans (hbuild.regs a ha), (hpost _).held.trans hbuild.held,
    _, (hpost _).cache ▸ mem_keepResponse _ _, rfl, rfl, ?_⟩
  exact buildFrame_header s (r.response f esn) (senderOf f) (s.keyOf esn)

/-! ### A host frame whose turn it is (R326, R328, R330) -/

/-- With no frame held, none follows. -/
theorem applyHeld_of_held_nil (n : Nat) (s : State) (h : s.sct.held = []) : State.applyHeld n s = s := by
  cases n with
  | zero => rfl
  | succ n => simp [State.applyHeld, h]

/-- `t` keeps what the turn of a host frame rests on: the device, the frames held, and the next number. -/
structure KeepsTurn (s t : State) : Prop where
  dev : t.dev = s.dev
  held : t.sct.held = s.sct.held
  status : t.rd R.SCT_STATUS [] = s.rd R.SCT_STATUS []

/-- A frame whose turn it is applies its items, in the state that admitted it, and is answered. -/
theorem hostFrame_of_turn {s u : State} {op : Nat} {f : RxFrame} (h : s.turnOf u op f) (hop : op ≠ 6) :
    s.hostFrame op f = State.applyHeld ((u.applyFrame op f u.nextEsn).sct.held.length + 1) (u.applyFrame op f u.nextEsn) := by
  obtain ⟨-, -, hrecv, hup, hport, hencap, htags, hok, hseq, hauth, -⟩ := h
  have hd : (f.seq.toNat + 65536 - u.nExp) % 65536 = 0 := by omega
  have hmem : f.port.val ∈ u.sctPorts := by simpa using hport
  simp [State.hostFrame, hrecv, hup, hmem, hencap, htags, hok, hop, State.sequenced, hd, hauth]

/-- The answer to a frame whose turn it is, and what the response leaves of the state `w` in which its items are applied, where they
keep the turn. -/
theorem answered_of_turn {s u w : State} {op : Nat} {f : RxFrame} {r : ItemRun} (h : s.turnOf u op f) (hop : op ≠ 6)
    (hitems : (u.admitted f).items op f.payload = (w, r)) (hw : KeepsTurn (u.admitted f) w) :
    ∃ t, s.mayReset (State.hostFrame · op f) = .next t
      ∧ answered f (r.statuses.getD r.firstBad 0) (if r.firstBad < r.statuses.length then r.firstBad else 0xFFFF) r.data u t
      ∧ sameRegsBut sendRegs w t := by
  have hframe := hostFrame_of_turn h hop
  obtain ⟨hu, hreset, hrecv, -, -, -, -, -, -, -, hheld⟩ := h
  have hsu : changesOnly receiveParts s u := by
    have hrx := changesOnly_receive s f
    rwa [hrecv] at hrx
  have hadm := admitted_within u f
  obtain ⟨hparts, hregs, hkept, e, he, hanswer⟩ := responded_spec w r f u.nextEsn
  have hlast : s.hostFrame op f = w.responded r f u.nextEsn := by
    rw [hframe, applyFrame_eq, hitems]
    exact applyHeld_of_held_nil _ _ (hkept.trans (hw.held.trans (hadm.held.trans hheld)))
  have hdev : (s.hostFrame op f).dev = s.dev := by
    rw [hlast, show (w.responded r f u.nextEsn).dev = w.dev from hparts .dev (by decide), hw.dev, hadm.dev (by decide),
      show u.dev = s.dev from hsu .dev (by decide)]
  refine ⟨_, State.mayReset_next s _ hu hdev hreset, ?_⟩
  rw [hlast]
  refine ⟨⟨?_, ?_, e, he, hanswer⟩, hregs⟩
  · have hnum : (w.responded r f u.nextEsn).nExp = (u.admitted f).nExp := by
      rw [State.nExp, State.nExp, State.fld, State.fld, rd_of_sameRegsBut hregs (by decide), hw.status]
    exact hnum.trans (nExp_admitted u f)
  · exact (hsu .queue (by decide)).symm

/-! ### One REG_WRITE item -/

/-- A number read back from its little-endian bytes. -/
theorem ofLe_leBytes (n v : Nat) : ofLe (leBytes n v) = v % 256 ^ n := by
  induction n generalizing v with
  | zero => simp [leBytes, ofLe, Nat.mod_one]
  | succ n ih =>
    rw [leBytes, ofLe, ih, Nat.pow_succ', Nat.mod_mul]
    rfl

theorem ofLe_leBytes_word (w : Word) : ofLe (leBytes 4 w.toNat) = w.toNat := by
  rw [ofLe_leBytes]
  exact Nat.mod_eq_of_lt w.isLt

/-- The items of a REG_WRITE frame with one item. -/
theorem items_one_write (s : State) (a v : Word) : s.items 2 (leBytes 4 a.toNat ++ leBytes 4 v.toNat) =
    ((s.cfgWrite a.toNat v).1, { statuses := [(s.cfgWrite a.toNat v).2], data := [] }) := by
  have haddr : ofLe ((leBytes 4 a.toNat ++ leBytes 4 v.toNat).take 4) = a.toNat := ofLe_leBytes_word a
  have hvalue : ofLe (sliceBytes (leBytes 4 a.toNat ++ leBytes 4 v.toNat) 4 4) = v.toNat := ofLe_leBytes_word v
  have hone : (leBytes 4 a.toNat ++ leBytes 4 v.toNat).length / 8 = 1 := by simp
  change State.writeItems _ (_ / 8) s _ = _
  rw [hone]
  simp only [State.writeItems, haddr, hvalue, BitVec.ofNat_toNat, BitVec.setWidth_eq, List.nil_append]

/-! ### Reach (R334, R335, R380) -/

/-- Whether a write reaches an address rests on registers that no host frame changes before its items, and on the device. -/
theorem writable_of_within {parts : List Part} {s t : State} (h : ChangesWithin parts (· ∈ frameRegs) s t) (hd : Part.dev ∉ parts)
    {a : Nat} (hw : s.writable a) : t.writable a := by
  have hsealed : t.sealed = s.sealed := h.bit (by decide) 2
  have hfatal : t.fatal = s.fatal := h.bit (by decide) 0
  have hstopped : t.stopped = s.stopped := h.bit (by decide) 0
  have hscope (i : Nat) : t.scope i = s.scope i := h.bit (by decide) i
  have hready (b : Nat) : t.bit R.BRG_READY [] b = s.bit R.BRG_READY [] b := h.bit (by decide) b
  have habsent (d k : Nat) : t.clusterAbsent d k = s.clusterAbsent d k := h.bit (by decide) _
  have hdie : t.dieReached a = s.dieReached a := by simp only [State.dieReached, h.dev hd, hready, habsent]
  have hdebug : t.debugReach a = s.debugReach a := by simp only [State.debugReach, hscope]
  rwa [State.writable, hfatal, hsealed, hdie, hstopped, hdebug]

end Sys2Proof.Machine
end

section
/-! PROOFS. What a write of a register with an RWL field does after SEAL, by itself and as the item of a REG_WRITE frame (R11).
Settles O38. -/

namespace Sys2Proof.Machine

/-! ### The envelope flags and a late takeover (R218, R231, R300) -/

/-- The registers of the envelope flags. -/
def dspStatusRegs : List Nat := (rangeFrom 0 5).map fun p => regAddr R.DSP_STATUS [p]

theorem envFlags_within (s : State) : ChangesWithin [.regs] (· ∈ dspStatusRegs) s s.envFlags :=
  .foldl _ _ s fun s _ hp => .setBit s _ _ _ _ (by decide) (List.mem_map_of_mem hp)

/-- The CFG addresses of pipe P4 and of every block above it. -/
abbrev fromPipe4 (a : Nat) : Prop := 0x140000 ≤ a

/-- P4 leaves its clone role in its own DSP_MAP and in the EDP_SRC of the output that it fed. -/
theorem leaveClone_within (s : State) : ChangesWithin [.regs] fromPipe4 s s.leaveClone := by
  have hsrc (o : Nat) : fromPipe4 (regAddr R.EDP_SRC [o]) := by
    simp only [fromPipe4, regAddr, regOffset, R.EDP_SRC]
    omega
  have hmap : fromPipe4 (regAddr R.DSP_MAP [4]) := by decide
  unfold State.leaveClone
  dsimp only
  split
  · refine ChangesWithin.trans ?_
      ((ChangesWithin.setBit _ _ _ _ _ (by decide) hmap).trans (.setBit _ _ _ _ _ (by decide) hmap))
    split
    · exact (ChangesWithin.setFld _ _ _ _ _ _ (by decide) (hsrc _)).trans (.setBit _ _ _ _ _ (by decide) (hsrc _))
    · exact .refl _ _ s
  · exact .refl _ _ s

/-- A list of values set from address `base` on leaves the registers below. -/
theorem cfgGet_foldl_cfgSet (base : Nat) (l : List (Nat × Word)) (c : List (Nat × Word)) (a : Nat) (h : a < base) :
    cfgGet (l.foldl (fun c e => cfgSet c (base + e.1) e.2) c) a = cfgGet c a := by
  induction l generalizing c with
  | nil => rfl
  | cons e l ih => rw [List.foldl_cons, ih, cfgGet_cfgSet_ne _ _ _ _ (by omega)]

/-- Registers that a filter keeps read as before. -/
theorem cfgGet_filter (f : Nat × Word → Bool) (c : List (Nat × Word)) (a : Nat) (h : ∀ v, f (a, v) = true) :
    cfgGet (c.filter f) a = cfgGet c a := by
  induction c with
  | nil => rfl
  | cons e c ih =>
    obtain ⟨k, v⟩ := e
    by_cases hk : k = a
    · subst hk
      simp [h, cfgGet]
    · by_cases hf : f (k, v) = true <;> simp [hf, cfgGet, hk, ih]

theorem withDsp_within (s : State) (x : DspState) : ChangesWithin [.regs, .dsp] fromPipe4 s (s.withDsp x) :=
  .of_cfg (changesOnly_mono (changesOnly_withDsp s x) (by decide)) rfl rfl rfl

/-- The copy into P4 changes registers of P4. -/
theorem copyToP4_within (s : State) (p : Nat) : ChangesWithin [.regs, .dsp] fromPipe4 s (s.copyToP4 p) := by
  unfold State.copyToP4
  dsimp only
  refine ((((ChangesWithin.trans ?cfg (.foldl _ _ _ ?own)).trans (.setFld _ _ _ _ _ _ (by decide) (by decide))).trans
    (withDsp_within _ _)).trans (.poke _ _ _ _ (by decide) (by decide))).trans
    ((ChangesWithin.setBit _ _ _ _ _ (by decide) (by decide)).trans (.setBit _ _ _ _ _ (by decide) (by decide)))
  case cfg =>
    refine ⟨changesOnly_mono (changesOnly_withCfg s _) (by decide), fun a ha => ?_, rfl, rfl⟩
    have ha : a < 0x140000 := Nat.lt_of_not_le ha
    rw [State.withCfg_cfg, cfgGet_foldl_cfgSet _ _ _ _ ha, cfgGet_filter _ _ _ fun v => by simp [Nat.not_le.mpr ha]]
  case own =>
    intro s r hr
    refine .poke _ _ _ _ (by decide) ?_
    simp only [List.mem_cons, List.not_mem_nil, or_false] at hr
    obtain rfl | rfl | rfl | rfl := hr <;> decide

theorem startTakeover_within (s : State) (p : Nat) : ChangesWithin [.regs, .dsp] fromPipe4 s (s.startTakeover p) := by
  unfold State.startTakeover
  dsimp only
  split
  · exact (((leaveClone_within s).mono (by decide) fun _ => id).trans (copyToP4_within _ p)).trans (withDsp_within _ _)
  · exact .refl _ _ s

/-- What a write of DSP_MAP can change beside the register itself. -/
abbrev takeoverRegs (a : Nat) : Prop := a ∈ eventRegs ∨ fromPipe4 a

theorem lateTakeover_within (s : State) (p : Nat) :
    ChangesWithin [.free, .regs, .dsp, .brg, .sct] takeoverRegs s (s.lateTakeover p) := by
  unfold State.lateTakeover State.pipeEvent
  split
  · refine ChangesWithin.trans ?_ ((startTakeover_within _ p).mono (by decide) fun _ => Or.inr)
    refine ChangesWithin.trans ?_ (event_within _ (by decide) (by decide) (fun _ => Or.inl) (by decide) _ _ _ _)
    exact .of_cfg (changesOnly_mono (changesOnly_withBrg s _) (by decide)) rfl rfl rfl
  · exact .refl _ _ s

/-- Pipe P4 has no takeover of its own. -/
theorem lateTakeover_of_le (s : State) (p : Nat) (h : 4 ≤ p) : s.lateTakeover p = s := by
  simp [State.lateTakeover, Nat.not_lt.mpr h]

/-! ### Writes of RWL fields after SEAL (R11) -/

theorem DSP_MAP_mem : R.DSP_MAP ∈ R.regTable := by
  have h : R.DSP_MAP ∈ R.table2 := List.mem_of_getElem? (i := 3) rfl
  simp only [R.regTable, List.mem_append, h, true_or, or_true]

theorem EDP_SRC_mem : R.EDP_SRC ∈ R.regTable := by
  have h : R.EDP_SRC ∈ R.table2 := List.mem_of_getElem? (i := 49) rfl
  simp only [R.regTable, List.mem_append, h, true_or, or_true]

theorem ETH_GCL_TIME_mem : R.ETH_GCL_TIME ∈ R.regTable := by
  have h : R.ETH_GCL_TIME ∈ R.table5 := List.mem_of_getElem? (i := 37) rfl
  simp only [R.regTable, List.mem_append, h, true_or, or_true]

/-- A register with one index is located by it. -/
theorem locate_one_index {r : Reg} {n stride a : Nat} {ix : List Nat} (hd : r.dims = [(n, stride)])
    (h : locate r a = some ix) : ∃ i, i < n ∧ ix = [i] := by
  simp only [locate, hd, locateOffset, Option.ite_none_right_eq_some, Option.map_eq_some_iff, Option.some.injEq] at h
  obtain ⟨-, hi, jx, ⟨-, rfl⟩, rfl⟩ := h
  exact ⟨_, hi, rfl⟩

/-- No register that an applied frame or the envelope flags change has an RWL field. -/
theorem unlocked_regs : ∀ a ∈ frameRegs ++ dspStatusRegs, ∀ e ∈ findReg R.regTable a, e.1.rwl = 0 := by decide +kernel

theorem not_mem_of_rwl {a : Nat} {r : Reg} {ix : List Nat} (hf : findReg R.regTable a = some (r, ix)) (hr : r.rwl ≠ 0) :
    a ∉ frameRegs ∧ a ∉ dspStatusRegs := by
  have h : a ∉ frameRegs ++ dspStatusRegs := fun ha => hr (unlocked_regs a ha _ hf)
  simpa using h

/-- The status of a locked write (R11). -/
theorem mergeWrite_locked (s : State) (r : Reg) (ix : List Nat) (v : Word) (hs : s.sealed = true) (hr : r.rwl ≠ 0) :
    (s.mergeWrite r ix v).2 = 0x13 := by
  have hl : (s.sealed && r.rwl != 0) = true := by rw [hs, bne_iff_ne.mpr hr]; rfl
  simp only [State.mergeWrite, hl, if_true]

theorem mergeWrite_within (s : State) (r : Reg) (ix : List Nat) (v : Word) :
    ChangesWithin [.regs] (· = regAddr r ix) s (s.mergeWrite r ix v).1 := .poke _ _ _ _ (by decide) rfl

/-- The parts that a write of a register with an RWL field changes. -/
abbrev rwlParts : List Part := [.free, .regs, .dsp, .brg, .sct]

theorem envFlags_keeps (s : State) : ChangesWithin rwlParts (· ∈ dspStatusRegs) s s.envFlags :=
  (envFlags_within s).mono (by decide) fun _ => id

/-- What follows a write of DSP_MAP of a pipe leaves that register and SCT_STATUS alone. -/
theorem mapWritten_within (s : State) (i : Nat) (hi : i < 5) : ∃ moved : Nat → Prop,
    ChangesWithin rwlParts moved s (s.envFlags.lateTakeover i) ∧ ¬moved (regAddr R.DSP_MAP [i]) ∧ ¬moved (regAddr R.SCT_STATUS []) := by
  obtain h4 | h4 := Nat.lt_or_ge i 4
  · refine ⟨fun b => b ∈ dspStatusRegs ∨ takeoverRegs b, ?_, ?_, by decide⟩
    · exact ((envFlags_keeps s).mono (fun _ => id) fun _ => Or.inl).trans
        ((lateTakeover_within _ _).mono (by decide) fun _ => Or.inr)
    · interval_cases i <;> decide
  · obtain rfl : i = 4 := by omega
    exact ⟨_, (lateTakeover_of_le s.envFlags 4 h4).symm ▸ envFlags_keeps s, by decide, by decide⟩

/-- What follows a write, and moves neither the register written nor SCT_STATUS, keeps the frame's turn and what the write left. -/
theorem keepsTurn_of_within {s t : State} {r : Reg} {ix : List Nat} {v : Word} {moved : Nat → Prop}
    (h : ChangesWithin rwlParts moved (s.mergeWrite r ix v).1 t) (hne : regAddr R.SCT_STATUS [] ≠ regAddr r ix)
    (ha : ¬moved (regAddr r ix)) (hn : ¬moved (regAddr R.SCT_STATUS [])) :
    KeepsTurn s t ∧ t.rd r ix = (s.mergeWrite r ix v).1.rd r ix :=
  ⟨⟨h.dev (by decide), h.held, (h.rd hn).trans ((mergeWrite_within s r ix v).rd hne)⟩, h.rd ha⟩

/-- A write to a register with an RWL field after SEAL is refused; what else it starts leaves the register as the write left it,
and the frame's turn alone. -/
theorem writeReg_locked (s : State) {a : Nat} {r : Reg} {ix : List Nat} (v : Word) (hf : findReg R.regTable a = some (r, ix))
    (hr : r.rwl ≠ 0) (hs : s.sealed = true) :
    ∃ t, s.writeReg r ix v = (t, 0x13) ∧ KeepsTurn s t ∧ t.rd r ix = (s.mergeWrite r ix v).1.rd r ix := by
  obtain ⟨hmem, hloc⟩ := findReg_some hf
  have haddr : regAddr r ix = a := regAddr_of_locate hloc
  obtain ⟨hframe, hdsp⟩ := not_mem_of_rwl hf hr
  have hstatus := mergeWrite_locked s r ix v hs hr
  have hne : regAddr R.SCT_STATUS [] ≠ regAddr r ix := fun e => hframe (by rw [← haddr, ← e]; decide)
  obtain ⟨hshadow, -, -, hhook⟩ := rwl_reg_cases r hmem hr
  obtain hnone | hbase | hbase | hbase := hhook
  case inl =>
    refine ⟨_, ?_, keepsTurn_of_within (.refl rwlParts (fun _ => False) _) hne id id⟩
    rw [s.writeReg_storesOnly ix v ⟨hnone, hshadow⟩, ← hstatus]
  case inr.inl =>
    obtain rfl := reg_eq_of_base hmem DSP_MAP_mem hbase
    have hw : s.writeReg R.DSP_MAP ix v = (((s.mergeWrite R.DSP_MAP ix v).1.envFlags).lateTakeover (ix.headD 0),
        (s.mergeWrite R.DSP_MAP ix v).2) := rfl
    obtain ⟨i, hi, rfl⟩ := locate_one_index rfl hloc
    obtain ⟨moved, h, ha, hn⟩ := mapWritten_within (s.mergeWrite R.DSP_MAP [i] v).1 i hi
    exact ⟨_, by rw [hw, hstatus]; rfl, keepsTurn_of_within h hne ha hn⟩
  case inr.inr.inl =>
    obtain rfl := reg_eq_of_base hmem EDP_SRC_mem hbase
    have hw : s.writeReg R.EDP_SRC ix v = ((s.mergeWrite R.EDP_SRC ix v).1.envFlags, (s.mergeWrite R.EDP_SRC ix v).2) := rfl
    refine ⟨_, by rw [hw, hstatus], keepsTurn_of_within (envFlags_keeps _) hne (haddr ▸ hdsp) (by decide)⟩
  case inr.inr.inr =>
    obtain rfl := reg_eq_of_base hmem ETH_GCL_TIME_mem hbase
    have hw : s.writeReg R.ETH_GCL_TIME ix v = hookGcl s ix v := rfl
    refine ⟨_, ?_, keepsTurn_of_within (.refl rwlParts (fun _ => False) _) hne id id⟩
    simp [hw, hookGcl, hstatus]

/-- After SEAL an RWL bit keeps its value, and an RW bit of the same register takes the one written (R11). -/
theorem bits_of_locked_write (s : State) {r : Reg} (ix : List Nat) (v : Word) (hmem : r ∈ R.regTable) (hr : r.rwl ≠ 0)
    (hs : s.sealed = true) (i : Nat) (hi : i < 32) :
    (r.rwl.getLsbD i = true → ((s.mergeWrite r ix v).1.rd r ix).getLsbD i = (s.rd r ix).getLsbD i)
    ∧ (r.rw.getLsbD i = true → ((s.mergeWrite r ix v).1.rd r ix).getLsbD i = v.getLsbD i) := by
  obtain ⟨-, hw1c, hapart, -⟩ := rwl_reg_cases r hmem hr
  have hone : (r.rwl &&& r.rw).getLsbD i = false := by simp [hapart]
  rw [s.rd_mergeWrite r ix v i hi, hw1c]
  refine ⟨fun hl => ?_, fun hw => by simp [hw]⟩
  have hw : r.rw.getLsbD i = false := by simpa [hl] using hone
  simp [hw, hs]

/-- A write that reaches a register with an RWL field after SEAL, as one statement: it is refused, keeps the frame's turn, and by
its access codes leaves the RWL bits and gives the RW bits (R11). -/
theorem cfgWrite_locked (s : State) {a : Nat} {r : Reg} {ix : List Nat} (v : Word) (hf : findReg R.regTable a = some (r, ix))
    (hr : r.rwl ≠ 0) (hs : s.sealed = true) (hw : s.writable a) :
    ∃ t, s.cfgWrite a v = (t, 0x13) ∧ KeepsTurn s t ∧
      (∀ i, i < 32 → r.rwl.getLsbD i = true → (t.rd r ix).getLsbD i = (s.rd r ix).getLsbD i) ∧
      (∀ i, i < 32 → r.rw.getLsbD i = true → (t.rd r ix).getLsbD i = v.getLsbD i) := by
  obtain ⟨t, hwrite, hkeeps, hrd⟩ := writeReg_locked s v hf hr hs
  have hbits := bits_of_locked_write s ix v (findReg_some hf).1 hr hs
  rw [← hrd] at hbits
  exact ⟨t, (s.cfgWrite_writable v hf hw).trans hwrite, hkeeps, fun i hi => (hbits i hi).1, fun i hi => (hbits i hi).2⟩

theorem exec_sctRegWrite (f : RxFrame) (s : State) : exec (.sctRegWrite f) s = s.mayReset (State.hostFrame · 2 f) := rfl

end Sys2Proof.Machine

open Sys2Proof Sys2Proof.Machine

/-- Settles O38: a write item by itself, and as the item of a REG_WRITE frame whose turn it is. -/
theorem rwlFieldsAreLockedBySeal : Obligations.RwlFieldsAreLockedBySeal := by
  unfold Obligations.RwlFieldsAreLockedBySeal
  refine ⟨?_, ?_⟩
  · intro s a v r ix hu hreset hf hr hs hw
    obtain ⟨t, hwrite, hkeeps, hbits⟩ := cfgWrite_locked s v hf hr hs hw
    refine ⟨_, (exec_registerWrite a v s).trans (State.mayReset_next s _ hu (by rw [hwrite]; exact hkeeps.dev) hreset), rfl, ?_⟩
    rw [hwrite]
    exact hbits
  · intro s u f a v r ix hturn hpayload hf hr hs hw
    obtain ⟨hframe, -⟩ := not_mem_of_rwl hf hr
    have hadm := admitted_within u f
    have hrdAdm : (u.admitted f).rd r ix = u.rd r ix := hadm.rd ((regAddr_of_findReg hf).symm ▸ hframe)
    have hsAdm : (u.admitted f).sealed = true := (hadm.bit (by decide) 2).trans hs
    obtain ⟨w, hwrite, hkeeps, hrwl, hrw⟩ :=
      cfgWrite_locked (u.admitted f) v hf hr hsAdm (writable_of_within hadm (by decide) hw)
    have hitems : (u.admitted f).items 2 f.payload = (w, { statuses := [0x13], data := [] }) := by
      rw [hpayload, items_one_write, hwrite]
    obtain ⟨t, hexec, hanswer, hregs⟩ := answered_of_turn hturn (by decide) hitems hkeeps
    have hrdT : t.rd r ix = w.rd r ix :=
      rd_of_sameRegsBut hregs fun hmem => hframe (regAddr_of_findReg hf ▸ List.mem_append_right _ hmem)
    refine ⟨t, (exec_sctRegWrite f s).trans hexec, hanswer, ?_, ?_⟩
    · intro i hi hl
      rw [hrdT, hrwl i hi hl, hrdAdm]
    · intro i hi hl
      rw [hrdT, hrw i hi hl]
end

section
/-! PROOFS. Every step and every command answers a next state and keeps the canonical forms, the assembly and the queue (R24, R374,
R423). The text follows the model file by file: each function of the model that gives a state has one lemma, `Sound.f`, and each
command one lemma, `exec…_meaning`. Settles O3. -/

namespace Sys2Proof.Machine

/-! ### The register file -/

theorem cfgWf_iff_isChain (l : List (Nat × Word)) : cfgWf l = true ↔ l.IsChain fun x y => x.1 < y.1 := by
  induction l with
  | nil => simp [cfgWf]
  | cons e l ih => cases l <;> simp_all [cfgWf]

/-- The canonical form of the register file, over all pairs of its entries. -/
theorem cfgWf_iff_pairwise (l : List (Nat × Word)) : cfgWf l = true ↔ l.Pairwise fun x y => x.1 < y.1 := by
  have : IsTrans (Nat × Word) fun x y => x.1 < y.1 := ⟨fun _ _ _ => Nat.lt_trans⟩
  rw [cfgWf_iff_isChain, List.isChain_iff_pairwise]

theorem mem_of_mem_cfgSet {l : List (Nat × Word)} {a : Nat} {v : Word} {e : Nat × Word} (h : e ∈ cfgSet l a v) :
    e = (a, v) ∨ e ∈ l := by
  induction l with
  | nil => simpa [cfgSet] using h
  | cons p l ih =>
    simp only [cfgSet] at h
    split at h
    · simpa using h
    · split at h <;> simp only [List.mem_cons] at h ⊢ <;> tauto

theorem cfgWf_cfgSet {l : List (Nat × Word)} (a : Nat) (v : Word) (h : cfgWf l = true) : cfgWf (cfgSet l a v) = true := by
  simp only [cfgWf_iff_pairwise] at h ⊢
  induction l with
  | nil => simp [cfgSet]
  | cons p l ih =>
    obtain ⟨hp, hl⟩ := List.pairwise_cons.1 h
    simp only [cfgSet]
    split
    · next hlt => exact List.pairwise_cons.2 ⟨fun e he => by
        obtain rfl | he := List.mem_cons.1 he
        · exact hlt
        · exact hlt.trans (hp e he), h⟩
    · split
      · next heq => exact List.pairwise_cons.2 ⟨fun e he => heq ▸ hp e he, hl⟩
      · next hnlt hne => exact List.pairwise_cons.2 ⟨fun e he => by
          obtain rfl | he := mem_of_mem_cfgSet he
          · show p.1 < a
            omega
          · exact hp e he, ih hl⟩

theorem cfgWf_filter {l : List (Nat × Word)} (f : Nat × Word → Bool) (h : cfgWf l = true) : cfgWf (l.filter f) = true :=
  (cfgWf_iff_pairwise _).2 (((cfgWf_iff_pairwise _).1 h).filter f)

theorem cfgWf_foldl_cfgSet {α : Type} (key : α → Nat) (val : α → Word) (xs : List α) {l : List (Nat × Word)}
    (h : cfgWf l = true) : cfgWf (xs.foldl (fun l x => cfgSet l (key x) (val x)) l) = true := by
  induction xs generalizing l with
  | nil => exact h
  | cons x xs ih => exact ih (cfgWf_cfgSet _ _ h)

/-! ### What is kept -/

/-- What a state keeps of an earlier one: its assembly, and the canonical forms of its register file and of its memory. -/
structure Sound (s₀ s : State) : Prop where
  cfg : cfgWf s₀.cfg = true → cfgWf s.cfg = true
  mem : s₀.memWf = true → s.memWf = true
  asm : s.dev.assembly = s₀.dev.assembly

/-- `P` holds of what an access gives, unless it ends its task. -/
def Gives {α : Type} (P : α → Prop) (x : Try α) : Prop := ∀ ⦃r⦄, x = .ok r → P r

/-- The state that a scene command leaves, if it leaves one, is sound. -/
def SceneSound (s₀ : State) : SceneResult → Prop
  | .done s _ => Sound s₀ s
  | .failed s _ _ => Sound s₀ s
  | _ => True

/-- What a command other than those of the pins can be: by its frame it does nothing in reset, and its effect keeps sound states
sound. -/
inductive Meaning (s : State) : Host.Outcome State Fault Refusal → Prop where
  | live {f : State → State} (hf : ∀ {s₀}, Sound s₀ s → Sound s₀ (f s)) : Meaning s (s.live f)
  | awake {f : State → State} (hf : ∀ {s₀}, Sound s₀ s → Sound s₀ (f s)) : Meaning s (s.awake f)
  | mayReset {f : State → State} (hf : ∀ {s₀}, Sound s₀ s → Sound s₀ (f s)) : Meaning s (s.mayReset f)

variable {s₀ s t : State}

theorem SceneSound.failed {r : SceneResult} {status loc} (h : SceneSound s₀ r) (e : r = .failed s status loc) : Sound s₀ s := by
  rwa [e] at h

theorem SceneSound.done {r : SceneResult} {p} (h : SceneSound s₀ r) (e : r = .done s p) : Sound s₀ s := by
  rwa [e] at h

/-! ### Branches, loops and failures -/

theorem Sound.refl (s : State) : Sound s s := ⟨id, id, rfl⟩

theorem Sound.trans (h : Sound s₀ s) (k : Sound s t) : Sound s₀ t :=
  ⟨fun hw => k.cfg (h.cfg hw), fun hw => k.mem (h.mem hw), k.asm.trans h.asm⟩

/-- What neither the register file, nor memory, nor the assembly shows keeps a state sound. -/
theorem Sound.congr (h : Sound s₀ s) (hc : t.cfg = s.cfg) (hm : t.mem = s.mem) (hd : t.dev.assembly = s.dev.assembly) :
    Sound s₀ t :=
  ⟨hc ▸ h.cfg, fun hw => by rw [State.memWf, hm]; exact h.mem hw, hd.trans h.asm⟩

theorem Sound.ite {c : Prop} {_ : Decidable c} (hs : Sound s₀ s) (ht : Sound s₀ t) : Sound s₀ (if c then s else t) := by
  split <;> assumption

theorem Sound.iteFst {α : Type} {c : Prop} {_ : Decidable c} {p q : State × α} (hp : Sound s₀ p.1) (hq : Sound s₀ q.1) :
    Sound s₀ (if c then p else q).1 := by
  split <;> assumption

theorem Sound.of_fst {α : Type} {p : State × α} {x : α} (h : Sound s₀ p.1) (e : p = (t, x)) : Sound s₀ t := by
  rwa [e] at h

theorem Sound.foldlFst {α β : Type} {f : State × β → α → State × β} {xs : List α} {p : State × β}
    (hf : ∀ p x, Sound s₀ p.1 → Sound s₀ (f p x).1) (h : Sound s₀ p.1) : Sound s₀ (xs.foldl f p).1 := by
  induction xs generalizing p with
  | nil => exact h
  | cons x xs ih => exact ih (hf p x h)

theorem Sound.foldl {α : Type} {f : State → α → State} {xs : List α} (hf : ∀ s x, Sound s₀ s → Sound s₀ (f s x))
    (h : Sound s₀ s) : Sound s₀ (xs.foldl f s) := by
  induction xs generalizing s with
  | nil => exact h
  | cons x xs ih => exact ih (hf s x h)

section
variable {α β : Type} {P : α → Prop} {Q : β → Prop}

theorem Gives.ok {r : α} (h : P r) : Gives P (.ok r) := fun _ e => Except.ok.inj e ▸ h

theorem Gives.error {e : Nat × Option Nat} : Gives P (.error e) := nofun

theorem Gives.bind {x : Try β} {f : β → Try α} (hx : Gives Q x) (hf : ∀ r, Q r → Gives P (f r)) : Gives P (x >>= f) := by
  cases x with
  | error e => exact Gives.error
  | ok r => exact hf r (hx rfl)

/-- A read before what follows. -/
theorem Gives.read {x : Try β} {f : β → Try α} (hf : ∀ r, Gives P (f r)) : Gives P (x >>= f) :=
  Gives.bind (Q := fun _ => True) (fun _ _ => trivial) fun r _ => hf r

theorem Gives.ite {c : Prop} {_ : Decidable c} {x y : Try α} (hx : Gives P x) (hy : Gives P y) :
    Gives P (if c then x else y) := by
  split <;> assumption

end

theorem SceneSound.ite {c : Prop} {_ : Decidable c} {x y : SceneResult} (hx : SceneSound s₀ x) (hy : SceneSound s₀ y) :
    SceneSound s₀ (if c then x else y) := by
  split <;> assumption

/-! ### The state's operations -/

theorem Sound.withPending {x} (h : Sound s₀ s) : Sound s₀ (s.withPending x) := h.congr rfl rfl rfl

theorem Sound.withFree {x} (h : Sound s₀ s) : Sound s₀ (s.withFree x) := h.congr rfl rfl rfl

theorem Sound.withCfg {x} (h : Sound s₀ s) (hx : cfgWf s.cfg = true → cfgWf x = true) : Sound s₀ (s.withCfg x) :=
  ⟨fun hw => hx (h.cfg hw), h.mem, h.asm⟩

theorem Sound.withMem {x} (h : Sound s₀ s) (hx : Memory.wf s.mem = true → Memory.wf x = true) : Sound s₀ (s.withMem x) :=
  ⟨h.cfg, fun hw => hx (h.mem hw), h.asm⟩

theorem Sound.withDev {x} (h : Sound s₀ s) (hx : x.assembly = s.dev.assembly) : Sound s₀ (s.withDev x) :=
  ⟨h.cfg, h.mem, hx.trans h.asm⟩

theorem Sound.withImg {x} (h : Sound s₀ s) : Sound s₀ (s.withImg x) := h.congr rfl rfl rfl

theorem Sound.withTim {x} (h : Sound s₀ s) : Sound s₀ (s.withTim x) := h.congr rfl rfl rfl

theorem Sound.withSyn {x} (h : Sound s₀ s) : Sound s₀ (s.withSyn x) := h.congr rfl rfl rfl

theorem Sound.withBoxes {x} (h : Sound s₀ s) : Sound s₀ (s.withBoxes x) := h.congr rfl rfl rfl

theorem Sound.withPasses {x} (h : Sound s₀ s) : Sound s₀ (s.withPasses x) := h.congr rfl rfl rfl

theorem Sound.withVis {x} (h : Sound s₀ s) : Sound s₀ (s.withVis x) := h.congr rfl rfl rfl

theorem Sound.withDsp {x} (h : Sound s₀ s) : Sound s₀ (s.withDsp x) := h.congr rfl rfl rfl

theorem Sound.withCap {x} (h : Sound s₀ s) : Sound s₀ (s.withCap x) := h.congr rfl rfl rfl

theorem Sound.withBrg {x} (h : Sound s₀ s) : Sound s₀ (s.withBrg x) := h.congr rfl rfl rfl

theorem Sound.withEth {x} (h : Sound s₀ s) : Sound s₀ (s.withEth x) := h.congr rfl rfl rfl

theorem Sound.withSct {x} (h : Sound s₀ s) : Sound s₀ (s.withSct x) := h.congr rfl rfl rfl

theorem Sound.withErr {x} (h : Sound s₀ s) : Sound s₀ (s.withErr x) := h.congr rfl rfl rfl

theorem Sound.withSch {x} (h : Sound s₀ s) : Sound s₀ (s.withSch x) := h.congr rfl rfl rfl

theorem Sound.withDbg {x} (h : Sound s₀ s) : Sound s₀ (s.withDbg x) := h.congr rfl rfl rfl

theorem Sound.withSec {x} (h : Sound s₀ s) : Sound s₀ (s.withSec x) := h.congr rfl rfl rfl

theorem Sound.withPwr {x} (h : Sound s₀ s) : Sound s₀ (s.withPwr x) := h.congr rfl rfl rfl

theorem Sound.poke {r ix v} (h : Sound s₀ s) : Sound s₀ (s.poke r ix v) :=
  ⟨fun hw => cfgWf_cfgSet _ _ (h.cfg hw), h.mem, h.asm⟩

theorem Sound.setFld {r ix hi lo v} (h : Sound s₀ s) : Sound s₀ (s.setFld r ix hi lo v) := h.poke

theorem Sound.setBit {r ix b v} (h : Sound s₀ s) : Sound s₀ (s.setBit r ix b v) := h.setFld

theorem Sound.poke64 {lo hi ix v} (h : Sound s₀ s) : Sound s₀ (s.poke64 lo hi ix v) := h.poke.poke

theorem Sound.store {a bs} (h : Sound s₀ s) : Sound s₀ (s.store a bs) :=
  ⟨h.cfg, fun hw => s.memWf_store a bs (h.mem hw), h.asm⟩

theorem Sound.clear {a n} (h : Sound s₀ s) : Sound s₀ (s.clear a n) :=
  ⟨h.cfg, fun hw => s.memWf_clear a n (h.mem hw), h.asm⟩

theorem Sound.poison {a} (h : Sound s₀ s) : Sound s₀ (s.poison a) := .ite h (h.congr rfl rfl rfl)

theorem Sound.unpoison {a n} (h : Sound s₀ s) : Sound s₀ (s.unpoison a n) := h.congr rfl rfl rfl

theorem Sound.wipe {a n} (h : Sound s₀ s) : Sound s₀ (s.wipe a n) := h.unpoison.clear

theorem Sound.putCellsAt {a cs} (h : Sound s₀ s) : Sound s₀ (s.putCellsAt a cs) := .foldl (fun _ _ h => h.store) h

theorem Sound.copyRange {src dst n} (h : Sound s₀ s) : Sound s₀ (s.copyRange src dst n) := h.wipe.putCellsAt

theorem Sound.write {a bs} (h : Sound s₀ s) : Sound s₀ (s.write a bs) := by
  unfold State.write
  split
  · exact h.unpoison.store
  · exact h

theorem Sound.writeLe {a n v} (h : Sound s₀ s) : Sound s₀ (s.writeLe a n v) := h.write

theorem Sound.deviceReset {cause} (h : Sound s₀ s) : Sound s₀ (s.deviceReset cause) :=
  .poke ⟨fun _ => rfl, fun hw => s.memWf_deviceReset cause (h.mem hw), h.asm⟩

theorem Sound.settle {queue} (h : Sound s₀ s) : Sound s₀ (s.settle queue) := by
  unfold State.settle
  split
  · exact h.deviceReset.congr rfl rfl rfl
  · exact h.congr rfl rfl rfl

theorem Sound.kept (h : Sound s₀ s) (ht : Sound s₀ t) : Sound s₀ (t.kept s) := ⟨ht.cfg, ht.mem, h.asm⟩

/-- What a command leaves is sound. -/
theorem Meaning.sound {o} (hm : Meaning s o) (e : o = .next t) (h : Sound s₀ s) : Sound s₀ t := by
  cases hm with
  | live hf =>
    obtain he | he := s.live_cases _ <;> obtain rfl := Host.Outcome.next.inj (he.symm.trans e)
    · exact h
    · exact h.kept (hf h)
  | awake hf =>
    obtain he | he := s.awake_cases _ <;> obtain rfl := Host.Outcome.next.inj (he.symm.trans e)
    · exact h
    · exact h.kept (hf h)
  | mayReset hf =>
    obtain rfl := Host.Outcome.next.inj e
    exact .ite h (hf h).settle

theorem Sound.draw (h : Sound s₀ s) : Sound s₀ s.draw := h.congr rfl rfl rfl

/-! ### Flags and events -/

theorem Sound.count {r ix n} (h : Sound s₀ s) : Sound s₀ (s.count r ix n) := h.poke

theorem Sound.countSat {r ix n ovf oix bit} (h : Sound s₀ s) : Sound s₀ (s.countSat r ix n ovf oix bit) :=
  .ite h (have h := h.poke; .ite h.setBit h)

theorem Sound.countTop {r ix n} (h : Sound s₀ s) : Sound s₀ (s.countTop r ix n) := h.poke

theorem Sound.count64 {lo hi ix n} (h : Sound s₀ s) : Sound s₀ (s.count64 lo hi ix n) := h.poke64

theorem Sound.account {ctx counter n} (h : Sound s₀ s) : Sound s₀ (s.account ctx counter n) := h.poke.poke

theorem Sound.alert {source} (h : Sound s₀ s) : Sound s₀ (s.alert source) := h.setBit

theorem Sound.putSource {e} (h : Sound s₀ s) : Sound s₀ (s.putSource e) := h.withSct

theorem Sound.queueEvent {cls inst code payload} (h : Sound s₀ s) : Sound s₀ (s.queueEvent cls inst code payload) :=
  .ite h.putSource.withSct h.putSource.countSat.alert

theorem Sound.event {cls inst code payload} (h : Sound s₀ s) : Sound s₀ (s.event cls inst code payload) :=
  .ite h.draw.queueEvent h.queueEvent

theorem Sound.eventOpen {cls inst payload} (h : Sound s₀ s) : Sound s₀ (s.eventOpen cls inst payload) := h.draw.event

/-! ### Records, traces and reports -/

theorem Sound.putErrRec {r} (h : Sound s₀ s) : Sound s₀ (s.putErrRec r) :=
  have h := h.write.poke
  (Sound.ite h.countSat h).withErr

theorem Sound.recordErr {r} (h : Sound s₀ s) : Sound s₀ (s.recordErr r) :=
  .ite h.withErr.putErrRec (.ite h.withErr.setFld h.withErr.countSat)

theorem Sound.putHeld {rs} (h : Sound s₀ s) : Sound s₀ (s.putHeld rs) := by
  induction rs generalizing s with
  | nil => exact h
  | cons r rs ih => exact ih h.putErrRec

theorem Sound.updateErrRing (h : Sound s₀ s) : Sound s₀ s.updateErrRing :=
  have h := h.setBit
  .ite (.ite h h.withErr.setFld.putHeld) h.withErr

theorem Sound.countClass {cls} (h : Sound s₀ s) : Sound s₀ (s.countClass cls) := by
  unfold State.countClass
  split <;> exact h.countSat

theorem Sound.errEvent {r} (h : Sound s₀ s) : Sound s₀ (s.errEvent r) := .ite h.event h

theorem Sound.putWindow {w} (h : Sound s₀ s) : Sound s₀ (s.putWindow w) := h.withErr

theorem Sound.raise {e} (h : Sound s₀ s) : Sound s₀ (s.raise e) :=
  have h := h.countClass
  have h := Sound.ite h.setBit h
  have h := Sound.ite h.alert h
  by
    unfold State.raise
    dsimp only
    split
    · exact h.putWindow
    · exact (Sound.ite h.putWindow h).recordErr.errEvent

theorem Sound.traceTo {ring source word payload} (h : Sound s₀ s) : Sound s₀ (s.traceTo ring source word payload) :=
  have h := h.write.poke
  (Sound.ite h.countSat h).withDbg

theorem Sound.trace {source ctx word payload} (h : Sound s₀ s) : Sound s₀ (s.trace source ctx word payload) :=
  have h := Sound.ite h.traceTo h
  .ite h.traceTo h

theorem Sound.pmcOne {i n} (h : Sound s₀ s) : Sound s₀ (s.pmcOne i n) :=
  have h := h.poke
  .ite h (have h := h.setBit; .ite h.event h)

theorem Sound.pmcAdd {kind unit event part n} (h : Sound s₀ s) : Sound s₀ (s.pmcAdd kind unit event part n) :=
  .ite (.foldl (fun _ _ h => h.pmcOne) h) h

/-! ### Accesses of a task -/

theorem Sound.writeFor {ctx a bs} (h : Sound s₀ s) (e : s.writeFor ctx a bs = .ok t) : Sound s₀ t := by
  unfold State.writeFor at e
  split at e
  · split at e
    · exact WriteResult.ok.inj e ▸ h.write
    · cases e
  · cases e

theorem Sound.tryWrite {ctx a bs} (h : Sound s₀ s) : Gives (Sound s₀) (s.tryWrite ctx a bs) := by
  unfold State.tryWrite
  split
  · next e => exact .ok (h.writeFor e)
  · exact .error
  · exact .error

/-! ### Sparing of cores -/

theorem Sound.failSite {d k j} (h : Sound s₀ s) : Sound s₀ (s.failSite d k j) := .ite h h.withBrg

theorem Sound.mapCore {core j} (h : Sound s₀ s) : Sound s₀ (s.mapCore core j) := h.setFld

theorem Sound.absentCore {core} (h : Sound s₀ s) : Sound s₀ (s.absentCore core) := h.setBit

theorem Sound.putSlotRegs {d k j ws} (h : Sound s₀ s) : Sound s₀ (s.putSlotRegs d k j ws) := .foldl (fun _ _ h => h.poke.poke) h

theorem Sound.keepSiteMem {d k j cells} (h : Sound s₀ s) : Sound s₀ (s.keepSiteMem d k j cells) := by
  unfold State.keepSiteMem
  split
  · exact h.wipe.putCellsAt
  · exact h.withBrg

theorem Sound.moveCode {src dst live} (h : Sound s₀ s) : Sound s₀ (s.moveCode src dst live) := h.withSch

theorem Sound.remapCore {core j} (h : Sound s₀ s) : Sound s₀ (s.remapCore core j) :=
  h.moveCode.mapCore.wipe.putCellsAt.keepSiteMem

theorem Sound.clearSite {site} (h : Sound s₀ s) : Sound s₀ (s.clearSite site) := h.withBrg.withSch

theorem Sound.moveCore {core j} (h : Sound s₀ s) : Sound s₀ (s.moveCore core j) := h.putSlotRegs.remapCore

theorem Sound.donorResume (h : Sound s₀ s) : Sound s₀ s.donorResume := by
  unfold State.donorResume
  dsimp only
  split
  · exact .ite h.putSlotRegs.absentCore.setBit.withBrg h
  · exact h

/-! ### Regulators and deadlines of an output -/

theorem Sound.putBucket {b} (h : Sound s₀ s) : Sound s₀ (s.putBucket b) := h.withSch

theorem Sound.passOne {p n borrowed g} (h : Sound s₀ s) : Sound s₀ (s.passOne p n borrowed g) :=
  have h := h.count64
  .ite (have h := h.count64; .ite h.pmcAdd h) h.putBucket

theorem Sound.pass {p n borrowed path} (h : Sound s₀ s) : Sound s₀ (s.pass p n borrowed path) :=
  .foldl (fun _ _ h => h.passOne) h

theorem Sound.refillOne {g p} (h : Sound s₀ s) : Sound s₀ (s.refillOne g p) :=
  have h := Sound.ite (have h := h.count; .ite h.pmcAdd h) h
  .ite h.withSch h.putBucket

theorem Sound.passNow {p n path} (h : Sound s₀ s) : Sound s₀ (s.passNow p n path) :=
  .ite h.pass (.ite h.pass (.foldl (fun _ _ h => h.putBucket) h.pass))

theorem Sound.traffic {p path fuel a n} (h : Sound s₀ s) : Sound s₀ (s.traffic p path fuel a n) := by
  induction fuel generalizing s a n with
  | zero => exact h
  | succ fuel ih => exact .ite h (ih h.passNow)

theorem Sound.hubRead {p a n} (h : Sound s₀ s) : Sound s₀ (s.hubRead p a n) := h.traffic

theorem Sound.hubWrote {p a n} (h : Sound s₀ s) : Sound s₀ (s.hubWrote p a n) := h.traffic

theorem Sound.dieRead {p die a n} (h : Sound s₀ s) : Sound s₀ (s.dieRead p die a n) := h.traffic

theorem Sound.dieWrote {p die a n} (h : Sound s₀ s) : Sound s₀ (s.dieWrote p die a n) := h.traffic

/-! ### Tiles of the display -/

theorem Sound.sketchRead {p unit a n} (h : Sound s₀ s) : Sound s₀ (s.sketchRead p unit a n) := h.dieRead.account

theorem Sound.sketchWrite {p unit ws} (h : Sound s₀ s) : Sound s₀ (s.sketchWrite p unit ws).1 := by
  induction ws generalizing s with
  | nil => exact h
  | cons w ws ih =>
    rw [State.sketchWrite]
    split
    · exact h
    · next e => exact ih (h.tryWrite e).dieWrote.account

theorem Sound.storeTiles {p final ks} (h : Sound s₀ s) : Sound s₀ (s.storeTiles p final ks).1 := by
  induction ks generalizing s with
  | nil => exact h
  | cons k ks ih =>
    rw [State.storeTiles]
    split
    · exact h.sketchWrite
    · exact ih h.sketchWrite.count

theorem Sound.reloadTile {p tile} (h : Sound s₀ s) : Gives (fun r => Sound s₀ r.1) (s.reloadTile p tile) :=
  .read fun _ => .ite (.read fun _ => .ok (.foldl (fun _ _ h => h.sketchRead) h.sketchRead)) (.ok h.sketchRead)

/-! ### Slices and outputs of Synthesis -/

theorem Sound.setPipe {p x} (h : Sound s₀ s) : Sound s₀ (s.setPipe p x) := h.withDsp

theorem Sound.setOut {o x} (h : Sound s₀ s) : Sound s₀ (s.setOut o x) := h.withSyn

theorem Sound.synCount {o r bit} (h : Sound s₀ s) : Sound s₀ (s.synCount o r bit) := h.countSat

theorem Sound.adpCount {o r bit} (h : Sound s₀ s) : Sound s₀ (s.adpCount o r bit) := h.countSat

theorem Sound.adpStatus {o} (h : Sound s₀ s) : Sound s₀ (s.adpStatus o) := h.setBit.setBit.setBit.setFld

theorem Sound.adpGiveUp {o} (h : Sound s₀ s) : Sound s₀ (s.adpGiveUp o) := h.setOut.setBit

theorem Sound.adpRevert {o ref cause} (h : Sound s₀ s) : Sound s₀ (s.adpRevert o ref cause) :=
  have h := h.setOut.setBit.adpCount.adpStatus
  .ite h.event h

theorem Sound.adpFail {o ref cause status} (h : Sound s₀ s) : Sound s₀ (s.adpFail o ref cause status) :=
  have h := h.adpGiveUp.setOut.adpCount.adpStatus
  have h := Sound.ite h.event h
  .ite h.adpRevert h

theorem Sound.adpSkip {o} (h : Sound s₀ s) : Sound s₀ (s.adpSkip o) := h.adpCount.setBit

theorem Sound.adpDrop {o} (h : Sound s₀ s) : Sound s₀ (s.adpDrop o) := h.setOut.adpSkip

theorem Sound.adpKeyframe {o k} (h : Sound s₀ s) : Sound s₀ (s.adpKeyframe o k) := by
  unfold State.adpKeyframe
  split
  · exact .ite h.adpDrop h
  · exact h

theorem Sound.keyframeReport {o refresh upd} (h : Sound s₀ s) : Sound s₀ (s.keyframeReport o refresh upd) :=
  have h := h.setOut.setFld
  have h := Sound.ite h.synCount h
  (Sound.ite h.synCount h).adpKeyframe

theorem Sound.noteKeyframe {n status} (h : Sound s₀ s) : Sound s₀ (s.noteKeyframe n status) := by
  unfold State.noteKeyframe
  split
  · exact h
  · exact h.keyframeReport
  · exact h.keyframeReport

theorem Sound.synTaskEndAt {o qid seq status} (h : Sound s₀ s) : Sound s₀ (s.synTaskEndAt o qid seq status) := by
  unfold State.synTaskEndAt
  dsimp only
  split
  · exact .ite
        (.ite
           (Sound.setOut (by split; exacts [h.setOut.adpStatus, h])).setBit.setBit.adpStatus
           (.ite (by split; exacts [h.setOut.adpStatus, h]) (.adpFail (by split; exacts [h.setOut.adpStatus, h]))))
        (by split; exacts [h.setOut.adpStatus, h])
  · split
    · exact h.setOut.adpStatus
    · exact h

theorem Sound.synTaskEnd {qid seq status} (h : Sound s₀ s) : Sound s₀ (s.synTaskEnd qid seq status) :=
  h.synTaskEndAt.synTaskEndAt.synTaskEndAt.synTaskEndAt

theorem Sound.synPartReset {o} (h : Sound s₀ s) : Sound s₀ (s.synPartReset o) := h.setOut.setBit

/-! ### Queues and doorbells -/

theorem Sound.putQueue {x} (h : Sound s₀ s) : Sound s₀ (s.putQueue x) := h.withSch

theorem Sound.settleDeps {q} (h : Sound s₀ s) : Sound s₀ (s.settleDeps q) := h.withSch

theorem Sound.dropQueue {q} (h : Sound s₀ s) : Sound s₀ (s.dropQueue q) := h.settleDeps.withSch

theorem Sound.postOne {x c} (h : Sound s₀ s) : Sound s₀ (s.postOne x c) := h.write.putQueue.noteKeyframe

theorem Sound.flushLoop {q fuel} (h : Sound s₀ s) : Sound s₀ (s.flushLoop q fuel) := by
  induction fuel generalizing s with
  | zero => exact h
  | succ fuel ih =>
    rw [State.flushLoop]
    split
    · split
      · exact ih h.postOne
      · exact h
    · exact h

theorem Sound.finishDisable {q} (h : Sound s₀ s) : Sound s₀ (s.finishDisable q) := by
  unfold State.finishDisable
  split
  · exact .ite h.dropQueue h
  · exact h

theorem Sound.flushQueue {q} (h : Sound s₀ s) : Sound s₀ (s.flushQueue q) := by
  unfold State.flushQueue
  split
  · exact h.flushLoop.finishDisable
  · exact h

theorem Sound.complete {q c} (h : Sound s₀ s) : Sound s₀ (s.complete q c) := by
  unfold State.complete
  split
  · exact h.putQueue.flushQueue
  · exact h

theorem Sound.popEntry {q} (h : Sound s₀ s) : Sound s₀ (s.popEntry q) := by
  unfold State.popEntry
  split
  · exact h.putQueue
  · exact h

theorem Sound.completeRung {q status} (h : Sound s₀ s) : Sound s₀ (s.completeRung q status) := by
  unfold State.completeRung
  split
  · exact .foldl (fun _ _ h => h.synTaskEnd) h.withSch.putQueue.flushQueue
  · exact h

theorem Sound.queueError {c l code} (h : Sound s₀ s) : Sound s₀ (s.queueError c l code) := h.poke

theorem Sound.queueControl {c value} (h : Sound s₀ s) : Sound s₀ (s.queueControl c value) :=
  .ite
    h.queueError
    (.ite
       (.ite h.queueError (.ite h.queueError (.ite h.queueError (.ite h.queueError (.ite h.queueError h.putQueue)))))
       (.ite (by split; exacts [h.putQueue.completeRung.finishDisable, h]) h))

theorem Sound.rejectDoorbell {q count pLast reason} (h : Sound s₀ s) : Sound s₀ (s.rejectDoorbell q count pLast reason) :=
  h.countSat.event

theorem Sound.doorbell {q count} (h : Sound s₀ s) : Sound s₀ (s.doorbell q count).1 := by
  refine .iteFst h ?_
  split
  · split
    · exact h
    · dsimp only
      exact h.draw.rejectDoorbell
  · refine .iteFst h.rejectDoorbell (.iteFst h.putQueue.flushQueue (.iteFst h ?_))
    split
    · exact h.putQueue
    · dsimp only
      exact h.rejectDoorbell

/-! ### Chains of the vision complex -/

theorem Sound.putChain {c} (h : Sound s₀ s) : Sound s₀ (s.putChain c) := h.withVis

theorem Sound.setStage {c i f} (h : Sound s₀ s) : Sound s₀ (s.setStage c i f) := h.putChain

theorem Sound.captureChainEnd {n i status} (h : Sound s₀ s) : Sound s₀ (s.captureChainEnd n i status) :=
  .foldl (fun _ _ h => .ite h.setFld h) h

theorem Sound.visPost {fuel} (h : Sound s₀ s) : Sound s₀ (s.visPost fuel) := by
  induction fuel generalizing s with
  | zero => exact h
  | succ fuel ih =>
    rw [State.visPost]
    split
    · exact h
    · exact ih (by
        split
        · exact h.withVis.noteKeyframe
        · split
          · exact .ite h.withVis.complete h.withVis.noteKeyframe
          · exact h.withVis.noteKeyframe)

theorem Sound.endChain {c status} (h : Sound s₀ s) : Sound s₀ (s.endChain c status) :=
  have h := (Sound.foldl (fun _ _ h => h.countSat) h).putChain.count
  .visPost (by split; exacts [h.captureChainEnd, h])

theorem Sound.advanceChain {c} (h : Sound s₀ s) : Sound s₀ (s.advanceChain c) := by
  unfold State.advanceChain
  split
  · exact h
  · exact h.endChain
  · split
    · exact h.endChain
    · exact h.putChain

theorem Sound.visAct (h : Sound s₀ s) (e : s.visAct = some t) : Sound s₀ t := by
  unfold State.visAct at e
  split at e
  · exact Option.some.inj e ▸ h.advanceChain
  · split at e
    · exact Option.some.inj e ▸ h.endChain
    · split at e
      · exact Option.some.inj e ▸ h.setStage
      · cases e

theorem Sound.visDispatch {fuel} (h : Sound s₀ s) : Sound s₀ (s.visDispatch fuel) := by
  induction fuel generalizing s with
  | zero => exact h
  | succ fuel ih =>
    rw [State.visDispatch]
    split
    · next e => exact ih (h.visAct e)
    · exact h

theorem Sound.visRun (h : Sound s₀ s) : Sound s₀ s.visRun := h.visDispatch

theorem Sound.acceptChain {source a} (h : Sound s₀ s) : Sound s₀ (s.acceptChain source a) :=
  have h := h.withVis
  (Sound.ite h.endChain (.ite h.endChain (by split; exacts [h.endChain, h.endChain, .ite h.putChain h.endChain]))).visRun

theorem Sound.submitChain {source a} (h : Sound s₀ s) : Sound s₀ (s.submitChain source a).1 := by
  unfold State.submitChain
  split <;> dsimp only
  · exact h.countSat
  · exact h.acceptChain

theorem Sound.visWaiting (h : Sound s₀ s) : Sound s₀ s.visWaiting := by
  unfold State.visWaiting
  split
  · exact h
  · exact .ite h h.withVis.acceptChain

theorem Sound.visSettle {fuel} (h : Sound s₀ s) : Sound s₀ (s.visSettle fuel) := by
  induction fuel generalizing s with
  | zero => exact h
  | succ fuel ih => exact .ite h (ih h.visWaiting)

theorem Sound.visGo (h : Sound s₀ s) : Sound s₀ s.visGo := h.visRun.visSettle

theorem Sound.endChains {p status} (h : Sound s₀ s) : Sound s₀ (s.endChains p status) :=
  (Sound.foldl (fun _ _ h => h.endChain) h).visGo

/-! ### Box calls and sketch passes -/

theorem Sound.boxSchedule {d k} (h : Sound s₀ s) : Sound s₀ (s.boxSchedule d k) := by
  unfold State.boxSchedule
  dsimp only
  split
  · exact h
  · exact h.withBoxes

theorem Sound.boxGone {b} (h : Sound s₀ s) : Sound s₀ (s.boxGone b) := (Sound.ite h.draw.count h).countSat.boxSchedule

theorem Sound.abortCalls {p} (h : Sound s₀ s) : Sound s₀ (s.abortCalls p) := .foldl (fun _ _ h => h.boxGone) h.withBoxes

theorem Sound.putPass {p} (h : Sound s₀ s) : Sound s₀ (s.putPass p) := h.withPasses

theorem Sound.countUnits {p r bit} (h : Sound s₀ s) : Sound s₀ (s.countUnits p r bit) := .foldl (fun _ _ h => h.countSat) h

theorem Sound.stopPass {p} (h : Sound s₀ s) : Sound s₀ (s.stopPass p) := h.storeTiles.putPass.countUnits

theorem Sound.startPass {p} (h : Sound s₀ s) : Sound s₀ (s.startPass p) := (Sound.foldl (fun _ _ h => h.stopPass) h).putPass

theorem Sound.sketchRun {fuel} (h : Sound s₀ s) : Sound s₀ (s.sketchRun fuel) := by
  induction fuel generalizing s with
  | zero => exact h
  | succ fuel ih =>
    rw [State.sketchRun]
    split
    · exact ih h.startPass
    · split
      · exact ih h.putPass
      · exact h

theorem Sound.sketchSchedule (h : Sound s₀ s) : Sound s₀ s.sketchSchedule := h.sketchRun

theorem Sound.abortPasses {f} (h : Sound s₀ s) : Sound s₀ (s.abortPasses f) :=
  (Sound.foldl (fun _ _ h => h.countUnits) h.withPasses).sketchSchedule

/-! ### Slots and semaphores -/

theorem Sound.putTask {t'} (h : Sound s₀ s) : Sound s₀ (s.putTask t') := h.withSch

theorem Sound.putSlot {x} (h : Sound s₀ s) : Sound s₀ (s.putSlot x) := h.withSch

theorem Sound.accountRun {core} (h : Sound s₀ s) : Sound s₀ (s.accountRun core) := by
  unfold State.accountRun
  split
  · exact h
  · exact
      have h := h.withSch;
      by
        dsimp only
        split
        · exact
            have h := h.account;
            by split; exacts [h.putTask, h]
        · exact h

theorem Sound.abortTransfers {x} (h : Sound s₀ s) : Sound s₀ (s.abortTransfers x) := h.withSch.putSlot

theorem Sound.coreIdle {core} (h : Sound s₀ s) : Sound s₀ (s.coreIdle core) :=
  (Sound.accountRun (by split; exacts [.ite h h.abortTransfers, h])).setBit

theorem Sound.resubmit {x} (h : Sound s₀ s) : Sound s₀ (s.resubmit x) := .ite h h.putSlot.withBoxes.boxSchedule

theorem Sound.unstall {x} (h : Sound s₀ s) : Sound s₀ (s.unstall x) := by
  unfold State.unstall
  dsimp only
  split
  · exact .ite h.putSlot.withBoxes.boxSchedule h
  · exact h

theorem Sound.boxAdmitSlot {core i} (h : Sound s₀ s) : Sound s₀ (s.boxAdmitSlot core i) := by
  unfold State.boxAdmitSlot
  dsimp only
  split
  · exact .unstall (by split; exacts [h.resubmit, h])
  · split
    · exact h.resubmit
    · exact h

theorem Sound.boxAdmit {d k} (h : Sound s₀ s) : Sound s₀ (s.boxAdmit d k) := .foldl (fun _ _ h => h.boxAdmitSlot) h

theorem Sound.startSlot {x} (h : Sound s₀ s) : Sound s₀ (s.startSlot x) :=
  have h := (Sound.ite h.count.trace h).setFld.setBit.withSch.putSlot.boxAdmitSlot
  by
    unfold State.startSlot
    dsimp only
    split
    · exact .ite h.putTask.account h
    · exact h

theorem Sound.notePreempt {old new} (h : Sound s₀ s) : Sound s₀ (s.notePreempt old new) := by
  unfold State.notePreempt
  split
  · exact .ite h.putTask.account h
  · exact h

theorem Sound.switchCore {core} (h : Sound s₀ s) : Sound s₀ (s.switchCore core) := by
  unfold State.switchCore
  split
  · exact .ite h (Sound.coreIdle (by split; exacts [h.notePreempt, h])).startSlot
  · exact h.coreIdle
  · exact h.startSlot
  · exact h

theorem Sound.wakeCore {core} (h : Sound s₀ s) : Sound s₀ (s.wakeCore core) := .ite h.switchCore h

theorem Sound.countHalo {x} (h : Sound s₀ s) : Sound s₀ (s.countHalo x) := by
  unfold State.countHalo
  split
  · exact h.count
  · exact h

theorem Sound.putSem {x} (h : Sound s₀ s) : Sound s₀ (s.putSem x) := h.withSch.setFld

theorem Sound.setHeld {k held owner} (h : Sound s₀ s) : Sound s₀ (s.setHeld k held owner) :=
  have h := h.setFld
  .ite h.setBit.setFld h.setBit.setFld

theorem Sound.semTake {k q seq n} (h : Sound s₀ s) : Sound s₀ (s.semTake k q seq n) := h.putSem.setHeld.withSch

theorem Sound.endAcquire {k w} (h : Sound s₀ s) : Sound s₀ (s.endAcquire k w) := h.putSem.account.withSch

theorem Sound.semGrantLoop {k fuel} (h : Sound s₀ s) : Sound s₀ (s.semGrantLoop k fuel) := by
  induction fuel generalizing s with
  | zero => exact h
  | succ fuel ih =>
    rw [State.semGrantLoop]
    split
    · exact h
    · exact .ite (ih h.endAcquire.semTake.wakeCore) h

theorem Sound.semGrant {k} (h : Sound s₀ s) : Sound s₀ (s.semGrant k) := h.semGrantLoop

theorem Sound.relend {old} (h : Sound s₀ s) : Sound s₀ (s.relend old) :=
  .foldl (fun _ _ h => h.trace) (.foldl (fun _ _ h => h.trace) h.withSch.count)

theorem Sound.semAbandon {k} (h : Sound s₀ s) : Sound s₀ (s.semAbandon k) := h.putSem.setHeld.setBit.semGrant

/-! ### The end of a task -/

theorem Sound.dropWaits {t'} (h : Sound s₀ s) : Sound s₀ (s.dropWaits t') :=
  .foldl (fun _ _ h => .foldl (fun _ _ h => h.account) h.putSem) h

theorem Sound.keepImage {x} (h : Sound s₀ s) : Sound s₀ (s.keepImage x) := h.withSch

theorem Sound.applyStores {stores} (h : Sound s₀ s) : Sound s₀ (s.applyStores stores) := .foldl (fun _ _ h => h.write) h

theorem Sound.leaveCores {t'} (h : Sound s₀ s) : Sound s₀ (s.leaveCores t') :=
  .foldl
    (fun _ _ h => h.wakeCore.boxAdmit)
    (Sound.foldl
       (fun _ _ h => (Sound.ite h.coreIdle h).keepImage)
       (.foldl (fun _ _ h => h.countHalo) (.foldl (fun _ _ h => h.applyStores) h))).withSch

theorem Sound.finishTask {t' status} (h : Sound s₀ s) : Sound s₀ (s.finishTask t' status) :=
  have h := h.abortCalls.abortPasses.withVis.dropWaits.leaveCores.withSch.withBrg.donorResume.relend.complete.trace.synTaskEnd
  .ite h.event h

theorem Sound.endLoads {p status} (h : Sound s₀ s) : Sound s₀ (s.endLoads p status) :=
  .foldl (fun _ _ h => by split; exacts [h.complete, h]) h.withSch

theorem Sound.teardown {ctx status q seq} (h : Sound s₀ s) : Sound s₀ (s.teardown ctx status q seq) :=
  .ite
    h
    (Sound.foldl
       (fun _ _ h => h.semAbandon)
       (Sound.foldl
          (fun _ _ h => h.completeRung)
          (Sound.foldl (fun _ _ h => h.finishTask) h.setBit).endLoads).withSch).relend.event

theorem Sound.endTaskWith {t' status loc info} (h : Sound s₀ s) : Sound s₀ (s.endTaskWith t' status loc info) :=
  have h := h.finishTask
  .ite h.raise.teardown h

theorem Sound.endTask {t' status loc} (h : Sound s₀ s) : Sound s₀ (s.endTask t' status loc) := h.endTaskWith

theorem Sound.endSlot {x status loc} (h : Sound s₀ s) : Sound s₀ (s.endSlot x status loc) := by
  unfold State.endSlot
  split
  · exact h.endTask
  · exact h

theorem Sound.endEntry {q e status loc} (h : Sound s₀ s) : Sound s₀ (s.endEntry q e status loc) :=
  have h := h.complete.synTaskEnd
  .ite h.raise.teardown h

theorem Sound.startEviction {x for_} (h : Sound s₀ s) : Sound s₀ (s.startEviction x for_) :=
  have h := h.abortCalls
  have h := (Sound.ite h.coreIdle h).countHalo.abortTransfers
  have h := (Sound.ite (by split; exacts [h.putTask.account, h]) h).count.trace
  .ite h.wakeCore h

theorem Sound.placeInputs {q seq} (h : Sound s₀ s) : Sound s₀ (s.placeInputs q seq) := by
  unfold State.placeInputs
  split
  · exact h
  · exact .foldl (fun _ _ h => .foldl (fun _ _ h => h.write) h) h

theorem Sound.writeOpen {a n} (h : Sound s₀ s) : Sound s₀ (s.writeOpen a n) := h.write.draw

theorem Sound.saveRecord {x a} (h : Sound s₀ s) : Sound s₀ (s.saveRecord x a) := h.copyRange.writeOpen.writeOpen.dieWrote

theorem Sound.endEviction {x parked} (h : Sound s₀ s) : Sound s₀ (s.endEviction x parked) := h.saveRecord.keepImage.withSch

theorem Sound.startRestore {l} (h : Sound s₀ s) : Sound s₀ (s.startRestore l) := h.withSch.account

theorem Sound.endRestore {x l} (h : Sound s₀ s) : Sound s₀ (s.endRestore x l) :=
  h.copyRange.dieRead.withSch.putSlot.count.trace.wakeCore

/-! ### Cool boxes -/

theorem Sound.countExpired {q e} (h : Sound s₀ t) : Sound s₀ (s.countExpired q e t) := .ite h h.countSat

theorem Sound.handleHead {q ops f} (h : Sound s₀ s) (hf : ∀ e, Sound s₀ (f e s)) : Sound s₀ (s.handleHead q ops f) := by
  unfold State.handleHead
  refine .ite h ?_
  split
  · exact h
  · split
    · exact h.popEntry.endEntry
    · exact .ite h.popEntry.endEntry (.ite h (.ite h (.countExpired (hf _))))

theorem execDependencyCancel_meaning {queue} : Meaning s (execDependencyCancel queue s) :=
  .live fun h => by
    split
    · exact h
    · exact .ite h.popEntry.complete.synTaskEnd h

theorem execEntryMarker_meaning {queue} : Meaning s (execEntryMarker queue s) :=
  .live fun h => h.handleHead fun _ => h.popEntry.complete

theorem Sound.putModel {m} (h : Sound s₀ s) : Sound s₀ (s.putModel m) := h.withSch

theorem Sound.touchModel {m} (h : Sound s₀ s) : Sound s₀ (s.touchModel m) := h.putModel.withSch

theorem Sound.copySegment {m i src size cluster} (h : Sound s₀ s) : Sound s₀ (s.copySegment m i src size cluster) :=
  h.dieRead.write

theorem Sound.copyModel {m} (h : Sound s₀ s) : Sound s₀ (s.copyModel m) :=
  .foldl (fun _ _ h => .foldl (fun _ _ h => h.copySegment) h) h

theorem Sound.boxCount {ctx m hit} (h : Sound s₀ s) : Sound s₀ (s.boxCount ctx m hit) :=
  .foldl (fun _ _ h => h.pmcAdd) h.account

theorem Sound.coolMakeRoom {m fuel} (h : Sound s₀ s) : Sound s₀ (s.coolMakeRoom m fuel) := by
  induction fuel generalizing s with
  | zero => exact h
  | succ fuel ih =>
    rw [State.coolMakeRoom]
    refine .ite h ?_
    split
    · exact ih h.putModel
    · exact h

theorem Sound.endRequest {q e status} (h : Sound s₀ s) : Sound s₀ (s.endRequest q e status) := h.popEntry.complete

theorem execCoolBoxLoad_meaning {queue} : Meaning s (execCoolBoxLoad queue s) :=
  .live fun h => h.handleHead fun _ => by
    extract_lets
    split
    · exact .ite h.popEntry.endEntry h.endRequest
    · split
      · exact h.touchModel.boxCount.endRequest
      · refine .ite h.endRequest ?_
        split
        · exact h.popEntry.endEntry
        · exact .ite h.coolMakeRoom.touchModel.popEntry h.coolMakeRoom

theorem execCoolBoxLoadEnd_meaning {part handle} : Meaning s (execCoolBoxLoadEnd part handle s) :=
  .live fun h => by
    split
    · exact h
    · split
      · exact h
      · exact .ite h h.putModel.copyModel.account.complete

theorem Sound.coolRequest {q op f} (h : Sound s₀ s) (hf : ∀ e m, Sound s₀ (f e m s)) : Sound s₀ (s.coolRequest q op f) :=
  h.handleHead fun _ => by split; exacts [h.endRequest, hf _ _]

theorem execCoolBoxPin_meaning {queue} : Meaning s (execCoolBoxPin queue s) :=
  .live fun h => h.coolRequest fun _ _ => h.putModel.endRequest

theorem execCoolBoxUnpin_meaning {queue} : Meaning s (execCoolBoxUnpin queue s) :=
  .live fun h => h.coolRequest fun _ _ => h.putModel.endRequest

theorem Sound.applyUnpins (h : Sound s₀ s) : Sound s₀ s.applyUnpins := h.withSch

theorem execCoolBoxDrop_meaning {queue} : Meaning s (execCoolBoxDrop queue s) :=
  .live fun h => h.coolRequest fun _ _ => .ite h h.withSch.endRequest

theorem execModelReloadEnd_meaning {part handle} : Meaning s (execModelReloadEnd part handle s) :=
  .live fun h => by
    split
    · exact h
    · exact .ite h.touchModel.copyModel h

theorem Sound.taskModel {t'} (h : Sound s₀ s) : Sound s₀ (s.taskModel t').1 := by
  refine .iteFst h ?_
  split
  · exact h
  · exact .iteFst
      (.ite h h.boxCount.putTask)
      (.iteFst
        (.ite h.touchModel h.touchModel.boxCount)
        (have h := Sound.ite h h.boxCount.putTask;
         .iteFst h (have h := h.coolMakeRoom; .iteFst h.putModel.account.account h)))

/-! ### Tensors of Synthesis -/

theorem Sound.synRead {o reads} (h : Sound s₀ s) : Sound s₀ (s.synRead o reads) := .foldl (fun _ _ h => h.hubRead) h

theorem Sound.warpTraffic {o p n newer} (h : Sound s₀ s) : Sound s₀ (s.warpTraffic o p n newer) := h.draw.synRead

/-! ### Slice commands -/

theorem Sound.putRun {o r} (h : Sound s₀ s) : Sound s₀ (s.putRun o r) := h.setOut

theorem Sound.putFrame {o r} (h : Sound s₀ s) : Sound s₀ (s.putFrame o r) := h.setOut

theorem Sound.bankFlags {o} (h : Sound s₀ s) : Sound s₀ (s.bankFlags o) := h.setBit.setBit

theorem Sound.entriesFlag {o} (h : Sound s₀ s) : Sound s₀ (s.entriesFlag o) := h.setFld

theorem Sound.mapCur {o n code} (h : Sound s₀ s) : Sound s₀ (s.mapCur o n code) := h.setFld

theorem Sound.decideOrigin {o frame n code} (h : Sound s₀ s) : Sound s₀ (s.decideOrigin o frame n code) := by
  refine .ite ?_ ?_
  · refine .mapCur ?_
    split
    · exact .putFrame (by split; exacts [h.putRun, h])
    · split
      · exact h.putRun
      · exact h
  · split
    · exact .putFrame (by split; exacts [h.putRun, h])
    · split
      · exact h.putRun
      · exact h

theorem Sound.setLco {o p v} (h : Sound s₀ s) : Sound s₀ (s.setLco o p v) := h.setBit.setBit

theorem Sound.discardLco {o} (h : Sound s₀ s) : Sound s₀ (s.discardLco o) :=
  have h := h.setOut
  by
    unfold State.discardLco
    dsimp only
    split
    · exact h.setLco
    · exact h.setBit

theorem Sound.startWarp {o p r} (h : Sound s₀ s) : Sound s₀ (s.startWarp o p r) := h.putRun.setBit.setFld.bankFlags

theorem Sound.nextWarp {o p fuel} (h : Sound s₀ s) : Sound s₀ (s.nextWarp o p fuel) := by
  induction fuel generalizing s with
  | zero => exact h
  | succ fuel ih =>
    rw [State.nextWarp]
    refine .ite h ?_
    split
    · exact h
    · exact .ite h.startWarp (ih h.decideOrigin)

theorem Sound.ladder {o frame n} (h : Sound s₀ s) : Sound s₀ (s.ladder o frame n) := by
  unfold State.ladder
  split
  · exact .ite h.decideOrigin.nextWarp h.decideOrigin
  · exact h.decideOrigin

theorem Sound.submitEntry {x bs} (h : Sound s₀ s) : Sound s₀ (s.submitEntry x bs) := h.write.doorbell

theorem Sound.cancelEntry {q seq status} (h : Sound s₀ s) : Sound s₀ (s.cancelEntry q seq status) := by
  unfold State.cancelEntry
  split
  · exact .ite h.finishTask h.withSch.complete.synTaskEnd
  · split
    · split
      · exact h.putQueue.complete.synTaskEnd
      · exact h
    · exact h

theorem Sound.failEntry {q seq status loc} (h : Sound s₀ s) : Sound s₀ (s.failEntry q seq status loc) := by
  unfold State.failEntry
  split
  · exact .ite h.endTask h.withSch.endEntry
  · split
    · split
      · exact h.putQueue.endEntry
      · exact h
    · exact h

theorem Sound.setEntries {o b} (h : Sound s₀ s) : Sound s₀ (s.setEntries o b) := h.setFld.setFld

theorem Sound.referenceAt {o n} (h : Sound s₀ s) : Sound s₀ (s.referenceAt o n) :=
  .ite
    (.ite
       (.adpSkip (by split; exacts [.ite h.adpDrop h, h]))
       (Sound.adpGiveUp (by split; exacts [.ite h.adpDrop h, h])).setOut.adpStatus)
    (by split; exacts [.ite h.adpDrop h, h])

theorem Sound.synWrite {o a bs} (h : Sound s₀ s) : Sound s₀ (s.synWrite o a bs) := by
  unfold State.synWrite
  split
  · next _ e => exact (h.writeFor e).hubWrote
  · exact h

theorem Sound.captureSlice {o frame n history vectors} (h : Sound s₀ s) :
    Sound s₀ (s.captureSlice o frame n history vectors) := by
  unfold State.captureSlice
  dsimp only
  split
  · exact h
  · split
    · exact h
    · refine .ite h ?_
      split
      · exact
          have h := (Sound.setOut (by
                split
                · exact (Sound.synRead (by split; exacts [h, h.draw])).synWrite
                · split
                  · exact h
                  · exact h.draw)).setBit.setFld;
          .ite h.count h
      · exact h

theorem Sound.applySelector {o} (h : Sound s₀ s) : Sound s₀ (s.applySelector o) :=
  .ite h.setOut.setFld.adpStatus (.ite h.setOut.setFld.count.adpStatus h)

theorem Sound.frameBoundary {o f} (h : Sound s₀ s) : Sound s₀ (s.frameBoundary o f) :=
  have h := h.applySelector.setOut
  (Sound.ite (.setOut (by split; exacts [h.poke, h])) (by split; exacts [h.poke, h])).setEntries.referenceAt

theorem Sound.releaseSlice {o f n} (h : Sound s₀ s) : Sound s₀ (s.releaseSlice o f n) :=
  have h := h.setOut.captureSlice
  by
    refine .ite h ?_
    refine .ite h.putRun ?_
    split
    · exact h.putRun
    · dsimp only
      split
      · exact h.putRun.synCount
      · exact h.putRun.setOut.bankFlags.adpStatus.submitEntry

theorem execSliceRelease_meaning {output} : Meaning s (execSliceRelease output s) :=
  .live fun h => .ite h (Sound.ite h.frameBoundary h).setOut.releaseSlice.entriesFlag

theorem execKeyframeDirectEnd_meaning {tag good} : Meaning s (execKeyframeDirectEnd tag good s) :=
  .live fun h => by
    dsimp only
    split
    · exact h
    · refine .ite h ?_
      split
      · exact
          have h := h.synRead;
          .ite h.putRun.decideOrigin h.ladder
      · exact h.ladder

theorem execTaggedSliceWrite_meaning {tag offset data} : Meaning s (execTaggedSliceWrite tag offset data s) :=
  .live fun h => by
    dsimp only
    split
    · exact .ite h.putRun h.synCount
    · exact h.synCount

theorem execSliceDoneWord_meaning {tag word} : Meaning s (execSliceDoneWord tag word s) :=
  .live fun h => by
    dsimp only
    split
    · exact h.synCount
    · refine .ite h.synCount ?_
      refine .ite ?_ ?_
      · refine (Sound.synCount ?_).ladder
        split
        · exact
            have h := h.setOut;
            by split; exacts [.ite h.putTask h, h]
        · exact h
      · refine .ite ?_ ?_
        · refine (Sound.synCount ?_).ladder
          split
          · exact
              have h := h.setOut;
              by split; exacts [.ite h.putTask h, h]
          · exact h
        · refine (Sound.putRun ?_).decideOrigin
          split
          · exact
              have h := h.setOut;
              by split; exacts [.ite h.putTask h, h]
          · exact h

theorem execFallbackPoint_meaning {tag} : Meaning s (execFallbackPoint tag s) :=
  .live fun h => by
    dsimp only
    split
    · exact h
    · refine .ite h ?_
      exact
        have h := h.synCount.ladder;
        by split; exacts [h.cancelEntry, h]

theorem execWarpEnd_meaning {tag} : Meaning s (execWarpEnd tag s) :=
  .live fun h => by
    dsimp only
    split
    · exact h
    · split
      · exact h
      · split
        · exact h
        · exact
            have h := h.warpTraffic.poke.setBit.setBit;
            (Sound.bankFlags (by
                split
                · exact
                    have h := h.count;
                    .ite h.putRun h.putRun
                · exact
                    have h := h.countSat.putRun;
                    .ite h.decideOrigin h)).nextWarp

theorem execWarpDeadline_meaning {tag} : Meaning s (execWarpDeadline tag s) :=
  .live fun h => by
    dsimp only
    split
    · exact .ite h.decideOrigin h
    · exact h

theorem execSliceFetch_meaning {tag} : Meaning s (execSliceFetch tag s) :=
  .live fun h => by
    dsimp only
    split
    · exact h
    · exact
        have h := Sound.ite h h.decideOrigin.synCount;
        .foldl (fun _ _ h => h.setPipe) (by split; exacts [by split; exacts [h.putRun, h], h])

theorem Sound.writeRows {ctx base pitch rowBytes bs ys} (h : Sound s₀ s) :
    Sound s₀ (s.writeRows ctx base pitch rowBytes bs ys).1 := by
  induction ys generalizing s bs with
  | nil => exact h
  | cons y ys ih =>
    rw [State.writeRows]
    split
    · next e => exact ih (h.writeFor e).hubWrote
    · exact h

theorem Sound.dropFrame {o f} (h : Sound s₀ s) : Sound s₀ (s.dropFrame o f) := .ite h.setOut h.putFrame

theorem execSliceWritebackEnd_meaning {tag} : Meaning s (execSliceWritebackEnd tag s) :=
  .live fun h => by
    dsimp only
    split
    · exact
        have h := (Sound.iteFst h.writeRows h).setOut.entriesFlag.bankFlags;
        (Sound.ite
           (Sound.setLco (by split; exacts [.ite h.setBit.nextWarp h, h])).setFld.poke
           (by split; exacts [.ite h.setBit.nextWarp h, h])).dropFrame
    · exact h.setOut.entriesFlag.bankFlags

theorem Sound.originRecord {o frame} (h : Sound s₀ s) : Sound s₀ (s.originRecord o frame) := by
  unfold State.originRecord
  split
  · exact h
  · refine .ite h ?_
    exact
      have h := (Sound.synWrite (by split; exacts [h, h.draw])).poke;
      have h := (Sound.foldl
           (fun _ _ h => h.poke.poke)
           (Sound.foldl (fun _ _ h => h.count) (.ite h.setOut h.countSat)).count).dropFrame;
      .ite h.event h

theorem Sound.planFirst {o} (h : Sound s₀ s) : Sound s₀ (s.planFirst o) := .ite h.setOut h

theorem Sound.synSoa {o frame} (h : Sound s₀ s) : Sound s₀ (s.synSoa o frame) :=
  have h := Sound.foldl (fun _ _ h => h.poke) (Sound.setOut (by split; exacts [.ite h.synCount h, h])).poke64.poke
  .ite (have h := h.poke; .ite h.planFirst h) h

/-! ### Synthesis registers -/

theorem Sound.configFault {o code offset} (h : Sound s₀ s) : Sound s₀ (s.configFault o code offset) := h.setFld.event

theorem execSynEnable_meaning {output value} : Meaning s (execSynEnable output value s) :=
  .live fun h =>
    have h := h.poke
    .ite h h.setOut

theorem Sound.sliceRegs {o} (h : Sound s₀ s) : Sound s₀ (s.sliceRegs o) := .foldl (fun _ _ h => h.poke) h

theorem execSynEnableCheckEnd_meaning {output header} : Meaning s (execSynEnableCheckEnd output header s) :=
  .live fun h =>
    .ite
      h
      (have h := h.setOut;
       .ite h.setBit.setBit.configFault.applyUnpins h.setOut.setBit.setFld.poke.discardLco.setEntries.sliceRegs.poke.planFirst)

theorem Sound.stopSlices {o} (h : Sound s₀ s) : Sound s₀ (s.stopSlices o) :=
  .foldl (fun _ _ h => have h := Sound.ite h.ladder h; by dsimp only; split; exacts [h.cancelEntry, h]) h

theorem Sound.synStop {o} (h : Sound s₀ s) : Sound s₀ (s.synStop o) :=
  have h := h.setBit.stopSlices.discardLco
  .applyUnpins (by split; exacts [.ite h.setOut.setBit h, h])

theorem execSynDisable_meaning {output value} : Meaning s (execSynDisable output value s) :=
  .live fun h =>
    have h := h.poke.setOut
    .ite h.synStop h.applyUnpins

theorem Sound.plainWrite {r ix value} (h : Sound s₀ s) : Sound s₀ (s.plainWrite r ix value) := h.poke

theorem execSynLockedWrite_meaning {output reg value} : Meaning s (execSynLockedWrite output reg value s) :=
  .live fun h => .ite h.configFault h.plainWrite

theorem execSynTestedWrite_meaning {output reg value} : Meaning s (execSynTestedWrite output reg value s) :=
  .live fun h => .ite h.plainWrite h.configFault

theorem execBankPublish_meaning {output bank} : Meaning s (execBankPublish output bank s) := .live fun h => h.setOut.setFld

theorem Sound.copied {old a} (h : Sound s₀ s) : Sound s₀ (s.copied old a).1 := .iteFst h h.draw

theorem Sound.inputStage {o r} (h : Sound s₀ s) : Sound s₀ (s.inputStage o r).1 := by
  unfold State.inputStage
  split
  · exact h
  · exact .iteFst h h.synRead

theorem Sound.endCopies {o b r} (h : Sound s₀ s) : Sound s₀ (s.endCopies o b r) := by
  unfold State.endCopies
  split
  next e =>
    have h := (Sound.iteFst h.copied.inputStage h).of_fst e
    split
    · exact .ite h.copied.putRun h.putRun
    · exact h.putRun

theorem Sound.giveInputs {o b r} (h : Sound s₀ s) : Sound s₀ (s.giveInputs o b r) := by
  unfold State.giveInputs
  split
  · exact .ite (by split; exacts [h.failEntry, h.placeInputs]) h
  · exact h

theorem execBankCopyEnd_meaning {output bank} : Meaning s (execBankCopyEnd output bank s) :=
  .live fun h => .foldl (fun _ _ h => h.giveInputs) (Sound.foldl (fun _ _ h => h.endCopies) h).bankFlags

/-! ### Adaptation -/

theorem Sound.fillScene {o w} (h : Sound s₀ s) : Sound s₀ (s.fillScene o w) := by
  unfold State.fillScene
  split
  · exact .foldl (fun _ _ h => h.synWrite) h
  · exact h

theorem execAdaptJobLaunch_meaning {output} : Meaning s (execAdaptJobLaunch output s) :=
  .live fun h => by
    dsimp only
    split
    · exact .ite h h.fillScene.draw.synWrite.setOut.setBit.setBit.adpStatus.submitEntry
    · exact h

theorem Sound.adpSwap {o request buffer target} (h : Sound s₀ s) : Sound s₀ (s.adpSwap o request buffer target) :=
  .ite h.setOut.adpStatus (.ite h.setOut.adpCount.adpStatus h.setOut.adpStatus)

theorem Sound.revertBy {o w cause} (h : Sound s₀ s) : Sound s₀ (s.revertBy o w cause) :=
  .adpRevert (by split; exacts [by split; exacts [h.putTask, h], h])

theorem Sound.adpEnter {o lossA lossB} (h : Sound s₀ s) : Sound s₀ (s.adpEnter o lossA lossB).1 :=
  have h := h.setOut.adpStatus
  .iteFst h.poke.poke h

theorem Sound.adpAccept {o w flags lossA lossB} (h : Sound s₀ s) : Sound s₀ (s.adpAccept o w flags lossA lossB) :=
  have h := h.setOut.setBit
  .ite h.setOut.adpStatus (.ite h.revertBy (have h := Sound.iteFst h.adpEnter h; .ite h.revertBy h.adpSwap))

theorem execAdaptReport_meaning {output ref flags lossA lossB} : Meaning s (execAdaptReport output ref flags lossA lossB s) :=
  .live fun h => .ite h.setOut (by split; exacts [.ite h.adpAccept h.adpCount, h.adpCount])

theorem execAdaptJobTimeout_meaning {output} : Meaning s (execAdaptJobTimeout output s) :=
  .live fun h => by
    dsimp only
    split
    · exact .ite h.adpFail h
    · exact h

theorem Sound.adpRearm {o} (h : Sound s₀ s) : Sound s₀ (s.adpRearm o) := h.setBit.setBit

theorem execAdaptRearm_meaning {output} : Meaning s (execAdaptRearm output s) := .live fun h => h.adpRearm

theorem Sound.adpSettle {o} (h : Sound s₀ s) : Sound s₀ (s.adpSettle o) := by
  unfold State.adpSettle
  split
  · exact .ite h.adpGiveUp.adpStatus h
  · exact h

theorem Sound.adpSetMode {o mode} (h : Sound s₀ s) : Sound s₀ (s.adpSetMode o mode) :=
  have h := h.setFld
  .ite h.setOut.adpGiveUp.adpStatus (Sound.ite h.setBit h).adpSettle

theorem execAdaptModeWrite_meaning {output mode} : Meaning s (execAdaptModeWrite output mode s) := .live fun h => h.adpSetMode

/-! ### Scales -/

theorem Sound.startRecord {ctx master as} (h : Sound s₀ s) : Gives (Sound s₀) (s.startRecord ctx master as) := by
  induction as generalizing s with
  | nil => exact .ok h
  | cons a as ih => exact .read fun _ => .bind h.tryWrite fun _ => ih

theorem Sound.startRecords {ctx rs} (h : Sound s₀ s) : Gives (Sound s₀) (s.startRecords ctx rs) := by
  induction rs generalizing s with
  | nil => exact .ok h
  | cons r rs ih => exact .bind h.startRecord fun _ => ih

theorem Sound.zeroWords {ctx as} (h : Sound s₀ s) : Gives (Sound s₀) (s.zeroWords ctx as) := by
  induction as generalizing s with
  | nil => exact .ok h
  | cons a as ih => exact .bind h.tryWrite fun _ => ih

theorem Sound.startWrites {ctx b} (h : Sound s₀ s) : Gives (Sound s₀) (s.startWrites ctx b) :=
  .bind h.zeroWords fun _ h => h.startRecords

theorem Sound.writeRecords {ctx rec as} (h : Sound s₀ s) : Gives (Sound s₀) (s.writeRecords ctx rec as) := by
  induction as generalizing s with
  | nil => exact .ok h
  | cons a as ih => exact .bind h.tryWrite fun _ => ih

/-! ### Placement of tasks -/

theorem Sound.loadCode {t' core i} (h : Sound s₀ s) : Gives (Sound s₀) (s.loadCode t' core i) :=
  .ite (.ok h) (by split; exacts [.error, .error, .ok h.withSch.dieRead.account])

theorem Sound.takeSlot {t' core i} (h : Sound s₀ s) : Sound s₀ (s.takeSlot t' core i) :=
  have h := h.withSch
  by
    refine .ite h.endTask ?_
    split
    · exact h.endTask
    · next _ e => exact (h.loadCode e).placeInputs.wakeCore

theorem Sound.markStarted {t'} (h : Sound s₀ s) : Sound s₀ (s.markStarted t') := h.withSch.putTask.trace

theorem Sound.takeSlots {q seq places} (h : Sound s₀ s) : Sound s₀ (s.takeSlots q seq places) := by
  induction places generalizing s with
  | nil => exact h
  | cons p places ih =>
    rw [State.takeSlots]
    split
    · exact .ite (ih h.takeSlot) h
    · exact h

theorem Sound.evictOne {t' x} (h : Sound s₀ s) : Sound s₀ (s.evictOne t' x) := .ite h.startEviction h.countSat

theorem Sound.evictFor {t' xs} (h : Sound s₀ s) : Sound s₀ (s.evictFor t' xs) := by
  induction xs generalizing s with
  | nil => exact h
  | cons x xs ih => exact .ite h (ih (by split; exacts [.ite h.evictOne h, h]))

theorem Sound.tryEvict {t'} (h : Sound s₀ s) : Sound s₀ (s.tryEvict t') := h.evictFor

theorem Sound.endUnstarted {t' status loc} (h : Sound s₀ s) : Sound s₀ (s.endUnstarted t' status loc) := h.withSch.endEntry

theorem Sound.beginTask {q seq b} (h : Sound s₀ s) : Sound s₀ (s.beginTask q seq b) := by
  unfold State.beginTask
  split
  · exact h
  · split
    · next _ e => exact h.startWrites e
    · exact h.endTask

theorem Sound.evictInstead {t'} (h : Sound s₀ s) : Sound s₀ (s.evictInstead t').1 := h.tryEvict

theorem Sound.startOn {t' slots b} (h : Sound s₀ s) : Sound s₀ (s.startOn t' slots b) := h.markStarted.takeSlots.beginTask

theorem Sound.dispatchTask {t' b} (h : Sound s₀ s) : Sound s₀ (s.dispatchTask t' b).1 := by
  refine .iteFst ?_ ?_
  · split
    · exact h.evictInstead
    · exact h.takeSlots
  · split
    · exact h.endUnstarted
    · split
      · next _ e => exact (h.taskModel.of_fst e).endUnstarted
      · next _ e => exact h.taskModel.of_fst e
      · next _ e =>
        split
        · exact h.evictInstead
        · exact .iteFst (h.taskModel.of_fst e).startOn h

theorem Sound.dispatchStatic {t'} (h : Sound s₀ s) : Sound s₀ (s.dispatchStatic t') := by
  unfold State.dispatchStatic
  split
  · exact h.endUnstarted
  · refine .ite h.dispatchTask ?_
    split
    · next _ e => exact (h.taskModel.of_fst e).endUnstarted
    · next _ e => exact h.taskModel.of_fst e
    · next _ e =>
        split
        · exact h
        · exact (h.taskModel.of_fst e).startOn

theorem Sound.dispatchFirst {b ts} (h : Sound s₀ s) : Sound s₀ (s.dispatchFirst b ts) := by
  induction ts generalizing s with
  | nil => exact h
  | cons t ts ih => exact .ite h.dispatchTask (ih h.dispatchTask)

theorem execTaskDispatch_meaning {turn} : Meaning s (execTaskDispatch turn s) := .live fun h => .ite h.dispatchFirst h

theorem Sound.takeEntry {q} (h : Sound s₀ s) : Sound s₀ (s.takeEntry q) :=
  h.handleHead fun _ => by split; exacts [h, h.popEntry.withSch]

theorem execEntryTask_meaning {queue} : Meaning s (execEntryTask queue s) := .live fun h => h.takeEntry

theorem Sound.groupsReturned {q seq returned} (h : Sound s₀ s) : Sound s₀ (s.groupsReturned q seq returned) :=
  .foldl (fun _ _ h => by split; exacts [.ite h.putSlot.putTask h, h]) h

theorem execGroupDispatch_meaning {task returned} : Meaning s (execGroupDispatch task returned s) :=
  .live fun h =>
    have h := h.groupsReturned
    by
      dsimp only
      split
      · exact h
      · exact .ite (by split; exacts [h.putSlot.putTask, h]) h

/-! ### Shares of memory -/

theorem Sound.writeIn {share off bs} (h : Sound s₀ s) : Gives (Sound s₀) (s.writeIn share off bs) :=
  .ite .error (by split; exacts [.error, .ok h.write])

theorem Sound.writeShare {x off bs} (h : Sound s₀ s) : Gives (Sound s₀) (s.writeShare x off bs) := h.writeIn

theorem Sound.orEnd {x r} (h : Sound s₀ s) (hr : Gives (Sound s₀) r) : Sound s₀ (s.orEnd x r) := by
  cases r with
  | ok t => exact hr rfl
  | error e => exact h.endSlot

theorem Sound.signalAt {core i e} (h : Sound s₀ s) : Sound s₀ (s.signalAt core i e) := by
  unfold State.signalAt
  split
  · exact h.putSlot
  · exact h

/-! ### The engines of a core -/

theorem Sound.movedBy {x n} (h : Sound s₀ s) : Sound s₀ (s.movedBy x n) := h.account

theorem Sound.ldw {n cmd x} (h : Sound s₀ s) : Gives (Sound s₀) (s.ldw n cmd x) := by
  unfold State.ldw
  extract_lets e jp
  have hjp (tile) : Gives (Sound s₀) (jp tile) := .ok h.movedBy.putSlot
  split
  · exact .read hjp
  · exact .read fun _ => .read hjp

theorem Sound.stream {n x f bcast accRow count overwrite refused mapping width own} (h : Sound s₀ s) :
    Gives (Sound s₀) (s.stream n x f bcast accRow count overwrite refused mapping width own) :=
  .ite .error (.ite .error (.read fun _ => .read fun _ => .ok h.movedBy.putSlot))

theorem Sound.mma {n cmd x} (h : Sound s₀ s) : Gives (Sound s₀) (s.mma n cmd x) := h.stream

theorem Sound.convolve {n cmd x refused mapping width} (h : Sound s₀ s) :
    Gives (Sound s₀) (s.convolve n cmd x refused mapping width) := h.stream

theorem Sound.conv {n cmd x} (h : Sound s₀ s) : Gives (Sound s₀) (s.conv n cmd x) := h.convolve

theorem Sound.dwc {n cmd x} (h : Sound s₀ s) : Gives (Sound s₀) (s.dwc n cmd x) := h.convolve

theorem Sound.accRows {i row rows fp op x} (h : Sound s₀ s) : Gives (Sound s₀) (s.accRows i row rows fp op x) := by
  unfold State.accRows
  extract_lets e n bytes jp
  have hjp (e) : Gives (Sound s₀) (jp e) := .ok h.movedBy.putSlot
  refine .ite .error (.read fun _ => ?_)
  split
  · exact .read hjp
  · exact .read fun _ => .read hjp
  · exact .read fun _ => .read hjp
  · exact .ite (.read hjp) (.read fun _ => .read hjp)

theorem Sound.gap {i row rows into fp x} (h : Sound s₀ s) : Gives (Sound s₀) (s.gap i row rows into fp x) :=
  .ite .error (.read fun _ => .read fun _ => .ok h.putSlot)

theorem Sound.storeRows {x dst pitch rows} (h : Sound s₀ s) : Gives (Sound s₀) (s.storeRows x dst pitch rows) := by
  induction rows generalizing s dst with
  | nil => exact .ok h
  | cons row rows ih => exact .bind h.writeShare fun _ => ih

theorem Sound.rqBypass {n cmd x} (h : Sound s₀ s) : Gives (Sound s₀) (s.rqBypass n cmd x) :=
  .bind h.storeRows fun _ h => .ok h.movedBy

theorem Sound.rqConvert {n cmd x} (h : Sound s₀ s) : Gives (Sound s₀) (s.rqConvert n cmd x) := by
  unfold State.rqConvert
  extract_lets e count lanes dynamic size drawing draws jpStats
  have hstats {t} (h : Sound s₀ t) : Gives (Sound s₀) (jpStats t) := .ok h.withFree.movedBy.putSlot
  refine .read fun _ => ?_
  extract_lets jpRecord
  have hrecord (rec) : Gives (Sound s₀) (jpRecord rec) := .bind h.storeRows fun _ h => by
    split
    · exact .bind h.writeShare fun _ => hstats
    · exact .bind (.ok h) fun _ => hstats
  split
  · exact .read hrecord
  · exact .read hrecord

theorem Sound.rq {n cmd x} (h : Sound s₀ s) : Gives (Sound s₀) (s.rq n cmd x) :=
  .ite .error (.ite .error (.read fun _ => .ite h.rqBypass h.rqConvert))

theorem Sound.engineDo {n c x} (h : Sound s₀ s) : Gives (Sound s₀) (s.engineDo n c x) := by
  cases c with
  | ldw cmd => exact h.ldw
  | mma cmd => exact h.mma
  | conv cmd => exact h.conv
  | dwc cmd => exact h.dwc
  | acc row rows fp op => exact h.accRows
  | gap row rows into fp => exact h.gap
  | rq cmd => exact h.rq
  | sig event => exact .ok h.putSlot
  | waite event target => exact .ok h.putSlot

theorem Sound.runQueues {core i fuel} (h : Sound s₀ s) : Sound s₀ (s.runQueues core i fuel) := by
  induction fuel generalizing s with
  | zero => exact h
  | succ fuel ih =>
    rw [State.runQueues]
    split
    · exact h
    · split
      · exact h
      · split
        · exact h
        · exact ih (h.putSlot.orEnd h.putSlot.engineDo)

theorem Sound.drainEngines {core i} (h : Sound s₀ s) : Sound s₀ (s.drainEngines core i) := by
  unfold State.drainEngines
  split
  · exact .ite h h.runQueues
  · exact h

theorem Sound.issue {n c} (h : Sound s₀ s) : Sound s₀ (s.issue n c) := by
  unfold State.issue
  split
  · exact h
  · exact .ite h (.ite (h.orEnd h.engineDo).drainEngines (.ite h.putSlot.drainEngines h.putSlot))

theorem execEngineLdw_meaning {at_ cmd} : Meaning s (execEngineLdw at_ cmd s) := .live fun h => h.issue

theorem execEngineMma_meaning {at_ cmd} : Meaning s (execEngineMma at_ cmd s) := .live fun h => h.issue

theorem execEngineConv_meaning {at_ cmd} : Meaning s (execEngineConv at_ cmd s) := .live fun h => h.issue

theorem execEngineDwc_meaning {at_ cmd} : Meaning s (execEngineDwc at_ cmd s) := .live fun h => h.issue

theorem execEngineAcc_meaning {at_ row rows fp op} : Meaning s (execEngineAcc at_ row rows fp op s) := .live fun h => h.issue

theorem execEngineGap_meaning {at_ row rows into fp} : Meaning s (execEngineGap at_ row rows into fp s) :=
  .live fun h => h.issue

theorem execEngineRq_meaning {at_ cmd} : Meaning s (execEngineRq at_ cmd s) := .live fun h => h.issue

theorem execEngineSig_meaning {at_ event} : Meaning s (execEngineSig at_ event s) := .live fun h => h.issue

theorem execEngineWaite_meaning {at_ event target} : Meaning s (execEngineWaite at_ event target s) := .live fun h => h.issue

/-! ### SIMT instructions -/

theorem Sound.onHamper {n f} (h : Sound s₀ s) (hf : ∀ x k, Gives (Sound s₀) (f x k)) : Sound s₀ (s.onHamper n f) := by
  unfold State.onHamper
  split
  · exact h
  · split
    · exact .ite h (h.orEnd (hf _ _))
    · exact h

theorem Sound.onReading {n rs f} (h : Sound s₀ s) (hf : ∀ x k, Gives (Sound s₀) (f x k)) : Sound s₀ (s.onReading n rs f) :=
  h.onHamper fun x k => .ite (hf x k) .error

theorem Sound.onLanes {n rs rd f} (h : Sound s₀ s) : Sound s₀ (s.onLanes n rs rd f) := h.onReading fun _ _ => .ok h.putSlot

theorem execSimtFpArith_meaning {at_ op rd ra rb rc} : Meaning s (execSimtFpArith at_ op rd ra rb rc s) :=
  .live fun h => h.onLanes

theorem execSimtInteger_meaning {at_ op rd ra rb} : Meaning s (execSimtInteger at_ op rd ra rb s) :=
  .live fun h => h.onReading fun _ _ => .ok h.withFree.putSlot

theorem execSimtConvert_meaning {at_ src dst rounding sat rd ra} :
    Meaning s (execSimtConvert at_ src dst rounding sat rd ra s) :=
  .live fun h => h.onReading fun _ _ => .ite (.ok h) (.ok h.putSlot)

theorem execSimtHamperExchange_meaning {at_ op rd ra rb} : Meaning s (execSimtHamperExchange at_ op rd ra rb s) :=
  .live fun h => h.onReading fun _ _ => .ok h.withFree.putSlot

theorem Sound.acceptStores {x p} (h : Sound s₀ s) : Sound s₀ (s.acceptStores x p) := h.applyStores.putSlot

theorem execSimtLoadStore_meaning {at_ store space words rd ra} :
    Meaning s (execSimtLoadStore at_ store space words rd ra s) :=
  .live fun h => h.onReading fun _ _ => .ite (.ok h) (by
    extract_lets
    split
    · exact .error
    · refine .ite ?_ (.ok h.putSlot)
      extract_lets
      split
      · exact .ok (.foldl (fun _ _ h => h.write) h)
      · exact .ok h.putSlot)

theorem Sound.atomicLane {x op a b c h' lane rd} (h : Sound s₀ s) : Sound s₀ (s.atomicLane x op a b c h' lane rd).1 := h.writeLe

theorem Sound.atomics {x h' op base rd ra rb rc} (h : Sound s₀ s) : Sound s₀ (s.atomics x h' op base rd ra rb rc).1 :=
  .foldlFst (fun _ _ h => h.atomicLane) h

theorem execSimtAtomic_meaning {at_ op space rd ra rb rc} : Meaning s (execSimtAtomic at_ op space rd ra rb rc s) :=
  .live fun h => h.onHamper fun _ _ => .ite (.ok h) (.ite .error (by
    split
    · exact .error
    · exact .ok (Sound.ite h.acceptStores h).atomics.putSlot))

theorem Sound.endGroup {x g} (h : Sound s₀ s) : Sound s₀ (s.endGroup x g) :=
  .ite (by dsimp only; split; exacts [h.putSlot.putTask, h.putSlot]) h.putSlot

theorem execSimtBranch_meaning {at_ op} : Meaning s (execSimtBranch at_ op s) :=
  .live fun h => h.onReading fun _ _ => .read fun _ => .ok h.endGroup

theorem execSimtBarrier_meaning {at_ barrier} : Meaning s (execSimtBarrier at_ barrier s) :=
  .live fun h => h.onHamper fun _ _ => .ite (.ok h) (.ok h.putSlot)

theorem execSimtFence_meaning {at_} : Meaning s (execSimtFence at_ s) :=
  .live fun h => h.onHamper fun _ _ => .ok h.acceptStores

theorem execEventWait_meaning {at_ waiter event target} : Meaning s (execEventWait at_ waiter event target s) :=
  .live fun h => by
    split
    · exact h
    · split
      · exact .ite h.drainEngines h.putSlot.drainEngines
      · split
        · exact .ite h h.putSlot
        · exact h

theorem execEventSignal_meaning {at_ event} : Meaning s (execEventSignal at_ event s) :=
  .live fun h => by
    split
    · exact h.putSlot.drainEngines
    · exact h

theorem execFlagWait_meaning {at_ addr target} : Meaning s (execFlagWait at_ addr target s) :=
  .live fun h => by
    split
    · exact h
    · refine .ite h.endSlot ?_
      split
      · exact h.endSlot
      · exact .ite h.countHalo.putSlot.wakeCore h.putSlot

theorem Sound.freeSamples {x h' rd} (h : Sound s₀ s) : Sound s₀ (s.freeSamples x h' rd) := h.withFree.putSlot

theorem execSimtSample_meaning {at_ texture rd ra} : Meaning s (execSimtSample at_ texture rd ra s) :=
  .live fun h => h.onReading fun _ _ => .ite (.ok h) (by
    split
    · exact .ok h.freeSamples.count
    · exact .ite .error (.ite (.read fun _ => .ok h.withFree.putSlot.dieRead.account.count)
        (.ite (.ite .error (.ok h.freeSamples.count))
          (by split; exacts [.ite .error (.ok h.freeSamples.count), .ok h.freeSamples.count]))))

/-! ### DMA and layer steps -/

theorem Sound.makeMove {ctx d m} (h : Sound s₀ s) : Gives (Sound s₀) (s.makeMove ctx d m) := .read fun _ => h.tryWrite

theorem execRegulatorRefill_meaning : Meaning s (execRegulatorRefill s) :=
  .live fun h => .foldl (fun _ _ h => .foldl (fun _ _ h => h.refillOne) h) h

theorem execDmaSubmit_meaning {at_ channel desc} : Meaning s (execDmaSubmit at_ channel desc s) :=
  .live fun h => by
    split
    · exact h
    · exact .ite h (.ite h.endSlot h.putSlot)

theorem Sound.runDma {core i channel fuel} (h : Sound s₀ s) : Sound s₀ (s.runDma core i channel fuel) := by
  induction fuel generalizing s with
  | zero => exact h
  | succ fuel ih =>
    rw [State.runDma]
    split
    · exact h
    · split
      · exact h
      · refine .ite h.putSlot (.ite h (.ite ?_ (.putSlot (.foldl (fun _ _ h => h.putBucket) h.withSch))))
        split
        · exact h.endSlot
        · next e => exact ih (h.makeMove e).pass.account.pmcAdd.putSlot

theorem execDmaDescriptorComplete_meaning {at_ channel} : Meaning s (execDmaDescriptorComplete at_ channel s) :=
  .live fun h => by
    dsimp only
    split
    · exact h
    · exact .ite h (by split; exacts [h, .ite h h.runDma.drainEngines])

theorem execTransferRelease_meaning {transfer} : Meaning s (execTransferRelease transfer s) :=
  .live fun h => by
    split
    · exact h
    · exact
        have h1 := h.withSch;
        by
          dsimp only
          split
          · exact h1
          · refine .ite h ?_
            split
            · exact h
            · split
              · exact h1.endSlot
              · next _ e => exact (h1.makeMove e).pass.account.putSlot

theorem Sound.mismatchEvent {t' rec} (h : Sound s₀ s) : Sound s₀ (s.mismatchEvent t' rec) := h.event

theorem Sound.mergeStep {t' master copies} (h : Sound s₀ s) :
    Gives (fun r => Sound s₀ r.1) (s.mergeStep t' master copies) := by
  unfold State.mergeStep
  refine .read fun _ => .read fun _ => ?_
  extract_lets merged
  split
  refine .bind h.writeRecords fun _ h => .bind h.writeRecords fun s2 h => .ok ?_
  dsimp only
  split
  · exact h.mismatchEvent
  · exact h

theorem execLayerStepEnd_meaning {queue seq master copies} : Meaning s (execLayerStepEnd queue seq master copies s) :=
  .live fun h => by
    split
    · exact h
    · next t _ =>
      refine .ite h ?_
      have hm := h.mergeStep (t' := t) (master := master.toNat) (copies := copies.map (·.toNat))
      generalize s.mergeStep t master.toNat (copies.map (·.toNat)) = x at hm ⊢
      match x, hm with
      | .error _, _ => exact h.endTask
      | .ok (s, .kept), hm => exact (hm rfl).putTask
      | .ok (s, .replay), hm => exact (hm rfl).putTask
      | .ok (s, .failed), hm => exact .ite (hm rfl).putTask (hm rfl).endTask
      | .ok (s, .aborted), hm => exact (hm rfl).endTask

/-! ### Box unit calls -/

theorem Sound.boxAborted {d k} (h : Sound s₀ s) : Sound s₀ (s.boxAborted d k) := h.countSat

theorem execBoxCallSubmit_meaning {at_ addr} : Meaning s (execBoxCallSubmit at_ addr s) :=
  .live fun h => by
    split
    · exact h
    · refine .ite h ?_
      split
      · exact h.boxAborted.endSlot
      · exact .ite h.boxAborted.endSlot (.ite h.putSlot h.withBoxes.boxSchedule)

theorem Sound.onBox {d k op f} (h : Sound s₀ s) (hf : ∀ b, Gives (Sound s₀) (f b)) : Sound s₀ (s.onBox d k op f) := by
  unfold State.onBox
  split
  · exact h
  · refine .ite h ?_
    split
    · next e => exact (hf _ e).withBoxes
    · split
      · exact h.endTask
      · exact h

theorem Sound.boxTraffic {b list dest n out} (h : Sound s₀ s) : Sound s₀ (s.boxTraffic b list dest n out) :=
  h.dieRead.dieWrote.account

theorem Sound.appendRecords {ctx base cap n rs} (h : Sound s₀ s) :
    Gives (fun r => Sound s₀ r.1) (s.appendRecords ctx base cap n rs) := by
  induction rs generalizing s n with
  | nil => exact .ok h
  | cons r rs ih => exact .ite (.ok h) (.bind h.tryWrite fun _ => ih)

theorem Sound.boxDecodeWork {b} (h : Sound s₀ s) : Gives (Sound s₀) (s.boxDecodeWork b) :=
  .read fun _ => .read fun _ => .read fun _ => .bind h.appendRecords fun _ h => .bind h.tryWrite fun _ h =>
    .ok h.countSat.boxTraffic

theorem execBoxDecode_meaning {die cluster} : Meaning s (execBoxDecode die cluster s) :=
  .live fun h => h.onBox fun _ => h.boxDecodeWork

theorem Sound.boxNmsWork {b} (h : Sound s₀ s) : Gives (Sound s₀) (s.boxNmsWork b) :=
  .read fun _ => .read fun _ => .bind h.tryWrite fun _ h => .bind h.tryWrite fun _ h =>
    .ok (.ite h.boxTraffic.countSat h.boxTraffic)

theorem execBoxNms_meaning {die cluster} : Meaning s (execBoxNms die cluster s) :=
  .live fun h => h.onBox fun _ => h.boxNmsWork

theorem execBoxCallEnd_meaning {die cluster clocks} : Meaning s (execBoxCallEnd die cluster clocks s) :=
  .live fun h => by
    dsimp only
    split
    · exact h
    · exact .ite h.withBoxes.count.count.signalAt.boxSchedule.boxAdmit.drainEngines h

/-! ### Display pipes -/

theorem Sound.pipeEvent {p code more} (h : Sound s₀ s) : Sound s₀ (s.pipeEvent p code more) := h.event

theorem Sound.pipeIrq {p bit code} (h : Sound s₀ s) : Sound s₀ (s.pipeIrq p bit code) := .ite h.setBit.pipeEvent h

theorem Sound.pipeCount {p r bit} (h : Sound s₀ s) : Sound s₀ (s.pipeCount p r bit) := h.countSat

theorem Sound.envFlag {p} (h : Sound s₀ s) : Sound s₀ (s.envFlag p) := h.setBit

theorem Sound.envFlags (h : Sound s₀ s) : Sound s₀ s.envFlags := .foldl (fun _ _ h => h.envFlag) h

theorem Sound.displayReady (h : Sound s₀ s) : Sound s₀ s.displayReady := .foldl (fun _ _ h => .ite h.setBit h) h

theorem Sound.pipeStart {p} (h : Sound s₀ s) : Sound s₀ (s.pipeStart p) := .ite h.setPipe.setBit.displayReady h

theorem Sound.refuseCommit {p code} (h : Sound s₀ s) : Sound s₀ (s.refuseCommit p code) := h.setBit.setFld.pipeCount.pipeEvent

theorem Sound.loseLock {p} (h : Sound s₀ s) : Sound s₀ (s.loseLock p) := h.setPipe.setBit

theorem Sound.askRelock {p l} (h : Sound s₀ s) : Sound s₀ (s.askRelock p l) := .ite (.foldl (fun _ _ h => h.loseLock) h) h

theorem Sound.applyCommit {p l} (h : Sound s₀ s) : Sound s₀ (s.applyCommit p l) :=
  have h := h.setPipe.envFlag
  .ite (have h := h.poke.poke.poke; .ite h.pipeEvent h) h

theorem Sound.commitNow {p} (h : Sound s₀ s) : Sound s₀ (s.commitNow p) :=
  have h := h.setBit
  by
    unfold State.commitNow
    dsimp only
    split
    · exact h.setFld.askRelock.applyCommit.pipeStart
    · exact h.refuseCommit

theorem execCommitArm_meaning {pipe value} : Meaning s (execCommitArm pipe value s) :=
  .live fun h =>
    have h := h.poke
    .ite h (.ite h.commitNow (have h := h.setBit; .ite h.setBit.pipeCount.pipeEvent h))

theorem execCommitLine_meaning {pipe} : Meaning s (execCommitLine pipe s) :=
  .live fun h => by
    refine .ite h ?_
    exact
      have h := h.setPipe.setFld;
      .ite
        (have h := h.setBit;
         by
           dsimp only
           split
           · exact h.setFld.askRelock.setPipe
           · exact h.refuseCommit) h

theorem execDspDeclare_meaning {pipe value} : Meaning s (execDspDeclare pipe value s) := .live fun h => h.setPipe

theorem Sound.gainLock {p} (h : Sound s₀ s) : Sound s₀ (s.gainLock p) := .ite h.setPipe.setBit h

theorem execPclkRelock_meaning {pipe} : Meaning s (execPclkRelock pipe s) :=
  .awake fun h => .ite (.foldl (fun _ _ h => h.gainLock) h) h

theorem Sound.frameLock {p} (h : Sound s₀ s) : Sound s₀ (s.frameLock p) :=
  .ite
    h
    (.ite h (have h := h.setPipe.poke.poke.withTim; .ite (.ite h.setBit.event h.setBit) (.ite (.ite h.setBit.event h.setBit) h)))

theorem Sound.soaStamp {p} (h : Sound s₀ s) : Sound s₀ (s.soaStamp p) := h.setPipe.poke.poke64.setBit.setFld

theorem Sound.soaEffects {p} (h : Sound s₀ s) : Sound s₀ (s.soaEffects p) := by
  unfold State.soaEffects
  extract_lets x s1 s2 s3
  have h1 : Sound s₀ s1 := h.setPipe
  have h2 : Sound s₀ s2 := by
    unfold s2
    split
    · exact h1.applyCommit
    · exact h1
  have h3 : Sound s₀ s3 := h2.frameLock
  split
  · exact h3.synSoa
  · exact h3

theorem Sound.frameStart {p} (h : Sound s₀ s) : Sound s₀ (s.frameStart p) :=
  .ite h (.ite (have h := h.setPipe.setBit; .ite h.commitNow h) (.ite h.soaStamp h.soaStamp.soaEffects))

theorem execSoaArrival_meaning {pipe} : Meaning s (execSoaArrival pipe s) :=
  .awake fun h => .ite h (.foldl (fun _ _ h => h.frameStart) h)

theorem execVblankStart_meaning {pipe} : Meaning s (execVblankStart pipe s) := .live fun h => .ite h.setBit.setFld.pipeIrq h

theorem execLineMatch_meaning {pipe} : Meaning s (execLineMatch pipe s) := .live fun h => .ite h.setFld.pipeIrq h

theorem execLineUnderrun_meaning {pipe line x} : Meaning s (execLineUnderrun pipe line x s) :=
  .live fun h => .ite h (have h := h.setPipe.setFld.pipeCount.pmcAdd; (Sound.ite h.pipeEvent h).pipeIrq)

theorem Sound.freezeTest {p sig} (h : Sound s₀ s) : Sound s₀ (s.freezeTest p sig) :=
  have h := (Sound.ite h h.setBit).setPipe
  .ite h (.ite (have h := h.setFld; .ite h.setBit.pipeCount.pipeEvent h) h.setFld)

theorem Sound.assuredTest {p i} (h : Sound s₀ s) : Sound s₀ (s.assuredTest p i) :=
  have h := h.setBit
  .ite
    h
    (have h := h.poke;
     have h := Sound.ite h.pipeCount.pipeEvent h;
     have h := Sound.ite h.setPipe h;
     .ite h.pipeCount.pipeEvent h)

theorem Sound.fetchTraffic {p} (h : Sound s₀ s) : Sound s₀ (s.fetchTraffic p) :=
  .foldl (fun _ _ h => .ite h (.foldl (fun _ _ h => h.hubRead) h)) h

theorem execFrameActiveEnd_meaning {pipe} : Meaning s (execFrameActiveEnd pipe s) :=
  .live fun h =>
    .ite
      h
      (have h := h.fetchTraffic.poke.freezeTest.assuredTest.assuredTest;
       have h := (Sound.ite h.pipeEvent h).pipeIrq;
       .setPipe (by split; exacts [h.originRecord, h]))

theorem Sound.synTakeover {o} (h : Sound s₀ s) : Sound s₀ (s.synTakeover o) := h.setOut.discardLco

theorem Sound.leaveClone (h : Sound s₀ s) : Sound s₀ s.leaveClone := .ite (Sound.ite h.setFld.setBit h).setBit.setBit h

theorem Sound.copyToP4 {p} (h : Sound s₀ s) : Sound s₀ (s.copyToP4 p) :=
  have h := h.withCfg fun hw => cfgWf_foldl_cfgSet _ _ _ (cfgWf_filter _ hw)
  (Sound.foldl (fun _ _ h => h.poke) h).setFld.setPipe.poke.setBit.setBit

theorem Sound.startTakeover {p} (h : Sound s₀ s) : Sound s₀ (s.startTakeover p) := .ite h.leaveClone.copyToP4.withDsp h

theorem execPipeFail_meaning {pipe fault} : Meaning s (execPipeFail pipe fault s) :=
  .awake fun h =>
    .ite
      h
      (have h := h.setPipe.setBit.setBit;
       have h := Sound.ite h.setBit h;
       (Sound.ite h.pipeCount h).raise.pipeEvent.startTakeover)

theorem execTakeoverSwitch_meaning : Meaning s (execTakeoverSwitch s) :=
  .awake fun h => by
    split
    · exact h
    · refine .ite h ?_
      exact
        have h := (Sound.foldl (fun _ _ h => h.withDsp) h.withDsp).setPipe.setBit.setBit.envFlag.displayReady;
        .pipeEvent (by split; exacts [h.setBit.discardLco.synTakeover, h])

theorem execLtolReport_meaning {pipe line buffered} : Meaning s (execLtolReport pipe line buffered s) :=
  .live fun h => .ite h.poke h.poke

/-! ### eDP outputs -/

theorem Sound.setEdp {o x} (h : Sound s₀ s) : Sound s₀ (s.setEdp o x) := h.withDsp

theorem Sound.showTiming {o t' d} (h : Sound s₀ s) : Sound s₀ (s.showTiming o t' d) := by
  unfold State.showTiming
  split <;> exact h.poke.poke

theorem Sound.identityRead {o edid} (h : Sound s₀ s) : Sound s₀ (s.identityRead o edid) :=
  (Sound.foldl (fun _ _ h => h.poke) (.foldl (fun _ _ h => h.showTiming) h.setEdp)).poke.setBit

theorem Sound.envelopeTest {o} (h : Sound s₀ s) : Sound s₀ (s.envelopeTest o) :=
  .foldl (fun _ _ h => .ite (have h := h.envFlag; .ite h.pipeEvent h) h) h

theorem Sound.trainStart {o sink} (h : Sound s₀ s) : Sound s₀ (s.trainStart o sink) :=
  have h := h.setEdp.setBit.setBit.setFld.setBit
  by
    unfold State.trainStart
    dsimp only
    split
    · exact h
    · exact h.setBit.identityRead.envelopeTest

theorem Sound.trainStop {o} (h : Sound s₀ s) : Sound s₀ (s.trainStop o) :=
  have h := h.setEdp.setBit
  .ite h.pipeEvent h

theorem Sound.trainFail {o code} (h : Sound s₀ s) : Sound s₀ (s.trainFail o code) := h.setFld.trainStop

theorem execTrain_meaning {output value sink} : Meaning s (execTrain output value sink s) :=
  .awake fun h =>
    have h := h.poke
    .ite h h.trainStart

theorem execHpdWaitTimeout_meaning {output} : Meaning s (execHpdWaitTimeout output s) := .awake fun h => .ite h.trainFail h

theorem execTrainEnd_meaning {output failed} : Meaning s (execTrainEnd output failed s) :=
  .awake fun h => by
    dsimp only
    split
    · split
      · exact h.trainFail
      · split
        · exact .ite h.trainFail (.ite h.trainFail h.draw.trainFail)
        · exact .ite h.setBit.setFld.setFld.setBit.trainStop.displayReady h.trainFail
    · exact h

theorem execIrqHpd_meaning {output good sink} : Meaning s (execIrqHpd output good sink s) :=
  .awake fun h => .ite h.countSat.trainStart h

theorem execHpdLoss_meaning {output} : Meaning s (execHpdLoss output s) :=
  .awake fun h => .ite h.setEdp.setBit.setBit.setBit.pipeEvent h

theorem Sound.auxEnd {o result} (h : Sound s₀ s) : Sound s₀ (s.auxEnd o result) := h.setEdp.poke

theorem Sound.auxStart {o op length} (h : Sound s₀ s) : Sound s₀ (s.auxStart o op length) :=
  have h := h.poke
  .ite h (.ite h.auxEnd h.setEdp.poke)

theorem execAuxDpcdRead_meaning {output length} : Meaning s (execAuxDpcdRead output length s) := .awake fun h => h.auxStart

theorem execAuxDpcdWrite_meaning {output length} : Meaning s (execAuxDpcdWrite output length s) := .awake fun h => h.auxStart

theorem execAuxI2cRead_meaning {output length} : Meaning s (execAuxI2cRead output length s) := .awake fun h => h.auxStart

theorem execAuxI2cSegmentWrite_meaning {output length} : Meaning s (execAuxI2cSegmentWrite output length s) :=
  .awake fun h => h.auxStart

theorem Sound.putBytes {r o i bs} (h : Sound s₀ s) : Sound s₀ (s.putBytes r o i bs) := by
  induction bs generalizing s i with
  | nil => exact h
  | cons b bs ih => exact ih h.setFld

theorem execAuxReply_meaning {output reply data} : Meaning s (execAuxReply output reply data s) :=
  .awake fun h => by
    dsimp only
    split
    · exact .ite h (by split; exacts [(Sound.ite h.putBytes h).auxEnd, h.auxEnd, h.auxEnd])
    · exact h

theorem execAuxTimeout_meaning {output} : Meaning s (execAuxTimeout output s) :=
  .awake fun h => by
    dsimp only
    split
    · exact .ite h (.ite h.setEdp h.auxEnd.countSat)
    · exact h

/-! ### Scenes and sketch passes -/

theorem Sound.sceneError {lead code offset} (h : Sound s₀ s) : Sound s₀ (s.sceneError lead code offset) :=
  .poke (by split; exacts [h.poke, h])

theorem execSketchPassSubmit_meaning {at_ pass} : Meaning s (execSketchPassSubmit at_ pass s) :=
  .live fun h => by
    split
    · exact h
    · split
      · exact h
      · refine .ite h ?_
        split
        · exact h.endTask
        · exact
            have h := h.putTask;
            by
              dsimp only
              split
              · exact h.endTask
              · split
                · exact h.sceneError.endTask
                · exact h.endTask
                · exact .ite h.endTask h.withPasses.sketchSchedule

theorem Sound.endPassTask {p status loc} (h : Sound s₀ s) : Sound s₀ (s.endPassTask p status loc) := by
  unfold State.endPassTask
  split
  · exact h.endTask
  · exact h

theorem execPassResume_meaning {lead} : Meaning s (execPassResume lead s) :=
  .live fun h => by
    dsimp only
    split
    · exact h
    · split
      · exact h.endPassTask
      · exact .ite h h.putPass

theorem Sound.onScene {lead op f} (h : Sound s₀ s) (hf : ∀ {t p bs}, Sound s₀ t → SceneSound s₀ (f t p bs)) :
    Sound s₀ (s.onScene lead op f) := by
  unfold State.onScene
  split
  · exact h
  · refine .ite h.putPass ?_
    split
    · exact h.endPassTask
    · exact h.sceneError.endPassTask
    · refine .ite h ?_
      dsimp only
      split
      · exact (Sound.iteFst h.sketchWrite h).endPassTask
      · split
        · exact h.sceneError.endPassTask
        · next e => exact (SceneSound.failed (hf (Sound.sketchRead (.iteFst h.sketchWrite h))) e).endPassTask
        · exact h
        · next e => exact (SceneSound.done (hf (Sound.sketchRead (.iteFst h.sketchWrite h))) e).putPass

theorem Sound.onSceneState {lead op f} (h : Sound s₀ s) : Sound s₀ (s.onSceneState lead op f) :=
  h.onScene fun h => by split; exacts [trivial, h]

theorem execSceneNop_meaning {lead} : Meaning s (execSceneNop lead s) := .live fun h => h.onSceneState

theorem execSceneEnd_meaning {lead} : Meaning s (execSceneEnd lead s) := .live fun h => h.onScene id

theorem execSceneSetClear_meaning {lead} : Meaning s (execSceneSetClear lead s) := .live fun h => h.onSceneState

theorem execSceneSetLayer_meaning {lead} : Meaning s (execSceneSetLayer lead s) := .live fun h => h.onSceneState

theorem execSceneSetState_meaning {lead} : Meaning s (execSceneSetState lead s) := .live fun h => h.onSceneState

theorem execSceneBindProg_meaning {lead} : Meaning s (execSceneBindProg lead s) := .live fun h => h.onSceneState

theorem execSceneBindTex_meaning {lead} : Meaning s (execSceneBindTex lead s) := .live fun h => h.onSceneState

theorem execSceneBindBuf_meaning {lead} : Meaning s (execSceneBindBuf lead s) := .live fun h => h.onSceneState

theorem Sound.binAll {p bs} (h : Sound s₀ s) : SceneSound s₀ (s.binAll p bs) := by
  induction bs generalizing s p with
  | nil => exact h
  | cons b bs ih =>
    rw [State.binAll]
    refine .ite h ?_
    dsimp only
    split
    · exact h.sketchWrite
    · exact ih h.sketchWrite.count

theorem Sound.drawVertices {p bs} (h : Sound s₀ s) :
    (∀ r, s.drawVertices p bs = .error r → SceneSound s₀ r) ∧ ∀ r, s.drawVertices p bs = .ok r → Sound s₀ r.2 := by
  unfold State.drawVertices
  dsimp only
  split
  · simpa using h
  · split
    · simp [SceneSound]
    · split
      · simpa [SceneSound] using h
      · simpa using h.sketchRead

theorem execSceneDraw_meaning {die cluster shaded} : Meaning s (execSceneDraw die cluster shaded s) :=
  .live fun h => h.onScene fun h => by
    split
    · next e => exact h.drawVertices.1 _ e
    · next e => exact .ite (Sound.binAll (h.drawVertices.2 _ e)) trivial

theorem execSceneDrawSurface_meaning {die cluster} : Meaning s (execSceneDrawSurface die cluster s) :=
  .live fun h => h.onScene fun h => .ite trivial (by split; exacts [h, h.binAll])

theorem Sound.reloadTiles {p ks} (h : Sound s₀ s) : Gives (fun r => Sound s₀ r.1) (s.reloadTiles p ks) := by
  induction ks generalizing s p with
  | nil => exact .ok h
  | cons k ks ih => exact .ite (.bind h.reloadTile fun _ => ih) (ih h)

/-- The definition is opened at its name and each write is named before the match on it: else the kernel would evaluate the
write to compare two forms of the match. -/
theorem Sound.endPartial {p} (h : Sound s₀ s) : SceneSound s₀ (s.endPartial p) := by
  conv => arg 2; fun; fun; delta State.endPartial
  have hr : Sound s₀ (s.storeTiles p false p.listed).1 := h.storeTiles
  generalize s.storeTiles p false p.listed = r at hr ⊢
  generalize ({ (p.stow p.listed).resetLists with partials := p.partials + 1 } : Pass) = q
  dsimp only
  have hw : Sound s₀ ((r.1.countSat R.SKU_CNT_PARTIAL (skuIx p.lead) 1 R.SKU_CNT_OVF (skuIx p.lead) 0).sketchWrite
    q p.lead q.emptyLists).1 := hr.countSat.sketchWrite
  generalize (r.1.countSat R.SKU_CNT_PARTIAL (skuIx p.lead) 1 R.SKU_CNT_OVF (skuIx p.lead) 0).sketchWrite
    q p.lead q.emptyLists = w at hw ⊢
  match r, hr, w, hw with
  | (_, some _), hr, _, _ => exact hr
  | (_, none), _, (_, some _), hw => exact hw
  | (_, none), _, (_, none), hw => exact hw.binAll

theorem execQuadRetire_meaning {unit lead quads stalls} : Meaning s (execQuadRetire unit lead quads stalls s) :=
  .live fun h => by
    dsimp only
    split
    · exact h
    · refine .ite h ?_
      split
      · exact h.endPassTask
      · next _ e =>
          exact
            have h := (h.reloadTiles e).count;
            .ite
              (by
                 split
                 · next _ e => exact (h.endPartial.done e).putPass
                 · next _ e => exact (h.endPartial.failed e).endPassTask
                 · exact h.putPass) h.putPass

theorem Sound.submitChained {t' a} (h : Sound s₀ s) : Sound s₀ (s.submitChained t' a) := .ite h.withVis h.acceptChain

/-- Opened as `Sound.endPartial`. -/
theorem Sound.renderDone {t' p} (h : Sound s₀ s) : Sound s₀ (s.renderDone t' p) := by
  conv => arg 2; fun; fun; fun; delta State.renderDone
  have hr : Sound s₀ (s.sketchWrite p p.lead [(leAt p.desc 0x30 8, t'.rendered.block s.now)]).1 := h.sketchWrite
  generalize s.sketchWrite p p.lead [(leAt p.desc 0x30 8, t'.rendered.block s.now)] = r at hr ⊢
  match r, hr with
  | (_, some _), hr => exact hr.endTask
  | (_, none), hr => exact .ite hr hr.submitChained

theorem execPassEnd_meaning {lead} : Meaning s (execPassEnd lead s) :=
  .live fun h => by
    split
    · exact h
    · split
      · exact h
      · refine .ite h ?_
        split
        · exact h.endTask
        · next _ e =>
            exact
              have h := (h.reloadTiles e).storeTiles;
              by
                dsimp only
                split
                · exact h.endTask
                · exact
                    have h := (Sound.foldl (fun _ _ h => h.count) h).withPasses.putTask.sketchSchedule;
                    .ite h.renderDone h

/-! ### Vision stages -/

theorem Sound.writeImage {ctx base pitch rows} (h : Sound s₀ s) : Gives (Sound s₀) (s.writeImage ctx base pitch rows) := by
  induction rows generalizing s base with
  | nil => exact .ok h
  | cons r rows ih => exact .bind h.tryWrite fun _ => ih

theorem Sound.writeLevels {ctx base w h' m l n} (h : Sound s₀ s) :
    Gives (Sound s₀) (s.writeLevels ctx base w h' m l n) := by
  induction n generalizing s m l with
  | zero => exact .ok h
  | succ n ih => exact .bind h.writeImage fun _ => ih

theorem Sound.pyramidWork {ctx d} (h : Sound s₀ s) : Gives (Sound s₀) (s.pyramidWork ctx d) := by
  unfold State.pyramidWork
  extract_lets
  refine .read fun _ => ?_
  extract_lets _ jp
  have hjp (x) : Gives (Sound s₀) (jp x) := .bind h.withFree.writeLevels fun _ h => .ok h.account
  split <;> exact .read hjp

theorem Sound.flowWork {e ctx d} (h : Sound s₀ s) : Gives (Sound s₀) (s.flowWork e ctx d) := by
  unfold State.flowWork
  extract_lets
  refine .read fun _ => .read fun _ => ?_
  extract_lets a b _ _ jp
  have hjp (x) : Gives (Sound s₀) (jp x) := .bind h.writeImage fun _ h => .ok h.count.count.account
  split <;> exact .read hjp

theorem Sound.stereoWork {e ctx d} (h : Sound s₀ s) : Gives (Sound s₀) (s.stereoWork e ctx d) := by
  unfold State.stereoWork
  extract_lets
  refine .read fun _ => .read fun _ => ?_
  split
  extract_lets _ _ jp
  have hjp (t) (h : Sound s₀ t) : Gives (Sound s₀) (jp t) := .ok h.count.count.account
  refine .bind h.writeImage fun _ h => .bind h.writeImage fun _ h => ?_
  split
  · exact .bind h.writeImage hjp
  · exact .bind (.ok h) hjp

theorem Sound.failChain {c status} (h : Sound s₀ s) : Sound s₀ (s.failChain c status) := h.endChain.visGo

theorem Sound.stagePasses {ctx d} (h : Sound s₀ s) : Sound s₀ (s.stagePasses ctx d) :=
  .foldl (fun _ _ h => h.hubWrote) (.foldl (fun _ _ h => h.hubRead) h)

theorem Sound.onStage {e work} (h : Sound s₀ s) (hw : ∀ ctx d, Gives (Sound s₀) (work s ctx d)) :
    Sound s₀ (s.onStage e work) := by
  unfold State.onStage
  split
  · exact h
  · split
    · exact h
    · refine .ite h ?_
      split
      · next e => exact (hw _ _ e).stagePasses.setStage
      · exact h.failChain

theorem execPyramidStage_meaning {builder} : Meaning s (execPyramidStage builder s) :=
  .live fun h => h.onStage fun _ _ => h.pyramidWork

theorem execFlowStage_meaning {e} : Meaning s (execFlowStage e s) := .live fun h => h.onStage fun _ _ => h.flowWork

theorem execStereoStage_meaning {e} : Meaning s (execStereoStage e s) := .live fun h => h.onStage fun _ _ => h.stereoWork

theorem execVisStageEnd_meaning {engine ns} : Meaning s (execVisStageEnd engine ns s) :=
  .live fun h => by
    dsimp only
    split
    · exact h
    · exact .ite h h.count.count.poke.setStage.visGo

theorem execVisStageStop_meaning {engine} : Meaning s (execVisStageStop engine s) :=
  .live fun h => by
    dsimp only
    split
    · exact .ite h.countSat.setStage.visRun h
    · exact h

theorem execVisStageResume_meaning {engine} : Meaning s (execVisStageResume engine s) :=
  .live fun h => by
    dsimp only
    split
    · exact .ite h h.setStage.visRun
    · exact h

theorem execVisChainSubmit_meaning {source addr} : Meaning s (execVisChainSubmit source addr s) :=
  .live fun h => by
    split
    · exact h.submitChain
    · split
      · exact .ite h (.ite h.withVis h.acceptChain)
      · exact h
    · split
      · exact .ite h.visWaiting h
      · exact h
    · exact .ite h.submitChain h

theorem Sound.restartStages {e pin} (h : Sound s₀ s) : Sound s₀ (s.restartStages e pin) :=
  (Sound.foldl (fun _ _ h => h.endChain) h).withVis.countSat

theorem Sound.dropEngine {e} (h : Sound s₀ s) : Sound s₀ (s.dropEngine e) := h.setBit.setBit

theorem Sound.failFlow {e} (h : Sound s₀ s) : Sound s₀ (s.failFlow e) :=
  have h := h.dropEngine
  by
    unfold State.failFlow
    dsimp only
    split
    · exact h
    · exact .ite h.setBit h.setFld.setBit.setBit.setFld

theorem Sound.withdrawEngine {e} (h : Sound s₀ s) : Sound s₀ (s.withdrawEngine e) :=
  .ite h.failFlow (.ite h.dropEngine.setBit h.dropEngine.setBit)

theorem Sound.loseEngine {e} (h : Sound s₀ s) : Sound s₀ (s.loseEngine e) := h.withdrawEngine.restartStages

theorem execVisEngineFail_meaning {engine} : Meaning s (execVisEngineFail engine s) :=
  .live fun h => .ite h h.loseEngine.raise.visGo

theorem execVisChainTimeout_meaning {chain} : Meaning s (execVisChainTimeout chain s) :=
  .live fun h => by
    split
    · exact .ite h h.failChain
    · exact h

/-! ### The boot report -/

theorem Sound.bootEvent (h : Sound s₀ s) : Sound s₀ s.bootEvent := h.eventOpen

theorem Sound.reportLoss (h : Sound s₀ s) : Sound s₀ s.reportLoss := h.countSat

theorem Sound.putReport {r} (h : Sound s₀ s) : Sound s₀ (s.putReport r) :=
  have h := h.write.poke
  (Sound.ite h.reportLoss h).withBrg

theorem Sound.report {kind loc cause action} (h : Sound s₀ s) : Sound s₀ (s.report kind loc cause action) :=
  .ite h.putReport (.ite h.withBrg h.reportLoss)

theorem execReportRingSet_meaning {value} : Meaning s (execReportRingSet value s) :=
  .awake fun h =>
    have h := h.setFld.withBrg
    .ite (.foldl (fun _ _ h => h.putReport) h.withBrg) h

theorem Sound.lateTakeover {p} (h : Sound s₀ s) : Sound s₀ (s.lateTakeover p) := .ite h.withBrg.pipeEvent.startTakeover h

theorem Sound.withdrawPipe {p cause} (h : Sound s₀ s) : Sound s₀ (s.withdrawPipe p cause) :=
  .ite h (have h := h.setPipe; (Sound.ite h.withDsp h).setBit.setBit.withBrg.report.lateTakeover)

theorem Sound.withdrawVision {e cause} (h : Sound s₀ s) : Sound s₀ (s.withdrawVision e cause) :=
  .ite h h.loseEngine.visGo.report

/-! ### The image: verify and seal -/

theorem Sound.pokeRwl {v} (h : Sound s₀ s) : Sound s₀ (s.pokeRwl v) := by
  unfold State.pokeRwl
  split
  · exact h.poke
  · exact h

theorem Sound.resetRwl {p} (h : Sound s₀ s) : Sound s₀ (s.resetRwl p) := .foldl (fun _ _ h => by split; exacts [h.poke, h]) h

theorem Sound.writeDie {d} (h : Sound s₀ s) : Sound s₀ (s.writeDie d) := .foldl (fun _ _ h => h.pokeRwl) h.resetRwl

theorem Sound.remap (h : Sound s₀ s) : Sound s₀ (s.remap t) :=
  .foldl (fun _ _ h => .ite h.setBit h) (.foldl (fun _ _ h => .ite h.setPipe h) h)

theorem Sound.weakHub (h : Sound s₀ s) : Sound s₀ s.weakHub :=
  .foldl (fun _ _ h => h.withdrawVision) (.foldl (fun _ _ h => h.withdrawPipe) h)

theorem Sound.putDigest {r ix d} (h : Sound s₀ s) : Sound s₀ (s.putDigest r ix d) := .foldl (fun _ _ h => h.poke) h

theorem Sound.applyImage {g} (h : Sound s₀ s) : Sound s₀ (s.applyImage g) :=
  (Sound.foldl
     (fun _ _ h => h.envelopeTest)
     (.foldl
        (fun _ _ h => h.lateTakeover)
        (Sound.foldl
           (fun _ _ h => .ite h.writeDie h)
           h.withImg).withEth.remap.poke.putDigest.putDigest.countTop.weakHub)).setBit.setFld.setBit

theorem Sound.verifyFail {code off} (h : Sound s₀ s) : Sound s₀ (s.verifyFail code off) := h.setBit.setFld.poke

theorem execQziVerify_meaning : Meaning s (execQziVerify s) := .awake fun h => .ite h (.ite h.setFld h.withBrg.setBit)

theorem execQziVerifyEnd_meaning : Meaning s (execQziVerifyEnd s) :=
  .awake fun h => by
    split
    · exact h
    · exact
        have h := h.withBrg.setBit;
        .ite
          (Sound.ite h.draw.draw.applyImage h.draw.draw.verifyFail).bootEvent
          (by split; exacts [h.applyImage.bootEvent, h.verifyFail.bootEvent])

theorem execQziSeal_meaning : Meaning s (execQziSeal s) :=
  .awake fun h => .ite h (.ite (.foldl (fun _ _ h => h.envelopeTest) h.setBit.setBit) h.setBit)

/-! ### Bring-up steps -/

theorem Sound.setStep {i v} (h : Sound s₀ s) : Sound s₀ (s.setStep i v) := h.setFld

theorem Sound.bootFault {i code} (h : Sound s₀ s) : Sound s₀ (s.bootFault i code) := h.poke

theorem Sound.stepFail {i code} (h : Sound s₀ s) : Sound s₀ (s.stepFail i code) := h.setStep.bootFault.alert.bootEvent

theorem Sound.computeReady (h : Sound s₀ s) : Sound s₀ s.computeReady := .ite h.setBit h

theorem Sound.stepDone {i ready} (h : Sound s₀ s) : Sound s₀ (s.stepDone i ready) :=
  (Sound.foldl (fun _ _ h => h.setBit) h.setStep).computeReady.bootEvent

theorem Sound.stepStart {i present needs} (h : Sound s₀ s) : Sound s₀ (s.stepStart i present needs).1 :=
  .iteFst h.bootFault (.iteFst h.bootFault (.iteFst h.bootFault h.setStep.withBrg))

theorem execDiePowerUp_meaning {die} : Meaning s (execDiePowerUp die s) :=
  .awake fun h =>
    have h := h.stepStart
    .ite h (.ite h.withPwr (.ite h.withPwr h.withPwr))

theorem execDiePowerUpEnd_meaning {die good} : Meaning s (execDiePowerUpEnd die good s) :=
  .awake fun h => .ite h (.ite h.writeDie.stepDone h.stepFail)

theorem execLinkTraining_meaning : Meaning s (execLinkTraining s) := .awake fun h => h.stepStart

theorem Sound.trainModule {lanes pair m} (h : Sound s₀ s) : Sound s₀ (s.trainModule lanes pair m) := by
  unfold State.trainModule
  dsimp only
  split
  · exact h.withBrg.report
  · exact .foldl (fun _ _ h => .foldl (fun _ _ h => h.withBrg.report) h) h

theorem execLinkTrainingEnd_meaning {lanes mesh} : Meaning s (execLinkTrainingEnd lanes mesh s) :=
  .awake fun h =>
    .ite
      h
      (have h := Sound.foldl (fun _ _ h => h.report) (.foldl (fun _ _ h => .foldl (fun _ _ h => h.trainModule) h) h.withBrg);
       .ite h.stepFail (.ite h.stepFail h.stepDone))

theorem execDramTraining_meaning {die} : Meaning s (execDramTraining die s) := .awake fun h => h.stepStart

theorem execDramTrainingEnd_meaning {die channelFailed rows} : Meaning s (execDramTrainingEnd die channelFailed rows s) :=
  .awake fun h =>
    .ite
      h
      (have h := Sound.foldl (fun _ _ h => h.report) h;
       .ite h.stepFail
         (have h := Sound.foldl (fun _ _ h => h.report) h;
          (h.withMem (Memory.wf_filter _)).withErr.stepDone))

theorem Sound.spareOut {d k j cause spareGood} (h : Sound s₀ s) : Sound s₀ (s.spareOut d k j cause spareGood) := by
  refine .ite h ?_
  split
  · exact h.failSite.report
  · exact
      have h := h.failSite;
      .ite h.moveCore.report h.absentCore.report

theorem Sound.withdrawCluster {d k cause} (h : Sound s₀ s) : Sound s₀ (s.withdrawCluster d k cause) := .ite h h.setBit.report

theorem Sound.withdrawSketch {d k cause} (h : Sound s₀ s) : Sound s₀ (s.withdrawSketch d k cause) := .ite h h.setBit.report

theorem execSelfTest_meaning {die} : Meaning s (execSelfTest die s) := .awake fun h => h.stepStart

theorem Sound.arrayFault {d f} (h : Sound s₀ s) : Sound s₀ (s.arrayFault d f) := by
  unfold State.arrayFault
  split
  · exact .ite h.report h
  · exact .ite h.report h.withdrawCluster
  · exact .ite h.report h.withdrawSketch
  · exact .ite h.report h.withdrawCluster

theorem execSelfTestEnd_meaning {die faults} : Meaning s (execSelfTestEnd die faults s) :=
  .awake fun h =>
    .ite
      h
      (Sound.foldl
         (fun _ _ h => .foldl (fun _ _ h => h.spareOut) (.foldl (fun _ _ h => h.spareOut) h))
         (.foldl (fun _ _ h => h.arrayFault) h)).stepDone

theorem execFirmwareBroadcast_meaning : Meaning s (execFirmwareBroadcast s) :=
  .awake fun h => by
    split
    next e =>
      have h := h.stepStart.of_fst e
      refine .ite h ?_
      dsimp only
      split
      · exact h.withBrg
      · exact h.stepFail

theorem Sound.failCoreTarget {d k j spareGood was} (h : Sound s₀ s) : Sound s₀ (s.failCoreTarget d k j spareGood was) :=
  .ite h.report h.spareOut

theorem Sound.failTarget {all f} (h : Sound s₀ s) : Sound s₀ (s.failTarget t all f) := by
  cases f with
  | core d k j => exact h.countTop.failCoreTarget
  | sequencer d k j l => exact h.countTop.failCoreTarget
  | controller d k => exact h.countTop.withdrawCluster
  | sketch d k => exact h.countTop.withdrawSketch

theorem execFirmwareBroadcastEnd_meaning {rounds} : Meaning s (execFirmwareBroadcastEnd rounds s) :=
  .awake fun h => .ite h (Sound.foldl (fun _ _ h => h.failTarget) h.withBrg).stepDone

/-! ### Capture, audio and I2C -/

theorem Sound.setVid {n x} (h : Sound s₀ s) : Sound s₀ (s.setVid n x) := h.withCap

theorem Sound.setBuf {n i v} (h : Sound s₀ s) : Sound s₀ (s.setBuf n i v) := h.setFld

theorem Sound.vidEvent {n} (h : Sound s₀ s) : Sound s₀ (s.vidEvent n) := .ite h.setVid.eventOpen h

theorem Sound.vidCount {n r bit} (h : Sound s₀ s) : Sound s₀ (s.vidCount n r bit) := h.countSat

theorem Sound.capWrite {ctx a bs} (h : Sound s₀ s) : Sound s₀ (s.capWrite ctx a bs) := by
  unfold State.capWrite
  split
  · next _ e => exact (h.writeFor e).hubWrote
  · exact h

theorem Sound.recordFlags {n i flags} (h : Sound s₀ s) : Sound s₀ (s.recordFlags n i flags) := h.capWrite

theorem Sound.freeOrReady {n i} (h : Sound s₀ s) : Sound s₀ (s.freeOrReady n i) := h.setBuf

theorem Sound.trigger {ns i} (h : Sound s₀ s) : Sound s₀ (s.trigger ns i) :=
  .ite
    h
    (have h := (Sound.foldl (fun _ _ h => h.setBuf) (.foldl (fun _ _ h => h.recordFlags) h)).submitChain;
     .ite h (.foldl (fun _ _ h => h.freeOrReady) h.vidCount.vidEvent))

theorem Sound.pairFail {n m i} (h : Sound s₀ s) : Sound s₀ (s.pairFail n m i) :=
  (Sound.ite (Sound.ite h.setBuf h).recordFlags.setBuf (Sound.ite h.setBuf h).recordFlags).recordFlags.vidCount.vidEvent

theorem Sound.pairEnd {n m i start good} (h : Sound s₀ s) : Sound s₀ (s.pairEnd n m i start good) := by
  unfold State.pairEnd
  dsimp only
  split
  · refine .ite ?_ h.setVid
    exact
      have h := h.setVid;
      .ite h.trigger h.pairFail
  · exact .ite h.setVid h.pairFail

theorem Sound.endFrame {n f status} (h : Sound s₀ s) : Sound s₀ (s.endFrame n f status) :=
  have h := h.setVid.capWrite.count
  have h := Sound.ite h.setBuf h.setBuf.vidCount.vidEvent
  by
    unfold State.endFrame
    dsimp only
    split
    · exact h.pairEnd
    · exact .ite h.trigger h

theorem Sound.closeFrame {n early} (h : Sound s₀ s) : Sound s₀ (s.closeFrame n early) := by
  unfold State.closeFrame
  split
  · exact h.endFrame
  · exact h

theorem Sound.missedPartner {n m} (h : Sound s₀ s) : Sound s₀ (s.missedPartner n m) := by
  unfold State.missedPartner
  dsimp only
  split
  · exact h
  · exact
      have h := h.setVid;
      have h := Sound.ite h.setBuf h;
      by split; exacts [.ite h.setVid.pairFail h, h]

theorem Sound.allocate {n} (h : Sound s₀ s) : Sound s₀ (s.allocate n).1 := by
  unfold State.allocate
  split
  · exact h
  · split
    · exact h.setVid
    · exact
        have h := h.setVid;
        .ite h.setBuf h

theorem Sound.leaveFrame {n} (h : Sound s₀ s) : Sound s₀ (s.leaveFrame n) :=
  have h := h.closeFrame
  by
    unfold State.leaveFrame
    dsimp only
    split
    · exact h.missedPartner
    · exact h

theorem Sound.startFrame {n corrected} (h : Sound s₀ s) : Sound s₀ (s.startFrame n corrected) :=
  have h := h.leaveFrame.setVid.allocate
  .ite h.setVid.setBuf h.vidCount.vidEvent

theorem Sound.rxCount {rx r bit} (h : Sound s₀ s) : Sound s₀ (s.rxCount rx r bit) := h.countSat

theorem Sound.rxCorrected {rx corrected} (h : Sound s₀ s) : Sound s₀ (s.rxCorrected rx corrected) := .ite h.rxCount h

theorem execCsiFrameStart_meaning {rx vc corrected} : Meaning s (execCsiFrameStart rx vc corrected s) :=
  .live fun h => by
    refine .ite h ?_
    exact
      have h := h.rxCorrected;
      by
        dsimp only
        split
        · exact h.rxCount
        · exact .foldl (fun _ _ h => h.startFrame) h

theorem Sound.frameCorrected {ns corrected} (h : Sound s₀ s) : Sound s₀ (s.frameCorrected ns corrected) :=
  .foldl (fun _ _ h => by split; exacts [h.setVid, h]) h

theorem Sound.takeLine {n dt corrected crcGood pixels} (h : Sound s₀ s) :
    Sound s₀ (s.takeLine n dt corrected crcGood pixels) := by
  unfold State.takeLine
  split
  · exact h
  · exact (Sound.ite h.capWrite h).setVid

theorem execCsiLongPacket_meaning {rx vc dt corrected crcGood pixels} :
    Meaning s (execCsiLongPacket rx vc dt corrected crcGood pixels s) :=
  .live fun h => by
    refine .ite h ?_
    exact
      have h := h.rxCorrected;
      .ite
        h.frameCorrected
        (by
           split
           · exact h.rxCount
           · exact .foldl (fun _ _ h => h.takeLine) (.ite h h.rxCount))

theorem execCsiFrameEnd_meaning {rx vc corrected} : Meaning s (execCsiFrameEnd rx vc corrected s) :=
  .live fun h => by
    refine .ite h ?_
    exact
      have h := h.rxCorrected;
      by
        dsimp only
        split
        · exact h.rxCount
        · exact .foldl (fun _ _ h => h.frameCorrected.closeFrame) h

theorem Sound.markOpen {rx} (h : Sound s₀ s) : Sound s₀ (s.markOpen rx) :=
  .foldl (fun _ _ h => by split; exacts [h.setVid, h]) h

theorem execCsiHeaderError_meaning {rx} : Meaning s (execCsiHeaderError rx s) := .live fun h => .ite h.rxCount.markOpen h

theorem execLineBufferOverrun_meaning {rx} : Meaning s (execLineBufferOverrun rx s) := .live fun h => .ite h.rxCount.markOpen h

theorem execCaptureFrameTimeout_meaning {stream} : Meaning s (execCaptureFrameTimeout stream s) :=
  .live fun h => .ite h h.closeFrame

theorem execCaptureRelease_meaning {stream mask} : Meaning s (execCaptureRelease stream mask s) :=
  .live fun h => .foldl (fun _ _ h => .ite h.setBuf h) h

theorem Sound.stopPair {n} (h : Sound s₀ s) : Sound s₀ (s.stopPair n) := by
  unfold State.stopPair
  split
  · exact h.setVid
  · split
    · exact h.setVid.pairFail
    · exact h.setVid

theorem Sound.captureStop {n} (h : Sound s₀ s) : Sound s₀ (s.captureStop n) :=
  (Sound.foldl (fun _ _ h => .ite h h.setBuf) (.stopPair (by split; exacts [h.endFrame, h]))).setVid

theorem execCaptureDisable_meaning {stream value} : Meaning s (execCaptureDisable stream value s) :=
  .live fun h =>
    have h := h.poke
    .ite h.captureStop h

theorem Sound.setAud {a x} (h : Sound s₀ s) : Sound s₀ (s.setAud a x) := h.withCap

theorem Sound.setTdm {p x} (h : Sound s₀ s) : Sound s₀ (s.setTdm p x) := h.withCap

theorem Sound.periodEnd {a} (h : Sound s₀ s) : Sound s₀ (s.periodEnd a) :=
  have h := h.poke
  .ite (have h := h.countSat.setAud; .ite h.eventOpen h) h.capWrite.setAud

theorem Sound.takeFrame {p a slots} (h : Sound s₀ s) : Sound s₀ (s.takeFrame p a slots) :=
  have h := (Sound.ite h.draw h).setAud
  .ite h.periodEnd h

theorem Sound.measureRate {p} (h : Sound s₀ s) : Sound s₀ (s.measureRate p) := by
  unfold State.measureRate
  split
  · exact .ite h.setFld h
  · exact h

theorem execTdmFrame_meaning {port slots} : Meaning s (execTdmFrame port slots s) :=
  .live fun h =>
    .ite
      h
      (have h := h.measureRate;
       .ite
         (.ite h.setTdm (Sound.foldl (fun _ _ h => h.setAud) h.setTdm).setBit.setBit)
         (.foldl (fun _ _ h => h.takeFrame) h.setTdm.setBit))

theorem execTdmResync_meaning {port} : Meaning s (execTdmResync port s) :=
  .live fun h => .ite h (Sound.foldl (fun _ _ h => h.setAud) h.setTdm).setBit.countSat

theorem execTdmFsLost_meaning {port} : Meaning s (execTdmFsLost port s) :=
  .live fun h => .ite h (have h := h.setTdm.setBit.setBit; .ite h.eventOpen h)

theorem execAudioRdWrite_meaning {stream value} : Meaning s (execAudioRdWrite stream value s) := .live fun h => .ite h h.poke

theorem Sound.setFs {k x} (h : Sound s₀ s) : Sound s₀ (s.setFs k x) := h.withCap

theorem execFsyncEnable_meaning {output value} : Meaning s (execFsyncEnable output value s) :=
  .live fun h =>
    have h := h.poke
    .ite h (have h := h.setFs; .ite h.poke64 h)

theorem Sound.fsPulse {k} (h : Sound s₀ s) : Sound s₀ (s.fsPulse k) := h.setFs

theorem execFsyncEdge_meaning {output} : Meaning s (execFsyncEdge output s) := .live fun h => .ite h.fsPulse.poke64 h

theorem Sound.fsStep {k before} (h : Sound s₀ s) : Sound s₀ (s.fsStep k before) :=
  .ite h (.ite (.ite h.fsPulse.poke64 h) h.poke64)

theorem Sound.i2cEnd {c result} (h : Sound s₀ s) : Sound s₀ (s.i2cEnd c result) :=
  have h := h.withCap.poke
  .ite h (.ite h.countSat h.countSat)

theorem execI2cCommand_meaning {ctrl value} : Meaning s (execI2cCommand ctrl value s) :=
  .live fun h =>
    have h := h.poke
    .ite h (.ite h.withCap.poke h.i2cEnd)

theorem execI2cCommandEnd_meaning {ctrl result data} : Meaning s (execI2cCommandEnd ctrl result data s) :=
  .live fun h => by
    dsimp only
    split
    · exact (Sound.ite h.putBytes h).i2cEnd
    · exact h

/-! ### Slots, switches and token loops -/

theorem execQueueEnable_meaning {ctx value} : Meaning s (execQueueEnable ctx value s) := .live fun h => .ite h.queueControl h

theorem execQueueDisable_meaning {ctx value} : Meaning s (execQueueDisable ctx value s) := .live fun h => .ite h.queueControl h

theorem execDoorbell_meaning {queue count} : Meaning s (execDoorbell queue count s) := .live fun h => .ite h h.doorbell

theorem execCqConsumerDoorbell_meaning {queue count} : Meaning s (execCqConsumerDoorbell queue count s) :=
  .live fun h => .ite h.doorbell h

theorem Sound.drainCore {core} (h : Sound s₀ s) : Sound s₀ (s.drainCore core) := by
  unfold State.drainCore
  split
  · exact h.drainEngines
  · exact h

theorem execSlotSwitch_meaning {core} : Meaning s (execSlotSwitch core s) := .live fun h => h.switchCore.drainCore

theorem execQuantumExpiry_meaning {core} : Meaning s (execQuantumExpiry core s) :=
  .live fun h => by
    dsimp only
    split
    · exact h
    · split
      · exact h
      · exact .ite h (by split; exacts [h.coreIdle.startSlot.drainCore, h])

theorem execWaitYield_meaning {at_} : Meaning s (execWaitYield at_ s) :=
  .live fun h => by
    split
    · exact .ite h.putSlot.switchCore.drainCore h
    · exact h

theorem execTaskComplete_meaning {queue seq status} : Meaning s (execTaskComplete queue seq status s) :=
  .live fun h => by
    split
    · exact .ite h.endTask h
    · exact h

theorem execDeadlineAbort_meaning {queue seq} : Meaning s (execDeadlineAbort queue seq s) :=
  .live fun h => by
    split
    · exact .ite h.endTask h
    · exact h

/-- Opened as `Sound.endPartial`. -/
theorem Sound.putToken {t' l token last reason} (h : Sound s₀ s) : Sound s₀ (s.putToken t' l token last reason) := by
  conv => arg 2; fun; fun; fun; fun; fun; fun; delta State.putToken
  extract_lets c wr a
  have hw (r) (e : s.writeFor c a (tokenRecord l token last reason) = .ok r) : Sound s₀ r := h.writeFor e
  generalize s.writeFor c a (tokenRecord l token last reason) = w at hw ⊢
  match w, hw with
  | .denied, _ => exact h.endTask
  | .uncorrectable _, _ => exact h.endTask
  | .ok r, hw =>
    have h := hw r rfl
    exact .putTask (by split; exacts [h.poke.withSct.account, h.poke.withSct])

theorem Sound.stallToken {t' l} (h : Sound s₀ s) : Sound s₀ (s.stallToken t' l) := h.putTask

theorem execTokenRecordWrite_meaning {queue seq token reason} : Meaning s (execTokenRecordWrite queue seq token reason s) :=
  .live fun h => by
    split
    · exact h
    · split
      · exact h
      · exact .ite h (.ite h.stallToken h.putToken)

theorem Sound.lastToken {t' l reason} (h : Sound s₀ s) : Sound s₀ (s.lastToken t' l reason) := h.putToken

theorem execTokenIterationEnd_meaning {queue seq} : Meaning s (execTokenIterationEnd queue seq s) :=
  .live fun h => by
    split
    · exact h
    · split
      · exact h
      · exact .ite h (.ite h.putTask (.ite h.stallToken h.lastToken))

theorem execTokenLoopCancel_meaning {ctx value} : Meaning s (execTokenLoopCancel ctx value s) := .live fun h => h.withSch

theorem Sound.timeoutTask {q seq} (h : Sound s₀ s) : Sound s₀ (s.timeoutTask q seq) := by
  unfold State.timeoutTask
  split
  · exact h
  · refine .ite h ?_
    split
    · exact .ite h.endTask (.ite h.stallToken (have h := h.lastToken; by dsimp only; split; exacts [h.endTask, h]))
    · exact h.endTask

theorem Sound.endTimedOut {c} (h : Sound s₀ s) : Sound s₀ (s.endTimedOut c) := .foldl (fun _ _ h => h.timeoutTask) h

theorem execTaskTimeout_meaning {queue seq} : Meaning s (execTaskTimeout queue seq s) := .live fun h => h.timeoutTask

theorem execSlotCounterRead_meaning {at_ counter} : Meaning s (execSlotCounterRead at_ counter s) :=
  .live fun h => by
    split
    · exact h.draw.putSlot
    · exact h

theorem execTraceMarker_meaning {source value} : Meaning s (execTraceMarker source value s) :=
  .live fun h => by
    split
    · exact h.trace
    · split
      · exact h.trace
      · exact h

theorem execEvictionEnd_meaning {at_ error} : Meaning s (execEvictionEnd at_ error s) :=
  .live fun h => by
    split
    · exact .ite (by split; exacts [h.endSlot, h.endEviction]) h
    · exact h

theorem Sound.evictForRestore {l} (h : Sound s₀ s) : Sound s₀ (s.evictForRestore l) := by
  unfold State.evictForRestore
  split
  · exact .ite h.evictOne h
  · exact h

theorem execRestoreStart_meaning {at_ queue seq} : Meaning s (execRestoreStart at_ queue seq s) :=
  .live fun h => by
    dsimp only
    split
    · exact h
    · exact .ite h.startRestore h.evictForRestore

theorem execRestoreEnd_meaning {at_ error} : Meaning s (execRestoreEnd at_ error s) :=
  .live fun h => by
    split
    · exact .ite (by split; exacts [h.endSlot, by split; exacts [h.endRestore, h]]) h
    · exact h

theorem Sound.giveUpRestores {p} (h : Sound s₀ s) : Sound s₀ (s.giveUpRestores p) := h.withSch

theorem execPark_meaning {part} : Meaning s (execPark part s) :=
  .live fun h =>
    .ite
      h
      (have h := h.setBit;
       .ite
         h.setBit.event
         (.ite h.setBit.event
           (.foldl (fun _ _ h => by split; exacts [h.startEviction, h]) h.setBit.setBit.withSch.giveUpRestores)))

theorem Sound.packRanges {a rs} (h : Sound s₀ s) : Sound s₀ (s.packRanges a rs) := by
  induction rs generalizing s a with
  | nil => exact h
  | cons r rs ih => exact ih h.copyRange

theorem Sound.unpackRanges {a rs} (h : Sound s₀ s) : Sound s₀ (s.unpackRanges a rs) := by
  induction rs generalizing s a with
  | nil => exact h
  | cons r rs ih => exact ih h.copyRange

theorem execParkEnd_meaning {part} : Meaning s (execParkEnd part s) :=
  .live fun h => .ite h (Sound.foldl (fun _ _ h => h.endEviction) h).packRanges.withSch.setFld

theorem Sound.restoreShares {p} (h : Sound s₀ s) : Sound s₀ (s.restoreShares p) := by
  unfold State.restoreShares
  split
  · exact h.unpackRanges
  · exact h

theorem Sound.restoreParked {l} (h : Sound s₀ s) : Sound s₀ (s.restoreParked l) :=
  have h := h.startRestore
  by
    unfold State.restoreParked
    dsimp only
    split
    · exact h.endRestore
    · exact h

theorem Sound.unparkAll {p} (h : Sound s₀ s) : Sound s₀ (s.unparkAll p) :=
  (Sound.foldl (fun _ _ h => h.restoreParked) h.restoreShares).withSch

theorem execUnpark_meaning {part} : Meaning s (execUnpark part s) :=
  .live fun h => .ite h (have h := h.setBit; .ite h.setBit.unparkAll h)

theorem execCtxRestart_meaning {ctx} : Meaning s (execCtxRestart ctx s) :=
  .live fun h => .ite (Sound.foldl (fun _ _ h => h.dropQueue) h).setBit h

theorem execSemAcquire_meaning {at_ sem units} : Meaning s (execSemAcquire at_ sem units s) :=
  .live fun h => by
    dsimp only
    split
    · exact h
    · split
      · exact h
      · exact .ite h (.ite h.endTask (.ite h.semTake.relend h.putSlot.putSem.relend))

theorem execSemRelease_meaning {at_ sem units} : Meaning s (execSemRelease at_ sem units s) :=
  .live fun h => by
    dsimp only
    split
    · exact h
    · split
      · exact h
      · exact .ite h.endTask (.ite (.ite h h.endTask) h.putSem.setHeld.semGrant.relend)

theorem execSemAcquireTimeout_meaning {at_ sem} : Meaning s (execSemAcquireTimeout at_ sem s) :=
  .live fun h => by
    dsimp only
    split
    · exact h
    · exact h.endAcquire.withSch.semGrant.relend.wakeCore

theorem execSemForceRel_meaning {sem} : Meaning s (execSemForceRel sem s) := .live fun h => h.semAbandon.relend

theorem execSemClrAbandoned_meaning {sem} : Meaning s (execSemClrAbandoned sem s) := .live fun h => h.setBit

/-! ### The Rambler -/

theorem Sound.setRam {r} (h : Sound s₀ s) : Sound s₀ (s.setRam r) := h.withBrg

theorem Sound.ramTo {v} (h : Sound s₀ s) : Sound s₀ (s.ramTo v) := h.setFld

theorem Sound.ramEvent (h : Sound s₀ s) : Sound s₀ s.ramEvent := .ite h.eventOpen h

theorem Sound.ramReport {action} (h : Sound s₀ s) : Sound s₀ (s.ramReport action) := h.report

theorem Sound.ramStart {d k j} (h : Sound s₀ s) : Sound s₀ (s.ramStart d k j) := h.setRam.poke

theorem execRamblerTestDue_meaning : Meaning s (execRamblerTestDue s) :=
  .live fun h => by
    refine .ite h ?_
    dsimp only
    split
    · exact h.setRam.ramStart
    · split
      · exact h.setRam.ramStart
      · exact h

theorem execRamblerReq_meaning {value} : Meaning s (execRamblerReq value s) := .awake fun h => .ite h h.setRam

theorem Sound.pauseCore {core} (h : Sound s₀ s) : Sound s₀ (s.pauseCore core) := h.coreIdle

theorem Sound.moveBegin {core donor} (h : Sound s₀ s) : Sound s₀ (s.moveBegin core donor) := by
  unfold State.moveBegin
  extract_lets d k j r s1 s2
  have h1 : Sound s₀ s1 := h.setRam
  have h2 : Sound s₀ s2 := by
    unfold s2
    split
    · exact (Sound.foldl (fun _ _ h => h.startEviction) h1).coreIdle
    · exact h1
  exact h2.pauseCore.setFld.setBit.ramTo

theorem execRamblerSlackCheck_meaning : Meaning s (execRamblerSlackCheck s) :=
  .live fun h => by
    split
    · exact h
    · exact .ite (by split; exacts [h, .ite h.moveBegin h]) (.ite (.ite h.pauseCore.ramTo h) h)

theorem Sound.markMoved {core} (h : Sound s₀ s) : Sound s₀ (s.markMoved core) :=
  .foldl (fun _ _ h => by split; exacts [h.putTask, h]) h

theorem Sound.serveFailed {core j} (h : Sound s₀ s) : Sound s₀ (s.serveFailed core j) :=
  .ite h.moveCore.report h.absentCore.report

theorem Sound.serveOwed {owed} (h : Sound s₀ s) : Sound s₀ (s.serveOwed owed) := by
  unfold State.serveOwed
  split
  · exact h.serveFailed
  · exact h

theorem execRamblerMoveEnd_meaning : Meaning s (execRamblerMoveEnd s) :=
  .live fun h => by
    dsimp only
    split
    · exact h
    · exact .ite
          (.ite h h.markMoved.moveCore.ramTo.wakeCore)
          (.ite
             (have h := h.markMoved.remapCore.putSlotRegs.setRam.setBit.ramTo.serveOwed;
              by split; exacts [h.wakeCore.wakeCore, h.wakeCore])
             h)

theorem execRamblerTestEnd_meaning {pass repaired} : Meaning s (execRamblerTestEnd pass repaired s) :=
  .live fun h => by
    refine .ite h ?_
    exact
      have h := h.count.clearSite;
      .ite
        (have h := Sound.ite h.ramReport h;
         by dsimp only; split; exacts [h.setRam.ramTo, h.ramTo])
        (have h := h.failSite.countSat;
         by
           dsimp only
           split
           · exact h.setRam.ramTo.ramReport.ramEvent.donorResume
           · exact h.setRam.ramTo.ramReport.ramEvent
           · exact h.ramTo.ramReport.ramEvent)

theorem execRamblerWaitExpiry_meaning : Meaning s (execRamblerWaitExpiry s) :=
  .live fun h => .ite h.setRam.ramTo.countSat.ramReport.ramEvent h

/-! ### The global stop -/

theorem Sound.srEnter {st} (h : Sound s₀ s) : Sound s₀ (s.srEnter st) := .ite h h.withPwr.count

theorem Sound.srExit {st} (h : Sound s₀ s) : Sound s₀ (s.srExit st) := by
  unfold State.srExit
  split
  · exact h.withPwr.count
  · exact h

theorem Sound.globalStop {cause} (h : Sound s₀ s) : Sound s₀ (s.globalStop cause) :=
  .ite h (Sound.foldl (fun _ _ h => h.srEnter) h.poke.withDbg).event

theorem Sound.errorStop (h : Sound s₀ s) : Sound s₀ s.errorStop := .ite h.globalStop h

/-! ### Errors and resets -/

theorem Sound.goFatal {code unit loc} (h : Sound s₀ s) : Sound s₀ (s.goFatal code unit loc) :=
  have h := h.raise
  .ite
    h.errorStop
    (Sound.foldl (fun _ _ h => (Sound.foldl (fun _ _ h => h.finishTask) h).completeRung) h).withErr.setBit.errorStop

theorem execFatalStateEntry_meaning {code unit loc} : Meaning s (execFatalStateEntry code unit loc s) :=
  .live fun h => .ite h.goFatal h

theorem Sound.autoReset (h : Sound s₀ s) : Sound s₀ s.autoReset := by
  unfold State.autoReset
  split
  · exact .ite (h.withDev rfl) h
  · exact h

theorem execFatalTimeout_meaning : Meaning s (execFatalTimeout s) := .mayReset fun h => h.autoReset

theorem Sound.devReset {value} (h : Sound s₀ s) : Sound s₀ (s.devReset value) := .ite (h.withDev rfl) h

theorem execDeviceResetRequest_meaning {value} : Meaning s (execDeviceResetRequest value s) := .mayReset fun h => h.devReset

theorem execErrorRingSet_meaning : Meaning s (execErrorRingSet s) := .awake fun h => h.updateErrRing

theorem Sound.endPartition {p} (h : Sound s₀ s) : Sound s₀ (s.endPartition p) :=
  .foldl
    (fun _ _ h => h.synPartReset)
    (.foldl
       (fun _ _ h => h.setAud)
       (Sound.foldl
          (fun _ _ h => h.captureStop)
          (Sound.foldl
             (fun _ _ h => .foldl (fun _ _ h => h.write) h)
             (.foldl (fun _ _ h => h.finishTask) h)).endLoads.withSch).endChains)

theorem Sound.partReset {p cause code unit} (h : Sound s₀ s) : Sound s₀ (s.partReset p cause code unit) :=
  .ite h (have h := h.raise; (Sound.ite h h.withErr.setBit.endPartition).errorStop)

theorem execPartitionReset_meaning {part code} : Meaning s (execPartitionReset part code s) :=
  .live fun h => .ite h (by split; exacts [h.partReset, .ite h.partReset h])

theorem Sound.clearPartition {p} (h : Sound s₀ s) : Sound s₀ (s.clearPartition p) :=
  (Sound.foldl (fun _ _ h => .foldl (fun _ _ h => h.wipe) h) (.foldl (fun _ _ h => h.wipe) h)).withSch.setFld.setBit

theorem execPartitionResetEnd_meaning {part} : Meaning s (execPartitionResetEnd part s) :=
  .live fun h =>
    .ite
      h
      (Sound.foldl
         (fun _ _ h => h.setBit)
         (.foldl
            (fun _ _ h => h.semAbandon)
            (Sound.foldl (fun _ _ h => h.completeRung.dropQueue) h).clearPartition)).withErr.setBit.event

theorem execCorrectedError_meaning {kind unit loc} : Meaning s (execCorrectedError kind unit loc s) :=
  .live fun h => by
    dsimp only
    split
    · exact h.countSat.raise
    · exact h.countSat.raise
    · exact h.countSat.raise
    · exact h.countSat.countSat.raise

theorem Sound.errNoTask {code unit status ctx loc} (h : Sound s₀ s) : Sound s₀ (s.errNoTask code unit status ctx loc) := h.raise

theorem Sound.readerEnds {reader a} (h : Sound s₀ s) : Sound s₀ (s.readerEnds reader a) := by
  unfold State.readerEnds
  extract_lets code unit
  cases reader
  case task q seq =>
    dsimp only
    split
    · exact .ite h.endTask h.errNoTask
    · exact h.errNoTask
  case engine e =>
    dsimp only
    split
    · exact h.errNoTask.failChain
    · exact h.errNoTask
  all_goals exact h.errNoTask

theorem execDramUncorrectable_meaning {addr reader} : Meaning s (execDramUncorrectable addr reader s) :=
  .live fun h => .ite h.poison.readerEnds h

theorem Sound.withdrawInService {d k} (h : Sound s₀ s) : Sound s₀ (s.withdrawInService d k) :=
  .ite h (have h := h.setBit; .ite h.raise.errorStop (.foldl (fun _ _ h => h.partReset) h))

theorem execClusterWithdraw_meaning {die cluster} : Meaning s (execClusterWithdraw die cluster s) :=
  .live fun h => .ite h.withdrawInService h

theorem Sound.failTasks {cores unit} (h : Sound s₀ s) : Sound s₀ (s.failTasks cores unit) :=
  have h := Sound.foldl (fun _ _ h => h.finishTask) h
  .ite h.raise (.foldl (fun _ _ h => have h := h.raise; by dsimp only; split; exacts [h.teardown, h]) h)

theorem Sound.serveFailure {d k j cores} (h : Sound s₀ s) : Sound s₀ (s.serveFailure d k j cores) := by
  unfold State.serveFailure
  dsimp only
  split
  · refine .ite ?_ (.ite
       h.remapCore.setRam.ramTo.report
       (.ite
          (have h := h.setRam;
           .ite h.ramTo h)
          (.ite (.foldl (fun _ _ h => h.serveFailed) h.remapCore.setBit.setRam.ramTo) (.foldl (fun _ _ h => h.serveFailed) h))))
    split
    · exact .ite h.setRam.ramTo.report.donorResume h.setRam.ramTo.serveFailed
    · exact .ite (Sound.ite h.moveCore h).setRam.ramTo.report h.setRam.ramTo.serveFailed
  · exact .foldl (fun _ _ h => h.serveFailed) h

theorem Sound.coreFails {d k j} (h : Sound s₀ s) : Sound s₀ (s.coreFails d k j) :=
  .ite h (have h := h.failSite.failTasks; .ite h.report h.serveFailure)

theorem execCoreFailInService_meaning {die cluster slot} : Meaning s (execCoreFailInService die cluster slot s) :=
  .live fun h => h.coreFails

theorem Sound.slotArrayError {core i status} (h : Sound s₀ s) : Sound s₀ (s.slotArrayError core i status) := by
  unfold State.slotArrayError
  split
  · exact h
  · split
    · exact h
    · exact h.endTaskWith

theorem Sound.coolError {d k model loc} (h : Sound s₀ s) : Sound s₀ (s.coolError d k model loc) := by
  unfold State.coolError
  split
  · exact .ite h.putModel.account.account.errNoTask h
  · exact h

theorem Sound.spoilSlot {core i kind entry} (h : Sound s₀ s) : Sound s₀ (s.spoilSlot core i kind entry) := by
  unfold State.spoilSlot
  dsimp only
  split
  · exact h.putSlot
  · exact h.withSch

/-- The place is held apart: the kernel would else evaluate `placeOf` to compare two forms of the match on it. -/
theorem execOnchipUncorrectable_meaning {place reader} : Meaning s (execOnchipUncorrectable place reader s) :=
  .live fun h => by
    obtain ⟨place, hplace⟩ : ∃ f, f = placeOf := ⟨_, rfl⟩
    rw [← hplace]
    split
    · dsimp only
      split
      · split
        · exact h.poison.endSlot
        · exact h.poison.readerEnds
      · exact .ite h.poison.readerEnds (.ite h.coolError h.withdrawInService)
      · split
        · exact h.poison.goFatal
        · exact h.poison.readerEnds
      · exact h
    · exact h.spoilSlot.slotArrayError
    · exact .ite h.coreFails h.slotArrayError

theorem execCoolBoxError_meaning {die cluster part handle} : Meaning s (execCoolBoxError die cluster part handle s) :=
  .live fun h => h.coolError

theorem execPatrolScrub_meaning {addr found} : Meaning s (execPatrolScrub addr found s) :=
  .live fun h => by
    refine .ite h ?_
    exact
      have h := h.srExit;
      by
        dsimp only
        split
        · exact h
        · exact h.countSat.errNoTask
        · exact h.poison.errNoTask

theorem Sound.retireModule {p m} (h : Sound s₀ s) : Sound s₀ (s.retireModule p m) :=
  have h := h.withBrg
  .ite h.raise h.goFatal

theorem Sound.meshFail {d r port} (h : Sound s₀ s) : Sound s₀ (s.meshFail d r port) := h.goFatal

theorem execFlitCrcError_meaning {link replays} : Meaning s (execFlitCrcError link replays s) :=
  .live fun h => by
    split
    · exact .ite h (.ite h.countSat.pmcAdd.raise h.withBrg)
    · exact .ite h (.ite h.countSat.raise h.meshFail)

theorem execMeshLinkFail_meaning {die router port} : Meaning s (execMeshLinkFail die router port s) :=
  .live fun h => .ite h.meshFail h

theorem execModuleRetrainEnd_meaning {pair module good} : Meaning s (execModuleRetrainEnd pair module good s) :=
  .live fun h => .ite h (.ite h.retireModule (have h := h.withBrg.raise; .ite h.retireModule h))

/-! ### Time and latches -/

theorem Sound.timEvent {inst code payload} (h : Sound s₀ s) : Sound s₀ (s.timEvent inst code payload) := .ite h.event h

theorem Sound.setLch {k x} (h : Sound s₀ s) : Sound s₀ (s.setLch k x) := h.withTim.poke64

theorem Sound.lchWrite {k value} (h : Sound s₀ s) : Sound s₀ (s.lchWrite k value) :=
  have h := h.poke
  .ite h.setLch (.ite h h.setLch)

theorem Sound.launchQueue {q} (h : Sound s₀ s) : Sound s₀ (s.launchQueue q) :=
  have h := Sound.ite h h.takeEntry
  by
    unfold State.launchQueue
    dsimp only
    split
    · exact .ite h.dispatchStatic h
    · exact h

theorem Sound.launch {k} (h : Sound s₀ s) : Sound s₀ (s.launch k) :=
  .ite (have h := h.setLch.countSat; .ite h.timEvent h) (Sound.foldl (fun _ _ h => h.launchQueue) h).setLch

theorem execLaunchInstant_meaning {channel} : Meaning s (execLaunchInstant channel s) := .live fun h => .ite h.launch.setLch h

theorem Sound.lchStep {before k} (h : Sound s₀ s) : Sound s₀ (s.lchStep before k) :=
  .ite h (.ite (.ite h.launch.setLch h) (.ite h.setLch h.setLch))

theorem Sound.applyStep {d} (h : Sound s₀ s) : Sound s₀ (s.applyStep d) :=
  have h := h.withTim.countSat.setBit.timEvent
  .ite h (.foldl (fun _ _ h => h.lchStep) (.foldl (fun _ _ h => h.fsStep) h))

theorem Sound.setRate {fi a} (h : Sound s₀ s) : Sound s₀ (s.setRate fi a) := h.withTim.poke

theorem Sound.slew {o t'} (h : Sound s₀ s) : Sound s₀ (s.slew o t') := h.setRate

theorem Sound.sinceOffset (h : Sound s₀ s) : Sound s₀ (s.sinceOffset.1) := by
  unfold State.sinceOffset
  split
  · exact h
  · exact h.draw

theorem Sound.lockTest {o} (h : Sound s₀ s) : Sound s₀ (s.lockTest o) :=
  have h := h.withTim
  .ite h.setBit (.ite h.setBit h)

theorem Sound.deferStep {o t'} (h : Sound s₀ s) : Sound s₀ (s.deferStep o t') :=
  have h := h.withTim.setBit.countSat
  (Sound.ite h.timEvent h).slew

theorem Sound.servo {o} (h : Sound s₀ s) : Sound s₀ (s.servo o) :=
  have h := h.poke
  have h := (Sound.ite h.setBit.timEvent h).sinceOffset.lockTest
  (Sound.ite (.ite h.deferStep h.applyStep) h.withTim.slew).withTim

theorem Sound.enterHoldover (h : Sound s₀ s) : Sound s₀ s.enterHoldover :=
  .ite h h.setRate.withTim.setBit.setBit.countSat.timEvent

theorem execGptpSync_meaning {port optionalDomain offset} : Meaning s (execGptpSync port optionalDomain offset s) :=
  .awake fun h => .ite h (have h := h.withTim.setBit; .ite h.servo h)

theorem Sound.ppsOffset (h : Sound s₀ s) : Sound s₀ (s.ppsOffset.1) := .iteFst h (.iteFst h (.iteFst h.draw h.draw))

theorem execPpsInEdge_meaning {rising} : Meaning s (execPpsInEdge rising s) :=
  .awake fun h => .ite h (have h := h.withTim.poke64; have h := Sound.ite h.setBit h; .ite h.ppsOffset.servo h)

theorem execPpsLoss_meaning : Meaning s (execPpsLoss s) :=
  .awake fun h =>
    have h := h.withTim
    .ite h (have h := h.setBit.timEvent; .ite h.enterHoldover h)

theorem execSyncReceiptTimeout_meaning : Meaning s (execSyncReceiptTimeout s) :=
  .awake fun h =>
    have h := h.withTim.setBit
    .ite h.enterHoldover h

theorem execHoldoverTimeout_meaning : Meaning s (execHoldoverTimeout s) := .awake fun h => h.enterHoldover

theorem Sound.hostStep {d} (h : Sound s₀ s) : Sound s₀ (s.hostStep d) := .ite h.setBit h.applyStep

theorem Sound.timSetHi {value} (h : Sound s₀ s) : Sound s₀ (s.timSetHi value) := h.hostStep

theorem execTimAdj_meaning {value} : Meaning s (execTimAdj value s) := .awake fun h => h.hostStep

theorem execTimSet_meaning {value} : Meaning s (execTimSet value s) := .awake fun h => h.timSetHi

/-! ### Debug and counters -/

theorem Sound.dbgEvent {code payload} (h : Sound s₀ s) : Sound s₀ (s.dbgEvent code payload) := h.event

theorem Sound.newNonce (h : Sound s₀ s) : Sound s₀ s.newNonce := .foldl (fun _ _ h => h.poke) h.draw

theorem Sound.unlockResult {scopes code} (h : Sound s₀ s) : Sound s₀ (s.unlockResult scopes code) := h.setFld.dbgEvent

theorem Sound.unlockSubmit {value} (h : Sound s₀ s) : Sound s₀ (s.unlockSubmit value) :=
  .ite h.unlockResult.newNonce h.withDbg.setBit

theorem execUnlockSubmit_meaning {value} : Meaning s (execUnlockSubmit value s) := .awake fun h => h.unlockSubmit

theorem execUnlockEnd_meaning : Meaning s (execUnlockEnd s) :=
  .awake fun h => by
    split
    · exact h
    · exact
        have h := h.withDbg.setBit;
        (Sound.ite h.poke.poke.poke h).unlockResult.newNonce

theorem Sound.markHalt {core i halted stepping} (h : Sound s₀ s) : Sound s₀ (s.markHalt core i halted stepping) := by
  unfold State.markHalt
  split
  · exact h.putSlot
  · exact h

theorem Sound.haltSlot {x} (h : Sound s₀ s) : Sound s₀ (s.haltSlot x) := (Sound.ite h.coreIdle h).markHalt.wakeCore

theorem Sound.resumeSlot {x stepping} (h : Sound s₀ s) : Sound s₀ (s.resumeSlot x stepping) := .ite h.markHalt.wakeCore h

theorem Sound.haltEvent {x pc unit} (h : Sound s₀ s) : Sound s₀ (s.haltEvent x pc unit) := h.dbgEvent

theorem execBreakpointHit_meaning {at_ pc} : Meaning s (execBreakpointHit at_ pc s) :=
  .live fun h => by
    split
    · exact h
    · exact
        have h := h.putSlot;
        by
          dsimp only
          split
          · exact
              have h := (Sound.foldl (fun _ _ h => h.haltSlot) h).haltEvent;
              .ite h.globalStop h
          · exact .ite h.haltSlot h

theorem execEbreak_meaning {at_ pc} : Meaning s (execEbreak at_ pc s) :=
  .live fun h => by
    split
    · exact h
    · exact
        have h := h.putSlot;
        .ite h.haltSlot.haltEvent (.ite h.haltSlot h)

theorem Sound.bpArm {b value} (h : Sound s₀ s) : Sound s₀ (s.bpArm b value) := .ite h.poke h.poke

theorem execBreakpointArm_meaning {unit value} : Meaning s (execBreakpointArm unit value s) := .awake fun h => .ite h.bpArm h

theorem Sound.debugRun {n all stepping} (h : Sound s₀ s) : Sound s₀ (s.debugRun n all stepping) := by
  unfold State.debugRun
  split
  · exact .ite (.foldl (fun _ _ h => h.resumeSlot) h) h
  · exact h

theorem execDebugResume_meaning {at_ all} : Meaning s (execDebugResume at_ all s) := .awake fun h => h.debugRun

theorem execDebugStep_meaning {at_ all} : Meaning s (execDebugStep at_ all s) := .awake fun h => h.debugRun

theorem Sound.debugLock (h : Sound s₀ s) : Sound s₀ s.debugLock :=
  .ite
    h
    (.foldl
       (fun _ _ h => h.setBit)
       (.foldl
          (fun _ _ h => h.setBit)
          (Sound.foldl (fun _ _ h => h.resumeSlot) (.foldl (fun _ _ h => h.setBit) h.setFld.poke.poke)).withSch))

theorem execDebugLock_meaning : Meaning s (execDebugLock s) := .awake fun h => h.debugLock

theorem Sound.stopWrite {value} (h : Sound s₀ s) : Sound s₀ (s.stopWrite value) := .ite h.globalStop h

theorem execGlobalStop_meaning {cause} : Meaning s (execGlobalStop cause s) :=
  .live fun h => by
    split
    · exact h.stopWrite
    · exact h.globalStop
    · exact h.errorStop

theorem Sound.stopRelease (h : Sound s₀ s) : Sound s₀ s.stopRelease :=
  .ite
    h
    (Sound.foldl
       (fun _ _ h => h.lchStep)
       (.foldl
          (fun _ _ h => h.fsStep)
          (.foldl (fun _ _ h => h.timeoutTask) (.foldl (fun _ _ h => h.synTakeover) h.poke)))).dbgEvent

theorem execGlobalStopRelease_meaning {value} : Meaning s (execGlobalStopRelease value s) :=
  .awake fun h => .ite h.stopRelease h

theorem Sound.scanShift (h : Sound s₀ s) : Sound s₀ s.scanShift := h.draw.withDbg.poke

theorem execScanDataRead_meaning : Meaning s (execScanDataRead s) := .awake fun h => .ite h.scanShift h

theorem Sound.pmcLatch (h : Sound s₀ s) : Sound s₀ s.pmcLatch := (Sound.foldl (fun _ _ h => h.poke) h).poke64

theorem Sound.pmcCtrl {value} (h : Sound s₀ s) : Sound s₀ (s.pmcCtrl value) :=
  have h := h.poke
  .ite h.pmcLatch h

theorem execPmcSnap_meaning {value} : Meaning s (execPmcSnap value s) := .live fun h => .ite h.pmcCtrl h

theorem execPmcSampleTick_meaning : Meaning s (execPmcSampleTick s) :=
  .live fun h => .ite h (.foldl (fun _ _ h => h.trace) h.pmcLatch)

theorem execPmcCounterWrap_meaning {counter} : Meaning s (execPmcCounterWrap counter s) := .live fun h => .ite h.pmcOne h

theorem execPcSample_meaning {core channel pc stall} : Meaning s (execPcSample core channel pc stall s) :=
  .live fun h => by
    dsimp only
    split
    · exact h
    · exact .ite h (.ite h.setBit.dbgEvent (have h := h.withDbg.write.poke; .ite h.countSat h))

theorem Sound.traceEnable {r value} (h : Sound s₀ s) : Sound s₀ (s.traceEnable r value) := .ite h.poke h.poke.dbgEvent

theorem execTraceRingEnable_meaning {ring value} : Meaning s (execTraceRingEnable ring value s) :=
  .live fun h => .ite h.traceEnable h

/-! ### Power and heat -/

theorem Sound.pwrEvent {code payload} (h : Sound s₀ s) : Sound s₀ (s.pwrEvent code payload) := .ite h.event h

theorem Sound.setVdd {d} (h : Sound s₀ s) : Sound s₀ (s.setVdd d) := .ite h h.withPwr

theorem Sound.pstateStart {i} (h : Sound s₀ s) : Sound s₀ (s.pstateStart i) := .ite h h.withPwr.setBit.setVdd

theorem execPstateTarget_meaning {cluster value} : Meaning s (execPstateTarget cluster value s) :=
  .awake fun h => h.setFld.pstateStart

theorem execDvfsTransitionEnd_meaning {cluster} : Meaning s (execDvfsTransitionEnd cluster s) :=
  .awake fun h => .ite h.setFld.setBit.setVdd.pstateStart h

theorem Sound.powerUpStep {i} (h : Sound s₀ s) : Sound s₀ (s.powerUpStep i) := .ite h.setFld.pstateStart h

theorem Sound.powerDownStep {i} (h : Sound s₀ s) : Sound s₀ (s.powerDownStep i) := .ite h.setFld.pstateStart h

theorem Sound.throttleStep (h : Sound s₀ s) : Sound s₀ s.throttleStep :=
  have h := Sound.foldl (fun _ _ h => h.powerUpStep) h
  .ite (.foldl (fun _ _ h => .ite h.powerUpStep.countSat h) h) h

theorem Sound.releaseStep (h : Sound s₀ s) : Sound s₀ s.releaseStep :=
  have h := Sound.foldl (fun _ _ h => h.powerDownStep) h
  .ite h.withPwr.setBit h

theorem execPowerCheck_meaning {mean} : Meaning s (execPowerCheck mean s) :=
  .awake fun h =>
    have h := h.poke
    .ite
      h
      (.ite
         (have h := h.withPwr.throttleStep;
          .ite h.setBit.countSat.alert.pwrEvent h)
         (.ite (have h := h.withPwr; .ite h.releaseStep h) h.withPwr))

theorem execCurrentFastLimit_meaning {die high} : Meaning s (execCurrentFastLimit die high s) :=
  .awake fun h => .ite h (.ite h.setBit.countSat.alert.pwrEvent h.setBit)

theorem Sound.railRead {r current} (h : Sound s₀ s) : Sound s₀ (s.railRead r current) := by
  unfold State.railRead
  dsimp only
  split
  · exact h.withPwr.poke
  · refine .ite h ?_
    exact
      have h := h.withPwr.poke;
      .ite h.pwrEvent h

theorem execRailCurrentPoll_meaning {currents} : Meaning s (execRailCurrentPoll currents s) :=
  .awake fun h => .foldl (fun _ _ h => h.railRead) h

theorem Sound.trip (h : Sound s₀ s) : Sound s₀ s.trip := h.withPwr.goFatal.withDev rfl

theorem Sound.thermalStep {i hot cool} (h : Sound s₀ s) : Sound s₀ (s.thermalStep i hot cool) :=
  .ite h.withPwr.setFld.pstateStart (.ite (.ite h.withPwr.setFld.pstateStart h.withPwr) h.withPwr)

theorem execThermalSample_meaning {temps} : Meaning s (execThermalSample temps s) :=
  .mayReset fun h =>
    have h := Sound.foldl (fun _ _ h => h.thermalStep) (Sound.foldl (fun _ _ h => h.poke) h).withPwr
    have h := (Sound.ite h.alert h).setBit
    .ite h.trip h

theorem execPowerGoodLoss_meaning {rail} : Meaning s (execPowerGoodLoss rail s) := .awake fun h => .ite h h.withPwr.goFatal

theorem Sound.loseCore {core} (h : Sound s₀ s) : Sound s₀ (s.loseCore core) := h.wipe.clearSite

theorem execDomainGate_meaning {domain} : Meaning s (execDomainGate domain s) :=
  .live fun {s₀} h => by
    refine .ite h ?_
    extract_lets _ s'
    have h : Sound s₀ s' := h.withPwr
    split
    · exact (Sound.foldl (fun _ _ h => h.loseCore) h).clearSite
    · exact h

theorem execDomainWakeEnd_meaning {domain} : Meaning s (execDomainWakeEnd domain s) :=
  .live fun {s₀} h => by
    refine .ite h ?_
    extract_lets _ s'
    have h : Sound s₀ s' := h.withPwr
    split
    · exact h.sketchSchedule
    · exact h.visGo
    · exact h

theorem execSelfRefreshEntry_meaning {stack free} : Meaning s (execSelfRefreshEntry stack free s) :=
  .live fun h => .ite h.srEnter h

theorem execSelfRefreshExit_meaning {stack stall} : Meaning s (execSelfRefreshExit stack stall s) :=
  .live fun h => by
    split
    · exact h.srExit.count
    · exact h

/-! ### Security operations -/

theorem Sound.secFail {code} (h : Sound s₀ s) : Sound s₀ (s.secFail code) := h.setFld.countSat.event

theorem Sound.secRun {op addr} (h : Sound s₀ s) : Sound s₀ (s.secRun op addr) := h.withSec.setBit.setFld

theorem Sound.secProvision (h : Sound s₀ s) : Sound s₀ s.secProvision :=
  .ite h.secFail (.ite h.secFail (.ite h.secFail h.secRun))

theorem Sound.secUnwrap (h : Sound s₀ s) : Sound s₀ s.secUnwrap := .ite h.secFail (.ite h.secFail (.ite h.secFail h.secRun))

theorem Sound.secAttest (h : Sound s₀ s) : Sound s₀ s.secAttest := .ite h.secFail (.ite h.secFail (.ite h.secFail h.secRun))

theorem Sound.secSkLoad (h : Sound s₀ s) : Sound s₀ s.secSkLoad := .ite h.secFail (.ite h.secFail (.ite h.secFail h.secRun))

theorem Sound.secSkCommit (h : Sound s₀ s) : Sound s₀ s.secSkCommit := by
  refine .ite h.secFail ?_
  split
  · exact h.secFail
  · exact h.withSec.setBit.setBit.setFld.setFld.poke

theorem Sound.secCtrl {value} (h : Sound s₀ s) : Sound s₀ (s.secCtrl value) := by
  unfold State.secCtrl
  split
  · exact h
  · exact .foldl
        (fun _ _ h => h.secFail)
        (by
           split
           · exact h.secProvision
           · exact h.secUnwrap
           · exact h.secAttest
           · exact h.secSkLoad
           · exact h.secSkCommit)

theorem execSecProvision_meaning : Meaning s (execSecProvision s) := .live fun h => h.secProvision

theorem execSecUnwrap_meaning : Meaning s (execSecUnwrap s) := .live fun h => h.secUnwrap

theorem execSecAttest_meaning : Meaning s (execSecAttest s) := .live fun h => h.secAttest

theorem execSecSkLoad_meaning : Meaning s (execSecSkLoad s) := .live fun h => h.secSkLoad

theorem execSecSkCommit_meaning : Meaning s (execSecSkCommit s) := .live fun h => h.secSkCommit

theorem Sound.secGood (h : Sound s₀ s) : Sound s₀ s.secGood := h.setFld

theorem Sound.loadIdentity {k} (h : Sound s₀ s) : Sound s₀ (s.loadIdentity k) := .foldl (fun _ _ h => h.poke) h.withSec.setBit

theorem Sound.endProvision {a} (h : Sound s₀ s) : Sound s₀ (s.endProvision a) := h.withFree.write.loadIdentity.secGood

theorem Sound.endUnwrap {a} (h : Sound s₀ s) : Sound s₀ (s.endUnwrap a) := by
  unfold State.endUnwrap
  extract_lets b
  split
  · exact h.secFail
  · split
    · exact h.secFail
    · exact h.loadIdentity.secGood

theorem Sound.endAttest {a k} (h : Sound s₀ s) : Sound s₀ (s.endAttest a k) := h.draw.write.count.secGood

theorem Sound.endSkLoad {a k} (h : Sound s₀ s) : Sound s₀ (s.endSkLoad a k) := by
  unfold State.endSkLoad
  dsimp only
  split
  · exact h.secFail
  · exact .ite h.withSec.setBit.secGood h.secFail

theorem Sound.secEnd {trngOk} (h : Sound s₀ s) : Sound s₀ (s.secEnd trngOk) := by
  unfold State.secEnd
  split
  · exact h
  · exact
      have h := h.withSec.setBit.setBit;
      by
        dsimp only
        split
        · exact .ite h.endProvision h.secFail
        · exact h.endUnwrap
        · exact .ite h.endAttest h.secFail
        · exact h.endSkLoad
        · exact h.secFail

theorem execSecOperationEnd_meaning {trngOk} : Meaning s (execSecOperationEnd trngOk s) := .live fun h => h.secEnd

/-! ### Pins and JTAG -/

theorem Sound.latchStraps {straps} (h : Sound s₀ s) : Sound s₀ (s.latchStraps straps) :=
  (Sound.foldl (fun _ _ h => h.poke) h.poke.poke.poke).withDev rfl

theorem Sound.hubArrayFault {f} (h : Sound s₀ s) : Sound s₀ (s.hubArrayFault f) := by
  unfold State.hubArrayFault
  split
  · exact h.withdrawPipe
  · exact h.withdrawVision
  · exact h.withBrg

theorem Sound.release {straps faults} (h : Sound s₀ s) : Sound s₀ (s.release straps faults) :=
  have h := Sound.foldl (fun _ _ h => h.hubArrayFault) h.draw.withSec.latchStraps.newNonce
  .ite h h.setBit.setBit.setBit.bootEvent

theorem execJtagInstruction_meaning {instr} : Meaning s (execJtagInstruction instr s) :=
  .awake fun h => by
    dsimp only
    split
    · exact h.withDbg
    · exact h.withDbg
    · exact h.draw.withDbg
    · exact h.draw.withDbg
    · exact .ite h.draw.withDbg h.withDbg

/-! ### Reads of registers -/

theorem Sound.advanceEnergy {ctx} (h : Sound s₀ s) : Sound s₀ (s.advanceEnergy ctx) := .ite h.draw.account h

theorem Sound.advanceStalls {r ix} (h : Sound s₀ s) : Sound s₀ (s.advanceStalls r ix) :=
  .ite (.ite h.draw.countSat h.draw.count) (.ite h.advanceEnergy h)

theorem Sound.readReg {r ix} (h : Sound s₀ s) : Sound s₀ (s.readReg r ix).1 :=
  have h := h.advanceStalls
  have h1 := Sound.ite h.draw h
  .iteFst h1.withTim (.iteFst (.iteFst h.scanShift h) (.iteFst h1.poke h1))

theorem Sound.cfgRead {a} (h : Sound s₀ s) : Sound s₀ (s.cfgRead a).1 := by
  refine .iteFst h (.iteFst h (.iteFst ?_ ?_))
  · split
    · dsimp only
      exact h.readerEnds
    · exact h
  · split
    · exact .iteFst h.readReg h
    · exact h

/-! ### Writes of registers -/

theorem Sound.mergeWrite {r ix value} (h : Sound s₀ s) : Sound s₀ (s.mergeWrite r ix value).1 := h.poke

theorem Sound.took {f} (h : Sound s₀ s) (hf : Meaning s (f s)) : Sound s₀ (s.took f).1 := by
  unfold State.took
  split
  · next e => exact hf.sound e h
  · exact h

theorem Sound.hookLocked {k ix v} (h : Sound s₀ s) : Sound s₀ (hookLocked k s ix v).1 := h.took execSynLockedWrite_meaning

theorem Sound.hookTested {k ix v} (h : Sound s₀ s) : Sound s₀ (hookTested k s ix v).1 := h.took execSynTestedWrite_meaning

theorem Sound.hookSynCtrl {ix v} (h : Sound s₀ s) : Sound s₀ (hookSynCtrl s ix v).1 :=
  h.took (by split; exacts [execSynEnable_meaning, execSynDisable_meaning])

theorem Sound.hookAdpBuf {ix v} (h : Sound s₀ s) : Sound s₀ (hookAdpBuf s ix v).1 := h.poke.applyUnpins

theorem Sound.hookAdpCtrl {ix v} (h : Sound s₀ s) : Sound s₀ (hookAdpCtrl s ix v).1 :=
  have h := h.poke.adpSetMode
  .ite h.adpRearm h

theorem Sound.hookLco {r ix v} (h : Sound s₀ s) : Sound s₀ (hookLco r s ix v).1 := by
  unfold Machine.hookLco
  split
  · exact .iteFst h h.mergeWrite
  · exact h.mergeWrite

theorem Sound.hookDspCtrl {ix v} (h : Sound s₀ s) : Sound s₀ (hookDspCtrl s ix v).1 :=
  have h := h.mergeWrite
  .iteFst
    h.pipeStart
    (.iteFst
       (have h := h.setBit;
        .ite (.commitNow (by split; exacts [h.applyCommit, h])) (by split; exacts [h.applyCommit, h]))
       h)

theorem Sound.hookDspMap {ix v} (h : Sound s₀ s) : Sound s₀ (hookDspMap s ix v).1 := h.mergeWrite.envFlags.lateTakeover

theorem Sound.hookEdpSrc {ix v} (h : Sound s₀ s) : Sound s₀ (hookEdpSrc s ix v).1 := h.mergeWrite.envFlags

theorem Sound.hookCommit {ix v} (h : Sound s₀ s) : Sound s₀ (hookCommit s ix v).1 :=
  .iteFst (h.took execCommitArm_meaning) h.mergeWrite

theorem Sound.hookEdpCtrl {ix v} (h : Sound s₀ s) : Sound s₀ (hookEdpCtrl s ix v).1 :=
  .iteFst (h.took execTrain_meaning) h.mergeWrite

theorem Sound.hookAuxCmd {ix v} (h : Sound s₀ s) : Sound s₀ (hookAuxCmd s ix v).1 := .iteFst h.auxStart h.mergeWrite

theorem Sound.hookCapCtrl {ix v} (h : Sound s₀ s) : Sound s₀ (hookCapCtrl s ix v).1 :=
  .iteFst (h.took execCaptureDisable_meaning) h.mergeWrite

theorem Sound.hookFsCtrl {ix v} (h : Sound s₀ s) : Sound s₀ (hookFsCtrl s ix v).1 :=
  .iteFst (h.took execFsyncEnable_meaning) h.mergeWrite.setFs

theorem Sound.hookFsValue {r ix v} (h : Sound s₀ s) : Sound s₀ (hookFsValue r s ix v).1 := .iteFst h h.mergeWrite

theorem Sound.hookI2c {ix v} (h : Sound s₀ s) : Sound s₀ (hookI2c s ix v).1 :=
  .iteFst (h.took execI2cCommand_meaning) h.mergeWrite

theorem Sound.hookSem {ix v} (h : Sound s₀ s) : Sound s₀ (hookSem s ix v).1 :=
  have h := Sound.ite (h.took execSemForceRel_meaning) h
  .iteFst (h.took execSemClrAbandoned_meaning) h

theorem Sound.hookPark {ix v} (h : Sound s₀ s) : Sound s₀ (hookPark s ix v).1 :=
  h.took (by split; exacts [execPark_meaning, execUnpark_meaning])

theorem Sound.hookQzi {ix v} (h : Sound s₀ s) : Sound s₀ (hookQzi s ix v).1 :=
  .iteFst h (have h := Sound.ite (h.took execQziVerify_meaning) h; .iteFst (h.took execQziSeal_meaning) h)

theorem Sound.hookBoot {ix v} (h : Sound s₀ s) : Sound s₀ (hookBoot s ix v).1 := by
  refine .foldl (fun s i h => ?_) h
  refine .ite (h.took ?_) h
  split
  · exact execDiePowerUp_meaning
  · split
    · exact execLinkTraining_meaning
    · split
      · exact execDramTraining_meaning
      · split
        · exact execSelfTest_meaning
        · exact execFirmwareBroadcast_meaning

theorem Sound.hookReport {ix v} (h : Sound s₀ s) : Sound s₀ (hookReport s ix v).1 := h.mergeWrite.took execReportRingSet_meaning

theorem Sound.hookGcl {ix v} (h : Sound s₀ s) : Sound s₀ (hookGcl s ix v).1 :=
  have h := h.mergeWrite
  .iteFst h.withEth h

theorem Sound.hookErrRing {r ix v} (h : Sound s₀ s) : Sound s₀ (hookErrRing r s ix v).1 := h.mergeWrite.updateErrRing

theorem Sound.hookErrCtrl {ix v} (h : Sound s₀ s) : Sound s₀ (hookErrCtrl s ix v).1 := h.mergeWrite.updateErrRing.autoReset

theorem Sound.hookPrst {ix v} (h : Sound s₀ s) : Sound s₀ (hookPrst s ix v).1 :=
  .foldl (fun _ _ h => .ite (h.took execPartitionReset_meaning) h) h

theorem Sound.hookStop {ix v} (h : Sound s₀ s) : Sound s₀ (hookStop s ix v).1 :=
  .iteFst (.iteFst h.stopWrite h) (.iteFst h.stopRelease h)

theorem Sound.hookBp {ix v} (h : Sound s₀ s) : Sound s₀ (hookBp s ix v).1 := .iteFst h.bpArm h.mergeWrite

theorem Sound.hookRun {ix v} (h : Sound s₀ s) : Sound s₀ (hookRun s ix v).1 := .ite h.debugRun (.ite h.debugRun h)

theorem Sound.hookScanSel {ix v} (h : Sound s₀ s) : Sound s₀ (hookScanSel s ix v).1 := h.mergeWrite.withDbg

theorem Sound.hookPwrCtrl {ix v} (h : Sound s₀ s) : Sound s₀ (hookPwrCtrl s ix v).1 := h.mergeWrite

/-- A write effect of a register keeps sound states sound. -/
def WriteHook.Keeps (f : WriteHook) : Prop := ∀ ⦃s₀ s ix v⦄, Sound s₀ s → Sound s₀ (f s ix v).1

theorem writeHooks_keep : ∀ e ∈ writeHooks, WriteHook.Keeps e.2 := by
  simp only [writeHooks, List.forall_mem_append, List.forall_mem_cons]
  refine ⟨⟨⟨?syn, ?ports⟩, ?sched⟩, ?time⟩
  case syn =>
    exact ⟨fun _ _ _ _ h => h.hookSynCtrl, fun _ _ _ _ h => h.hookLocked, fun _ _ _ _ h => h.hookLocked,
      fun _ _ _ _ h => h.hookLocked, fun _ _ _ _ h => h.hookLocked, fun _ _ _ _ h => h.hookLocked,
      fun _ _ _ _ h => h.hookLocked, fun _ _ _ _ h => h.hookLocked, fun _ _ _ _ h => h.hookLocked,
      fun _ _ _ _ h => h.hookLocked, fun _ _ _ _ h => h.hookLocked, fun _ _ _ _ h => h.hookLocked,
      fun _ _ _ _ h => h.hookLocked, fun _ _ _ _ h => h.hookLocked, fun _ _ _ _ h => h.hookTested,
      fun _ _ _ _ h => h.hookTested, fun _ _ _ _ h => h.hookTested, fun _ _ _ _ h => h.took execBankPublish_meaning,
      fun _ _ _ _ h => h.hookAdpCtrl, fun _ _ _ _ h => h.hookAdpBuf, fun _ _ _ _ h => h.hookLco,
      fun _ _ _ _ h => h.hookLco, fun _ _ _ _ h => h.hookLco, fun _ _ _ _ h => h.hookLco, fun _ _ _ _ h => h.hookLco,
      nofun⟩
  case ports =>
    exact ⟨fun _ _ _ _ h => h.withVis, fun _ _ _ _ h => h.submitChain, fun _ _ _ _ h => h.hookDspCtrl,
      fun _ _ _ _ h => h.hookDspMap, fun _ _ _ _ h => h.hookCommit, fun _ _ _ _ h => h.took execDspDeclare_meaning,
      fun _ _ _ _ h => h.hookEdpCtrl, fun _ _ _ _ h => h.hookEdpSrc, fun _ _ _ _ h => h.hookAuxCmd,
      fun _ _ _ _ h => h.hookCapCtrl, fun _ _ _ _ h => h.took execCaptureRelease_meaning,
      fun _ _ _ _ h => h.took execAudioRdWrite_meaning, fun _ _ _ _ h => h.hookFsCtrl, fun _ _ _ _ h => h.hookFsValue,
      fun _ _ _ _ h => h.hookFsValue, fun _ _ _ _ h => h.hookFsValue, fun _ _ _ _ h => h.hookFsValue,
      fun _ _ _ _ h => h.hookI2c, nofun⟩
  case sched =>
    exact ⟨fun _ _ _ _ h => h.queueControl, fun _ _ _ _ h => h.took execTokenLoopCancel_meaning,
      fun _ _ _ _ h => .iteFst (h.took execCtxRestart_meaning) h, fun _ _ _ _ h => h.doorbell, fun _ _ _ _ h => h.hookSem,
      fun _ _ _ _ h => h.hookPark, fun _ _ _ _ h => h.hookQzi, fun _ _ _ _ h => h.hookBoot, fun _ _ _ _ h => h.hookReport,
      fun _ _ _ _ h => h.took execRamblerReq_meaning, fun _ _ _ _ h => h.hookGcl, fun _ _ _ _ h => h.mergeWrite, nofun⟩
  case time =>
    exact ⟨fun _ _ _ _ h => h.hostStep, fun _ _ _ _ h => h.withTim, fun _ _ _ _ h => h.timSetHi,
      fun _ _ _ _ h => h.lchWrite, fun _ _ _ _ h => h.hookErrCtrl, fun _ _ _ _ h => h.hookErrRing,
      fun _ _ _ _ h => h.hookErrRing, fun _ _ _ _ h => h.hookErrRing, fun _ _ _ _ h => h.hookPrst,
      fun _ _ _ _ h => h.devReset, fun _ _ _ _ h => h.withDbg, fun _ _ _ _ h => h.unlockSubmit,
      fun _ _ _ _ h => .ite h.debugLock h, fun _ _ _ _ h => h.hookStop, fun _ _ _ _ h => h.hookBp,
      fun _ _ _ _ h => h.hookRun, fun _ _ _ _ h => h.hookScanSel, fun _ _ _ _ h => h.pmcCtrl,
      fun _ _ _ _ h => h.traceEnable, fun _ _ _ _ h => h.trace, fun _ _ _ _ h => h.secCtrl,
      fun _ _ _ _ h => h.hookPwrCtrl, fun _ _ _ _ h => h.took execPstateTarget_meaning, nofun⟩

theorem forReg_mem {α : Type} {xs : List (Reg × α)} {r : Reg} {f : α} (h : forReg xs r = some f) : ∃ e ∈ xs, e.2 = f := by
  obtain ⟨e, he, hf⟩ := Option.map_eq_some_iff.1 h
  exact ⟨e, List.mem_of_find?_eq_some he, hf⟩

theorem Sound.writeReg {r ix v} (h : Sound s₀ s) : Sound s₀ (s.writeReg r ix v).1 := by
  unfold State.writeReg
  split
  · next f hf =>
    obtain ⟨e, he, rfl⟩ := forReg_mem hf
    exact writeHooks_keep e he h
  · exact .iteFst h h.mergeWrite

theorem Sound.hostStore {a bs} (h : Sound s₀ s) : Sound s₀ (s.hostStore a bs) :=
  have h := h.write
  by
    unfold State.hostStore
    dsimp only
    split
    · exact .ite h.withBrg h
    · exact h

theorem Sound.cfgWrite {a v} (h : Sound s₀ s) : Sound s₀ (s.cfgWrite a v).1 := by
  refine .iteFst h (.iteFst h (.iteFst h (.iteFst ?_ ?_)))
  · split
    · dsimp only
      exact h.readerEnds
    · exact h.hostStore
  · split
    · exact .iteFst h.writeReg h
    · exact h

theorem execRegisterWrite_meaning {addr value} : Meaning s (execRegisterWrite addr value s) := .mayReset fun h => h.cfgWrite

/-! ### Ethernet -/

theorem Sound.meterTakes {p m bytes} (h : Sound s₀ s) : Sound s₀ (s.meterTakes p m bytes).1 := h.withEth

theorem Sound.police {p f} (h : Sound s₀ s) : Sound s₀ (s.police p f).1 := by
  unfold State.police
  split
  · exact h
  · extract_lets act sdu big
    split
    next e =>
      have h := (Sound.iteFst h (.iteFst h.meterTakes h)).of_fst e
      split
      · exact h
      · dsimp only
        exact h.countTop.countSat

theorem Sound.putRecovery {x} (h : Sound s₀ s) : Sound s₀ (s.putRecovery x) := h.withEth

theorem Sound.recover {r seq} (h : Sound s₀ s) : Sound s₀ (s.recover r seq).1 := by
  unfold State.recover
  dsimp only
  split
  · exact h.putRecovery
  · exact .iteFst (.iteFst h h.putRecovery) (.iteFst h.putRecovery.countTop h)

theorem Sound.receive {f} (h : Sound s₀ s) : Sound s₀ (s.receive f).1 :=
  .iteFst h
    (have h := Sound.ite h.countSat h;
     have h := Sound.ite h.countSat h;
     .iteFst h
       (have h := h.count;
        .iteFst h
          (by
             split
             · next _ e => exact h.police.of_fst e
             · next _ e =>
               split
               · exact (h.police.of_fst e).recover
               · exact h.police.of_fst e)))

theorem Sound.transmit {p f} (h : Sound s₀ s) : Sound s₀ (s.transmit p f) := h.withEth.count

theorem Sound.sendOn {f p} (h : Sound s₀ s) : Sound s₀ (s.sendOn f p) :=
  .ite h (.ite h.countSat.eventOpen (have h1 := h.withEth; .ite (.ite h.countSat h1) (.ite h.transmit h1)))

theorem Sound.send {f} (h : Sound s₀ s) : Sound s₀ (s.send f) := .foldl (fun _ _ h => h.sendOn) h

theorem Sound.drainPort {p q fuel} (h : Sound s₀ s) : Sound s₀ (s.drainPort p q fuel) := by
  induction fuel generalizing s with
  | zero => exact h
  | succ fuel ih =>
    rw [State.drainPort]
    split
    · exact h
    · exact .ite (ih h.withEth.transmit) h

theorem Sound.openGates {p} (h : Sound s₀ s) : Sound s₀ (s.openGates p) := .foldl (fun _ _ h => h.drainPort) h

theorem execGateControlInterval_meaning {port} : Meaning s (execGateControlInterval port s) :=
  .awake fun h => .ite h h.withEth.openGates

theorem execFrerResetTimeout_meaning {stream} : Meaning s (execFrerResetTimeout stream s) := .awake fun h => h.withEth

theorem Sound.sendReply {kind port sender encap payload} (h : Sound s₀ s) :
    Sound s₀ (s.sendReply kind port sender encap payload) :=
  h.send

theorem Sound.arrives {p} (h : Sound s₀ s) : Sound s₀ (s.arrives p) := .ite h.count h

theorem execArpRequest_meaning {port sender senderIp targetIp} : Meaning s (execArpRequest port sender senderIp targetIp s) :=
  .awake fun h =>
    have h := h.arrives
    .ite h.sendReply h

theorem execNeighborSolicitation_meaning {port sender senderIp targetIp} :
    Meaning s (execNeighborSolicitation port sender senderIp targetIp s) :=
  .awake fun h =>
    have h := h.arrives
    .ite h.sendReply h

/-! ### The SCT responder -/

theorem Sound.authFailed (h : Sound s₀ s) : Sound s₀ s.authFailed := h.countSat.alert

theorem Sound.deviceTag {stream esn body key} (h : Sound s₀ s) : Sound s₀ (s.deviceTag stream esn body key).1 :=
  .iteFst h (by split; exacts [h, h.draw])

theorem Sound.buildFrame {m dst key} (h : Sound s₀ s) : Sound s₀ (s.buildFrame m dst key).1 := h.deviceTag

theorem Sound.post {f} (h : Sound s₀ s) : Sound s₀ (s.post f) := .ite h.withEth.send h.send

theorem Sound.resync {from_} (h : Sound s₀ s) : Sound s₀ (s.resync from_) := by
  unfold State.resync
  extract_lets _ m
  split
  · split
    next e => exact (h.buildFrame.of_fst e).withSct.post
  · exact h

theorem Sound.readItems {p n r} (h : Sound s₀ s) : Sound s₀ (State.readItems p n s r).1 := by
  induction n generalizing s p r with
  | zero => exact h
  | succ n ih => exact ih h.cfgRead

theorem Sound.writeItems {p n r} (h : Sound s₀ s) : Sound s₀ (State.writeItems p n s r).1 := by
  induction n generalizing s p r with
  | zero => exact h
  | succ n ih => exact ih h.cfgWrite

theorem Sound.doorbellItems {p n r} (h : Sound s₀ s) : Sound s₀ (State.doorbellItems p n s r).1 := by
  induction n generalizing s p r with
  | zero => exact h
  | succ n ih => exact ih h.cfgWrite

theorem Sound.memWrite {a bs} (h : Sound s₀ s) : Sound s₀ (s.memWrite a bs).1 := .foldl (fun _ _ h => h.readerEnds) h.hostStore

theorem Sound.memRead {a n} (h : Sound s₀ s) : Sound s₀ (s.memRead a n).1 := .foldl (fun _ _ h => h.readerEnds) h

theorem Sound.memWriteItem {p} (h : Sound s₀ s) : Sound s₀ (s.memWriteItem p).1 := .iteFst h.memWrite h

theorem Sound.memReadItem {p} (h : Sound s₀ s) : Sound s₀ (s.memReadItem p).1 := by
  unfold State.memReadItem
  dsimp only
  split
  · exact h.memRead
  · exact h
  · exact h

theorem Sound.items {op p} (h : Sound s₀ s) : Sound s₀ (s.items op p).1 := by
  unfold State.items
  dsimp only
  split
  · exact h.readItems
  · exact h.writeItems
  · exact h.memWriteItem
  · exact h.memReadItem
  · exact h.doorbellItems

theorem Sound.advance (h : Sound s₀ s) : Sound s₀ s.advance :=
  have h := h.setFld
  .ite h.poke64 h

theorem Sound.applyFrame {op f esn} (h : Sound s₀ s) : Sound s₀ (s.applyFrame op f esn) := by
  unfold State.applyFrame
  extract_lets
  split
  next e =>
    have h := h.advance.count.withSct.items.of_fst e
    extract_lets
    split
    next e => exact (h.buildFrame.of_fst e).withSct.post

theorem Sound.applyHeld {n} (h : Sound s₀ s) : Sound s₀ (State.applyHeld n s) := by
  induction n generalizing s with
  | zero => exact h
  | succ n ih =>
    rw [State.applyHeld]
    split
    · exact h
    · exact .ite h (.ite (ih h.withSct.applyFrame) h.withSct.authFailed)

theorem Sound.sequenced {op f} (h : Sound s₀ s) : Sound s₀ (s.sequenced op f) :=
  .ite
    h.authFailed
    (.ite
       h.applyFrame.applyHeld
       (.ite
          h.countSat.resync
          (.ite
             (.ite h h.withSct)
             (.ite
                h.countSat
                (.ite (have h := h.countSat; by dsimp only; split; exacts [h.post, h]) (.ite h.countSat h.countSat.resync))))))

theorem Sound.putStream {x} (h : Sound s₀ s) : Sound s₀ (s.putStream x) := h.withSct

theorem Sound.streamSend {x kind op pcpBit records payload} (h : Sound s₀ s) :
    Sound s₀ (s.streamSend x kind op pcpBit records payload) := by
  unfold State.streamSend
  split
  · exact h
  · extract_lets
    split
    next e => exact (h.buildFrame.of_fst e).putStream.post

theorem Sound.flushEvents {n} (h : Sound s₀ s) : Sound s₀ (State.flushEvents n s) := by
  induction n generalizing s with
  | zero => exact h
  | succ n ih => exact .ite h (ih h.withSct.streamSend)

theorem execEventFlush_meaning : Meaning s (execEventFlush s) := .awake fun h => h.flushEvents

theorem Sound.ringRecord {a} (h : Sound s₀ s) : Sound s₀ (s.ringRecord a).1 := .iteFst h.draw h

theorem Sound.ringRecords {as bs} (h : Sound s₀ s) : Sound s₀ (State.ringRecords as s bs).1 := by
  induction as generalizing s bs with
  | nil => exact h
  | cons a as ih => exact ih h.ringRecord

/-- A round of a recursion on numbers, with the rounds after it held apart. -/
theorem brecOn_succ {α : Type} (f : (n : Nat) → Nat.below (motive := fun _ => α) n → α) (n : Nat) :
    ∃ b, b.1 = Nat.brecOn n f ∧ Nat.brecOn (n + 1) f = f (n + 1) b :=
  ⟨(Nat.brecOn.go (n + 1) f).2, rfl, rfl⟩

/-- Opened round by round, as the kernel would else evaluate the ring's records to check the function's equation. -/
theorem Sound.flushResults {c n} (h : Sound s₀ s) : Sound s₀ (State.flushResults c n s) := by
  conv => arg 2; fun; fun; fun; delta State.flushResults
  induction n generalizing s with
  | zero => exact h
  | succ n ih =>
    obtain ⟨b, hb, e⟩ := brecOn_succ (State.flushResults._f c) n
    rw [e]
    rw [← hb] at ih
    conv => arg 2; fun; fun; fun; fun; delta State.flushResults._f
    refine .ite h.withSct (.ite h ?_)
    extract_lets
    split
    next e => exact ih (h.ringRecords.of_fst e).withSct.streamSend

theorem execResultFlush_meaning {ctx} : Meaning s (execResultFlush ctx s) := .awake fun h => h.flushResults

theorem Sound.resendAll {os done} (h : Sound s₀ s) : Sound s₀ (State.resendAll os s done).1 := by
  induction os generalizing s done with
  | nil => exact h
  | cons o os ih => exact ih h.deviceTag.post

theorem Sound.retransmit {x} (h : Sound s₀ s) : Sound s₀ (s.retransmit x) := .ite h h.resendAll.putStream

theorem execStreamRetransmit_meaning {stream} : Meaning s (execStreamRetransmit stream s) := .awake fun h => h.retransmit

theorem Sound.acked {f} (h : Sound s₀ s) : Sound s₀ (s.acked f) :=
  .ite h.authFailed (.ite (have h := h.putStream; .ite h.count.endTimedOut h) h)

theorem Sound.hostFrame {op f} (h : Sound s₀ s) : Sound s₀ (s.hostFrame op f) := by
  unfold State.hostFrame
  split
  · next e => exact h.receive.of_fst e
  · next e =>
    have h := h.receive.of_fst e
    exact .ite (.ite h.countSat (.ite h.acked h.sequenced)) h

theorem execSctRegRead_meaning {f} : Meaning s (execSctRegRead f s) := .mayReset fun h => h.hostFrame

theorem execSctRegWrite_meaning {f} : Meaning s (execSctRegWrite f s) := .mayReset fun h => h.hostFrame

theorem execSctMemWrite_meaning {f} : Meaning s (execSctMemWrite f s) := .mayReset fun h => h.hostFrame

theorem execSctMemRead_meaning {f} : Meaning s (execSctMemRead f s) := .mayReset fun h => h.hostFrame

theorem execSctDoorbell_meaning {f} : Meaning s (execSctDoorbell f s) := .mayReset fun h => h.hostFrame

theorem execSctAck_meaning {f} : Meaning s (execSctAck f s) := .mayReset fun h => h.hostFrame

theorem execEthLinkChange_meaning {port up speed halfDuplex} : Meaning s (execEthLinkChange port up speed halfDuplex s) :=
  .awake fun h => .ite h (.ite h.poke (.ite h.poke (.foldl (fun _ _ h => h.retransmit) h.draw.poke)))

/-! ### A tick -/

theorem Sound.passTime (h : Sound s₀ s) : Sound s₀ s.passTime := h.congr rfl rfl rfl

theorem Sound.tick (h : Sound s₀ s) : Sound s₀ s.tick := .ite h (.ite h.passTime h.passTime.openGates.openGates)

/-! ### What every command keeps -/

/-- What a command keeps of a state: the canonical forms and the assembly, the queue, and that no device reset is left half
asked. -/
structure Keeps (s t : State) : Prop where
  sound : Sound s t
  pending : t.pending = s.pending
  resetAsked : s.dev.resetAsked = none → t.dev.resetAsked = none

theorem Keeps.refl (s : State) : Keeps s s := ⟨.refl s, rfl, id⟩

theorem Keeps.trans {u : State} (h : Keeps s t) (k : Keeps t u) : Keeps s u :=
  ⟨h.sound.trans k.sound, k.pending.trans h.pending, fun hs => k.resetAsked (h.resetAsked hs)⟩

theorem Keeps.ite {u : State} {c : Prop} {_ : Decidable c} (ht : Keeps s t) (hu : Keeps s u) :
    Keeps s (if c then t else u) := by
  split <;> assumption

theorem Keeps.withDev {x : DevState} (ha : x.assembly = s.dev.assembly) (hr : x.resetAsked = s.dev.resetAsked) :
    Keeps s (s.withDev x) :=
  ⟨(Sound.refl s).withDev ha, rfl, hr.trans⟩

theorem Keeps.kept (ht : Sound s t) : Keeps s (t.kept s) := ⟨(Sound.refl s).kept ht, rfl, id⟩

theorem Keeps.deviceReset {cause} : Keeps s (s.deviceReset cause) := ⟨(Sound.refl s).deviceReset, rfl, fun _ => rfl⟩

theorem settle_pending (t : State) (q : List Instr) : (t.settle q).pending = q := by
  unfold State.settle
  split <;> rfl

/-- The end of a command leaves no device reset asked: one that was asked has begun. -/
theorem settle_resetAsked (t : State) (q : List Instr) : (t.settle q).dev.resetAsked = none := by
  unfold State.settle
  split
  · rfl
  · assumption

theorem Keeps.settle (ht : Sound s t) : Keeps s (t.settle s.pending) :=
  ⟨ht.settle, settle_pending _ _, fun _ => settle_resetAsked _ _⟩

theorem Meaning.keeps {o} (hm : Meaning s o) : ∃ t, o = .next t ∧ Keeps s t := by
  cases hm with
  | live hf => exact ⟨_, rfl, .ite (.refl s) (.kept (hf (.refl s)))⟩
  | awake hf => exact ⟨_, rfl, .ite (.refl s) (.kept (hf (.refl s)))⟩
  | mayReset hf => exact ⟨_, rfl, .ite (.refl s) (.settle (hf (.refl s)))⟩

theorem Meaning.next_of_inReset {o} (hm : Meaning s o) (hr : s.dev.inReset = true) : o = .next s := by
  cases hm <;> simp [State.live, State.awake, State.mayReset, hr]

/-! ### Every command -/

/-- The commands of the pins: RESET_N and REFCLK go and return. -/
inductive Pin : Instr → Prop where
  | resetRelease (straps faults) : Pin (.resetRelease straps faults)
  | resetNAssert : Pin .resetNAssert
  | refclkLoss : Pin .refclkLoss
  | refclkReturn (straps faults) : Pin (.refclkReturn straps faults)

/-- Every command but those of the pins, in the order of the instruction's constructors. -/
theorem exec_meaning (c : Instr) (hc : ¬Pin c) (s : State) : Meaning s (exec c s) := by
  cases c
  case resetRelease straps faults => exact absurd (.resetRelease straps faults) hc
  case resetNAssert => exact absurd .resetNAssert hc
  case refclkLoss => exact absurd .refclkLoss hc
  case refclkReturn straps faults => exact absurd (.refclkReturn straps faults) hc
  exacts [
    execRegisterWrite_meaning, execSliceRelease_meaning, execKeyframeDirectEnd_meaning, execSoaArrival_meaning,
    execTaggedSliceWrite_meaning, execSliceDoneWord_meaning, execFallbackPoint_meaning, execWarpEnd_meaning,
    execWarpDeadline_meaning, execSliceFetch_meaning, execSliceWritebackEnd_meaning, execFrameActiveEnd_meaning,
    execVblankStart_meaning, execLineMatch_meaning, execSynEnable_meaning, execSynEnableCheckEnd_meaning,
    execSynDisable_meaning, execSynLockedWrite_meaning, execSynTestedWrite_meaning, execBankPublish_meaning,
    execBankCopyEnd_meaning, execAdaptJobLaunch_meaning, execAdaptReport_meaning, execAdaptJobTimeout_meaning,
    execAdaptRearm_meaning, execAdaptModeWrite_meaning, execEngineLdw_meaning, execEngineMma_meaning,
    execEngineConv_meaning, execEngineDwc_meaning, execEngineAcc_meaning, execEngineGap_meaning, execEngineRq_meaning,
    execEngineSig_meaning, execEngineWaite_meaning, execSimtFpArith_meaning, execSimtInteger_meaning,
    execSimtConvert_meaning, execSimtHamperExchange_meaning, execSimtLoadStore_meaning, execSimtAtomic_meaning,
    execSimtBranch_meaning, execSimtBarrier_meaning, execSimtFence_meaning, execEventWait_meaning, execEventSignal_meaning,
    execFlagWait_meaning, execSimtSample_meaning, execEbreak_meaning, execDmaSubmit_meaning,
    execDmaDescriptorComplete_meaning, execBoxCallSubmit_meaning, execBoxDecode_meaning, execBoxNms_meaning,
    execBoxCallEnd_meaning, execSemAcquire_meaning, execSemRelease_meaning, execSemAcquireTimeout_meaning,
    execSemForceRel_meaning, execSemClrAbandoned_meaning, execTokenRecordWrite_meaning, execTokenIterationEnd_meaning,
    execTokenLoopCancel_meaning, execSlotCounterRead_meaning, execTraceMarker_meaning, execLayerStepEnd_meaning,
    execSlotSwitch_meaning, execTaskDispatch_meaning, execGroupDispatch_meaning, execTaskComplete_meaning,
    execTaskTimeout_meaning, execDeadlineAbort_meaning, execQuantumExpiry_meaning, execWaitYield_meaning,
    execEvictionEnd_meaning, execRestoreStart_meaning, execRestoreEnd_meaning, execDependencyCancel_meaning,
    execTransferRelease_meaning, execRegulatorRefill_meaning, execQueueEnable_meaning, execQueueDisable_meaning,
    execDoorbell_meaning, execCqConsumerDoorbell_meaning, execEntryTask_meaning, execCoolBoxLoad_meaning,
    execCoolBoxLoadEnd_meaning, execCoolBoxPin_meaning, execCoolBoxUnpin_meaning, execCoolBoxDrop_meaning,
    execEntryMarker_meaning, execModelReloadEnd_meaning, execPark_meaning, execParkEnd_meaning, execUnpark_meaning,
    execCtxRestart_meaning, execSketchPassSubmit_meaning, execPassResume_meaning, execSceneNop_meaning,
    execSceneEnd_meaning, execSceneSetClear_meaning, execSceneSetLayer_meaning, execSceneSetState_meaning,
    execSceneBindProg_meaning, execSceneBindTex_meaning, execSceneBindBuf_meaning, execSceneDraw_meaning,
    execSceneDrawSurface_meaning, execQuadRetire_meaning, execPassEnd_meaning, execVisChainSubmit_meaning,
    execPyramidStage_meaning, execFlowStage_meaning, execStereoStage_meaning, execVisStageEnd_meaning,
    execVisStageStop_meaning, execVisStageResume_meaning, execVisEngineFail_meaning, execVisChainTimeout_meaning,
    execCommitArm_meaning, execCommitLine_meaning, execDspDeclare_meaning, execLineUnderrun_meaning, execPipeFail_meaning,
    execTakeoverSwitch_meaning, execPclkRelock_meaning, execLtolReport_meaning, execTrain_meaning,
    execHpdWaitTimeout_meaning, execTrainEnd_meaning, execIrqHpd_meaning, execAuxDpcdRead_meaning, execAuxDpcdWrite_meaning,
    execAuxI2cRead_meaning, execAuxI2cSegmentWrite_meaning, execAuxReply_meaning, execAuxTimeout_meaning,
    execCsiFrameStart_meaning, execCsiLongPacket_meaning, execCsiFrameEnd_meaning, execCsiHeaderError_meaning,
    execLineBufferOverrun_meaning, execCaptureFrameTimeout_meaning, execCaptureRelease_meaning, execCaptureDisable_meaning,
    execTdmFrame_meaning, execTdmResync_meaning, execTdmFsLost_meaning, execAudioRdWrite_meaning, execFsyncEnable_meaning,
    execFsyncEdge_meaning, execI2cCommand_meaning, execI2cCommandEnd_meaning, execQziVerify_meaning,
    execQziVerifyEnd_meaning, execQziSeal_meaning, execDiePowerUp_meaning, execDiePowerUpEnd_meaning,
    execLinkTraining_meaning, execLinkTrainingEnd_meaning, execDramTraining_meaning, execDramTrainingEnd_meaning,
    execSelfTest_meaning, execSelfTestEnd_meaning, execFirmwareBroadcast_meaning, execFirmwareBroadcastEnd_meaning,
    execReportRingSet_meaning, execRamblerTestDue_meaning, execRamblerReq_meaning, execRamblerSlackCheck_meaning,
    execRamblerMoveEnd_meaning, execRamblerTestEnd_meaning, execRamblerWaitExpiry_meaning, execSctRegRead_meaning,
    execSctRegWrite_meaning, execSctMemWrite_meaning, execSctMemRead_meaning, execSctDoorbell_meaning, execSctAck_meaning,
    execStreamRetransmit_meaning, execEventFlush_meaning, execResultFlush_meaning, execEthLinkChange_meaning,
    execArpRequest_meaning, execNeighborSolicitation_meaning, execGptpSync_meaning, execPpsInEdge_meaning,
    execPpsLoss_meaning, execHoldoverTimeout_meaning, execTimAdj_meaning, execTimSet_meaning, execLaunchInstant_meaning,
    execCorrectedError_meaning, execDramUncorrectable_meaning, execOnchipUncorrectable_meaning, execCoolBoxError_meaning,
    execPatrolScrub_meaning, execFlitCrcError_meaning, execModuleRetrainEnd_meaning, execMeshLinkFail_meaning,
    execCoreFailInService_meaning, execClusterWithdraw_meaning, execErrorRingSet_meaning, execPartitionReset_meaning,
    execPartitionResetEnd_meaning, execFatalStateEntry_meaning, execFatalTimeout_meaning, execDeviceResetRequest_meaning,
    execUnlockSubmit_meaning, execUnlockEnd_meaning, execDebugLock_meaning, execBreakpointArm_meaning,
    execBreakpointHit_meaning, execDebugResume_meaning, execDebugStep_meaning, execGlobalStop_meaning,
    execGlobalStopRelease_meaning, execScanDataRead_meaning, execPmcSnap_meaning, execPmcSampleTick_meaning,
    execPmcCounterWrap_meaning, execPcSample_meaning, execTraceRingEnable_meaning, execSecProvision_meaning,
    execSecUnwrap_meaning, execSecAttest_meaning, execSecSkLoad_meaning, execSecSkCommit_meaning,
    execSecOperationEnd_meaning, execPstateTarget_meaning, execDvfsTransitionEnd_meaning, execPowerCheck_meaning,
    execCurrentFastLimit_meaning, execRailCurrentPoll_meaning, execThermalSample_meaning, execPowerGoodLoss_meaning,
    execDomainGate_meaning, execDomainWakeEnd_meaning, execSelfRefreshEntry_meaning, execSelfRefreshExit_meaning,
    execSyncReceiptTimeout_meaning, execHpdLoss_meaning, execJtagInstruction_meaning, execGateControlInterval_meaning,
    execFrerResetTimeout_meaning]

/-- What leaves the reset, if the pins let it. -/
theorem Keeps.release {straps faults} (h : Keeps s t) : Keeps s ((t.release straps faults).settle s.pending) :=
  .settle h.sound.release

theorem Pin.keeps {c : Instr} (hc : Pin c) (s : State) : ∃ t, exec c s = .next t ∧ Keeps s t := by
  cases hc with
  | resetRelease straps faults =>
    have h : Keeps s (s.withDev { s.dev with resetLow := false }) := .withDev rfl rfl
    exact ⟨_, rfl, .ite (.refl s) (.ite h h.release)⟩
  | resetNAssert =>
    have h : Keeps s (s.withDev { s.dev with resetLow := true }) := .withDev rfl rfl
    exact ⟨_, rfl, .ite h (h.trans .deviceReset)⟩
  | refclkLoss =>
    have h : Keeps s (if s.dev.inReset then s else s.deviceReset 1) := .ite (.refl s) .deviceReset
    exact ⟨_, rfl, h.trans (.withDev rfl rfl)⟩
  | refclkReturn straps faults =>
    have h : Keeps s (s.withDev { s.dev with refclkLost := false }) := .withDev rfl rfl
    exact ⟨_, rfl, .ite (.refl s) (.ite h h.release)⟩

/-- Every command answers a next state and keeps what a command keeps. -/
theorem exec_keeps (c : Instr) (s : State) : ∃ t, exec c s = .next t ∧ Keeps s t := by
  by_cases hc : Pin c
  · exact hc.keeps s
  · exact (exec_meaning c hc s).keeps

/-! ### A step -/

theorem drainPort_dev (p q fuel : Nat) (s : State) : (s.drainPort p q fuel).dev = s.dev := by
  induction fuel generalizing s with
  | zero => rfl
  | succ fuel ih =>
    rw [State.drainPort]
    split
    · rfl
    · split
      · exact ih _
      · rfl

theorem openGates_dev (p : Nat) (s : State) : (s.openGates p).dev = s.dev := by
  unfold State.openGates
  induction rangeFrom 0 8 generalizing s with
  | nil => rfl
  | cons q qs ih => exact (ih _).trans (drainPort_dev _ _ _ _)

theorem tick_dev (s : State) : s.tick.dev = s.dev := by
  unfold State.tick
  split
  · rfl
  · split
    · rfl
    · rw [openGates_dev, openGates_dev]
      rfl

/-- A step answers a next state and keeps the canonical forms, the assembly, and that no device reset is left half asked. -/
theorem step_keeps (s : State) :
    ∃ t, step s = .next t ∧ Sound s t ∧ (s.dev.resetAsked = none → t.dev.resetAsked = none) := by
  unfold step
  split
  · exact ⟨_, rfl, (Sound.refl s).tick, fun h => tick_dev s ▸ h⟩
  · next c rest _ =>
    obtain ⟨t, e, hk⟩ := exec_keeps c (s.withPending rest)
    exact ⟨t, e, (Sound.refl s).withPending.trans hk.sound, hk.resetAsked⟩

/-- The command of no pin, as the obligation writes it. -/
theorem not_pin {c : Instr} (hn : c ≠ .resetNAssert) (hl : c ≠ .refclkLoss)
    (hr : ∀ straps faults, c ≠ .resetRelease straps faults ∧ c ≠ .refclkReturn straps faults) : ¬Pin c := by
  rintro (⟨straps, faults⟩ | _ | _ | ⟨straps, faults⟩)
  · exact (hr straps faults).1 rfl
  · exact hn rfl
  · exact hl rfl
  · exact (hr straps faults).2 rfl

theorem Sound.canonical (h : Sound s t) (hc : s.canonical) : t.canonical := ⟨h.cfg hc.1, h.mem hc.2⟩

end Sys2Proof.Machine

open Sys2Proof Sys2Proof.Machine

/-- Settles O3: each command is known by what it means (`exec_meaning`), and what a meaning keeps is said once
(`Meaning.keeps`). -/
theorem everyStepKeepsCanonicalForm : Obligations.EveryStepKeepsCanonicalForm := by
  unfold Obligations.EveryStepKeepsCanonicalForm
  refine ⟨fun s => ?_, fun c s => ?_, fun s t e => ?_, fun c s t e => ?_, fun c s hr hn hl hp => ?_⟩
  · obtain ⟨t, e, -⟩ := step_keeps s
    exact ⟨t, e⟩
  · obtain ⟨t, e, -⟩ := exec_keeps c s
    exact ⟨t, e⟩
  · obtain ⟨u, eu, hsound, hasked⟩ := step_keeps s
    obtain rfl := Host.Outcome.next.inj (eu.symm.trans e)
    exact ⟨hsound.canonical, hasked, hsound.asm⟩
  · obtain ⟨u, eu, hk⟩ := exec_keeps c s
    obtain rfl := Host.Outcome.next.inj (eu.symm.trans e)
    exact hk.pending
  · exact (exec_meaning c (not_pin hn hl hp) s).next_of_inReset hr
end

section
/-! SUPPORT. Lists with keys, the outputs of SYN and the pipes of the display: a read after a write, and what a write leaves alone. -/

namespace Sys2Proof.Machine

/-! ### Lists with keys -/

section
variable {α κ : Type} {p q : α → Bool} {new x : α} {l : List α}

theorem find?_upsert_self (h : p new = true) (l : List α) : (upsert p new l).find? p = some new := by
  induction l with
  | nil => simp [upsert, h]
  | cons y l ih =>
    rw [upsert]
    split
    · simp [h]
    · next hy => simp [hy, ih]

/-- A search for what neither the new element is, nor any that it can replace, finds what it found before. -/
theorem find?_upsert_of_apart (hn : q new = false) (hp : ∀ x, p x = true → q x = false) (l : List α) :
    (upsert p new l).find? q = l.find? q := by
  induction l with
  | nil => simp [upsert, hn]
  | cons y l ih =>
    rw [upsert]
    split
    · next hy => simp [hn, hp y hy]
    · simp [List.find?_cons, ih]

theorem mem_of_mem_upsert (h : x ∈ upsert p new l) : x = new ∨ x ∈ l := by
  induction l with
  | nil => simpa [upsert] using h
  | cons y l ih =>
    rw [upsert] at h
    split at h
    · simp only [List.mem_cons] at h ⊢
      tauto
    · simp only [List.mem_cons] at h ⊢
      tauto

/-- Keys that differ go on to differ where an element takes the place of the one with its own key. -/
theorem nodup_map_upsert {key : α → κ} (hp : ∀ x, p x = true ↔ key x = key new) (h : (l.map key).Nodup) :
    ((upsert p new l).map key).Nodup := by
  induction l with
  | nil => simp [upsert]
  | cons y l ih =>
    obtain ⟨hy, hl⟩ := List.nodup_cons.1 h
    rw [upsert]
    split
    · next hpy => simpa [← (hp y).1 hpy] using ⟨by simpa using hy, hl⟩
    · next hpy =>
      refine List.nodup_cons.2 ⟨fun hmem => ?_, ih hl⟩
      obtain ⟨z, hz, hzy⟩ := List.mem_map.1 hmem
      obtain rfl | hz := mem_of_mem_upsert hz
      · exact hpy ((hp y).2 hzy.symm)
      · exact hy (hzy ▸ List.mem_map_of_mem hz)

/-- Where keys differ, a search for the key of a member finds it. -/
theorem find?_eq_of_nodup_map {key : α → κ} (hp : ∀ y, p y = true ↔ key y = key x) (h : (l.map key).Nodup) (hx : x ∈ l) :
    l.find? p = some x := by
  induction l with
  | nil => simp at hx
  | cons y l ih =>
    obtain ⟨hy, hl⟩ := List.nodup_cons.1 h
    obtain rfl | hx := List.mem_cons.1 hx
    · simp [(hp _).2 rfl]
    · have hne : ¬p y = true := fun e => hy ((hp y).1 e ▸ List.mem_map_of_mem hx)
      simp [hne, ih hl hx]

end

/-! ### Elements of vectors -/

theorem vecGet_vecSet_self {α : Type} {n i : Nat} (v : Vector α n) (x d : α) (h : i < n) : vecGet (vecSet v i x) i d = x := by
  simp [vecGet, vecSet, h]

theorem vecGet_vecSet_ne {α : Type} {n i j : Nat} (v : Vector α n) (x d : α) (h : j ≠ i) :
    vecGet (vecSet v i x) j d = vecGet v j d := by
  unfold vecGet vecSet
  split
  · split
    · exact Vector.getElem_set_ne _ _ (Ne.symm h)
    · rfl
  · rfl

/-! ### Outputs and pipes -/

@[simp] theorem State.out_setOut_self (s : State) {o : Nat} (x : SynOut) (h : o < 4) : (s.setOut o x).out o = x :=
  vecGet_vecSet_self _ _ _ h

theorem State.out_setOut_ne (s : State) {o i : Nat} (x : SynOut) (h : i ≠ o) : (s.setOut o x).out i = s.out i :=
  vecGet_vecSet_ne _ _ _ h

@[simp] theorem State.pipe_setPipe_self (s : State) {m : Nat} (x : DspPipe) (h : m < 5) : (s.setPipe m x).pipe m = x :=
  vecGet_vecSet_self _ _ _ h

theorem State.pipe_setPipe_ne (s : State) {m i : Nat} (x : DspPipe) (h : i ≠ m) : (s.setPipe m x).pipe i = s.pipe i :=
  vecGet_vecSet_ne _ _ _ h

theorem changesOnly_setOut (s : State) (o : Nat) (x : SynOut) : changesOnly [.syn] s (s.setOut o x) := by
  intro p hp
  cases p
  case syn => simp at hp
  all_goals rfl

theorem changesOnly_setPipe (s : State) (p : Nat) (x : DspPipe) : changesOnly [.dsp] s (s.setPipe p x) := changesOnly_withDsp s _

/-! ### Released slices -/

theorem State.run_some {s : State} {o : Nat} {f : Word} {n : Nat} {r : SliceRun} (h : s.run o f n = some r) :
    r ∈ (s.out o).runs ∧ r.frame = f ∧ r.slice = n := by
  have hkey := List.find?_some h
  simp only [Bool.and_eq_true, beq_iff_eq] at hkey
  exact ⟨List.mem_of_find?_eq_some h, hkey⟩

theorem State.run_congr {s t : State} (h : t.syn = s.syn) (o : Nat) (f : Word) (n : Nat) : t.run o f n = s.run o f n := by
  rw [State.run, State.run, State.out, State.out, h]

theorem State.frameRec_congr {s t : State} (h : t.syn = s.syn) (o : Nat) (f : Word) : t.frameRec o f = s.frameRec o f := by
  rw [State.frameRec, State.frameRec, State.out, State.out, h]

theorem runsDistinct_congr {s t : State} (h : t.syn = s.syn) {o : Nat} (hd : s.runsDistinct o) : t.runsDistinct o := by
  rwa [State.runsDistinct, State.out, h]

theorem State.run_of_mem {s : State} {o : Nat} {r : SliceRun} (hd : s.runsDistinct o) (h : r ∈ (s.out o).runs) :
    s.run o r.frame r.slice = some r :=
  find?_eq_of_nodup_map (by simp) hd h

section
variable {s : State} {o : Nat} (ho : o < 4)
include ho

theorem State.run_putRun_self (r : SliceRun) : (s.putRun o r).run o r.frame r.slice = some r := by
  simp only [State.run, State.putRun, State.out_setOut_self _ _ ho]
  exact find?_upsert_self (by simp) _

theorem State.run_putRun_ne (r : SliceRun) {f : Word} {n : Nat} (h : ¬(r.frame = f ∧ r.slice = n)) :
    (s.putRun o r).run o f n = s.run o f n := by
  simp only [State.run, State.putRun, State.out_setOut_self _ _ ho]
  refine find?_upsert_of_apart (by simpa using h) (fun x hx => ?_) _
  simp only [Bool.and_eq_true, beq_iff_eq] at hx
  simpa [hx] using h

theorem runsDistinct_putRun (r : SliceRun) (hd : s.runsDistinct o) : (s.putRun o r).runsDistinct o := by
  simp only [State.runsDistinct, State.putRun, State.out_setOut_self _ _ ho]
  exact nodup_map_upsert (by simp) hd

theorem State.frameRec_putRun (r : SliceRun) (f : Word) : (s.putRun o r).frameRec o f = s.frameRec o f := by
  simp only [State.frameRec, State.putRun, State.out_setOut_self _ _ ho]

theorem State.frameRec_putFrame_self (f : FrameRec) : (s.putFrame o f).frameRec o f.frame = some f := by
  simp only [State.frameRec, State.putFrame, State.out_setOut_self _ _ ho]
  exact find?_upsert_self (by simp) _

theorem State.run_putFrame (x : FrameRec) (f : Word) (n : Nat) : (s.putFrame o x).run o f n = s.run o f n := by
  simp only [State.run, State.putFrame, State.out_setOut_self _ _ ho]

theorem runsDistinct_putFrame (x : FrameRec) (hd : s.runsDistinct o) : (s.putFrame o x).runsDistinct o := by
  simpa only [State.runsDistinct, State.putFrame, State.out_setOut_self _ _ ho] using hd

end

theorem State.frameRec_some {s : State} {o : Nat} {f : Word} {x : FrameRec} (h : s.frameRec o f = some x) :
    x ∈ (s.out o).frames ∧ x.frame = f :=
  ⟨List.mem_of_find?_eq_some h, by simpa using List.find?_some h⟩

/-- The origin of a slice that has just been decided. -/
theorem originOf_upsert (f : FrameRec) (n code : Nat) :
    FrameRec.originOf { f with origins := upsert (fun e => e.1 == n) (n, code) f.origins } n = code := by
  simp only [FrameRec.originOf]
  rw [find?_upsert_self (by simp)]

end Sys2Proof.Machine
end

section
/-! SUPPORT. What the geometry of an output rests on, and how SYN decides the origin of a slice (R34, R51, R57). -/

namespace Sys2Proof.Machine

/-! ### Registers and parts that neither moves -/

theorem ChangesWithin.setOut {parts : List Part} {moved : Nat → Prop} (s : State) (o : Nat) (x : SynOut) (hp : Part.syn ∈ parts) :
    ChangesWithin parts moved s (s.setOut o x) :=
  .of_cfg (changesOnly_mono (changesOnly_setOut s o x) (by simpa using hp)) rfl rfl rfl

theorem ChangesWithin.putRun {parts : List Part} {moved : Nat → Prop} (s : State) (o : Nat) (r : SliceRun) (hp : Part.syn ∈ parts) :
    ChangesWithin parts moved s (s.putRun o r) := .setOut s o _ hp

theorem ChangesWithin.putFrame {parts : List Part} {moved : Nat → Prop} (s : State) (o : Nat) (f : FrameRec) (hp : Part.syn ∈ parts) :
    ChangesWithin parts moved s (s.putFrame o f) := .setOut s o _ hp

theorem ChangesWithin.part {parts : List Part} {moved : Nat → Prop} {s t : State} (h : ChangesWithin parts moved s t) {p : Part}
    (hp : p ∉ parts) : p.same s t := h.parts p hp

/-! ### Counters of SYN (R60) -/

theorem synCount_within (s : State) (o : Nat) (r : Reg) (b : Nat) :
    ChangesWithin [.regs] (· ∈ [regAddr r [o], regAddr R.SYN_CNT_OVF [o]]) s (s.synCount o r b) :=
  .countSat _ _ _ _ _ _ _ (by simp) (by simp) (by simp)

/-- A counter that saturates has counted one event, whatever its overflow bit says (R375). -/
theorem counted_countSat (s : State) {r : Reg} {ix : List Nat} {ovf : Reg} {oix : List Nat} (b : Nat)
    (h : regAddr r ix ≠ regAddr ovf oix) : counted r ix s (s.countSat r ix 1 ovf oix b) := by
  have hv : (BitVec.ofNat 32 (min ((s.rd r ix).toNat + 1) 0xFFFFFFFF)).toNat = min ((s.rd r ix).toNat + 1) 0xFFFFFFFF := by
    simp only [BitVec.toNat_ofNat]
    omega
  unfold counted State.countSat
  rw [if_neg one_ne_zero]
  dsimp only
  split
  · rw [State.setBit, State.setFld, State.rd_poke_ne _ _ _ _ _ _ h, State.rd_poke_self, hv]
  · rw [State.rd_poke_self, hv]

/-- What has been counted stays counted where the counter is not moved. -/
theorem counted_of_within {parts : List Part} {moved : Nat → Prop} {r : Reg} {ix : List Nat} {s t u : State} (h : counted r ix s t)
    (hw : ChangesWithin parts moved t u) (hr : ¬moved (regAddr r ix)) : counted r ix s u := by
  rw [counted, hw.rd hr]
  exact h

/-! ### The geometry of an output (R34, R212, R231) -/

/-- The registers that tell which pipe feeds an output, and its slices. -/
def geomRegs (o : Nat) : List Nat :=
  regAddr R.EDP_SRC [o] :: regAddr R.SYN_GEOM [o] :: (rangeFrom 0 5).map fun p => regAddr R.DSP_MAP [p]

/-- Two states agree on the pipe, the timing and the slices of an output. -/
structure SameGeometry (o : Nat) (s t : State) : Prop where
  dsp : t.dsp = s.dsp
  regs : ∀ a ∈ geomRegs o, cfgGet t.cfg a = cfgGet s.cfg a

theorem ChangesWithin.sameGeometry {parts : List Part} {moved : Nat → Prop} {s t : State} {o : Nat} (h : ChangesWithin parts moved s t)
    (hd : Part.dsp ∉ parts) (hm : ∀ a ∈ geomRegs o, ¬moved a) : SameGeometry o s t :=
  ⟨h.part hd, fun a ha => h.regs a (hm a ha)⟩

namespace SameGeometry

variable {o : Nat} {s t : State} (h : SameGeometry o s t)
include h

theorem map (p : Nat) (hp : p < 5) : t.rd R.DSP_MAP [p] = s.rd R.DSP_MAP [p] := by
  rw [State.rd, State.rd, h.regs _ (List.mem_cons_of_mem _ (List.mem_cons_of_mem _
    (List.mem_map_of_mem ((mem_rangeFrom 0 5 p).2 ⟨Nat.zero_le p, by omega⟩))))]

theorem pipeOf : t.pipeOf o = s.pipeOf o := by
  have hsrc : t.rd R.EDP_SRC [o] = s.rd R.EDP_SRC [o] := by
    rw [State.rd, State.rd, h.regs _ List.mem_cons_self]
  have hmap : ∀ p ∈ rangeFrom 0 5, (t.bit R.DSP_MAP [p] 2 && t.fld R.DSP_MAP [p] 1 0 == o && !t.bit R.DSP_MAP [p] 7)
      = (s.bit R.DSP_MAP [p] 2 && s.fld R.DSP_MAP [p] 1 0 == o && !s.bit R.DSP_MAP [p] 7) := by
    intro p hp
    simp only [State.bit, State.fld, h.map p (by simpa [mem_rangeFrom] using hp)]
  rw [State.pipeOf, State.pipeOf, h.dsp, State.bit, State.bit, State.fld, State.fld, hsrc, List.find?_congr hmap]

theorem synS : t.synS o = s.synS o := by
  have hgeom : t.rd R.SYN_GEOM [o] = s.rd R.SYN_GEOM [o] := by
    rw [State.rd, State.rd, h.regs _ (List.mem_cons_of_mem _ List.mem_cons_self)]
  rw [State.synS, State.synS, State.fld, State.fld, hgeom]

theorem synTiming : t.synTiming o = s.synTiming o := by
  rw [State.synTiming, State.synTiming, h.pipeOf, State.timing, State.timing, State.pipe, State.pipe, h.dsp]

theorem runPixels (r : SliceRun) : t.runPixels o r = s.runPixels o r := by
  rw [State.runPixels, State.runPixels, State.slicePixels, State.slicePixels, h.synTiming, h.synS]

theorem readersOf (p : Nat) : t.readersOf p = s.readersOf p := by
  have hbits : ∀ m ∈ rangeFrom 0 5, (m != p && t.bit R.DSP_MAP [m] 7 && t.fld R.DSP_MAP [m] 6 4 == p)
      = (m != p && s.bit R.DSP_MAP [m] 7 && s.fld R.DSP_MAP [m] 6 4 == p) := by
    intro m hm
    simp only [State.bit, State.fld, h.map m (by simpa [mem_rangeFrom] using hm)]
  rw [State.readersOf, State.readersOf, List.filter_congr hbits]

end SameGeometry

theorem pipeOf_lt {s : State} {o p : Nat} (h : s.pipeOf o = some p) : p < 5 := by
  unfold State.pipeOf at h
  split at h
  · cases h
    decide
  · simpa [mem_rangeFrom] using List.mem_of_find?_eq_some h

/-! ### Deciding an origin (R51, R57) -/

/-- The registers that show the origins of the frame being scanned (R58). -/
def omapRegs (o : Nat) : List Nat := (rangeFrom 0 4).map fun i => regAddr R.SYN_OMAP_CUR [o, i]

/-- The frame and the entry of a slice as a decision leaves them. -/
def SliceRun.decided (r : SliceRun) (code : Nat) : SliceRun := { r with origin := some code, window := false, direct := false }

/-- The entry of a slice is decided. -/
def State.decideRun (s : State) (o : Nat) (frame : Word) (n code : Nat) : State :=
  match s.run o frame n with
  | some r => s.putRun o (r.decided code)
  | none => s

/-- The frame of a slice notes its origin. -/
def State.noteOrigin (s : State) (o : Nat) (frame : Word) (n code : Nat) : State :=
  match s.frameRec o frame with
  | some f => s.putFrame o { f with origins := upsert (fun e => e.1 == n) (n, code) f.origins }
  | none => s

theorem decideOrigin_eq (s : State) (o : Nat) (frame : Word) (n code : Nat) : s.decideOrigin o frame n code =
    if ((s.decideRun o frame n code).noteOrigin o frame n code).rd R.SYN_FRAME [o] = frame then
      ((s.decideRun o frame n code).noteOrigin o frame n code).mapCur o n code
    else (s.decideRun o frame n code).noteOrigin o frame n code := rfl

theorem decideOrigin_syn (s : State) (o : Nat) (frame : Word) (n code : Nat) :
    (s.decideOrigin o frame n code).syn = ((s.decideRun o frame n code).noteOrigin o frame n code).syn := by
  rw [decideOrigin_eq]
  split <;> rfl

/-- A decision moves one word of the origin map, and SYN's own state. -/
theorem decideOrigin_within_word (s : State) (o : Nat) (frame : Word) (n code : Nat) :
    ChangesWithin [.regs, .syn] (· = regAddr R.SYN_OMAP_CUR [o, n / 16]) s (s.decideOrigin o frame n code) := by
  have hrun : ChangesWithin [.regs, .syn] (· = regAddr R.SYN_OMAP_CUR [o, n / 16]) s (s.decideRun o frame n code) := by
    unfold State.decideRun
    split
    · exact .putRun _ _ _ (by decide)
    · exact .refl _ _ s
  have hframe (t : State) : ChangesWithin [.regs, .syn] (· = regAddr R.SYN_OMAP_CUR [o, n / 16]) t (t.noteOrigin o frame n code) := by
    unfold State.noteOrigin
    split
    · exact .putFrame _ _ _ (by decide)
    · exact .refl _ _ t
  rw [decideOrigin_eq]
  split
  · exact (hrun.trans (hframe _)).trans (.setFld _ _ _ _ _ _ (by decide) rfl)
  · exact hrun.trans (hframe _)

theorem decideOrigin_within (s : State) (tag : SliceTag) (code : Nat) :
    ChangesWithin [.regs, .syn] (· ∈ omapRegs tag.output.val) s (s.decideOrigin tag.output.val tag.frame tag.slice.val code) := by
  refine (decideOrigin_within_word s _ _ _ _).mono (fun _ => id) ?_
  rintro a rfl
  exact List.mem_map_of_mem ((mem_rangeFrom 0 4 _).2 ⟨Nat.zero_le _, by have := tag.slice.isLt; omega⟩)

section
variable {s : State} {o : Nat} (ho : o < 4) {f : Word} {n : Nat}
include ho

theorem run_noteOrigin (frame : Word) (m code : Nat) : (s.noteOrigin o frame m code).run o f n = s.run o f n := by
  unfold State.noteOrigin
  split
  · exact State.run_putFrame ho _ _ _
  · rfl

theorem run_decideOrigin_self {r : SliceRun} (h : s.run o f n = some r) (code : Nat) :
    (s.decideOrigin o f n code).run o f n = some (r.decided code) := by
  obtain ⟨-, rfl, rfl⟩ := State.run_some h
  rw [State.run_congr (decideOrigin_syn _ _ _ _ _), run_noteOrigin ho, State.decideRun, h]
  exact State.run_putRun_self ho (r.decided code)

theorem run_decideOrigin_ne {frame : Word} {m : Nat} (h : ¬(frame = f ∧ m = n)) (code : Nat) :
    (s.decideOrigin o frame m code).run o f n = s.run o f n := by
  rw [State.run_congr (decideOrigin_syn _ _ _ _ _), run_noteOrigin ho, State.decideRun]
  split
  · next r hr =>
    obtain ⟨-, rfl, rfl⟩ := State.run_some hr
    exact State.run_putRun_ne ho (r.decided code) h
  · rfl

theorem runsDistinct_decideOrigin (frame : Word) (m code : Nat) (hd : s.runsDistinct o) :
    (s.decideOrigin o frame m code).runsDistinct o := by
  refine runsDistinct_congr (decideOrigin_syn _ _ _ _ _) ?_
  have hrun : (s.decideRun o frame m code).runsDistinct o := by
    unfold State.decideRun
    split
    · exact runsDistinct_putRun ho _ hd
    · exact hd
  unfold State.noteOrigin
  split
  · exact runsDistinct_putFrame ho _ hrun
  · exact hrun

/-- A frame in which an origin has just been decided has that origin. -/
theorem originOf_decideOrigin {x : FrameRec} {code : Nat} (h : (s.decideOrigin o f n code).frameRec o f = some x) :
    x.originOf n = code := by
  rw [State.frameRec_congr (decideOrigin_syn _ _ _ _ _)] at h
  generalize s.decideRun o f n code = t at h
  unfold State.noteOrigin at h
  split at h
  · next y hy =>
    obtain ⟨-, rfl⟩ := State.frameRec_some hy
    have hput := State.frameRec_putFrame_self (s := t) ho { y with origins := upsert (fun e => e.1 == n) (n, code) y.origins }
    obtain rfl := Option.some.inj (hput.symm.trans h)
    exact originOf_upsert y n code
  · next hnone => exact absurd (h.symm.trans hnone) (by simp)

end

/-- The state of a slice whose origin has just been decided. -/
theorem sliceIs_decideOrigin {s : State} {tag : SliceTag} {r : SliceRun}
    (h : s.run tag.output.val tag.frame tag.slice.val = some r) (code : Nat) :
    sliceIs tag (r.decided code) code (s.decideOrigin tag.output.val tag.frame tag.slice.val code) :=
  ⟨run_decideOrigin_self tag.output.isLt h code, fun _ => originOf_decideOrigin tag.output.isLt⟩

end Sys2Proof.Machine
end

section
/-! SUPPORT. What traffic through the regulators moves (R13, R18, R280), and that the check of an access does not see it (R20, R23). -/

namespace Sys2Proof.Machine

/-- The parts that traffic changes. -/
abbrev trafficParts : List Part := [.free, .regs, .sct, .sch]

/-- The CFG pages of the event counters of SCT, of the hub's regulators, of the global counters, and of the regulators of the dies and
stacks. -/
def trafficPages : List Nat := [0x60000, 0xB0000, 0x440000, 0x1F004000, 0x2F004000, 0x30200000, 0x40200000]

/-- The addresses that traffic may move. -/
abbrev trafficRegs (a : Nat) : Prop := ∃ b ∈ trafficPages, b ≤ a ∧ a < b + 0x1000

/-- A regulator of the device: of a stack, of a link or of the hub. -/
inductive IsRegulator : Nat × Nat → Prop where
  | stack {i : Nat} (h : i < 4) : IsRegulator (0, i)
  | link {i : Nat} (h : i < 8) : IsRegulator (1, i)
  | hub {i : Nat} (h : i < 2) : IsRegulator (2, i)

/-! ### Paths (R13) -/

theorem computeDies_le (a : Assembly) : a.computeDies ≤ 2 := by cases a <;> decide

theorem stacks_bounds (a : Assembly) : 0 < a.stacks ∧ a.stacks ≤ 4 := by cases a <;> decide

theorem stackPlace_lt (s : State) {i : Nat} (h : i < 4) : (s.stackPlace i).1 < 2 ∧ (s.stackPlace i).2 < 4 := by
  unfold State.stackPlace
  split <;> constructor <;> dsimp only <;> omega

theorem hubDie_lt (s : State) (a : Nat) : s.hubDie a < 2 := by
  unfold State.hubDie
  split
  · exact Nat.mod_lt _ (by decide)
  · decide

/-- A place on a compute die is on one that the assembly has. -/
theorem placeOf_die_lt {asm : Assembly} {a : Nat} :
    (∀ {d k}, placeOf asm a = .cluster d k → d < 2 ∧ k < 8) ∧ ∀ {d k c}, placeOf asm a = .core d k c → d < 2 ∧ k < 8 ∧ c < 16 := by
  have hdies := computeDies_le asm
  unfold placeOf
  constructor
  · intro d k h
    split at h
    · cases h
    · split at h
      · cases h
      · split at h
        · next hr =>
          dsimp only at h
          split at h
          · cases h
            omega
          · cases h
        · split at h
          · dsimp only at h
            split at h <;> cases h
          · cases h
  · intro d k c h
    split at h
    · cases h
    · split at h
      · cases h
      · split at h
        · dsimp only at h
          split at h <;> cases h
        · split at h
          · next hr =>
            dsimp only at h
            split at h
            · cases h
              omega
            · cases h
          · cases h

theorem stacksOf_lt {s : State} {a n i : Nat} (h : i ∈ s.stacksOf a n) : i < 4 := by
  have hstacks := stacks_bounds s.dev.assembly
  simp only [State.stacksOf, List.mem_eraseDups, List.mem_map] at h
  obtain ⟨j, -, rfl⟩ := h
  exact lt_of_lt_of_le (Nat.mod_lt _ hstacks.1) hstacks.2

/-- `State.readPath` as a function of what the address lies in. -/
def State.readPathAt (s : State) (d a n : Nat) : Place → List (Nat × Nat)
  | .dram => (s.stacksOf a n).map fun i => (0, i)
  | .hub => [(2, d)]
  | .cluster e _ => if e = d then [] else [(1, 4 * e + 3)]
  | .core e _ _ => if e = d then [] else [(1, 4 * e + 3)]
  | .unpopulated => []

/-- `State.writePath` as a function of what the address lies in. -/
def State.writePathAt (s : State) (d a n : Nat) : Place → List (Nat × Nat)
  | .dram => ((s.stacksOf a n).map fun i => [(1, 4 * d + (s.stackPlace i).1), (0, i)]).flatten.eraseDups
  | .hub => [(1, 4 * d + 2)]
  | .cluster e _ => if e = d then [] else [(1, 4 * d + 3)]
  | .core e _ _ => if e = d then [] else [(1, 4 * d + 3)]
  | .unpopulated => []

/-- `State.hubPath` as a function of what the address lies in. -/
def State.hubPathAt (s : State) (write : Bool) (a n : Nat) : Place → List (Nat × Nat)
  | .dram =>
    let d := s.hubDie a
    if write then ((2, d) :: s.writePath d a n).eraseDups else s.readPath d a n ++ [(1, 4 * d + 2)]
  | .hub => []
  | .cluster d _ => if write then [(2, d)] else [(1, 4 * d + 2)]
  | .core d _ _ => if write then [(2, d)] else [(1, 4 * d + 2)]
  | .unpopulated => []

theorem readPath_eq (s : State) (d a n : Nat) : s.readPath d a n = s.readPathAt d a n (placeOf s.dev.assembly a) := rfl

theorem writePath_eq (s : State) (d a n : Nat) : s.writePath d a n = s.writePathAt d a n (placeOf s.dev.assembly a) := rfl

theorem hubPath_eq (s : State) (write : Bool) (a n : Nat) :
    s.hubPath write a n = s.hubPathAt write a n (placeOf s.dev.assembly a) := rfl

theorem isRegulator_of_mem_stacks {s : State} {d a n : Nat} (hd : d < 2) {g : Nat × Nat}
    (h : g ∈ s.readPathAt d a n .dram ∨ g ∈ s.writePathAt d a n .dram) : IsRegulator g := by
  obtain h | h := h
  · obtain ⟨i, hi, rfl⟩ := List.mem_map.1 h
    exact .stack (stacksOf_lt hi)
  · simp only [State.writePathAt, List.mem_eraseDups, List.mem_flatten, List.mem_map] at h
    obtain ⟨l, ⟨i, hi, rfl⟩, hg⟩ := h
    have hplace := stackPlace_lt s (stacksOf_lt hi)
    simp only [List.mem_cons, List.not_mem_nil, or_false] at hg
    obtain rfl | rfl := hg
    · exact .link (by omega)
    · exact .stack (stacksOf_lt hi)

theorem isRegulator_of_mem_hubPathAt {s : State} {write : Bool} {a n : Nat} {g : Nat × Nat} {pl : Place}
    (hpl : placeOf s.dev.assembly a = pl) (h : g ∈ s.hubPathAt write a n pl) : IsRegulator g := by
  have hdie := hubDie_lt s a
  have hport {d : Nat} (hd : d < 2) (h : g ∈ if write then [(2, d)] else [(1, 4 * d + 2)]) : IsRegulator g := by
    split at h <;> obtain rfl := List.mem_singleton.1 h
    · exact .hub hd
    · exact .link (by omega)
  cases pl with
  | dram =>
    have hread := readPath_eq s (s.hubDie a) a n
    have hwrite := writePath_eq s (s.hubDie a) a n
    rw [hpl] at hread hwrite
    cases write with
    | true =>
      simp only [State.hubPathAt, if_true, List.mem_eraseDups, List.mem_cons] at h
      obtain rfl | h := h
      · exact .hub hdie
      · exact isRegulator_of_mem_stacks hdie (.inr (hwrite ▸ h))
    | false =>
      simp only [State.hubPathAt, Bool.false_eq_true, if_false, List.mem_append, List.mem_singleton] at h
      obtain h | rfl := h
      · exact isRegulator_of_mem_stacks hdie (.inl (hread ▸ h))
      · exact .link (by omega)
  | cluster d k => exact hport (placeOf_die_lt.1 hpl).1 h
  | core d k c => exact hport (placeOf_die_lt.2 hpl).1 h
  | hub => exact absurd h List.not_mem_nil
  | unpopulated => exact absurd h List.not_mem_nil

/-- What a block of the hub reads or writes passes regulators of the device. -/
theorem isRegulator_of_mem_hubPath {s : State} {write : Bool} {a n : Nat} {g : Nat × Nat} (h : g ∈ s.hubPath write a n) :
    IsRegulator g := isRegulator_of_mem_hubPathAt rfl (hubPath_eq s write a n ▸ h)

/-! ### What one regulator counts -/

/-- Registers of the regulators of stacks, links and the hub that lie at the same place of their blocks. -/
structure PassRegs (bwr die sch : Reg) (place : Nat) : Prop where
  bwr : bwr.base = 0x30200000 + place ∧ bwr.dims = [(2, 0x10000000), (2, 0x200), (16, 0x20)]
  die : die.base = 0x1F004000 + place ∧ die.dims = [(2, 0x10000000), (4, 0x200), (16, 0x20)]
  sch : sch.base = 0xB0000 + place ∧ sch.dims = [(2, 0x200), (16, 0x20)]
  place_lt : place < 0x20

theorem passRegs_bytes : PassRegs R.BWR_REG_BYTES_LO R.DIE_REG_BYTES_LO R.SCH_REG_BYTES_LO 4
    ∧ PassRegs R.BWR_REG_BYTES_HI R.DIE_REG_BYTES_HI R.SCH_REG_BYTES_HI 8 :=
  ⟨⟨⟨rfl, rfl⟩, ⟨rfl, rfl⟩, ⟨rfl, rfl⟩, by decide⟩, ⟨⟨rfl, rfl⟩, ⟨rfl, rfl⟩, ⟨rfl, rfl⟩, by decide⟩⟩

theorem passRegs_borrow : PassRegs R.BWR_REG_BORROW_LO R.DIE_REG_BORROW_LO R.SCH_REG_BORROW_LO 12
    ∧ PassRegs R.BWR_REG_BORROW_HI R.DIE_REG_BORROW_HI R.SCH_REG_BORROW_HI 16 :=
  ⟨⟨⟨rfl, rfl⟩, ⟨rfl, rfl⟩, ⟨rfl, rfl⟩, by decide⟩, ⟨⟨rfl, rfl⟩, ⟨rfl, rfl⟩, ⟨rfl, rfl⟩, by decide⟩⟩

theorem trafficRegs_of_page {a : Nat} (b : Nat) (hb : b ∈ trafficPages) (h : b ≤ a ∧ a < b + 0x1000) : trafficRegs a := ⟨b, hb, h⟩

/-- A register of a regulator lies on a page of traffic. -/
theorem trafficRegs_regOf {bwr die sch : Reg} {place : Nat} (h : PassRegs bwr die sch place) (s : State) {g : Nat × Nat}
    (hg : IsRegulator g) {p : Nat} (hp : p < 16) :
    trafficRegs (regAddr (s.regOf bwr die sch g p).1 (s.regOf bwr die sch g p).2) := by
  obtain ⟨⟨hbb, hbd⟩, ⟨hdb, hdd⟩, ⟨hsb, hsd⟩, hplace⟩ := h
  cases hg with
  | @stack i hi =>
    obtain ⟨h1, h2⟩ := stackPlace_lt s hi
    have haddr : regAddr (s.regOf bwr die sch (0, i) p).1 (s.regOf bwr die sch (0, i) p).2 =
        0x30200000 + place + ((s.stackPlace i).1 * 0x10000000 + ((s.stackPlace i).2 * 0x200 + (p * 0x20 + 0))) := by
      simp only [State.regOf, if_true, regAddr, hbb, hbd, regOffset]
    obtain h0 | h0 : (s.stackPlace i).1 = 0 ∨ (s.stackPlace i).1 = 1 := by omega
    · exact trafficRegs_of_page 0x30200000 (by decide) (by omega)
    · exact trafficRegs_of_page 0x40200000 (by decide) (by omega)
  | @link i hi =>
    have haddr : regAddr (s.regOf bwr die sch (1, i) p).1 (s.regOf bwr die sch (1, i) p).2 =
        0x1F004000 + place + (i / 4 * 0x10000000 + (i % 4 * 0x200 + (p * 0x20 + 0))) := by
      simp only [State.regOf, one_ne_zero, if_false, if_true, regAddr, hdb, hdd, regOffset]
    obtain h0 | h0 : i / 4 = 0 ∨ i / 4 = 1 := by omega
    · exact trafficRegs_of_page 0x1F004000 (by decide) (by omega)
    · exact trafficRegs_of_page 0x2F004000 (by decide) (by omega)
  | @hub i hi =>
    have haddr : regAddr (s.regOf bwr die sch (2, i) p).1 (s.regOf bwr die sch (2, i) p).2 =
        0xB0000 + place + (i * 0x200 + (p * 0x20 + 0)) := by
      simp only [State.regOf, OfNat.ofNat_ne_zero, OfNat.ofNat_ne_one, if_false, regAddr, hsb, hsd, regOffset]
    exact trafficRegs_of_page 0xB0000 (by decide) (by omega)

theorem regOf_ix (s : State) (bwr die sch bwr' die' sch' : Reg) (g : Nat × Nat) (p : Nat) :
    (s.regOf bwr die sch g p).2 = (s.regOf bwr' die' sch' g p).2 := by
  unfold State.regOf
  split
  · rfl
  · split <;> rfl

theorem trafficRegs_count : trafficRegs (regAddr R.PMC_OVF []) ∧ (∀ i, i < 32 → trafficRegs (regAddr R.PMC_CNT [i]))
    ∧ ∀ a ∈ eventRegs, trafficRegs a := by decide

/-! ### Traffic -/

section
variable (s : State)

theorem pmcOne_within {i : Nat} (hi : i < 32) (n : Nat) : ChangesWithin trafficParts trafficRegs s (s.pmcOne i n) := by
  obtain ⟨hovf, hcnt, hevent⟩ := trafficRegs_count
  have hcount := ChangesWithin.poke (parts := trafficParts) (moved := trafficRegs) s R.PMC_CNT [i]
    (BitVec.ofNat 32 ((s.rd R.PMC_CNT [i]).toNat + n)) (by decide) (hcnt i hi)
  unfold State.pmcOne
  dsimp only
  split
  · exact hcount
  · have hover := hcount.trans (.setBit _ R.PMC_OVF [] i true (by decide) hovf)
    split
    · exact hover.trans (event_within _ (by decide) (by decide) hevent (by decide) _ _ _ _)
    · exact hover

theorem pmcAdd_within (kind unit event : Nat) (part : Option Nat) (n : Nat) :
    ChangesWithin trafficParts trafficRegs s (s.pmcAdd kind unit event part n) := by
  unfold State.pmcAdd
  split
  · refine .foldl _ _ s fun s i hi => pmcOne_within s ?_ n
    simpa [mem_rangeFrom] using (List.mem_filter.1 hi).1
  · exact .refl _ _ s

theorem withSch_within (x : SchState) : ChangesWithin trafficParts trafficRegs s (s.withSch x) := by
  refine .of_cfg (fun p hp => ?_) rfl rfl rfl
  cases p
  case sch => simp at hp
  all_goals rfl

theorem count64_within {lo hi : Reg} {ix : List Nat} (n : Nat) (hlo : trafficRegs (regAddr lo ix)) (hhi : trafficRegs (regAddr hi ix)) :
    ChangesWithin trafficParts trafficRegs s (s.count64 lo hi ix n) :=
  (ChangesWithin.poke _ _ _ _ (by decide) hlo).trans (.poke _ _ _ _ (by decide) hhi)

/-- Bytes that pass a regulator of the device are counted in registers of it that lie on a page of traffic. -/
theorem count64_regOf_within {bl dl sl bh dh sh : Reg} {lo hi : Nat} (hlo : PassRegs bl dl sl lo) (hhi : PassRegs bh dh sh hi) {p : Nat}
    (hp : p < 16) (n : Nat) {g : Nat × Nat} (hg : IsRegulator g) :
    ChangesWithin trafficParts trafficRegs s
      (s.count64 (s.regOf bl dl sl g p).1 (s.regOf bh dh sh g p).1 (s.regOf bl dl sl g p).2 n) := by
  refine count64_within s n (trafficRegs_regOf hlo s hg hp) ?_
  rw [regOf_ix s bl dl sl bh dh sh]
  exact trafficRegs_regOf hhi s hg hp

theorem passOne_within {p : Nat} (hp : p < 16) (n : Nat) (borrowed : Bool) {g : Nat × Nat} (hg : IsRegulator g) :
    ChangesWithin trafficParts trafficRegs s (s.passOne p n borrowed g) := by
  have hbytes : ChangesWithin trafficParts trafficRegs s _ := count64_regOf_within s passRegs_bytes.1 passRegs_bytes.2 hp n hg
  unfold State.passOne
  dsimp only
  split
  · have hborrow := hbytes.trans (count64_regOf_within _ passRegs_borrow.1 passRegs_borrow.2 hp n hg)
    split
    · exact hborrow.trans (pmcAdd_within _ _ _ _ _ _)
    · exact hborrow
  · exact hbytes.trans (withSch_within _ _)

theorem pass_within {p : Nat} (hp : p < 16) (n : Nat) (borrowed : Bool) {path : List (Nat × Nat)} (hg : ∀ g ∈ path, IsRegulator g) :
    ChangesWithin trafficParts trafficRegs s (s.pass p n borrowed path) :=
  .foldl _ _ s fun s g h => passOne_within s hp n borrowed (hg g h)

theorem passNow_within {p : Nat} (hp : p < 16) (n : Nat) {path : List (Nat × Nat)} (hg : ∀ g ∈ path, IsRegulator g) :
    ChangesWithin trafficParts trafficRegs s (s.passNow p n path) := by
  unfold State.passNow
  split
  · exact pass_within s hp n false hg
  · split
    · exact pass_within s hp n true hg
    · exact (pass_within s hp n false hg).trans (.foldl _ _ _ fun s _ _ => withSch_within s _)

theorem traffic_within {p : Nat} (hp : p < 16) {path : State → Nat → Nat → List (Nat × Nat)}
    (hg : ∀ s a n, ∀ g ∈ path s a n, IsRegulator g) (fuel a n : Nat) :
    ChangesWithin trafficParts trafficRegs s (s.traffic p path fuel a n) := by
  induction fuel generalizing s a n with
  | zero => exact .refl _ _ s
  | succ fuel ih =>
    rw [State.traffic]
    split
    · exact .refl _ _ s
    · exact (passNow_within s hp _ (hg s a _)).trans (ih _ _ _)

theorem hubRead_within {p : Nat} (hp : p < 16) (a n : Nat) : ChangesWithin trafficParts trafficRegs s (s.hubRead p a n) :=
  traffic_within s hp (path := fun s => s.hubPath false)
    (fun s a n g (h : g ∈ s.hubPath false a n) => isRegulator_of_mem_hubPath h) (n / 4096 + 2) a n

theorem hubWrote_within {p : Nat} (hp : p < 16) (a n : Nat) : ChangesWithin trafficParts trafficRegs s (s.hubWrote p a n) :=
  traffic_within s hp (path := fun s => s.hubPath true)
    (fun s a n g (h : g ∈ s.hubPath true a n) => isRegulator_of_mem_hubPath h) (n / 4096 + 2) a n

theorem ctxPart_lt (c : Nat) : s.ctxPart c < 16 := Nat.mod_lt _ (by decide)

theorem synRead_within (o : Nat) (reads : List (Nat × Nat)) : ChangesWithin trafficParts trafficRegs s (s.synRead o reads) :=
  .foldl _ _ s fun s _ _ => hubRead_within s (ctxPart_lt s _) _ _

theorem warpTraffic_within (o p n : Nat) (newer : Option Keyframe) :
    ChangesWithin trafficParts trafficRegs s (s.warpTraffic o p n newer) :=
  (ChangesWithin.draw s (by decide)).trans (synRead_within _ _ _)

end

end Sys2Proof.Machine
end

section
/-! SUPPORT. The warp unit and the fallback ladder (R54, R55, Table 2.6). -/

namespace Sys2Proof.Machine

/-! ### The warp unit -/

/-- A slice that waits for the warp unit. -/
def SliceRun.waitsWarp (r : SliceRun) : Bool := r.origin == some 1 && !r.final && r.warp.isNone

/-- The registers that the start of a warp moves. -/
def warpRegs (o p : Nat) : List Nat := [regAddr R.WRP_STATUS [p], regAddr R.SYN_STATUS [o]]

theorem bankFlags_within {parts : List Part} {moved : Nat → Prop} (s : State) (o : Nat) (hp : Part.regs ∈ parts)
    (hm : moved (regAddr R.SYN_STATUS [o])) : ChangesWithin parts moved s (s.bankFlags o) :=
  (ChangesWithin.setBit _ _ _ _ _ hp hm).trans (.setBit _ _ _ _ _ hp hm)

theorem startWarp_within (s : State) (o p : Nat) (r : SliceRun) :
    ChangesWithin [.regs, .syn] (· ∈ warpRegs o p) s (s.startWarp o p r) :=
  (((ChangesWithin.putRun s o _ (by decide)).trans (.setBit _ _ _ _ _ (by decide) (by simp [warpRegs]))).trans
    (.setFld _ _ _ _ _ _ (by decide) (by simp [warpRegs]))).trans (bankFlags_within _ _ (by decide) (by simp [warpRegs]))

/-- The entry of a slice whose warp has started. -/
def State.warping (s : State) (o : Nat) (r : SliceRun) : SliceRun :=
  { r with warp := some (s.curBank o, s.bytes (s.bankAddr o (s.curBank o) + 0x800) 2048), warpCopying := true }

theorem startWarp_syn (s : State) (o p : Nat) (r : SliceRun) : (s.startWarp o p r).syn = (s.putRun o (s.warping o r)).syn := rfl

/-- What a start of a warp and a decision for blanket keep, the warp unit's search for its next slice keeps. -/
theorem nextWarp_induction {P : State → Prop} {o p : Nat}
    (hstart : ∀ t r, P t → r ∈ (t.out o).runs → r.waitsWarp = true → P (t.startWarp o p r))
    (hdecide : ∀ t r, P t → r ∈ (t.out o).runs → r.waitsWarp = true → P (t.decideOrigin o r.frame r.slice 3))
    (fuel : Nat) {s : State} (h : P s) : P (s.nextWarp o p fuel) := by
  induction fuel generalizing s with
  | zero => exact h
  | succ fuel ih =>
    rw [State.nextWarp]
    split
    · exact h
    · split
      · exact h
      · next r hr =>
        have hmem := List.mem_of_find?_eq_some hr
        have hwaits : r.waitsWarp = true := List.find?_some hr
        split
        · exact hstart _ _ h hmem hwaits
        · exact ih (hdecide _ _ h hmem hwaits)

/-- With a last complete output, the warp unit starts at most one warp. -/
theorem nextWarp_of_lcoValid {s : State} {o p : Nat} (hv : s.lcoValid p = true) (fuel : Nat) :
    s.nextWarp o p fuel = s ∨ ∃ r ∈ (s.out o).runs, s.nextWarp o p fuel = s.startWarp o p r := by
  cases fuel with
  | zero => exact .inl rfl
  | succ fuel =>
    rw [State.nextWarp]
    split
    · exact .inl rfl
    · split
      · exact .inl rfl
      · next r hr =>
        exact .inr ⟨r, List.mem_of_find?_eq_some hr, rfl⟩

/-- The registers that the warp unit may move as it looks for its next slice: those of a start, and those of the origin maps, with
whatever lies above them, since the slices that it decides are any. -/
abbrev nextWarpRegs (o p a : Nat) : Prop := a ∈ warpRegs o p ∨ 0x1C1060 ≤ a

theorem nextWarp_within (s : State) (o p fuel : Nat) :
    ChangesWithin [.regs, .syn] (nextWarpRegs o p) s (s.nextWarp o p fuel) := by
  refine nextWarp_induction (P := fun t => ChangesWithin [.regs, .syn] (nextWarpRegs o p) s t) ?_ ?_ fuel (.refl _ _ s)
  · exact fun t r h _ _ => h.trans ((startWarp_within t o p r).mono (fun _ => id) fun _ => Or.inl)
  · refine fun t r h _ _ => h.trans ((decideOrigin_within_word t o _ _ _).mono (fun _ => id) ?_)
    rintro a rfl
    right
    simp only [regAddr, R.SYN_OMAP_CUR]
    omega

section
variable {s : State} {o : Nat} (ho : o < 4)
include ho

theorem runsDistinct_startWarp (p : Nat) (r : SliceRun) (hd : s.runsDistinct o) : (s.startWarp o p r).runsDistinct o :=
  runsDistinct_congr (startWarp_syn s o p r) (runsDistinct_putRun ho _ hd)

theorem run_startWarp_ne (p : Nat) (r : SliceRun) {f : Word} {n : Nat} (h : ¬(r.frame = f ∧ r.slice = n)) :
    (s.startWarp o p r).run o f n = s.run o f n := by
  rw [State.run_congr (startWarp_syn s o p r)]
  exact State.run_putRun_ne ho (s.warping o r) h

/-- A start of a warp leaves every entry as it was, but for the warp. -/
theorem run_startWarp (p : Nat) {r x : SliceRun} (hd : s.runsDistinct o) (hr : r ∈ (s.out o).runs) {f : Word} {n : Nat}
    (h : s.run o f n = some x) : ∃ y, (s.startWarp o p r).run o f n = some y ∧ y = { x with warp := y.warp, warpCopying := y.warpCopying } := by
  by_cases hk : r.frame = f ∧ r.slice = n
  · obtain ⟨rfl, rfl⟩ := hk
    obtain rfl := Option.some.inj ((State.run_of_mem hd hr).symm.trans h)
    refine ⟨s.warping o r, ?_, rfl⟩
    rw [State.run_congr (startWarp_syn s o p r)]
    exact State.run_putRun_self ho (s.warping o r)
  · exact ⟨x, (run_startWarp_ne ho p r hk).trans h, rfl⟩

theorem frameRec_startWarp (p : Nat) (r : SliceRun) (f : Word) : (s.startWarp o p r).frameRec o f = s.frameRec o f :=
  (State.frameRec_congr (startWarp_syn s o p r) o f).trans (State.frameRec_putRun ho _ f)

/-- The warp unit leaves the entry of a slice alone that does not wait for it. -/
theorem run_nextWarp (p fuel : Nat) (hd : s.runsDistinct o) {f : Word} {n : Nat} (h : ∀ r, s.run o f n = some r → r.waitsWarp = false) :
    (s.nextWarp o p fuel).run o f n = s.run o f n := by
  have hkey (t : State) (r : SliceRun) (hdt : t.runsDistinct o) (ht : t.run o f n = s.run o f n) (hr : r ∈ (t.out o).runs)
      (hw : r.waitsWarp = true) : ¬(r.frame = f ∧ r.slice = n) := by
    rintro ⟨rfl, rfl⟩
    have hnot := h r (ht.symm.trans (State.run_of_mem hdt hr))
    simp [hw] at hnot
  refine (nextWarp_induction (P := fun t => t.runsDistinct o ∧ t.run o f n = s.run o f n) ?_ ?_ fuel ⟨hd, rfl⟩).2
  · intro t r ⟨hdt, ht⟩ hr hw
    exact ⟨runsDistinct_startWarp ho p r hdt, (run_startWarp_ne ho p r (hkey t r hdt ht hr hw)).trans ht⟩
  · intro t r ⟨hdt, ht⟩ hr hw
    exact ⟨runsDistinct_decideOrigin ho _ _ _ hdt, (run_decideOrigin_ne ho (hkey t r hdt ht hr hw) 3).trans ht⟩

end

/-! ### The fallback ladder -/

/-- The registers of the warp units of the pipes. -/
def warpStatusRegs : List Nat := (rangeFrom 0 5).map fun p => regAddr R.WRP_STATUS [p]

/-- The registers that the ladder may move. -/
def ladderRegs (o : Nat) : List Nat := regAddr R.SYN_STATUS [o] :: (omapRegs o ++ warpStatusRegs)

theorem warpRegs_sub_ladderRegs {o p : Nat} (hp : p < 5) : ∀ a ∈ warpRegs o p, a ∈ ladderRegs o := by
  have hmem : regAddr R.WRP_STATUS [p] ∈ warpStatusRegs := List.mem_map_of_mem ((mem_rangeFrom 0 5 p).2 ⟨Nat.zero_le p, by omega⟩)
  simp [warpRegs, ladderRegs, hmem]

theorem decideOrigin_within_ladder (s : State) (tag : SliceTag) (code : Nat) :
    ChangesWithin [.regs, .syn] (· ∈ ladderRegs tag.output.val) s (s.decideOrigin tag.output.val tag.frame tag.slice.val code) :=
  (decideOrigin_within s tag code).mono (fun _ => id) fun _ ha => List.mem_cons_of_mem _ (List.mem_append_left _ ha)

/-- Whether there is a last complete output rests on the register of the warp unit. -/
theorem lcoValid_congr {s t : State} {p : Nat} (h : t.rd R.WRP_STATUS [p] = s.rd R.WRP_STATUS [p]) : t.lcoValid p = s.lcoValid p := by
  rw [State.lcoValid, State.lcoValid, State.bit, State.bit, State.fld, State.fld, h]

theorem warpStatus_not_omap : ∀ o, o < 4 → ∀ p, p < 5 → regAddr R.WRP_STATUS [p] ∉ omapRegs o := by decide

theorem lcoValid_decideOrigin (s : State) (tag : SliceTag) (code : Nat) {p : Nat} (hp : p < 5) :
    (s.decideOrigin tag.output.val tag.frame tag.slice.val code).lcoValid p = s.lcoValid p :=
  lcoValid_congr ((decideOrigin_within s tag code).rd (warpStatus_not_omap _ tag.output.isLt p hp))

/-- The ladder decides the slice's origin, and then at most starts a warp. -/
theorem ladder_cases (s : State) (tag : SliceTag) :
    let d := s.decideOrigin tag.output.val tag.frame tag.slice.val (s.ladderCode tag.output.val)
    s.ladder tag.output.val tag.frame tag.slice.val = d ∨
      ∃ p < 5, ∃ r ∈ (d.out tag.output.val).runs, s.ladder tag.output.val tag.frame tag.slice.val = d.startWarp tag.output.val p r := by
  unfold State.ladder State.ladderCode
  cases hpipe : s.pipeOf tag.output.val with
  | none => exact .inl rfl
  | some p =>
    have hp := pipeOf_lt hpipe
    cases hv : s.lcoValid p with
    | false => exact .inl (by simp [hv])
    | true =>
      have hvd := (lcoValid_decideOrigin s tag 1 hp).trans hv
      simp only [hv, if_true]
      obtain h | ⟨r, hr, h⟩ := nextWarp_of_lcoValid hvd (o := tag.output.val)
        ((s.decideOrigin tag.output.val tag.frame tag.slice.val 1).out tag.output.val).runs.length
      · exact .inl h
      · exact .inr ⟨p, hp, r, hr, h⟩

theorem ladder_within (s : State) (tag : SliceTag) :
    ChangesWithin [.regs, .syn] (· ∈ ladderRegs tag.output.val) s (s.ladder tag.output.val tag.frame tag.slice.val) := by
  have hdecide := decideOrigin_within_ladder s tag (s.ladderCode tag.output.val)
  obtain h | ⟨p, hp, r, -, h⟩ := ladder_cases s tag
  · rwa [h]
  · rw [h]
    exact hdecide.trans ((startWarp_within _ _ _ _).mono (fun _ => id) (warpRegs_sub_ladderRegs hp))

/-- A released slice that takes the ladder has taken it. -/
theorem ladderTaken_ladder {s : State} {tag : SliceTag} {r : SliceRun} (hd : s.runsDistinct tag.output.val)
    (h : s.run tag.output.val tag.frame tag.slice.val = some r) :
    ladderTaken tag s (s.ladder tag.output.val tag.frame tag.slice.val) := by
  have ho := tag.output.isLt
  obtain ⟨hrun, horigin⟩ := sliceIs_decideOrigin h (s.ladderCode tag.output.val)
  obtain hl | ⟨p, -, x, hx, hl⟩ := ladder_cases s tag
  · rw [hl]
    exact ⟨_, hrun, rfl, rfl, horigin⟩
  · rw [hl]
    obtain ⟨y, hy, hyr⟩ := run_startWarp ho p (runsDistinct_decideOrigin ho _ _ _ hd) hx hrun
    refine ⟨y, hy, by rw [hyr]; rfl, by rw [hyr]; rfl, ?_⟩
    rwa [frameRec_startWarp ho]

/-- What the ladder gives a slice rests on the geometry of the output and on the warp units. -/
theorem ladderCode_congr {s t : State} {o : Nat} (hg : SameGeometry o s t) (hw : ∀ p, p < 5 → t.rd R.WRP_STATUS [p] = s.rd R.WRP_STATUS [p]) :
    t.ladderCode o = s.ladderCode o := by
  unfold State.ladderCode
  rw [hg.pipeOf]
  cases hpipe : s.pipeOf o with
  | none => rfl
  | some p => simp only [lcoValid_congr (hw p (pipeOf_lt hpipe))]

theorem ladderTaken_congr {s u t : State} {tag : SliceTag} (hc : u.ladderCode tag.output.val = s.ladderCode tag.output.val)
    (h : ladderTaken tag u t) : ladderTaken tag s t := by
  unfold ladderTaken at h ⊢
  rwa [hc] at h

end Sys2Proof.Machine
end

section
/-! PROOFS. The slices of an output cover its lines, and a fetched slice is shown on its own (R34, R57). Settles O5. -/

namespace Sys2Proof.Machine

/-! ### Slices and lines (R34) -/

/-- Of values that rise from `f 0`, the step that first passes `y` is the only one that holds it. -/
theorem existsUnique_step {f : Nat → Nat} (hf : Monotone f) {S y : Nat} (h0 : f 0 ≤ y) (hS : y < f S) :
    ∃ n, n < S ∧ (f n ≤ y ∧ y < f (n + 1)) ∧ ∀ k, k < S → f k ≤ y → y < f (k + 1) → k = n := by
  have hex : ∃ n, y < f (n + 1) := by
    obtain _ | S := S
    · omega
    · exact ⟨S, hS⟩
  have hle : f (Nat.find hex) ≤ y := by
    rcases hn : Nat.find hex with _ | n
    · exact h0
    · exact Nat.le_of_not_lt (Nat.find_min hex (m := n) (by omega))
  have huniq (k : Nat) (hk : f k ≤ y) (hk' : y < f (k + 1)) : k = Nat.find hex := by
    refine le_antisymm (Nat.le_of_not_lt fun hlt => ?_) (Nat.find_min' hex hk')
    have hrise : f (Nat.find hex + 1) ≤ f k := hf hlt
    have := Nat.find_spec hex
    omega
  refine ⟨Nat.find hex, Nat.lt_of_not_le fun hge => ?_, ⟨hle, Nat.find_spec hex⟩, fun k _ => huniq k⟩
  have := hf hge
  omega

theorem firstLine_mono (S V : Nat) : Monotone (firstLine S V) := fun _ _ h =>
  Nat.div_le_div_right (Nat.mul_le_mul_right V h)

theorem firstLine_add_sliceLines (S V n : Nat) : firstLine S V n + sliceLines S V n = firstLine S V (n + 1) :=
  Nat.add_sub_cancel' (firstLine_mono S V (Nat.le_succ n))

/-- The slice counts that SYN_GEOM can give are 16, 32 and 64, but for the code that the enable check refuses. -/
theorem synS_of_geomGood {s : State} {o : Nat} (h : s.geomGood o = true) : s.synS o = 16 ∨ s.synS o = 32 ∨ s.synS o = 64 := by
  have hlt : s.fld R.SYN_GEOM [o] 1 0 < 4 := Nat.mod_lt _ (by decide)
  have hne : s.fld R.SYN_GEOM [o] 1 0 ≠ 3 := by
    simp only [State.geomGood, Bool.and_eq_true, bne_iff_ne] at h
    tauto
  rw [State.synS]
  obtain h | h | h : s.fld R.SYN_GEOM [o] 1 0 = 0 ∨ s.fld R.SYN_GEOM [o] 1 0 = 1 ∨ s.fld R.SYN_GEOM [o] 1 0 = 2 := by omega
  all_goals simp [h]

theorem geomGood_of_enableCheck {s : State} {o : Nat} {h : ModelHeader} (hc : s.enableCheck o h = 0) : s.geomGood o = true := by
  cases hg : s.geomGood o with
  | true => rfl
  | false => simp [State.enableCheck, hg] at hc

/-! ### The pipes that show a slice (R49, R57) -/

/-- A slice as the pipes show it: none for the pixels is the blanket colour. -/
def State.shownOf (s : State) (tag : SliceTag) (pixels : Option (List Host.Cell)) : ShownSlice :=
  let S := s.synS tag.output.val
  let V := (s.synTiming tag.output.val).vActive
  { frame := tag.frame, slice := tag.slice.val, first := firstLine S V tag.slice.val, lines := sliceLines S V tag.slice.val,
    pixels := pixels }

/-- Is it what a pipe shows of this slice? -/
def shows (tag : SliceTag) (y : ShownSlice) : Bool := y.frame == tag.frame && y.slice == tag.slice.val

/-- One pipe shows a slice. -/
def State.showOn (s : State) (tag : SliceTag) (x : ShownSlice) (m : Nat) : State :=
  s.setPipe m { s.pipe m with shown := upsert (shows tag) x (s.pipe m).shown }

/-- Several pipes show a slice. -/
def State.showOnAll (s : State) (tag : SliceTag) (x : ShownSlice) (ms : List Nat) : State := ms.foldl (fun s m => s.showOn tag x m) s

theorem changesOnly_showOnAll (s : State) (tag : SliceTag) (x : ShownSlice) (ms : List Nat) :
    changesOnly [.dsp] s (s.showOnAll tag x ms) := changesOnly_foldl _ (fun s m => changesOnly_setPipe s m _) ms s

theorem shown_showOnAll (s : State) {tag : SliceTag} {x : ShownSlice} (hx : shows tag x = true) {ms : List Nat} {m : Nat} (hm : m < 5)
    (h : m ∈ ms ∨ (s.pipe m).shown.find? (shows tag) = some x) :
    ((s.showOnAll tag x ms).pipe m).shown.find? (shows tag) = some x := by
  induction ms generalizing s with
  | nil => simpa [State.showOnAll] using h
  | cons k ms ih =>
    refine ih (s.showOn tag x k) ?_
    by_cases hk : m = k
    · subst hk
      right
      rw [State.showOn, State.pipe_setPipe_self _ _ hm]
      exact find?_upsert_self hx _
    · rw [State.showOn, State.pipe_setPipe_ne _ _ hk]
      simpa [hk] using h

theorem shows_shownOf (s : State) (tag : SliceTag) (pixels : Option (List Host.Cell)) : shows tag (s.shownOf tag pixels) = true := by
  simp [shows, State.shownOf]

/-! ### The fetch of a slice (R57) -/

/-- Is the slice that a tag names final? -/
def State.finalAt (s : State) (tag : SliceTag) : Bool :=
  match s.run tag.output.val tag.frame tag.slice.val with
  | some y => y.final
  | none => false

/-- A fetch that meets a slice of a frame under synthesis that is not final decides it for blanket, and counts. -/
def State.guarded (s : State) (tag : SliceTag) : State :=
  if s.finalAt tag || (s.frameRec tag.output.val tag.frame).isNone then s
  else (s.decideOrigin tag.output.val tag.frame tag.slice.val 3).synCount tag.output.val R.SYN_CNT_GUARD 5

/-- The write window of a slice closes. -/
def State.shut (s : State) (tag : SliceTag) : State :=
  match s.run tag.output.val tag.frame tag.slice.val with
  | some y => s.putRun tag.output.val { y with window := false, direct := false }
  | none => s

/-- What a fetch makes of the slice before the pipes show it. -/
def State.fetched (s : State) (tag : SliceTag) : State :=
  match s.run tag.output.val tag.frame tag.slice.val, s.finalAt tag with
  | some _, false => (s.guarded tag).shut tag
  | _, _ => s.guarded tag

/-- What the pipes show of a slice. -/
def State.fetchedPixels (s : State) (tag : SliceTag) : Option (List Host.Cell) :=
  if s.finalAt tag then (s.run tag.output.val tag.frame tag.slice.val).map (·.data) else none

theorem exec_sliceFetch {s : State} {tag : SliceTag} {p : Nat} (hl : s.isLive) (hp : s.pipeOf tag.output.val = some p) :
    exec (.sliceFetch tag) s = .next (((s.fetched tag).showOnAll tag ((s.fetched tag).shownOf tag (s.fetchedPixels tag))
      ((s.fetched tag).readersOf p)).kept s) := by
  rw [show exec (.sliceFetch tag) s = execSliceFetch tag s from rfl, execSliceFetch, State.live_next s _ hl]
  simp only [hp]
  rfl

/-- The registers that a fetch may move. -/
def fetchRegs (o : Nat) : List Nat := regAddr R.SYN_CNT_GUARD [o] :: regAddr R.SYN_CNT_OVF [o] :: omapRegs o

theorem guarded_within (s : State) (tag : SliceTag) :
    ChangesWithin [.regs, .syn] (· ∈ fetchRegs tag.output.val) s (s.guarded tag) := by
  unfold State.guarded
  split
  · exact .refl _ _ s
  · refine ((decideOrigin_within s tag 3).mono (fun _ => id) fun a ha => ?_).trans
      ((synCount_within _ _ _ _).mono (by decide) fun a ha => ?_)
    · exact List.mem_cons_of_mem _ (List.mem_cons_of_mem _ ha)
    · simp only [List.mem_cons, List.not_mem_nil, or_false] at ha
      simp only [fetchRegs, List.mem_cons]
      tauto

theorem fetched_within (s : State) (tag : SliceTag) :
    ChangesWithin [.regs, .syn] (· ∈ fetchRegs tag.output.val) s (s.fetched tag) := by
  have hshut (t : State) : ChangesWithin [.regs, .syn] (· ∈ fetchRegs tag.output.val) t (t.shut tag) := by
    unfold State.shut
    split
    · exact .putRun _ _ _ (by decide)
    · exact .refl _ _ t
  unfold State.fetched
  split
  · exact (guarded_within s tag).trans (hshut _)
  · exact guarded_within s tag

theorem geomRegs_not_fetched : ∀ o, o < 4 → ∀ a ∈ geomRegs o, a ∉ fetchRegs o := by decide

theorem fetched_sameGeometry (s : State) (tag : SliceTag) : SameGeometry tag.output.val s (s.fetched tag) :=
  (fetched_within s tag).sameGeometry (by decide) (geomRegs_not_fetched _ tag.output.isLt)

/-- The readers of the pipe show the fetched slice on the lines of its own. -/
theorem shown_of_fetch (s : State) (tag : SliceTag) {p m : Nat} (hm : m ∈ s.readersOf p) (h5 : m < 5) :
    (((s.fetched tag).showOnAll tag ((s.fetched tag).shownOf tag (s.fetchedPixels tag)) ((s.fetched tag).readersOf p)).pipe m).shown.find?
      (shows tag) = some (s.shownOf tag (s.fetchedPixels tag)) := by
  have hg := fetched_sameGeometry s tag
  have hview : (s.fetched tag).shownOf tag (s.fetchedPixels tag) = s.shownOf tag (s.fetchedPixels tag) := by
    simp only [State.shownOf, hg.synS, hg.synTiming]
  rw [hview, hg.readersOf]
  exact shown_showOnAll _ (shows_shownOf s tag _) h5 (.inl hm)

end Sys2Proof.Machine

open Sys2Proof Sys2Proof.Machine

/-- Settles O5: SYN_GEOM gives 16, 32 or 64 slices where the check accepts it; the fetch shows a slice with the lines that
`firstLine` gives it, which rise with the slice from 0 to the number of lines. -/
theorem slicesCoverTheFrame : Obligations.SlicesCoverTheFrame := by
  unfold Obligations.SlicesCoverTheFrame
  have hlast (S V : Nat) (hS : S = 16 ∨ S = 32 ∨ S = 64) : S * V / S = V := Nat.mul_div_cancel_left V (by omega)
  refine ⟨fun s o h hc => synS_of_geomGood (geomGood_of_enableCheck hc), ?_, ?_, ?_⟩
  · intro s tag p m hl hp hm h5
    refine ⟨_, exec_sliceFetch hl hp, rfl, ?_⟩
    have hshown := shown_of_fetch s tag hm h5
    exact (congrArg _ hshown).trans (congrArg (fun l => some (firstLine _ _ _, l)) (firstLine_add_sliceLines _ _ _))
  · intro S V y hS hy
    refine existsUnique_step (firstLine_mono S V) ?_ ?_
    · simp [firstLine]
    · simpa [firstLine, hlast S V hS] using hy
  · intro S V hS
    rw [Nat.sub_add_cancel (by omega)]
    exact hlast S V hS
end

section
/-! PROOFS. Tagged writes, slice-done words, warp deadlines and fetches (R45, R51, R52, R54, R57). -/

namespace Sys2Proof.Machine

/-- A command of a stoppable block completes with what its effect leaves. -/
theorem completes_of_next {c : Instr} {s t : State} {parts : List Part} {post : State → Prop} (he : exec c s = .next (t.kept s))
    (hc : changesOnly parts s t) (hp : post (t.kept s)) : completes c s parts post := ⟨_, he, changesOnly_kept hc, hp⟩

/-! ### Bytes of a slice -/

section
variable {m : List Host.Cell} {a : Nat} {b : Byte} {bs : List Byte} {c : Host.Cell}

theorem mem_putCell_self (m : List Host.Cell) (a : Nat) (b : Byte) : (a, b) ∈ putCell m a b := by
  induction m with
  | nil => simp [putCell]
  | cons x m ih =>
    rw [putCell]
    split
    · exact List.mem_cons_self
    · split
      · exact List.mem_cons_self
      · exact List.mem_cons_of_mem _ ih

theorem mem_putCell_of_ne (h : c ∈ m) (hne : c.1 ≠ a) : c ∈ putCell m a b := by
  induction m with
  | nil => simp at h
  | cons x m ih =>
    rw [putCell]
    split
    · exact List.mem_cons_of_mem _ h
    · split
      · next hx =>
        obtain rfl | h := List.mem_cons.1 h
        · exact absurd hx hne
        · exact List.mem_cons_of_mem _ h
      · obtain rfl | h := List.mem_cons.1 h
        · exact List.mem_cons_self
        · exact List.mem_cons_of_mem _ (ih h)

theorem mem_of_mem_putCell (h : c ∈ putCell m a b) : c = (a, b) ∨ c ∈ m := by
  induction m with
  | nil => simpa [putCell] using h
  | cons x m ih =>
    rw [putCell] at h
    split at h
    · exact List.mem_cons.1 h
    · split at h <;> simp only [List.mem_cons] at h ⊢ <;> tauto

theorem mem_putCells_of_lt (h : c ∈ m) (hlt : c.1 < a) : c ∈ putCells m a bs := by
  induction bs generalizing m a with
  | nil => exact h
  | cons b bs ih => exact ih (mem_putCell_of_ne h (Nat.ne_of_lt hlt)) (Nat.lt_succ_of_lt hlt)

/-- A byte put is in the list. -/
theorem mem_putCells (m : List Host.Cell) (a : Nat) {i : Nat} (hi : i < bs.length) : (a + i, bs.getD i 0) ∈ putCells m a bs := by
  induction bs generalizing m a i with
  | nil => simp at hi
  | cons b bs ih =>
    cases i with
    | zero => exact mem_putCells_of_lt (m := putCell m a b) (a := a + 1) (bs := bs) (c := (a, b)) (mem_putCell_self m a b) (Nat.lt_succ_self a)
    | succ i =>
      have h := ih (putCell m a b) (a + 1) (i := i) (by simpa using hi)
      rwa [Nat.add_right_comm] at h

/-- What is in the list afterwards was there, or lies in the range put. -/
theorem mem_of_mem_putCells (h : c ∈ putCells m a bs) : c ∈ m ∨ (a ≤ c.1 ∧ c.1 < a + bs.length) := by
  induction bs generalizing m a with
  | nil => exact .inl h
  | cons b bs ih =>
    rw [List.length_cons]
    obtain h | h := ih h
    · obtain rfl | h := mem_of_mem_putCell h
      · exact .inr (by simp)
      · exact .inl h
    · exact .inr (by omega)

end

/-! ### Tagged writes (R45) -/

section
variable {s : State} {tag : SliceTag} {r : SliceRun}

/-- The entry of a slice into which a tagged write puts bytes, as far as the slice reaches. -/
def State.takes (s : State) (tag : SliceTag) (r : SliceRun) (offset : BitVec 24) (data : List Byte) : SliceRun :=
  { r with data := putCells r.data offset.toNat (data.take (5 * s.runPixels tag.output.val r - offset.toNat)) }

theorem exec_taggedSliceWrite_open (h : s.atSlice tag r) (hw : r.window = true) (offset : BitVec 24) (data : List Byte) :
    exec (.taggedSliceWrite tag offset data) s = .next ((s.putRun tag.output.val (s.takes tag r offset data)).kept s) := by
  obtain ⟨hl, -, hrun⟩ := h
  rw [show exec (.taggedSliceWrite tag offset data) s = execTaggedSliceWrite tag offset data s from rfl, execTaggedSliceWrite,
    State.live_next s _ hl]
  simp only [hrun, if_pos hw]
  rfl

/-- A write or a done word that meets no open window is counted and discarded. -/
theorem exec_late (hl : s.isLive) (h : ∀ r, s.run tag.output.val tag.frame tag.slice.val = some r → r.window = false) {c : Instr}
    {offset : BitVec 24} {data : List Byte} {word : Word} (hc : c ∈ [.taggedSliceWrite tag offset data, .sliceDoneWord tag word]) :
    exec c s = .next ((s.synCount tag.output.val R.SYN_CNT_LATEWRITE 4).kept s) := by
  simp only [List.mem_cons, List.not_mem_nil, or_false] at hc
  obtain rfl | rfl := hc
  · rw [show exec (.taggedSliceWrite tag offset data) s = execTaggedSliceWrite tag offset data s from rfl, execTaggedSliceWrite,
      State.live_next s _ hl]
    cases hrun : s.run tag.output.val tag.frame tag.slice.val with
    | none => simp [hrun]
    | some r => simp [hrun, h r hrun]
  · rw [show exec (.sliceDoneWord tag word) s = execSliceDoneWord tag word s from rfl, execSliceDoneWord, State.live_next s _ hl]
    cases hrun : s.run tag.output.val tag.frame tag.slice.val with
    | none => simp [hrun]
    | some r => simp [hrun, h r hrun]

/-- The bytes of a tagged write that the slice has room for are its bytes afterwards, and no others are new. -/
theorem taggedSliceWrite_completes (h : s.atSlice tag r) (hw : r.window = true) (offset : BitVec 24) (data : List Byte) :
    completes (.taggedSliceWrite tag offset data) s [.syn] fun t =>
      ∃ y, t.run tag.output.val tag.frame tag.slice.val = some y ∧ y = { r with data := y.data }
        ∧ (∀ i, i < data.length → offset.toNat + i < 5 * s.runPixels tag.output.val r → (offset.toNat + i, data.getD i 0) ∈ y.data)
        ∧ ∀ c ∈ y.data, c ∈ r.data ∨ (offset.toNat ≤ c.1 ∧ c.1 < offset.toNat + data.length ∧ c.1 < 5 * s.runPixels tag.output.val r) := by
  obtain ⟨-, hframe, hslice⟩ := State.run_some h.2.2
  refine completes_of_next (exec_taggedSliceWrite_open h hw offset data) (changesOnly_setOut s _ _)
    ⟨s.takes tag r offset data, ?_, rfl, fun i hi hroom => ?_, fun c hc => ?_⟩
  · have hput := State.run_putRun_self (s := s) tag.output.isLt (s.takes tag r offset data)
    rw [← hframe, ← hslice]
    exact hput
  · have hput := mem_putCells (bs := data.take (5 * s.runPixels tag.output.val r - offset.toNat)) r.data offset.toNat (i := i)
      (by rw [List.length_take]; omega)
    rwa [List.getD_eq_getElem?_getD, List.getElem?_take_of_lt (by omega), ← List.getD_eq_getElem?_getD] at hput
  · refine (mem_of_mem_putCells hc).imp id fun hr => ?_
    rw [List.length_take] at hr
    omega

/-! ### Slice-done words (R51, R52) -/

/-- The history of an output and the task of a slice, once its done word is accepted (R46, R53). -/
def State.acceptDone (s : State) (o : Nat) (r : SliceRun) (bad : Bool) : State :=
  match r.task with
  | some (q, seq) =>
    let t := s.setOut o { s.out o with
      users := mapIf (fun u : SliceUser => u.qid == q && u.seq == seq) (fun u : SliceUser => { u with accepted := true }) (s.out o).users }
    match t.task q seq with
    | some x => if bad then t.putTask { x with forced := some 0x15 } else t
    | none => t
  | none => s

/-- Does the confidence test of a slice's bytes fail, under these settings? -/
def SliceRun.fails (r : SliceRun) (conf : Word) (P : Nat) (bad : Bool) : Bool :=
  confidenceFails conf P (lowConfidence r.data P (bits conf 7 0)) bad

/-- The entry of a slice whose bytes are all there. -/
def SliceRun.finished (r : SliceRun) : SliceRun := { r with final := true }

/-- The state of a slice that its done word decides, by its bytes and their confidence. -/
def State.doneBy (s : State) (o : Nat) (r : SliceRun) (conf : Word) (bad : Bool) : State :=
  let P := s.runPixels o r
  if r.data.length < 5 * P then (s.synCount o R.SYN_CNT_SHORT 2).ladder o r.frame r.slice
  else if r.fails conf P bad then
    (s.synCount o R.SYN_CNT_LOWCONF 1).ladder o r.frame r.slice
  else (s.putRun o r.finished).decideOrigin o r.frame r.slice 0

/-- The confidence settings of a frame, or else those given (R52). -/
def State.confOr (s : State) (o : Nat) (frame dflt : Word) : Word :=
  match s.frameRec o frame with
  | some f => f.conf
  | none => dflt

theorem acceptDone_within (s : State) (o : Nat) (r : SliceRun) (bad : Bool) :
    ChangesWithin [.syn, .sch] (fun _ => False) s (s.acceptDone o r bad) := by
  have hsch (t : State) (x : SchState) : ChangesWithin [.syn, .sch] (fun _ => False) t (t.withSch x) := by
    refine .of_cfg (fun p hp => ?_) rfl rfl rfl
    cases p
    case sch => simp at hp
    all_goals rfl
  unfold State.acceptDone
  split
  · have hout (x : SynOut) : ChangesWithin [.syn, .sch] (fun _ => False) s (s.setOut o x) := .setOut s o x (by decide)
    dsimp only
    split
    · split
      · exact (hout _).trans (hsch _ _)
      · exact hout _
    · exact hout _
  · exact .refl _ _ s

/-- Accepting a done word leaves the entries and the frames of an output alone. -/
theorem acceptDone_out (s : State) {o : Nat} (ho : o < 4) (r : SliceRun) (bad : Bool) :
    ((s.acceptDone o r bad).out o).runs = (s.out o).runs ∧ ((s.acceptDone o r bad).out o).frames = (s.out o).frames := by
  have hsch (t : State) (x : Task) : (t.putTask x).out o = t.out o := rfl
  unfold State.acceptDone
  split
  · dsimp only
    split
    · split
      · rw [hsch, State.out_setOut_self _ _ ho]
        exact ⟨rfl, rfl⟩
      · rw [State.out_setOut_self _ _ ho]
        exact ⟨rfl, rfl⟩
    · rw [State.out_setOut_self _ _ ho]
      exact ⟨rfl, rfl⟩
  · exact ⟨rfl, rfl⟩

theorem confOr_acceptDone (s : State) {o : Nat} (ho : o < 4) (r : SliceRun) (bad : Bool) (frame dflt : Word) :
    (s.acceptDone o r bad).confOr o frame dflt = s.confOr o frame dflt := by
  rw [State.confOr, State.confOr, State.frameRec, (acceptDone_out s ho r bad).2]
  rfl

theorem exec_sliceDoneWord (h : s.atSlice tag r) (hw : r.window = true) (word : Word) :
    exec (.sliceDoneWord tag word) s = .next (((s.acceptDone tag.output.val r (natBit word.toNat 0)).doneBy tag.output.val r
      (s.confOr tag.output.val tag.frame (s.out tag.output.val).conf) (natBit word.toNat 0)).kept s) := by
  obtain ⟨hl, -, hrun⟩ := h
  have hopen : ¬(!r.window) = true := by simp [hw]
  rw [← confOr_acceptDone s tag.output.isLt r (natBit word.toNat 0), ← (State.run_some hrun).2.1,
    show exec (.sliceDoneWord tag word) s = execSliceDoneWord tag word s from rfl, execSliceDoneWord, State.live_next s _ hl]
  simp only [hrun, if_neg hopen]
  rfl

/-- The counters of slices that the ladder is asked for. -/
def ladderCounts : List Reg := [R.SYN_CNT_MISSED, R.SYN_CNT_LOWCONF, R.SYN_CNT_SHORT]

theorem ladderCounts_apart : ∀ cnt ∈ ladderCounts, ∀ o < 4, regAddr cnt [o] ≠ regAddr R.SYN_CNT_OVF [o] ∧ regAddr cnt [o] ∉ ladderRegs o
    ∧ ∀ a ∈ geomRegs o ++ warpStatusRegs, a ∉ [regAddr cnt [o], regAddr R.SYN_CNT_OVF [o]] := by decide

theorem wrpStatus_mem {p : Nat} (hp : p < 5) : regAddr R.WRP_STATUS [p] ∈ warpStatusRegs :=
  List.mem_map_of_mem ((mem_rangeFrom 0 5 p).2 ⟨Nat.zero_le p, by omega⟩)

/-- The ladder's answer rests on no register that a state differs in. -/
theorem ladderCode_of_within {parts : List Part} {moved : Nat → Prop} {t : State} {o : Nat} (h : ChangesWithin parts moved s t)
    (hd : Part.dsp ∉ parts) (hm : ∀ a ∈ geomRegs o ++ warpStatusRegs, ¬moved a) : t.ladderCode o = s.ladderCode o :=
  ladderCode_congr (h.sameGeometry hd fun a ha => hm a (List.mem_append_left _ ha))
    fun _ hp => h.rd (hm _ (List.mem_append_right _ (wrpStatus_mem hp)))

/-- A slice that is counted as missed, unsure or short takes the ladder, from a state that differs in no register. -/
theorem counted_ladder {parts : List Part} {u : State} (hu : ChangesWithin parts (fun _ => False) s u) (hdsp : Part.dsp ∉ parts)
    (hd : u.runsDistinct tag.output.val) (hrun : u.run tag.output.val tag.frame tag.slice.val = some r) {cnt : Reg} (b : Nat)
    (hcnt : cnt ∈ ladderCounts) :
    let t := (u.synCount tag.output.val cnt b).ladder tag.output.val tag.frame tag.slice.val
    changesOnly ([.regs, .syn] ++ parts) s t ∧ counted cnt [tag.output.val] s t ∧ ladderTaken tag s t := by
  obtain ⟨hovf, hladder, hapart⟩ := ladderCounts_apart cnt hcnt _ tag.output.isLt
  have hcount := synCount_within u tag.output.val cnt b
  have htaken := ladder_within (u.synCount tag.output.val cnt b) tag
  have hsyn : (u.synCount tag.output.val cnt b).syn = u.syn := hcount.part (p := .syn) (by decide)
  have hcode : (u.synCount tag.output.val cnt b).ladderCode tag.output.val = s.ladderCode tag.output.val :=
    (ladderCode_of_within hcount (by decide) hapart).trans (ladderCode_of_within hu hdsp fun _ _ => id)
  refine ⟨?_, ?_, ?_⟩
  · refine changesOnly_trans (parts := [.regs, .syn] ++ parts) (changesOnly_mono hu.parts fun _ => List.mem_append_right _)
      (changesOnly_trans (changesOnly_mono hcount.parts (by simp)) (changesOnly_mono htaken.parts (by simp)))
  · have hfirst : counted cnt [tag.output.val] s (u.synCount tag.output.val cnt b) := by
      have h := counted_countSat u b hovf
      rwa [counted, hu.rd id] at h
    exact counted_of_within hfirst htaken hladder
  · exact ladderTaken_congr hcode (ladderTaken_ladder (runsDistinct_congr hsyn hd) ((State.run_congr hsyn _ _ _).trans hrun))

/-- A done word accepted leaves the slice's entry, and differs in no register. -/
theorem atSlice_acceptDone (h : s.atSlice tag r) (bad : Bool) : (s.acceptDone tag.output.val r bad).runsDistinct tag.output.val
    ∧ (s.acceptDone tag.output.val r bad).run tag.output.val tag.frame tag.slice.val = some r := by
  have hruns := (acceptDone_out s tag.output.isLt r bad).1
  constructor
  · rw [State.runsDistinct, hruns]
    exact h.2.1
  · rw [State.run, hruns]
    exact h.2.2

theorem runPixels_acceptDone (bad : Bool) : (s.acceptDone tag.output.val r bad).runPixels tag.output.val r = s.runPixels tag.output.val r :=
  ((acceptDone_within s _ r bad).sameGeometry (by decide) fun _ _ => id).runPixels r

section
variable (h : s.atSlice tag r) (hw : r.window = true) (word : Word)
include h hw

/-- A done word that finds its slice short, or unsure, sends it to the ladder. -/
theorem sliceDoneWord_ladder {cnt : Reg} {b : Nat} (hcnt : cnt ∈ ladderCounts)
    (he : (s.acceptDone tag.output.val r (natBit word.toNat 0)).doneBy tag.output.val r
        (s.confOr tag.output.val tag.frame (s.out tag.output.val).conf) (natBit word.toNat 0)
      = ((s.acceptDone tag.output.val r (natBit word.toNat 0)).synCount tag.output.val cnt b).ladder tag.output.val tag.frame tag.slice.val) :
    completes (.sliceDoneWord tag word) s [.regs, .syn, .sch] fun t => counted cnt [tag.output.val] s t ∧ ladderTaken tag s t := by
  obtain ⟨hd, hrun⟩ := atSlice_acceptDone h (natBit word.toNat 0)
  obtain ⟨hparts, hcount, htaken⟩ := counted_ladder (acceptDone_within s _ r _) (by decide) hd hrun b hcnt
  have hexec := exec_sliceDoneWord h hw word
  rw [he] at hexec
  exact completes_of_next hexec (changesOnly_mono hparts (by simp)) ⟨hcount, htaken⟩

theorem sliceDoneWord_short (hshort : r.data.length < 5 * s.runPixels tag.output.val r) :
    completes (.sliceDoneWord tag word) s [.regs, .syn, .sch] fun t =>
      counted R.SYN_CNT_SHORT [tag.output.val] s t ∧ ladderTaken tag s t := by
  refine sliceDoneWord_ladder h hw word (b := 2) (by simp [ladderCounts]) ?_
  obtain ⟨-, hframe, hslice⟩ := State.run_some h.2.2
  rw [State.doneBy, runPixels_acceptDone, if_pos hshort, hframe, hslice]

theorem sliceDoneWord_unsure (hfull : 5 * s.runPixels tag.output.val r ≤ r.data.length)
    (hfails : r.fails (s.confOr tag.output.val tag.frame (s.out tag.output.val).conf) (s.runPixels tag.output.val r)
      (natBit word.toNat 0) = true) :
    completes (.sliceDoneWord tag word) s [.regs, .syn, .sch] fun t =>
      counted R.SYN_CNT_LOWCONF [tag.output.val] s t ∧ ladderTaken tag s t := by
  refine sliceDoneWord_ladder h hw word (b := 1) (by simp [ladderCounts]) ?_
  obtain ⟨-, hframe, hslice⟩ := State.run_some h.2.2
  rw [State.doneBy, runPixels_acceptDone, if_neg (Nat.not_lt.2 hfull), if_pos hfails, hframe, hslice]

theorem sliceDoneWord_synthesized (hfull : 5 * s.runPixels tag.output.val r ≤ r.data.length)
    (hfails : r.fails (s.confOr tag.output.val tag.frame (s.out tag.output.val).conf) (s.runPixels tag.output.val r)
      (natBit word.toNat 0) = false) :
    completes (.sliceDoneWord tag word) s [.regs, .syn, .sch] fun t =>
      sliceIs tag { r with final := true, origin := some 0, window := false, direct := false } 0 t := by
  obtain ⟨-, hframe, hslice⟩ := State.run_some h.2.2
  have hexec := exec_sliceDoneWord h hw word
  rw [State.doneBy, runPixels_acceptDone, if_neg (Nat.not_lt.2 hfull), if_neg (Bool.eq_false_iff.1 hfails), hframe,
    hslice] at hexec
  refine completes_of_next hexec ?_ (sliceIs_decideOrigin (r := r.finished) ?_ 0)
  · exact changesOnly_trans (changesOnly_mono (acceptDone_within s _ r _).parts (by simp))
      (changesOnly_trans (changesOnly_mono (changesOnly_setOut _ _ _) (by simp))
        (changesOnly_mono (decideOrigin_within _ tag 0).parts (by simp)))
  · have hput := State.run_putRun_self (s := s.acceptDone tag.output.val r (natBit word.toNat 0)) tag.output.isLt r.finished
    rw [← hframe, ← hslice]
    exact hput

end

end

end Sys2Proof.Machine
end

section
/-! PROOFS. Late writes, fallback points, warp deadlines and fetches of released slices (R45, R51, R54, R57). -/

namespace Sys2Proof.Machine

section
variable {s : State} {tag : SliceTag} {r : SliceRun}

/-! ### Late writes and done words (R45) -/

theorem lateWrite_apart : ∀ o < 4, regAddr R.SYN_CNT_LATEWRITE [o] ≠ regAddr R.SYN_CNT_OVF [o] := by decide

theorem late_completes (hl : s.isLive) (h : ∀ r, s.run tag.output.val tag.frame tag.slice.val = some r → r.window = false)
    {offset : BitVec 24} {data : List Byte} {word : Word} {c : Instr}
    (hc : c ∈ [.taggedSliceWrite tag offset data, .sliceDoneWord tag word]) :
    completes c s [.regs] fun t => counted R.SYN_CNT_LATEWRITE [tag.output.val] s t
      ∧ sameRegsBut [regAddr R.SYN_CNT_LATEWRITE [tag.output.val], regAddr R.SYN_CNT_OVF [tag.output.val]] s t := by
  have hcount := synCount_within s tag.output.val R.SYN_CNT_LATEWRITE 4
  exact completes_of_next (exec_late hl h hc) hcount.parts
    ⟨counted_countSat s 4 (lateWrite_apart _ tag.output.isLt), hcount.regs⟩

/-! ### The fallback point (R51) -/

/-- The state of a slice that its fallback point sends to the ladder. -/
def State.missed (s : State) (tag : SliceTag) : State :=
  (s.synCount tag.output.val R.SYN_CNT_MISSED 0).ladder tag.output.val tag.frame tag.slice.val

/-- The task of a slice that missed its fallback point is cancelled. -/
def State.cancelTaskOf (s : State) (r : SliceRun) : State :=
  match r.task with
  | some (q, seq) => s.cancelEntry q seq 0x14
  | none => s

theorem exec_fallbackPoint_missed (h : s.atSlice tag r) (horigin : r.origin = none) :
    exec (.fallbackPoint tag) s = .next (((s.missed tag).cancelTaskOf r).kept s) := by
  obtain ⟨hl, -, hrun⟩ := h
  obtain ⟨-, hframe, hslice⟩ := State.run_some hrun
  have hopen : ¬r.origin.isSome = true := by simp [horigin]
  rw [State.missed, ← hframe, ← hslice, show exec (.fallbackPoint tag) s = execFallbackPoint tag s from rfl, execFallbackPoint,
    State.live_next s _ hl]
  simp only [hrun, if_neg hopen]
  rfl

theorem fallbackPoint_decided (h : s.atSlice tag r) (horigin : r.origin.isSome = true) : exec (.fallbackPoint tag) s = .next s := by
  obtain ⟨hl, -, hrun⟩ := h
  rw [show exec (.fallbackPoint tag) s = execFallbackPoint tag s from rfl, execFallbackPoint, State.live_next s _ hl]
  simp only [hrun, if_pos horigin]
  rfl

theorem counted_missed (h : s.atSlice tag r) : changesOnly [.regs, .syn] s (s.missed tag)
    ∧ counted R.SYN_CNT_MISSED [tag.output.val] s (s.missed tag) ∧ ladderTaken tag s (s.missed tag) :=
  counted_ladder (.refl [] _ s) (by simp) h.2.1 h.2.2 0 (by simp [ladderCounts])

theorem fallbackPoint_without_task (h : s.atSlice tag r) (horigin : r.origin = none) (htask : r.task = none) :
    completes (.fallbackPoint tag) s [.regs, .syn] fun t =>
      counted R.SYN_CNT_MISSED [tag.output.val] s t ∧ ladderTaken tag s t := by
  have hexec := exec_fallbackPoint_missed h horigin
  rw [State.cancelTaskOf, htask] at hexec
  obtain ⟨hparts, hcount⟩ := counted_missed h
  exact completes_of_next hexec hparts hcount

/-! ### The deadline of a warp (R54) -/

theorem warpDeadline_warped (h : s.atSlice tag r) (horigin : r.origin = some 1) (hfinal : r.final = false) :
    completes (.warpDeadline tag) s [.regs, .syn] fun t =>
      sliceIs tag { r with origin := some 3, window := false, direct := false } 3 t := by
  obtain ⟨hl, -, hrun⟩ := h
  obtain ⟨-, hframe, hslice⟩ := State.run_some hrun
  have hexec : exec (.warpDeadline tag) s = .next ((s.decideOrigin tag.output.val tag.frame tag.slice.val 3).kept s) := by
    rw [← hframe, ← hslice, show exec (.warpDeadline tag) s = execWarpDeadline tag s from rfl, execWarpDeadline, State.live_next s _ hl]
    simp only [hrun, horigin, hfinal]
    rfl
  exact completes_of_next hexec (decideOrigin_within s tag 3).parts (sliceIs_decideOrigin hrun 3)

theorem warpDeadline_over (h : s.atSlice tag r) (hover : r.origin ≠ some 1 ∨ r.final = true) : exec (.warpDeadline tag) s = .next s := by
  obtain ⟨hl, -, hrun⟩ := h
  have hnot : ¬(r.origin == some 1 && !r.final) = true := by simpa [Classical.or_iff_not_imp_left] using hover
  rw [show exec (.warpDeadline tag) s = execWarpDeadline tag s from rfl, execWarpDeadline, State.live_next s _ hl]
  simp only [hrun, if_neg hnot]
  rfl

/-! ### The fetch of a released slice (R57) -/

theorem finalAt_of_run (hrun : s.run tag.output.val tag.frame tag.slice.val = some r) : s.finalAt tag = r.final := by
  rw [State.finalAt, hrun]

theorem fetched_of_final (hrun : s.run tag.output.val tag.frame tag.slice.val = some r) (hfinal : r.final = true) :
    s.fetched tag = s := by
  have hat := (finalAt_of_run hrun).trans hfinal
  simp [State.fetched, State.guarded, hrun, hat]

theorem sliceFetch_final {p : Nat} (h : s.atSlice tag r) (hp : s.pipeOf tag.output.val = some p) (hfinal : r.final = true) :
    completes (.sliceFetch tag) s [.dsp] fun t => ∀ m ∈ s.readersOf p, m < 5 →
      ((t.pipe m).shown.find? fun y => y.frame == tag.frame && y.slice == tag.slice.val).map (·.pixels) = some (some r.data) := by
  obtain ⟨hl, -, hrun⟩ := h
  refine completes_of_next (exec_sliceFetch hl hp) ?_ fun m hm h5 => ?_
  · rw [fetched_of_final hrun hfinal]
    exact changesOnly_showOnAll _ _ _ _
  · refine (congrArg _ (shown_of_fetch s tag hm h5)).trans ?_
    simp [State.shownOf, State.fetchedPixels, finalAt_of_run hrun, hfinal, hrun]

theorem guard_apart : ∀ o < 4, regAddr R.SYN_CNT_GUARD [o] ≠ regAddr R.SYN_CNT_OVF [o] ∧ regAddr R.SYN_CNT_GUARD [o] ∉ omapRegs o := by
  decide

/-- A fetch that meets a slice that is not final decides it for blanket, counts it and shuts its window. -/
theorem fetched_of_not_final {f : FrameRec} (hrun : s.run tag.output.val tag.frame tag.slice.val = some r) (hfinal : r.final = false)
    (hframe : s.frameRec tag.output.val tag.frame = some f) : s.fetched tag
      = ((s.decideOrigin tag.output.val tag.frame tag.slice.val 3).synCount tag.output.val R.SYN_CNT_GUARD 5).putRun tag.output.val
          (r.decided 3) := by
  have hat := (finalAt_of_run hrun).trans hfinal
  have hdecided : ((s.decideOrigin tag.output.val tag.frame tag.slice.val 3).synCount tag.output.val R.SYN_CNT_GUARD 5).run
      tag.output.val tag.frame tag.slice.val = some (r.decided 3) :=
    (State.run_congr ((synCount_within _ _ _ _).part (p := .syn) (by decide)) _ _ _).trans
      (run_decideOrigin_self tag.output.isLt hrun 3)
  have hguarded : s.guarded tag
      = (s.decideOrigin tag.output.val tag.frame tag.slice.val 3).synCount tag.output.val R.SYN_CNT_GUARD 5 := by
    simp [State.guarded, hat, hframe]
  rw [State.fetched, hrun, hat]
  dsimp only
  rw [hguarded, State.shut, hdecided]
  rfl

/-- What is counted after a step that moves no such counter has been counted since before it. -/
theorem counted_after {parts : List Part} {moved : Nat → Prop} {c : Reg} {ix : List Nat} {t u : State}
    (hw : ChangesWithin parts moved s t) (hr : ¬moved (regAddr c ix)) (h : counted c ix t u) : counted c ix s u := by
  rwa [counted, hw.rd hr] at h

theorem counted_fetched {f : FrameRec} (hrun : s.run tag.output.val tag.frame tag.slice.val = some r) (hfinal : r.final = false)
    (hframe : s.frameRec tag.output.val tag.frame = some f) : counted R.SYN_CNT_GUARD [tag.output.val] s (s.fetched tag) := by
  obtain ⟨hovf, hmap⟩ := guard_apart _ tag.output.isLt
  rw [fetched_of_not_final hrun hfinal hframe]
  exact counted_after (decideOrigin_within s tag 3) hmap
    (counted_of_within (counted_countSat _ 5 hovf) (.putRun (parts := [.syn]) (moved := fun _ => False) _ _ _ (by simp)) id)

theorem counted_kept {t u : State} {c : Reg} {ix : List Nat} (h : counted c ix s t) : counted c ix s (t.kept u) := h

theorem sliceIs_congr {code : Nat} {t u : State} (hsyn : t.syn = u.syn) (h : sliceIs tag r code u) : sliceIs tag r code t :=
  ⟨(State.run_congr hsyn _ _ _).trans h.1, fun x hx => h.2 x ((State.frameRec_congr hsyn _ _).symm.trans hx)⟩

theorem sliceIs_fetched {f : FrameRec} (hrun : s.run tag.output.val tag.frame tag.slice.val = some r) (hfinal : r.final = false)
    (hframe : s.frameRec tag.output.val tag.frame = some f) : sliceIs tag (r.decided 3) 3 (s.fetched tag) := by
  obtain ⟨-, hrf, hrs⟩ := State.run_some hrun
  have ho := tag.output.isLt
  have hcount : ((s.decideOrigin tag.output.val tag.frame tag.slice.val 3).synCount tag.output.val R.SYN_CNT_GUARD 5).syn
      = (s.decideOrigin tag.output.val tag.frame tag.slice.val 3).syn := (synCount_within _ _ _ _).part (p := .syn) (by decide)
  rw [fetched_of_not_final hrun hfinal hframe]
  refine ⟨?_, fun y hy => originOf_decideOrigin ho (s := s) (f := tag.frame) ?_⟩
  · rw [← hrf, ← hrs]
    exact State.run_putRun_self ho (r.decided 3)
  · rwa [State.frameRec_putRun ho, State.frameRec_congr hcount] at hy

theorem sliceIs_kept {code : Nat} {t u : State} (h : sliceIs tag r code t) : sliceIs tag r code (t.kept u) := h

theorem showOnAll_within (s : State) (tag : SliceTag) (x : ShownSlice) (ms : List Nat) :
    ChangesWithin [.dsp] (fun _ => False) s (s.showOnAll tag x ms) :=
  .foldl _ _ s fun s m _ => .of_cfg (changesOnly_setPipe s m _) rfl rfl rfl

theorem sliceFetch_guarded {p : Nat} {f : FrameRec} (h : s.atSlice tag r) (hp : s.pipeOf tag.output.val = some p)
    (hfinal : r.final = false) (hframe : s.frameRec tag.output.val tag.frame = some f) :
    completes (.sliceFetch tag) s [.regs, .syn, .dsp] fun t => counted R.SYN_CNT_GUARD [tag.output.val] s t
      ∧ sliceIs tag { r with origin := some 3, window := false, direct := false } 3 t
      ∧ ∀ m ∈ s.readersOf p, m < 5 →
        ((t.pipe m).shown.find? fun y => y.frame == tag.frame && y.slice == tag.slice.val).map (·.pixels) = some none := by
  obtain ⟨hl, -, hrun⟩ := h
  have hshow := showOnAll_within (s.fetched tag) tag ((s.fetched tag).shownOf tag (s.fetchedPixels tag)) ((s.fetched tag).readersOf p)
  have hparts := changesOnly_trans (parts := [.regs, .syn, .dsp]) (changesOnly_mono (fetched_within s tag).parts (by simp))
    (changesOnly_mono hshow.parts (by simp))
  have hsyn := hshow.part (p := .syn) (by decide)
  refine completes_of_next (exec_sliceFetch hl hp) hparts ⟨?_, ?_, fun m hm h5 => ?_⟩
  · exact counted_kept (counted_of_within (counted_fetched hrun hfinal hframe) hshow id)
  · exact sliceIs_kept (sliceIs_congr hsyn (sliceIs_fetched hrun hfinal hframe))
  · refine (congrArg _ (shown_of_fetch s tag hm h5)).trans ?_
    simp [State.shownOf, State.fetchedPixels, finalAt_of_run hrun, hfinal]

end

end Sys2Proof.Machine
end

section
/-! PROOFS. Keyframe-direct copies and the ends of warps (R54, R56). -/

namespace Sys2Proof.Machine

section
variable {s : State} {tag : SliceTag} {r : SliceRun}

/-! ### Keyframe-direct copies (R56) -/

/-- Rows that can be read one by one are read together. -/
theorem mapM_rangeFrom_eq_some {β : Type} {f : Nat → Option β} {d : β} {rows : List β} (a : Nat)
    (h : ∀ y < rows.length, f (a + y) = some (rows.getD y d)) : (rangeFrom a rows.length).mapM f = some rows := by
  induction rows generalizing a with
  | nil => rfl
  | cons x rows ih =>
    have hx : f a = some x := h 0 (by simp)
    have hrest : (rangeFrom (a + 1) rows.length).mapM f = some rows := ih (a + 1) fun y hy => by
      have hnext := h (y + 1) (by simpa using hy)
      rwa [← Nat.add_assoc, Nat.add_right_comm] at hnext
    rw [List.length_cons, rangeFrom, List.mapM_cons, hx, hrest]
    rfl

/-- The rows of a slice in its keyframe, which a keyframe-direct copy reads. -/
def State.directReads (s : State) (o : Nat) (r : SliceRun) (k : Keyframe) : List (Nat × Nat) :=
  (rangeFrom 0 (sliceLines (s.synS o) (s.synTiming o).vActive r.slice)).map fun y =>
    (k.disp + (firstLine (s.synS o) (s.synTiming o).vActive r.slice + y) * k.dispPitch, 4 * (s.synTiming o).hActive)

/-- The entry of a slice with these bytes, all there. -/
def SliceRun.holding (r : SliceRun) (data : List Host.Cell) : SliceRun := { r with data := data, final := true }

/-- What a keyframe-direct copy leaves, of the slice's bytes where it is good. -/
def State.directDone (s : State) (o : Nat) (r : SliceRun) (rows : List (List Byte)) (good : Bool) : State :=
  if good then (s.putRun o (r.holding (cellsOf rows.flatten))).decideOrigin o r.frame r.slice 2 else s.ladder o r.frame r.slice

/-- A row of a slice in its keyframe, where it can be read. -/
def State.directRow (s : State) (o : Nat) (r : SliceRun) (k : Keyframe) (y : Nat) : Option (List Byte) :=
  match s.readFor (s.synCtx o) (k.disp + (firstLine (s.synS o) (s.synTiming o).vActive r.slice + y) * k.dispPitch)
    (4 * (s.synTiming o).hActive) with
  | .ok bs => some bs
  | _ => none

/-- What the end of a keyframe-direct copy of these rows leaves. -/
def State.directEnd (s : State) (o : Nat) (r : SliceRun) (k : Keyframe) (good : Bool) : Option (List (List Byte)) → State
  | some rows => (s.synRead o (s.directReads o r k)).directDone o r rows good
  | none => s.ladder o r.frame r.slice

theorem exec_keyframeDirectEnd {k : Keyframe} (h : s.atSlice tag r) (hdirect : r.direct = true) (horigin : r.origin = none)
    (hk : (s.out tag.output.val).keyframe (s.kfIndex tag.output.val tag.frame) = some k) (hdisp : k.disp ≠ 0) (good : Bool) :
    exec (.keyframeDirectEnd tag good) s = .next ((s.directEnd tag.output.val r k good
      ((rangeFrom 0 (sliceLines (s.synS tag.output.val) (s.synTiming tag.output.val).vActive r.slice)).mapM
        (s.directRow tag.output.val r k))).kept s) := by
  obtain ⟨hl, -, hrun⟩ := h
  have hopen : ¬(!r.direct || r.origin.isSome) = true := by simp [hdirect, horigin]
  rw [← (State.run_some hrun).2.1] at hk
  rw [show exec (.keyframeDirectEnd tag good) s = execKeyframeDirectEnd tag good s from rfl, execKeyframeDirectEnd,
    State.live_next s _ hl]
  simp only [hrun, if_neg hopen, hk, if_neg hdisp]
  rfl

/-- No register of traffic tells a state of the ladder, or of the geometry of an output. -/
theorem geomRegs_not_traffic : ∀ o < 4, ∀ a ∈ geomRegs o ++ warpStatusRegs, ¬∃ b ∈ trafficPages, b ≤ a ∧ a < b + 0x1000 := by decide

section
variable {k : Keyframe} {rows : List (List Byte)} (h : s.atSlice tag r) (hdirect : r.direct = true) (horigin : r.origin = none)
  (hk : (s.out tag.output.val).keyframe (s.kfIndex tag.output.val tag.frame) = some k) (hdisp : k.disp ≠ 0)
  (hlines : rows.length = sliceLines (s.synS tag.output.val) (s.synTiming tag.output.val).vActive tag.slice.val)
  (hrows : ∀ y, y < rows.length → s.readFor (s.synCtx tag.output.val)
    (k.disp + (firstLine (s.synS tag.output.val) (s.synTiming tag.output.val).vActive tag.slice.val + y) * k.dispPitch)
    (4 * (s.synTiming tag.output.val).hActive) = .ok (rows.getD y []))
include h hdirect horigin hk hdisp hlines hrows

/-- A copy whose rows can be read has them. -/
theorem exec_keyframeDirectEnd_rows (good : Bool) : exec (.keyframeDirectEnd tag good) s = .next
    (((s.synRead tag.output.val (s.directReads tag.output.val r k)).directDone tag.output.val r rows good).kept s) := by
  have hcopy : (rangeFrom 0 (sliceLines (s.synS tag.output.val) (s.synTiming tag.output.val).vActive r.slice)).mapM
      (s.directRow tag.output.val r k) = some rows := by
    rw [(State.run_some h.2.2).2.2, ← hlines]
    refine mapM_rangeFrom_eq_some (d := []) 0 fun y hy => ?_
    rw [State.directRow, (State.run_some h.2.2).2.2, Nat.zero_add, hrows y hy]
  rw [exec_keyframeDirectEnd h hdirect horigin hk hdisp, hcopy]
  rfl

theorem keyframeDirectEnd_good :
    completes (.keyframeDirectEnd tag true) s [.free, .regs, .syn, .sct, .sch] fun t =>
      sliceIs tag { r with data := cellsOf rows.flatten, final := true, origin := some 2, window := false, direct := false } 2 t := by
  have hexec := exec_keyframeDirectEnd_rows h hdirect horigin hk hdisp hlines hrows true
  obtain ⟨-, hframe, hslice⟩ := State.run_some h.2.2
  have hread := synRead_within s tag.output.val (s.directReads tag.output.val r k)
  have hput := State.run_putRun_self (s := s.synRead tag.output.val (s.directReads tag.output.val r k)) tag.output.isLt
    (r.holding (cellsOf rows.flatten))
  rw [show (r.holding (cellsOf rows.flatten)).frame = tag.frame from hframe,
    show (r.holding (cellsOf rows.flatten)).slice = tag.slice.val from hslice] at hput
  rw [State.directDone, if_pos rfl, hframe, hslice] at hexec
  refine completes_of_next hexec ?_ (sliceIs_kept (sliceIs_decideOrigin hput 2))
  exact changesOnly_trans (changesOnly_mono hread.parts (by simp)) (changesOnly_trans
    (changesOnly_mono (changesOnly_setOut _ _ _) (by simp)) (changesOnly_mono (decideOrigin_within _ tag 2).parts (by simp)))

theorem keyframeDirectEnd_bad :
    completes (.keyframeDirectEnd tag false) s [.free, .regs, .syn, .sct, .sch] fun t => ladderTaken tag s t := by
  have hexec := exec_keyframeDirectEnd_rows h hdirect horigin hk hdisp hlines hrows false
  obtain ⟨-, hd, hrun⟩ := h
  obtain ⟨-, hframe, hslice⟩ := State.run_some hrun
  have hread := synRead_within s tag.output.val (s.directReads tag.output.val r k)
  have hsyn := hread.part (p := .syn) (by decide)
  have hcode := ladderCode_of_within hread (by decide) (geomRegs_not_traffic _ tag.output.isLt)
  rw [State.directDone, if_neg (by decide), hframe, hslice] at hexec
  refine completes_of_next hexec ?_ (ladderTaken_congr hcode (ladderTaken_ladder (runsDistinct_congr hsyn hd)
    ((State.run_congr hsyn _ _ _).trans hrun)))
  exact changesOnly_trans (changesOnly_mono hread.parts (by simp)) (changesOnly_mono (ladder_within _ tag).parts (by simp))

end

end

end Sys2Proof.Machine
end

section
/-! PROOFS. The end of the warp of a slice (R54, R77). -/

namespace Sys2Proof.Machine

section
variable {s : State} {tag : SliceTag} {r : SliceRun}

/-- The entry of a slice whose warp is over. -/
def SliceRun.warpedOut (r : SliceRun) : SliceRun := { r with warp := none, warpCopying := false }

/-- The newer keyframe that the warps of a frame rest on. -/
def State.warpNewer (s : State) (o : Nat) (frame : Word) : Option Keyframe :=
  (s.frameRec o frame).bind fun f => f.pair.map fun k => k.1

/-- The traffic of a warp has passed, and its time shows. -/
def State.warpTimed (s : State) (o p : Nat) (r : SliceRun) (newer : Option Keyframe) : State :=
  (s.warpTraffic o p r.slice newer).poke R.WRP_LAST_NS [p] (BitVec.ofNat 32 (tWarp ((s.warpTraffic o p r.slice newer).runPixels o r)))

/-- The end of a warp shows in its unit's status. -/
def State.warpShown (s : State) (p : Nat) (failed : Bool) : State := (s.setBit R.WRP_STATUS [p] 0 false).setBit R.WRP_STATUS [p] 16 failed

/-- A warp gives its slice these pixels, or none where it ends in error. -/
def State.warpGives (s : State) (o p : Nat) (r : SliceRun) : Option (List Byte) → State
  | some bs =>
    if r.origin == some 1 then (s.count R.WRP_COUNT [p] 1).putRun o (r.warpedOut.holding (cellsOf bs))
    else (s.count R.WRP_COUNT [p] 1).putRun o r.warpedOut
  | none =>
    if r.origin == some 1 then
      ((s.countSat R.WRP_ERR_COUNT [p] 1 R.WRP_STATUS [p] 31).putRun o r.warpedOut).decideOrigin o r.frame r.slice 3
    else (s.countSat R.WRP_ERR_COUNT [p] 1 R.WRP_STATUS [p] 31).putRun o r.warpedOut

/-- The unit's banks show, and it goes on to its next slice. -/
def State.warpsOn (s : State) (o p : Nat) : State := (s.bankFlags o).nextWarp o p (s.out o).runs.length

/-- What a warp leaves that gives these pixels. -/
def State.warpEnded (s : State) (o p : Nat) (r : SliceRun) (newer : Option Keyframe) (px : Option (List Byte)) : State :=
  (((s.warpTimed o p r newer).warpShown p px.isNone).warpGives o p r px).warpsOn o p

theorem exec_warpEnd {p b : Nat} {records : List Byte} (h : s.atSlice tag r) (hp : s.pipeOf tag.output.val = some p)
    (hwarp : r.warp = some (b, records)) : exec (.warpEnd tag) s = .next
      ((s.warpEnded tag.output.val p r (s.warpNewer tag.output.val tag.frame)
        (s.warpSlice tag.output.val p tag.frame tag.slice.val records (s.warpNewer tag.output.val tag.frame))).kept s) := by
  obtain ⟨hl, -, hrun⟩ := h
  obtain ⟨-, hframe, hslice⟩ := State.run_some hrun
  rw [show exec (.warpEnd tag) s = execWarpEnd tag s from rfl, execWarpEnd, State.live_next s _ hl]
  simp only [hp, hrun, hwarp]
  rw [← hframe, ← hslice]
  rfl

/-! ### What each part moves -/

/-- The registers of a warp unit that count its warps and show the time of the last. -/
def warpCounters (p : Nat) : List Nat := [regAddr R.WRP_LAST_NS [p], regAddr R.WRP_COUNT [p], regAddr R.WRP_ERR_COUNT [p]]

theorem warpCounters_apart : ∀ p < 5, (warpCounters p).Nodup ∧ ∀ a ∈ warpCounters p, a < 0x1C1060 ∧ a ≠ regAddr R.WRP_STATUS [p]
    ∧ (∀ o < 4, a ∉ warpRegs o p ∧ a ∉ omapRegs o) ∧ ∀ b ∈ trafficPages, ¬(b ≤ a ∧ a < b + 0x1000) := by decide

theorem warpShown_within (s : State) (p : Nat) (failed : Bool) :
    ChangesWithin [.regs] (· = regAddr R.WRP_STATUS [p]) s (s.warpShown p failed) :=
  .trans (t := s.setBit R.WRP_STATUS [p] 0 false) (.setBit _ _ _ _ _ (by decide) rfl) (.setBit _ _ _ _ _ (by decide) rfl)

theorem warpsOn_within (s : State) (o p : Nat) : ChangesWithin [.regs, .syn] (nextWarpRegs o p) s (s.warpsOn o p) :=
  (bankFlags_within s o (by simp) (.inl (by simp [warpRegs]))).trans (nextWarp_within _ o p _)

/-- The unit goes on without touching a slice that does not wait for it. -/
theorem run_warpsOn {o p : Nat} (ho : o < 4) (hd : s.runsDistinct o) {f : Word} {n : Nat}
    (h : ∀ r, s.run o f n = some r → r.waitsWarp = false) : (s.warpsOn o p).run o f n = s.run o f n := by
  have hsyn : (s.bankFlags o).syn = s.syn := rfl
  refine (run_nextWarp ho p _ (runsDistinct_congr hsyn hd) fun r hr => h r ?_).trans (State.run_congr hsyn _ _ _)
  exact (State.run_congr hsyn _ _ _).symm.trans hr

/-- The registers that a warp's traffic and time move. -/
abbrev warpTimedRegs (p a : Nat) : Prop := trafficRegs a ∨ a = regAddr R.WRP_LAST_NS [p]

theorem warpTimed_within (s : State) (o p : Nat) (r : SliceRun) (newer : Option Keyframe) :
    ChangesWithin trafficParts (warpTimedRegs p) s (s.warpTimed o p r newer) :=
  ((warpTraffic_within s o p r.slice newer).mono (fun _ => id) fun _ => Or.inl).trans (.poke _ _ _ _ (by simp) (.inr rfl))

theorem geometry_not_traffic : ∀ o < 4, ∀ a ∈ geomRegs o, ¬trafficRegs a := fun o ho a ha =>
  geomRegs_not_traffic o ho a (List.mem_append_left _ ha)

theorem rd_warpTimed (s : State) {o : Nat} (ho : o < 4) (p : Nat) (r : SliceRun) (newer : Option Keyframe) :
    (s.warpTimed o p r newer).rd R.WRP_LAST_NS [p] = BitVec.ofNat 32 (tWarp (s.runPixels o r)) := by
  rw [State.warpTimed, State.rd_poke_self,
    ((warpTraffic_within s o p r.slice newer).sameGeometry (by decide) (geometry_not_traffic o ho)).runPixels]

/-- The registers that the pixels of a warp, or its error, move. -/
abbrev warpGivesRegs (o p a : Nat) : Prop :=
  a = regAddr R.WRP_COUNT [p] ∨ a = regAddr R.WRP_ERR_COUNT [p] ∨ a = regAddr R.WRP_STATUS [p] ∨ a ∈ omapRegs o

theorem warpGives_within (s : State) (p : Nat) (hframe : r.frame = tag.frame) (hslice : r.slice = tag.slice.val) (px : Option (List Byte)) :
    ChangesWithin [.regs, .syn] (warpGivesRegs tag.output.val p) s (s.warpGives tag.output.val p r px) := by
  have hput (t : State) (x : SliceRun) : ChangesWithin [.regs, .syn] (warpGivesRegs tag.output.val p) t (t.putRun tag.output.val x) :=
    .putRun _ _ _ (by simp)
  cases px with
  | some bs =>
    have hcount : ChangesWithin [.regs, .syn] (warpGivesRegs tag.output.val p) s (s.count R.WRP_COUNT [p] 1) :=
      .count _ _ _ _ (by simp) (.inl rfl)
    rw [State.warpGives]
    split
    · exact hcount.trans (hput _ _)
    · exact hcount.trans (hput _ _)
  | none =>
    have hcount : ChangesWithin [.regs, .syn] (warpGivesRegs tag.output.val p) s (s.countSat R.WRP_ERR_COUNT [p] 1 R.WRP_STATUS [p] 31) :=
      .countSat _ _ _ _ _ _ _ (by simp) (.inr (.inl rfl)) (.inr (.inr (.inl rfl)))
    rw [State.warpGives, hframe, hslice]
    split
    · exact (hcount.trans (hput _ _)).trans ((decideOrigin_within _ tag 3).mono (fun _ => id) fun _ ha => .inr (.inr (.inr ha)))
    · exact hcount.trans (hput _ _)

/-- The state from which a warp gives its slice the pixels. -/
def State.warpBefore (s : State) (o p : Nat) (r : SliceRun) (newer : Option Keyframe) (px : Option (List Byte)) : State :=
  (s.warpTimed o p r newer).warpShown p px.isNone

theorem warpBefore_within (s : State) (o p : Nat) (r : SliceRun) (newer : Option Keyframe) (px : Option (List Byte)) :
    ChangesWithin trafficParts (fun a => warpTimedRegs p a ∨ a = regAddr R.WRP_STATUS [p]) s (s.warpBefore o p r newer px) :=
  ((warpTimed_within s o p r newer).mono (fun _ => id) fun _ => Or.inl).trans
    ((warpShown_within _ p _).mono (by decide) fun _ => Or.inr)

/-- The counters of warps and of errors are not moved before a warp gives its pixels. -/
theorem warpBefore_not_counter {p a : Nat} (hp : p < 5) (ha : a ∈ (warpCounters p).tail) :
    ¬(warpTimedRegs p a ∨ a = regAddr R.WRP_STATUS [p]) := by
  obtain ⟨hnodup, hapart⟩ := warpCounters_apart p hp
  obtain ⟨-, hstatus, -, htraffic⟩ := hapart _ (List.mem_of_mem_tail ha)
  rw [warpCounters, List.nodup_cons] at hnodup
  rintro ((⟨b, hb, hin⟩ | hlast) | hst)
  · exact htraffic b hb hin
  · exact hnodup.1 (hlast ▸ ha)
  · exact hstatus hst

/-- The counters are not moved as the unit goes on. -/
theorem warpsOn_not_counter {o p a : Nat} (ho : o < 4) (hp : p < 5) (ha : a ∈ warpCounters p) : ¬nextWarpRegs o p a := by
  obtain ⟨hlt, -, hnot, -⟩ := (warpCounters_apart p hp).2 _ ha
  rintro (hw | hge)
  · exact (hnot o ho).1 hw
  · omega

/-- The time of the last warp is not moved as a warp gives its pixels. -/
theorem warpGives_not_lastNs {o p : Nat} (ho : o < 4) (hp : p < 5) : ¬warpGivesRegs o p (regAddr R.WRP_LAST_NS [p]) := by
  obtain ⟨hnodup, hapart⟩ := warpCounters_apart p hp
  obtain ⟨-, hstatus, hnot, -⟩ := hapart _ List.mem_cons_self
  simp only [warpCounters, List.nodup_cons, List.mem_cons, List.not_mem_nil, or_false, not_or] at hnodup
  obtain ⟨⟨hcount, herr⟩, -⟩ := hnodup
  exact not_or.2 ⟨hcount, not_or.2 ⟨herr, not_or.2 ⟨hstatus, (hnot o ho).2⟩⟩⟩

section
variable (h : s.atSlice tag r) {p : Nat} (hp : p < 5) (newer : Option Keyframe)
include h

theorem warpEnded_changesOnly (px : Option (List Byte)) :
    changesOnly [.free, .regs, .syn, .sct, .sch] s (s.warpEnded tag.output.val p r newer px) := by
  obtain ⟨-, hframe, hslice⟩ := State.run_some h.2.2
  exact changesOnly_trans (changesOnly_mono (warpBefore_within s _ p r newer px).parts (by decide))
    (changesOnly_trans (changesOnly_mono (warpGives_within _ p hframe hslice px).parts (by decide))
      (changesOnly_mono (warpsOn_within _ _ p).parts (by decide)))

include hp

theorem rd_warpEnded_lastNs (px : Option (List Byte)) :
    (s.warpEnded tag.output.val p r newer px).rd R.WRP_LAST_NS [p] = BitVec.ofNat 32 (tWarp (s.runPixels tag.output.val r)) := by
  obtain ⟨-, hframe, hslice⟩ := State.run_some h.2.2
  have ho := tag.output.isLt
  obtain ⟨-, hstatus, -⟩ := (warpCounters_apart p hp).2 _ List.mem_cons_self
  rw [State.warpEnded, (warpsOn_within _ _ p).rd (warpsOn_not_counter ho hp List.mem_cons_self),
    (warpGives_within _ p hframe hslice px).rd (warpGives_not_lastNs ho hp), (warpShown_within _ p _).rd hstatus, rd_warpTimed s ho]

theorem warpEnded_pixels (horigin : r.origin = some 1) (bs : List Byte) :
    (s.warpEnded tag.output.val p r newer (some bs)).rd R.WRP_COUNT [p] = s.rd R.WRP_COUNT [p] + 1
      ∧ (s.warpEnded tag.output.val p r newer (some bs)).run tag.output.val tag.frame tag.slice.val
        = some (r.warpedOut.holding (cellsOf bs)) := by
  obtain ⟨-, hd, hrun⟩ := h
  obtain ⟨-, hframe, hslice⟩ := State.run_some hrun
  have ho := tag.output.isLt
  have hmem : regAddr R.WRP_COUNT [p] ∈ (warpCounters p).tail := List.mem_cons_self
  have hbefore := warpBefore_within s tag.output.val p r newer (some bs)
  have hsyn := hbefore.part (p := .syn) (by decide)
  have hcount := ChangesWithin.count (parts := [.regs]) (moved := fun _ => True) (s.warpBefore tag.output.val p r newer (some bs))
    R.WRP_COUNT [p] 1 (by decide) trivial
  have hgives : (s.warpBefore tag.output.val p r newer (some bs)).warpGives tag.output.val p r (some bs)
      = ((s.warpBefore tag.output.val p r newer (some bs)).count R.WRP_COUNT [p] 1).putRun tag.output.val
          (r.warpedOut.holding (cellsOf bs)) := by
    rw [State.warpGives, if_pos (by simp [horigin])]
  rw [show s.warpEnded tag.output.val p r newer (some bs)
    = ((s.warpBefore tag.output.val p r newer (some bs)).warpGives tag.output.val p r (some bs)).warpsOn tag.output.val p from rfl, hgives]
  have hput := State.run_putRun_self (s := (s.warpBefore tag.output.val p r newer (some bs)).count R.WRP_COUNT [p] 1) ho
    (r.warpedOut.holding (cellsOf bs))
  rw [show (r.warpedOut.holding (cellsOf bs)).frame = tag.frame from hframe,
    show (r.warpedOut.holding (cellsOf bs)).slice = tag.slice.val from hslice] at hput
  constructor
  · rw [(warpsOn_within _ _ p).rd (warpsOn_not_counter ho hp (List.mem_of_mem_tail hmem)),
      ← hbefore.rd (warpBefore_not_counter hp hmem)]
    exact State.rd_poke_self _ _ _ _
  · have hcounted := runsDistinct_congr ((hcount.part (p := .syn) (by decide)).trans hsyn) hd
    refine (run_warpsOn ho (runsDistinct_putRun ho _ hcounted) fun x hx => ?_).trans hput
    obtain rfl := Option.some.inj (hput.symm.trans hx)
    simp [SliceRun.waitsWarp, SliceRun.holding]

theorem warpEnded_error (horigin : r.origin = some 1) :
    counted R.WRP_ERR_COUNT [p] s (s.warpEnded tag.output.val p r newer none)
      ∧ (s.warpEnded tag.output.val p r newer none).run tag.output.val tag.frame tag.slice.val = some (r.warpedOut.decided 3) := by
  obtain ⟨-, hd, hrun⟩ := h
  obtain ⟨-, hframe, hslice⟩ := State.run_some hrun
  have ho := tag.output.isLt
  have hmem : regAddr R.WRP_ERR_COUNT [p] ∈ (warpCounters p).tail := List.mem_cons_of_mem _ List.mem_cons_self
  obtain ⟨-, hstatus, hnot, -⟩ := (warpCounters_apart p hp).2 _ (List.mem_of_mem_tail hmem)
  have hbefore := warpBefore_within s tag.output.val p r newer none
  have hsyn := hbefore.part (p := .syn) (by decide)
  have hcount := ChangesWithin.countSat (parts := [.regs]) (moved := fun _ => True) (s.warpBefore tag.output.val p r newer none)
    R.WRP_ERR_COUNT [p] 1 R.WRP_STATUS [p] 31 (by decide) trivial trivial
  have hgives : (s.warpBefore tag.output.val p r newer none).warpGives tag.output.val p r none
      = (((s.warpBefore tag.output.val p r newer none).countSat R.WRP_ERR_COUNT [p] 1 R.WRP_STATUS [p] 31).putRun tag.output.val
          r.warpedOut).decideOrigin tag.output.val tag.frame tag.slice.val 3 := by
    rw [State.warpGives, if_pos (by simp [horigin]), hframe, hslice]
  rw [show s.warpEnded tag.output.val p r newer none
    = ((s.warpBefore tag.output.val p r newer none).warpGives tag.output.val p r none).warpsOn tag.output.val p from rfl, hgives]
  have hput := State.run_putRun_self
    (s := (s.warpBefore tag.output.val p r newer none).countSat R.WRP_ERR_COUNT [p] 1 R.WRP_STATUS [p] 31) ho r.warpedOut
  rw [show r.warpedOut.frame = tag.frame from hframe, show r.warpedOut.slice = tag.slice.val from hslice] at hput
  have hdecided := run_decideOrigin_self ho hput 3
  constructor
  · refine counted_of_within (counted_of_within (counted_after hbefore (warpBefore_not_counter hp hmem)
      (counted_of_within (counted_countSat _ 31 hstatus) (.putRun (parts := [.syn]) (moved := fun _ => False) _ _ _ (by simp)) id))
      (decideOrigin_within _ tag 3) (hnot _ ho).2) (warpsOn_within _ _ p) (warpsOn_not_counter ho hp (List.mem_of_mem_tail hmem))
  · refine (run_warpsOn ho (runsDistinct_decideOrigin ho _ _ _ (runsDistinct_putRun ho _
      (runsDistinct_congr ((hcount.part (p := .syn) (by decide)).trans hsyn) hd))) fun x hx => ?_).trans hdecided
    obtain rfl := Option.some.inj (hdecided.symm.trans hx)
    rfl

end

theorem warpEnd_completes {p b : Nat} {records : List Byte} (h : s.atSlice tag r) (hp : s.pipeOf tag.output.val = some p)
    (hwarp : r.warp = some (b, records)) (horigin : r.origin = some 1) (hfinal : r.final = false) :
    let o := tag.output.val
    let px := s.warpSlice o p tag.frame tag.slice.val records ((s.frameRec o tag.frame).bind fun f => f.pair.map fun k => k.1)
    completes (.warpEnd tag) s [.free, .regs, .syn, .sct, .sch] fun t => t.rd R.WRP_LAST_NS [p] = BitVec.ofNat 32 (tWarp (s.runPixels o r)) ∧
      (∀ bs, px = some bs → t.rd R.WRP_COUNT [p] = s.rd R.WRP_COUNT [p] + 1
        ∧ t.run o tag.frame tag.slice.val = some { r with data := cellsOf bs, final := true, warp := none, warpCopying := false }) ∧
      (px = none → counted R.WRP_ERR_COUNT [p] s t ∧ ∃ y, t.run o tag.frame tag.slice.val = some y ∧ y.origin = some 3 ∧ y.final = false) := by
  have hlt := pipeOf_lt hp
  refine completes_of_next (exec_warpEnd h hp hwarp) (warpEnded_changesOnly h _ _)
    ⟨rd_warpEnded_lastNs h hlt _ _, fun bs hbs => ?_, fun hnone => ?_⟩
  · rw [show s.warpSlice tag.output.val p tag.frame tag.slice.val records (s.warpNewer tag.output.val tag.frame) = some bs from hbs]
    exact warpEnded_pixels h hlt _ horigin bs
  · rw [show s.warpSlice tag.output.val p tag.frame tag.slice.val records (s.warpNewer tag.output.val tag.frame) = none from hnone]
    obtain ⟨hcount, hrun⟩ := warpEnded_error h hlt (s.warpNewer tag.output.val tag.frame) horigin
    exact ⟨counted_kept hcount, _, hrun, rfl, hfinal⟩

end

end Sys2Proof.Machine
end

section
/-! SUPPORT. The end of an entry leaves the released slices, the frames and the values in force of every output alone, and starts no
task (R53, R262, R271). The text follows the model file by file, as for the canonical forms: each function has one lemma,
`SlicesKept.f`. -/

namespace Sys2Proof.Machine

/-- The slices of an output under way: their entries and frames, and the budget and the margin in force. -/
def SynOut.underWay (x : SynOut) : List SliceRun × List FrameRec × Nat × Nat := (x.runs, x.frames, x.budget, x.margin)

/-- Queue and sequence number of every task. -/
def State.taskKeys (s : State) : List (Nat × Word) := s.sch.tasks.map fun t => (t.qid, t.entry.seq)

/-- What a state keeps of an earlier one: the slices under way, and that no task has come. -/
structure SlicesKept (s₀ s : State) : Prop where
  outs : ∀ o, (s.out o).underWay = (s₀.out o).underWay
  tasks : s.taskKeys ⊆ s₀.taskKeys

/-- A write past the end of a vector changes nothing. -/
theorem vecGet_vecSet_of_not_lt {α : Type} {n i j : Nat} (v : Vector α n) (x d : α) (h : ¬i < n) :
    vecGet (vecSet v i x) j d = vecGet v j d := by
  rw [vecSet, dif_neg h]

theorem State.task_eq_none_iff {s : State} {q : Nat} {seq : Word} : s.task q seq = none ↔ (q, seq) ∉ s.taskKeys := by
  simp only [State.task, State.taskKeys, List.find?_eq_none, List.mem_map, Bool.and_eq_true, beq_iff_eq, Prod.mk.injEq, not_exists,
    not_and]

variable {s₀ s t : State}

/-! ### Branches, loops and failures -/

namespace SlicesKept

theorem refl (s : State) : SlicesKept s s := ⟨fun _ => rfl, fun _ => id⟩

/-- What neither SYN nor the list of tasks shows is kept. -/
theorem congr (h : SlicesKept s₀ s) (hsyn : t.syn = s.syn) (htasks : t.sch.tasks = s.sch.tasks) : SlicesKept s₀ t :=
  ⟨fun o => by rw [State.out, hsyn]; exact h.outs o, by rw [State.taskKeys, htasks]; exact h.tasks⟩

theorem of_changesOnly (h : SlicesKept s₀ s) {parts : List Part} (hc : changesOnly parts s t) (hp : Part.syn ∉ parts ∧ Part.sch ∉ parts) :
    SlicesKept s₀ t :=
  h.congr (hc .syn hp.1) (congrArg SchState.tasks (hc .sch hp.2))

theorem ite {c : Prop} {_ : Decidable c} (hs : SlicesKept s₀ s) (ht : SlicesKept s₀ t) : SlicesKept s₀ (if c then s else t) := by
  split <;> assumption

theorem foldl {α : Type} {f : State → α → State} {xs : List α} (hf : ∀ s x, SlicesKept s₀ s → SlicesKept s₀ (f s x))
    (h : SlicesKept s₀ s) : SlicesKept s₀ (xs.foldl f s) := by
  induction xs generalizing s with
  | nil => exact h
  | cons x xs ih => exact ih (hf s x h)

/-! ### The state's operations -/

theorem withSch {x : SchState} (h : SlicesKept s₀ s) (hx : x.tasks = s.sch.tasks) : SlicesKept s₀ (s.withSch x) := h.congr rfl hx

/-- A change of the tasks that names no new one. -/
theorem withTasks {x : SchState} (h : SlicesKept s₀ s) (hx : (x.tasks.map fun t => (t.qid, t.entry.seq)) ⊆ s.taskKeys) :
    SlicesKept s₀ (s.withSch x) := ⟨h.outs, fun _ hk => h.tasks (hx hk)⟩

theorem dropTasks {x : SchState} {f : Task → Bool} (h : SlicesKept s₀ s) (hx : x.tasks = s.sch.tasks.filter f) :
    SlicesKept s₀ (s.withSch x) := h.withTasks (hx ▸ List.map_subset _ (List.filter_subset_self _))

/-- A change of each task that leaves its names. -/
theorem mapTasks {x : SchState} {f : Task → Task} (h : SlicesKept s₀ s) (hx : x.tasks = s.sch.tasks.map f)
    (hf : ∀ t, (f t).qid = t.qid ∧ (f t).entry.seq = t.entry.seq) : SlicesKept s₀ (s.withSch x) := by
  refine h.withTasks ?_
  rw [hx, List.map_map, State.taskKeys]
  simp only [Function.comp_def, hf]
  exact fun _ => id

theorem withVis {x} (h : SlicesKept s₀ s) : SlicesKept s₀ (s.withVis x) := h.congr rfl rfl

theorem withBrg {x} (h : SlicesKept s₀ s) : SlicesKept s₀ (s.withBrg x) := h.congr rfl rfl

theorem withBoxes {x} (h : SlicesKept s₀ s) : SlicesKept s₀ (s.withBoxes x) := h.congr rfl rfl

theorem withPasses {x} (h : SlicesKept s₀ s) : SlicesKept s₀ (s.withPasses x) := h.congr rfl rfl

theorem withDbg {x} (h : SlicesKept s₀ s) : SlicesKept s₀ (s.withDbg x) := h.congr rfl rfl

theorem poke {r ix v} (h : SlicesKept s₀ s) : SlicesKept s₀ (s.poke r ix v) := h.congr rfl rfl

theorem setFld {r ix hi lo v} (h : SlicesKept s₀ s) : SlicesKept s₀ (s.setFld r ix hi lo v) := h.poke

theorem setBit {r ix b v} (h : SlicesKept s₀ s) : SlicesKept s₀ (s.setBit r ix b v) := h.setFld

theorem write {a bs} (h : SlicesKept s₀ s) : SlicesKept s₀ (s.write a bs) := h.of_changesOnly (changesOnly_write s a bs) (by decide)

theorem draw (h : SlicesKept s₀ s) : SlicesKept s₀ s.draw := h.congr rfl rfl

theorem count {r ix n} (h : SlicesKept s₀ s) : SlicesKept s₀ (s.count r ix n) := h.poke

theorem countSat {r ix n ovf oix b} (h : SlicesKept s₀ s) : SlicesKept s₀ (s.countSat r ix n ovf oix b) :=
  h.of_changesOnly (changesOnly_countSat s r ix n ovf oix b) (by decide)

theorem count64 {lo hi ix n} (h : SlicesKept s₀ s) : SlicesKept s₀ (s.count64 lo hi ix n) := h.poke.poke

theorem account {ctx counter n} (h : SlicesKept s₀ s) : SlicesKept s₀ (s.account ctx counter n) := h.poke.poke

theorem event {cls inst code payload} (h : SlicesKept s₀ s) : SlicesKept s₀ (s.event cls inst code payload) :=
  h.of_changesOnly (changesOnly_event s cls inst code payload) (by decide)

theorem traceTo {ring source word payload} (h : SlicesKept s₀ s) : SlicesKept s₀ (s.traceTo ring source word payload) :=
  have h := h.write.poke
  (SlicesKept.ite h.countSat h).withDbg

theorem trace {source ctx word payload} (h : SlicesKept s₀ s) : SlicesKept s₀ (s.trace source ctx word payload) :=
  have h := SlicesKept.ite h.traceTo h
  .ite h.traceTo h

theorem pmcOne {i n} (h : SlicesKept s₀ s) : SlicesKept s₀ (s.pmcOne i n) :=
  have h := h.poke
  .ite h (have h := h.setBit; .ite h.event h)

theorem pmcAdd {kind unit event part n} (h : SlicesKept s₀ s) : SlicesKept s₀ (s.pmcAdd kind unit event part n) :=
  .ite (.foldl (fun _ _ h => h.pmcOne) h) h

theorem tryWrite {ctx a bs} (h : SlicesKept s₀ s) (e : s.tryWrite ctx a bs = .ok t) : SlicesKept s₀ t := by
  unfold State.tryWrite State.writeFor at e
  split at e
  · next hw =>
    cases e
    split at hw
    · split at hw
      · exact WriteResult.ok.inj hw ▸ h.write
      · cases hw
    · cases hw
  · cases e
  · cases e

/-! ### Sparing of cores -/

theorem putSlotRegs {d k j ws} (h : SlicesKept s₀ s) : SlicesKept s₀ (s.putSlotRegs d k j ws) := .foldl (fun _ _ h => h.poke.poke) h

theorem donorResume (h : SlicesKept s₀ s) : SlicesKept s₀ s.donorResume := by
  unfold State.donorResume
  dsimp only
  split
  · exact .ite (h.putSlotRegs.setBit).setBit.withBrg h
  · exact h

/-! ### Regulators -/

theorem putBucket {b} (h : SlicesKept s₀ s) : SlicesKept s₀ (s.putBucket b) := h.withSch rfl

theorem passOne {p n borrowed g} (h : SlicesKept s₀ s) : SlicesKept s₀ (s.passOne p n borrowed g) :=
  have h := h.count64
  .ite (have h := h.count64; .ite h.pmcAdd h) h.putBucket

theorem pass {p n borrowed path} (h : SlicesKept s₀ s) : SlicesKept s₀ (s.pass p n borrowed path) :=
  .foldl (fun _ _ h => h.passOne) h

theorem passNow {p n path} (h : SlicesKept s₀ s) : SlicesKept s₀ (s.passNow p n path) :=
  .ite h.pass (.ite h.pass (.foldl (fun _ _ h => h.putBucket) h.pass))

theorem traffic {p path fuel a n} (h : SlicesKept s₀ s) : SlicesKept s₀ (s.traffic p path fuel a n) := by
  induction fuel generalizing s a n with
  | zero => exact h
  | succ fuel ih => exact .ite h (ih h.passNow)

theorem hubRead {p a n} (h : SlicesKept s₀ s) : SlicesKept s₀ (s.hubRead p a n) := h.traffic

theorem hubWrote {p a n} (h : SlicesKept s₀ s) : SlicesKept s₀ (s.hubWrote p a n) := h.traffic

theorem dieWrote {p die a n} (h : SlicesKept s₀ s) : SlicesKept s₀ (s.dieWrote p die a n) := h.traffic

/-! ### Outputs of SYN -/

/-- A change of an output that leaves its slices under way. -/
theorem setOut {o x} (h : SlicesKept s₀ s) (hx : x.underWay = (s.out o).underWay) : SlicesKept s₀ (s.setOut o x) := by
  refine ⟨fun i => ?_, h.tasks⟩
  by_cases hi : i = o
  · subst hi
    by_cases hlt : i < 4
    · rw [State.out_setOut_self _ _ hlt, hx]
      exact h.outs i
    · exact (congrArg SynOut.underWay (vecGet_vecSet_of_not_lt _ _ _ hlt)).trans (h.outs i)
  · rw [State.out_setOut_ne _ _ hi]
    exact h.outs i

theorem synCount {o r bit} (h : SlicesKept s₀ s) : SlicesKept s₀ (s.synCount o r bit) := h.countSat

theorem adpCount {o r bit} (h : SlicesKept s₀ s) : SlicesKept s₀ (s.adpCount o r bit) := h.countSat

theorem adpStatus {o} (h : SlicesKept s₀ s) : SlicesKept s₀ (s.adpStatus o) := h.setBit.setBit.setBit.setFld

theorem adpGiveUp {o} (h : SlicesKept s₀ s) : SlicesKept s₀ (s.adpGiveUp o) := by
  refine (h.setOut ?_).setBit
  rfl

theorem adpRevert {o ref cause} (h : SlicesKept s₀ s) : SlicesKept s₀ (s.adpRevert o ref cause) :=
  have h := (h.setOut (o := o)
    (x := { s.out o with swapTo := 0, claim := 0, window := [], toZero := true, failedRun := 0 }) rfl).setBit.adpCount.adpStatus
  .ite h.event h

theorem adpFail {o ref cause status} (h : SlicesKept s₀ s) : SlicesKept s₀ (s.adpFail o ref cause status) :=
  have h := (h.adpGiveUp.setOut (o := o)
    (x := { (s.adpGiveUp o).out o with failedRun := (s.out o).failedRun + 1 }) rfl).adpCount.adpStatus
  have h := SlicesKept.ite h.event h
  .ite h.adpRevert h

theorem adpSkip {o} (h : SlicesKept s₀ s) : SlicesKept s₀ (s.adpSkip o) := h.adpCount.setBit

theorem adpDrop {o} (h : SlicesKept s₀ s) : SlicesKept s₀ (s.adpDrop o) :=
  (h.setOut (x := { s.out o with work := none }) rfl).adpSkip

theorem adpKeyframe {o k} (h : SlicesKept s₀ s) : SlicesKept s₀ (s.adpKeyframe o k) := by
  unfold State.adpKeyframe
  split
  · exact .ite h.adpDrop h
  · exact h

theorem keyframeReport {o refresh upd} (h : SlicesKept s₀ s) : SlicesKept s₀ (s.keyframeReport o refresh upd) :=
  have h := (h.setOut (x := (s.out o).withKeyframe (s.kfIndex o refresh) refresh upd) rfl).setFld
  have h := SlicesKept.ite h.synCount h
  (SlicesKept.ite h.synCount h).adpKeyframe

theorem noteKeyframe {n status} (h : SlicesKept s₀ s) : SlicesKept s₀ (s.noteKeyframe n status) := by
  unfold State.noteKeyframe
  split
  · exact h
  · exact h.keyframeReport
  · exact h.keyframeReport

theorem synTaskEndAt {o qid seq status} (h : SlicesKept s₀ s) : SlicesKept s₀ (s.synTaskEndAt o qid seq status) := by
  unfold State.synTaskEndAt
  extract_lets x t
  have ht : SlicesKept s₀ t := by
    dsimp only [t]
    split
    · refine (h.setOut ?_).adpStatus
      rfl
    · exact h
  split
  · refine .ite (.ite (SlicesKept.adpStatus (.setBit (.setBit (ht.setOut ?_)))) (.ite ht ht.adpFail)) ht
    rfl
  · exact ht

theorem synTaskEnd {qid seq status} (h : SlicesKept s₀ s) : SlicesKept s₀ (s.synTaskEnd qid seq status) :=
  h.synTaskEndAt.synTaskEndAt.synTaskEndAt.synTaskEndAt

/-! ### Queues -/

theorem putQueue {x} (h : SlicesKept s₀ s) : SlicesKept s₀ (s.putQueue x) := h.withSch rfl

theorem settleDeps {q} (h : SlicesKept s₀ s) : SlicesKept s₀ (s.settleDeps q) := by
  refine h.mapTasks rfl fun t => ?_
  split <;> exact ⟨rfl, rfl⟩

theorem dropQueue {q} (h : SlicesKept s₀ s) : SlicesKept s₀ (s.dropQueue q) := h.settleDeps.withSch rfl

theorem postOne {x c} (h : SlicesKept s₀ s) : SlicesKept s₀ (s.postOne x c) := h.write.putQueue.noteKeyframe

theorem flushLoop {q fuel} (h : SlicesKept s₀ s) : SlicesKept s₀ (s.flushLoop q fuel) := by
  induction fuel generalizing s with
  | zero => exact h
  | succ fuel ih =>
    rw [State.flushLoop]
    split
    · split
      · exact ih h.postOne
      · exact h
    · exact h

theorem finishDisable {q} (h : SlicesKept s₀ s) : SlicesKept s₀ (s.finishDisable q) := by
  unfold State.finishDisable
  split
  · exact .ite h.dropQueue h
  · exact h

theorem flushQueue {q} (h : SlicesKept s₀ s) : SlicesKept s₀ (s.flushQueue q) := by
  unfold State.flushQueue
  split
  · exact h.flushLoop.finishDisable
  · exact h

theorem complete {q c} (h : SlicesKept s₀ s) : SlicesKept s₀ (s.complete q c) := by
  unfold State.complete
  split
  · exact h.putQueue.flushQueue
  · exact h

end SlicesKept

end Sys2Proof.Machine
end

section
/-! PROOFS. The end of a task, and of an entry cancelled at its fallback point (R51, R53, R271). -/

namespace Sys2Proof.Machine

variable {s₀ s t : State}

namespace SlicesKept

/-! ### Box calls and sketch passes -/

theorem boxSchedule {d k} (h : SlicesKept s₀ s) : SlicesKept s₀ (s.boxSchedule d k) := by
  unfold State.boxSchedule
  dsimp only
  split
  · exact h
  · exact h.withBoxes

theorem boxGone {b} (h : SlicesKept s₀ s) : SlicesKept s₀ (s.boxGone b) := (SlicesKept.ite h.draw.count h).countSat.boxSchedule

theorem abortCalls {p} (h : SlicesKept s₀ s) : SlicesKept s₀ (s.abortCalls p) := .foldl (fun _ _ h => h.boxGone) h.withBoxes

theorem putPass {p} (h : SlicesKept s₀ s) : SlicesKept s₀ (s.putPass p) := h.withPasses

theorem countUnits {p r bit} (h : SlicesKept s₀ s) : SlicesKept s₀ (s.countUnits p r bit) := .foldl (fun _ _ h => h.countSat) h

theorem sketchWrite {p unit ws} (h : SlicesKept s₀ s) : SlicesKept s₀ (s.sketchWrite p unit ws).1 := by
  induction ws generalizing s with
  | nil => exact h
  | cons w ws ih =>
    rw [State.sketchWrite]
    split
    · exact h
    · next e => exact ih (h.tryWrite e).dieWrote.account

theorem storeTiles {p final ks} (h : SlicesKept s₀ s) : SlicesKept s₀ (s.storeTiles p final ks).1 := by
  induction ks generalizing s with
  | nil => exact h
  | cons k ks ih =>
    rw [State.storeTiles]
    split
    · exact h.sketchWrite
    · exact ih h.sketchWrite.count

theorem stopPass {p} (h : SlicesKept s₀ s) : SlicesKept s₀ (s.stopPass p) := h.storeTiles.putPass.countUnits

theorem startPass {p} (h : SlicesKept s₀ s) : SlicesKept s₀ (s.startPass p) :=
  (SlicesKept.foldl (fun _ _ h => h.stopPass) h).putPass

theorem sketchRun {fuel} (h : SlicesKept s₀ s) : SlicesKept s₀ (s.sketchRun fuel) := by
  induction fuel generalizing s with
  | zero => exact h
  | succ fuel ih =>
    rw [State.sketchRun]
    split
    · exact ih h.startPass
    · split
      · exact ih h.putPass
      · exact h

theorem abortPasses {f} (h : SlicesKept s₀ s) : SlicesKept s₀ (s.abortPasses f) :=
  (SlicesKept.foldl (fun _ _ h => h.countUnits) h.withPasses).sketchRun

/-! ### Slots -/

/-- A task is changed, not its names: no task comes. -/
theorem putTask {x} (h : SlicesKept s₀ s) : SlicesKept s₀ (s.putTask x) := by
  refine h.mapTasks rfl fun y => ?_
  split
  · next hy =>
    rw [Bool.and_eq_true, beq_iff_eq, beq_iff_eq] at hy
    exact ⟨hy.1.symm, hy.2.symm⟩
  · exact ⟨rfl, rfl⟩

theorem putSlot {x} (h : SlicesKept s₀ s) : SlicesKept s₀ (s.putSlot x) := h.withSch rfl

theorem accountRun {core} (h : SlicesKept s₀ s) : SlicesKept s₀ (s.accountRun core) := by
  unfold State.accountRun
  split
  · exact h
  · next i _ =>
    have h := h.withSch (x := { s.sch with runSince := s.sch.runSince.filter fun e => e.1 != core }) rfl
    dsimp only
    split
    · split
      · exact h.account.putTask
      · exact h.account
    · exact h

theorem abortTransfers {x} (h : SlicesKept s₀ s) : SlicesKept s₀ (s.abortTransfers x) := h.congr rfl rfl

theorem coreIdle {core} (h : SlicesKept s₀ s) : SlicesKept s₀ (s.coreIdle core) :=
  (SlicesKept.accountRun (by split; exacts [.ite h h.abortTransfers, h])).setBit

theorem resubmit {x} (h : SlicesKept s₀ s) : SlicesKept s₀ (s.resubmit x) := .ite h h.putSlot.withBoxes.boxSchedule

theorem unstall {x} (h : SlicesKept s₀ s) : SlicesKept s₀ (s.unstall x) := by
  unfold State.unstall
  dsimp only
  split
  · exact .ite h.putSlot.withBoxes.boxSchedule h
  · exact h

theorem boxAdmitSlot {core i} (h : SlicesKept s₀ s) : SlicesKept s₀ (s.boxAdmitSlot core i) := by
  unfold State.boxAdmitSlot
  extract_lets t
  have ht : SlicesKept s₀ t := by
    dsimp only [t]
    split
    · exact h.resubmit
    · exact h
  split
  · exact ht.unstall
  · exact ht

theorem boxAdmit {d k} (h : SlicesKept s₀ s) : SlicesKept s₀ (s.boxAdmit d k) := .foldl (fun _ _ h => h.boxAdmitSlot) h

theorem startSlot {x} (h : SlicesKept s₀ s) : SlicesKept s₀ (s.startSlot x) := by
  unfold State.startSlot
  extract_lets ix switched running site sch chosen image issued housed
  have hrunning : SlicesKept s₀ running := SlicesKept.setBit (SlicesKept.setFld (.ite h.count.trace h))
  have hchosen : SlicesKept s₀ chosen := hrunning.withSch rfl
  have hhoused : SlicesKept s₀ housed := hchosen.putSlot.boxAdmitSlot
  split
  · exact .ite hhoused.putTask.account hhoused
  · exact hhoused

theorem notePreempt {old new} (h : SlicesKept s₀ s) : SlicesKept s₀ (s.notePreempt old new) := by
  unfold State.notePreempt
  split
  · exact .ite h.putTask.account h
  · exact h

theorem switchCore {core} (h : SlicesKept s₀ s) : SlicesKept s₀ (s.switchCore core) := by
  unfold State.switchCore
  split
  · exact .ite h (SlicesKept.coreIdle (by split; exacts [h.notePreempt, h])).startSlot
  · exact h.coreIdle
  · exact h.startSlot
  · exact h

theorem wakeCore {core} (h : SlicesKept s₀ s) : SlicesKept s₀ (s.wakeCore core) := .ite h.switchCore h

theorem countHalo {x} (h : SlicesKept s₀ s) : SlicesKept s₀ (s.countHalo x) := by
  unfold State.countHalo
  split
  · exact h.count
  · exact h

theorem putSem {x} (h : SlicesKept s₀ s) : SlicesKept s₀ (s.putSem x) := by
  refine (h.withSch ?_).setFld
  rfl

theorem relend {old} (h : SlicesKept s₀ s) : SlicesKept s₀ (s.relend old) := by
  refine .foldl (fun _ _ h => h.trace) (.foldl (fun _ _ h => h.trace) (SlicesKept.count (h.mapTasks rfl ?_)))
  exact fun _ => ⟨rfl, rfl⟩

/-! ### The end of a task -/

theorem dropWaits {x} (h : SlicesKept s₀ s) : SlicesKept s₀ (s.dropWaits x) :=
  .foldl (fun _ _ h => .foldl (fun _ _ h => h.account) h.putSem) h

theorem keepImage {x} (h : SlicesKept s₀ s) : SlicesKept s₀ (s.keepImage x) := h.withSch rfl

theorem applyStores {stores} (h : SlicesKept s₀ s) : SlicesKept s₀ (s.applyStores stores) := .foldl (fun _ _ h => h.write) h

theorem leaveCores {x} (h : SlicesKept s₀ s) : SlicesKept s₀ (s.leaveCores x) :=
  .foldl (fun _ _ h => h.wakeCore.boxAdmit)
    ((SlicesKept.foldl (fun _ _ h => (SlicesKept.ite h.coreIdle h).keepImage)
      (.foldl (fun _ _ h => h.countHalo) (.foldl (fun _ _ h => h.applyStores) h))).withSch rfl)

end SlicesKept

theorem task_eq_none_of_slicesKept {q : Nat} {seq : Word} (h : SlicesKept s t) (hs : s.task q seq = none) : t.task q seq = none :=
  State.task_eq_none_iff.2 fun hmem => State.task_eq_none_iff.1 hs (h.tasks hmem)

/-- A task that ends is listed no more. -/
theorem finishTask_kept {x : Task} {status : Nat} (h : SlicesKept s₀ s) :
    SlicesKept s₀ (s.finishTask x status) ∧ (s.finishTask x status).task x.qid x.entry.seq = none := by
  unfold State.finishTask
  extract_lets old status' halted aborted oldVis vis left y sch brg rambler unlisted relent completed traced ended
  have haborted : SlicesKept s₀ aborted := h.abortCalls.abortPasses
  have hvis : SlicesKept s₀ vis := haborted.withVis
  have hleft : SlicesKept s₀ left := hvis.dropWaits.leaveCores
  have hlisted : SlicesKept s₀ (left.withSch { left.sch with
      tasks := left.sch.tasks.filter fun x => !y.holds x.qid x.entry.seq }) := hleft.dropTasks rfl
  have hunlisted : SlicesKept s₀ unlisted := hlisted.withBrg
  have hend (s₁ : State) (h₁ : SlicesKept s₁ unlisted) : SlicesKept s₁
      (if halted = true then ended.event 0x0E 0 0x09 (leBytes 1 y.ctx ++ leBytes 1 status') else ended) :=
    have hended : SlicesKept s₁ ended := h₁.donorResume.relend.complete.trace.synTaskEnd
    .ite hended.event hended
  have hnames : y.qid = x.qid ∧ y.entry.seq = x.entry.seq := by
    dsimp only [y]
    cases hfound : left.task x.qid x.entry.seq with
    | none => exact ⟨rfl, rfl⟩
    | some k => simpa using List.find?_some hfound
  have hnone : unlisted.task x.qid x.entry.seq = none := by
    rw [State.task_eq_none_iff, State.taskKeys, List.mem_map]
    rintro ⟨z, hz, hkey⟩
    have hnot : (!y.holds z.qid z.entry.seq) = true := (List.mem_filter.1 hz).2
    rw [Prod.mk.injEq] at hkey
    simp [Task.holds, hnames, hkey] at hnot
  have hkept := hend unlisted (.refl _)
  exact ⟨hend s₀ hunlisted, task_eq_none_of_slicesKept hkept hnone⟩

/-- A task is listed no more. -/
def State.untask (s : State) (q : Nat) (seq : Word) : State :=
  s.withSch { s.sch with tasks := s.sch.tasks.filter fun x => !x.holds q seq }

theorem SlicesKept.untask {q : Nat} {seq : Word} (h : SlicesKept s₀ s) : SlicesKept s₀ (s.untask q seq) := h.dropTasks rfl

theorem State.task_untask (s : State) (q : Nat) (seq : Word) : (s.untask q seq).task q seq = none := by
  refine List.find?_eq_none.2 fun x hx hkey => ?_
  have hnot : (!x.holds q seq) = true := (List.mem_filter.1 hx).2
  rw [Bool.and_eq_true, beq_iff_eq, beq_iff_eq] at hkey
  simp [Task.holds, hkey] at hnot

/-- An entry that is cancelled leaves the slices under way alone, and its task is listed no more. -/
theorem cancelEntry_kept {q : Nat} {seq : Word} {status : Nat} (h : SlicesKept s₀ s) :
    SlicesKept s₀ (s.cancelEntry q seq status) ∧ (s.cancelEntry q seq status).task q seq = none := by
  unfold State.cancelEntry
  split
  · next x hx =>
    obtain ⟨hq, hseq⟩ : x.qid = q ∧ x.entry.seq = seq := by simpa using List.find?_some hx
    split
    · rw [← hq, ← hseq]
      exact finishTask_kept h
    · have hend (s₁ : State) (h₁ : SlicesKept s₁ (s.untask q seq)) : SlicesKept s₁
          (((s.untask q seq).complete q (x.entry.completion status s.now)).synTaskEnd q seq status) := h₁.complete.synTaskEnd
      exact ⟨hend s₀ h.untask, task_eq_none_of_slicesKept (hend _ (.refl _)) (s.task_untask q seq)⟩
  · next hnone =>
    have hend (s₁ : State) (h₁ : SlicesKept s₁ s) : SlicesKept s₁ (match s.queue q with
        | some x => match x.rung.find? fun e => e.seq == seq with
          | some e => ((s.putQueue { x with rung := x.rung.filter fun y => y.seq != seq }).complete q
              (e.completion status s.now)).synTaskEnd q seq status
          | none => s
        | none => s) := by
      split
      · split
        · exact h₁.putQueue.complete.synTaskEnd
        · exact h₁
      · exact h₁
    exact ⟨hend s₀ h, task_eq_none_of_slicesKept (hend s (.refl s)) hnone⟩

/-! ### The fallback point of a slice with a task (R51) -/

theorem SlicesKept.run (h : SlicesKept s t) (o : Nat) (f : Word) (n : Nat) : t.run o f n = s.run o f n := by
  rw [State.run, State.run, show (t.out o).runs = (s.out o).runs from congrArg Prod.fst (h.outs o)]

theorem SlicesKept.frameRec (h : SlicesKept s t) (o : Nat) (f : Word) : t.frameRec o f = s.frameRec o f := by
  rw [State.frameRec, State.frameRec, show (t.out o).frames = (s.out o).frames from congrArg (fun x => x.2.1) (h.outs o)]

theorem ladderTaken_of_slicesKept {tag : SliceTag} (h : SlicesKept t s₀) (ht : ladderTaken tag s t) : ladderTaken tag s s₀ := by
  unfold ladderTaken at ht ⊢
  rwa [h.run, h.frameRec]

theorem fallbackPoint_with_task {tag : SliceTag} {r : SliceRun} (h : s.atSlice tag r) {q : Nat} {seq : Word} (horigin : r.origin = none)
    (htask : r.task = some (q, seq)) :
    ∃ t, exec (.fallbackPoint tag) s = .next t ∧ t.pending = s.pending ∧ ladderTaken tag s t
      ∧ ((s.task q seq).isSome = true → t.task q seq = none) := by
  have hexec := exec_fallbackPoint_missed h horigin
  rw [State.cancelTaskOf, htask] at hexec
  obtain ⟨hkept, hgone⟩ := cancelEntry_kept (q := q) (seq := seq) (status := 0x14) (SlicesKept.refl (s.missed tag))
  have hladder := ladderTaken_of_slicesKept hkept (counted_missed h).2.2
  exact ⟨_, hexec, rfl, hladder, fun _ => hgone⟩

end Sys2Proof.Machine
end

section
/-! SUPPORT. The check of an access does not see traffic, nor what is written (R20, R23, R299). -/

namespace Sys2Proof.Machine

/-- Two states grant the same accesses: they agree on the device, the image, and the registers of contexts, shares and readiness. -/
structure SameGrants (s t : State) : Prop where
  dev : t.dev = s.dev
  img : t.img = s.img
  ctx : ∀ c < 64, t.rd R.SCH_CTX_CFG [c] = s.rd R.SCH_CTX_CFG [c]
  ready : t.rd R.BRG_READY [] = s.rd R.BRG_READY []
  cluster : ∀ d < 2, ∀ k < 8, ∀ p < 16, t.rd R.CLC_CSHARE [d, k, p] = s.rd R.CLC_CSHARE [d, k, p]
  lmap : ∀ d < 2, ∀ k < 8, ∀ i < 4, t.rd R.CLC_LMAP [d, k, i] = s.rd R.CLC_LMAP [d, k, i]
  slot : ∀ d < 2, ∀ k < 8, ∀ j < 32, ∀ i < 4, t.rd R.CORE_SLOT_MEM [d, k, j, i] = s.rd R.CORE_SLOT_MEM [d, k, j, i]
    ∧ t.rd R.CORE_SLOT_EXE [d, k, j, i] = s.rd R.CORE_SLOT_EXE [d, k, j, i]

/-- An address below the dies' blocks, or in a core's or cluster's block, that is off the pages of traffic there. -/
theorem not_trafficRegs {a : Nat} (h : a < 0x60000 ∨ (0x61000 ≤ a ∧ a < 0xB0000) ∨ (0x441000 ≤ a ∧ a < 0x1F004000)
    ∨ (0x1F005000 ≤ a ∧ a < 0x2F004000)) : ¬trafficRegs a := by
  rintro ⟨b, hb, hin⟩
  simp only [trafficPages, List.mem_cons, List.not_mem_nil, or_false] at hb
  omega

theorem ChangesWithin.sameGrants {parts : List Part} {s t : State} (h : ChangesWithin parts trafficRegs s t) (hd : Part.dev ∉ parts)
    (hi : Part.img ∉ parts) : SameGrants s t where
  dev := h.part hd
  img := h.part hi
  ctx c hc := h.rd (not_trafficRegs (by simp only [regAddr, R.SCH_CTX_CFG, regOffset]; omega))
  ready := h.rd (not_trafficRegs (by decide))
  cluster d hd k hk p hp := h.rd (not_trafficRegs (by simp only [regAddr, R.CLC_CSHARE, regOffset]; omega))
  lmap d hd k hk i hi := h.rd (not_trafficRegs (by simp only [regAddr, R.CLC_LMAP, regOffset]; omega))
  slot d hd k hk j hj i hi := ⟨h.rd (not_trafficRegs (by simp only [regAddr, R.CORE_SLOT_MEM, regOffset]; omega)),
    h.rd (not_trafficRegs (by simp only [regAddr, R.CORE_SLOT_EXE, regOffset]; omega))⟩

namespace SameGrants

variable {s t u : State} {c : Nat}

theorem trans (h : SameGrants s t) (k : SameGrants t u) : SameGrants s u where
  dev := k.dev.trans h.dev
  img := k.img.trans h.img
  ctx c hc := (k.ctx c hc).trans (h.ctx c hc)
  ready := k.ready.trans h.ready
  cluster d hd e he p hp := (k.cluster d hd e he p hp).trans (h.cluster d hd e he p hp)
  lmap d hd e he i hi := (k.lmap d hd e he i hi).trans (h.lmap d hd e he i hi)
  slot d hd e he j hj i hi := ⟨(k.slot d hd e he j hj i hi).1.trans (h.slot d hd e he j hj i hi).1,
    (k.slot d hd e he j hj i hi).2.trans (h.slot d hd e he j hj i hi).2⟩

section
variable (h : SameGrants s t)
include h

theorem ctxPart (hc : c < 64) : t.ctxPart c = s.ctxPart c := by
  rw [State.ctxPart, State.ctxPart, State.fld, State.fld, h.ctx c hc]

theorem share {d k core i : Nat} (hd : d < 2) (hk : k < 8) (hcore : core < 16) (hi : i < 4) :
    t.share (128 * d + 16 * k + core) i = s.share (128 * d + 16 * k + core) i := by
  have hdie : (128 * d + 16 * k + core) / 128 = d := by omega
  have hcluster : (128 * d + 16 * k + core) / 16 % 8 = k := by omega
  have hphys : t.physOf (128 * d + 16 * k + core) = s.physOf (128 * d + 16 * k + core) := by
    rw [State.physOf, State.physOf, State.lmapByte, State.lmapByte, State.fld, State.fld, hdie, hcluster, h.lmap d hd k hk _ (by omega)]
  obtain ⟨hmem, hexe⟩ := h.slot d hd k hk (s.physOf (128 * d + 16 * k + core)) (Nat.mod_lt _ (by decide)) i hi
  rw [State.share, State.share, hphys, hdie, hcluster, State.shareAt, State.shareAt, hmem, hexe]

theorem slotResident (p i : Nat) : t.slotResident p i = s.slotResident p i := by
  have hlist : t.partCtxs p = s.partCtxs p := by
    refine List.filter_congr fun c hc => ?_
    have hlt : c < 64 := by simpa [mem_rangeFrom] using hc
    rw [h.ctxPart hlt, State.ctxValid, State.ctxValid, State.bit, State.bit, State.fld, State.fld, h.ctx c hlt]
  rw [State.slotResident, State.slotResident, hlist, Bool.eq_iff_iff, List.any_eq_true, List.any_eq_true]
  refine exists_congr fun c => and_congr_right fun hc => ?_
  have hlt : c < 64 := by simpa [mem_rangeFrom] using (List.mem_filter.1 hc).1
  rw [State.ctxResident, State.ctxResident, State.ctxResSlot, State.ctxResSlot, State.bit, State.bit, State.fld, State.fld, State.fld,
    State.fld, h.ctx c hlt]

theorem ctxMayUse (hc : c < 64) {d k core i : Nat} (hd : d < 2) (hk : k < 8) (hcore : core < 16) (hi : i < 4) :
    t.ctxMayUse c (128 * d + 16 * k + core) i = s.ctxMayUse c (128 * d + 16 * k + core) i := by
  rw [State.ctxMayUse, State.ctxMayUse, h.share hd hk hcore hi, h.ctxPart hc, h.slotResident, State.ctxResident, State.ctxResident,
    State.ctxResSlot, State.ctxResSlot, State.bit, State.bit, State.fld, State.fld, State.fld, State.fld, h.ctx c hc]

theorem coreShareHolds (hc : c < 64) {d k core : Nat} (hd : d < 2) (hk : k < 8) (hcore : core < 16) (a n : Nat) :
    t.coreShareHolds c d k core a n = s.coreShareHolds c d k core a n := by
  rw [State.coreShareHolds, State.coreShareHolds, Bool.eq_iff_iff, List.any_eq_true, List.any_eq_true]
  refine exists_congr fun i => and_congr_right fun hi => ?_
  have hlt : i < 4 := by simpa [mem_rangeFrom] using hi
  rw [h.ctxMayUse hc hd hk hcore hlt, h.share hd hk hcore hlt]

theorem clusterShareHolds {d k p : Nat} (hd : d < 2) (hk : k < 8) (hp : p < 16) (a n : Nat) :
    t.clusterShareHolds p d k a n = s.clusterShareHolds p d k a n := by
  rw [State.clusterShareHolds, State.clusterShareHolds, h.cluster d hd k hk p hp]

theorem dramReady (a n : Nat) : t.dramReady a n = s.dramReady a n := by
  simp only [State.dramReady, State.bit, State.fld, h.ready, h.dev, h.img, State.stackOf]

theorem regionOk (hc : c < 64) (a n : Nat) (write : Bool) : t.regionOk c a n write = s.regionOk c a n write := by
  have hp : s.ctxPart c < 16 := ctxPart_lt s c
  obtain ⟨hcluster, hcore⟩ := placeOf_die_lt (asm := s.dev.assembly) (a := a)
  unfold State.regionOk
  rw [h.dev, h.ctxPart hc]
  generalize placeOf s.dev.assembly a = pl at hcluster hcore ⊢
  cases pl with
  | dram => rw [State.regionsCover, State.regionsCover, h.img]
  | hub => rw [State.regionsCover, State.regionsCover, h.img]
  | cluster d k =>
    obtain ⟨hd, hk⟩ := hcluster rfl
    exact congrArg _ (h.clusterShareHolds hd hk hp a n)
  | core d k core =>
    obtain ⟨hd, hk, hj⟩ := hcore rfl
    exact congrArg _ (h.coreShareHolds hc hd hk hj a n)
  | unpopulated => rfl

/-- The same accesses are granted. -/
theorem accessOk (hc : c < 64) (a n : Nat) (write : Bool) : t.accessOk c a n write = s.accessOk c a n write := by
  rw [State.accessOk, State.accessOk, h.regionOk hc, h.dev, h.dramReady]

end

end SameGrants

end Sys2Proof.Machine
end

section
/-! SUPPORT. Rows of bytes written to a surface (R48). -/

namespace Sys2Proof.Machine

/-! ### Bytes read back -/

section
variable {s t : State}

theorem State.bytes_succ (s : State) (a n : Nat) : s.bytes a (n + 1) = s.byte a :: s.bytes (a + 1) n := rfl

/-- What memory holds byte by byte, a read of all of it gives. -/
theorem State.bytes_eq_of_byte {a : Nat} {bs : List Byte} (h : ∀ i < bs.length, s.byte (a + i) = bs.getD i 0) :
    s.bytes a bs.length = bs := by
  induction bs generalizing a with
  | nil => rfl
  | cons b bs ih =>
    have hhead : s.byte a = b := h 0 (by simp)
    rw [List.length_cons, State.bytes_succ, hhead, ih fun i hi => ?_]
    rw [Nat.add_assoc, Nat.add_comm 1 i]
    exact h (i + 1) (by simpa using hi)

theorem State.bytes_congr {a n : Nat} (h : ∀ x, a ≤ x → x < a + n → t.byte x = s.byte x) : t.bytes a n = s.bytes a n :=
  List.map_congr_left fun x hx => h x ((mem_rangeFrom a n x).1 hx).1 ((mem_rangeFrom a n x).1 hx).2

theorem byte_of_part {parts : List Part} {moved : Nat → Prop} (h : ChangesWithin parts moved s t) (hm : Part.mem ∉ parts) (x : Nat) :
    t.byte x = s.byte x := by
  rw [State.byte, State.byte, h.part hm]

end

/-- A slice of bytes that are all there. -/
theorem sliceBytes_of_le {bs : List Byte} {o n : Nat} (h : o + n ≤ bs.length) : sliceBytes bs o n = (bs.drop o).take n := by
  have hlen : ((bs.drop o).take n).length = n := by
    rw [List.length_take, List.length_drop]
    omega
  rw [sliceBytes, hlen, Nat.sub_self, List.replicate_zero, List.append_nil]

theorem sliceBytes_drop (bs : List Byte) (k o n : Nat) : sliceBytes (bs.drop k) o n = sliceBytes bs (k + o) n := by
  rw [sliceBytes, sliceBytes, List.drop_drop]

/-! ### Words in error -/

/-- A write ends errors and makes none: what no error stopped before, none stops afterwards. -/
theorem writeError_congr {s t : State} (hdev : t.dev = s.dev) (hbad : ∀ w ∈ t.err.bad, w ∈ s.err.bad) {a n : Nat}
    (h : s.writeError a n = none) : t.writeError a n = none := by
  rw [State.writeError, List.head?_eq_none_iff, List.filter_eq_nil_iff] at h ⊢
  intro w hw
  rw [hdev]
  refine h w ?_
  rw [State.badIn, List.mem_filter] at hw ⊢
  rw [hdev] at hw
  exact ⟨hbad w hw.1, hw.2⟩

theorem bad_write (s : State) (a : Nat) (bs : List Byte) : ∀ w ∈ (s.write a bs).err.bad, w ∈ s.err.bad := by
  unfold State.write
  split
  · exact fun w hw => (List.mem_filter.1 hw).1
  · exact fun w hw => hw

theorem write_within (s : State) (a : Nat) (bs : List Byte) {parts : List Part} {moved : Nat → Prop} (hm : Part.mem ∈ parts)
    (he : Part.err ∈ parts) : ChangesWithin parts moved s (s.write a bs) := by
  refine .of_cfg (changesOnly_mono (changesOnly_write s a bs) (by simp [hm, he])) ((changesOnly_write s a bs) .regs (by decide)) ?_ ?_
  · exact congrArg SctState.held ((changesOnly_write s a bs) .sct (by decide))
  · exact congrArg SctState.cache ((changesOnly_write s a bs) .sct (by decide))

/-! ### Rows -/

/-- The parts that rows written through the regulators change. -/
abbrev rowParts : List Part := .mem :: .err :: trafficParts

/-- A row is written, and passes the regulators of the context's partition. -/
def State.writeRow (s : State) (ctx a : Nat) (bs : List Byte) : State := (s.write a bs).hubWrote (s.ctxPart ctx) a bs.length

/-- Memory takes a row. -/
abbrev State.rowFits (s : State) (ctx a n : Nat) : Prop := s.accessOk ctx a n true = true ∧ s.writeError a n = none

section
variable {s t : State} {ctx a : Nat} {bs : List Byte}

theorem hubWrote_writeRow_within (s : State) (ctx a : Nat) (bs : List Byte) :
    ChangesWithin trafficParts trafficRegs (s.write a bs) (s.writeRow ctx a bs) := hubWrote_within _ (ctxPart_lt s ctx) _ _

theorem writeRow_within (s : State) (ctx a : Nat) (bs : List Byte) : ChangesWithin rowParts trafficRegs s (s.writeRow ctx a bs) :=
  (write_within s a bs (by decide) (by decide)).trans ((hubWrote_writeRow_within s ctx a bs).mono (by decide) fun _ => id)

/-- A row that memory takes leaves room for every row that fitted before. -/
theorem rowFits_writeRow (hctx : ctx < 64) {b n : Nat} (h : s.rowFits ctx b n) : (s.writeRow ctx a bs).rowFits ctx b n := by
  have hw := writeRow_within s ctx a bs
  have herr : (s.writeRow ctx a bs).err = (s.write a bs).err := (hubWrote_writeRow_within s ctx a bs).part (p := .err) (by decide)
  refine ⟨((hw.sameGrants (by decide) (by decide)).accessOk hctx b n true).trans h.1, writeError_congr (hw.part (p := .dev) (by decide)) ?_ h.2⟩
  rw [herr]
  exact bad_write s a bs

theorem byte_writeRow (h : s.rowFits ctx a bs.length) (x : Nat) :
    (s.writeRow ctx a bs).byte x = if a ≤ x ∧ x < a + bs.length then bs.getD (x - a) 0 else s.byte x := by
  rw [byte_of_part (hubWrote_writeRow_within s ctx a bs) (by decide), State.byte_write s a x bs h.2]

theorem bytes_writeRow (h : s.rowFits ctx a bs.length) : (s.writeRow ctx a bs).bytes a bs.length = bs :=
  State.bytes_eq_of_byte fun i hi => by rw [byte_writeRow h, if_pos (by omega), Nat.add_sub_cancel_left]

theorem writeRows_cons {base pitch w y : Nat} {ys : List Nat} {bs : List Byte}
    (h : s.rowFits ctx (base + y * pitch) (bs.take w).length) : s.writeRows ctx base pitch w bs (y :: ys)
      = (s.writeRow ctx (base + y * pitch) (bs.take w)).writeRows ctx base pitch w (bs.drop w) ys := by
  have hwrite : s.writeFor ctx (base + y * pitch) (bs.take w) = .ok (s.write (base + y * pitch) (bs.take w)) := by
    rw [State.writeFor, if_pos h.1, h.2]
  rw [State.writeRows, hwrite]
  rfl

/-- Rows of a surface that do not overlap and that memory takes are written: memory holds them, and differs nowhere else. -/
theorem writeRows_fit {base pitch w first n : Nat} (hctx : ctx < 64) (hpitch : w ≤ pitch) (hlen : bs.length = w * n)
    (hfit : ∀ i < n, s.rowFits ctx (base + (first + i) * pitch) w) :
    ∃ t, s.writeRows ctx base pitch w bs (rangeFrom first n) = (t, true) ∧ ChangesWithin rowParts trafficRegs s t
      ∧ (∀ i < n, t.bytes (base + (first + i) * pitch) w = sliceBytes bs (w * i) w)
      ∧ ∀ x, (∀ i < n, x < base + (first + i) * pitch ∨ base + (first + i) * pitch + w ≤ x) → t.byte x = s.byte x := by
  induction n generalizing s first bs with
  | zero => exact ⟨s, rfl, .refl _ _ s, fun i hi => absurd hi (Nat.not_lt_zero i), fun x _ => rfl⟩
  | succ n ih =>
    have hrow : (bs.take w).length = w := by
      rw [List.length_take, hlen, Nat.mul_succ]
      omega
    have hhead : s.rowFits ctx (base + first * pitch) (bs.take w).length := by
      rw [hrow]
      exact hfit 0 (Nat.succ_pos n)
    obtain ⟨t, ht, hwithin, hbytes, hother⟩ := ih (s := s.writeRow ctx (base + first * pitch) (bs.take w)) (first := first + 1)
      (bs := bs.drop w) (by rw [List.length_drop, hlen, Nat.mul_succ, Nat.add_sub_cancel]) fun i hi => by
        rw [Nat.add_assoc, Nat.add_comm 1 i]
        exact rowFits_writeRow hctx (hfit (i + 1) (Nat.succ_lt_succ hi))
    have hbelow (i : Nat) : base + first * pitch + w ≤ base + (first + 1 + i) * pitch := by
      have := Nat.mul_le_mul_right pitch (show first + 1 ≤ first + 1 + i by omega)
      rw [Nat.succ_mul] at this
      omega
    refine ⟨t, (writeRows_cons hhead).trans ht, (writeRow_within s ctx _ _).trans hwithin, fun i hi => ?_, fun x hx => ?_⟩
    · cases i with
      | zero =>
        have hkeep : t.bytes (base + first * pitch) w = (s.writeRow ctx (base + first * pitch) (bs.take w)).bytes (base + first * pitch) w :=
          State.bytes_congr fun x hle hlt => hother x fun i hi => .inl (Nat.lt_of_lt_of_le hlt (hbelow i))
        have hread := bytes_writeRow hhead
        rw [hrow] at hread
        rw [Nat.add_zero, hkeep, hread, Nat.mul_zero, sliceBytes_of_le (by rw [hlen, Nat.mul_succ]; omega), List.drop_zero]
      | succ i =>
        have hnext := hbytes i (Nat.lt_of_succ_lt_succ hi)
        rwa [sliceBytes_drop, Nat.add_assoc, Nat.add_comm 1 i, Nat.add_comm w, ← Nat.mul_succ] at hnext
    · rw [hother x fun i hi => ?_, byte_writeRow hhead, if_neg ?_]
      · have h0 := hx 0 (Nat.succ_pos n)
        rw [Nat.add_zero] at h0
        omega
      · have hi := hx (i + 1) (Nat.succ_lt_succ hi)
        rwa [← Nat.add_assoc, Nat.add_right_comm] at hi

end

end Sys2Proof.Machine
end

section
/-! PROOFS. The write-back of a slice (R48, R55). -/

namespace Sys2Proof.Machine

/-- The entry of a slice is freed. -/
def State.freeRun (s : State) (o : Nat) (frame : Word) (n : Nat) : State :=
  ((s.setOut o { s.out o with runs := (s.out o).runs.filter fun y => !(y.frame == frame && y.slice == n) }).entriesFlag o).bankFlags o

/-- The warp of a slice that is gone is dropped. -/
def State.dropWarp (s : State) (o p : Nat) (r : SliceRun) : State :=
  if r.warp.isSome then (s.setBit R.WRP_STATUS [p] 0 false).nextWarp o p (s.out o).runs.length else s

/-- A frame of which a slice is written back, well or not. -/
def FrameRec.wroteBack (f : FrameRec) (n : Nat) (ok : Bool) : FrameRec :=
  { f with written := n :: f.written.filter (· != n), spoiled := f.spoiled || !ok }

/-- The surface of a frame becomes the last complete output. -/
def State.becomeLco (s : State) (o p : Nat) (frame : Word) : State :=
  ((s.setLco o p true).setFld R.WRP_STATUS [p] 2 2 (frame.toNat % 2)).poke R.WRP_LCO_FRAME [p] frame

/-- A frame of `S` slices becomes the last complete output where it is complete and not spoiled. -/
def State.lcoOf (s : State) (o p S : Nat) (frame : Word) (f : FrameRec) : State :=
  if f.written.length = S ∧ !f.spoiled then s.becomeLco o p frame else s

/-- What is left of a write-back whose rows are done. -/
def State.afterRows (s : State) (o p S : Nat) (tag : SliceTag) (r : SliceRun) (f : FrameRec) (ok : Bool) : State :=
  ((((s.freeRun o tag.frame tag.slice.val).dropWarp o p r).lcoOf o p S tag.frame (f.wroteBack tag.slice.val ok)).dropFrame o
    (f.wroteBack tag.slice.val ok))

section
variable {s : State} {tag : SliceTag} {r : SliceRun}

/-- The rows of a slice written back. -/
def State.slicesRows (s : State) (tag : SliceTag) (p : Nat) (r : SliceRun) : State × Bool :=
  let o := tag.output.val
  let T := s.synTiming o
  let surf := s.lcoSurface p (tag.frame.toNat % 2) T.hActive T.vActive
  s.writeRows (s.synCtx o) surf.base surf.pitch (4 * T.hActive) (s.finalPixels o p (some r) tag.slice.val)
    (rangeFrom (firstLine (s.synS o) T.vActive tag.slice.val) (sliceLines (s.synS o) T.vActive tag.slice.val))

theorem exec_sliceWritebackEnd {p : Nat} {f : FrameRec} {t : State} {ok : Bool} (h : s.atSlice tag r)
    (hp : s.pipeOf tag.output.val = some p) (hf : s.frameRec tag.output.val tag.frame = some f) (hon : s.synOn tag.output.val = true)
    (hrows : s.slicesRows tag p r = (t, ok)) : exec (.sliceWritebackEnd tag) s = .next
      ((t.afterRows tag.output.val p (s.synS tag.output.val) tag r f ok).kept s) := by
  obtain ⟨hl, -, hrun⟩ := h
  rw [State.slicesRows] at hrows
  rw [show exec (.sliceWritebackEnd tag) s = execSliceWritebackEnd tag s from rfl, execSliceWritebackEnd, State.live_next s _ hl]
  simp only [hp, hf, hrun, hon, if_true]
  rw [hrows]
  rfl

/-! ### The entry is free -/

section
variable {o p : Nat} {frame : Word} {n : Nat}

theorem freeRun_syn (s : State) (o : Nat) (frame : Word) (n : Nat) : (s.freeRun o frame n).syn
    = (s.setOut o { s.out o with runs := (s.out o).runs.filter fun y => !(y.frame == frame && y.slice == n) }).syn := rfl

theorem run_freeRun (ho : o < 4) : (s.freeRun o frame n).run o frame n = none := by
  rw [State.run_congr (freeRun_syn s o frame n), State.run, State.out_setOut_self _ _ ho, List.find?_eq_none]
  intro x hx
  simpa [Classical.or_iff_not_imp_left] using (List.mem_filter.1 hx).2

theorem runsDistinct_freeRun (ho : o < 4) (hd : s.runsDistinct o) : (s.freeRun o frame n).runsDistinct o := by
  refine runsDistinct_congr (freeRun_syn s o frame n) ?_
  rw [State.runsDistinct, State.out_setOut_self _ _ ho]
  exact hd.sublist (List.filter_sublist.map _)

theorem run_dropWarp (ho : o < 4) (hd : s.runsDistinct o) (h : s.run o frame n = none) : (s.dropWarp o p r).run o frame n = none := by
  have hsyn : (s.setBit R.WRP_STATUS [p] 0 false).syn = s.syn := rfl
  have hsame := State.run_congr hsyn o frame n
  unfold State.dropWarp
  split
  · rw [run_nextWarp ho p _ (runsDistinct_congr hsyn hd) fun x hx => absurd (hx.symm.trans (hsame.trans h)) (by simp), hsame, h]
  · exact h

theorem lcoOf_syn (s : State) (o p S : Nat) (frame : Word) (f : FrameRec) : (s.lcoOf o p S frame f).syn = s.syn := by
  unfold State.lcoOf
  split <;> rfl

theorem run_dropFrame (ho : o < 4) (f : FrameRec) : (s.dropFrame o f).run o frame n = s.run o frame n := by
  unfold State.dropFrame
  split
  · rw [State.run, State.out_setOut_self _ _ ho]
    rfl
  · exact State.run_putFrame ho f frame n

theorem run_afterRows (hd : s.runsDistinct tag.output.val) (p S : Nat) (f : FrameRec) (ok : Bool) :
    (s.afterRows tag.output.val p S tag r f ok).run tag.output.val tag.frame tag.slice.val = none := by
  have ho := tag.output.isLt
  rw [State.afterRows, run_dropFrame ho, State.run_congr (lcoOf_syn _ _ _ _ _ _)]
  exact run_dropWarp ho (runsDistinct_freeRun ho hd) (run_freeRun ho)

/-! ### Parts -/

theorem dropFrame_within (s : State) (o : Nat) (f : FrameRec) {parts : List Part} {moved : Nat → Prop} (hs : Part.syn ∈ parts) :
    ChangesWithin parts moved s (s.dropFrame o f) := by
  unfold State.dropFrame
  split
  · exact .setOut _ _ _ hs
  · exact .putFrame _ _ _ hs

theorem afterRows_within (s : State) (o p S : Nat) (tag : SliceTag) (r : SliceRun) (f : FrameRec) (ok : Bool) :
    ChangesWithin [.regs, .syn] (fun _ => True) s (s.afterRows o p S tag r f ok) := by
  have hfree (t : State) : ChangesWithin [.regs, .syn] (fun _ => True) t (t.freeRun o tag.frame tag.slice.val) :=
    ((ChangesWithin.setOut t o _ (by decide)).trans (.setFld _ _ _ _ _ _ (by decide) trivial)).trans
      (bankFlags_within _ o (by decide) trivial)
  have hwarp (t : State) : ChangesWithin [.regs, .syn] (fun _ => True) t (t.dropWarp o p r) := by
    unfold State.dropWarp
    split
    · exact (ChangesWithin.setBit t _ _ _ _ (by decide) trivial).trans ((nextWarp_within _ o p _).mono (fun _ => id) fun _ _ => trivial)
    · exact .refl _ _ t
  have hlco (t : State) : ChangesWithin [.regs, .syn] (fun _ => True) t (t.lcoOf o p S tag.frame (f.wroteBack tag.slice.val ok)) := by
    unfold State.lcoOf
    split
    · exact (((ChangesWithin.setBit t _ _ _ _ (by decide) trivial).trans (.setBit _ _ _ _ _ (by decide) trivial)).trans
        (.setFld _ _ _ _ _ _ (by decide) trivial)).trans (.poke _ _ _ _ (by decide) trivial)
    · exact .refl _ _ t
  exact (((hfree s).trans (hwarp _)).trans (hlco _)).trans (dropFrame_within _ _ _ (by decide))

/-! ### The last complete output -/

theorem lco_apart : ∀ p < 5, ∀ o < 4, regAddr R.WRP_STATUS [p] ≠ regAddr R.WRP_LCO_FRAME [p]
    ∧ regAddr R.WRP_STATUS [p] ≠ regAddr R.SYN_STATUS [o] := by decide

theorem becomeLco_valid (s : State) (frame : Word) (hp : p < 5) (ho : o < 4) :
    (s.becomeLco o p frame).bit R.WRP_STATUS [p] 1 = true ∧ (s.becomeLco o p frame).rd R.WRP_LCO_FRAME [p] = frame := by
  obtain ⟨hframe, hsyn⟩ := lco_apart p hp o ho
  refine ⟨?_, State.rd_poke_self _ _ _ _⟩
  have hset : (s.setLco o p true).fld R.WRP_STATUS [p] 1 1 = 1 := by
    rw [State.setLco, State.fld, State.setBit, State.setFld, State.rd_poke_ne _ _ _ _ _ _ hsyn]
    exact State.fld_setFld_self s _ _ _ _ _ (by decide)
  rw [State.becomeLco, State.bit, State.fld, State.rd_poke_ne _ _ _ _ _ _ hframe]
  have hkeep := State.fld_setFld_apart (s.setLco o p true) R.WRP_STATUS [p] 2 2 (frame.toNat % 2) 1 1 (by decide) (by decide)
  rw [State.fld] at hkeep
  rw [hkeep, hset]
  rfl

theorem afterRows_lco (s : State) {S : Nat} (tag : SliceTag) (r : SliceRun) (f : FrameRec) (hp : p < 5)
    (hS : (tag.slice.val :: f.written.filter (· != tag.slice.val)).length = S) (hgood : f.spoiled = false) :
    (s.afterRows tag.output.val p S tag r f true).bit R.WRP_STATUS [p] 1 = true
      ∧ (s.afterRows tag.output.val p S tag r f true).rd R.WRP_LCO_FRAME [p] = tag.frame := by
  have hcond : (f.wroteBack tag.slice.val true).written.length = S ∧ (!(f.wroteBack tag.slice.val true).spoiled) = true :=
    ⟨hS, by simp [FrameRec.wroteBack, hgood]⟩
  have hdrop (t : State) : ChangesWithin [.syn] (fun _ => False) t (t.dropFrame tag.output.val (f.wroteBack tag.slice.val true)) :=
    dropFrame_within _ _ _ (by decide)
  rw [State.afterRows, State.lcoOf, if_pos hcond, State.bit, (hdrop _).fld id, (hdrop _).rd id]
  exact becomeLco_valid _ _ hp tag.output.isLt

end

/-! ### The clause -/

theorem synCtx_lt (s : State) (o : Nat) : s.synCtx o < 64 := by
  have hfld : s.fld R.SYN_QUEUE [o] 13 0 < 2 ^ 14 := Nat.mod_lt _ (by decide)
  rw [State.synCtx, queueCtx]
  omega

theorem sliceWritebackEnd_completes {f : FrameRec} {p : Nat} (h : s.atSlice tag r) (hp : s.pipeOf tag.output.val = some p)
    (hf : s.frameRec tag.output.val tag.frame = some f) (hon : s.synOn tag.output.val = true) :
    let o := tag.output.val
    let T := s.synTiming o
    let n := tag.slice.val
    let surf := s.lcoSurface p (tag.frame.toNat % 2) T.hActive T.vActive
    let first := firstLine (s.synS o) T.vActive n
    let lines := sliceLines (s.synS o) T.vActive n
    let data := s.finalPixels o p (some r) n
    data.length = 4 * T.hActive * lines → 4 * T.hActive ≤ surf.pitch →
    (∀ y, y < lines → s.accessOk (s.synCtx o) (surf.base + (first + y) * surf.pitch) (4 * T.hActive) true = true
      ∧ s.writeError (surf.base + (first + y) * surf.pitch) (4 * T.hActive) = none) →
    completes (.sliceWritebackEnd tag) s [.free, .regs, .mem, .syn, .sct, .err, .sch] fun t => t.run o tag.frame n = none
      ∧ (∀ y, y < lines → t.bytes (surf.base + (first + y) * surf.pitch) (4 * T.hActive) = sliceBytes data (4 * T.hActive * y) (4 * T.hActive))
      ∧ (∀ b, (∀ y, y < lines → b < surf.base + (first + y) * surf.pitch ∨ surf.base + (first + y) * surf.pitch + 4 * T.hActive ≤ b) →
          t.byte b = s.byte b)
      ∧ ((n :: f.written.filter (· != n)).length = s.synS o → f.spoiled = false →
          t.bit R.WRP_STATUS [p] 1 = true ∧ t.rd R.WRP_LCO_FRAME [p] = tag.frame) := by
  intro o T n surf first lines data hlen hpitch hfit
  obtain ⟨t, ht, hwithin, hbytes, hother⟩ := writeRows_fit (s := s) (base := surf.base) (synCtx_lt s o) hpitch hlen hfit
  have hafter := afterRows_within t o p (s.synS o) tag r f true
  have hmem (x : Nat) := byte_of_part hafter (by decide) x
  have hd := runsDistinct_congr (hwithin.part (p := .syn) (by decide)) h.2.1
  refine completes_of_next (exec_sliceWritebackEnd h hp hf hon ht) ?_ ⟨?_, fun y hy => ?_, fun b hb => ?_, fun hS hgood => ?_⟩
  · exact changesOnly_trans (changesOnly_mono hwithin.parts (by decide)) (changesOnly_mono hafter.parts (by decide))
  · exact run_afterRows hd p _ f true
  · exact (State.bytes_congr fun x _ _ => hmem x).trans (hbytes y hy)
  · exact (hmem b).trans (hother b hb)
  · exact afterRows_lco t tag r f (pipeOf_lt hp) hS hgood

end

end Sys2Proof.Machine
end

section
/-! PROOFS. The release of slice 0 of a frame: the pair of keyframes and the values in force are latched (R40, R64, R68). -/

namespace Sys2Proof.Machine

variable {s₀ s t : State}

/-! ### What leaves the slices under way alone -/

namespace SlicesKept

theorem setEntries {o b} (h : SlicesKept s₀ s) : SlicesKept s₀ (s.setEntries o b) := h.setFld.setFld

theorem referenceAt {o n} (h : SlicesKept s₀ s) : SlicesKept s₀ (s.referenceAt o n) := by
  unfold State.referenceAt
  extract_lets late k x failed given y
  have hlate : SlicesKept s₀ late := by
    dsimp only [late]
    split
    · exact .ite h.adpDrop h
    · exact h
  have hgiven : SlicesKept s₀ given := hlate.adpGiveUp
  refine .ite (.ite hlate.adpSkip (SlicesKept.adpStatus (hgiven.setOut ?_))) hlate
  rfl

theorem synRead {o reads} (h : SlicesKept s₀ s) : SlicesKept s₀ (s.synRead o reads) := .foldl (fun _ _ h => h.hubRead) h

theorem synWrite {o a bs} (h : SlicesKept s₀ s) : SlicesKept s₀ (s.synWrite o a bs) := by
  unfold State.synWrite State.writeFor
  split
  · next hw =>
    split at hw
    · split at hw
      · exact WriteResult.ok.inj hw ▸ h.write.hubWrote
      · cases hw
    · cases hw
  · exact h

/-- The tensors of a sample slice are copied, where they can be read. -/
theorem sampleCopied {o a reads bs} (h : SlicesKept s₀ s) : SlicesKept s₀ (match s.readsFail (s.synCtx o) reads with
    | none => (s.synRead o reads).synWrite o a bs
    | some _ => s) := by
  split
  · exact h.synRead.synWrite
  · exact h

theorem rejectDoorbell {q n pLast reason} (h : SlicesKept s₀ s) : SlicesKept s₀ (s.rejectDoorbell q n pLast reason) := h.countSat.event

theorem doorbell {q n} (h : SlicesKept s₀ s) : SlicesKept s₀ (s.doorbell q n).1 := by
  have hreject {t : State} (ht : SlicesKept s₀ t) (p : Word) (e v : Nat) : SlicesKept s₀ (t.rejectDoorbell q n p e, v).1 := by
    dsimp only
    exact ht.rejectDoorbell
  unfold State.doorbell
  dsimp only
  split
  · exact h
  · split
    · split
      · exact h
      · exact hreject h.draw _ _ _
    · split
      · exact hreject h _ _ _
      · split
        · exact h.putQueue.flushQueue
        · split
          · exact h
          · split
            · exact h.putQueue
            · exact hreject h _ _ _

theorem submitEntry {x bs} (h : SlicesKept s₀ s) : SlicesKept s₀ (s.submitEntry x bs) := h.write.doorbell

theorem captureSlice {o frame n history vectors} (h : SlicesKept s₀ s) :
    SlicesKept s₀ (s.captureSlice o frame n history vectors) := by
  unfold State.captureSlice
  extract_lets x
  split
  · exact h
  · split
    · exact h
    · split
      · exact h
      · split
        · extract_lets v
          split
          next _ from_ _ hfrom =>
          have hfrom : SlicesKept s₀ from_ := by
            split at hfrom
            · exact (Prod.mk.inj hfrom).1 ▸ h
            · exact (Prod.mk.inj hfrom).1 ▸ h.draw
          extract_lets reads bs copied out marked shown
          have hcopied : SlicesKept s₀ copied := hfrom.sampleCopied
          have hmarked : SlicesKept s₀ marked := hcopied.setOut rfl
          have hshown : SlicesKept s₀ shown := hmarked.setBit.setFld
          exact .ite hshown.count hshown
        · exact h

end SlicesKept

/-! ### The parts of a release -/

/-- The entry of a slice as it is released. -/
def State.newRun (s : State) (o : Nat) (f : Word) (n : Nat) : SliceRun :=
  let x := s.out o
  let t := s.sliceTimes o f n x.budget x.margin
  let tm := s.synTiming o
  let mid := t.scan + ((firstLine (s.synS o) tm.vActive n + firstLine (s.synS o) tm.vActive (n + 1)) / 2
    - firstLine (s.synS o) tm.vActive n : Nat) * (s.tFrame o / tm.vTotal)
  { frame := f, slice := n, deadline := t.deadline.toNat, fallback := t.fallback.toNat, task := none, window := true,
    direct := false, data := [], origin := none, final := false, warp := none, bank := s.curBank o,
    vectors := s.bytes (s.bankAddr o (s.curBank o)) 2048, inputs := [], history := x.histGood.contains (n, f - 1), mid := mid.toNat,
    copying := false, warpCopying := false }

/-- A released slice's history is used up, and it is captured if it is a sample. -/
def State.captured (s : State) (o : Nat) (f : Word) (n : Nat) : State :=
  (s.setOut o { s.out o with histGood := (s.out o).histGood.filter fun e => e.1 != n }).captureSlice o f n
    ((s.out o).histGood.contains (n, f - 1)) (s.bytes (s.bankAddr o (s.curBank o)) 2048)

/-- The entry in the queue of a slice's task, as SYN writes it. -/
def State.taskBytes (s : State) (o : Nat) (r : SliceRun) (newer : Word) : List Byte :=
  s.sliceEntry o r.frame r.slice (r.deadline / 2 ^ 32) (s.inputDescriptor o r.history
    (match s.frameRec o r.frame with | some y => y.count | none => 0) newer)

/-- The user of weights of a slice's task. -/
def State.userOf (s : State) (o : Nat) (r : SliceRun) (qu : Queue) : SliceUser :=
  { qid := s.fld R.SYN_QUEUE [o] 13 0, seq := qu.pLast, frame := r.frame, slice := r.slice, sel := s.fld R.SYN_ADP_STATUS [o] 1 0,
    accepted := false }

/-- Weights have one more user. -/
def State.addUser (s : State) (o : Nat) (u : SliceUser) : State := s.setOut o { s.out o with users := (s.out o).users ++ [u] }

/-- The entry of a slice whose task is queued. -/
def State.tasked (s : State) (o : Nat) (r : SliceRun) (qu : Queue) : SliceRun :=
  { r with task := some (s.fld R.SYN_QUEUE [o] 13 0, qu.pLast), copying := true }

/-- The slice has its entry, with the task that is to be queued, which uses the weights in force. -/
def State.entered (s : State) (o : Nat) (r : SliceRun) (qu : Queue) : State :=
  (((s.putRun o (s.tasked o r qu)).addUser o (s.userOf o r qu)).bankFlags o).adpStatus o

/-- The slice has its entry, and its task is queued where the queue has room (R42). -/
def State.queued (s : State) (o : Nat) (r : SliceRun) (newer : Word) : Option Queue → State
  | none => (s.putRun o r).synCount o R.SYN_CNT_RELDROP 3
  | some qu => (s.entered o r qu).submitEntry qu (s.taskBytes o r newer)

/-- Is a slice served by a keyframe-direct copy (R56)? -/
def State.servedDirect (s : State) (o : Nat) (f : Word) : Bool :=
  s.synD o == 1 && s.bit R.SYN_CTRL [o] 1 && s.isKfRefresh o f && (s.out o).kfComplete (s.kfIndex o f)

/-- A slice gets its entry, if one is free beside those taken. -/
def State.placed (s : State) (o : Nat) (r : SliceRun) (taken : Nat) : State :=
  if taken ≥ s.fld R.SYN_ENTRIES [o] 7 0 then s
  else if s.servedDirect o r.frame then s.putRun o { r with direct := true }
  else match (s.frameRec o r.frame).bind (·.pair) with
    | none => s.putRun o r
    | some (newer, _) => s.queued o r newer.index (s.openQueue (s.fld R.SYN_QUEUE [o] 13 0))

theorem releaseSlice_eq (s : State) (o : Nat) (f : Word) (n : Nat) :
    s.releaseSlice o f n = (s.captured o f n).placed o (s.newRun o f n) (s.out o).runs.length := rfl

theorem captured_kept (s : State) (o : Nat) (f : Word) (n : Nat) : SlicesKept s (s.captured o f n) :=
  SlicesKept.captureSlice ((SlicesKept.refl s).setOut rfl)

/-! ### What is in force for a frame -/

/-- The frames of an output, and the budget and margin in force. -/
def SynOut.inForce (x : SynOut) : List FrameRec × Nat × Nat := (x.frames, x.budget, x.margin)

theorem SlicesKept.inForce (h : SlicesKept s t) (o : Nat) : (t.out o).inForce = (s.out o).inForce := congrArg Prod.snd (h.outs o)

theorem inForce_putRun {o : Nat} (ho : o < 4) (s : State) (r : SliceRun) : ((s.putRun o r).out o).inForce = (s.out o).inForce := by
  rw [State.putRun, State.out_setOut_self _ _ ho]
  rfl

theorem entered_kept (s : State) (o : Nat) (r : SliceRun) (qu : Queue) :
    SlicesKept (s.putRun o (s.tasked o r qu)) (s.entered o r qu) := by
  refine SlicesKept.adpStatus (SlicesKept.setBit (SlicesKept.setBit ((SlicesKept.refl _).setOut ?_)))
  rfl

theorem inForce_placed {o : Nat} (ho : o < 4) (s : State) (r : SliceRun) (taken : Nat) :
    ((s.placed o r taken).out o).inForce = (s.out o).inForce := by
  have hput (x : SliceRun) := inForce_putRun ho s x
  unfold State.placed
  split
  · rfl
  · split
    · exact hput _
    · split
      · exact hput _
      · generalize s.openQueue (s.fld R.SYN_QUEUE [o] 13 0) = qu
        cases qu with
        | none => exact ((SlicesKept.refl (s.putRun o r)).synCount.inForce o).trans (hput r)
        | some qu => exact ((entered_kept s o r qu).submitEntry.inForce o).trans (hput _)

theorem inForce_releaseSlice {o : Nat} (ho : o < 4) (s : State) (f : Word) (n : Nat) :
    ((s.releaseSlice o f n).out o).inForce = (s.out o).inForce := by
  rw [releaseSlice_eq, inForce_placed ho, (captured_kept s o f n).inForce]

/-! ### The frame boundary (R64) -/

/-- The record of a frame that begins. -/
def State.newFrame (s : State) (o : Nat) (f : Word) : FrameRec :=
  { frame := f, pair := (s.out o).latchPair.1, count := (s.out o).latchPair.2,
    change := s.changeOf o ((s.out o).latchPair.1.map fun p => p.1.index), conf := s.rd R.SYN_CONF [o], origins := [], written := [],
    spoiled := false, recorded := false }

/-- A frame begins: the pair of keyframes and the values in force are latched. -/
def State.latched (s : State) (o : Nat) (f : Word) : State :=
  s.setOut o { s.out o with
    budget := (s.rd R.SYN_BUDGET [o]).toNat
    margin := s.fld R.SYN_MARGIN [o] 17 0
    conf := s.rd R.SYN_CONF [o]
    frames := (s.newFrame o f :: (s.out o).frames.filter fun y => y.frame != f).take 4
    published := false
    lastNewer := ((s.out o).latchPair.1.map fun p => p.1.index).orElse fun _ => (s.out o).lastNewer }

/-- The newer keyframe of a frame shows. -/
def State.kfShown (s : State) (o : Nat) : Option Word → State
  | some k => s.poke R.SYN_KF_INDEX [o] k
  | none => s

/-- The keyframe that a frame refreshes has had its boundary. -/
def State.boundaryMarked (s : State) (o : Nat) (f : Word) : State :=
  if s.isKfRefresh o f then s.setOut o ((s.out o).withKeyframe (s.kfIndex o f) f fun k => { k with boundary := true }) else s

theorem frameBoundary_eq (s : State) (o : Nat) (f : Word) : s.frameBoundary o f =
    (((((s.applySelector o).latched o f).kfShown o (((s.applySelector o).out o).latchPair.1.map fun p => p.1.index)).boundaryMarked o
      f).setEntries o ((s.applySelector o).rd R.SYN_BUDGET [o]).toNat).referenceAt o f := rfl

theorem frameBoundary_kept (s : State) (o : Nat) (f : Word) :
    SlicesKept ((s.applySelector o).latched o f) (s.frameBoundary o f) := by
  have hshown (t : State) (k : Option Word) : SlicesKept t (t.kfShown o k) := by
    cases k with
    | none => exact .refl t
    | some k => exact (SlicesKept.refl t).poke
  have hmarked {t u : State} (h : SlicesKept t u) : SlicesKept t (u.boundaryMarked o f) := .ite (h.setOut rfl) h
  rw [frameBoundary_eq]
  exact (hmarked (hshown _ _)).setEntries.referenceAt

theorem adpStatus_within {parts : List Part} {moved : Nat → Prop} (s : State) (o : Nat) (hp : Part.regs ∈ parts)
    (hm : moved (regAddr R.SYN_ADP_STATUS [o])) : ChangesWithin parts moved s (s.adpStatus o) :=
  (((ChangesWithin.setBit _ _ _ _ _ hp hm).trans (.setBit _ _ _ _ _ hp hm)).trans (.setBit _ _ _ _ _ hp hm)).trans
    (.setFld _ _ _ _ _ _ hp hm)

/-- The registers of the weight selector. -/
def selectorRegs (o : Nat) : List Nat := [regAddr R.SYN_ADP_STATUS [o], regAddr R.SYN_ADP_SWAPS [o]]

theorem applySelector_within (s : State) (o : Nat) : ChangesWithin [.regs, .syn] (· ∈ selectorRegs o) s (s.applySelector o) := by
  have hset (t : State) (x : SynOut) : ChangesWithin [.regs, .syn] (· ∈ selectorRegs o) t (t.setOut o x) := .setOut _ _ _ (by decide)
  have hfld (t : State) (v : Nat) : ChangesWithin [.regs, .syn] (· ∈ selectorRegs o) t (t.setFld R.SYN_ADP_STATUS [o] 1 0 v) :=
    .setFld _ _ _ _ _ _ (by decide) List.mem_cons_self
  have hstatus (t : State) : ChangesWithin [.regs, .syn] (· ∈ selectorRegs o) t (t.adpStatus o) :=
    adpStatus_within t o (by decide) List.mem_cons_self
  unfold State.applySelector
  dsimp only
  split
  · exact ((hset s _).trans (hfld _ _)).trans (hstatus _)
  · split
    · exact (((hset s _).trans (hfld _ _)).trans (.count _ _ _ _ (by decide) (List.mem_cons_of_mem _ List.mem_cons_self))).trans (hstatus _)
    · exact .refl _ _ s

theorem latchRegs_apart : ∀ o < 4, ∀ r ∈ [R.SYN_CONF, R.SYN_BUDGET, R.SYN_MARGIN], regAddr r [o] ∉ selectorRegs o := by decide

/-- The weight selector of a new frame leaves the keyframes, and the registers that a frame latches. -/
theorem applySelector_latch {o : Nat} (ho : o < 4) (s : State) : ((s.applySelector o).out o).latchPair = (s.out o).latchPair
    ∧ ∀ r ∈ [R.SYN_CONF, R.SYN_BUDGET, R.SYN_MARGIN], (s.applySelector o).rd r [o] = s.rd r [o] := by
  refine ⟨?_, fun r hr => (applySelector_within s o).rd (latchRegs_apart o ho r hr)⟩
  have hout (x : SynOut) : (s.setOut o x).out o = x := State.out_setOut_self s x ho
  unfold State.applySelector
  dsimp only
  split
  · exact (congrArg SynOut.latchPair (hout _)).trans rfl
  · split
    · exact (congrArg SynOut.latchPair (hout _)).trans rfl
    · rfl

/-- What a frame latches. -/
theorem inForce_frameBoundary {o : Nat} (ho : o < 4) (s : State) (f : Word) :
    (∃ fr ∈ ((s.frameBoundary o f).out o).frames, fr.frame = f ∧ fr.pair = (s.out o).latchPair.1 ∧ fr.conf = s.rd R.SYN_CONF [o]
        ∧ fr.recorded = false)
      ∧ ((s.frameBoundary o f).out o).budget = (s.rd R.SYN_BUDGET [o]).toNat
      ∧ ((s.frameBoundary o f).out o).margin = s.fld R.SYN_MARGIN [o] 17 0 := by
  obtain ⟨hpair, hregs⟩ := applySelector_latch ho s
  have hkept := (frameBoundary_kept s o f).inForce o
  rw [State.latched, State.out_setOut_self _ _ ho] at hkept
  simp only [SynOut.inForce, Prod.mk.injEq] at hkept
  obtain ⟨hframes, hbudget, hmargin⟩ := hkept
  refine ⟨⟨(s.applySelector o).newFrame o f, ?_, rfl, ?_, ?_, rfl⟩, ?_, ?_⟩
  · rw [hframes]
    exact List.mem_cons_self
  · exact congrArg Prod.fst hpair
  · exact hregs _ (by simp)
  · rw [hbudget, hregs _ (by simp)]
  · rw [hmargin, State.fld, hregs _ (by simp), State.fld]

/-! ### The command -/

/-- What a release leaves beyond the boundary of its frame. -/
def State.releasedNext (s : State) (o : Nat) (f : Word) (n : Nat) : State :=
  (State.releaseSlice (s.setOut o { s.out o with
      nextFrame := if n + 1 == s.synS o then f + 1 else f, nextSlice := if n + 1 == s.synS o then 0 else n + 1 }) o f n).entriesFlag o

theorem exec_sliceRelease {o : Fin 4} (hl : s.isLive) (hon : s.synOn o.val = true) (hfirst : (s.out o.val).first = false)
    (hpipe : (s.pipeOf o.val).isSome = true) : exec (.sliceRelease o) s = .next
      (((if (s.out o.val).nextSlice = 0 then s.frameBoundary o.val (s.out o.val).nextFrame else s).releasedNext o.val
        (s.out o.val).nextFrame (s.out o.val).nextSlice).kept s) := by
  have hgo : ¬(!s.synOn o.val || (s.out o.val).first || (s.pipeOf o.val).isNone) = true := by
    cases hp : s.pipeOf o.val <;> simp_all
  rw [show exec (.sliceRelease o) s = execSliceRelease o s from rfl, execSliceRelease, State.live_next s _ hl]
  simp only [if_neg hgo]
  rfl

theorem sliceRelease_off {o : Fin 4} (hl : s.isLive) (hoff : s.synOn o.val = false ∨ (s.out o.val).first = true) :
    exec (.sliceRelease o) s = .next s := by
  have hstop : (!s.synOn o.val || (s.out o.val).first || (s.pipeOf o.val).isNone) = true := by
    obtain h | h := hoff <;> simp [h]
  rw [show exec (.sliceRelease o) s = execSliceRelease o s from rfl, execSliceRelease, State.live_next s _ hl]
  simp only [if_pos hstop]
  rfl

theorem inForce_releasedNext {o : Nat} (ho : o < 4) (s : State) (f : Word) (n : Nat) :
    ((s.releasedNext o f n).out o).inForce = (s.out o).inForce := by
  refine ((SlicesKept.refl _).setFld.inForce o).trans ((inForce_releaseSlice ho _ f n).trans ?_)
  rw [State.out_setOut_self _ _ ho]
  rfl

theorem sliceRelease_first {o : Fin 4} (hl : s.isLive) (hon : s.synOn o.val = true) (hfirst : (s.out o.val).first = false)
    (hpipe : (s.pipeOf o.val).isSome = true) (hzero : (s.out o.val).nextSlice = 0) :
    ∃ t, exec (.sliceRelease o) s = .next t ∧ t.pending = s.pending
      ∧ (∃ fr ∈ (t.out o.val).frames, fr.frame = (s.out o.val).nextFrame ∧ fr.pair = (s.out o.val).latchPair.1
        ∧ fr.conf = s.rd R.SYN_CONF [o.val] ∧ fr.recorded = false)
      ∧ (t.out o.val).budget = (s.rd R.SYN_BUDGET [o.val]).toNat ∧ (t.out o.val).margin = s.fld R.SYN_MARGIN [o.val] 17 0 := by
  have hexec := exec_sliceRelease hl hon hfirst hpipe
  rw [if_pos hzero] at hexec
  obtain ⟨hframe, hbudget, hmargin⟩ := inForce_frameBoundary o.isLt s (s.out o.val).nextFrame
  have hforce := inForce_releasedNext o.isLt (s.frameBoundary o.val (s.out o.val).nextFrame) (s.out o.val).nextFrame (s.out o.val).nextSlice
  simp only [SynOut.inForce, Prod.mk.injEq] at hforce
  obtain ⟨hframes, hb, hm⟩ := hforce
  refine ⟨_, hexec, rfl, ?_, hb.trans hbudget, hm.trans hmargin⟩
  obtain ⟨fr, hmem, hfr⟩ := hframe
  exact ⟨fr, hframes ▸ hmem, hfr⟩

end Sys2Proof.Machine
end

section
/-! PROOFS. The release of a later slice of a frame, with its entry in the queue or without (R40, R42). -/

namespace Sys2Proof.Machine

variable {s : State} {o : Nat} {f : Word} {n : Nat}

/-! ### The state from which the slice is entered -/

/-- The next release is that of a given slice of the frame. -/
def State.advanced (s : State) (o : Nat) (f : Word) (n : Nat) : State := s.setOut o { s.out o with nextFrame := f, nextSlice := n }

/-- An output whose release of slice `n` of frame `f` is under way. -/
def SynOut.releasing (x : SynOut) (f : Word) (n : Nat) : SynOut :=
  { x with nextFrame := f, nextSlice := n + 1, histGood := x.histGood.filter fun e => e.1 != n }

/-- The state of a release without capture, from which the slice is entered. -/
def State.readied (s : State) (o : Nat) (f : Word) (n : Nat) : State :=
  (s.advanced o f (n + 1)).setOut o ((s.out o).releasing f n)

theorem releasedNext_inner (h : n + 1 < s.synS o) :
    s.releasedNext o f n = ((s.advanced o f (n + 1)).releaseSlice o f n).entriesFlag o := by
  have hlast : (n + 1 == s.synS o) = false := by simpa using Nat.ne_of_lt h
  rw [State.releasedNext, hlast]
  rfl

theorem captureSlice_of_idle (h : (s.out o).work = none) (history : Bool) (vectors : List Byte) :
    s.captureSlice o f n history vectors = s := by
  unfold State.captureSlice
  dsimp only
  rw [h]

theorem out_readied (ho : o < 4) : (s.readied o f n).out o = (s.out o).releasing f n := State.out_setOut_self _ _ ho

theorem captured_advanced (ho : o < 4) (hidle : (s.out o).work = none) : (s.advanced o f (n + 1)).captured o f n = s.readied o f n := by
  have hout : (s.advanced o f (n + 1)).out o = { s.out o with nextFrame := f, nextSlice := n + 1 } := State.out_setOut_self _ _ ho
  have hstill : ((s.readied o f n).out o).work = none := by
    rw [out_readied ho]
    exact hidle
  rw [State.captured, hout]
  exact captureSlice_of_idle hstill _ _

theorem readied_within {parts : List Part} {moved : Nat → Prop} (s : State) (o : Nat) (f : Word) (n : Nat) (hs : Part.syn ∈ parts) :
    ChangesWithin parts moved s (s.readied o f n) := (ChangesWithin.setOut s o _ hs).trans (.setOut _ o _ hs)

theorem frameRec_readied (ho : o < 4) (g : Word) : (s.readied o f n).frameRec o g = s.frameRec o g := by
  rw [State.frameRec, out_readied ho]
  rfl

theorem servedDirect_readied (ho : o < 4) (g : Word) : (s.readied o f n).servedDirect o g = s.servedDirect o g := by
  rw [State.servedDirect, out_readied ho]
  rfl

/-- The times of a slice rest on the frame times of its output and on its registers. -/
theorem sliceTimes_advanced (ho : o < 4) (g : Word) (m b k : Nat) :
    (s.advanced o f n).sliceTimes o g m b k = s.sliceTimes o g m b k := by
  have hout : (s.advanced o f n).out o = { s.out o with nextFrame := f, nextSlice := n } := State.out_setOut_self _ _ ho
  have hframe : (s.advanced o f n).tFrame o = s.tFrame o := by
    rw [State.tFrame, hout]
    rfl
  have hsoa : (s.advanced o f n).soaOf o g = s.soaOf o g := by
    rw [State.soaOf, hframe, hout]
    rfl
  rw [State.sliceTimes, hframe, hsoa]
  rfl

/-- The entry of a slice that is released. -/
def State.releasedRun (s : State) (o : Nat) (f : Word) (n : Nat) : SliceRun := (s.advanced o f (n + 1)).newRun o f n

theorem releasedRun_deadline (ho : o < 4) :
    (s.releasedRun o f n).deadline = (s.sliceTimes o f n (s.out o).budget (s.out o).margin).deadline.toNat := by
  have hout : (s.advanced o f (n + 1)).out o = { s.out o with nextFrame := f, nextSlice := n + 1 } := State.out_setOut_self _ _ ho
  rw [State.releasedRun, State.newRun, hout]
  dsimp only
  rw [sliceTimes_advanced ho]

theorem releasedRun_history (ho : o < 4) : (s.releasedRun o f n).history = (s.out o).histGood.contains (n, f - 1) := by
  have hout : (s.advanced o f (n + 1)).out o = { s.out o with nextFrame := f, nextSlice := n + 1 } := State.out_setOut_self _ _ ho
  rw [State.releasedRun, State.newRun, hout]

/-! ### What a release needs -/

/-- Slice `n` of frame `f` of an output is the next, and is to have its task of the keyframes `k` of its frame `fr`. -/
structure ReleaseDue (s : State) (o : Nat) (f : Word) (n : Nat) (fr : FrameRec) (k : Keyframe × Keyframe) : Prop where
  out_lt : o < 4
  inner : n + 1 < s.synS o
  free : (s.out o).runs.length < s.fld R.SYN_ENTRIES [o] 7 0
  idle : (s.out o).work = none
  frame : s.frameRec o f = some fr
  pair : fr.pair = some k
  task : s.servedDirect o f = false

/-- The slice is entered, with its task where the queue has room. -/
theorem ReleaseDue.releasedNext {fr : FrameRec} {k : Keyframe × Keyframe} (h : ReleaseDue s o f n fr k) : s.releasedNext o f n
    = ((s.readied o f n).queued o (s.releasedRun o f n) k.1.index (s.openQueue (s.fld R.SYN_QUEUE [o] 13 0))).entriesFlag o := by
  have hfull : ¬((s.advanced o f (n + 1)).out o).runs.length ≥ (s.readied o f n).fld R.SYN_ENTRIES [o] 7 0 := by
    rw [State.advanced, State.out_setOut_self _ _ h.out_lt]
    exact Nat.not_le.2 h.free
  have htask : ¬(s.readied o f n).servedDirect o (s.releasedRun o f n).frame = true := by
    rw [servedDirect_readied h.out_lt, show (s.releasedRun o f n).frame = f from rfl, h.task]
    decide
  have hpair : ((s.readied o f n).frameRec o (s.releasedRun o f n).frame).bind (·.pair) = some k := by
    rw [frameRec_readied h.out_lt, show (s.releasedRun o f n).frame = f from rfl, h.frame]
    exact h.pair
  rw [releasedNext_inner h.inner, releaseSlice_eq, captured_advanced h.out_lt h.idle, State.placed, if_neg hfull,
    show (s.advanced o f (n + 1)).newRun o f n = s.releasedRun o f n from rfl, if_neg htask, hpair]
  rfl

/-! ### Without room in the queue (R42) -/

theorem reldrop_apart : ∀ o < 4, regAddr R.SYN_CNT_RELDROP [o] ≠ regAddr R.SYN_CNT_OVF [o]
    ∧ regAddr R.SYN_CNT_RELDROP [o] ≠ regAddr R.SYN_ENTRIES [o] := by decide

theorem entriesFlag_within (s : State) (o : Nat) : ChangesWithin [.regs] (· = regAddr R.SYN_ENTRIES [o]) s (s.entriesFlag o) :=
  .setFld _ _ _ _ _ _ List.mem_cons_self rfl

theorem queued_none (ho : o < 4) (r : SliceRun) (k : Word) :
    changesOnly [.regs, .syn] s (((s.readied o f n).queued o r k none).entriesFlag o)
      ∧ counted R.SYN_CNT_RELDROP [o] s (((s.readied o f n).queued o r k none).entriesFlag o)
      ∧ (((s.readied o f n).queued o r k none).entriesFlag o).run o r.frame r.slice = some r := by
  obtain ⟨hovf, hentries⟩ := reldrop_apart o ho
  have hput : ChangesWithin [.syn] (fun _ => False) s ((s.readied o f n).putRun o r) :=
    (readied_within s o f n (by decide)).trans (.putRun _ _ _ (by decide))
  have hcount := synCount_within ((s.readied o f n).putRun o r) o R.SYN_CNT_RELDROP 3
  have hflag := entriesFlag_within ((s.readied o f n).queued o r k none) o
  refine ⟨?_, ?_, ?_⟩
  · exact changesOnly_trans (changesOnly_mono hput.parts (by decide)) (changesOnly_trans (changesOnly_mono hcount.parts (by decide))
      (changesOnly_mono hflag.parts (by decide)))
  · exact counted_of_within (counted_after hput id (counted_countSat _ 3 hovf)) hflag hentries
  · exact (State.run_congr ((hflag.part (p := .syn) (by decide)).trans (hcount.part (p := .syn) (by decide))) _ _ _).trans
      (State.run_putRun_self ho r)

end Sys2Proof.Machine
end

section
/-! PROOFS. A released slice with its entry in the queue (R40, R64), and the obligation about slices. -/

namespace Sys2Proof.Machine

variable {s t : State}

/-! ### Parts of bytes read -/

theorem rangeFrom_eq_range' (a n : Nat) : rangeFrom a n = List.range' a n := by
  induction n generalizing a with
  | zero => rfl
  | succ n ih => rw [rangeFrom, ih, List.range'_succ]

/-- A part of the bytes of memory read. -/
theorem State.bytes_part {a N k m : Nat} (h : k + m ≤ N) : s.bytes (a + k) m = ((s.bytes a N).drop k).take m := by
  rw [State.bytes, State.bytes, rangeFrom_eq_range', rangeFrom_eq_range', ← List.map_drop, ← List.map_take]
  refine congrArg _ (List.ext_getElem ?_ fun i hi _ => ?_)
  · simp only [List.length_range', List.length_take, List.length_drop]
    omega
  · simp only [List.getElem_range', List.getElem_take, List.getElem_drop]
    omega

/-- A number in a part of the bytes of memory read. -/
theorem State.le_of_bytes {a N k m v : Nat} {bs : List Byte} (h : s.bytes a N = bs) (hk : k + m ≤ N) (hv : (bs.drop k).take m = leBytes m v) :
    s.le (a + k) m = v % 256 ^ m := by
  rw [State.le, State.bytes_part hk, h, hv, ofLe_leBytes]

/-! ### The doorbell of a queue that SYN can use (R42) -/

section
variable {q : Nat} {x : Queue}

/-- What an open queue is. -/
theorem openQueue_some (h : s.openQueue q = some x) : s.queue q = some x ∧ x.disabling = false ∧ x.desc.cqOnly = false
    ∧ s.ctxDown (q / 256) = false ∧ (x.pLast - x.posted).toNat < x.desc.size := by
  unfold State.openQueue at h
  split at h
  · next y hy =>
    split at h
    · cases h
    · next hopen =>
      cases h
      simp only [Bool.or_eq_true, decide_eq_true_eq, not_or, Bool.not_eq_true, Nat.not_le] at hopen
      obtain ⟨⟨⟨hdis, hcq⟩, hdown⟩, hroom⟩ := hopen
      exact ⟨hy, hdis, hcq, hdown, hroom⟩
  · cases h

/-- One more entry of an open queue is rung. -/
theorem doorbell_next (h : s.openQueue q = some x) (hsize : x.desc.size < 2 ^ 31) :
    ∃ new, (s.doorbell q (x.pLast + 1)).1 = s.putQueue { x with pLast := x.pLast + 1, rung := x.rung ++ new } := by
  obtain ⟨hq, hdis, hcq, hdown, hroom⟩ := openQueue_some h
  have hnew : x.pLast + 1 ≠ x.pLast := by bv_omega
  have hafter : (after32 (x.pLast + 1) x.pLast && decide ((x.pLast + 1 - x.posted).toNat ≤ x.desc.size)) = true := by
    have hone : x.pLast + 1 - x.pLast = 1 := by bv_omega
    have hnext : (x.pLast + 1 - x.posted).toNat ≤ x.desc.size := by bv_omega
    rw [after32, hone, decide_eq_true hnext]
    decide
  refine ⟨(rangeFrom 0 (x.pLast + 1 - x.pLast).toNat).map fun i => s.readEntry x ((x.pLast.toNat + i) % 2 ^ 32), ?_⟩
  unfold State.doorbell
  dsimp only
  rw [if_neg (by simp [hdown]), hq]
  dsimp only
  rw [if_neg (by simp [hdis]), if_neg (by simp [hcq]), if_neg hnew, if_pos hafter]

theorem queue_putQueue (s : State) (y : Queue) : (s.putQueue y).queue y.ident = some y := find?_upsert_self (by simp) _

/-- Which queue SYN can use rests on the scheduler and on the status of the context. -/
theorem openQueue_of_within {parts : List Part} {moved : Nat → Prop} (h : ChangesWithin parts moved s t) (hs : Part.sch ∉ parts)
    (hm : ¬moved (regAddr R.SCH_CTX_STATUS [q / 256])) : t.openQueue q = s.openQueue q := by
  rw [State.openQueue, State.openQueue, State.queue, State.queue, h.part hs, State.ctxDown, State.ctxDown, State.bit, State.bit, h.fld hm]

end

/-! ### The entry of a slice is queued -/

section
variable {o : Nat} {r : SliceRun} {qu : Queue} {k : Word}

theorem length_taskBytes (s : State) (o : Nat) (r : SliceRun) (k : Word) : (s.taskBytes o r k).length = 64 := rfl

/-- The registers that follow a slice as it is entered. -/
def enteredRegs (o : Nat) : List Nat := [regAddr R.SYN_STATUS [o], regAddr R.SYN_ADP_STATUS [o]]

theorem entered_within (s : State) (o : Nat) (r : SliceRun) (qu : Queue) :
    ChangesWithin [.regs, .syn] (· ∈ enteredRegs o) s (s.entered o r qu) :=
  (((ChangesWithin.putRun s o _ (by decide)).trans (.setOut _ o _ (by decide))).trans
    (bankFlags_within _ o (by decide) List.mem_cons_self)).trans
    (adpStatus_within _ o (by decide) (List.mem_cons_of_mem _ List.mem_cons_self))

theorem ctxStatus_not_entered (c : Nat) : regAddr R.SCH_CTX_STATUS [c] ∉ enteredRegs o := by
  simp only [enteredRegs, regAddr, R.SCH_CTX_STATUS, R.SYN_STATUS, R.SYN_ADP_STATUS, regOffset, List.mem_cons, List.not_mem_nil, or_false]
  omega

theorem entered_syn (s : State) (o : Nat) (r : SliceRun) (qu : Queue) :
    (s.entered o r qu).syn = ((s.putRun o (s.tasked o r qu)).addUser o (s.userOf o r qu)).syn := rfl

/-- A slice that is entered leaves the next release of its output. -/
theorem out_entered (ho : o < 4) (s : State) (r : SliceRun) (qu : Queue) :
    ((s.entered o r qu).out o).nextFrame = (s.out o).nextFrame ∧ ((s.entered o r qu).out o).nextSlice = (s.out o).nextSlice := by
  rw [State.out, entered_syn, ← State.out, State.addUser, State.out_setOut_self _ _ ho, State.putRun, State.out_setOut_self _ _ ho]
  exact ⟨rfl, rfl⟩

theorem run_entered (ho : o < 4) (s : State) (r : SliceRun) (qu : Queue) :
    (s.entered o r qu).run o r.frame r.slice = some (s.tasked o r qu) :=
  ((entered_kept s o r qu).run o r.frame r.slice).trans (State.run_putRun_self ho (s.tasked o r qu))

/-- What an entry queued leaves. -/
structure EntryQueued (s : State) (qu : Queue) (bs : List Byte) (t : State) : Prop where
  syn : t.syn = s.syn
  queue : ∃ y, t.queue qu.ident = some y ∧ y.pLast = qu.pLast + 1
  byte : ∀ x, t.byte x = if qu.desc.subBase + 64 * (qu.pLast.toNat % qu.desc.size) ≤ x
      ∧ x < qu.desc.subBase + 64 * (qu.pLast.toNat % qu.desc.size) + bs.length then
    bs.getD (x - (qu.desc.subBase + 64 * (qu.pLast.toNat % qu.desc.size))) 0 else s.byte x

/-- SYN writes an entry to an open queue, and it is rung. -/
theorem submitEntry_queued {bs : List Byte} (hopen : s.openQueue qu.ident = some qu) (hsize : qu.desc.size < 2 ^ 31)
    (hwrite : s.writeError (qu.desc.subBase + 64 * (qu.pLast.toNat % qu.desc.size)) bs.length = none) :
    EntryQueued s qu bs (s.submitEntry qu bs) := by
  have hw := write_within s (qu.desc.subBase + 64 * (qu.pLast.toNat % qu.desc.size)) bs (parts := [.mem, .err])
    (moved := fun _ => False) (by decide) (by decide)
  obtain ⟨new, hnew⟩ := doorbell_next ((openQueue_of_within hw (by decide) id).trans hopen) hsize
  rw [State.submitEntry, hnew]
  exact ⟨hw.part (p := .syn) (by decide), ⟨_, queue_putQueue _ _, rfl⟩, fun x => State.byte_write s _ x bs hwrite⟩

end

end Sys2Proof.Machine
end

section
/-! PROOFS. The clauses about releases, and the obligation about slices from release to write-back. -/

namespace Sys2Proof.Machine

variable {s : State} {o : Nat} {f : Word} {n : Nat} {fr : FrameRec} {k : Keyframe × Keyframe} {qu : Queue}

/-- The words of an entry of a slice that tell the slice and its times (Table 2.15). -/
theorem taskBytes_words (s : State) (o : Nat) (r : SliceRun) (k : Word) :
    ((s.taskBytes o r k).drop 0).take 1 = leBytes 1 1
      ∧ ((s.taskBytes o r k).drop 4).take 4 = leBytes 4 (r.frame.toNat % 65536 + 65536 * r.slice + 2 ^ 24 * o)
      ∧ ((s.taskBytes o r k).drop 8).take 8 = leBytes 8 (r.deadline / 2 ^ 32)
      ∧ ((s.taskBytes o r k).drop 16).take 8 = leBytes 8 (s.rd64 R.SYN_LAUNCH_LO R.SYN_LAUNCH_HI [o]) := ⟨rfl, rfl, rfl, rfl⟩

theorem rd64_lt (s : State) (lo hi : Reg) (ix : List Nat) : s.rd64 lo hi ix < 2 ^ 64 := by
  have hlo := (s.rd lo ix).isLt
  have hhi := (s.rd hi ix).isLt
  rw [State.rd64]
  omega

theorem synS_le (s : State) (o : Nat) : s.synS o ≤ 128 := by
  have hfld : s.fld R.SYN_GEOM [o] 1 0 < 2 ^ 2 := Nat.mod_lt _ (by decide)
  have hpow : 2 ^ s.fld R.SYN_GEOM [o] 1 0 ≤ 2 ^ 3 := Nat.pow_le_pow_right (by decide) (by omega)
  rw [State.synS]
  omega

/-- The entry in memory of a slice that is queued. -/
theorem taskBytes_le {t : State} {a : Nat} {r : SliceRun} {k : Word} (hbytes : t.bytes a 64 = s.taskBytes o r k) (ho : o < 4)
    (hn : r.slice < 128) :
    t.le a 1 = 1 ∧ t.le (a + 4) 4 = r.frame.toNat % 65536 + 65536 * r.slice + 2 ^ 24 * o
      ∧ t.le (a + 8) 8 = r.deadline / 2 ^ 32 % 2 ^ 64 ∧ t.le (a + 16) 8 = s.rd64 R.SYN_LAUNCH_LO R.SYN_LAUNCH_HI [o] := by
  obtain ⟨hop, htag, hdeadline, hlaunch⟩ := taskBytes_words s o r k
  have hlt := rd64_lt s R.SYN_LAUNCH_LO R.SYN_LAUNCH_HI [o]
  refine ⟨State.le_of_bytes (k := 0) hbytes (by decide) hop, ?_, State.le_of_bytes hbytes (by decide) hdeadline, ?_⟩
  · rw [State.le_of_bytes hbytes (by decide) htag, Nat.mod_eq_of_lt (by omega)]
  · rw [State.le_of_bytes hbytes (by decide) hlaunch]
    exact Nat.mod_eq_of_lt hlt

/-- The state that the release of a slice with a task leaves. -/
def State.releasedTask (s : State) (o : Nat) (f : Word) (n : Nat) (k : Word) (qu : Queue) : State :=
  (((s.readied o f n).entered o (s.releasedRun o f n) qu).submitEntry qu
    ((s.readied o f n).taskBytes o (s.releasedRun o f n) k)).entriesFlag o

/-- The entry of the slice is queued. -/
theorem releasedTask_queued {k : Word} (hopen : s.openQueue qu.ident = some qu) (hsize : qu.desc.size < 2 ^ 31)
    (hwrite : s.writeError (qu.desc.subBase + 64 * (qu.pLast.toNat % qu.desc.size)) 64 = none) :
    EntryQueued ((s.readied o f n).entered o (s.releasedRun o f n) qu) qu
      ((s.readied o f n).taskBytes o (s.releasedRun o f n) k) (s.releasedTask o f n k qu) := by
  have hentered : ChangesWithin [.regs, .syn] (· ∈ enteredRegs o) s ((s.readied o f n).entered o (s.releasedRun o f n) qu) :=
    (readied_within s o f n (by decide)).trans (entered_within _ _ _ _)
  have hsub := submitEntry_queued (s := (s.readied o f n).entered o (s.releasedRun o f n) qu)
    (bs := (s.readied o f n).taskBytes o (s.releasedRun o f n) k)
    ((openQueue_of_within hentered (by decide) (ctxStatus_not_entered _)).trans hopen) hsize
    (writeError_congr (hentered.part (p := .dev) (by decide)) (by rw [hentered.part (p := .err) (by decide)]; exact fun _ => id) hwrite)
  exact ⟨hsub.syn, hsub.queue, hsub.byte⟩

/-- The release of a slice whose entry is queued. -/
theorem ReleaseDue.queued (h : ReleaseDue s o f n fr k) (hopen : s.openQueue (s.fld R.SYN_QUEUE [o] 13 0) = some qu)
    (hid : qu.ident = s.fld R.SYN_QUEUE [o] 13 0) (hsize : qu.desc.size < 2 ^ 31)
    (hwrite : s.writeError (qu.desc.subBase + 64 * (qu.pLast.toNat % qu.desc.size)) 64 = none) :
    let a := qu.desc.subBase + 64 * (qu.pLast.toNat % qu.desc.size)
    let due := (s.sliceTimes o f n (s.out o).budget (s.out o).margin).deadline.toNat
    let t := s.releasedNext o f n
    (t.out o).nextFrame = f ∧ (t.out o).nextSlice = n + 1
      ∧ (∃ r, t.run o f n = some r ∧ r.task = some (qu.ident, qu.pLast) ∧ r.window = true ∧ r.origin = none ∧ r.deadline = due
          ∧ r.history = (s.out o).histGood.contains (n, f - 1))
      ∧ t.le a 1 = 1 ∧ t.le (a + 4) 4 = f.toNat % 65536 + 65536 * n + 2 ^ 24 * o
      ∧ t.le (a + 8) 8 = due / 2 ^ 32 % 2 ^ 64 ∧ t.le (a + 16) 8 = s.rd64 R.SYN_LAUNCH_LO R.SYN_LAUNCH_HI [o]
      ∧ sameMemBut a 64 s t ∧ ∃ y, t.queue qu.ident = some y ∧ y.pLast = qu.pLast + 1 := by
  intro a due t
  have ht : t = s.releasedTask o f n k.1.index qu := by
    dsimp only [t]
    rw [h.releasedNext, hopen]
    rfl
  rw [← hid] at hopen
  obtain ⟨hsyn, hqueue, hbyte⟩ := releasedTask_queued (o := o) (f := f) (n := n) (k := k.1.index) hopen hsize hwrite
  rw [← ht] at hsyn hqueue hbyte
  rw [length_taskBytes] at hbyte
  have hbytes : t.bytes a 64 = (s.readied o f n).taskBytes o (s.releasedRun o f n) k.1.index :=
    State.bytes_eq_of_byte (bs := (s.readied o f n).taskBytes o (s.releasedRun o f n) k.1.index) fun i hi => by
      rw [length_taskBytes] at hi
      rw [hbyte, if_pos (by omega), Nat.add_sub_cancel_left]
  have hout := out_entered h.out_lt (s.readied o f n) (s.releasedRun o f n) qu
  rw [out_readied h.out_lt] at hout
  have hrun := (State.run_congr hsyn o f n).trans (run_entered h.out_lt (s.readied o f n) (s.releasedRun o f n) qu)
  have hslice : n < 128 := by
    have := synS_le s o
    have := h.inner
    omega
  obtain ⟨hop, htag, hdeadline, hlaunch⟩ := taskBytes_le hbytes h.out_lt hslice
  rw [releasedRun_deadline h.out_lt] at hdeadline
  refine ⟨?_, ?_, ⟨_, hrun, ?_, rfl, rfl, releasedRun_deadline h.out_lt, releasedRun_history h.out_lt⟩, hop, htag, hdeadline, hlaunch,
    fun x hx => ?_, hqueue⟩
  · rw [State.out, hsyn]
    exact hout.1
  · rw [State.out, hsyn]
    exact hout.2
  · rw [hid]
    rfl
  · rw [hbyte, if_neg (by omega)]
    exact byte_of_part ((readied_within s o f n (parts := [.regs, .syn]) (by decide)).trans (entered_within _ _ _ _)) (by decide) x

theorem sliceRelease_inner {o : Fin 4} (hl : s.isLive) (hon : s.synOn o.val = true) (hfirst : (s.out o.val).first = false)
    (hpipe : (s.pipeOf o.val).isSome = true) (hn : (s.out o.val).nextSlice ≠ 0) :
    exec (.sliceRelease o) s = .next ((s.releasedNext o.val (s.out o.val).nextFrame (s.out o.val).nextSlice).kept s) := by
  rw [exec_sliceRelease hl hon hfirst hpipe, if_neg hn]

/-- The release of a slice that finds no room in the queue. -/
theorem ReleaseDue.dropped (h : ReleaseDue s o f n fr k) (hclosed : s.openQueue (s.fld R.SYN_QUEUE [o] 13 0) = none) :
    let t := s.releasedNext o f n
    changesOnly [.regs, .syn] s t ∧ counted R.SYN_CNT_RELDROP [o] s t
      ∧ ∃ r, t.run o f n = some r ∧ r.task = none ∧ r.window = true
        ∧ r.deadline = (s.sliceTimes o f n (s.out o).budget (s.out o).margin).deadline.toNat := by
  rw [h.releasedNext, hclosed]
  obtain ⟨hparts, hcount, hrun⟩ := queued_none (s := s) (f := f) (n := n) h.out_lt (s.releasedRun o f n) k.1.index
  exact ⟨hparts, hcount, _, hrun, rfl, rfl, releasedRun_deadline h.out_lt⟩

end Sys2Proof.Machine

open Sys2Proof Sys2Proof.Machine

/-- Settles O6: each command of a slice is known by the parts of its effect; the ladder, the warp unit and the end of a task leave
alone what they do not decide. -/
theorem slicesAreReleasedAndDecided : Obligations.SlicesAreReleasedAndDecided := by
  unfold Obligations.SlicesAreReleasedAndDecided
  refine ⟨?_, ?_, fun s o hl hoff => sliceRelease_off hl hoff, fun s tag r offset data h hw => taggedSliceWrite_completes h hw offset data,
    fun s tag offset data word hl hclosed c hc => late_completes hl hclosed hc, ?_, ?_, ?_, ?_, ?_, ?_, ?_⟩
  · intro s o fr k0 k1 qu hl hon x f n hfirst hpipe hn hinner _ _ hfree hidle hframe hpair hdirect q due
    have hdue : ReleaseDue s o.val f n fr (k0, k1) := ⟨o.isLt, hinner, hfree, hidle, hframe, hpair, hdirect⟩
    have hexec := sliceRelease_inner hl hon hfirst hpipe hn
    constructor
    · intro hopen a hid hwrite _ _ hsize
      have hqueued := hdue.queued hopen hid hsize hwrite
      rw [hid] at hqueued
      exact ⟨_, hexec, rfl, hqueued⟩
    · intro hclosed
      obtain ⟨hparts, hpost⟩ := hdue.dropped hclosed
      exact completes_of_next hexec hparts hpost
  · intro s o hl hon x hfirst hpipe hzero
    exact sliceRelease_first hl hon hfirst hpipe hzero
  · intro s tag r word h hw o P conf fails
    exact ⟨fun hfull hsure => sliceDoneWord_synthesized h hw word hfull hsure, fun hfull hunsure => sliceDoneWord_unsure h hw word hfull hunsure,
      fun hshort => sliceDoneWord_short h hw word hshort⟩
  · intro s tag r h
    exact ⟨fallbackPoint_decided h, fallbackPoint_without_task h, fun q seq => fallbackPoint_with_task h⟩
  · intro s tag r p b records h o hp hwarp horigin hfinal
    exact warpEnd_completes h hp hwarp horigin hfinal
  · intro s tag r h
    exact ⟨warpDeadline_warped h, warpDeadline_over h⟩
  · intro s tag r k rows h hdirect horigin o T hk hdisp hlines hrows
    exact ⟨keyframeDirectEnd_good h hdirect horigin hk hdisp hlines hrows, keyframeDirectEnd_bad h hdirect horigin hk hdisp hlines hrows⟩
  · intro s tag r p h hp
    exact ⟨sliceFetch_final h hp, fun f => sliceFetch_guarded h hp⟩
  · intro s tag r f p h o hp hf hon
    exact sliceWritebackEnd_completes h hp hf hon
end

section
/-! SUPPORT. The teardown of a context starts no task and leaves the slices under way alone; an entry that fails is listed no more
(R271, R272, R355). -/

namespace Sys2Proof.Machine

variable {s₀ s t : State}

namespace SlicesKept

/-! ### Error records -/

theorem withErr {x} (h : SlicesKept s₀ s) : SlicesKept s₀ (s.withErr x) := h.congr rfl rfl

theorem putErrRec {r} (h : SlicesKept s₀ s) : SlicesKept s₀ (s.putErrRec r) :=
  have h := h.write.poke
  (SlicesKept.ite h.countSat h).withErr

theorem recordErr {r} (h : SlicesKept s₀ s) : SlicesKept s₀ (s.recordErr r) :=
  .ite h.withErr.putErrRec (.ite h.withErr.setFld h.withErr.countSat)

theorem countClass {cls} (h : SlicesKept s₀ s) : SlicesKept s₀ (s.countClass cls) := by
  unfold State.countClass
  split <;> exact h.countSat

theorem errEvent {r} (h : SlicesKept s₀ s) : SlicesKept s₀ (s.errEvent r) := .ite h.event h

theorem putWindow {w} (h : SlicesKept s₀ s) : SlicesKept s₀ (s.putWindow w) := h.withErr

theorem alert {source} (h : SlicesKept s₀ s) : SlicesKept s₀ (s.alert source) := h.setBit

theorem raise {e} (h : SlicesKept s₀ s) : SlicesKept s₀ (s.raise e) := by
  unfold State.raise
  extract_lets counted marked alerted
  have hmarked : SlicesKept s₀ marked := .ite h.countClass.setBit h.countClass
  have halerted : SlicesKept s₀ alerted := .ite hmarked.alert hmarked
  split
  · exact halerted.putWindow
  · exact (SlicesKept.recordErr (.ite halerted.putWindow halerted)).errEvent

/-! ### Semaphores -/

theorem setHeld {k held owner} (h : SlicesKept s₀ s) : SlicesKept s₀ (s.setHeld k held owner) :=
  .ite h.setFld.setBit.setFld h.setFld.setBit.setFld

theorem semTake {k q seq n} (h : SlicesKept s₀ s) : SlicesKept s₀ (s.semTake k q seq n) := h.putSem.setHeld.withSch rfl

theorem endAcquire {k w} (h : SlicesKept s₀ s) : SlicesKept s₀ (s.endAcquire k w) := h.putSem.account.withSch rfl

theorem semGrantLoop {k fuel} (h : SlicesKept s₀ s) : SlicesKept s₀ (s.semGrantLoop k fuel) := by
  induction fuel generalizing s with
  | zero => exact h
  | succ fuel ih =>
    rw [State.semGrantLoop]
    split
    · exact h
    · exact .ite (ih h.endAcquire.semTake.wakeCore) h

theorem semAbandon {k} (h : SlicesKept s₀ s) : SlicesKept s₀ (s.semAbandon k) := h.putSem.setHeld.setBit.semGrantLoop

/-! ### The teardown -/

theorem endLoads {p status} (h : SlicesKept s₀ s) : SlicesKept s₀ (s.endLoads p status) := by
  refine .foldl (fun _ _ h => ?_) (h.withSch rfl)
  split
  · exact h.complete
  · exact h

theorem completeRung {q status} (h : SlicesKept s₀ s) : SlicesKept s₀ (s.completeRung q status) := by
  unfold State.completeRung
  split
  · exact .foldl (fun _ _ h => h.synTaskEnd) (h.dropTasks rfl).putQueue.flushQueue
  · exact h

theorem finishTask {x status} (h : SlicesKept s₀ s) : SlicesKept s₀ (s.finishTask x status) := (finishTask_kept h).1

theorem teardown {ctx status q seq} (h : SlicesKept s₀ s) : SlicesKept s₀ (s.teardown ctx status q seq) := by
  unfold State.teardown
  extract_lets down ended loaded rung sch laid owned old abandoned
  have hended : SlicesKept s₀ ended := .foldl (fun _ _ h => h.finishTask) h.setBit
  have hrung : SlicesKept s₀ rung := .foldl (fun _ _ h => h.completeRung) hended.endLoads
  have hlaid : SlicesKept s₀ laid := hrung.withSch rfl
  exact .ite h (SlicesKept.relend (.foldl (fun _ _ h => h.semAbandon) hlaid)).event

theorem endEntry {q e status loc} (h : SlicesKept s₀ s) : SlicesKept s₀ (s.endEntry q e status loc) :=
  have h := h.complete.synTaskEnd
  .ite h.raise.teardown h

end SlicesKept

/-- A task that ends, with its context or without, is listed no more. -/
theorem task_endTask (s : State) (x : Task) (status : Nat) (loc : Option Nat) :
    (s.endTask x status loc).task x.qid x.entry.seq = none := by
  obtain ⟨-, hgone⟩ := finishTask_kept (x := x) (status := status) (SlicesKept.refl s)
  have hend : SlicesKept (s.finishTask x status) (s.endTask x status loc) :=
    .ite (SlicesKept.refl _).raise.teardown (.refl _)
  exact task_eq_none_of_slicesKept hend hgone

/-- An entry that fails leaves no task of its name. -/
theorem task_failEntry (s : State) (q : Nat) (seq : Word) (status : Nat) (loc : Option Nat) :
    (s.failEntry q seq status loc).task q seq = none := by
  unfold State.failEntry
  split
  · next x hx =>
    obtain ⟨rfl, rfl⟩ : x.qid = q ∧ x.entry.seq = seq := by simpa using List.find?_some hx
    split
    · exact task_endTask s x status loc
    · exact task_eq_none_of_slicesKept (SlicesKept.refl (s.untask x.qid x.entry.seq)).endEntry (s.task_untask _ _)
  · next hnone =>
    refine task_eq_none_of_slicesKept ?_ hnone
    split
    · split
      · exact (SlicesKept.refl s).putQueue.endEntry
      · exact .refl s
    · exact .refl s

end Sys2Proof.Machine
end

section
/-! PROOFS. The start and the end of the check of an output (R66, R67). -/

namespace Sys2Proof.Machine

/-! ### What an instruction leaves of the device and its queue -/

theorem kept_of_parts {s t : State} {parts : List Part} (h : changesOnly parts s t) (hp : Part.queue ∉ parts ∧ Part.dev ∉ parts) : t.kept s = t := by
  have hqueue : t.pending = s.pending := h .queue hp.1
  have hdev : t.dev = s.dev := h .dev hp.2
  rw [State.kept, ← hqueue, ← hdev]

/-- An instruction completes with what its effect leaves, where that spares the device and the queue of instructions. -/
theorem completes_of_parts {s t : State} {c : Instr} {parts : List Part} {post : State → Prop} (he : exec c s = .next (t.kept s))
    (hc : changesOnly parts s t) (hp : Part.queue ∉ parts ∧ Part.dev ∉ parts) (hpost : post t) : completes c s parts post :=
  completes_of_next he hc ((kept_of_parts hc hp).symm ▸ hpost)

/-! ### Fields of a register that a write of another field leaves -/

theorem State.fld_setBit_apart (s : State) (r : Reg) (ix : List Nat) (b : Nat) (v : Bool) {hi lo : Nat} (h : hi < 32)
    (ha : hi < b ∨ b < lo) : (s.setBit r ix b v).fld r ix hi lo = s.fld r ix hi lo := State.fld_setFld_apart _ _ _ _ _ _ _ _ h ha

theorem State.bit_setBit_ne (s : State) (r : Reg) (ix : List Nat) (b : Nat) (v : Bool) {i : Nat} (h : i < 32) (hb : i ≠ b) :
    (s.setBit r ix b v).bit r ix i = s.bit r ix i := by
  rw [State.bit, State.bit, State.fld_setBit_apart _ _ _ _ _ h (by omega)]

theorem State.bit_setFld_apart (s : State) (r : Reg) (ix : List Nat) (hi lo v : Nat) {i : Nat} (h : i < 32) (ha : i < lo ∨ hi < i) :
    (s.setFld r ix hi lo v).bit r ix i = s.bit r ix i := by
  rw [State.bit, State.bit, State.fld_setFld_apart _ _ _ _ _ _ _ _ h ha]

theorem State.out_congr {s t : State} (h : t.syn = s.syn) (o : Nat) : t.out o = s.out o := by
  rw [State.out, State.out, h]

/-! ### The start of a check (R66) -/

variable {s : State} {o : Nat}

/-- SYN_CTRL is written with `syn_en` = 1. -/
def State.enableWritten (s : State) (o : Nat) (v : Word) : State := s.poke R.SYN_CTRL [o] ((v &&& 0x3F) ||| 1)

/-- A check of an output begins. -/
def State.checkBegun (s : State) (o : Nat) : State :=
  s.setOut o { s.out o with
    checking := true, commitPending := match s.pipeOf o with | some p => s.timingPending p | none => false }

/-- An enable as it leaves the state. -/
def State.enableAsked (s : State) (o : Nat) : State := if s.synOn o || (s.out o).checking then s else s.checkBegun o

theorem exec_synEnable {o : Fin 4} (hl : s.isLive) (v : Word) :
    exec (.synEnable o v) s = .next (((s.enableWritten o.val v).enableAsked o.val).kept s) := by
  rw [show exec (.synEnable o v) s = execSynEnable o v s from rfl, execSynEnable, State.live_next s _ hl]
  rfl

theorem enableAsked_within (s : State) (o : Nat) : ChangesWithin [.syn] (fun _ => False) s (s.enableAsked o) := by
  unfold State.enableAsked
  split
  · exact .refl _ _ s
  · exact .setOut _ _ _ (by decide)

theorem checking_enableAsked (ho : o < 4) (hoff : s.synOn o = false) : ((s.enableAsked o).out o).checking = true := by
  unfold State.enableAsked
  split
  · next h => simpa [hoff] using h
  · rw [State.checkBegun, State.out_setOut_self _ _ ho]

theorem enableAsked_of_on (hon : s.synOn o = true) : s.enableAsked o = s := by
  rw [State.enableAsked, hon, Bool.true_or, if_pos rfl]

theorem ctrl_apart_status : ∀ o < 4, regAddr R.SYN_CTRL [o] ≠ regAddr R.SYN_STATUS [o] := by decide

theorem synOn_enableWritten (ho : o < 4) (v : Word) : (s.enableWritten o v).synOn o = s.synOn o := by
  rw [State.synOn, State.synOn, State.bit, State.bit, State.fld, State.fld, State.enableWritten,
    State.rd_poke_ne _ _ _ _ _ _ (ctrl_apart_status o ho).symm]

theorem synEnable_completes {o : Fin 4} (hl : s.isLive) (v : Word) :
    completes (.synEnable o v) s [.regs, .syn] fun t => t.rd R.SYN_CTRL [o.val] = (v &&& 0x3F) ||| 1
      ∧ sameRegsBut [regAddr R.SYN_CTRL [o.val]] s t
      ∧ (s.synOn o.val = false → (t.out o.val).checking = true) ∧ (s.synOn o.val = true → t.syn = s.syn) := by
  have hask := enableAsked_within (s.enableWritten o.val v) o.val
  have hsame := sameRegsBut_poke s R.SYN_CTRL [o.val] ((v &&& 0x3F) ||| 1)
  have hon := synOn_enableWritten (s := s) o.isLt v
  refine completes_of_parts (exec_synEnable hl v) ?_ (by decide) ⟨?_, fun a ha => ?_, fun hoff => ?_, fun h => ?_⟩
  · exact changesOnly_trans (changesOnly_mono (changesOnly_poke s _ _ _) (by decide)) (changesOnly_mono hask.parts (by decide))
  · exact (hask.rd id).trans (State.rd_poke_self s _ _ _)
  · exact (hask.regs a id).trans (hsame a ha)
  · exact checking_enableAsked o.isLt (hon.trans hoff)
  · rw [enableAsked_of_on (hon.trans h)]
    rfl

/-! ### A check that fails (R66) -/

/-- The check of an output is over, with the halo of the model's header. -/
def State.checkOver (s : State) (o halo : Nat) : State := s.setOut o { s.out o with checking := false, halo := halo }

/-- `syn_en` is taken back, and the code of the failing test is told. -/
def State.enableRefused (s : State) (o code : Nat) : State :=
  ((s.setBit R.SYN_CTRL [o] 0 false).setBit R.SYN_STATUS [o] 0 false).configFault o code none

/-- What a failed check leaves. -/
def State.checkFailed (s : State) (o code : Nat) : State := (s.enableRefused o code).applyUnpins

theorem exec_synEnableCheckEnd_idle {o : Fin 4} (hl : s.isLive) (h : ModelHeader) (hidle : (s.out o.val).checking = false) :
    exec (.synEnableCheckEnd o h) s = .next s := by
  rw [show exec (.synEnableCheckEnd o h) s = execSynEnableCheckEnd o h s from rfl, execSynEnableCheckEnd, State.live_next s _ hl]
  simp only [hidle, Bool.not_false, if_true]
  rfl

theorem exec_synEnableCheckEnd_failed {o : Fin 4} (hl : s.isLive) (h : ModelHeader) (hrun : (s.out o.val).checking = true)
    (hcode : (s.checkOver o.val h.halo).enableCheck o.val h ≠ 0) : exec (.synEnableCheckEnd o h) s = .next
      (((s.checkOver o.val h.halo).checkFailed o.val ((s.checkOver o.val h.halo).enableCheck o.val h)).kept s) := by
  rw [show exec (.synEnableCheckEnd o h) s = execSynEnableCheckEnd o h s from rfl, execSynEnableCheckEnd, State.live_next s _ hl]
  unfold State.checkOver at hcode
  simp only [hrun, Bool.not_true, Bool.false_eq_true, if_false, if_pos hcode]
  rfl

theorem ite_lt {c : Prop} {_ : Decidable c} {a b n : Nat} (ha : a < n) (hb : b < n) : (if c then a else b) < n := by
  split <;> assumption

/-- The codes of Table 3.1. -/
theorem enableCheck_lt (s : State) (o : Nat) (h : ModelHeader) : s.enableCheck o h < 2 ^ 8 := by
  unfold State.enableCheck
  extract_lets
  iterate 11 refine ite_lt (by decide) ?_
  decide

theorem status_not_event : ∀ o < 4, regAddr R.SYN_STATUS [o] ∉ eventRegs := by decide

theorem configFault_within (s : State) (o code : Nat) (offset : Option Nat) :
    ChangesWithin [.free, .regs, .sct] (· ∈ regAddr R.SYN_STATUS [o] :: eventRegs) s (s.configFault o code offset) :=
  (ChangesWithin.setFld s _ _ _ _ _ (by decide) List.mem_cons_self).trans
    (event_within _ (by decide) (by decide) (fun _ => List.mem_cons_of_mem _) (by decide) _ _ _ _)

/-- The event of a configuration fault leaves the status of the output. -/
theorem fld_configFault (ho : o < 4) (code : Nat) (offset : Option Nat) (hi lo : Nat) :
    (s.configFault o code offset).fld R.SYN_STATUS [o] hi lo = (s.setFld R.SYN_STATUS [o] 15 8 code).fld R.SYN_STATUS [o] hi lo :=
  (event_within (parts := [.free, .regs, .sct]) (moved := (· ∈ eventRegs)) _ (by decide) (by decide) (fun _ => id) (by decide)
    _ _ _ _).fld (status_not_event o ho) hi lo

theorem code_configFault (ho : o < 4) {code : Nat} (hcode : code < 2 ^ 8) (offset : Option Nat) :
    (s.configFault o code offset).fld R.SYN_STATUS [o] 15 8 = code := by
  rw [fld_configFault ho, State.fld_setFld_self _ _ _ _ _ _ (by decide)]
  exact Nat.mod_eq_of_lt hcode

theorem synOn_configFault (ho : o < 4) (code : Nat) (offset : Option Nat) : (s.configFault o code offset).synOn o = s.synOn o := by
  rw [State.synOn, State.bit, fld_configFault ho, State.fld_setFld_apart _ _ _ _ _ _ _ _ (by decide) (by decide)]
  rfl

/-- Unpins that take effect change models only. -/
theorem applyUnpins_within (s : State) : ChangesWithin [.sch] (fun _ => False) s s.applyUnpins := by
  refine .of_cfg (fun p hp => ?_) rfl rfl rfl
  cases p
  case sch => simp at hp
  all_goals rfl

theorem applyUnpins_sch {s t : State} (h : t.sch = s.sch) :
    t.applyUnpins.sch = { s.sch with models := t.applyUnpins.sch.models } := by
  rw [← h]
  rfl

theorem ctrl_not_fault : ∀ o < 4, regAddr R.SYN_CTRL [o] ∉ regAddr R.SYN_STATUS [o] :: eventRegs := by decide

theorem checkFailed_within (s : State) (o code : Nat) :
    ChangesWithin [.free, .regs, .sct, .sch] (· ∈ [regAddr R.SYN_CTRL [o], regAddr R.SYN_STATUS [o]] ++ eventRegs) s (s.checkFailed o code) :=
  (((ChangesWithin.setBit s _ _ _ _ (by decide) (by simp)).trans (.setBit _ _ _ _ _ (by decide) (by simp))).trans
    ((configFault_within _ o code none).mono (by decide) fun _ => List.mem_cons_of_mem _)).trans
    ((applyUnpins_within _).mono (by decide) fun _ => False.elim)

theorem enableRefused_regs (ho : o < 4) {code : Nat} (hcode : code < 2 ^ 8) :
    (s.enableRefused o code).bit R.SYN_CTRL [o] 0 = false ∧ (s.enableRefused o code).synOn o = false
      ∧ (s.enableRefused o code).fld R.SYN_STATUS [o] 15 8 = code := by
  refine ⟨?_, (synOn_configFault ho code none).trans (State.bit_setBit_self _ _ _ _ _ (by decide)), code_configFault ho hcode none⟩
  have hfault := configFault_within ((s.setBit R.SYN_CTRL [o] 0 false).setBit R.SYN_STATUS [o] 0 false) o code none
  refine (hfault.bit (ctrl_not_fault o ho) 0).trans ?_
  have hstatus : ChangesWithin [.regs] (· = regAddr R.SYN_STATUS [o]) (s.setBit R.SYN_CTRL [o] 0 false)
      ((s.setBit R.SYN_CTRL [o] 0 false).setBit R.SYN_STATUS [o] 0 false) := .setBit _ _ _ _ _ (by decide) rfl
  exact (hstatus.bit (ctrl_apart_status o ho) 0).trans (State.bit_setBit_self _ _ _ _ _ (by decide))

theorem checkFailed_regs (ho : o < 4) {code : Nat} (hcode : code < 2 ^ 8) :
    (s.checkFailed o code).bit R.SYN_CTRL [o] 0 = false ∧ (s.checkFailed o code).synOn o = false
      ∧ (s.checkFailed o code).fld R.SYN_STATUS [o] 15 8 = code := by
  have hunpins := applyUnpins_within (s.enableRefused o code)
  obtain ⟨hctrl, hoff, hstatus⟩ := enableRefused_regs (s := s) ho hcode
  exact ⟨(hunpins.bit id _).trans hctrl, (hunpins.bit id _).trans hoff, (hunpins.fld id _ _).trans hstatus⟩

theorem checkFailed_sch (s : State) (o code : Nat) :
    (s.checkFailed o code).sch = { s.sch with models := (s.checkFailed o code).sch.models } :=
  applyUnpins_sch ((configFault_within ((s.setBit R.SYN_CTRL [o] 0 false).setBit R.SYN_STATUS [o] 0 false) o code none).part (p := .sch)
    (by decide))

theorem checkFailed_completes {o : Fin 4} (hl : s.isLive) (h : ModelHeader) (hrun : (s.out o.val).checking = true)
    (hcode : (s.checkOver o.val h.halo).enableCheck o.val h ≠ 0) :
    completes (.synEnableCheckEnd o h) s [.free, .regs, .syn, .sct, .sch] fun t => t.sch = { s.sch with models := t.sch.models }
      ∧ t.bit R.SYN_CTRL [o.val] 0 = false ∧ t.synOn o.val = false
      ∧ t.fld R.SYN_STATUS [o.val] 15 8 = (s.checkOver o.val h.halo).enableCheck o.val h ∧ (t.out o.val).checking = false
      ∧ sameRegsBut ([regAddr R.SYN_CTRL [o.val], regAddr R.SYN_STATUS [o.val]] ++ eventRegs) s t := by
  have hover : ChangesWithin [.syn] (fun _ => False) s (s.checkOver o.val h.halo) := .setOut _ _ _ (by decide)
  have hfailed := checkFailed_within (s.checkOver o.val h.halo) o.val ((s.checkOver o.val h.halo).enableCheck o.val h)
  obtain ⟨hctrl, hoff, hstatus⟩ := checkFailed_regs (s := s.checkOver o.val h.halo) o.isLt (enableCheck_lt _ o.val h)
  have hsyn := hfailed.part (p := .syn) (by decide)
  refine completes_of_parts (exec_synEnableCheckEnd_failed hl h hrun hcode) ?_ (by decide)
    ⟨checkFailed_sch (s.checkOver o.val h.halo) _ _, hctrl, hoff, hstatus, ?_, fun a ha => ?_⟩
  · exact changesOnly_trans (changesOnly_mono hover.parts (by decide)) (changesOnly_mono hfailed.parts (by decide))
  · refine (congrArg SynOut.checking (State.out_congr hsyn o.val)).trans ?_
    rw [State.checkOver, State.out_setOut_self _ _ o.isLt]
  · exact (hfailed.regs a ha).trans (hover.regs a id)

end Sys2Proof.Machine
end

section
/-! PROOFS. A check that passes: the output is under synthesis, and its slices show (R34, R66, R67). -/

namespace Sys2Proof.Machine

variable {s t : State} {o : Nat}

/-! ### The last complete output is discarded (R55) -/

/-- The registers that tell of a last complete output. -/
def lcoRegs (o : Nat) : List Nat := regAddr R.SYN_STATUS [o] :: warpStatusRegs

/-- No frame under way becomes the last complete output. -/
def State.framesSpoiled (s : State) (o : Nat) : State :=
  s.setOut o { s.out o with frames := (s.out o).frames.map fun f => { f with spoiled := true } }

/-- A last complete output is discarded from its warp unit, if the output has one, and from the output's status. -/
theorem discardLco_cases (s : State) (o : Nat) :
    s.discardLco o = (s.framesSpoiled o).setBit R.SYN_STATUS [o] 4 false
      ∨ ∃ p < 5, s.discardLco o = ((s.framesSpoiled o).setBit R.WRP_STATUS [p] 1 false).setBit R.SYN_STATUS [o] 4 false := by
  unfold State.discardLco
  extract_lets x t
  cases hp : t.pipeOf o with
  | none => exact .inl rfl
  | some p => exact .inr ⟨p, pipeOf_lt hp, rfl⟩

theorem discardLco_within (s : State) (o : Nat) : ChangesWithin [.regs, .syn] (· ∈ lcoRegs o) s (s.discardLco o) := by
  have hspoil : ChangesWithin [.regs, .syn] (· ∈ lcoRegs o) s (s.framesSpoiled o) := .setOut _ _ _ (by decide)
  have hstatus (t : State) : ChangesWithin [.regs, .syn] (· ∈ lcoRegs o) t (t.setBit R.SYN_STATUS [o] 4 false) :=
    .setBit _ _ _ _ _ (by decide) List.mem_cons_self
  obtain h | ⟨p, hp, h⟩ := discardLco_cases s o
  · rw [h]
    exact hspoil.trans (hstatus _)
  · rw [h]
    exact (hspoil.trans (.setBit _ _ _ _ _ (by decide) (List.mem_cons_of_mem _ (wrpStatus_mem hp)))).trans (hstatus _)

theorem discardLco_syn (s : State) (o : Nat) : (s.discardLco o).syn = (s.framesSpoiled o).syn := by
  obtain h | ⟨p, -, h⟩ := discardLco_cases s o <;> rw [h] <;> rfl

theorem out_discardLco (ho : o < 4) : (s.discardLco o).out o
    = { s.out o with frames := (s.out o).frames.map fun f => { f with spoiled := true } } := by
  rw [State.out_congr (discardLco_syn s o), State.framesSpoiled, State.out_setOut_self _ _ ho]

theorem bit_discardLco (s : State) (o : Nat) : (s.discardLco o).bit R.SYN_STATUS [o] 4 = false := by
  obtain h | ⟨p, -, h⟩ := discardLco_cases s o <;> rw [h] <;> exact State.bit_setBit_self _ _ _ _ _ (by decide)

/-- The other fields of the status are left. -/
theorem fld_discardLco (ho : o < 4) {hi lo : Nat} (h32 : hi < 32) (h : hi < 4 ∨ 4 < lo) :
    (s.discardLco o).fld R.SYN_STATUS [o] hi lo = s.fld R.SYN_STATUS [o] hi lo := by
  obtain hd | ⟨p, hp, hd⟩ := discardLco_cases s o
  · rw [hd, State.fld_setBit_apart _ _ _ _ _ h32 h]
    rfl
  · rw [hd, State.fld_setBit_apart _ _ _ _ _ h32 h, State.fld, State.setBit, State.setFld,
      State.rd_poke_ne _ _ _ _ _ _ (lco_apart p hp o ho).2.symm]
    rfl

theorem synOn_discardLco (ho : o < 4) : (s.discardLco o).synOn o = s.synOn o := by
  rw [State.synOn, State.bit, fld_discardLco ho (by decide) (by decide)]
  rfl

/-! ### The registers of the slices (Table 3.5) -/

/-- What SYN_SLICE shows of slice `n`. -/
def State.sliceWord (s : State) (o n : Nat) : Word := BitVec.ofNat 32 (if n < s.synS o then
  firstLine (s.synS o) (s.synTiming o).vActive n + 65536 * sliceLines (s.synS o) (s.synTiming o).vActive n else 0)

theorem sliceReg_inj {o m n : Nat} (h : regAddr R.SYN_SLICE [o, m] = regAddr R.SYN_SLICE [o, n]) : m = n := by
  simp only [regAddr, R.SYN_SLICE, regOffset] at h
  omega

/-- A loop that writes SYN_SLICE leaves in each register named the value for it. -/
theorem rd_foldl_slice (val : Nat → Word) {ns : List Nat} {n : Nat} (h : n ∈ ns ∨ s.rd R.SYN_SLICE [o, n] = val n) :
    (ns.foldl (fun s n => s.poke R.SYN_SLICE [o, n] (val n)) s).rd R.SYN_SLICE [o, n] = val n := by
  induction ns generalizing s with
  | nil => simpa using h
  | cons m ns ih =>
    refine ih ?_
    by_cases hm : n = m
    · subst hm
      exact .inr (State.rd_poke_self _ _ _ _)
    · rw [State.rd_poke_ne _ _ _ _ _ _ fun e => hm (sliceReg_inj e)]
      simpa [hm] using h

theorem rd_sliceRegs (s : State) (o : Nat) {n : Nat} (h : n < 64) : (s.sliceRegs o).rd R.SYN_SLICE [o, n] = s.sliceWord o n :=
  rd_foldl_slice (s.sliceWord o) (.inl ((mem_rangeFrom 0 64 n).2 ⟨Nat.zero_le n, by omega⟩))

/-- The registers SYN_SLICE of an output. -/
def sliceRegAddrs (o : Nat) : List Nat := (rangeFrom 0 64).map fun n => regAddr R.SYN_SLICE [o, n]

theorem sliceRegs_within (s : State) (o : Nat) : ChangesWithin [.regs] (· ∈ sliceRegAddrs o) s (s.sliceRegs o) :=
  .foldl _ _ s fun _ _ hn => .poke _ _ _ _ (by decide) (List.mem_map_of_mem hn)

/-! ### The check passes -/

/-- An output that has just come under synthesis. -/
def SynOut.enabled (x : SynOut) : SynOut :=
  { x with first := true, intervals := [], histGood := [], oringFill := 0, published := false, lastNewer := none }

/-- The output is enabled, with code 0 and no origin records. -/
def State.cleared (s : State) (o : Nat) : State :=
  (((s.setOut o (s.out o).enabled).setBit R.SYN_STATUS [o] 0 true).setFld R.SYN_STATUS [o] 15 8 0).poke R.SYN_ORING_WR [o] 0

/-- The output has no last complete output, and its slice buffer shows. -/
def State.entriesShown (s : State) (o : Nat) : State := (s.discardLco o).setEntries o (s.rd R.SYN_BUDGET [o]).toNat

/-- Its slices and its frame time show. -/
def State.timesShown (s : State) (o : Nat) : State := (s.sliceRegs o).poke R.SYN_TFRAME [o] (BitVec.ofNat 32 (s.tFrame o / 2 ^ 32))

/-- What a passed check leaves. -/
def State.checkPassed (s : State) (o : Nat) : State := (((s.cleared o).entriesShown o).timesShown o).planFirst o

theorem exec_synEnableCheckEnd_passed {o : Fin 4} (hl : s.isLive) (h : ModelHeader) (hrun : (s.out o.val).checking = true)
    (hcode : (s.checkOver o.val h.halo).enableCheck o.val h = 0) :
    exec (.synEnableCheckEnd o h) s = .next (((s.checkOver o.val h.halo).checkPassed o.val).kept s) := by
  rw [show exec (.synEnableCheckEnd o h) s = execSynEnableCheckEnd o h s from rfl, execSynEnableCheckEnd, State.live_next s _ hl]
  unfold State.checkOver at hcode
  have hpass : ¬(State.enableCheck (s.setOut o.val { s.out o.val with checking := false, halo := h.halo }) o.val h ≠ 0) := fun e => e hcode
  simp only [hrun, Bool.not_true, Bool.false_eq_true, if_false, if_neg hpass]
  rfl

theorem planFirst_within (s : State) (o : Nat) : ChangesWithin [.syn] (fun _ => False) s (s.planFirst o) := by
  unfold State.planFirst
  dsimp only
  split
  · exact .setOut _ _ _ (by decide)
  · exact .refl _ _ s

/-- Planning the first frame leaves the check and the history. -/
theorem out_planFirst (ho : o < 4) : ((s.planFirst o).out o).checking = (s.out o).checking
    ∧ ((s.planFirst o).out o).histGood = (s.out o).histGood := by
  unfold State.planFirst
  dsimp only
  split
  · rw [State.out_setOut_self _ _ ho]
    exact ⟨rfl, rfl⟩
  · exact ⟨rfl, rfl⟩

theorem cleared_within (s : State) (o : Nat) :
    ChangesWithin [.regs, .syn] (· ∈ [regAddr R.SYN_STATUS [o], regAddr R.SYN_ORING_WR [o]]) s (s.cleared o) :=
  (((ChangesWithin.setOut s o _ (by decide)).trans (.setBit _ _ _ _ _ (by decide) (by simp))).trans
    (.setFld _ _ _ _ _ _ (by decide) (by simp))).trans (.poke _ _ _ _ (by decide) (by simp))

theorem setEntries_within (s : State) (o b : Nat) : ChangesWithin [.regs] (· = regAddr R.SYN_ENTRIES [o]) s (s.setEntries o b) := by
  have hfld (t : State) (hi lo v : Nat) : ChangesWithin [.regs] (· = regAddr R.SYN_ENTRIES [o]) t (t.setFld R.SYN_ENTRIES [o] hi lo v) :=
    .setFld _ _ _ _ _ _ List.mem_cons_self rfl
  exact (hfld s _ _ _).trans (hfld _ _ _ _)

/-- The registers in which the slice buffer shows. -/
def entriesRegs (o : Nat) : List Nat := regAddr R.SYN_ENTRIES [o] :: lcoRegs o

theorem entriesShown_within (s : State) (o : Nat) : ChangesWithin [.regs, .syn] (· ∈ entriesRegs o) s (s.entriesShown o) :=
  ((discardLco_within s o).mono (fun _ => id) fun _ => List.mem_cons_of_mem _).trans
    ((setEntries_within _ o _).mono (by decide) fun _ h => h ▸ List.mem_cons_self)

/-- The registers in which the slices and the frame time show. -/
def timesRegs (o : Nat) : List Nat := regAddr R.SYN_TFRAME [o] :: sliceRegAddrs o

theorem timesShown_within (s : State) (o : Nat) : ChangesWithin [.regs] (· ∈ timesRegs o) s (s.timesShown o) :=
  ((sliceRegs_within s o).mono (fun _ => id) fun _ => List.mem_cons_of_mem _).trans (.poke _ _ _ _ (by decide) List.mem_cons_self)

theorem status_apart : ∀ o < 4, regAddr R.SYN_STATUS [o] ≠ regAddr R.SYN_ORING_WR [o] ∧ regAddr R.SYN_STATUS [o] ≠ regAddr R.SYN_ENTRIES [o]
    ∧ regAddr R.SYN_STATUS [o] ∉ timesRegs o ∧ regAddr R.SYN_ORING_WR [o] ∉ entriesRegs o ∧ regAddr R.SYN_ORING_WR [o] ∉ timesRegs o := by
  decide

theorem tframe_not_slice : ∀ o < 4, ∀ n < 64, regAddr R.SYN_SLICE [o, n] ≠ regAddr R.SYN_TFRAME [o] := by decide

theorem geomRegs_not_cleared : ∀ o < 4, ∀ a ∈ geomRegs o,
    a ∉ [regAddr R.SYN_STATUS [o], regAddr R.SYN_ORING_WR [o]] ∧ a ∉ entriesRegs o := by decide

/-- A field of the status that neither the enable nor the last complete output shows in, as the first two steps leave it. -/
theorem status_entriesShown (ho : o < 4) {hi lo : Nat} (h32 : hi < 32) (h : hi < 4 ∨ 4 < lo) :
    (s.entriesShown o).fld R.SYN_STATUS [o] hi lo = s.fld R.SYN_STATUS [o] hi lo :=
  ((setEntries_within (s.discardLco o) o _).fld (status_apart o ho).2.1 hi lo).trans (fld_discardLco ho h32 h)

theorem status_cleared (ho : o < 4) : (s.cleared o).synOn o = true ∧ (s.cleared o).fld R.SYN_STATUS [o] 15 8 = 0 := by
  have hwr (t : State) : ChangesWithin [.regs] (· = regAddr R.SYN_ORING_WR [o]) t (t.poke R.SYN_ORING_WR [o] 0) :=
    .poke _ _ _ _ (by decide) rfl
  have hne := (status_apart o ho).1
  refine ⟨((hwr _).bit hne 0).trans ?_, ((hwr _).fld hne 15 8).trans (State.fld_setFld_self _ _ _ _ _ _ (by decide))⟩
  rw [State.bit_setFld_apart _ _ _ _ _ _ (by decide) (by decide), State.bit_setBit_self _ _ _ _ _ (by decide)]

/-- After the slice buffer, the status is not moved. -/
theorem status_checkPassed (ho : o < 4) (hi lo : Nat) : (s.checkPassed o).fld R.SYN_STATUS [o] hi lo
    = ((s.cleared o).entriesShown o).fld R.SYN_STATUS [o] hi lo :=
  ((planFirst_within _ o).fld id hi lo).trans ((timesShown_within _ o).fld (status_apart o ho).2.2.1 hi lo)

theorem checkPassed_status (ho : o < 4) : (s.checkPassed o).synOn o = true ∧ (s.checkPassed o).fld R.SYN_STATUS [o] 15 8 = 0
    ∧ (s.checkPassed o).rd R.SYN_ORING_WR [o] = 0 := by
  obtain ⟨hon, hcode⟩ := status_cleared (s := s) ho
  obtain ⟨-, -, -, hentries, htimes⟩ := status_apart o ho
  refine ⟨?_, ?_, ?_⟩
  · rw [State.synOn, State.bit, status_checkPassed ho, status_entriesShown ho (by decide) (by decide)]
    exact hon
  · rw [status_checkPassed ho, status_entriesShown ho (by decide) (by decide), hcode]
  · rw [State.checkPassed, (planFirst_within _ o).rd id, (timesShown_within _ o).rd htimes, (entriesShown_within _ o).rd hentries]
    exact State.rd_poke_self _ _ _ _

theorem checkPassed_out (ho : o < 4) : ((s.checkPassed o).out o).checking = (s.out o).checking
    ∧ ((s.checkPassed o).out o).histGood = [] := by
  have hshown : ((s.cleared o).entriesShown o).out o = ((s.cleared o).discardLco o).out o := rfl
  have hcleared : (s.cleared o).out o = (s.out o).enabled := State.out_setOut_self s _ ho
  obtain ⟨hchecking, hhist⟩ := out_planFirst (s := ((s.cleared o).entriesShown o).timesShown o) ho
  have htimes := State.out_congr ((timesShown_within ((s.cleared o).entriesShown o) o).part (p := .syn) (by decide)) o
  rw [htimes, hshown, out_discardLco ho, hcleared] at hchecking hhist
  exact ⟨hchecking, hhist⟩

/-- The slices show as the geometry gives them, which the enable leaves. -/
theorem checkPassed_slice (ho : o < 4) {n : Nat} (hn : n < 64) : (s.checkPassed o).rd R.SYN_SLICE [o, n] = s.sliceWord o n := by
  have hgeom : SameGeometry o s ((s.cleared o).entriesShown o) := by
    have hcleared := (cleared_within s o).sameGeometry (o := o) (by decide) fun a ha => (geomRegs_not_cleared o ho a ha).1
    have hentries := (entriesShown_within (s.cleared o) o).sameGeometry (o := o) (by decide) fun a ha => (geomRegs_not_cleared o ho a ha).2
    exact ⟨hentries.dsp.trans hcleared.dsp, fun a ha => (hentries.regs a ha).trans (hcleared.regs a ha)⟩
  rw [State.checkPassed, (planFirst_within _ o).rd id, State.timesShown, State.rd_poke_ne _ _ _ _ _ _ (tframe_not_slice o ho n hn),
    rd_sliceRegs _ _ hn, State.sliceWord, hgeom.synS, hgeom.synTiming, State.sliceWord]

theorem checkPassed_within (s : State) (o : Nat) : ChangesWithin [.regs, .syn] (fun _ => True) s (s.checkPassed o) :=
  ((((cleared_within s o).mono (fun _ => id) fun _ _ => trivial).trans
    ((entriesShown_within _ o).mono (fun _ => id) fun _ _ => trivial)).trans
    ((timesShown_within _ o).mono (by decide) fun _ _ => trivial)).trans ((planFirst_within _ o).mono (by decide) fun _ _ => trivial)

theorem checkPassed_completes {o : Fin 4} (hl : s.isLive) (h : ModelHeader) (hrun : (s.out o.val).checking = true)
    (hcode : (s.checkOver o.val h.halo).enableCheck o.val h = 0) :
    completes (.synEnableCheckEnd o h) s [.regs, .syn] fun t => t.synOn o.val = true ∧ t.fld R.SYN_STATUS [o.val] 15 8 = 0
      ∧ t.rd R.SYN_ORING_WR [o.val] = 0 ∧ (t.out o.val).checking = false ∧ (t.out o.val).histGood = []
      ∧ ∀ n, n < s.synS o.val → t.rd R.SYN_SLICE [o.val, n] = BitVec.ofNat 32
          (firstLine (s.synS o.val) (s.synTiming o.val).vActive n + 65536 * sliceLines (s.synS o.val) (s.synTiming o.val).vActive n) := by
  have hover : ChangesWithin [.syn] (fun _ => False) s (s.checkOver o.val h.halo) := .setOut _ _ _ (by decide)
  have hgeom := hover.sameGeometry (o := o.val) (by decide) fun _ _ => id
  have hpassed := checkPassed_within (s.checkOver o.val h.halo) o.val
  obtain ⟨hon, hstatus, hring⟩ := checkPassed_status (s := s.checkOver o.val h.halo) o.isLt
  obtain ⟨hchecking, hhist⟩ := checkPassed_out (s := s.checkOver o.val h.halo) o.isLt
  have hidle : ((s.checkOver o.val h.halo).out o.val).checking = false := by
    rw [State.checkOver, State.out_setOut_self _ _ o.isLt]
  refine completes_of_parts (exec_synEnableCheckEnd_passed hl h hrun hcode) ?_ (by decide)
    ⟨hon, hstatus, hring, hchecking.trans hidle, hhist, fun n hn => ?_⟩
  · exact changesOnly_trans (changesOnly_mono hover.parts (by decide)) hpassed.parts
  · have hS := synS_of_geomGood (geomGood_of_enableCheck hcode)
    rw [hgeom.synS] at hS
    refine (checkPassed_slice o.isLt (by omega)).trans ?_
    rw [State.sliceWord, hgeom.synS, hgeom.synTiming, if_pos hn]

end Sys2Proof.Machine
end

section
/-! PROOFS. The end of synthesis on an output: every slice in flight is decided (R55, R63). -/

namespace Sys2Proof.Machine

variable {s t u : State} {o : Nat}

/-! ### Frame and slice of the released slices -/

/-- Frame and slice of every released slice of an output. -/
def State.runKeys (s : State) (o : Nat) : List (Word × Nat) := (s.out o).runs.map fun r => (r.frame, r.slice)

theorem map_upsert_of_mem {α κ : Type} {p : α → Bool} {new : α} {l : List α} {key : α → κ} (hp : ∀ x, p x = true ↔ key x = key new)
    (h : key new ∈ l.map key) : (upsert p new l).map key = l.map key := by
  induction l with
  | nil => simp at h
  | cons y l ih =>
    rw [upsert]
    split
    · next hy => simp [(hp y).1 hy]
    · next hy =>
      have hne : key new ≠ key y := fun e => hy ((hp y).2 e.symm)
      simp only [List.map_cons, List.mem_cons, hne, false_or] at h ⊢
      rw [ih h]

theorem runKeys_congr (h : t.syn = s.syn) (o : Nat) : t.runKeys o = s.runKeys o := by
  rw [State.runKeys, State.runKeys, State.out_congr h]

theorem mem_runKeys {r : SliceRun} (h : r ∈ (s.out o).runs) : (r.frame, r.slice) ∈ s.runKeys o :=
  List.mem_map_of_mem (f := fun r : SliceRun => (r.frame, r.slice)) h

/-- An entry that takes the place of one of its frame and slice. -/
theorem runKeys_putRun (ho : o < 4) {r x : SliceRun} (hx : x ∈ (s.out o).runs) (h : r.frame = x.frame ∧ r.slice = x.slice) :
    (s.putRun o r).runKeys o = s.runKeys o := by
  have hmem := mem_runKeys hx
  rw [← h.1, ← h.2] at hmem
  rw [State.runKeys, State.putRun, State.out_setOut_self _ _ ho]
  exact map_upsert_of_mem (by simp) hmem

theorem runKeys_of_runs (h : (t.out o).runs = (s.out o).runs) : t.runKeys o = s.runKeys o := by
  rw [State.runKeys, State.runKeys, h]

/-! ### What a decision and the start of a warp keep -/

theorem runs_noteOrigin (ho : o < 4) (f : Word) (n code : Nat) : ((s.noteOrigin o f n code).out o).runs = (s.out o).runs
    ∧ ((s.noteOrigin o f n code).out o).checking = (s.out o).checking := by
  unfold State.noteOrigin
  split
  · rw [State.putFrame, State.out_setOut_self _ _ ho]
    exact ⟨rfl, rfl⟩
  · exact ⟨rfl, rfl⟩

theorem runKeys_decideOrigin (ho : o < 4) (f : Word) (n code : Nat) : (s.decideOrigin o f n code).runKeys o = s.runKeys o := by
  rw [runKeys_congr (decideOrigin_syn _ _ _ _ _), runKeys_of_runs (runs_noteOrigin ho f n code).1, State.decideRun]
  split
  · next r hr => exact runKeys_putRun ho (State.run_some hr).1 ⟨rfl, rfl⟩
  · rfl

theorem checking_putRun (ho : o < 4) (r : SliceRun) : ((s.putRun o r).out o).checking = (s.out o).checking := by
  rw [State.putRun, State.out_setOut_self _ _ ho]

theorem checking_decideOrigin (ho : o < 4) (f : Word) (n code : Nat) :
    ((s.decideOrigin o f n code).out o).checking = (s.out o).checking := by
  rw [State.out_congr (decideOrigin_syn _ _ _ _ _), (runs_noteOrigin ho f n code).2, State.decideRun]
  split
  · exact checking_putRun ho _
  · rfl

/-- A decision decides the slice that it names, if that has an entry. -/
theorem run_decideOrigin (ho : o < 4) (f : Word) (n code : Nat) :
    (s.decideOrigin o f n code).run o f n = (s.run o f n).map (·.decided code) := by
  cases hr : s.run o f n with
  | some r => exact run_decideOrigin_self ho hr code
  | none =>
    rw [State.run_congr (decideOrigin_syn _ _ _ _ _), run_noteOrigin ho, State.decideRun, hr]
    exact hr

/-- The slice has an origin, or no entry. -/
def State.settled (s : State) (o : Nat) (f : Word) (n : Nat) : Prop := ∀ r, s.run o f n = some r → r.origin ≠ none

theorem settled_decideOrigin_self (ho : o < 4) (f : Word) (n code : Nat) : (s.decideOrigin o f n code).settled o f n := by
  intro r hr
  rw [run_decideOrigin ho] at hr
  obtain ⟨x, -, rfl⟩ := Option.map_eq_some_iff.1 hr
  exact Option.some_ne_none code

theorem settled_decideOrigin (ho : o < 4) {f g : Word} {n m : Nat} (code : Nat) (h : s.settled o f n) :
    (s.decideOrigin o g m code).settled o f n := by
  by_cases hk : g = f ∧ m = n
  · obtain ⟨rfl, rfl⟩ := hk
    exact settled_decideOrigin_self ho _ _ code
  · intro r hr
    rw [run_decideOrigin_ne ho hk] at hr
    exact h r hr

theorem settled_startWarp (ho : o < 4) (p : Nat) {r : SliceRun} (hd : s.runsDistinct o) (hr : r ∈ (s.out o).runs) {f : Word} {n : Nat}
    (h : s.settled o f n) : (s.startWarp o p r).settled o f n := by
  intro y hy
  by_cases hk : r.frame = f ∧ r.slice = n
  · obtain ⟨rfl, rfl⟩ := hk
    obtain ⟨x, hx, hxr⟩ := run_startWarp ho p hd hr (State.run_of_mem hd hr)
    obtain rfl := Option.some.inj (hx.symm.trans hy)
    rw [hxr]
    exact h r (State.run_of_mem hd hr)
  · rw [run_startWarp_ne ho p r hk] at hy
    exact h y hy

/-- The start of a warp moves the busy flags of the output's status only. -/
theorem synOn_startWarp (ho : o < 4) {p : Nat} (hp : p < 5) (r : SliceRun) : (s.startWarp o p r).synOn o = s.synOn o := by
  have hwarp : ChangesWithin [.regs, .syn] (· = regAddr R.WRP_STATUS [p]) s
      (((s.putRun o (s.warping o r)).setBit R.WRP_STATUS [p] 0 true).setFld R.WRP_STATUS [p] 13 8 r.slice) :=
    .trans (.trans (.putRun s o _ (by decide)) (.setBit _ _ _ _ _ (by decide) rfl)) (.setFld _ _ _ _ _ _ (by decide) rfl)
  refine Eq.trans ?_ (hwarp.bit (fun e => (lco_apart p hp o ho).2 e.symm) 0)
  refine (State.bit_setBit_ne _ _ _ _ _ (by decide) (by decide)).trans ?_
  exact State.bit_setBit_ne _ _ _ _ _ (by decide) (by decide)

/-! ### What is kept while slices are decided -/

/-- The registers that move while slices of an output are decided: its status, those of the warp units, and those of its origin map,
with whatever lies above them, since the slices are any. -/
abbrev decideRegs (o a : Nat) : Prop := a ∈ lcoRegs o ∨ regAddr R.SYN_OMAP_CUR [o, 0] ≤ a

/-- What deciding slices of an output keeps: slices that are decided stay so, and the output stays as it is otherwise. -/
structure SlicesDecided (o : Nat) (s t : State) : Prop where
  within : ChangesWithin [.regs, .syn] (decideRegs o) s t
  on : t.synOn o = s.synOn o
  keys : t.runKeys o = s.runKeys o
  checking : (t.out o).checking = (s.out o).checking
  settled : ∀ f n, s.settled o f n → t.settled o f n

namespace SlicesDecided

theorem refl (o : Nat) (s : State) : SlicesDecided o s s := ⟨.refl _ _ s, rfl, rfl, rfl, fun _ _ => id⟩

theorem trans (h : SlicesDecided o s t) (k : SlicesDecided o t u) : SlicesDecided o s u :=
  ⟨h.within.trans k.within, k.on.trans h.on, k.keys.trans h.keys, k.checking.trans h.checking, fun f n hs => k.settled f n (h.settled f n hs)⟩

theorem runsDistinct (h : SlicesDecided o s t) (hd : s.runsDistinct o) : t.runsDistinct o := by
  have hkeys := h.keys
  rw [State.runKeys, State.runKeys] at hkeys
  rwa [State.runsDistinct, hkeys]

theorem decideOrigin (ho : o < 4) (s : State) (f : Word) (n code : Nat) : SlicesDecided o s (s.decideOrigin o f n code) := by
  have hword := decideOrigin_within_word s o f n code
  have hle : regAddr R.SYN_OMAP_CUR [o, 0] ≤ regAddr R.SYN_OMAP_CUR [o, n / 16] := by
    simp only [regAddr, R.SYN_OMAP_CUR, regOffset]
    omega
  refine ⟨hword.mono (fun _ => id) fun a ha => .inr (hle.trans_eq ha.symm), hword.bit (fun e => ?_) 0, runKeys_decideOrigin ho f n code,
    checking_decideOrigin ho f n code, fun _ _ => settled_decideOrigin ho code⟩
  rw [← e] at hle
  simp only [regAddr, R.SYN_OMAP_CUR, R.SYN_STATUS, regOffset] at hle
  omega

theorem startWarp (ho : o < 4) {p : Nat} (hp : p < 5) {r : SliceRun} (hd : s.runsDistinct o) (hr : r ∈ (s.out o).runs) :
    SlicesDecided o s (s.startWarp o p r) := by
  have hmoved (a : Nat) (ha : a ∈ warpRegs o p) : decideRegs o a := by
    simp only [warpRegs, List.mem_cons, List.not_mem_nil, or_false] at ha
    obtain rfl | rfl := ha
    · exact .inl (List.mem_cons_of_mem _ (wrpStatus_mem hp))
    · exact .inl List.mem_cons_self
  refine ⟨(startWarp_within s o p r).mono (fun _ => id) hmoved, synOn_startWarp ho hp r, ?_, ?_, fun _ _ => settled_startWarp ho p hd hr⟩
  · rw [runKeys_congr (startWarp_syn s o p r)]
    exact runKeys_putRun ho hr ⟨rfl, rfl⟩
  · rw [State.out_congr (startWarp_syn s o p r)]
    exact checking_putRun ho _

theorem nextWarp (ho : o < 4) {p : Nat} (hp : p < 5) (hd : s.runsDistinct o) (fuel : Nat) : SlicesDecided o s (s.nextWarp o p fuel) :=
  nextWarp_induction (P := SlicesDecided o s) (fun _ _ h hr _ => h.trans (startWarp ho hp (h.runsDistinct hd) hr))
    (fun t _ h _ _ => h.trans (decideOrigin ho t _ _ 3)) fuel (refl o s)

/-- A slice that takes the ladder is decided. -/
theorem ladder (ho : o < 4) (hd : s.runsDistinct o) (f : Word) (n : Nat) :
    SlicesDecided o s (s.ladder o f n) ∧ (s.ladder o f n).settled o f n := by
  have hdecide (code : Nat) : SlicesDecided o s (s.decideOrigin o f n code) ∧ (s.decideOrigin o f n code).settled o f n :=
    ⟨decideOrigin ho s f n code, settled_decideOrigin_self ho f n code⟩
  unfold State.ladder
  split
  · next p hp =>
    split
    · have hwarp := nextWarp ho (pipeOf_lt hp) ((hdecide 1).1.runsDistinct hd) ((s.decideOrigin o f n 1).out o).runs.length
      exact ⟨(hdecide 1).1.trans hwarp, hwarp.settled f n (hdecide 1).2⟩
    · exact hdecide 3
  · exact hdecide 3

end SlicesDecided

/-! ### The slices in flight (R63) -/

/-- A slice in flight without a task stops: it is decided, unless it is already. -/
def State.stopSlice (s : State) (o : Nat) (r : SliceRun) : State := if r.origin.isNone then s.ladder o r.frame r.slice else s

theorem stopSlices_of_no_tasks (h : ∀ r ∈ (s.out o).runs, r.task = none) :
    s.stopSlices o = (s.out o).runs.foldl (fun s r => s.stopSlice o r) s := by
  rw [State.stopSlices]
  refine List.foldl_ext _ _ _ fun t r hr => ?_
  rw [h r hr]
  rfl

/-- Slices that stop are decided, each that is not decided before. -/
theorem foldl_stopSlice (ho : o < 4) {rs : List SliceRun} (hd : s.runsDistinct o)
    (hrs : ∀ r ∈ rs, r.origin.isNone = true ∨ s.settled o r.frame r.slice) :
    SlicesDecided o s (rs.foldl (fun s r => s.stopSlice o r) s)
      ∧ ∀ r ∈ rs, (rs.foldl (fun s r => s.stopSlice o r) s).settled o r.frame r.slice := by
  induction rs generalizing s with
  | nil => exact ⟨.refl o s, by simp⟩
  | cons r rs ih =>
    have hstop : SlicesDecided o s (s.stopSlice o r) ∧ (s.stopSlice o r).settled o r.frame r.slice := by
      unfold State.stopSlice
      split
      · exact SlicesDecided.ladder ho hd _ _
      · next h => exact ⟨.refl o s, (hrs r List.mem_cons_self).resolve_left h⟩
    obtain ⟨hrest, hdecided⟩ := ih (hstop.1.runsDistinct hd) fun x hx =>
      (hrs x (List.mem_cons_of_mem r hx)).imp_right (hstop.1.settled _ _)
    refine ⟨hstop.1.trans hrest, fun x hx => ?_⟩
    obtain rfl | hx := List.mem_cons.1 hx
    · exact hrest.settled _ _ hstop.2
    · exact hdecided x hx

theorem stopSlices_decided (ho : o < 4) (hd : s.runsDistinct o) (h : ∀ r ∈ (s.out o).runs, r.task = none) :
    SlicesDecided o s (s.stopSlices o) ∧ ∀ r ∈ ((s.stopSlices o).out o).runs, r.origin ≠ none := by
  have hrs : ∀ r ∈ (s.out o).runs, r.origin.isNone = true ∨ s.settled o r.frame r.slice := by
    intro r hr
    cases horigin : r.origin with
    | none => exact .inl rfl
    | some code =>
      refine .inr fun x hx => ?_
      obtain rfl := Option.some.inj ((State.run_of_mem hd hr).symm.trans hx)
      simp [horigin]
  obtain ⟨hdecided, hsettled⟩ := foldl_stopSlice ho hd hrs
  rw [← stopSlices_of_no_tasks h] at hdecided hsettled
  refine ⟨hdecided, fun r hr => ?_⟩
  have hkey : (r.frame, r.slice) ∈ s.runKeys o :=
    hdecided.keys ▸ mem_runKeys hr
  obtain ⟨x, hx, hxr⟩ := List.mem_map.1 hkey
  obtain ⟨hframe, hslice⟩ := Prod.mk.inj hxr
  have hrun := State.run_of_mem (hdecided.runsDistinct hd) hr
  rw [← hframe, ← hslice] at hrun
  exact hsettled x hx r hrun

/-! ### The end of synthesis (R63, R89) -/

/-- Captures that are not whole are given up. -/
def State.capturesDropped (s : State) (o : Nat) : State :=
  match (s.out o).work with
  | some w => if w.job.isNone && !w.left.isEmpty then (s.setOut o { s.out o with work := none }).setBit R.SYN_ADP_STATUS [o] 3 false else s
  | none => s

/-- SYN_CTRL is written with `syn_en` = 0, and no check runs. -/
def State.disableWritten (s : State) (o : Nat) (v : Word) : State :=
  (s.poke R.SYN_CTRL [o] (v &&& 0x3E)).setOut o { (s.poke R.SYN_CTRL [o] (v &&& 0x3E)).out o with checking := false }

/-- Synthesis has ended on an output, but for unpins. -/
def State.stoppedSyn (s : State) (o : Nat) : State := (((s.setBit R.SYN_STATUS [o] 0 false).stopSlices o).discardLco o).capturesDropped o

/-- An output that is under synthesis is taken out of it, but for unpins. -/
def State.takenOut (s : State) (o : Nat) : State := if s.synOn o then s.stoppedSyn o else s

theorem exec_synDisable {o : Fin 4} (hl : s.isLive) (v : Word) :
    exec (.synDisable o v) s = .next ((((s.disableWritten o.val v).takenOut o.val).applyUnpins).kept s) := by
  rw [show exec (.synDisable o v) s = execSynDisable o v s from rfl, execSynDisable, State.live_next s _ hl, State.takenOut,
    apply_ite State.applyUnpins]
  rfl

theorem capturesDropped_within (s : State) (o : Nat) :
    ChangesWithin [.regs, .syn] (· = regAddr R.SYN_ADP_STATUS [o]) s (s.capturesDropped o) := by
  unfold State.capturesDropped
  split
  · split
    · exact (ChangesWithin.setOut _ _ _ (by decide)).trans (.setBit _ _ _ _ _ (by decide) rfl)
    · exact .refl _ _ s
  · exact .refl _ _ s

theorem out_capturesDropped (ho : o < 4) : ((s.capturesDropped o).out o).runs = (s.out o).runs
    ∧ ((s.capturesDropped o).out o).checking = (s.out o).checking := by
  have hdrop : ((s.setOut o { s.out o with work := none }).setBit R.SYN_ADP_STATUS [o] 3 false).out o = { s.out o with work := none } :=
    State.out_setOut_self _ _ ho
  unfold State.capturesDropped
  split
  · split
    · rw [hdrop]
      exact ⟨rfl, rfl⟩
    · exact ⟨rfl, rfl⟩
  · exact ⟨rfl, rfl⟩

theorem status_apart_adp : ∀ o < 4, regAddr R.SYN_STATUS [o] ≠ regAddr R.SYN_ADP_STATUS [o] ∧ regAddr R.SYN_CTRL [o] ≠ regAddr R.SYN_ADP_STATUS [o]
    ∧ regAddr R.SYN_CTRL [o] ∉ lcoRegs o ∧ regAddr R.SYN_CTRL [o] < regAddr R.SYN_OMAP_CUR [o, 0] := by decide

/-- What the end of synthesis leaves of an output. -/
structure SynStopped (o : Nat) (s t : State) : Prop where
  parts : changesOnly [.regs, .syn] s t
  ctrl : t.rd R.SYN_CTRL [o] = s.rd R.SYN_CTRL [o]
  off : t.synOn o = false
  checking : (t.out o).checking = (s.out o).checking
  lco : t.bit R.SYN_STATUS [o] 4 = false
  decided : ∀ r ∈ (t.out o).runs, r.origin ≠ none

theorem stoppedSyn_stopped (ho : o < 4) (hd : s.runsDistinct o) (htask : ∀ r ∈ (s.out o).runs, r.task = none) :
    SynStopped o s (s.stoppedSyn o) := by
  obtain ⟨hadp, hctrlAdp, hctrlLco, hctrlMap⟩ := status_apart_adp o ho
  have hoff : ChangesWithin [.regs] (· = regAddr R.SYN_STATUS [o]) s (s.setBit R.SYN_STATUS [o] 0 false) := .setBit _ _ _ _ _ (by decide) rfl
  obtain ⟨hslices, hdecided⟩ := stopSlices_decided (s := s.setBit R.SYN_STATUS [o] 0 false) ho hd htask
  have hlco := discardLco_within ((s.setBit R.SYN_STATUS [o] 0 false).stopSlices o) o
  have hdrop := capturesDropped_within (((s.setBit R.SYN_STATUS [o] 0 false).stopSlices o).discardLco o) o
  obtain ⟨hruns, hchecking⟩ := out_capturesDropped (s := ((s.setBit R.SYN_STATUS [o] 0 false).stopSlices o).discardLco o) ho
  rw [out_discardLco ho] at hruns hchecking
  refine ⟨?_, ?_, ?_, hchecking.trans hslices.checking, (hdrop.bit hadp 4).trans (bit_discardLco _ o), fun r hr => ?_⟩
  · exact changesOnly_trans (changesOnly_mono hoff.parts (by decide)) (changesOnly_trans hslices.within.parts
      (changesOnly_trans hlco.parts hdrop.parts))
  · have hnot : ¬decideRegs o (regAddr R.SYN_CTRL [o]) := fun h => h.elim hctrlLco (Nat.not_le.2 hctrlMap)
    exact (hdrop.rd hctrlAdp).trans ((hlco.rd hctrlLco).trans ((hslices.within.rd hnot).trans (hoff.rd (ctrl_apart_status o ho))))
  · exact (hdrop.bit hadp 0).trans ((synOn_discardLco ho).trans (hslices.on.trans (State.bit_setBit_self _ _ _ _ _ (by decide))))
  · exact hdecided r (hruns ▸ hr)

theorem out_disableWritten (ho : o < 4) (v : Word) : (s.disableWritten o v).out o = { s.out o with checking := false } :=
  State.out_setOut_self _ _ ho

theorem synDisable_completes {o : Fin 4} (hl : s.isLive) (v : Word) (htask : ∀ r ∈ (s.out o.val).runs, r.task = none)
    (hd : s.runsDistinct o.val) :
    completes (.synDisable o v) s [.regs, .syn, .sch] fun t => t.sch = { s.sch with models := t.sch.models }
      ∧ t.rd R.SYN_CTRL [o.val] = v &&& 0x3E ∧ t.synOn o.val = false
      ∧ (t.out o.val).checking = false ∧ (s.synOn o.val = true → t.bit R.SYN_STATUS [o.val] 4 = false
        ∧ ∀ r ∈ (t.out o.val).runs, r.origin ≠ none) := by
  have hwritten : ChangesWithin [.regs, .syn] (· = regAddr R.SYN_CTRL [o.val]) s (s.disableWritten o.val v) :=
    .trans (.poke _ _ _ _ (by decide) rfl) (.setOut _ _ _ (by decide))
  have hctrl : (s.disableWritten o.val v).rd R.SYN_CTRL [o.val] = v &&& 0x3E := State.rd_poke_self s _ _ _
  have hout := out_disableWritten (s := s) o.isLt v
  have hon : (s.disableWritten o.val v).synOn o.val = s.synOn o.val := hwritten.bit (fun e => ctrl_apart_status _ o.isLt e.symm) 0
  have hmodels {t : State} (h : changesOnly [.regs, .syn] s t) : changesOnly [.regs, .syn, .sch] s t.applyUnpins :=
    changesOnly_trans (changesOnly_mono h (by decide)) (changesOnly_mono (applyUnpins_within t).parts (by decide))
  have hexec := exec_synDisable hl v (o := o)
  cases hs : s.synOn o.val with
  | false =>
    rw [State.takenOut, hon, hs, if_neg (by decide)] at hexec
    refine completes_of_parts hexec (hmodels hwritten.parts) (by decide) ⟨applyUnpins_sch rfl, hctrl, hon.trans hs, ?_, nofun⟩
    exact congrArg SynOut.checking hout
  | true =>
    rw [State.takenOut, hon, hs, if_pos rfl] at hexec
    have hstop := stoppedSyn_stopped (s := s.disableWritten o.val v) o.isLt (by rw [State.runsDistinct, hout]; exact hd)
      (by rw [hout]; exact htask)
    refine completes_of_parts hexec (hmodels (changesOnly_trans hwritten.parts hstop.parts)) (by decide)
      ⟨applyUnpins_sch ?_, hstop.ctrl.trans hctrl, hstop.off, ?_, fun _ => ⟨hstop.lco, hstop.decided⟩⟩
    · exact (hstop.parts .sch (by decide)).trans (hwritten.part (p := .sch) (by decide))
    · exact hstop.checking.trans (congrArg SynOut.checking hout)

end Sys2Proof.Machine
end

section
/-! PROOFS. Locked and tested writes of the registers of an output, and the publication of a bank (R68, R73). -/

namespace Sys2Proof.Machine

variable {s : State} {o : Fin 4}

/-! ### Writes while an output is enabled (R68) -/

/-- A write that is refused changes the code of the status, and is told. -/
theorem refused_completes {c : Instr} {code : Nat} {offset : Option Nat} (hexec : exec c s = .next ((s.configFault o.val code offset).kept s))
    (hcode : code < 2 ^ 8) :
    completes c s [.free, .regs, .sct] fun t =>
      t.fld R.SYN_STATUS [o.val] 15 8 = code ∧ sameRegsBut (regAddr R.SYN_STATUS [o.val] :: eventRegs) s t := by
  have hfault := configFault_within s o.val code offset
  exact completes_of_parts hexec hfault.parts (by decide) ⟨code_configFault o.isLt hcode offset, hfault.regs⟩

/-- A write that is taken gives the bits that the host may write their value. -/
theorem taken_completes {c : Instr} {r : Reg} {ix : List Nat} {v : Word} (hexec : exec c s = .next ((s.plainWrite r ix v).kept s)) :
    completes c s [.regs] fun t =>
      t.rd r ix = (s.rd r ix &&& ~~~r.rw) ||| (v &&& r.rw) ∧ sameRegsBut [regAddr r ix] s t :=
  completes_of_parts hexec (changesOnly_poke s r ix _) (by decide) ⟨State.rd_poke_self s r ix _, sameRegsBut_poke s r ix _⟩

theorem exec_synLockedWrite (hl : s.isLive) (reg : SynLocked) (v : Word) : exec (.synLockedWrite o reg v) s = .next
    ((if s.bit R.SYN_CTRL [o.val] 0 then s.configFault o.val 0x0C (some (blockOffset (lockedReg reg)))
      else s.plainWrite (lockedReg reg) [o.val] v).kept s) := by
  rw [show exec (.synLockedWrite o reg v) s = execSynLockedWrite o reg v s from rfl, execSynLockedWrite, State.live_next s _ hl]

theorem synLockedWrite_refused (hl : s.isLive) (reg : SynLocked) (v : Word) (hlock : s.bit R.SYN_CTRL [o.val] 0 = true) :
    completes (.synLockedWrite o reg v) s [.free, .regs, .sct] fun t =>
      t.fld R.SYN_STATUS [o.val] 15 8 = 0x0C ∧ sameRegsBut (regAddr R.SYN_STATUS [o.val] :: eventRegs) s t := by
  have hexec := exec_synLockedWrite hl (o := o) reg v
  rw [if_pos hlock] at hexec
  exact refused_completes hexec (by decide)

theorem synLockedWrite_taken (hl : s.isLive) (reg : SynLocked) (v : Word) (hfree : s.bit R.SYN_CTRL [o.val] 0 = false) :
    completes (.synLockedWrite o reg v) s [.regs] fun t =>
      t.rd (lockedReg reg) [o.val] = (s.rd (lockedReg reg) [o.val] &&& ~~~(lockedReg reg).rw) ||| (v &&& (lockedReg reg).rw)
        ∧ sameRegsBut [regAddr (lockedReg reg) [o.val]] s t := by
  have hexec := exec_synLockedWrite hl (o := o) reg v
  rw [hfree, if_neg (by decide)] at hexec
  exact taken_completes hexec

/-- The code that a tested write is refused with, 0 where it is taken. -/
def State.writeCode (s : State) (o : Nat) (reg : SynTested) (v : Word) : Nat :=
  if s.bit R.SYN_CTRL [o] 0 then s.testedCode o reg v else 0

theorem writeCode_lt (s : State) (o : Nat) (reg : SynTested) (v : Word) : s.writeCode o reg v < 2 ^ 8 := by
  refine ite_lt ?_ (by decide)
  unfold State.testedCode
  extract_lets
  iterate 5 refine ite_lt (by decide) ?_
  decide

theorem exec_synTestedWrite (hl : s.isLive) (reg : SynTested) (v : Word) : exec (.synTestedWrite o reg v) s = .next
    ((if s.writeCode o.val reg v = 0 then s.plainWrite (testedReg reg) [o.val] v
      else s.configFault o.val (s.writeCode o.val reg v) (some (blockOffset (testedReg reg)))).kept s) := by
  rw [show exec (.synTestedWrite o reg v) s = execSynTestedWrite o reg v s from rfl, execSynTestedWrite, State.live_next s _ hl]
  rfl

theorem synTestedWrite_refused (hl : s.isLive) (reg : SynTested) (v : Word) (hcode : s.writeCode o.val reg v ≠ 0) :
    completes (.synTestedWrite o reg v) s [.free, .regs, .sct] fun t =>
      t.fld R.SYN_STATUS [o.val] 15 8 = s.writeCode o.val reg v ∧ sameRegsBut (regAddr R.SYN_STATUS [o.val] :: eventRegs) s t := by
  have hexec := exec_synTestedWrite hl (o := o) reg v
  rw [if_neg hcode] at hexec
  exact refused_completes hexec (writeCode_lt s o.val reg v)

theorem synTestedWrite_taken (hl : s.isLive) (reg : SynTested) (v : Word) (hcode : s.writeCode o.val reg v = 0) :
    completes (.synTestedWrite o reg v) s [.regs] fun t =>
      t.rd (testedReg reg) [o.val] = (s.rd (testedReg reg) [o.val] &&& ~~~(testedReg reg).rw) ||| (v &&& (testedReg reg).rw)
        ∧ sameRegsBut [regAddr (testedReg reg) [o.val]] s t := by
  have hexec := exec_synTestedWrite hl (o := o) reg v
  rw [if_pos hcode] at hexec
  exact taken_completes hexec

/-! ### The publication of a bank (R73) -/

/-- The next frame is declared changed. -/
def State.changeDeclared (s : State) (o : Nat) : State := s.setOut o { s.out o with published := true }

theorem exec_bankPublish (hl : s.isLive) (b : Fin 2) :
    exec (.bankPublish o b) s = .next (((s.changeDeclared o.val).setFld R.SYN_STATUS [o.val] 1 1 b.val).kept s) := by
  rw [show exec (.bankPublish o b) s = execBankPublish o b s from rfl, execBankPublish, State.live_next s _ hl]
  rfl

theorem bankPublish_completes (hl : s.isLive) (b : Fin 2) :
    completes (.bankPublish o b) s [.regs, .syn] fun t => t.curBank o.val = b.val ∧ (t.out o.val).published = true
      ∧ sameRegsBut [regAddr R.SYN_STATUS [o.val]] s t := by
  have hpub : ChangesWithin [.regs, .syn] (· ∈ [regAddr R.SYN_STATUS [o.val]]) s
      ((s.changeDeclared o.val).setFld R.SYN_STATUS [o.val] 1 1 b.val) :=
    .trans (.setOut _ _ _ (by decide)) (.setFld _ _ _ _ _ _ (by decide) List.mem_cons_self)
  refine completes_of_parts (exec_bankPublish hl b) hpub.parts (by decide) ⟨?_, ?_, hpub.regs⟩
  · have hbank := State.fld_setFld_self (s.changeDeclared o.val) R.SYN_STATUS [o.val] 1 1 b.val (by decide)
    exact hbank.trans (Nat.mod_eq_of_lt b.isLt)
  · exact congrArg SynOut.published (State.out_setOut_self s _ o.isLt)

end Sys2Proof.Machine
end

section
/-! SUPPORT. The operations of adaptation: what gives up, fails or reverts a job, and what a report enters (R84–R88). -/

namespace Sys2Proof.Machine

variable {s t : State} {o : Nat}

/-! ### Status and counters -/

theorem adpStatus_syn (s : State) (o : Nat) : (s.adpStatus o).syn = s.syn := rfl

/-- `busy`, `reverted` and `rearmed` do not follow the state. -/
theorem bit_adpStatus (s : State) (o : Nat) {i : Nat} (h : i = 3 ∨ i = 6 ∨ i = 7) :
    (s.adpStatus o).bit R.SYN_ADP_STATUS [o] i = s.bit R.SYN_ADP_STATUS [o] i := by
  unfold State.adpStatus
  dsimp only
  rw [State.bit_setFld_apart _ _ _ _ _ _ (by omega) (by omega), State.bit_setBit_ne _ _ _ _ _ (by omega) (by omega),
    State.bit_setBit_ne _ _ _ _ _ (by omega) (by omega), State.bit_setBit_ne _ _ _ _ _ (by omega) (by omega)]

/-- The registers that a count of adaptation moves. -/
def adpCountRegs (o : Nat) (r : Reg) : List Nat := [regAddr r [o], regAddr R.SYN_ADP_CNT_OVF [o]]

theorem adpCount_within {parts : List Part} {moved : Nat → Prop} (s : State) (o : Nat) (r : Reg) (b : Nat) (hp : Part.regs ∈ parts)
    (hm : ∀ a ∈ adpCountRegs o r, moved a) : ChangesWithin parts moved s (s.adpCount o r b) :=
  .countSat _ _ _ _ _ _ _ hp (hm _ (by simp [adpCountRegs])) (hm _ (by simp [adpCountRegs]))

theorem adpCount_syn (s : State) (o : Nat) (r : Reg) (b : Nat) : (s.adpCount o r b).syn = s.syn :=
  (adpCount_within (parts := [.regs]) (moved := fun _ => True) s o r b (by decide) fun _ _ => trivial).part (p := .syn) (by decide)

/-- The counters of adaptation. -/
def adpCounters : List Reg := [R.SYN_ADP_CNT_BAD, R.SYN_ADP_CNT_FAIL, R.SYN_ADP_CNT_REVERT, R.SYN_ADP_CNT_REFUSED]

theorem adpCounters_apart : ∀ r ∈ adpCounters, ∀ o < 4, regAddr r [o] ≠ regAddr R.SYN_ADP_CNT_OVF [o]
    ∧ regAddr r [o] ≠ regAddr R.SYN_ADP_STATUS [o] ∧ regAddr r [o] ∉ eventRegs := by decide

theorem counted_adpCount {r : Reg} (hr : r ∈ adpCounters) (ho : o < 4) (s : State) (b : Nat) : counted r [o] s (s.adpCount o r b) :=
  counted_countSat s b (adpCounters_apart r hr o ho).1

/-- An event where a bit asks for it. -/
theorem told_within (s : State) (c : Bool) (cls inst code : Nat) (payload : List Byte) :
    ChangesWithin [.free, .regs, .sct] (· ∈ eventRegs) s (if c then s.event cls inst code payload else s) := by
  split
  · exact event_within s (by decide) (by decide) (fun _ => id) (by decide) _ _ _ _
  · exact .refl _ _ s

/-! ### The settings of adaptation -/

/-- The registers that set the mode, the window and the limits of adaptation. -/
def adpSettings (o : Nat) : List Nat :=
  [regAddr R.SYN_ADP_CTRL [o], regAddr R.SYN_QUEUE [o], regAddr R.SYN_ADP_THETA [o], regAddr R.SYN_ADP_LIMITS [o], regAddr R.SYN_CTRL [o]]

/-- Two states have the same settings of adaptation. -/
def SameSettings (o : Nat) (s t : State) : Prop := ∀ a ∈ adpSettings o, cfgGet t.cfg a = cfgGet s.cfg a

theorem ChangesWithin.sameSettings {parts : List Part} {moved : Nat → Prop} (h : ChangesWithin parts moved s t)
    (hm : ∀ a ∈ adpSettings o, ¬moved a) : SameSettings o s t := fun a ha => h.regs a (hm a ha)

namespace SameSettings

variable (h : SameSettings o s t)
include h

theorem rd {r : Reg} (hr : regAddr r [o] ∈ adpSettings o) : t.rd r [o] = s.rd r [o] := by
  rw [State.rd, State.rd, h _ hr]

theorem adpMode : t.adpMode o = s.adpMode o := by
  have hctrl : t.rd R.SYN_ADP_CTRL [o] = s.rd R.SYN_ADP_CTRL [o] := h.rd (by simp [adpSettings])
  have hqueue : t.rd R.SYN_QUEUE [o] = s.rd R.SYN_QUEUE [o] := h.rd (by simp [adpSettings])
  unfold State.adpMode State.bit State.fld
  rw [hctrl, hqueue]

theorem adpWindow : t.adpWindow o = s.adpWindow o := by
  have hctrl : t.rd R.SYN_ADP_CTRL [o] = s.rd R.SYN_ADP_CTRL [o] := h.rd (by simp [adpSettings])
  unfold State.adpWindow State.fld
  rw [hctrl]

end SameSettings

/-! ### A revert (R87) -/

/-- An output whose adaptation reverts. -/
def SynOut.reverted (x : SynOut) : SynOut := { x with swapTo := 0, claim := 0, window := [], toZero := true, failedRun := 0 }

/-- A revert, before it is told. -/
def State.revertShown (s : State) (o : Nat) : State :=
  (((s.setOut o (s.out o).reverted).setBit R.SYN_ADP_STATUS [o] 6 true).adpCount o R.SYN_ADP_CNT_REVERT 2).adpStatus o

/-- The registers that a revert moves. -/
def revertRegs (o : Nat) : List Nat := regAddr R.SYN_ADP_STATUS [o] :: (adpCountRegs o R.SYN_ADP_CNT_REVERT ++ eventRegs)

theorem adpRevert_told (s : State) (o : Nat) (ref : Word) (cause : Nat) :
    ChangesWithin [.free, .regs, .sct] (· ∈ eventRegs) (s.revertShown o) (s.adpRevert o ref cause) := told_within _ _ _ _ _ _

theorem adpRevert_within (s : State) (o : Nat) (ref : Word) (cause : Nat) :
    ChangesWithin [.free, .regs, .syn, .sct] (· ∈ revertRegs o) s (s.adpRevert o ref cause) := by
  have hshown : ChangesWithin [.free, .regs, .syn, .sct] (· ∈ revertRegs o) s (s.revertShown o) :=
    .trans (.trans (.trans (.setOut _ _ _ (by decide)) (.setBit _ _ _ _ _ (by decide) List.mem_cons_self))
      (adpCount_within _ _ _ _ (by decide) fun _ ha => List.mem_cons_of_mem _ (List.mem_append_left _ ha)))
      (adpStatus_within _ _ (by decide) List.mem_cons_self)
  exact hshown.trans ((adpRevert_told s o ref cause).mono (by decide) fun _ ha => List.mem_cons_of_mem _ (List.mem_append_right _ ha))

theorem out_adpRevert (ho : o < 4) (ref : Word) (cause : Nat) : (s.adpRevert o ref cause).out o = (s.out o).reverted := by
  have htold := State.out_congr ((adpRevert_told s o ref cause).part (p := .syn) (by decide)) o
  refine (htold.trans (State.out_congr ((adpStatus_syn _ o).trans (adpCount_syn _ o _ _)) o)).trans ?_
  exact State.out_setOut_self s _ ho

theorem adpStatus_not_told : ∀ o < 4, regAddr R.SYN_ADP_STATUS [o] ∉ eventRegs
    ∧ regAddr R.SYN_ADP_STATUS [o] ∉ adpCountRegs o R.SYN_ADP_CNT_REVERT := by decide

theorem bit_adpRevert (ho : o < 4) (ref : Word) (cause : Nat) : (s.adpRevert o ref cause).bit R.SYN_ADP_STATUS [o] 6 = true := by
  have hcount (t : State) : ChangesWithin [.regs] (· ∈ adpCountRegs o R.SYN_ADP_CNT_REVERT) t (t.adpCount o R.SYN_ADP_CNT_REVERT 2) :=
    adpCount_within _ _ _ _ (by decide) fun _ => id
  obtain ⟨hevent, hapart⟩ := adpStatus_not_told o ho
  rw [(adpRevert_told s o ref cause).bit hevent, State.revertShown, bit_adpStatus _ _ (.inr (.inl rfl)),
    (hcount _).bit hapart]
  exact State.bit_setBit_self _ _ _ _ _ (by decide)

theorem counted_adpRevert (ho : o < 4) (ref : Word) (cause : Nat) : counted R.SYN_ADP_CNT_REVERT [o] s (s.adpRevert o ref cause) := by
  obtain ⟨-, hstatus, hevent⟩ := adpCounters_apart R.SYN_ADP_CNT_REVERT (by simp [adpCounters]) o ho
  have hset : ChangesWithin [.regs, .syn] (· = regAddr R.SYN_ADP_STATUS [o]) s
      ((s.setOut o (s.out o).reverted).setBit R.SYN_ADP_STATUS [o] 6 true) :=
    .trans (.setOut _ _ _ (by decide)) (.setBit _ _ _ _ _ (by decide) rfl)
  have hshown := adpStatus_within (parts := [.regs]) (moved := (· = regAddr R.SYN_ADP_STATUS [o]))
    (((s.setOut o (s.out o).reverted).setBit R.SYN_ADP_STATUS [o] 6 true).adpCount o R.SYN_ADP_CNT_REVERT 2) o (by decide) rfl
  have hcount := counted_after hset hstatus (counted_adpCount (r := R.SYN_ADP_CNT_REVERT) (by simp [adpCounters]) ho _ 2)
  exact counted_of_within (counted_of_within hcount hshown hstatus) (adpRevert_told s o ref cause) hevent

/-! ### A job that is given up or fails (R86) -/

theorem adpGiveUp_within (s : State) (o : Nat) :
    ChangesWithin [.regs, .syn] (· = regAddr R.SYN_ADP_STATUS [o]) s (s.adpGiveUp o) :=
  .trans (.setOut _ _ _ (by decide)) (.setBit _ _ _ _ _ (by decide) rfl)

/-- Adaptation work that is given up leaves its target, unless a swap is pending, and the users of the weights. -/
theorem out_adpGiveUp (ho : o < 4) (s : State) :
    ∃ users, (s.adpGiveUp o).out o = { s.out o with work := none, claim := (s.out o).swapTo, users := users } :=
  ⟨_, State.out_setOut_self s _ ho⟩

/-- A job has failed and is counted. -/
def State.failShown (s : State) (o : Nat) : State :=
  (((s.adpGiveUp o).setOut o { (s.adpGiveUp o).out o with failedRun := (s.out o).failedRun + 1 }).adpCount o R.SYN_ADP_CNT_FAIL 3).adpStatus o

/-- A job has failed, is counted, and is told. -/
def State.jobFailed (s : State) (o : Nat) (ref : Word) (cause status : Nat) : State :=
  if (s.failShown o).bit R.SYN_CTRL [o] 5 then
    (s.failShown o).event 0x0A o 0x04 (leBytes 4 ref.toNat ++ leBytes 1 cause ++ leBytes 1 status ++ zeros 10)
  else s.failShown o

theorem jobFailed_told (s : State) (o : Nat) (ref : Word) (cause status : Nat) :
    ChangesWithin [.free, .regs, .sct] (· ∈ eventRegs) (s.failShown o) (s.jobFailed o ref cause status) := told_within _ _ _ _ _ _

/-- A failed job reverts at the limit. -/
theorem adpFail_eq (s : State) (o : Nat) (ref : Word) (cause status : Nat) : s.adpFail o ref cause status =
    let t := s.jobFailed o ref cause status
    if t.fld R.SYN_ADP_LIMITS [o] 19 16 ≠ 0 ∧ t.fld R.SYN_ADP_LIMITS [o] 19 16 ≤ (s.out o).failedRun + 1 ∧ t.adpMode o = 2 then
      t.adpRevert o ref 2 else t := rfl

/-- The registers that a failed job moves. -/
def failRegs (o : Nat) : List Nat := regAddr R.SYN_ADP_STATUS [o] :: (adpCountRegs o R.SYN_ADP_CNT_FAIL ++ eventRegs)

theorem jobFailed_within (s : State) (o : Nat) (ref : Word) (cause status : Nat) :
    ChangesWithin [.free, .regs, .syn, .sct] (· ∈ failRegs o) s (s.jobFailed o ref cause status) := by
  have hgiven : ChangesWithin [.free, .regs, .syn, .sct] (· ∈ failRegs o) s (s.adpGiveUp o) :=
    (adpGiveUp_within s o).mono (by decide) fun _ h => h ▸ List.mem_cons_self
  have hcounted (t : State) : ChangesWithin [.free, .regs, .syn, .sct] (· ∈ failRegs o) t (t.adpCount o R.SYN_ADP_CNT_FAIL 3) :=
    adpCount_within _ _ _ _ (by decide) fun _ ha => List.mem_cons_of_mem _ (List.mem_append_left _ ha)
  exact (((hgiven.trans (.setOut _ _ _ (by decide))).trans (hcounted _)).trans (adpStatus_within _ _ (by decide) List.mem_cons_self)).trans
    ((jobFailed_told s o ref cause status).mono (by decide) fun _ ha => List.mem_cons_of_mem _ (List.mem_append_right _ ha))

theorem out_jobFailed (ho : o < 4) (s : State) (ref : Word) (cause status : Nat) : ∃ users, (s.jobFailed o ref cause status).out o =
    { s.out o with work := none, claim := (s.out o).swapTo, users := users, failedRun := (s.out o).failedRun + 1 } := by
  obtain ⟨users, hgiven⟩ := out_adpGiveUp ho s
  refine ⟨users, ?_⟩
  have htold := (jobFailed_told s o ref cause status).part (p := .syn) (by decide)
  refine (State.out_congr (htold.trans ((adpStatus_syn _ o).trans (adpCount_syn _ o _ _))) o).trans ?_
  rw [State.out_setOut_self _ _ ho, hgiven]

theorem counted_jobFailed (ho : o < 4) (s : State) (ref : Word) (cause status : Nat) :
    counted R.SYN_ADP_CNT_FAIL [o] s (s.jobFailed o ref cause status) := by
  obtain ⟨-, hstatus, hevent⟩ := adpCounters_apart R.SYN_ADP_CNT_FAIL (by simp [adpCounters]) o ho
  have hgiven := (adpGiveUp_within s o).trans (.setOut _ o { (s.adpGiveUp o).out o with failedRun := (s.out o).failedRun + 1 } (by decide))
  have hcount := counted_after hgiven hstatus (counted_adpCount (r := R.SYN_ADP_CNT_FAIL) (by simp [adpCounters]) ho _ 3)
  have hshown := counted_of_within hcount (adpStatus_within (parts := [.regs]) (moved := (· = regAddr R.SYN_ADP_STATUS [o])) _ o
    (by decide) rfl) hstatus
  exact counted_of_within hshown (jobFailed_told s o ref cause status) hevent

/-! ### What a report enters (R85) -/

/-- The losses in the window once a report has come, which enters it or not. -/
def State.windowAfter (s : State) (o : Nat) (enters : Bool) (lossA lossB : Word) : List (Word × Word) :=
  let all := (s.out o).window ++ [(lossA, lossB)]
  if enters then all.drop (all.length - s.adpWindow o) else (s.out o).window

/-- Has the report filled the window? -/
def State.windowFull (s : State) (o : Nat) (enters : Bool) (lossA lossB : Word) : Bool :=
  enters && (s.windowAfter o enters lossA lossB).length == s.adpWindow o

/-- A report enters the window, or does not; whether the window demands a revert. -/
def State.reportEntered (s : State) (o : Nat) (enters : Bool) (lossA lossB : Word) : State × Bool :=
  if enters then s.adpEnter o lossA lossB else (s, false)

/-- The registers that a report moves which enters the window. -/
def windowRegs (o : Nat) : List Nat := [regAddr R.SYN_ADP_STATUS [o], regAddr R.SYN_ADP_MEAN_A [o], regAddr R.SYN_ADP_MEAN_B [o]]

/-- What a report makes of the window. -/
structure WindowEntered (s : State) (o : Nat) (enters : Bool) (lossA lossB : Word) (t : State) : Prop where
  within : ChangesWithin [.regs, .syn] (· ∈ windowRegs o) s t
  out : t.out o = { s.out o with window := s.windowAfter o enters lossA lossB }
  means : s.windowFull o enters lossA lossB = true →
    t.rd R.SYN_ADP_MEAN_A [o] = meanFp32 ((s.windowAfter o enters lossA lossB).map (·.1))
      ∧ t.rd R.SYN_ADP_MEAN_B [o] = meanFp32 ((s.windowAfter o enters lossA lossB).map (·.2))

theorem windowRegs_apart : ∀ o < 4, regAddr R.SYN_ADP_MEAN_A [o] ≠ regAddr R.SYN_ADP_MEAN_B [o]
    ∧ regAddr R.SYN_ADP_THETA [o] ∉ windowRegs o := by decide

theorem reportEntered_of_enters (ho : o < 4) (s : State) (lossA lossB : Word) :
    WindowEntered s o true lossA lossB (s.adpEnter o lossA lossB).1 ∧ (s.adpEnter o lossA lossB).2
      = (s.windowFull o true lossA lossB && windowReverts (s.windowAfter o true lossA lossB) (s.rd R.SYN_ADP_THETA [o])) := by
  obtain ⟨hmeans, htheta⟩ := windowRegs_apart o ho
  have hstatus {t : State} (x : SynOut) : ChangesWithin [.regs, .syn] (· ∈ windowRegs o) t ((t.setOut o x).adpStatus o) :=
    .trans (.setOut _ _ _ (by decide)) (adpStatus_within _ _ (by decide) List.mem_cons_self)
  have hentered := hstatus (t := s) { s.out o with window := s.windowAfter o true lossA lossB }
  have hwindow (t : State) (a b : Word) : ChangesWithin [.regs, .syn] (· ∈ windowRegs o) t
      ((t.poke R.SYN_ADP_MEAN_A [o] a).poke R.SYN_ADP_MEAN_B [o] b) :=
    .trans (.poke _ _ _ _ (by decide) (by simp [windowRegs])) (.poke _ _ _ _ (by decide) (by simp [windowRegs]))
  have hout : (((s.setOut o { s.out o with window := s.windowAfter o true lossA lossB }).adpStatus o).out o)
      = { s.out o with window := s.windowAfter o true lossA lossB } := State.out_setOut_self s _ ho
  unfold State.adpEnter
  extract_lets x n all window entered ma mb
  have hw : window = s.windowAfter o true lossA lossB := rfl
  split
  · next hfull =>
    have hfull' : s.windowFull o true lossA lossB = true := by
      simpa [State.windowFull, ← hw] using hfull
    refine ⟨⟨hentered.trans (hwindow _ _ _), hout, fun _ => ⟨?_, State.rd_poke_self _ _ _ _⟩⟩, ?_⟩
    · exact (State.rd_poke_ne _ _ _ _ _ _ hmeans).trans (State.rd_poke_self _ _ _ _)
    · rw [hfull', Bool.true_and]
      exact congrArg (windowReverts window) ((hentered.trans (hwindow _ _ _)).rd htheta)
  · next hpart =>
    have hpart' : s.windowFull o true lossA lossB = false := by
      simpa [State.windowFull, ← hw] using hpart
    refine ⟨⟨hentered, hout, fun h => absurd h (by simp [hpart'])⟩, ?_⟩
    rw [hpart', Bool.false_and]

theorem reportEntered_spec (ho : o < 4) (s : State) (enters : Bool) (lossA lossB : Word) :
    WindowEntered s o enters lossA lossB (s.reportEntered o enters lossA lossB).1 ∧ (s.reportEntered o enters lossA lossB).2
      = (s.windowFull o enters lossA lossB && windowReverts (s.windowAfter o enters lossA lossB) (s.rd R.SYN_ADP_THETA [o])) := by
  cases enters with
  | true => exact reportEntered_of_enters ho s lossA lossB
  | false => exact ⟨⟨.refl _ _ s, rfl, nofun⟩, rfl⟩

/-! ### A swap that a report asks for (R84) -/

/-- The registers that a swap request moves. -/
def swapRegs (o : Nat) : List Nat := regAddr R.SYN_ADP_STATUS [o] :: adpCountRegs o R.SYN_ADP_CNT_REFUSED

theorem adpSwap_within (s : State) (o : Nat) (request : Bool) (buffer target : Nat) :
    ChangesWithin [.regs, .syn] (· ∈ swapRegs o) s (s.adpSwap o request buffer target) := by
  have hset (t : State) (x : SynOut) : ChangesWithin [.regs, .syn] (· ∈ swapRegs o) t (t.setOut o x) := .setOut _ _ _ (by decide)
  have hstatus (t : State) : ChangesWithin [.regs, .syn] (· ∈ swapRegs o) t (t.adpStatus o) :=
    adpStatus_within _ _ (by decide) List.mem_cons_self
  unfold State.adpSwap
  dsimp only
  split
  · exact (hset s _).trans (hstatus _)
  · split
    · exact ((hset s _).trans (adpCount_within _ _ _ _ (by decide) fun _ => List.mem_cons_of_mem _)).trans (hstatus _)
    · exact (hset s _).trans (hstatus _)

/-- Without a request the target is free. -/
theorem out_adpSwap_unasked (ho : o < 4) (s : State) (buffer target : Nat) :
    (s.adpSwap o false buffer target).out o = { s.out o with claim := 0 } := State.out_setOut_self s _ ho

theorem out_adpSwap_taken (ho : o < 4) {buffer target : Nat} (hidle : (s.out o).swapTo = 0) (hbuffer : buffer = target) :
    (s.adpSwap o true buffer target).out o = { s.out o with swapTo := buffer } := by
  have hgood : ¬((s.out o).swapTo ≠ 0 ∨ buffer ≠ target) := by simp [hidle, hbuffer]
  rw [State.adpSwap]
  dsimp only
  rw [if_neg (by decide), if_neg hgood]
  exact State.out_setOut_self s _ ho

/-- A refused request is counted, and leaves the buffer of a pending swap. -/
theorem adpSwap_refused (ho : o < 4) {buffer target : Nat} (hbad : (s.out o).swapTo ≠ 0 ∨ buffer ≠ target) :
    (s.adpSwap o true buffer target).out o = { s.out o with claim := (s.out o).swapTo }
      ∧ counted R.SYN_ADP_CNT_REFUSED [o] s (s.adpSwap o true buffer target) := by
  have hstatus := (adpCounters_apart R.SYN_ADP_CNT_REFUSED (by simp [adpCounters]) o ho).2.1
  have hset : ChangesWithin [.syn] (fun _ => False) s (s.setOut o { s.out o with claim := (s.out o).swapTo }) := .setOut _ _ _ (by decide)
  rw [State.adpSwap]
  dsimp only
  rw [if_neg (by decide), if_pos hbad]
  refine ⟨?_, ?_⟩
  · exact (State.out_congr ((adpStatus_syn _ o).trans (adpCount_syn _ o _ _)) o).trans (State.out_setOut_self s _ ho)
  · exact counted_of_within (counted_after hset id (counted_adpCount (by simp [adpCounters]) ho _ _))
      (adpStatus_within (parts := [.regs]) (moved := (· = regAddr R.SYN_ADP_STATUS [o])) _ o (by decide) rfl) hstatus

/-- A swap request leaves what the report made of the job and of the window. -/
theorem job_adpSwap (ho : o < 4) (s : State) (request : Bool) (buffer target : Nat) :
    ((s.adpSwap o request buffer target).out o).work = (s.out o).work
      ∧ ((s.adpSwap o request buffer target).out o).failedRun = (s.out o).failedRun
      ∧ ((s.adpSwap o request buffer target).out o).window = (s.out o).window := by
  cases request with
  | false =>
    rw [out_adpSwap_unasked ho]
    exact ⟨rfl, rfl, rfl⟩
  | true =>
    by_cases hgood : (s.out o).swapTo = 0 ∧ buffer = target
    · rw [out_adpSwap_taken ho hgood.1 hgood.2]
      exact ⟨rfl, rfl, rfl⟩
    · rw [(adpSwap_refused ho (by tauto)).1]
      exact ⟨rfl, rfl, rfl⟩

end Sys2Proof.Machine
end

section
/-! PROOFS. Reports of adaptation jobs (R83–R85). -/

namespace Sys2Proof.Machine

variable {s : State} {o : Fin 4}

/-! ### Reports that name no outstanding job (R83, R88) -/

/-- A report that mode 0 discards. -/
def State.reportIgnored (s : State) (o : Nat) (ref : Word) : State := s.setOut o { s.out o with ignore := (s.out o).ignore.erase ref }

theorem adaptReport_ignored (hl : s.isLive) {ref : Word} (hign : (s.out o.val).ignore.contains ref = true) (lossA lossB : Word) (flags : Byte) :
    completes (.adaptReport o ref flags lossA lossB) s [.syn] fun t =>
      t.out o.val = { s.out o.val with ignore := (s.out o.val).ignore.erase ref } := by
  have hexec : exec (.adaptReport o ref flags lossA lossB) s = .next ((s.reportIgnored o.val ref).kept s) := by
    rw [show exec (.adaptReport o ref flags lossA lossB) s = execAdaptReport o ref flags lossA lossB s from rfl, execAdaptReport,
      State.live_next s _ hl]
    simp only [hign, if_true]
    rfl
  exact completes_of_parts hexec (changesOnly_setOut s o.val _) (by decide) (State.out_setOut_self s _ o.isLt)

/-- Is a report accepted for the work under way? -/
def State.acceptsReport (s : State) (o : Nat) (w : AdaptWork) (ref lossB : Word) : Bool :=
  w.job.isSome && w.ref == ref && s.bit R.SYN_ADP_STATUS [o] 3 && (flOf lossB).isFinite

theorem adaptReport_bad (hl : s.isLive) {ref lossB : Word} (hign : (s.out o.val).ignore.contains ref = false)
    (hbad : ∀ w, (s.out o.val).work = some w → s.acceptsReport o.val w ref lossB = false) (lossA : Word) (flags : Byte) :
    completes (.adaptReport o ref flags lossA lossB) s [.regs] fun t => counted R.SYN_ADP_CNT_BAD [o.val] s t
      ∧ sameRegsBut [regAddr R.SYN_ADP_CNT_BAD [o.val], regAddr R.SYN_ADP_CNT_OVF [o.val]] s t := by
  have hexec : exec (.adaptReport o ref flags lossA lossB) s = .next ((s.adpCount o.val R.SYN_ADP_CNT_BAD 4).kept s) := by
    rw [show exec (.adaptReport o ref flags lossA lossB) s = execAdaptReport o ref flags lossA lossB s from rfl, execAdaptReport,
      State.live_next s _ hl]
    simp only [hign, Bool.false_eq_true, if_false]
    cases hw : (s.out o.val).work with
    | none => rfl
    | some w =>
      have hno := hbad w hw
      rw [State.acceptsReport] at hno
      simp only [hno, Bool.false_eq_true, if_false]
  have hcount := adpCount_within (parts := [.regs]) (moved := (· ∈ adpCountRegs o.val R.SYN_ADP_CNT_BAD)) s o.val R.SYN_ADP_CNT_BAD 4
    (by decide) fun _ => id
  exact completes_of_parts hexec hcount.parts (by decide) ⟨counted_adpCount (by simp [adpCounters]) o.isLt s 4, hcount.regs⟩

/-! ### An accepted report (R83, R84, R85) -/

/-- The outstanding job has reported. -/
def State.jobDone (s : State) (o : Nat) : State :=
  (s.setOut o { s.out o with work := none, failedRun := 0 }).setBit R.SYN_ADP_STATUS [o] 3 false

/-- In mode 1 no buffer is a target but that of a pending swap. -/
def State.targetLeft (s : State) (o pending : Nat) : State := (s.setOut o { s.out o with claim := pending }).adpStatus o

/-- The task of a job that reverts is to post status 0x02 (R87). -/
def State.taskForced (s : State) (w : AdaptWork) : State :=
  match w.job with
  | some (q, seq) => match s.task q seq with
    | some t => s.putTask { t with forced := some 0x02 }
    | none => s
  | none => s

/-- What a report of finite losses does in mode 2, to a buffer of a job with this target. -/
def State.reportTaken (s : State) (o : Nat) (w : AdaptWork) (flags : Byte) (lossA lossB : Word) (target : Nat) : State :=
  let e := s.reportEntered o (natBit flags.toNat 3) lossA lossB
  if e.2 then e.1.revertBy o w 0
  else e.1.adpSwap o (natBit flags.toNat 0) (if natBit flags.toNat 1 then 2 else 1) target

theorem taskForced_within (s : State) (w : AdaptWork) : ChangesWithin [.sch] (fun _ => False) s (s.taskForced w) := by
  unfold State.taskForced
  split
  · split
    · refine .of_cfg (fun p hp => ?_) rfl rfl rfl
      cases p
      case sch => simp at hp
      all_goals rfl
    · exact .refl _ _ s
  · exact .refl _ _ s

theorem jobDone_within (s : State) (o : Nat) : ChangesWithin [.regs, .syn] (· = regAddr R.SYN_ADP_STATUS [o]) s (s.jobDone o) :=
  .trans (.setOut _ _ _ (by decide)) (.setBit _ _ _ _ _ (by decide) rfl)

theorem out_jobDone (s : State) (o : Fin 4) : (s.jobDone o.val).out o.val = { s.out o.val with work := none, failedRun := 0 } :=
  State.out_setOut_self s _ o.isLt

theorem adpSettings_not_status : ∀ o < 4, ∀ a ∈ adpSettings o, a ≠ regAddr R.SYN_ADP_STATUS [o] := by decide

theorem jobDone_settings (s : State) (o : Fin 4) : SameSettings o.val s (s.jobDone o.val) :=
  (jobDone_within s o.val).sameSettings (adpSettings_not_status o.val o.isLt)

theorem windowAfter_jobDone (s : State) (o : Fin 4) (enters : Bool) (lossA lossB : Word) :
    (s.jobDone o.val).windowAfter o.val enters lossA lossB = s.windowAfter o.val enters lossA lossB := by
  rw [State.windowAfter, State.windowAfter, (jobDone_settings s o).adpWindow, out_jobDone]

theorem windowFull_jobDone (s : State) (o : Fin 4) (enters : Bool) (lossA lossB : Word) :
    (s.jobDone o.val).windowFull o.val enters lossA lossB = s.windowFull o.val enters lossA lossB := by
  rw [State.windowFull, State.windowFull, windowAfter_jobDone, (jobDone_settings s o).adpWindow]

/-- Does an accepted report revert the adaptation in mode 2? -/
def State.reportReverts (s : State) (o : Nat) (enters : Bool) (lossA lossB : Word) : Bool :=
  !(flOf lossA).isFinite || (s.windowFull o enters lossA lossB
    && windowReverts (s.windowAfter o enters lossA lossB) (s.rd R.SYN_ADP_THETA [o]))

/-- The report is of the outstanding job. -/
structure ReportDue (s : State) (o : Fin 4) (ref lossB : Word) (w : AdaptWork) : Prop where
  live : s.isLive
  known : (s.out o.val).ignore.contains ref = false
  work : (s.out o.val).work = some w
  accepts : s.acceptsReport o.val w ref lossB = true

section
variable {ref lossB : Word} {w : AdaptWork} (h : ReportDue s o ref lossB w) (lossA : Word) (flags : Byte)
include h

theorem exec_adaptReport_accepted : exec (.adaptReport o ref flags lossA lossB) s = .next ((s.adpAccept o.val w flags lossA lossB).kept s) := by
  have hyes := h.accepts
  rw [State.acceptsReport] at hyes
  rw [show exec (.adaptReport o ref flags lossA lossB) s = execAdaptReport o ref flags lossA lossB s from rfl, execAdaptReport,
    State.live_next s _ h.live]
  simp only [h.known, h.work, hyes, Bool.false_eq_true, if_false, if_true]

omit h in
theorem adpAccept_eq (s : State) (o : Fin 4) (w : AdaptWork) (flags : Byte) (lossA lossB : Word) :
    s.adpAccept o.val w flags lossA lossB = if s.adpMode o.val ≠ 2 then
        (s.jobDone o.val).targetLeft o.val (s.out o.val).swapTo
      else if !(flOf lossA).isFinite then (s.jobDone o.val).revertBy o.val w 1
      else (s.jobDone o.val).reportTaken o.val w flags lossA lossB (s.out o.val).claim := by
  rw [← (jobDone_settings s o).adpMode]
  rfl

/-- In mode 1 a report only ends the job (log 34). -/
theorem adaptReport_modeOne (hmode : s.adpMode o.val ≠ 2) : completes (.adaptReport o ref flags lossA lossB) s [.regs, .syn] fun t =>
    (t.out o.val).work = none ∧ (t.out o.val).failedRun = 0 ∧ (t.out o.val).window = (s.out o.val).window
      ∧ (t.out o.val).swapTo = (s.out o.val).swapTo ∧ (t.out o.val).claim = (s.out o.val).swapTo := by
  have hexec := exec_adaptReport_accepted h lossA flags
  rw [adpAccept_eq, if_pos hmode] at hexec
  have hleft : ChangesWithin [.regs, .syn] (· = regAddr R.SYN_ADP_STATUS [o.val]) s
      ((s.jobDone o.val).targetLeft o.val (s.out o.val).swapTo) :=
    .trans (.trans (jobDone_within s o.val) (.setOut _ _ _ (by decide))) (adpStatus_within _ _ (by decide) rfl)
  have hout : ((s.jobDone o.val).targetLeft o.val (s.out o.val).swapTo).out o.val
      = { s.out o.val with work := none, failedRun := 0, claim := (s.out o.val).swapTo } := by
    rw [State.targetLeft, State.out_congr (adpStatus_syn _ _), State.out_setOut_self _ _ o.isLt, out_jobDone]
  refine completes_of_parts hexec hleft.parts (by decide) ?_
  rw [hout]
  exact ⟨rfl, rfl, rfl, rfl, rfl⟩

omit h in
/-- What a revert by a report leaves of an output. -/
theorem revertBy_reverted {u : State} (hout : (u.out o.val).work = none) (w : AdaptWork) (cause : Nat) :
    let t := u.revertBy o.val w cause
    ChangesWithin [.free, .regs, .syn, .sct, .sch] (· ∈ revertRegs o.val) u t ∧ (t.out o.val).work = none ∧ (t.out o.val).window = []
      ∧ (t.out o.val).toZero = true ∧ (t.out o.val).swapTo = 0 ∧ t.bit R.SYN_ADP_STATUS [o.val] 6 = true
      ∧ counted R.SYN_ADP_CNT_REVERT [o.val] u t := by
  intro t
  have hforced := taskForced_within u w
  have hrev : t.out o.val = ((u.taskForced w).out o.val).reverted := out_adpRevert o.isLt w.ref cause
  rw [State.out_congr (hforced.part (p := .syn) (by decide))] at hrev
  refine ⟨(hforced.mono (by decide) fun _ => False.elim).trans ((adpRevert_within _ o.val w.ref cause).mono (by decide) fun _ => id), ?_⟩
  rw [hrev]
  exact ⟨hout, rfl, rfl, rfl, bit_adpRevert o.isLt w.ref cause, counted_after hforced id (counted_adpRevert o.isLt w.ref cause)⟩

omit h in
/-- A report that reverts, be it for its own loss or for those of the window. -/
theorem adpAccept_reverts (hmode : s.adpMode o.val = 2) (hrev : s.reportReverts o.val (natBit flags.toNat 3) lossA lossB = true) :
    ∃ (u : State) (cause : Nat), s.adpAccept o.val w flags lossA lossB = u.revertBy o.val w cause ∧ (u.out o.val).work = none
      ∧ ChangesWithin [.regs, .syn] (· ∈ windowRegs o.val) s u := by
  have hdone := (jobDone_within s o.val).mono (more := [.regs, .syn]) (wider := (· ∈ windowRegs o.val)) (fun _ => id)
    fun _ ha => ha ▸ List.mem_cons_self
  rw [adpAccept_eq, if_neg (by simp [hmode])]
  cases hfin : (flOf lossA).isFinite with
  | false => exact ⟨s.jobDone o.val, 1, if_pos rfl, by rw [out_jobDone], hdone⟩
  | true =>
    obtain ⟨hentered, hdemand⟩ := reportEntered_spec o.isLt (s.jobDone o.val) (natBit flags.toNat 3) lossA lossB
    have htheta : (s.jobDone o.val).rd R.SYN_ADP_THETA [o.val] = s.rd R.SYN_ADP_THETA [o.val] :=
      (jobDone_settings s o).rd (by simp [adpSettings])
    rw [windowFull_jobDone, windowAfter_jobDone, htheta] at hdemand
    rw [State.reportReverts, hfin, Bool.not_true, Bool.false_or] at hrev
    refine ⟨((s.jobDone o.val).reportEntered o.val (natBit flags.toNat 3) lossA lossB).1, 0, ?_, ?_, hdone.trans hentered.within⟩
    · rw [if_neg (by decide), State.reportTaken, if_pos (hdemand.trans hrev)]
    · rw [hentered.out, out_jobDone]

theorem adaptReport_reverts (hmode : s.adpMode o.val = 2) (hrev : s.reportReverts o.val (natBit flags.toNat 3) lossA lossB = true) :
    completes (.adaptReport o ref flags lossA lossB) s [.free, .regs, .syn, .sct, .sch] fun t =>
      (t.out o.val).work = none ∧ (t.out o.val).window = [] ∧ (t.out o.val).toZero = true ∧ (t.out o.val).swapTo = 0
        ∧ t.bit R.SYN_ADP_STATUS [o.val] 6 = true ∧ counted R.SYN_ADP_CNT_REVERT [o.val] s t := by
  obtain ⟨u, cause, haccept, hwork, hu⟩ := adpAccept_reverts lossA flags hmode hrev
  have hexec := exec_adaptReport_accepted h lossA flags
  rw [haccept] at hexec
  obtain ⟨hwithin, hnone, hwindow, hzero, hswap, hbit, hcount⟩ := revertBy_reverted hwork w cause
  have hnot : regAddr R.SYN_ADP_CNT_REVERT [o.val] ∉ windowRegs o.val := by
    have : ∀ o < 4, regAddr R.SYN_ADP_CNT_REVERT [o] ∉ windowRegs o := by decide
    exact this o.val o.isLt
  exact completes_of_parts hexec (changesOnly_trans (changesOnly_mono hu.parts (by decide)) hwithin.parts) (by decide)
    ⟨hnone, hwindow, hzero, hswap, hbit, counted_after hu hnot hcount⟩

omit h in
/-- A report that does not revert enters the window, where it asks to, and asks for a swap or not. -/
theorem adpAccept_keeps (hmode : s.adpMode o.val = 2) (hrev : s.reportReverts o.val (natBit flags.toNat 3) lossA lossB = false) :
    ∃ u, s.adpAccept o.val w flags lossA lossB
        = u.adpSwap o.val (natBit flags.toNat 0) (if natBit flags.toNat 1 then 2 else 1) (s.out o.val).claim
      ∧ u.out o.val = { s.out o.val with
          work := none, failedRun := 0, window := s.windowAfter o.val (natBit flags.toNat 3) lossA lossB }
      ∧ ChangesWithin [.regs, .syn] (· ∈ windowRegs o.val) s u
      ∧ (s.windowFull o.val (natBit flags.toNat 3) lossA lossB = true →
        u.rd R.SYN_ADP_MEAN_A [o.val] = meanFp32 ((s.windowAfter o.val (natBit flags.toNat 3) lossA lossB).map (·.1))
          ∧ u.rd R.SYN_ADP_MEAN_B [o.val] = meanFp32 ((s.windowAfter o.val (natBit flags.toNat 3) lossA lossB).map (·.2))) := by
  obtain ⟨hfin, hcalm⟩ := Bool.or_eq_false_iff.1 hrev
  rw [Bool.not_eq_false'] at hfin
  have hdone := (jobDone_within s o.val).mono (more := [.regs, .syn]) (wider := (· ∈ windowRegs o.val)) (fun _ => id)
    fun _ ha => ha ▸ List.mem_cons_self
  obtain ⟨hentered, hdemand⟩ := reportEntered_spec o.isLt (s.jobDone o.val) (natBit flags.toNat 3) lossA lossB
  have htheta : (s.jobDone o.val).rd R.SYN_ADP_THETA [o.val] = s.rd R.SYN_ADP_THETA [o.val] :=
    (jobDone_settings s o).rd (by simp [adpSettings])
  have hmeans := hentered.means
  have hout := hentered.out
  rw [windowFull_jobDone, windowAfter_jobDone, htheta] at hdemand
  rw [windowFull_jobDone, windowAfter_jobDone] at hmeans
  rw [windowAfter_jobDone, out_jobDone] at hout
  refine ⟨((s.jobDone o.val).reportEntered o.val (natBit flags.toNat 3) lossA lossB).1, ?_, hout, hdone.trans hentered.within, hmeans⟩
  rw [adpAccept_eq, if_neg (by simp [hmode]), hfin, if_neg (by decide), State.reportTaken,
    if_neg (by rw [hdemand, hcalm]; decide)]

omit h in
theorem swapRegs_apart : ∀ o < 4, regAddr R.SYN_ADP_MEAN_A [o] ∉ swapRegs o ∧ regAddr R.SYN_ADP_MEAN_B [o] ∉ swapRegs o
    ∧ regAddr R.SYN_ADP_CNT_REFUSED [o] ∉ windowRegs o := by decide

theorem adaptReport_kept (hmode : s.adpMode o.val = 2) (hrev : s.reportReverts o.val (natBit flags.toNat 3) lossA lossB = false) :
    let x := s.out o.val
    let window := s.windowAfter o.val (natBit flags.toNat 3) lossA lossB
    let buffer := if natBit flags.toNat 1 then 2 else 1
    completes (.adaptReport o ref flags lossA lossB) s [.regs, .syn] fun t =>
      (t.out o.val).work = none ∧ (t.out o.val).failedRun = 0 ∧ (t.out o.val).window = window
        ∧ (s.windowFull o.val (natBit flags.toNat 3) lossA lossB = true →
          t.rd R.SYN_ADP_MEAN_A [o.val] = meanFp32 (window.map (·.1)) ∧ t.rd R.SYN_ADP_MEAN_B [o.val] = meanFp32 (window.map (·.2)))
        ∧ (natBit flags.toNat 0 = false → (t.out o.val).claim = 0 ∧ (t.out o.val).swapTo = x.swapTo)
        ∧ (natBit flags.toNat 0 = true → x.swapTo = 0 → buffer = x.claim → (t.out o.val).swapTo = buffer)
        ∧ (natBit flags.toNat 0 = true → (x.swapTo ≠ 0 ∨ buffer ≠ x.claim) → counted R.SYN_ADP_CNT_REFUSED [o.val] s t
          ∧ (t.out o.val).swapTo = x.swapTo) := by
  intro x window buffer
  obtain ⟨u, haccept, hout, hu, hmeans⟩ := adpAccept_keeps lossA flags hmode hrev
  obtain ⟨hmeanA, hmeanB, hrefused⟩ := swapRegs_apart o.val o.isLt
  have hexec := exec_adaptReport_accepted h lossA flags
  rw [haccept] at hexec
  have hswap := adpSwap_within u o.val (natBit flags.toNat 0) buffer x.claim
  obtain ⟨hwork, hrun, hwindow⟩ := job_adpSwap o.isLt u (natBit flags.toNat 0) buffer x.claim
  have hpending : (u.out o.val).swapTo = x.swapTo := by rw [hout]
  rw [hout] at hwork hrun hwindow
  refine completes_of_parts hexec (changesOnly_trans hu.parts hswap.parts) (by decide) ⟨hwork, hrun, hwindow, fun hfull => ?_,
    fun hask => ?_, fun hask hidle hbuffer => ?_, fun hask hbad => ?_⟩
  · obtain ⟨ha, hb⟩ := hmeans hfull
    exact ⟨(hswap.rd hmeanA).trans ha, (hswap.rd hmeanB).trans hb⟩
  · have hfree := out_adpSwap_unasked o.isLt u buffer x.claim
    rw [← hask] at hfree
    exact ⟨congrArg SynOut.claim hfree, (congrArg SynOut.swapTo hfree).trans hpending⟩
  · have htaken := out_adpSwap_taken o.isLt (hpending.trans hidle) hbuffer
    rw [← hask] at htaken
    exact congrArg SynOut.swapTo htaken
  · obtain ⟨hleft, hcount⟩ := adpSwap_refused (s := u) (buffer := buffer) (target := x.claim) o.isLt (by rwa [hpending])
    rw [← hask] at hleft hcount
    exact ⟨counted_after hu hrefused hcount, (congrArg SynOut.swapTo hleft).trans hpending⟩

end

end Sys2Proof.Machine
end

section
/-! PROOFS. A timeout, a rearm and a mode that is taken (R86–R88). -/

namespace Sys2Proof.Machine

variable {s t : State} {o : Fin 4}

/-! ### A timeout (R86) -/

theorem failRegs_apart : ∀ o < 4, (∀ a ∈ adpSettings o, a ∉ failRegs o) ∧ regAddr R.SYN_ADP_CNT_REVERT [o] ∉ failRegs o
    ∧ regAddr R.SYN_ADP_CNT_FAIL [o] ∉ revertRegs o := by decide

/-- Does one more failed job reach the limit at which adaptation reverts? -/
def State.failReverts (s : State) (o : Nat) : Prop :=
  s.fld R.SYN_ADP_LIMITS [o] 19 16 ≠ 0 ∧ s.fld R.SYN_ADP_LIMITS [o] 19 16 ≤ (s.out o).failedRun + 1 ∧ s.adpMode o = 2

theorem jobFailed_settings (s : State) (o : Fin 4) (ref : Word) (cause status : Nat) :
    SameSettings o.val s (s.jobFailed o.val ref cause status) :=
  (jobFailed_within s o.val ref cause status).sameSettings (failRegs_apart o.val o.isLt).1

theorem failLimit_jobFailed (s : State) (o : Fin 4) (ref : Word) (cause status : Nat) :
    (s.jobFailed o.val ref cause status).fld R.SYN_ADP_LIMITS [o.val] 19 16 = s.fld R.SYN_ADP_LIMITS [o.val] 19 16 := by
  rw [State.fld, (jobFailed_settings s o ref cause status).rd (by simp [adpSettings]), State.fld]

theorem adpFail_reverts (h : s.failReverts o.val) (ref : Word) (cause status : Nat) :
    s.adpFail o.val ref cause status = (s.jobFailed o.val ref cause status).adpRevert o.val ref 2 := by
  rw [adpFail_eq]
  unfold State.failReverts at h
  dsimp only
  rw [failLimit_jobFailed, (jobFailed_settings s o ref cause status).adpMode, if_pos h]

theorem adpFail_stays (h : ¬s.failReverts o.val) (ref : Word) (cause status : Nat) :
    s.adpFail o.val ref cause status = s.jobFailed o.val ref cause status := by
  rw [adpFail_eq]
  unfold State.failReverts at h
  dsimp only
  rw [failLimit_jobFailed, (jobFailed_settings s o ref cause status).adpMode, if_neg h]

/-- A failed job at the limit. -/
theorem adpFail_spec_reverts (h : s.failReverts o.val) (ref : Word) (cause status : Nat) :
    let t := s.adpFail o.val ref cause status
    changesOnly [.free, .regs, .syn, .sct] s t ∧ (t.out o.val).work = none ∧ counted R.SYN_ADP_CNT_FAIL [o.val] s t
      ∧ (t.out o.val).toZero = true ∧ (t.out o.val).claim = 0 ∧ t.bit R.SYN_ADP_STATUS [o.val] 6 = true
      ∧ counted R.SYN_ADP_CNT_REVERT [o.val] s t := by
  intro t
  obtain ⟨-, hrevert, hfail⟩ := failRegs_apart o.val o.isLt
  obtain ⟨users, hfailed⟩ := out_jobFailed o.isLt s ref cause status
  have hw := jobFailed_within s o.val ref cause status
  have hr := adpRevert_within (s.jobFailed o.val ref cause status) o.val ref 2
  have hout := out_adpRevert (s := s.jobFailed o.val ref cause status) o.isLt ref 2
  rw [hfailed] at hout
  have ht : t = (s.jobFailed o.val ref cause status).adpRevert o.val ref 2 := adpFail_reverts h ref cause status
  rw [ht, hout]
  exact ⟨changesOnly_trans hw.parts hr.parts, rfl, counted_of_within (counted_jobFailed o.isLt s ref cause status) hr hfail, rfl, rfl,
    bit_adpRevert o.isLt ref 2, counted_after hw hrevert (counted_adpRevert o.isLt ref 2)⟩

theorem exec_adaptJobTimeout (hl : s.isLive) {w : AdaptWork} (hw : (s.out o.val).work = some w) (hj : w.job.isSome = true) :
    exec (.adaptJobTimeout o) s = .next ((s.adpFail o.val w.ref 1 0).kept s) := by
  rw [show exec (.adaptJobTimeout o) s = execAdaptJobTimeout o s from rfl, execAdaptJobTimeout, State.live_next s _ hl]
  simp only [hw, hj, if_true]

theorem adaptJobTimeout_completes (hl : s.isLive) {w : AdaptWork} (hw : (s.out o.val).work = some w) (hj : w.job.isSome = true) :
    completes (.adaptJobTimeout o) s [.free, .regs, .syn, .sct] fun t => (t.out o.val).work = none
      ∧ counted R.SYN_ADP_CNT_FAIL [o.val] s t
      ∧ (¬s.failReverts o.val → (t.out o.val).failedRun = (s.out o.val).failedRun + 1 ∧ (t.out o.val).swapTo = (s.out o.val).swapTo
          ∧ (t.out o.val).claim = (s.out o.val).swapTo)
      ∧ (s.failReverts o.val → (t.out o.val).toZero = true ∧ (t.out o.val).claim = 0 ∧ t.bit R.SYN_ADP_STATUS [o.val] 6 = true
          ∧ counted R.SYN_ADP_CNT_REVERT [o.val] s t) := by
  have hexec := exec_adaptJobTimeout hl hw hj
  by_cases hrev : s.failReverts o.val
  · obtain ⟨hparts, hnone, hfail, hzero, hclaim, hbit, hcount⟩ := adpFail_spec_reverts hrev w.ref 1 0
    exact completes_of_parts hexec hparts (by decide) ⟨hnone, hfail, fun h => absurd hrev h, fun _ => ⟨hzero, hclaim, hbit, hcount⟩⟩
  · rw [adpFail_stays hrev] at hexec
    obtain ⟨users, hfailed⟩ := out_jobFailed o.isLt s w.ref 1 0
    refine completes_of_parts hexec (jobFailed_within s o.val w.ref 1 0).parts (by decide)
      ⟨?_, counted_jobFailed o.isLt s w.ref 1 0, fun _ => ?_, fun h => absurd h hrev⟩ <;>
      rw [hfailed]
    exact ⟨rfl, rfl, rfl⟩

/-! ### A rearm (R87) -/

theorem adaptRearm_completes (hl : s.isLive) (o : Fin 4) :
    completes (.adaptRearm o) s [.regs] fun t => t.bit R.SYN_ADP_STATUS [o.val] 6 = false ∧ t.bit R.SYN_ADP_STATUS [o.val] 7 = true
      ∧ sameRegsBut [regAddr R.SYN_ADP_STATUS [o.val]] s t := by
  have hexec : exec (.adaptRearm o) s = .next ((s.adpRearm o.val).kept s) := by
    rw [show exec (.adaptRearm o) s = execAdaptRearm o s from rfl, execAdaptRearm, State.live_next s _ hl]
  have hw : ChangesWithin [.regs] (· ∈ [regAddr R.SYN_ADP_STATUS [o.val]]) s (s.adpRearm o.val) :=
    .trans (.setBit _ _ _ _ _ (by decide) List.mem_cons_self) (.setBit _ _ _ _ _ (by decide) List.mem_cons_self)
  refine completes_of_parts hexec hw.parts (by decide) ⟨?_, State.bit_setBit_self _ _ _ _ _ (by decide), hw.regs⟩
  exact (State.bit_setBit_ne (s.setBit R.SYN_ADP_STATUS [o.val] 6 false) R.SYN_ADP_STATUS [o.val] 7 true (i := 6) (by decide) (by decide)).trans
    (State.bit_setBit_self _ _ _ _ _ (by decide))

/-! ### A mode (R88) -/

/-- The registers that the mode of an output moves. -/
def modeRegs (o : Nat) : List Nat := [regAddr R.SYN_ADP_CTRL [o], regAddr R.SYN_ADP_STATUS [o]]

theorem adpCtrl_ne_status : ∀ o < 4, regAddr R.SYN_ADP_CTRL [o] ≠ regAddr R.SYN_ADP_STATUS [o] := by decide

/-- A change that moves no register but SYN_ADP_STATUS. -/
abbrev StatusOnly (o : Nat) (s t : State) : Prop := ChangesWithin [.regs, .syn] (· = regAddr R.SYN_ADP_STATUS [o]) s t

theorem adpGiveUp_shown (s : State) (o : Nat) : StatusOnly o s ((s.adpGiveUp o).adpStatus o) :=
  (adpGiveUp_within s o).trans (adpStatus_within _ _ (by decide) rfl)

theorem adpSettle_within (s : State) (o : Nat) : StatusOnly o s (s.adpSettle o) := by
  unfold State.adpSettle
  split
  · split
    · exact adpGiveUp_shown s o
    · exact .refl _ _ s
  · exact .refl _ _ s

theorem work_adpGiveUp_shown (s : State) (o : Fin 4) : (((s.adpGiveUp o.val).adpStatus o.val).out o.val).work = none := by
  obtain ⟨users, h⟩ := out_adpGiveUp o.isLt s
  rw [State.out_congr (adpStatus_syn _ _), h]

/-- Outside mode 2 only a launched job is left. -/
theorem work_adpSettle {w : AdaptWork} (hw : (s.out o.val).work = some w) (hmode : s.adpMode o.val ≠ 2) :
    ((s.adpSettle o.val).out o.val).work = if w.job.isSome then some w else none := by
  unfold State.adpSettle
  rw [hw]
  cases hj : w.job with
  | none => simpa [hj, hmode] using work_adpGiveUp_shown s o
  | some j => simpa [hj] using hw

/-- Mode 0 is taken: what is pending ends, and the original weights are asked for. -/
def State.adpLeft (s : State) (o : Nat) : State :=
  let x := s.out o
  let ignore := match x.work with | some w => if w.job.isSome then x.ignore ++ [w.ref] else x.ignore | none => x.ignore
  let claim := if x.swapTo = 0 then x.claim else 0
  let t := s.setOut o { x with toZero := true, window := [], swapTo := 0, claim := claim, ignore := ignore }
  (t.adpGiveUp o).adpStatus o

/-- Mode 2 is entered armed. -/
def State.adpArmed (s : State) (o : Nat) (arms : Bool) : State := if arms then s.setBit R.SYN_ADP_STATUS [o] 7 true else s

theorem adpSetMode_eq (s : State) (o m : Nat) : s.adpSetMode o m =
    let was := s.fld R.SYN_ADP_CTRL [o] 1 0
    let t := s.setFld R.SYN_ADP_CTRL [o] 1 0 m
    if m = 0 ∧ was ≠ 0 then t.adpLeft o else (t.adpArmed o (m = 2 ∧ was = 0)).adpSettle o := by
  unfold State.adpSetMode State.adpArmed
  simp only [decide_eq_true_eq]
  rfl

theorem adpArmed_within (s : State) (o : Nat) (arms : Bool) : StatusOnly o s (s.adpArmed o arms) := by
  unfold State.adpArmed
  split
  · exact .setBit _ _ _ _ _ (by decide) rfl
  · exact .refl _ _ s

theorem adpLeft_within (s : State) (o : Nat) : StatusOnly o s (s.adpLeft o) :=
  .trans (.setOut _ _ _ (by decide)) (adpGiveUp_shown _ _)

theorem adpLeft_out (s : State) (o : Fin 4) : let t := s.adpLeft o.val
    (t.out o.val).toZero = true ∧ (t.out o.val).work = none ∧ (t.out o.val).swapTo = 0 ∧ (t.out o.val).window = [] := by
  intro t
  obtain ⟨users, h⟩ := out_adpGiveUp o.isLt _
  have ht : t.out o.val = _ := (State.out_congr (adpStatus_syn _ _) o.val).trans h
  rw [ht, State.out_setOut_self _ _ o.isLt]
  exact ⟨rfl, rfl, rfl, rfl⟩

theorem adpArmed_out (s : State) (o : Nat) (arms : Bool) : (s.adpArmed o arms).out o = s.out o := by
  unfold State.adpArmed
  split <;> rfl

/-- The bits of SYN_ADP_STATUS that a settled mode leaves. -/
theorem bit_adpSettle (s : State) (o : Nat) : (s.adpSettle o).bit R.SYN_ADP_STATUS [o] 7 = s.bit R.SYN_ADP_STATUS [o] 7 := by
  unfold State.adpSettle
  split
  · split
    · exact (bit_adpStatus _ _ (.inr (.inr rfl))).trans (State.bit_setBit_ne _ _ _ _ _ (by decide) (by decide))
    · rfl
  · rfl

/-- After the mode's own write nothing moves but SYN_ADP_STATUS. -/
theorem adpSetMode_shown (s : State) (o m : Nat) : StatusOnly o (s.setFld R.SYN_ADP_CTRL [o] 1 0 m) (s.adpSetMode o m) := by
  rw [adpSetMode_eq]
  dsimp only
  split
  · exact adpLeft_within _ _
  · exact (adpArmed_within _ _ _).trans (adpSettle_within _ _)

theorem fld_adpSetMode (s : State) (o : Fin 4) (m : Nat) (hm : m < 4) : (s.adpSetMode o.val m).fld R.SYN_ADP_CTRL [o.val] 1 0 = m := by
  rw [(adpSetMode_shown s o.val m).fld (adpCtrl_ne_status o.val o.isLt), State.fld_setFld_self _ _ _ _ _ _ (by decide)]
  exact Nat.mod_eq_of_lt hm

theorem adpSetMode_enters (s : State) (o : Nat) (hwas : s.fld R.SYN_ADP_CTRL [o] 1 0 = 0) :
    (s.adpSetMode o 2).bit R.SYN_ADP_STATUS [o] 7 = true := by
  rw [adpSetMode_eq]
  dsimp only
  rw [if_neg (by simp), bit_adpSettle, State.adpArmed, if_pos (by simp [hwas])]
  exact State.bit_setBit_self _ _ _ _ _ (by decide)

theorem adpSetMode_leaves (s : State) (o : Fin 4) (hwas : s.fld R.SYN_ADP_CTRL [o.val] 1 0 ≠ 0) :
    s.adpSetMode o.val 0 = (s.setFld R.SYN_ADP_CTRL [o.val] 1 0 0).adpLeft o.val := by
  rw [adpSetMode_eq]
  exact if_pos ⟨rfl, hwas⟩

theorem adpMode_one {o : Nat} (h : s.fld R.SYN_ADP_CTRL [o] 1 0 = 1) : s.adpMode o = 1 := by
  simp [State.adpMode, h]

theorem work_adpSetMode_one (s : State) (o : Fin 4) {w : AdaptWork} (hw : (s.out o.val).work = some w) :
    ((s.adpSetMode o.val 1).out o.val).work = if w.job.isSome then some w else none := by
  have hctrl : (s.setFld R.SYN_ADP_CTRL [o.val] 1 0 1).fld R.SYN_ADP_CTRL [o.val] 1 0 = 1 :=
    State.fld_setFld_self _ _ _ _ _ _ (by decide)
  rw [adpSetMode_eq]
  dsimp only
  rw [if_neg (by simp)]
  refine work_adpSettle ?_ ?_
  · rw [adpArmed_out]
    exact hw
  · rw [adpMode_one (((adpArmed_within _ _ _).fld (adpCtrl_ne_status o.val o.isLt) _ _).trans hctrl)]
    decide

theorem adaptModeWrite_completes (hl : s.isLive) (o m : Fin 4) :
    completes (.adaptModeWrite o m) s [.regs, .syn] fun t => t.fld R.SYN_ADP_CTRL [o.val] 1 0 = m.val
      ∧ sameRegsBut [regAddr R.SYN_ADP_CTRL [o.val], regAddr R.SYN_ADP_STATUS [o.val]] s t
      ∧ (m.val = 2 → s.fld R.SYN_ADP_CTRL [o.val] 1 0 = 0 → t.bit R.SYN_ADP_STATUS [o.val] 7 = true)
      ∧ (m.val = 0 → s.fld R.SYN_ADP_CTRL [o.val] 1 0 ≠ 0 → (t.out o.val).toZero = true ∧ (t.out o.val).work = none
          ∧ (t.out o.val).swapTo = 0 ∧ (t.out o.val).window = [])
      ∧ (m.val = 1 → ∀ w, (s.out o.val).work = some w → (t.out o.val).work = if w.job.isSome then some w else none) := by
  have hexec : exec (.adaptModeWrite o m) s = .next ((s.adpSetMode o.val m.val).kept s) := by
    rw [show exec (.adaptModeWrite o m) s = execAdaptModeWrite o m s from rfl, execAdaptModeWrite, State.live_next s _ hl]
  have hset : ChangesWithin [.regs, .syn] (· ∈ modeRegs o.val) s (s.setFld R.SYN_ADP_CTRL [o.val] 1 0 m.val) :=
    .setFld _ _ _ _ _ _ (by decide) (by simp [modeRegs])
  have hw := hset.trans ((adpSetMode_shown s o.val m.val).mono (fun _ => id) fun a ha => by simp [modeRegs, ha])
  refine completes_of_parts hexec hw.parts (by decide)
    ⟨fld_adpSetMode s o m.val m.isLt, hw.regs, fun hm hwas => ?_, fun hm hwas => ?_, fun hm w hx => ?_⟩
  · rw [hm]
    exact adpSetMode_enters s o.val hwas
  · rw [hm, adpSetMode_leaves s o hwas]
    exact adpLeft_out _ o
  · rw [hm]
    exact work_adpSetMode_one s o hx

end Sys2Proof.Machine
end

section
/-! SUPPORT. What the input stage of a slice reads, and what leaves that as it is (R43, R73). -/

namespace Sys2Proof.Machine

variable {s t u : State} {o : Nat}

/-! ### Reads that fail or do not (R23) -/

theorem readFor_congr (h : SameGrants s t) (hmem : t.mem = s.mem) (herr : t.err = s.err) {c : Nat} (hc : c < 64) (a n : Nat) :
    t.readFor c a n = s.readFor c a n := by
  have herror : t.readError a n = s.readError a n := by
    rw [State.readError, State.readError, State.badIn, State.badIn, herr, h.dev]
  have hbytes : t.bytes a n = s.bytes a n := State.bytes_congr fun x _ _ => by rw [State.byte, State.byte, hmem]
  rw [State.readFor, State.readFor, h.accessOk hc, herror, hbytes]

theorem readsFail_congr (h : SameGrants s t) (hmem : t.mem = s.mem) (herr : t.err = s.err) {c : Nat} (hc : c < 64)
    (reads : List (Nat × Nat)) : t.readsFail c reads = s.readsFail c reads := by
  simp only [State.readsFail, readFor_congr h hmem herr hc]

/-- A read meets no error where none is new. -/
theorem readError_none (hdev : t.dev = s.dev) (hbad : ∀ w ∈ t.err.bad, w ∈ s.err.bad) {a n : Nat} (h : s.readError a n = none) :
    t.readError a n = none := by
  rw [State.readError, List.head?_eq_none_iff, State.badIn, List.filter_eq_nil_iff] at h ⊢
  rw [hdev]
  exact fun w hw => h w (hbad w hw)

theorem readFor_ok_iff {c a n : Nat} :
    (∃ bs, s.readFor c a n = .ok bs) ↔ s.accessOk c a n false = true ∧ s.readError a n = none := by
  unfold State.readFor
  cases s.accessOk c a n false <;> cases s.readError a n <;> simp

theorem readsFail_none_iff {c : Nat} {reads : List (Nat × Nat)} :
    s.readsFail c reads = none ↔ ∀ r ∈ reads, s.accessOk c r.1 r.2 false = true ∧ s.readError r.1 r.2 = none := by
  rw [State.readsFail, List.findSome?_eq_none_iff]
  refine forall₂_congr fun r _ => ?_
  rw [← readFor_ok_iff]
  cases s.readFor c r.1 r.2 <;> simp

/-- Reads that fail nowhere fail nowhere later, where the accesses are granted and no error is new. -/
theorem readsFail_none (h : SameGrants s t) (hbad : ∀ w ∈ t.err.bad, w ∈ s.err.bad) {c : Nat} (hc : c < 64) {reads : List (Nat × Nat)}
    (hreads : s.readsFail c reads = none) : t.readsFail c reads = none := by
  rw [readsFail_none_iff] at hreads ⊢
  intro r hr
  obtain ⟨hok, herr⟩ := hreads r hr
  exact ⟨(h.accessOk hc _ _ _).trans hok, readError_none h.dev hbad herr⟩

/-! ### What an input stage rests on -/

/-- The registers of an output that tell what its input stage reads. -/
def inputRegs (o : Nat) : List Nat :=
  [regAddr R.SYN_QUEUE [o], regAddr R.SYN_HIST_LO [o], regAddr R.SYN_HIST_HI [o], regAddr R.SYN_BANK_LO [o], regAddr R.SYN_BANK_HI [o]]
    ++ geomRegs o

/-- The registers that copies from a bank move: those of traffic, and the status of the output. -/
abbrev copyRegs (o a : Nat) : Prop := trafficRegs a ∨ a = regAddr R.SYN_STATUS [o]

theorem inputRegs_apart : ∀ o < 4, ∀ a ∈ inputRegs o, ¬copyRegs o a := by decide

/-- Registers of the hub's CFG pages between those of traffic take part in no grant. -/
theorem sameGrants_of_within {parts : List Part} {moved : Nat → Prop} (h : ChangesWithin parts moved s t) (hd : Part.dev ∉ parts)
    (hi : Part.img ∉ parts) (hm : ∀ a, moved a → 0x1C0000 ≤ a ∧ a < 0x1D0000) : SameGrants s t := by
  have hrd {r : Reg} {ix : List Nat} (ha : regAddr r ix < 0x1C0000 ∨ 0x1D0000 ≤ regAddr r ix) : t.rd r ix = s.rd r ix :=
    h.rd fun hmoved => by have := hm _ hmoved; omega
  exact {
    dev := h.part hd
    img := h.part hi
    ctx := fun c hc => hrd (by simp only [regAddr, R.SCH_CTX_CFG, regOffset]; omega)
    ready := hrd (by decide)
    cluster := fun d hd k hk p hp => hrd (by simp only [regAddr, R.CLC_CSHARE, regOffset]; omega)
    lmap := fun d hd k hk i hi => hrd (by simp only [regAddr, R.CLC_LMAP, regOffset]; omega)
    slot := fun d hd k hk j hj i hi => ⟨hrd (by simp only [regAddr, R.CORE_SLOT_MEM, regOffset]; omega),
      hrd (by simp only [regAddr, R.CORE_SLOT_EXE, regOffset]; omega)⟩ }

/-- The input stage of an output reads the same places of the same frames, and meets no new error. -/
structure SameInputs (o : Nat) (s t : State) : Prop where
  grants : SameGrants s t
  dsp : t.dsp = s.dsp
  regs : ∀ a ∈ inputRegs o, cfgGet t.cfg a = cfgGet s.cfg a
  frames : (t.out o).frames = (s.out o).frames
  halo : (t.out o).halo = (s.out o).halo
  bad : ∀ w ∈ t.err.bad, w ∈ s.err.bad

namespace SameInputs

theorem refl (o : Nat) (s : State) : SameInputs o s s :=
  ⟨(ChangesWithin.refl [] trafficRegs s).sameGrants (by decide) (by decide), rfl, fun _ _ => rfl, rfl, rfl, fun _ => id⟩

theorem trans (h : SameInputs o s t) (k : SameInputs o t u) : SameInputs o s u where
  grants := h.grants.trans k.grants
  dsp := k.dsp.trans h.dsp
  regs a ha := (k.regs a ha).trans (h.regs a ha)
  frames := k.frames.trans h.frames
  halo := k.halo.trans h.halo
  bad w hw := h.bad w (k.bad w hw)

/-- Traffic and values that the spec leaves free leave the inputs as they are. -/
theorem of_traffic (h : ChangesWithin trafficParts trafficRegs s t) (ho : o < 4) : SameInputs o s t where
  grants := h.sameGrants (by decide) (by decide)
  dsp := h.part (p := .dsp) (by decide)
  regs a ha := h.regs a fun hm => inputRegs_apart o ho a ha (.inl hm)
  frames := congrArg SynOut.frames (State.out_congr (h.part (p := .syn) (by decide)) o)
  halo := congrArg SynOut.halo (State.out_congr (h.part (p := .syn) (by decide)) o)
  bad w hw := (show t.err = s.err from h.part (p := .err) (by decide)) ▸ hw

theorem putRun (ho : o < 4) (s : State) (r : SliceRun) : SameInputs o s (s.putRun o r) where
  grants := (ChangesWithin.putRun (parts := [.syn]) (moved := trafficRegs) s o r (by decide)).sameGrants (by decide) (by decide)
  dsp := rfl
  regs _ _ := rfl
  frames := by rw [State.putRun, State.out_setOut_self _ _ ho]
  halo := by rw [State.putRun, State.out_setOut_self _ _ ho]
  bad _ := id

theorem bankFlags (ho : o < 4) (s : State) : SameInputs o s (s.bankFlags o) where
  grants := sameGrants_of_within (bankFlags_within (parts := [.regs]) (moved := (· = regAddr R.SYN_STATUS [o])) s o (by decide) rfl)
    (by decide) (by decide) fun a ha => by
      rw [ha]
      simp only [regAddr, R.SYN_STATUS, regOffset]
      omega
  dsp := rfl
  regs a ha := (bankFlags_within (parts := [.regs]) (moved := (· = regAddr R.SYN_STATUS [o])) s o (by decide) rfl).regs a
    fun hm => inputRegs_apart o ho a ha (.inr hm)
  frames := rfl
  halo := rfl
  bad _ := id

theorem write (s : State) (a : Nat) (bs : List Byte) : SameInputs o s (s.write a bs) :=
  have h := write_within s a bs (parts := [.mem, .err]) (moved := trafficRegs) (by decide) (by decide)
  { grants := h.sameGrants (by decide) (by decide)
    dsp := h.part (p := .dsp) (by decide)
    regs := fun a _ => congrArg (cfgGet · a) ((changesOnly_write s _ bs) .regs (by decide))
    frames := congrArg SynOut.frames (State.out_congr (h.part (p := .syn) (by decide)) o)
    halo := congrArg SynOut.halo (State.out_congr (h.part (p := .syn) (by decide)) o)
    bad := bad_write s a bs }

theorem foldl {α : Type} {f : State → α → State} (hf : ∀ s x, SameInputs o s (f s x)) (xs : List α) (s : State) :
    SameInputs o s (xs.foldl f s) := by
  induction xs generalizing s with
  | nil => exact refl o s
  | cons x xs ih => exact (hf s x).trans (ih _)

variable (h : SameInputs o s t)
include h

theorem rd {r : Reg} (hr : regAddr r [o] ∈ inputRegs o) : t.rd r [o] = s.rd r [o] := by
  rw [State.rd, State.rd, h.regs _ hr]

theorem sameGeometry : SameGeometry o s t := ⟨h.dsp, fun a ha => h.regs a (List.mem_append_right _ ha)⟩

theorem synCtx : t.synCtx o = s.synCtx o := by
  rw [State.synCtx, State.synCtx, State.fld, State.fld, h.rd (by simp [inputRegs])]

theorem bankAddr (b : Nat) : t.bankAddr o b = s.bankAddr o b := by
  rw [State.bankAddr, State.bankAddr, State.rdAddr, State.rdAddr, h.rd (by simp [inputRegs]), h.rd (by simp [inputRegs])]

theorem history : t.rdAddr R.SYN_HIST_LO R.SYN_HIST_HI [o] = s.rdAddr R.SYN_HIST_LO R.SYN_HIST_HI [o] := by
  rw [State.rdAddr, State.rdAddr, h.rd (by simp [inputRegs]), h.rd (by simp [inputRegs])]

theorem frameRec (f : Word) : t.frameRec o f = s.frameRec o f := by
  rw [State.frameRec, State.frameRec, h.frames]

theorem synD : t.synD o = s.synD o := by
  rw [State.synD, State.synD, State.fld, State.fld, h.rd (by simp [inputRegs, geomRegs])]

theorem sliceView (n : Nat) (newer older : Keyframe) (two history : Bool) :
    t.sliceView o n newer older two history = s.sliceView o n newer older two history := by
  rw [State.sliceView, State.sliceView, h.sameGeometry.synTiming, h.sameGeometry.synS, h.synD, h.halo]

theorem runView (r : SliceRun) : t.runView o r = s.runView o r := by
  simp only [State.runView, h.frameRec, h.sliceView]

theorem sliceReads {v : SliceView} (hv : v.output = o) : t.sliceReads v = s.sliceReads v := by
  rw [State.sliceReads, State.sliceReads, hv, h.history]

end SameInputs

end Sys2Proof.Machine
end

section
/-! PROOFS. The copies from a state-vector bank end (R43, R73, R74). -/

namespace Sys2Proof.Machine

variable {s t u : State} {o b : Nat} {r : SliceRun}

/-! ### A copy (R74) -/

theorem mixBytes_getD {old new mix : List Byte} (hnew : new.length = old.length) (hmix : mix.length = old.length) {i : Nat}
    (hi : i < old.length) (h : old.getD i 0 = new.getD i 0) : (mixBytes old new mix).getD i 0 = old.getD i 0 := by
  rw [List.getD_eq_getElem _ _ hi, List.getD_eq_getElem _ _ (hnew ▸ hi)] at h
  rw [mixBytes, List.getD_eq_getElem _ _ (by simp [hnew, hmix, hi]), List.getD_eq_getElem _ _ hi]
  simp [h]

/-- A byte of memory, read with others. -/
theorem State.bytes_getD (s : State) {a n i : Nat} (hi : i < n) : (s.bytes a n).getD i 0 = s.byte (a + i) := by
  induction n generalizing a i with
  | zero => exact absurd hi (Nat.not_lt_zero i)
  | succ n ih =>
    rw [State.bytes_succ]
    cases i with
    | zero => rfl
    | succ i => rw [List.getD_cons_succ, ih (Nat.lt_of_succ_lt_succ hi), Nat.add_assoc, Nat.add_comm 1 i]

theorem State.bytes_length (s : State) (a n : Nat) : (s.bytes a n).length = n := by
  rw [State.bytes, List.length_map, rangeFrom_length]

/-- A copy ends with its bytes where its source still holds them. -/
theorem copied_getD (s : State) (old : List Byte) (a : Nat) {i : Nat} (hi : i < old.length) (h : old.getD i 0 = s.byte (a + i)) :
    (s.copied old a).2.getD i 0 = old.getD i 0 := by
  unfold State.copied
  dsimp only
  split
  · rfl
  · exact mixBytes_getD (s.bytes_length _ _) (leBytes_length _ _) hi (h.trans (s.bytes_getD hi).symm)

theorem copied_within (s : State) (old : List Byte) (a : Nat) : ChangesWithin trafficParts trafficRegs s (s.copied old a).1 := by
  unfold State.copied
  dsimp only
  split
  · exact .refl _ _ s
  · exact .draw s (by decide)

/-! ### The input stage (R43) -/

theorem inputStage_within (s : State) (o : Nat) (r : SliceRun) : ChangesWithin trafficParts trafficRegs s (s.inputStage o r).1 := by
  unfold State.inputStage
  split
  · exact .refl _ _ s
  · dsimp only
    split
    · exact .refl _ _ s
    · exact synRead_within s o _

/-- The input stage fills in the tensors of a slice, and nothing else. -/
theorem inputStage_entry (s : State) (o : Nat) (r : SliceRun) : ∃ inputs, (s.inputStage o r).2 = { r with inputs := inputs } := by
  unfold State.inputStage
  split
  · exact ⟨r.inputs, rfl⟩
  · dsimp only
    split
    · exact ⟨r.inputs, rfl⟩
    · exact ⟨_, rfl⟩

theorem inputStage_reads {v : SliceView} (hv : s.runView o r = some v) (hreads : s.readsFail (s.synCtx o) (s.sliceReads v) = none) :
    (s.inputStage o r).2.inputs.take 4 = [s.kfTensor v, s.flowTensor v, s.histTensor v, r.vectors] := by
  unfold State.inputStage
  rw [hv]
  dsimp only
  rw [hreads]
  rfl

/-- The tensors of a slice are what memory holds where its view points. -/
theorem tensors_congr (h : SameInputs o s t) (hmem : t.mem = s.mem) {v : SliceView} (hv : v.output = o) :
    t.kfTensor v = s.kfTensor v ∧ t.flowTensor v = s.flowTensor v ∧ t.histTensor v = s.histTensor v := by
  have hbytes (a n : Nat) : t.bytes a n = s.bytes a n := State.bytes_congr fun x _ _ => by rw [State.byte, State.byte, hmem]
  have hhist := h.history
  refine ⟨?_, ?_, ?_⟩
  · simp only [State.kfTensor, hbytes]
  · simp only [State.flowTensor, hbytes]
  · simp only [State.histTensor, hbytes, hv, hhist]

/-- The view of a slice of an output names that output. -/
theorem output_of_runView {v : SliceView} (hv : s.runView o r = some v) : v.output = o := by
  rw [State.runView, Option.bind_eq_some_iff] at hv
  obtain ⟨f, -, hf⟩ := hv
  obtain ⟨k, -, hk⟩ := Option.map_eq_some_iff.1 hf
  rw [← hk]
  rfl

/-- Why the input stage cannot read the tensors of a slice. -/
def State.inputsFail (s : State) (o : Nat) (r : SliceRun) : Option (Nat × Option Nat) :=
  (s.runView o r).bind fun v => s.readsFail (s.synCtx o) (s.sliceReads v)

theorem inputsFail_congr (h : SameInputs o s t) (hmem : t.mem = s.mem) (herr : t.err = s.err) (r : SliceRun) :
    t.inputsFail o r = s.inputsFail o r := by
  rw [State.inputsFail, State.inputsFail, h.runView]
  refine Option.bind_congr fun v hv => ?_
  rw [h.synCtx, h.sliceReads (output_of_runView hv), readsFail_congr h.grants hmem herr (synCtx_lt s o)]

theorem inputsFail_none (h : SameInputs o s t) (hnone : s.inputsFail o r = none) : t.inputsFail o r = none := by
  rw [State.inputsFail, Option.bind_eq_none_iff] at hnone ⊢
  rw [h.runView]
  intro v hv
  rw [h.synCtx, h.sliceReads (output_of_runView hv)]
  exact readsFail_none h.grants h.bad (synCtx_lt s o) (hnone v hv)

/-! ### The copies of one slice -/

/-- A slice whose vectors are copied. -/
def SliceRun.copyOver (r : SliceRun) (vectors : List Byte) : SliceRun := { r with vectors := vectors, copying := false }

/-- The copy of a slice's vectors ends, and the input stage reads its tensors. -/
def State.tensorsCopied (s : State) (o b : Nat) (r : SliceRun) : State × SliceRun :=
  if r.copying && r.bank == b then
    let c := s.copied r.vectors (s.bankAddr o b)
    c.1.inputStage o (r.copyOver c.2)
  else (s, r)

/-- The copy of a slice's transforms ends. -/
def State.warpCopied (s : State) (o b : Nat) (r : SliceRun) : State × SliceRun :=
  match r.warp with
  | some (wb, old) =>
    if r.warpCopying && wb == b then
      let c := s.copied old (s.bankAddr o b + 0x800)
      (c.1, { r with warp := some (wb, c.2), warpCopying := false })
    else (s, r)
  | none => (s, r)

theorem endCopies_eq (s : State) (o b : Nat) (r : SliceRun) : s.endCopies o b r =
    let c := s.tensorsCopied o b r
    let w := c.1.warpCopied o b c.2
    w.1.putRun o w.2 := by
  have hwarp (c : State × SliceRun) : (match c.2.warp with
      | some (wb, old) => if c.2.warpCopying && wb == b then
          let (t, v) := c.1.copied old (c.1.bankAddr o b + 0x800)
          t.putRun o { c.2 with warp := some (wb, v), warpCopying := false } else c.1.putRun o c.2
      | none => c.1.putRun o c.2) = (c.1.warpCopied o b c.2).1.putRun o (c.1.warpCopied o b c.2).2 := by
    unfold State.warpCopied
    split
    · split <;> rfl
    · rfl
  exact hwarp (s.tensorsCopied o b r)

/-- Entry `y` is entry `r` of `s` whose copies from a bank have ended. -/
structure CopiesOver (s : State) (o b : Nat) (r y : SliceRun) : Prop where
  frame : y.frame = r.frame
  slice : y.slice = r.slice
  idle : y.busyWith b = false
  vectors : ∀ i, i < r.vectors.length → r.vectors.getD i 0 = s.byte (s.bankAddr o b + i) → y.vectors.getD i 0 = r.vectors.getD i 0
  inputs : ∀ v, r.copying = true → r.bank = b → s.runView o r = some v → s.inputsFail o r = none →
    y.inputs.take 4 = [s.kfTensor v, s.flowTensor v, s.histTensor v, y.vectors]

/-- An entry whose vectors are copied. -/
structure TensorsOver (s : State) (o b : Nat) (r y : SliceRun) : Prop where
  entry : ∃ vectors copying inputs, y = { r with vectors := vectors, copying := copying, inputs := inputs }
  idle : (y.copying && y.bank == b) = false
  vectors : ∀ i, i < r.vectors.length → r.vectors.getD i 0 = s.byte (s.bankAddr o b + i) → y.vectors.getD i 0 = r.vectors.getD i 0
  inputs : ∀ v, r.copying = true → r.bank = b → s.runView o r = some v → s.inputsFail o r = none →
    y.inputs.take 4 = [s.kfTensor v, s.flowTensor v, s.histTensor v, y.vectors]

theorem tensorsCopied_within (s : State) (o b : Nat) (r : SliceRun) :
    ChangesWithin trafficParts trafficRegs s (s.tensorsCopied o b r).1 := by
  unfold State.tensorsCopied
  split
  · exact (copied_within s _ _).trans (inputStage_within _ _ _)
  · exact .refl _ _ s

theorem tensorsCopied_spec (ho : o < 4) (s : State) (b : Nat) (r : SliceRun) : TensorsOver s o b r (s.tensorsCopied o b r).2 := by
  unfold State.tensorsCopied
  split
  · next hbusy =>
    obtain ⟨hcopying, hbank⟩ := Bool.and_eq_true_iff.1 hbusy
    have hc := copied_within s r.vectors (s.bankAddr o b)
    have hsame := SameInputs.of_traffic hc ho
    have hmem : (s.copied r.vectors (s.bankAddr o b)).1.mem = s.mem := hc.part (p := .mem) (by decide)
    have herr : (s.copied r.vectors (s.bankAddr o b)).1.err = s.err := hc.part (p := .err) (by decide)
    obtain ⟨inputs, hentry⟩ := inputStage_entry (s.copied r.vectors (s.bankAddr o b)).1 o
      (r.copyOver (s.copied r.vectors (s.bankAddr o b)).2)
    refine ⟨⟨_, _, inputs, hentry⟩, ?_, fun i hi h => ?_, fun v _ _ hv hnone => ?_⟩
    · rw [hentry]
      rfl
    · rw [hentry]
      exact copied_getD s r.vectors _ hi h
    · have hvectors := congrArg SliceRun.vectors hentry
      obtain ⟨hkf, hflow, hhist⟩ := tensors_congr hsame hmem (output_of_runView hv)
      have hview : (s.copied r.vectors (s.bankAddr o b)).1.runView o (r.copyOver (s.copied r.vectors (s.bankAddr o b)).2) = some v :=
        (hsame.runView r).trans hv
      have hfail : (s.copied r.vectors (s.bankAddr o b)).1.inputsFail o (r.copyOver (s.copied r.vectors (s.bankAddr o b)).2) = none :=
        (inputsFail_congr hsame hmem herr r).trans hnone
      rw [State.inputsFail, hview] at hfail
      dsimp only
      rw [hvectors, inputStage_reads hview hfail, hkf, hflow, hhist]
  · next hidle =>
    have hidle := Bool.eq_false_iff.2 hidle
    refine ⟨⟨r.vectors, r.copying, r.inputs, rfl⟩, hidle, fun _ _ _ => rfl, fun v hcopying hbank => ?_⟩
    rw [hcopying, hbank, beq_self_eq_true] at hidle
    cases hidle

theorem warpCopied_within (s : State) (o b : Nat) (r : SliceRun) :
    ChangesWithin trafficParts trafficRegs s (s.warpCopied o b r).1 := by
  unfold State.warpCopied
  split
  · split
    · exact copied_within s _ _
    · exact .refl _ _ s
  · exact .refl _ _ s

/-- The transforms of an entry are no longer copied from the bank. -/
theorem warpCopied_entry (s : State) (o b : Nat) (r : SliceRun) : ∃ warp copying,
    (s.warpCopied o b r).2 = { r with warp := warp, warpCopying := copying }
      ∧ (copying && (match warp with | some w => w.1 == b | none => false)) = false := by
  unfold State.warpCopied
  split
  · next wb old hw =>
    split
    · exact ⟨_, _, rfl, rfl⟩
    · next hidle => exact ⟨some (wb, old), r.warpCopying, by rw [← hw], Bool.eq_false_iff.2 hidle⟩
  · next hw => exact ⟨none, r.warpCopying, by rw [← hw], Bool.and_false _⟩

/-- What the end of the copies of one slice leaves. -/
theorem endCopies_spec (ho : o < 4) (s : State) (b : Nat) (r : SliceRun) : ∃ u y, s.endCopies o b r = u.putRun o y
    ∧ ChangesWithin trafficParts trafficRegs s u ∧ CopiesOver s o b r y := by
  have hover := tensorsCopied_spec ho s b r
  obtain ⟨vectors, copying, inputs, hentry⟩ := hover.entry
  obtain ⟨warp, wcopying, hwarp, hidle⟩ := warpCopied_entry (s.tensorsCopied o b r).1 o b (s.tensorsCopied o b r).2
  refine ⟨_, _, endCopies_eq s o b r, (tensorsCopied_within s o b r).trans (warpCopied_within _ _ _ _), ?_⟩
  rw [hwarp]
  exact {
    frame := by rw [hentry]
    slice := by rw [hentry]
    idle := Bool.or_eq_false_iff.2 ⟨hover.idle, hidle⟩
    vectors := hover.vectors
    inputs := hover.inputs }

/-! ### The copies of every slice -/

theorem CopiesOver.congr {y : SliceRun} (h : SameInputs o s t) (hmem : t.mem = s.mem) (herr : t.err = s.err) (hy : CopiesOver t o b r y) :
    CopiesOver s o b r y where
  frame := hy.frame
  slice := hy.slice
  idle := hy.idle
  vectors i hi hbyte := hy.vectors i hi (by rw [h.bankAddr, State.byte, hmem, hbyte, State.byte])
  inputs v hcopying hbank hv hnone := by
    obtain ⟨hkf, hflow, hhist⟩ := tensors_congr h hmem (output_of_runView hv)
    rw [hy.inputs v hcopying hbank ((h.runView r).trans hv) ((inputsFail_congr h hmem herr r).trans hnone), hkf, hflow, hhist]

/-- The copies of some slices from a bank have ended. -/
structure BankCopied (s : State) (o b : Nat) (rs : List SliceRun) (t : State) : Prop where
  within : ChangesWithin (.syn :: trafficParts) trafficRegs s t
  same : SameInputs o s t
  keys : t.runKeys o = s.runKeys o
  ended : ∀ r ∈ rs, ∃ y, t.run o r.frame r.slice = some y ∧ CopiesOver s o b r y
  others : ∀ f n, (∀ r ∈ rs, ¬(r.frame = f ∧ r.slice = n)) → t.run o f n = s.run o f n

theorem bankCopied_one (ho : o < 4) (s : State) (b : Nat) (hr : (r.frame, r.slice) ∈ s.runKeys o) :
    BankCopied s o b [r] (s.endCopies o b r) := by
  obtain ⟨u, y, hu, hwithin, hover⟩ := endCopies_spec ho s b r
  have hsyn : u.syn = s.syn := hwithin.part (p := .syn) (by decide)
  rw [hu]
  refine ⟨(hwithin.mono (by decide) fun _ => id).trans (.putRun _ _ _ (by decide)), (SameInputs.of_traffic hwithin ho).trans (.putRun ho u y),
    ?_, fun x hx => ?_, fun f n hne => ?_⟩
  · rw [← runKeys_congr hsyn, State.runKeys, List.mem_map] at hr
    obtain ⟨x, hx, hkey⟩ := hr
    obtain ⟨hframe, hslice⟩ := Prod.mk.inj hkey
    exact (runKeys_putRun ho hx ⟨hover.frame.trans hframe.symm, hover.slice.trans hslice.symm⟩).trans (runKeys_congr hsyn o)
  · obtain rfl := List.mem_singleton.1 hx
    refine ⟨y, ?_, hover⟩
    rw [← hover.frame, ← hover.slice]
    exact State.run_putRun_self ho y
  · rw [State.run_putRun_ne ho y (by rw [hover.frame, hover.slice]; exact hne r List.mem_cons_self), State.run_congr hsyn]

/-- A copy that has ended, and then others of other slices. -/
theorem BankCopied.cons {rs : List SliceRun} (h : BankCopied s o b [r] t) (k : BankCopied t o b rs u)
    (hne : ∀ x ∈ rs, ¬(x.frame = r.frame ∧ x.slice = r.slice)) : BankCopied s o b (r :: rs) u where
  within := h.within.trans k.within
  same := h.same.trans k.same
  keys := k.keys.trans h.keys
  ended x hx := by
    obtain rfl | hx := List.mem_cons.1 hx
    · rw [k.others _ _ hne]
      exact h.ended x List.mem_cons_self
    · obtain ⟨y, hrun, hover⟩ := k.ended x hx
      exact ⟨y, hrun, hover.congr h.same (h.within.part (p := .mem) (by decide)) (h.within.part (p := .err) (by decide))⟩
  others f n hfn := by
    rw [k.others f n fun x hx => hfn x (List.mem_cons_of_mem _ hx),
      h.others f n fun x hx => List.mem_singleton.1 hx ▸ hfn r List.mem_cons_self]

theorem bankCopied_foldl (ho : o < 4) {rs : List SliceRun} (hd : (rs.map fun r => (r.frame, r.slice)).Nodup)
    (hmem : ∀ r ∈ rs, (r.frame, r.slice) ∈ s.runKeys o) :
    BankCopied s o b rs (rs.foldl (fun s r => s.endCopies o b r) s) := by
  induction rs generalizing s with
  | nil => exact ⟨.refl _ _ s, .refl o s, rfl, fun _ h => absurd h List.not_mem_nil, fun _ _ _ => rfl⟩
  | cons r rs ih =>
    obtain ⟨hr, hd⟩ := List.nodup_cons.1 hd
    have hone := bankCopied_one ho s b (hmem r List.mem_cons_self)
    refine hone.cons (ih hd fun x hx => ?_) fun x hx hkey => ?_
    · rw [hone.keys]
      exact hmem x (List.mem_cons_of_mem _ hx)
    · exact hr (List.mem_map.2 ⟨x, hx, by rw [hkey.1, hkey.2]⟩)

/-! ### The bank is no longer busy (R73) -/

/-- The slices that a bank is busy with. -/
def State.busyRuns (s : State) (o b : Nat) : List SliceRun := (s.out o).runs.filter fun r => r.busyWith b

/-- The copies of every slice from a bank have ended. -/
def State.copiesEnded (s : State) (o b : Nat) : State := (s.busyRuns o b).foldl (fun s r => s.endCopies o b r) s

theorem copiesEnded_spec (ho : o < 4) (hd : s.runsDistinct o) (b : Nat) : BankCopied s o b (s.busyRuns o b) (s.copiesEnded o b) :=
  bankCopied_foldl ho (List.Nodup.sublist (List.filter_sublist.map _) hd) fun _ hr => mem_runKeys (List.mem_filter.1 hr).1

/-- What has become of a slice once the copies from a bank have ended. -/
theorem run_copiesEnded (ho : o < 4) (hd : s.runsDistinct o) (b : Nat) (hr : r ∈ (s.out o).runs) :
    ∃ y, (s.copiesEnded o b).run o r.frame r.slice = some y ∧ CopiesOver s o b r y ∧ (r.busyWith b = false → y = r) := by
  have hcopied := copiesEnded_spec ho hd b
  cases hbusy : r.busyWith b with
  | true =>
    obtain ⟨y, hrun, hover⟩ := hcopied.ended r (List.mem_filter.2 ⟨hr, hbusy⟩)
    exact ⟨y, hrun, hover, fun h => by cases h⟩
  | false =>
    have hsame : (s.copiesEnded o b).run o r.frame r.slice = some r := by
      rw [hcopied.others _ _ fun x hx hkey => ?_]
      · exact State.run_of_mem hd hr
      · obtain ⟨hx, hxbusy⟩ := List.mem_filter.1 hx
        have hxr : s.run o x.frame x.slice = some x := State.run_of_mem hd hx
        rw [hkey.1, hkey.2, State.run_of_mem hd hr] at hxr
        rw [← Option.some.inj hxr, hbusy] at hxbusy
        cases hxbusy
    refine ⟨r, hsame, ⟨rfl, rfl, hbusy, fun _ _ _ => rfl, fun v hcopying hbank => ?_⟩, fun _ => rfl⟩
    rw [SliceRun.busyWith, hcopying, hbank, beq_self_eq_true] at hbusy
    cases hbusy

theorem idle_copiesEnded (ho : o < 4) (hd : s.runsDistinct o) (b : Nat) :
    ∀ x ∈ ((s.copiesEnded o b).out o).runs, x.busyWith b = false := by
  intro x hx
  have hkeys := (copiesEnded_spec ho hd b).keys
  have hd' : (s.copiesEnded o b).runsDistinct o := by
    change ((s.copiesEnded o b).runKeys o).Nodup
    rw [hkeys]
    exact hd
  obtain ⟨r, hr, hkey⟩ := List.mem_map.1 (hkeys ▸ mem_runKeys hx)
  obtain ⟨hframe, hslice⟩ := Prod.mk.inj hkey
  obtain ⟨y, hrun, hover, -⟩ := run_copiesEnded ho hd b hr
  rw [hframe, hslice, State.run_of_mem hd' hx] at hrun
  rw [Option.some.inj hrun]
  exact hover.idle

theorem bit_bankFlags (s : State) (o : Nat) (b : Fin 2) :
    (s.bankFlags o).bit R.SYN_STATUS [o] (2 + b.val) = (s.out o).runs.any fun r => r.busyWith b.val := by
  unfold State.bankFlags
  dsimp only
  match b with
  | 0 => exact (State.bit_setBit_ne _ _ _ _ _ (by decide) (by decide)).trans (State.bit_setBit_self _ _ _ _ _ (by decide))
  | 1 => exact State.bit_setBit_self _ _ _ _ _ (by decide)

/-! ### The tasks of the slices (R43) -/

theorem placeInputs_within (s : State) (q : Nat) (seq : Word) : ChangesWithin [.mem, .err] (fun _ => False) s (s.placeInputs q seq) := by
  unfold State.placeInputs
  split
  · exact .refl _ _ s
  · exact .foldl _ _ s fun s x _ => .foldl _ _ s fun s i _ => write_within s _ _ (by decide) (by decide)

theorem placeInputs_same (s : State) (q : Nat) (seq : Word) : SameInputs o s (s.placeInputs q seq) := by
  unfold State.placeInputs
  split
  · exact .refl o s
  · exact .foldl (fun s x => .foldl (fun s i => .write s _ _) _ s) _ s

/-- A task whose slice can be read only has its tensors placed. -/
theorem giveInputs_placed (hnone : r.copying = true → r.bank = b → s.inputsFail o r = none) :
    ChangesWithin [.mem, .err] (fun _ => False) s (s.giveInputs o b r) ∧ SameInputs o s (s.giveInputs o b r) := by
  have hstay : ChangesWithin [.mem, .err] (fun _ => False) s s ∧ SameInputs o s s := ⟨.refl _ _ s, .refl o s⟩
  unfold State.giveInputs
  split
  · next q seq _ =>
    split
    · next hbusy =>
      obtain ⟨hcopying, hbank⟩ := Bool.and_eq_true_iff.1 hbusy
      have hreads := hnone hcopying (beq_iff_eq.1 hbank)
      rw [State.inputsFail] at hreads
      rw [hreads]
      exact ⟨placeInputs_within s q seq, placeInputs_same s q seq⟩
    · exact hstay
  · exact hstay

theorem giveInputs_foldl {rs : List SliceRun} (hnone : ∀ x ∈ rs, x.copying = true → x.bank = b → s.inputsFail o x = none) :
    ChangesWithin [.mem, .err] (fun _ => False) s (rs.foldl (fun s r => s.giveInputs o b r) s) := by
  induction rs generalizing s with
  | nil => exact .refl _ _ s
  | cons r rs ih =>
    obtain ⟨hwithin, hsame⟩ := giveInputs_placed (hnone r List.mem_cons_self)
    exact hwithin.trans (ih fun x hx hcopying hbank => inputsFail_none hsame (hnone x (List.mem_cons_of_mem _ hx) hcopying hbank))

/-! ### The clause -/

theorem exec_bankCopyEnd (hl : s.isLive) (o : Fin 4) (b : Fin 2) : exec (.bankCopyEnd o b) s = .next
    (((s.busyRuns o.val b.val).foldl (fun s r => s.giveInputs o.val b.val r) ((s.copiesEnded o.val b.val).bankFlags o.val)).kept s) := by
  rw [show exec (.bankCopyEnd o b) s = execBankCopyEnd o b s from rfl, execBankCopyEnd, State.live_next s _ hl]
  rfl

theorem bankCopyEnd_completes (hl : s.isLive) {o : Fin 4} (hd : s.runsDistinct o.val) (b : Fin 2) (hr : r ∈ (s.out o.val).runs)
    (hnone : ∀ x ∈ (s.out o.val).runs, x.copying = true → x.bank = b.val → s.inputsFail o.val x = none) :
    completes (.bankCopyEnd o b) s [.free, .regs, .mem, .syn, .sct, .err, .sch] fun t => t.bit R.SYN_STATUS [o.val] (2 + b.val) = false
      ∧ ∃ y, t.run o.val r.frame r.slice = some y ∧ y.busyWith b.val = false ∧ (r.busyWith b.val = false → y = r)
          ∧ (∀ i, i < r.vectors.length → r.vectors.getD i 0 = s.byte (s.bankAddr o.val b.val + i) →
              y.vectors.getD i 0 = r.vectors.getD i 0)
          ∧ ∀ v, r.copying = true → r.bank = b.val → s.runView o.val r = some v →
              y.inputs.take 4 = [s.kfTensor v, s.flowTensor v, s.histTensor v, y.vectors] := by
  have hcopied := copiesEnded_spec o.isLt hd b.val
  have hflags := bankFlags_within (parts := [.regs]) (moved := fun _ => True) (s.copiesEnded o.val b.val) o.val (by decide) trivial
  have hgiven := giveInputs_foldl (b := b.val) (rs := s.busyRuns o.val b.val) fun x hx hcopying hbank =>
    inputsFail_none (hcopied.same.trans (.bankFlags o.isLt _)) (hnone x (List.mem_filter.1 hx).1 hcopying hbank)
  obtain ⟨y, hrun, hover, hsame⟩ := run_copiesEnded o.isLt hd b.val hr
  refine completes_of_parts (exec_bankCopyEnd hl o b) ?_ (by decide) ⟨?_, y, ?_, hover.idle, hsame, hover.vectors,
    fun v hcopying hbank hv => hover.inputs v hcopying hbank hv (hnone r hr hcopying hbank)⟩
  · exact changesOnly_trans (changesOnly_mono hcopied.within.parts (by decide)) (changesOnly_trans
      (changesOnly_mono hflags.parts (by decide)) (changesOnly_mono hgiven.parts (by decide)))
  · refine (hgiven.bit id _).trans ?_
    rw [bit_bankFlags, List.any_eq_false]
    exact fun x hx => Bool.eq_false_iff.1 (idle_copiesEnded o.isLt hd b.val x hx)
  · exact (State.run_congr (hgiven.part (p := .syn) (by decide)) _ _ _).trans hrun

/-- A bank that is busy with one slice only. -/
theorem busyRuns_one {b : Nat} (hd : s.runsDistinct o) (hr : r ∈ (s.out o).runs) (hbusy : r.busyWith b = true)
    (hone : ∀ x ∈ (s.out o).runs, x.busyWith b = true → x = r) : s.busyRuns o b = [r] := by
  have hnodup : (s.busyRuns o b).Nodup := (List.Nodup.of_map _ hd).filter _
  refine List.perm_singleton.1 ((List.perm_ext_iff_of_nodup hnodup (List.nodup_singleton r)).2 fun x => ?_)
  rw [State.busyRuns, List.mem_filter, List.mem_singleton]
  exact ⟨fun h => hone x h.1 h.2, fun h => h ▸ ⟨hr, hbusy⟩⟩

/-- A task whose slice the input stage cannot read ends (R23). -/
theorem bankCopyEnd_fails (hl : s.isLive) {o : Fin 4} (hd : s.runsDistinct o.val) (b : Fin 2) (hr : r ∈ (s.out o.val).runs) {q : Nat}
    {seq : Word} (hone : ∀ x ∈ (s.out o.val).runs, x.busyWith b.val = true → x = r) (hcopying : r.copying = true) (hbank : r.bank = b.val)
    (htask : r.task = some (q, seq)) (hfails : (s.inputsFail o.val r).isSome = true) :
    ∃ t, exec (.bankCopyEnd o b) s = .next t ∧ t.pending = s.pending ∧ t.task q seq = none := by
  have hcopied := copiesEnded_spec o.isLt hd b.val
  have hbusy : r.busyWith b.val = true := by simp [SliceRun.busyWith, hcopying, hbank]
  obtain ⟨⟨status, loc⟩, hfail⟩ := Option.isSome_iff_exists.1 hfails
  rw [← inputsFail_congr (hcopied.same.trans (.bankFlags o.isLt _)) (hcopied.within.part (p := .mem) (by decide))
    (hcopied.within.part (p := .err) (by decide)), State.inputsFail] at hfail
  have hgiven : ((s.copiesEnded o.val b.val).bankFlags o.val).giveInputs o.val b.val r
      = ((s.copiesEnded o.val b.val).bankFlags o.val).failEntry q seq status loc := by
    rw [State.giveInputs, htask]
    dsimp only
    rw [if_pos (by simp [hcopying, hbank]), hfail]
  have hexec := exec_bankCopyEnd hl o b
  rw [busyRuns_one hd hr hbusy hone, List.foldl_cons, List.foldl_nil, hgiven] at hexec
  exact ⟨_, hexec, rfl, task_failEntry _ q seq status loc⟩

end Sys2Proof.Machine
end

section
/-! SUPPORT. Rows that SYN writes, and the entries that it queues (R18, R42). -/

namespace Sys2Proof.Machine

variable {s t u : State} {o : Nat}

/-! ### Traffic leaves the queues alone -/

theorem queues_foldl {α : Type} {f : State → α → State} (hf : ∀ s x, (f s x).sch.queues = s.sch.queues) (xs : List α) (s : State) :
    (xs.foldl f s).sch.queues = s.sch.queues := by
  induction xs generalizing s with
  | nil => rfl
  | cons x xs ih => exact (ih _).trans (hf s x)

theorem queues_pmcAdd (s : State) (kind unit event : Nat) (part : Option Nat) (n : Nat) :
    (s.pmcAdd kind unit event part n).sch.queues = s.sch.queues := by
  have hone (s : State) (i : Nat) : (s.pmcOne i n).sch.queues = s.sch.queues := by
    unfold State.pmcOne
    extract_lets v counted flagged
    have hflagged : flagged.sch.queues = s.sch.queues := rfl
    split
    · rfl
    · split
      · exact congrArg SchState.queues (changesOnly_event flagged _ _ _ _ .sch (by decide))
      · exact hflagged
  unfold State.pmcAdd
  split
  · exact queues_foldl hone _ s
  · rfl

theorem queues_passOne (s : State) (p n : Nat) (borrowed : Bool) (g : Nat × Nat) :
    (s.passOne p n borrowed g).sch.queues = s.sch.queues := by
  unfold State.passOne
  dsimp only
  split
  · split
    · exact queues_pmcAdd _ _ _ _ _ _
    · rfl
  · rfl

theorem queues_passNow (s : State) (p n : Nat) (path : List (Nat × Nat)) : (s.passNow p n path).sch.queues = s.sch.queues := by
  have hpass (s : State) (borrowed : Bool) : (s.pass p n borrowed path).sch.queues = s.sch.queues :=
    queues_foldl (fun s g => queues_passOne s p n borrowed g) path s
  unfold State.passNow
  split
  · exact hpass s false
  · split
    · exact hpass s true
    · exact (queues_foldl (fun s g => show (s.putBucket { s.bucket g p with heldNow := true }).sch.queues = _ from rfl) path _).trans (hpass s false)

theorem queues_traffic (s : State) (p : Nat) (path : State → Nat → Nat → List (Nat × Nat)) (fuel a n : Nat) :
    (s.traffic p path fuel a n).sch.queues = s.sch.queues := by
  induction fuel generalizing s a n with
  | zero => rfl
  | succ fuel ih =>
    rw [State.traffic]
    split
    · rfl
    · exact (ih _ _ _).trans (queues_passNow s p _ _)

/-! ### Rows that SYN writes -/

/-- Rows have been written through the regulators: memory, errors that end, and traffic. -/
structure RowsWritten (s t : State) : Prop where
  within : ChangesWithin rowParts trafficRegs s t
  bad : ∀ w ∈ t.err.bad, w ∈ s.err.bad
  queues : t.sch.queues = s.sch.queues

namespace RowsWritten

theorem refl (s : State) : RowsWritten s s := ⟨.refl _ _ s, fun _ => id, rfl⟩

theorem trans (h : RowsWritten s t) (k : RowsWritten t u) : RowsWritten s u :=
  ⟨h.within.trans k.within, fun w hw => h.bad w (k.bad w hw), k.queues.trans h.queues⟩

theorem foldl {α : Type} {f : State → α → State} (hf : ∀ s x, RowsWritten s (f s x)) (xs : List α) (s : State) :
    RowsWritten s (xs.foldl f s) := by
  induction xs generalizing s with
  | nil => exact refl s
  | cons x xs ih => exact (hf s x).trans (ih _)

theorem draw (s : State) : RowsWritten s s.draw := ⟨.draw s (by decide), fun _ => id, rfl⟩

theorem writeRow (s : State) (ctx a : Nat) (bs : List Byte) : RowsWritten s (s.writeRow ctx a bs) where
  within := writeRow_within s ctx a bs
  bad := by
    rw [show (s.writeRow ctx a bs).err = (s.write a bs).err from (hubWrote_writeRow_within s ctx a bs).part (p := .err) (by decide)]
    exact bad_write s a bs
  queues := (queues_traffic _ _ _ _ _ _).trans (congrArg SchState.queues (changesOnly_write s a bs .sch (by decide)))

/-- What fitted in memory before, fits after. -/
theorem rowFits (h : RowsWritten s t) {c a n : Nat} (hc : c < 64) (hfit : s.rowFits c a n) : t.rowFits c a n :=
  ⟨((h.within.sameGrants (by decide) (by decide)).accessOk hc a n true).trans hfit.1,
    writeError_congr (h.within.part (p := .dev) (by decide)) h.bad hfit.2⟩

theorem synCtx (h : RowsWritten s t) (ho : o < 4) : t.synCtx o = s.synCtx o := by
  rw [State.synCtx, State.synCtx, h.within.fld fun hm => inputRegs_apart o ho _ (by simp [inputRegs]) (.inl hm)]

end RowsWritten

/-- A row of SYN that memory takes is written. -/
theorem synWrite_fits {a : Nat} {bs : List Byte} (h : s.rowFits (s.synCtx o) a bs.length) :
    s.synWrite o a bs = s.writeRow (s.synCtx o) a bs := by
  have hwrite : s.writeFor (s.synCtx o) a bs = .ok (s.write a bs) := by
    rw [State.writeFor, if_pos h.1, h.2]
  rw [State.synWrite, hwrite]
  rfl

theorem rowsWritten_synWrite (s : State) (o a : Nat) (bs : List Byte) : RowsWritten s (s.synWrite o a bs) := by
  by_cases h : s.rowFits (s.synCtx o) a bs.length
  · rw [synWrite_fits h]
    exact .writeRow s _ a bs
  · have hrefused : s.synWrite o a bs = s := by
      rw [State.synWrite, State.writeFor]
      split
      · next hok =>
        split at hok
        · next haccess =>
          split at hok
          · next herr => exact absurd ⟨haccess, herr⟩ h
          · cases hok
        · cases hok
      · rfl
    rw [hrefused]
    exact .refl s

/-! ### An entry that SYN queues (R42) -/

theorem rejectDoorbell_parts (s : State) (q : Nat) (count pLast : Word) (reason : Nat) :
    changesOnly trafficParts s (s.rejectDoorbell q count pLast reason) :=
  changesOnly_trans (changesOnly_mono (changesOnly_countSat s _ _ _ _ _ _) (by decide))
    (changesOnly_mono (changesOnly_event _ _ _ _ _) (by decide))

/-- A doorbell of a queue that takes entries moves no memory and nothing of SYN. -/
theorem doorbell_parts {q : Nat} (hq : ∀ x, s.queue q = some x → x.desc.cqOnly = false) (count : Word) :
    changesOnly trafficParts s (s.doorbell q count).1 := by
  have hput (x : Queue) : changesOnly trafficParts s (s.putQueue x) := changesOnly_mono (withSch_within s _).parts (by decide)
  have hreject {t : State} (ht : changesOnly trafficParts s t) (p : Word) (e v : Nat) :
      changesOnly trafficParts s (t.rejectDoorbell q count p e, v).1 := by
    dsimp only
    exact changesOnly_trans ht (rejectDoorbell_parts t q count p e)
  unfold State.doorbell
  extract_lets c resetting status
  split
  · exact changesOnly_refl _ s
  · split
    · split
      · exact changesOnly_refl _ s
      · exact hreject (ChangesWithin.draw (moved := fun _ => True) s (by decide)).parts _ _ _
    · next x hx =>
      split
      · exact hreject (changesOnly_refl _ s) _ _ _
      · split
        · next hcq => rw [hq x hx] at hcq; cases hcq
        · split
          · exact changesOnly_refl _ s
          · split
            · exact hput _
            · exact hreject (changesOnly_refl _ s) _ _ _

/-- An entry that SYN writes for an open queue stands in memory, whatever becomes of the doorbell. -/
theorem submitEntry_writes {qu : Queue} {bs : List Byte} (hq : ∀ x, s.queue qu.ident = some x → x.desc.cqOnly = false)
    (hwrite : s.writeError (qu.desc.subBase + 64 * (qu.pLast.toNat % qu.desc.size)) bs.length = none) :
    changesOnly rowParts s (s.submitEntry qu bs)
      ∧ ∀ x, (s.submitEntry qu bs).byte x = if qu.desc.subBase + 64 * (qu.pLast.toNat % qu.desc.size) ≤ x
          ∧ x < qu.desc.subBase + 64 * (qu.pLast.toNat % qu.desc.size) + bs.length then
        bs.getD (x - (qu.desc.subBase + 64 * (qu.pLast.toNat % qu.desc.size))) 0 else s.byte x := by
  have hw := changesOnly_write s (qu.desc.subBase + 64 * (qu.pLast.toNat % qu.desc.size)) bs
  have hq' : ∀ x, (s.write (qu.desc.subBase + 64 * (qu.pLast.toNat % qu.desc.size)) bs).queue qu.ident = some x → x.desc.cqOnly = false := by
    rw [State.queue, show (s.write _ bs).sch = s.sch from hw .sch (by decide)]
    exact hq
  have hrung := doorbell_parts hq' (qu.pLast + 1)
  refine ⟨changesOnly_trans (changesOnly_mono hw (by decide)) (changesOnly_mono hrung (by decide)), fun x => ?_⟩
  rw [← State.byte_write s _ x bs hwrite, State.submitEntry, State.byte, State.byte]
  rw [show ((s.write _ bs).doorbell _ _).1.mem = (s.write _ bs).mem from hrung .mem (by decide)]

end Sys2Proof.Machine
end

section
/-! PROOFS. The launch of an adaptation job (R81). -/

namespace Sys2Proof.Machine

variable {s t : State} {o : Fin 4} {w : AdaptWork} {q : Queue}

/-! ### The descriptor and the entry in memory (Tables 2.15, 3.8) -/

theorem length_jobDescriptor (s : State) (o : Nat) (w : AdaptWork) (target handle : Nat) :
    (s.jobDescriptor o w target handle).length = 64 := by
  simp only [State.jobDescriptor, List.length_append, leBytes_length, zeros, List.length_replicate, List.length_map, rangeFrom_length]

theorem length_jobEntry (s : State) (o work : Nat) (ref : Word) : (s.jobEntry o work ref).length = 64 := rfl

theorem jobDescriptor_words (s : State) (o : Nat) (w : AdaptWork) (target handle : Nat) :
    ((s.jobDescriptor o w target handle).drop 0).take 4 = leBytes 4 w.ref.toNat
      ∧ ((s.jobDescriptor o w target handle).drop 4).take 1 = leBytes 1 o
      ∧ ((s.jobDescriptor o w target handle).drop 8).take 1 = leBytes 1 target := by
  simp [State.jobDescriptor, List.drop_append, List.drop_of_length_le]

theorem jobEntry_words (s : State) (o work : Nat) (ref : Word) : ((s.jobEntry o work ref).drop 0).take 1 = leBytes 1 1
    ∧ ((s.jobEntry o work ref).drop 4).take 4 = leBytes 4 ref.toNat ∧ ((s.jobEntry o work ref).drop 24).take 8 = leBytes 8 work :=
  ⟨rfl, rfl, rfl⟩

/-- The descriptor of a job, read from memory. -/
theorem jobDescriptor_le {work target handle : Nat} (h : t.bytes (work + 0x40) 64 = s.jobDescriptor o.val w target handle)
    (htarget : target < 256) :
    t.le (work + 0x40) 4 = w.ref.toNat ∧ t.le (work + 0x44) 1 = o.val ∧ t.le (work + 0x48) 1 = target := by
  obtain ⟨href, hout, hbuffer⟩ := jobDescriptor_words s o.val w target handle
  have ho := o.isLt
  have hlt := w.ref.isLt
  refine ⟨(State.le_of_bytes (k := 0) h (by decide) href).trans ?_, (State.le_of_bytes (k := 4) h (by decide) hout).trans ?_,
    (State.le_of_bytes (k := 8) h (by decide) hbuffer).trans ?_⟩ <;>
  exact Nat.mod_eq_of_lt (by omega)

/-- The entry of a job, read from memory. -/
theorem jobEntry_le {a work : Nat} {ref : Word} (h : t.bytes a 64 = s.jobEntry o.val work ref) (hwork : work < 2 ^ 64) :
    t.le a 1 = 1 ∧ t.le (a + 4) 4 = ref.toNat ∧ t.le (a + 24) 8 = work := by
  obtain ⟨hop, href, haddr⟩ := jobEntry_words s o.val work ref
  have hlt := ref.isLt
  refine ⟨State.le_of_bytes (k := 0) h (by decide) hop, (State.le_of_bytes h (by decide) href).trans ?_,
    (State.le_of_bytes h (by decide) haddr).trans ?_⟩ <;>
  exact Nat.mod_eq_of_lt (by omega)

theorem rdAddr_lt (s : State) (lo hi : Reg) (ix : List Nat) : s.rdAddr lo hi ix < 2 ^ 64 := by
  have hlo := (s.rd lo ix).isLt
  have hhi : bits (s.rd hi ix) 15 0 < 2 ^ 16 := Nat.mod_lt _ (by decide)
  rw [State.rdAddr]
  omega

/-! ### The launch -/

/-- Where the work of an output's adaptation lies. -/
abbrev State.workAddr (s : State) (o : Nat) : Nat := s.rdAddr R.SYN_ADP_WORK_LO R.SYN_ADP_WORK_HI [o]

/-- The descriptor of a job, with the report handle that is drawn. -/
def State.launchDescriptor (s : State) (o : Nat) (w : AdaptWork) (target : Nat) : List Byte :=
  s.jobDescriptor o w target (s.drawn 64).toNat

/-- The descriptor is written. -/
def State.described (s : State) (o : Nat) (w : AdaptWork) (target work : Nat) : State :=
  s.draw.synWrite o (work + 0x40) (s.launchDescriptor o w target)

/-- An output whose job is outstanding. -/
def SynOut.launched (x : SynOut) (w : AdaptWork) (q : Queue) (target : Nat) : SynOut :=
  { x with work := some { w with job := some (q.ident, q.pLast) }, claim := target, refNumber := w.ref + 1 }

/-- The job is outstanding, and then its output shows so. -/
def State.jobTaken (s : State) (o : Nat) (w : AdaptWork) (q : Queue) (target : Nat) : State := s.setOut o ((s.out o).launched w q target)
def State.jobOut (s : State) (o : Nat) (w : AdaptWork) (q : Queue) (target : Nat) : State :=
  (((s.jobTaken o w q target).setBit R.SYN_ADP_STATUS [o] 7 false).setBit R.SYN_ADP_STATUS [o] 3 true).adpStatus o

/-- The state in which the entry of the job is written. -/
def State.jobReady (s : State) (o : Nat) (w : AdaptWork) (q : Queue) (target work : Nat) : State :=
  ((s.fillScene o w).described o w target work).jobOut o w q target

/-- A reference whose job can be launched. -/
structure JobDue (s : State) (o : Fin 4) (w : AdaptWork) (q : Queue) : Prop where
  live : s.isLive
  work : (s.out o.val).work = some w
  opened : s.openQueue (s.fld R.SYN_QUEUE [o.val] 29 16) = some q
  ident : q.ident = s.fld R.SYN_QUEUE [o.val] 29 16
  idle : w.job = none
  captured : w.left = []
  keyframe : (s.out o.val).kfComplete w.keyframe = true
  free : s.bufferFree o.val (s.adpTarget o.val) = true
  mode : s.adpMode o.val = 2

/-- Is a reference not yet to be launched? -/
def State.jobWaits (s : State) (o : Nat) (w : AdaptWork) : Bool :=
  w.job.isSome || !w.left.isEmpty || !(s.out o).kfComplete w.keyframe || !s.bufferFree o (s.adpTarget o) || s.adpMode o != 2

/-- The entry of the job. -/
def State.launchEntry (s : State) (o : Nat) (w : AdaptWork) (q : Queue) (target work : Nat) : List Byte :=
  (((s.fillScene o w).described o w target work).jobTaken o w q target).jobEntry o work w.ref

theorem length_launchEntry (s : State) (o : Nat) (w : AdaptWork) (q : Queue) (target work : Nat) :
    (s.launchEntry o w q target work).length = 64 := length_jobEntry _ _ _ _

/-- The job is launched. -/
def State.jobLaunched (s : State) (o : Nat) (w : AdaptWork) (q : Queue) : State :=
  (s.jobReady o w q (s.adpTarget o) (s.workAddr o)).submitEntry q (s.launchEntry o w q (s.adpTarget o) (s.workAddr o))

theorem exec_adaptJobLaunch (hl : s.isLive) (hw : (s.out o.val).work = some w)
    (hq : s.openQueue (s.fld R.SYN_QUEUE [o.val] 29 16) = some q) :
    exec (.adaptJobLaunch o) s = .next ((if s.jobWaits o.val w then s else s.jobLaunched o.val w q).kept s) := by
  rw [show exec (.adaptJobLaunch o) s = execAdaptJobLaunch o s from rfl, execAdaptJobLaunch, State.live_next s _ hl]
  extract_lets o' x target
  rw [show x.work = some w from hw, hq]
  rfl

/-- A reference whose target buffer is not free waits. -/
theorem exec_adaptJobLaunch_waits (hl : s.isLive) (hw : (s.out o.val).work = some w)
    (hq : s.openQueue (s.fld R.SYN_QUEUE [o.val] 29 16) = some q) (hbusy : s.bufferFree o.val (s.adpTarget o.val) = false) :
    exec (.adaptJobLaunch o) s = .next s := by
  rw [exec_adaptJobLaunch hl hw hq, if_pos (by simp [State.jobWaits, hbusy])]
  rfl

theorem exec_adaptJobLaunch_due (h : JobDue s o w q) :
    exec (.adaptJobLaunch o) s = .next ((s.jobLaunched o.val w q).kept s) := by
  rw [exec_adaptJobLaunch h.live h.work h.opened, if_neg (by simp [State.jobWaits, h.idle, h.captured, h.keyframe, h.free, h.mode])]

theorem rowsWritten_fillScene (s : State) (o : Nat) (w : AdaptWork) : RowsWritten s (s.fillScene o w) := by
  unfold State.fillScene
  split
  · exact .foldl (fun s j => rowsWritten_synWrite s _ _ _) _ s
  · exact .refl s

/-- The descriptor is in memory, which differs elsewhere by the captures only. -/
theorem described_spec {target work : Nat} (hfit : s.rowFits (s.synCtx o.val) (work + 0x40) 64) :
    RowsWritten s ((s.fillScene o.val w).described o.val w target work)
      ∧ ((s.fillScene o.val w).described o.val w target work).bytes (work + 0x40) 64
        = (s.fillScene o.val w).launchDescriptor o.val w target := by
  have hdrawn := (rowsWritten_fillScene s o.val w).trans (.draw _)
  have hlen : ((s.fillScene o.val w).launchDescriptor o.val w target).length = 64 := length_jobDescriptor _ _ _ _ _
  have hfits : (s.fillScene o.val w).draw.rowFits ((s.fillScene o.val w).draw.synCtx o.val) (work + 0x40)
      ((s.fillScene o.val w).launchDescriptor o.val w target).length := by
    rw [hdrawn.synCtx o.isLt, hlen]
    exact hdrawn.rowFits (synCtx_lt s o.val) hfit
  rw [State.described, synWrite_fits hfits]
  have hbytes := bytes_writeRow hfits
  rw [hlen] at hbytes
  exact ⟨hdrawn.trans (.writeRow _ _ _ _), hbytes⟩

theorem jobOut_within (s : State) (o : Nat) (w : AdaptWork) (q : Queue) (target : Nat) :
    ChangesWithin [.regs, .syn] (fun _ => True) s (s.jobOut o w q target) :=
  .trans (.trans (.trans (.setOut _ _ _ (by decide)) (.setBit _ _ _ _ _ (by decide) trivial)) (.setBit _ _ _ _ _ (by decide) trivial))
    (adpStatus_within _ _ (by decide) trivial)

theorem out_jobOut (s : State) (o : Fin 4) (w : AdaptWork) (q : Queue) (target : Nat) :
    (s.jobOut o.val w q target).out o.val = (s.out o.val).launched w q target :=
  (State.out_congr (adpStatus_syn _ _) o.val).trans (State.out_setOut_self s _ o.isLt)

theorem adpTarget_lt (s : State) (o : Nat) : s.adpTarget o < 256 := by
  unfold State.adpTarget
  split <;> decide

theorem adaptJobLaunch_completes (h : JobDue s o w q) :
    let target := s.adpTarget o.val
    let work := s.workAddr o.val
    let a := q.desc.subBase + 64 * (q.pLast.toNat % q.desc.size)
    s.rowFits (s.synCtx o.val) (work + 0x40) 64 → s.writeError a 64 = none → (work + 0x80 ≤ a ∨ a + 64 ≤ work + 0x40) →
    completes (.adaptJobLaunch o) s [.free, .regs, .mem, .err, .syn, .sct, .sch] fun t => (t.out o.val).claim = target
      ∧ (t.out o.val).refNumber = w.ref + 1 ∧ (t.out o.val).work = some { w with job := some (q.ident, q.pLast) }
      ∧ t.le (work + 0x40) 4 = w.ref.toNat ∧ t.le (work + 0x44) 1 = o.val ∧ t.le (work + 0x48) 1 = target
      ∧ t.le a 1 = 1 ∧ t.le (a + 4) 4 = w.ref.toNat ∧ t.le (a + 24) 8 = work := by
  intro target work a hfit herr hapart
  obtain ⟨hrows, hdescriptor⟩ := described_spec (w := w) (target := target) hfit
  have hjob := jobOut_within ((s.fillScene o.val w).described o.val w target work) o.val w q target
  have hwithin := (hrows.within.mono (more := [.free, .regs, .mem, .err, .syn, .sct, .sch]) (wider := fun _ => True) (by decide)
    fun _ _ => trivial).trans (hjob.mono (by decide) fun _ => id)
  have hqueue : ∀ x, (s.jobReady o.val w q target work).queue q.ident = some x → x.desc.cqOnly = false := by
    obtain ⟨hq, -, hcq, -⟩ := openQueue_some h.opened
    have hsch : (s.jobReady o.val w q target work).sch = ((s.fillScene o.val w).described o.val w target work).sch :=
      hjob.part (p := .sch) (by decide)
    rw [State.queue, hsch, hrows.queues, ← State.queue, h.ident, hq]
    exact fun x hx => Option.some.inj hx ▸ hcq
  have herror : (s.jobReady o.val w q target work).writeError a 64 = none := by
    have hbad : (s.jobReady o.val w q target work).err = ((s.fillScene o.val w).described o.val w target work).err :=
      hjob.part (p := .err) (by decide)
    refine writeError_congr (hwithin.part (p := .dev) (by decide)) ?_ herr
    exact fun x hx => hrows.bad x (hbad ▸ hx)
  have hlen := length_launchEntry s o.val w q target work
  obtain ⟨hparts, hbyte⟩ := submitEntry_writes (bs := s.launchEntry o.val w q target work) hqueue (hlen ▸ herror)
  rw [hlen] at hbyte
  have hkeep (x : Nat) : (s.jobReady o.val w q target work).byte x = ((s.fillScene o.val w).described o.val w target work).byte x :=
    byte_of_part hjob (by decide) x
  have hdesc : (s.jobLaunched o.val w q).bytes (work + 0x40) 64 = (s.fillScene o.val w).launchDescriptor o.val w target := by
    rw [← hdescriptor]
    refine State.bytes_congr fun x hle hlt => ?_
    rw [← hkeep]
    exact (hbyte x).trans (if_neg (by omega))
  have hentry : (s.jobLaunched o.val w q).bytes a 64 = s.launchEntry o.val w q target work := by
    rw [← hlen]
    refine State.bytes_eq_of_byte fun i hi => (hbyte (a + i)).trans ?_
    rw [if_pos (by omega), Nat.add_sub_cancel_left]
  have hout : (s.jobLaunched o.val w q).out o.val = _ := (State.out_congr (hparts .syn (by decide)) o.val).trans
    (out_jobOut ((s.fillScene o.val w).described o.val w target work) o w q target)
  obtain ⟨href, hname, hbuffer⟩ := jobDescriptor_le hdesc (adpTarget_lt s o.val)
  obtain ⟨hop, htag, haddr⟩ := jobEntry_le hentry (rdAddr_lt _ _ _ _)
  exact completes_of_parts (exec_adaptJobLaunch_due h) (changesOnly_trans hwithin.parts (changesOnly_mono hparts (by decide))) (by decide)
    ⟨congrArg SynOut.claim hout, congrArg SynOut.refNumber hout, congrArg SynOut.work hout, href, hname, hbuffer,
      jobEntry_le hentry (rdAddr_lt _ _ _ _)⟩

end Sys2Proof.Machine
end

section
/-! PROOFS. The obligation about the settings of an output and its adaptation. -/

namespace Sys2Proof.Machine

variable {s : State} {o : Fin 4}

/-- A report that no outstanding job awaits, or that is not finite, is not accepted. -/
theorem acceptsReport_false {ref lossB : Word} {w : AdaptWork} (h : w.job = none ∨ w.ref ≠ ref
    ∨ s.bit R.SYN_ADP_STATUS [o.val] 3 = false ∨ (flOf lossB).isFinite = false) : s.acceptsReport o.val w ref lossB = false := by
  rw [State.acceptsReport]
  obtain h | h | h | h := h <;> simp [h]

/-- The report of the outstanding job is accepted. -/
theorem acceptsReport_true {ref lossB : Word} {w : AdaptWork} (hjob : w.job.isSome = true) (href : w.ref = ref)
    (hbusy : s.bit R.SYN_ADP_STATUS [o.val] 3 = true) (hfin : (flOf lossB).isFinite = true) : s.acceptsReport o.val w ref lossB = true := by
  simp [State.acceptsReport, hjob, href, hbusy, hfin]

end Sys2Proof.Machine

open Sys2Proof Sys2Proof.Machine

/-- Settles O7: each clause is the lemma of its instruction. A check, a copy from a bank and a launch go step by step through what the
model does with the state; a report and a timeout go by the branches of the acceptance and of the failure of a job. -/
theorem synthesisIsConfiguredAndAdapted : Obligations.SynthesisIsConfiguredAndAdapted := by
  unfold Obligations.SynthesisIsConfiguredAndAdapted
  refine ⟨?enable, ?check, ?idle, ?disable, ?locked, ?tested, ?publish, ?copies, ?launch, ?ignored, ?bad, ?accepted, ?timeout, ?rearm, ?mode⟩
  case enable => exact fun s o v hl => synEnable_completes hl v
  case check => exact fun s o h hl hrun => ⟨checkFailed_completes hl h hrun, checkPassed_completes hl h hrun⟩
  case idle => exact fun s o h hl hidle => exec_synEnableCheckEnd_idle hl h hidle
  case disable => exact fun s o v hl htask hd => synDisable_completes hl v htask hd
  case locked => exact fun s o reg v hl => ⟨synLockedWrite_refused hl reg v, synLockedWrite_taken hl reg v⟩
  case tested => exact fun s o reg v hl => ⟨synTestedWrite_refused hl reg v, synTestedWrite_taken hl reg v⟩
  case publish => exact fun s o b hl => bankPublish_completes hl b
  case copies =>
    exact fun s o b r hl hd hr => ⟨bankCopyEnd_completes hl hd b hr, fun q seq hone hcopying hbank htask hfails _ =>
      bankCopyEnd_fails hl hd b hr hone hcopying hbank htask hfails⟩
  case launch =>
    intro s o w q hl hw target work a hopen hident
    refine ⟨exec_adaptJobLaunch_waits hl hw hopen, fun hjob hleft hkf hfree hmode haccess herr => ?_⟩
    exact adaptJobLaunch_completes ⟨hl, hw, hopen, hident, hjob, hleft, hkf, hfree, hmode⟩ ⟨haccess, herr⟩
  case ignored => exact fun s o ref lossA lossB flags hl hign => adaptReport_ignored hl hign lossA lossB flags
  case bad =>
    exact fun s o ref lossA lossB flags hl hign hbad =>
      adaptReport_bad hl hign (fun w hw => acceptsReport_false (hbad w hw)) lossA flags
  case accepted =>
    intro s o ref lossA lossB flags w hl x hign hw hjob href hbusy hfin
    have hdue : ReportDue s o ref lossB w := ⟨hl, hign, hw, acceptsReport_true hjob href hbusy hfin⟩
    exact ⟨adaptReport_modeOne hdue lossA flags, adaptReport_reverts hdue lossA flags, adaptReport_kept hdue lossA flags⟩
  case timeout => exact fun s o w hl hw hjob => adaptJobTimeout_completes hl hw hjob
  case rearm => exact fun s o hl => adaptRearm_completes hl o
  case mode => exact fun s o m hl => adaptModeWrite_completes hl o m
end

section
/-! PROOFS. Slots and hampers of a task program: how an instruction finds them, and what writing one back leaves. -/

namespace Sys2Proof.Machine

/-! ### Changes of one part -/

theorem changesOnly_withSch (s : State) (x : SchState) : changesOnly [.sch] s (s.withSch x) := by
  intro p hp
  cases p
  case sch => simp at hp
  all_goals rfl

theorem changesOnly_withFree (s : State) (k : Nat) : changesOnly [.free] s (s.withFree k) := by
  intro p hp
  cases p
  case free => simp at hp
  all_goals rfl

/-! ### Lists in which what passes a test is replaced -/

section
variable {α : Type} {p q : α → Bool} {new : α}

theorem find?_replace_self (hnew : p new = true) (xs : List α) :
    (xs.map fun z => if p z then new else z).find? p = (xs.find? p).map fun _ => new := by
  have hsame : (p ∘ fun z => if p z then new else z) = p := by
    funext z
    simp only [Function.comp_apply]
    split <;> simp_all
  rw [List.find?_map, hsame]
  cases hf : xs.find? p with
  | none => rfl
  | some z => simp [List.find?_some hf]

theorem find?_replace_apart (hnew : q new = false) (hapart : ∀ z, p z = true → q z = false) (xs : List α) :
    (xs.map fun z => if p z then new else z).find? q = xs.find? q := by
  have hsame : (q ∘ fun z => if p z then new else z) = q := by
    funext z
    simp only [Function.comp_apply]
    split <;> simp_all
  rw [List.find?_map, hsame]
  cases hf : xs.find? q with
  | none => rfl
  | some z =>
    have hz : p z = false := Bool.eq_false_iff.2 fun hz => by simpa [hapart z hz] using List.find?_some hf
    simp [hz]

end

/-! ### Slots -/

section
variable {s : State} {core i : Nat} {x y : Slot} {n : SlotName}

/-- The slot found at a place is there. -/
theorem slotAt_place (h : s.slotAt core i = some x) : x.core = core ∧ x.idx = i := by
  simpa using List.find?_some h

/-- A slot that is there already, written back with other contents, is found in its place. -/
theorem slotAt_putSlot (h : (s.slotAt core i).isSome = true) (hy : y.core = core ∧ y.idx = i) :
    (s.putSlot y).slotAt core i = some y := by
  obtain ⟨rfl, rfl⟩ := hy
  obtain ⟨x, hx⟩ := Option.isSome_iff_exists.1 h
  exact (find?_replace_self (by simp) s.sch.slots).trans (congrArg _ hx)

/-- A slot written back leaves what is found in every other place. -/
theorem slotAt_putSlot_ne (h : ¬(y.core = core ∧ y.idx = i)) : (s.putSlot y).slotAt core i = s.slotAt core i := by
  refine find?_replace_apart (Bool.eq_false_iff.2 fun hy => h (by simpa using hy)) (fun z hz => ?_) s.sch.slots
  obtain ⟨hc, hi⟩ : z.core = y.core ∧ z.idx = y.idx := by simpa using hz
  exact Bool.eq_false_iff.2 fun hz => h (by simpa [hc, hi] using hz)

/-- A running slot is in its place. -/
theorem slotAt_of_running (h : s.runningSlot core i = some x) : s.slotAt core i = some x := by
  unfold State.runningSlot at h
  split at h
  next z hz =>
    split at h
    · rw [hz, h]
    · cases h
  next => cases h

theorem slotAt_of_slotNamed (h : s.slotNamed n = some x) : s.slotAt (coreId n.at_) n.slot.val = some x := slotAt_of_running h

/-- A slot that a command names runs, and is live. -/
theorem slotNamed_running (h : s.slotNamed n = some x) :
    x.phase = .live ∧ x.halted = false ∧ s.coreRuns (coreId n.at_) = some n.slot.val := by
  unfold State.slotNamed State.runningSlot at h
  split at h
  next z hz =>
    split at h
    next hl =>
      cases h
      simpa [and_assoc] using hl
    · cases h
  next => cases h

theorem changesOnly_putSlot (s : State) (x : Slot) : changesOnly [.sch] s (s.putSlot x) := changesOnly_withSch _ _

/-- An instruction that leaves a state, and in it writes its slot back with another image, completes. -/
theorem slotCompletes_of_putSlot {c : Instr} {t : State} {parts : List Part} {post : Slot → State → Prop}
    (he : exec c s = .next ((t.putSlot y).kept s)) (ht : changesOnly parts s t)
    (hp : Part.queue ∉ parts ∧ Part.dev ∉ parts ∧ Part.sch ∈ parts) (hx : s.slotAt (coreId n.at_) n.slot.val = some x)
    (hslots : t.sch.slots = s.sch.slots) (hy : y = { x with image := y.image }) (hpost : post y (t.putSlot y)) :
    slotCompletes c s n x parts post := by
  have hput : changesOnly parts s (t.putSlot y) :=
    changesOnly_trans ht (changesOnly_mono (changesOnly_putSlot t y) (by simpa using hp.2.2))
  have hplace : y.core = coreId n.at_ ∧ y.idx = n.slot.val := hy ▸ slotAt_place (s := s) (x := x) hx
  refine completes_of_parts he hput ⟨hp.1, hp.2.1⟩ ⟨y, slotAt_putSlot ?_ hplace, hy, hpost⟩
  rw [State.slotAt, hslots]
  exact Option.isSome_iff_exists.2 ⟨x, hx⟩

end

/-! ### Hampers -/

section
variable {s : State} {n : HamperName} {x : Slot} {h : Hamper}

/-- A hamper that executes instructions does so, or ends its task. -/
theorem onHamper_eq (hh : s.onHamperOf n x h) (f : Slot → Hamper → Try State) : s.onHamper n f = s.orEnd x (f x h) := by
  obtain ⟨hx, hf, hw⟩ := hh
  simp [State.onHamper, hx, hf, hw]

/-- Registers of a slot without errors are sound. -/
theorem regsSound_of_none (hb : x.image.badRegs = []) (rs : List Nat) : x.regsSound h rs = true := by
  simp [Slot.regsSound, hb]

theorem onReading_eq (hh : s.atHamper n x h) (rs : List Nat) (f : Slot → Hamper → Try State) :
    s.onReading n rs f = s.orEnd x (f x h) := by
  rw [State.onReading, onHamper_eq hh.1, if_pos (regsSound_of_none hh.2 rs)]

/-- An instruction that reads a register in error ends the task of its slot (R431). -/
theorem onReading_error (hh : s.onHamperOf n x h) {rs : List Nat} (hr : x.regsSound h rs = false) (f : Slot → Hamper → Try State) :
    s.onReading n rs f = s.endSlot x 0x11 := by
  rw [State.onReading, onHamper_eq hh, if_neg (by simp [hr])]
  rfl

/-- The end of the task of a slot takes it from the task list. -/
theorem task_endSlot {u : Task} (hu : s.slotTask x = some u) (status : Nat) (loc : Option Nat) :
    (s.endSlot x status loc).task u.qid u.entry.seq = none := by
  rw [State.endSlot, hu]
  exact task_endTask s u status loc

theorem lane_lt {l : Nat} (hl : l ∈ h.lanes) : l < 32 := by
  have := (mem_rangeFrom 0 32 l).1 (List.mem_filter.1 hl).1
  omega

end

/-! ### Thread registers -/

/-- The slot differs from `x` in its thread registers at most. -/
def RegsAlone (x y : Slot) : Prop := y = { x with image := { x.image with regs := y.image.regs } }

namespace RegsAlone
variable {x y z : Slot}

theorem refl (x : Slot) : RegsAlone x x := rfl

theorem trans (h₁ : RegsAlone x y) (h₂ : RegsAlone y z) : RegsAlone x z := by
  rw [RegsAlone] at *
  rw [h₂, h₁]

theorem regsOnly (h : RegsAlone x y) : regsOnly x y := congrArg Slot.image h

theorem image (h : RegsAlone x y) : y = { x with image := y.image } := by
  rw [h]

theorem badRegs (h : RegsAlone x y) : y.image.badRegs = x.image.badRegs := by
  rw [h]

theorem setReg (hb : x.image.badRegs = []) (h lane r : Nat) (v : Word) : RegsAlone x (x.setReg h lane r v) := by
  simp [RegsAlone, Slot.setReg, hb]

theorem lanewise (hb : x.image.badRegs = []) (h : Hamper) (rd : Nat) (f : Nat → Word) : RegsAlone x (x.lanewise h rd f) := by
  unfold Slot.lanewise
  generalize h.lanes = ls
  induction ls generalizing x with
  | nil => exact refl x
  | cons l ls ih =>
    have hone := setReg hb h.ident l rd (f l)
    exact hone.trans (ih (hone.badRegs.trans hb))

end RegsAlone

/-- The key of a thread register names its hamper, lane and register. -/
theorem regKey_inj {g h l k r q : Nat} (hl : l < 32) (hk : k < 32) (hr : r < 64) (hq : q < 64) :
    (g * 32 + l) * 64 + r = (h * 32 + k) * 64 + q ↔ g = h ∧ l = k ∧ r = q := by
  omega

/-- What a thread register holds after a write of one. -/
theorem reg_setReg (x : Slot) {g h l k r q : Nat} (v : Word) (hl : l < 32) (hk : k < 32) (hr : r < 64) (hq : q < 64) :
    (x.setReg h k q v).reg g l r = if g = h ∧ l = k ∧ r = q then v else x.reg g l r := by
  by_cases hsame : g = h ∧ l = k ∧ r = q
  · obtain ⟨rfl, rfl, rfl⟩ := hsame
    simp [Slot.reg, Slot.setReg]
  · rw [if_neg hsame]
    simp only [Slot.reg, Slot.setReg]
    rw [cfgGet_cfgSet_ne]
    exact fun he => hsame ((regKey_inj hl hk hr hq).1 he)

/-- What a thread register holds after every active thread has written one. -/
theorem reg_lanewise (x : Slot) (h : Hamper) {rd g l r : Nat} (f : Nat → Word) (hl : l < 32) (hr : r < 64) (hrd : rd < 64) :
    (x.lanewise h rd f).reg g l r = if g = h.ident ∧ l ∈ h.lanes ∧ r = rd then f l else x.reg g l r := by
  have hlanes : ∀ k ∈ h.lanes, k < 32 := fun k hk => lane_lt hk
  unfold Slot.lanewise
  generalize h.lanes = ls at hlanes ⊢
  induction ls generalizing x with
  | nil => simp
  | cons k ls ih =>
    rw [List.foldl_cons, ih _ fun j hj => hlanes j (List.mem_cons_of_mem _ hj),
      reg_setReg x (f k) hl (hlanes k List.mem_cons_self) hr hrd]
    by_cases hk : l = k
    · subst hk
      by_cases hg : g = h.ident ∧ r = rd <;> simp [hg]
      intro hg' _ hr'
      exact absurd ⟨hg', hr'⟩ hg
    · simp [hk]

/-- Every active thread's write of a register, as the claims state it. -/
theorem regWritten_lanewise (x : Slot) (h : Hamper) (rd : Fin 64) (f : Nat → Word) : regWritten h rd.val f x (x.lanewise h rd.val f) := by
  refine ⟨fun l hl => ?_, fun g l r hl hr hne => ?_⟩
  · rw [reg_lanewise x h f (lane_lt hl) rd.isLt rd.isLt, if_pos ⟨rfl, hl, rfl⟩]
  · rw [reg_lanewise x h f hl hr rd.isLt, if_neg hne]

end Sys2Proof.Machine
end

section
/-! PROOFS. Arithmetic, conversion and exchange in the SIMT unit (R95, R96, R131, R134). -/

namespace Sys2Proof.Machine

/-! ### Sums and masks over the lanes -/

/-- The sum of the first `k` words of a list. -/
def sumTo (v : List Word) (k : Nat) : Word := ∑ i ∈ Finset.range k, v.getD i 0

theorem mapPlaces_length {α β : Type} (f : Nat → α → β) (i : Nat) (xs : List α) : (mapPlaces f i xs).length = xs.length := by
  induction xs generalizing i with
  | nil => rfl
  | cons x xs ih => simp [mapPlaces, ih]

/-- The element at a place of a list mapped with its places. -/
theorem getElem?_mapPlaces {α β : Type} (f : Nat → α → β) (i : Nat) (xs : List α) (k : Nat) :
    (mapPlaces f i xs)[k]? = xs[k]?.map (f (i + k)) := by
  induction xs generalizing i k with
  | nil => simp [mapPlaces]
  | cons x xs ih =>
    cases k with
    | zero => simp [mapPlaces]
    | succ k => simp [mapPlaces, ih, Nat.add_assoc, Nat.add_comm 1 k]

/-- One step of a reduction that adds halves the number of words that hold the sum (R96). -/
theorem sumTo_reduceStep (k : Nat) {v : List Word} (hv : 2 * k ≤ v.length) : sumTo (reduceStep (· + ·) k v) k = sumTo v (2 * k) := by
  rw [two_mul, sumTo, sumTo, Finset.sum_range_add, ← Finset.sum_add_distrib]
  refine Finset.sum_congr rfl fun i hi => ?_
  have hi := Finset.mem_range.1 hi
  have h0 : i < v.length := by omega
  have h1 : i + k < v.length := by omega
  simp [reduceStep, List.getD_eq_getElem?_getD, getElem?_mapPlaces, h0, h1, hi, Nat.add_comm k i]

theorem reduceStep_length (op : Word → Word → Word) (k : Nat) (v : List Word) : (reduceStep op k v).length = v.length :=
  mapPlaces_length _ _ _

/-- The reduction tree that adds delivers the sum of the 32 lanes. -/
theorem reduceTree_add {v : List Word} (hv : v.length = 32) : reduceTree (· + ·) v = sumTo v 32 := by
  let r (k : Nat) (v : List Word) := reduceStep (· + ·) k v
  have hone : ∀ w : List Word, w.getD 0 0 = sumTo w 1 := fun w => by simp [sumTo]
  calc reduceTree (· + ·) v = sumTo (r 1 (r 2 (r 4 (r 8 (r 16 v))))) 1 := hone _
    _ = sumTo (r 2 (r 4 (r 8 (r 16 v)))) 2 := sumTo_reduceStep 1 (by simp [r, reduceStep_length, hv])
    _ = sumTo (r 4 (r 8 (r 16 v))) 4 := sumTo_reduceStep 2 (by simp [r, reduceStep_length, hv])
    _ = sumTo (r 8 (r 16 v)) 8 := sumTo_reduceStep 4 (by simp [r, reduceStep_length, hv])
    _ = sumTo (r 16 v) 16 := sumTo_reduceStep 8 (by simp [r, reduceStep_length, hv])
    _ = sumTo v 32 := sumTo_reduceStep 16 (by simp [hv])

/-- The active lanes of a hamper, as a filter of all. -/
theorem lanes_eq (h : Hamper) : h.lanes = (List.range 32).filter (natBit h.active.toNat) := by
  rw [Hamper.lanes, rangeFrom_eq_range', ← List.range_eq_range']

/-- A sum in which only those that pass a test enter. -/
theorem sum_filter_range (p : Nat → Bool) (a : Nat → Word) (k : Nat) :
    (∑ i ∈ Finset.range k, if p i then a i else 0) = (((List.range k).filter p).map a).sum := by
  induction k with
  | zero => rfl
  | succ k ih =>
    rw [Finset.sum_range_succ, ih, List.range_succ, List.filter_append, List.map_append, List.sum_append]
    by_cases hk : p k <;> simp [hk]

/-- The sum over the active lanes, in which an inactive one enters 0. -/
theorem sumTo_lanes (h : Hamper) (a : Nat → Word) :
    sumTo ((rangeFrom 0 32).map fun i => if h.lanes.contains i then a i else 0) 32 = (h.lanes.map a).foldl (· + ·) 0 := by
  rw [← List.sum_eq_foldl, sumTo, rangeFrom_eq_range', ← List.range_eq_range', Finset.sum_range]
  have hterm : ∀ i : Fin 32, ((List.range 32).map fun i => if h.lanes.contains i then a i else 0).getD i.val 0 =
      if natBit h.active.toNat i.val then a i.val else 0 := by
    intro i
    simp [List.getD_eq_getElem?_getD, lanes_eq]
  rw [Finset.sum_congr rfl fun i _ => hterm i, ← Finset.sum_range (fun i => if natBit h.active.toNat i then a i else 0),
    sum_filter_range, lanes_eq]

/-- The bits of a mask of rising lanes. -/
theorem testBit_sum_filter (p : Nat → Bool) (k i : Nat) :
    (((List.range k).filter p).map (2 ^ ·)).sum < 2 ^ k
      ∧ (((List.range k).filter p).map (2 ^ ·)).sum.testBit i = (decide (i < k) && p i) := by
  induction k with
  | zero => simp
  | succ k ih =>
    obtain ⟨hlt, hbit⟩ := ih
    rw [List.range_succ, List.filter_append, List.map_append, List.sum_append, Nat.pow_succ]
    by_cases hk : p k = true
    · simp only [List.filter_cons_of_pos hk, List.filter_nil, List.map_cons, List.map_nil, List.sum_cons, List.sum_nil, Nat.add_zero]
      refine ⟨by omega, ?_⟩
      rw [Nat.add_comm, ← Nat.mul_one (2 ^ k), Nat.testBit_two_pow_mul_add _ hlt, hbit]
      by_cases hi : i < k
      · simp [hi, Nat.lt_succ_of_lt hi]
      · by_cases he : i = k
        · simp [he, hk]
        · simp [hi, show ¬i < k + 1 by omega, Nat.testBit_lt_two_pow (Nat.one_lt_two_pow (show i - k ≠ 0 by omega))]
    · simp only [List.filter_cons_of_neg hk, List.filter_nil, List.map_nil, List.sum_nil, Nat.add_zero]
      refine ⟨by omega, ?_⟩
      rw [hbit]
      by_cases hi : i < k
      · simp [hi, Nat.lt_succ_of_lt hi]
      · by_cases he : i = k
        · simp [he, hk]
        · simp [hi, show ¬i < k + 1 by omega]

/-- The mask of those of a hamper's lanes that pass a test. -/
theorem getLsbD_maskOf_lanes (h : Hamper) (p : Nat → Bool) {i : Nat} (hi : i < 32) :
    (maskOf (h.lanes.filter p)).getLsbD i = decide (i ∈ h.lanes ∧ p i = true) := by
  have hbit := (testBit_sum_filter (fun i => natBit h.active.toNat i && p i) 32 i).2
  rw [maskOf, lanes_eq, List.filter_filter, BitVec.getLsbD_ofNat,
    List.filter_congr fun _ _ => Bool.and_comm _ _, hbit]
  simp [hi]

/-! ### The instructions -/

section
variable {s : State} {n : HamperName} {x : Slot} {h : Hamper}

/-- An instruction that reads registers without errors has its effect, or ends its task. -/
theorem exec_reading {c : Instr} {rs : List Nat} {f : State → Slot → Hamper → Try State} (hs : s.isLive) (hh : s.atHamper n x h)
    (hc : exec c s = s.live fun s => s.onReading n rs (f s)) : exec c s = .next ((s.orEnd x (f s x h)).kept s) := by
  rw [hc, State.live_next s _ hs, onReading_eq hh]

/-- An instruction that leaves its slot with other registers completes. -/
theorem slotCompletes_of_regs {c : Instr} {rs : List Nat} {f : State → Slot → Hamper → Try State} {t : State} {y : Slot}
    {parts : List Part} {post : Slot → State → Prop} (hs : s.isLive) (hh : s.atHamper n x h)
    (hc : exec c s = s.live fun s => s.onReading n rs (f s)) (hf : f s x h = .ok (t.putSlot y)) (ht : changesOnly parts s t)
    (hp : Part.queue ∉ parts ∧ Part.dev ∉ parts ∧ Part.sch ∈ parts) (hslots : t.sch.slots = s.sch.slots) (hy : RegsAlone x y)
    (hpost : post y (t.putSlot y)) : slotCompletes c s n.slot x parts post :=
  slotCompletes_of_putSlot (by rw [exec_reading hs hh hc, hf]; rfl) ht hp (slotAt_of_slotNamed hh.1.1) hslots hy.image hpost

/-- FP32 arithmetic in the active threads. -/
theorem simtFpArith_completes (hs : s.isLive) (hh : s.atHamper n x h) (op : FpOp) (rd ra rb rc : Fin 64) :
    slotCompletes (.simtFpArith n op rd ra rb rc) s n.slot x [.sch] fun y _ => regsOnly x y
      ∧ regWritten h rd.val (fun l => fpOp op (x.reg h.ident l ra.val) (x.reg h.ident l rb.val) (x.reg h.ident l rc.val)) x y :=
  slotCompletes_of_regs hs hh (show execSimtFpArith n op rd ra rb rc s = _ from rfl) rfl (changesOnly_refl _ s) (by decide) rfl
    (.lanewise hh.2 h _ _)
    ⟨(RegsAlone.lanewise hh.2 h _ _).regsOnly, regWritten_lanewise x h rd _⟩

/-- An integer instruction other than a multiply-wide. -/
theorem simtInteger_completes (hs : s.isLive) (hh : s.atHamper n x h) {op : IntOp} (hop : ∀ signed, op ≠ .mulWide signed)
    (rd ra rb : Fin 64) :
    slotCompletes (.simtInteger n op rd ra rb) s n.slot x [.free, .sch] fun y _ => regsOnly x y
      ∧ regWritten h rd.val (fun l =>
          intOp op (Config.freeBits 32 (s.free + l)) (x.reg h.ident l ra.val) (x.reg h.ident l rb.val)) x y := by
  have halone := RegsAlone.lanewise hh.2 h rd.val fun l =>
    intOp op (Config.freeBits 32 (s.free + l)) (x.reg h.ident l ra.val) (x.reg h.ident l rb.val)
  refine slotCompletes_of_regs hs hh (show execSimtInteger n op rd ra rb s = _ from rfl) ?effect
    (changesOnly_mono (changesOnly_withFree s (s.free + 32)) (by decide)) (by decide) rfl halone
    ⟨halone.regsOnly, regWritten_lanewise x h rd _⟩
  case effect =>
    cases op
    case mulWide signed => exact absurd rfl (hop signed)
    all_goals rfl

/-- The halves of a 64-bit word, put together. -/
theorem halves_append (v : BitVec 64) : ((v >>> 32).setWidth 32 ++ v.setWidth 32 : BitVec 64) = v := by
  refine BitVec.eq_of_getLsbD_eq fun i hi => ?_
  rw [BitVec.getLsbD_append]
  by_cases hlow : i < 32
  · simp [hlow]
  · simp [hlow, show i - 32 < 32 by omega, show 32 + (i - 32) = i by omega]

/-- A multiply-wide. -/
theorem simtInteger_mulWide_completes (hs : s.isLive) (hh : s.atHamper n x h) (signed : Bool) (rd ra rb : Fin 64) (hrd : rd.val < 63) :
    slotCompletes (.simtInteger n (.mulWide signed) rd ra rb) s n.slot x [.free, .sch] fun y _ => regsOnly x y
      ∧ ∀ l ∈ h.lanes, (y.reg h.ident l (rd.val + 1) ++ y.reg h.ident l rd.val : BitVec 64) =
          wideProduct signed (x.reg h.ident l ra.val) (x.reg h.ident l rb.val) := by
  let product (l : Nat) := wideProduct signed (x.reg h.ident l ra.val) (x.reg h.ident l rb.val)
  have hlow := RegsAlone.lanewise hh.2 h rd.val fun l => (product l).setWidth 32
  have hboth := hlow.trans (.lanewise (hlow.badRegs.trans hh.2) h (rd.val + 1) fun l => (product l >>> 32).setWidth 32)
  refine slotCompletes_of_regs hs hh (show execSimtInteger n (.mulWide signed) rd ra rb s = _ from rfl) ?effect
    (changesOnly_mono (changesOnly_withFree s (s.free + 32)) (by decide)) (by decide) rfl hboth ⟨hboth.regsOnly, ?halves⟩
  case effect =>
    simp only [if_neg (show ¬rd.val = 63 by omega)]
    rfl
  case halves =>
    intro l hl
    have h32 := lane_lt hl
    rw [reg_lanewise _ h _ h32 (by omega) (by omega), if_pos ⟨rfl, hl, rfl⟩, reg_lanewise _ h _ h32 (by omega) (by omega),
      if_neg (by omega), reg_lanewise _ h _ h32 (by omega) (by omega), if_pos ⟨rfl, hl, rfl⟩]
    exact halves_append (product l)

/-- A rounding mode that draws nothing does not depend on what is drawn. -/
theorem roundingOf_of_lt {code : Nat} (h : code < 4) (r16 : Nat) : roundingOf code r16 = roundingOf code 0 := by
  simp [roundingOf, show code ≠ 4 by omega]

/-- A conversion from or to FP32. -/
theorem simtConvert_completes (hs : s.isLive) (hh : s.atHamper n x h) {src dst : CvtFmt} (hfmt : (src == .fp32) ≠ (dst == .fp32))
    {rounding : Fin 5} (hr : rounding.val < 4) (sat : Bool) (rd ra : Fin 64) :
    slotCompletes (.simtConvert n src dst rounding sat rd ra) s n.slot x [.sch] fun y _ => regsOnly x y
      ∧ regWritten h rd.val (fun l => cvtResult dst (roundingOf rounding.val 0) sat (cvtValue src (x.reg h.ident l ra.val))) x y := by
  have halone := RegsAlone.lanewise hh.2 h rd.val fun l =>
    cvtResult dst (roundingOf rounding.val 0) sat (cvtValue src (x.reg h.ident l ra.val))
  refine slotCompletes_of_regs hs hh (show execSimtConvert n src dst rounding sat rd ra s = _ from rfl) ?effect
    (changesOnly_refl _ s) (by decide) rfl halone ⟨halone.regsOnly, regWritten_lanewise x h rd _⟩
  case effect =>
    have hdraws : rounding.val ≠ 4 := by omega
    simp only [beq_iff_eq, hfmt, hdraws, if_false, roundingOf_of_lt hr]

/-- What an exchange delivers, where the claims name it. -/
theorem exchange_delivers (h : Hamper) (op : ExchangeOp) (a b free : Nat → Word) (l : Nat) :
    (op = .reduceAddInt → exchange op h.lanes a b free l = (h.lanes.map a).foldl (· + ·) 0)
      ∧ (∀ i : Fin 32, op = .broadcast i → i.val ∈ h.lanes → exchange op h.lanes a b free l = a i.val)
      ∧ (op = .shuffle → (b l).toNat ∈ h.lanes → exchange op h.lanes a b free l = a (b l).toNat)
      ∧ (op = .voteAny → (exchange op h.lanes a b free l = 1 ↔ ∃ i ∈ h.lanes, a i ≠ 0))
      ∧ (op = .voteAll → (exchange op h.lanes a b free l = 1 ↔ ∀ i ∈ h.lanes, a i ≠ 0))
      ∧ (op = .ballot → ∀ i, i < 32 → ((exchange op h.lanes a b free l).getLsbD i = true ↔ i ∈ h.lanes ∧ a i ≠ 0)) := by
  have hflag : ∀ v : Bool, flag v = 1#32 ↔ v = true := by decide
  refine ⟨?_, ?_, ?_, ?_, ?_, ?_⟩
  · rintro rfl
    exact (reduceTree_add (by simp)).trans (sumTo_lanes h a)
  · rintro i rfl hi
    simp [exchange, hi]
  · rintro rfl hi
    simp [exchange, hi]
  · rintro rfl
    simp [exchange, hflag]
  · rintro rfl
    simp [exchange, hflag]
  · rintro rfl i hi
    simp [exchange, getLsbD_maskOf_lanes h _ hi]

/-- A hamper exchange. -/
theorem simtHamperExchange_completes (hs : s.isLive) (hh : s.atHamper n x h) (op : ExchangeOp) (rd ra rb : Fin 64) :
    slotCompletes (.simtHamperExchange n op rd ra rb) s n.slot x [.free, .sch] fun y _ => regsOnly x y
      ∧ regWritten h rd.val (exchange op h.lanes (fun l => x.reg h.ident l ra.val) (fun l => x.reg h.ident l rb.val)
          fun l => Config.freeBits 32 (s.free + l)) x y := by
  have halone := RegsAlone.lanewise hh.2 h rd.val (exchange op h.lanes (fun l => x.reg h.ident l ra.val)
    (fun l => x.reg h.ident l rb.val) fun l => Config.freeBits 32 (s.free + l))
  exact slotCompletes_of_regs hs hh (show execSimtHamperExchange n op rd ra rb s = _ from rfl) rfl
    (changesOnly_mono (changesOnly_withFree s (s.free + 32)) (by decide)) (by decide) rfl halone ⟨halone.regsOnly, regWritten_lanewise x h rd _⟩

end

end Sys2Proof.Machine

open Sys2Proof Sys2Proof.Machine

/-- Settles O10: each instruction writes its slot back with one register of the active threads changed; the sum of a reduction is the
invariant of its five steps, and a mask of lanes has its bits by induction on the lanes. -/
theorem simtArithmetic : Obligations.SimtArithmetic := by
  refine ⟨?fp, ?unsound, ?integer, ?wide, ?convert, ?exchange⟩
  case fp => exact fun s n op rd ra rb rc x h hs hh => simtFpArith_completes hs hh op rd ra rb rc
  case unsound =>
    intro s n op rd ra rb rc x h u hs hh hu hr
    refine ⟨(s.endSlot x 0x11).kept s, ?_, rfl, task_endSlot hu 0x11 none⟩
    rw [← onReading_error hh hr fun x h => .ok (s.putSlot (x.lanewise h rd.val fun l =>
      fpOp op (x.reg h.ident l ra.val) (x.reg h.ident l rb.val) (x.reg h.ident l rc.val)))]
    exact (show execSimtFpArith n op rd ra rb rc s = _ from State.live_next s _ hs)
  case integer => exact fun s n op rd ra rb x h hs hh hop => simtInteger_completes hs hh hop rd ra rb
  case wide => exact fun s n signed rd ra rb x h hs hh hrd => simtInteger_mulWide_completes hs hh signed rd ra rb hrd
  case convert => exact fun s n src dst rounding sat rd ra x h hs hh hfmt hr => simtConvert_completes hs hh hfmt hr sat rd ra
  case exchange =>
    intro s n op rd ra rb x h hs hh
    obtain ⟨t, he, hc, y, hy, himg, honly, hset, hrest⟩ := simtHamperExchange_completes hs hh op rd ra rb
    refine ⟨t, he, hc, y, hy, himg, honly, hrest, fun l hl => ?_⟩
    rw [hset l hl]
    exact exchange_delivers h op _ _ _ l
end

section
/-! PROOFS. Why a WAITE may do more than the claim of the engines allows (R94). -/

namespace Sys2Proof.Machine

/-- Engine 1 still waits for a count of 0, which counter 31 has reached, and has a command queued that reads a row outside the slot's
share of the accumulator memory. -/
def overdueEngine : Engine := { Engine.empty with waiting := some (31, 0), queue := [.acc 0 1 false .zero] }

/-- Slot 0 of core 0, which runs a task of queue 0, with that engine; its other engines are free. -/
def overdueSlot : Slot :=
  { core := 0, idx := 0, qid := 0, seq := 0, phase := .live, evictFor := none, wait := none, yielded := false, halted := false,
    stepping := false, image := { SlotImage.empty with engines := vecSet SlotImage.empty.engines 1 overdueEngine }, calls := [] }

/-- The task of the slot, with nothing in its launch record. -/
def overdueTask : Task :=
  { qid := 0, entry := decodeEntry 0 (zeros 64), ctx := 0, part := 0, prio := 0, eff := 0, started := true,
    launch := decodeLaunch (zeros 64), width := 1, cores := [], nextGroup := 0, groupsEnded := 0, firstRun := 0,
    preempted := false, startTime := 0, order := 0, engineNs := 0, awaitsModel := false, token := none, timerStart := 0,
    replays := [], stepBefore := [], forced := none, render := none,
    rendered := { passes := 0, prims := 0, partials := 0, stops := 0, tiles := 0, high := 0, started := 0, total := 0 } }

/-- A device out of reset on which that slot runs. -/
def overdueState : State :=
  let up := State.reset.withDev { State.reset.dev with inReset := false, resetLow := false }
  (up.withSch { up.sch with slots := [overdueSlot], tasks := [overdueTask] }).poke R.CORE_STATUS [0, 0, 0] 4

/-- Engine 0 of the slot. -/
def overdueName : EngineName := ⟨⟨⟨0, 0, 0⟩, 0⟩, 0⟩

/-- Engine 0 is free, and no engine of the slot is ready; a WAITE of engine 0 lets engine 1 go on, and the command that it has queued
ends the task: the slot is gone. -/
theorem overdue_waite_ends : overdueState.isLive ∧ overdueState.atEngine overdueName overdueSlot Engine.empty
    ∧ (overdueState.issue overdueName (.waite 0 1)).slotAt 0 0 = none := by decide +kernel

end Sys2Proof.Machine

open Sys2Proof Sys2Proof.Machine

/-- Refutes O9: the clause of WAITE lets another engine of the slot wait for a count that is reached already. Setting the wait settles
all of the slot's waits, so such an engine goes on with its queue, and here its command ends the task. -/
theorem not_enginesAccumulateAndRequantise : ¬Obligations.EnginesAccumulateAndRequantise := by
  rintro ⟨-, -, -, -, -, -, -, hwaite, -⟩
  obtain ⟨hlive, hat, hgone⟩ := overdue_waite_ends
  obtain ⟨t, he, -, y, hy, -⟩ := hwaite overdueState overdueName 0 1 overdueSlot Engine.empty hlive hat
  have hexec : exec (.engineWaite overdueName 0 1) overdueState =
      .next ((overdueState.issue overdueName (.waite 0 1)).kept overdueState) :=
    show execEngineWaite overdueName 0 1 overdueState = _ from State.live_next _ _ hlive
  obtain rfl := Host.Outcome.next.inj (hexec.symm.trans he)
  exact absurd (hgone.symm.trans hy) (by simp)
end

section
/-! PROOFS. What a core does when it takes a slot (R100, R165, R169, R265): slots keep their places, queues and lay-by records are
left alone, and tasks but for their counts. -/

namespace Sys2Proof.Machine

/-- A task, but for what running it counts. -/
def Task.still (t : Task) : Task := { t with engineNs := 0, firstRun := 0, preempted := false }

/-- What a task that is written back is found as, where there was one. -/
theorem task_putTask_self (s : State) (v : Task) :
    (s.putTask v).task v.qid v.entry.seq = (s.task v.qid v.entry.seq).map fun _ => v :=
  find?_replace_self (p := fun z : Task => z.qid == v.qid && z.entry.seq == v.entry.seq) (by simp) s.sch.tasks

/-- A task written back leaves every other. -/
theorem task_putTask_ne (s : State) {v : Task} {q : Nat} {seq : Word} (h : ¬(v.qid = q ∧ v.entry.seq = seq)) :
    (s.putTask v).task q seq = s.task q seq := by
  refine find?_replace_apart (Bool.eq_false_iff.2 fun hk => h (by simpa using hk)) (fun z hz => ?_) s.sch.tasks
  obtain ⟨hq, hseq⟩ : z.qid = v.qid ∧ z.entry.seq = v.entry.seq := by simpa using hz
  exact Bool.eq_false_iff.2 fun hk => h (by simpa [hq, hseq] using hk)

/-- The task found by name has the name. -/
theorem task_key {s : State} {q : Nat} {seq : Word} {u : Task} (h : s.task q seq = some u) : u.qid = q ∧ u.entry.seq = seq := by
  simpa using List.find?_some h

/-- The task found by name, changed but for its name and written back, is found by it. -/
theorem task_putTask {s : State} {q : Nat} {seq : Word} {u v : Task} (h : s.task q seq = some u) (hq : v.qid = u.qid)
    (hseq : v.entry.seq = u.entry.seq) : (s.putTask v).task q seq = some v := by
  obtain ⟨rfl, rfl⟩ := task_key h
  have hv := task_putTask_self s v
  rw [hq, hseq, h] at hv
  exact hv

/-- Where slots hold live task state. -/
def State.places (s : State) : List (Nat × Nat) := s.sch.slots.map fun x => (x.core, x.idx)

/-- A property of slots that a slot keeps when it runs: when it submits what it owes its box unit, and its transfers are made again or
abort. -/
structure KeptByRunning (K : Slot → Prop) : Prop where
  calls : ∀ x cs, K x → K { x with calls := cs }
  wait : ∀ x, K x → K { x with wait := none }
  dma : ∀ x ds, K x → K { x with image := { x.image with dma := ds } }

/-- The parts of the state that a core's choice of a slot may change. -/
abbrev runParts : List Part := [.free, .regs, .mem, .err, .sch, .boxes, .dbg]

/-- `s` comes from `s₀` by what a core does when it takes or leaves slots, and all of its slots have a property. -/
structure Runs (K : Slot → Prop) (s₀ s : State) : Prop where
  parts : changesOnly runParts s₀ s
  slots : ∀ x ∈ s.sch.slots, K x
  places : s.places = s₀.places
  queues : s.sch.queues = s₀.sch.queues
  layby : s.sch.layby = s₀.sch.layby
  tasks : ∀ q seq, (s.task q seq).map Task.still = (s₀.task q seq).map Task.still
  bad : ∀ w ∈ s.err.bad, w ∈ s₀.err.bad

theorem mem_of_leastBy {α : Type} {key : α → List Nat} {xs : List α} {x : α} (h : leastBy key xs = some x) : x ∈ xs := by
  induction xs generalizing x with
  | nil => cases h
  | cons y ys ih =>
    rw [leastBy] at h
    split at h
    · cases h
      exact List.mem_cons_self
    next z hz =>
      split at h
      · cases h
        exact List.mem_cons_of_mem y (ih hz)
      · cases h
        exact List.mem_cons_self

namespace Runs
variable {K : Slot → Prop} {s₀ s t : State}

theorem refl (h : ∀ x ∈ s.sch.slots, K x) : Runs K s s :=
  ⟨changesOnly_refl _ s, h, rfl, rfl, rfl, fun _ _ => rfl, fun _ hw => hw⟩

/-- A change outside the scheduler that puts no word in error. -/
theorem same_sch (h : Runs K s₀ s) (hp : changesOnly runParts s t) (hs : t.sch = s.sch) (hb : ∀ w ∈ t.err.bad, w ∈ s.err.bad) :
    Runs K s₀ t where
  parts := changesOnly_trans h.parts hp
  slots := by rw [hs]; exact h.slots
  places := by rw [State.places, hs]; exact h.places
  queues := by rw [hs]; exact h.queues
  layby := by rw [hs]; exact h.layby
  tasks := fun q seq => by rw [State.task, hs]; exact h.tasks q seq
  bad := fun w hw => h.bad w (hb w hw)

/-- A change of the scheduler that leaves slots, queues, lay-by records and tasks alone. -/
theorem same_slots (h : Runs K s₀ s) {x : SchState} (hs : x.slots = s.sch.slots) (hq : x.queues = s.sch.queues)
    (hl : x.layby = s.sch.layby) (ht : x.tasks = s.sch.tasks) : Runs K s₀ (s.withSch x) where
  parts := changesOnly_trans h.parts (changesOnly_mono (changesOnly_withSch s x) (by decide))
  slots := by intro y hy; exact h.slots y (hs ▸ hy)
  places := by rw [← h.places]; exact congrArg (List.map _) hs
  queues := hq.trans h.queues
  layby := hl.trans h.layby
  tasks q seq := by
    rw [← h.tasks q seq, State.task, State.task]
    exact congrArg (fun l : List Task => (l.find? fun t => t.qid == q && t.entry.seq == seq).map Task.still) ht
  bad := h.bad

theorem ranSince (h : Runs K s₀ s) {since ran : List (Nat × Nat)} :
    Runs K s₀ (s.withSch { s.sch with runSince := since, ran := ran }) :=
  h.same_slots (x := { s.sch with runSince := since, ran := ran }) rfl rfl rfl rfl

theorem ite {c : Prop} [Decidable c] {t u : State} (ht : c → Runs K s₀ t) (hu : ¬c → Runs K s₀ u) :
    Runs K s₀ (if c then t else u) := by
  split
  · exact ht ‹_›
  · exact hu ‹_›

/-- A loop keeps what its body keeps. -/
theorem foldl {α : Type} {f : State → α → State} {xs : List α} (h : Runs K s₀ s)
    (hf : ∀ t, ∀ a ∈ xs, Runs K s₀ t → Runs K s₀ (f t a)) : Runs K s₀ (xs.foldl f s) := by
  induction xs generalizing s with
  | nil => exact h
  | cons x xs ih =>
    exact ih (hf s x List.mem_cons_self h) fun t a ha => hf t a (List.mem_cons_of_mem x ha)

/-! ### Registers, memory, trace records and box calls -/

theorem poke (h : Runs K s₀ s) {r : Reg} {ix : List Nat} {v : Word} : Runs K s₀ (s.poke r ix v) :=
  h.same_sch (changesOnly_mono (changesOnly_poke s r ix v) (by decide)) rfl fun _ hw => hw

theorem setFld (h : Runs K s₀ s) {r : Reg} {ix : List Nat} {hi lo v : Nat} : Runs K s₀ (s.setFld r ix hi lo v) := h.poke

theorem setBit (h : Runs K s₀ s) {r : Reg} {ix : List Nat} {b : Nat} {v : Bool} : Runs K s₀ (s.setBit r ix b v) := h.poke

theorem count (h : Runs K s₀ s) {r : Reg} {ix : List Nat} {n : Nat} : Runs K s₀ (s.count r ix n) := h.poke

theorem countSat (h : Runs K s₀ s) {r : Reg} {ix : List Nat} {n : Nat} {ovf : Reg} {oix : List Nat} {b : Nat} :
    Runs K s₀ (s.countSat r ix n ovf oix b) := by
  unfold State.countSat
  dsimp only
  exact ite (fun _ => h) fun _ => ite (fun _ => h.poke.setBit) fun _ => h.poke

theorem account (h : Runs K s₀ s) {c k n : Nat} : Runs K s₀ (s.account c k n) := h.poke.poke

theorem write (h : Runs K s₀ s) {a : Nat} {bs : List Byte} : Runs K s₀ (s.write a bs) := by
  refine h.same_sch (changesOnly_mono (changesOnly_write s a bs) (by decide)) ?_ (bad_write s a bs)
  unfold State.write
  split <;> rfl

theorem withDbg (h : Runs K s₀ s) {x : DbgState} : Runs K s₀ (s.withDbg x) :=
  h.same_sch (fun p hp => by cases p <;> first | rfl | simp at hp) rfl fun _ hw => hw

theorem withBoxes (h : Runs K s₀ s) {x : List BoxCall} : Runs K s₀ (s.withBoxes x) :=
  h.same_sch (fun p hp => by cases p <;> first | rfl | simp at hp) rfl fun _ hw => hw

theorem traceTo (h : Runs K s₀ s) {ring source word : Nat} {payload : List Byte} : Runs K s₀ (s.traceTo ring source word payload) :=
  (ite (fun _ => h.write.poke.countSat) fun _ => h.write.poke).withDbg

theorem trace (h : Runs K s₀ s) {source word : Nat} {ctx : Option Nat} {payload : List Byte} :
    Runs K s₀ (s.trace source ctx word payload) := by
  have hfirst : Runs K s₀ (if s.traceTakes 0 source ctx then s.traceTo 0 source word payload else s) := ite (fun _ => h.traceTo) fun _ => h
  exact ite (fun _ => hfirst.traceTo) fun _ => hfirst

theorem boxSchedule (h : Runs K s₀ s) {d k : Nat} : Runs K s₀ (s.boxSchedule d k) := by
  unfold State.boxSchedule
  dsimp only
  split
  · exact h
  · exact h.withBoxes

/-! ### Slots and tasks -/

theorem putSlot (h : Runs K s₀ s) {x : Slot} (hx : K x) : Runs K s₀ (s.putSlot x) where
  parts := changesOnly_trans h.parts (changesOnly_mono (changesOnly_putSlot s x) (by decide))
  slots := by
    intro y hy
    obtain ⟨z, hz, rfl⟩ := List.mem_map.1 hy
    split
    · exact hx
    · exact h.slots z hz
  places := by
    rw [← h.places, State.places, State.putSlot]
    refine (List.map_map ..).trans (List.map_congr_left fun z _ => ?_)
    simp only [Function.comp_apply]
    split
    next hz => simp_all
    · rfl
  queues := h.queues
  layby := h.layby
  tasks := h.tasks
  bad := h.bad

/-- A task that is found in its place, and stays what it is but for its counts. -/
theorem putTask (h : Runs K s₀ s) {u v : Task} (hu : s.task v.qid v.entry.seq = some u) (hv : v.still = u.still) :
    Runs K s₀ (s.putTask v) where
  parts := changesOnly_trans h.parts (changesOnly_mono (changesOnly_withSch s _) (by decide))
  slots := h.slots
  places := h.places
  queues := h.queues
  layby := h.layby
  tasks := by
    intro q seq
    rw [← h.tasks q seq]
    by_cases hkey : v.qid = q ∧ v.entry.seq = seq
    · obtain ⟨rfl, rfl⟩ := hkey
      rw [task_putTask_self, hu]
      exact congrArg some hv
    · rw [task_putTask_ne s hkey]
  bad := h.bad

/-- The task of a slot, with other counts. -/
theorem putCounts (h : Runs K s₀ s) {x : Slot} {u : Task} (hu : s.slotTask x = some u) {ns first : Nat} {pre : Bool} :
    Runs K s₀ (s.putTask { u with engineNs := ns, firstRun := first, preempted := pre }) := by
  refine h.putTask (u := u) ?_ rfl
  obtain ⟨hq, hseq⟩ := task_key hu
  rw [hq, hseq]
  exact hu

/-- A slot found at a place has the property. -/
theorem of_slotAt (h : Runs K s₀ s) {core i : Nat} {x : Slot} (hx : s.slotAt core i = some x) : K x :=
  h.slots x (List.mem_of_find?_eq_some hx)

/-- A slot that was somewhere is there still. -/
theorem slotAt_isSome (h : Runs K s₀ s) {core i : Nat} (hx : (s₀.slotAt core i).isSome = true) : (s.slotAt core i).isSome = true := by
  have hplaces (t : State) : (t.slotAt core i).isSome = true ↔ (core, i) ∈ t.places := by
    simp [State.slotAt, State.places, List.find?_isSome]
  rw [hplaces, h.places, ← hplaces]
  exact hx

theorem accountRun (h : Runs K s₀ s) {core : Nat} : Runs K s₀ (s.accountRun core) := by
  unfold State.accountRun
  split
  · exact h
  · have hsince := h.same_slots (x := { s.sch with runSince := s.sch.runSince.filter fun e => e.1 != core }) rfl rfl rfl rfl
    dsimp only
    split
    · split
      next t ht => exact hsince.account.putCounts ht
      · exact hsince.account
    · exact hsince

variable (hK : KeptByRunning K)
include hK

theorem abortTransfers (h : Runs K s₀ s) {x : Slot} (hx : K x) : Runs K s₀ (s.abortTransfers x) :=
  (h.same_slots (x := { s.sch with
    transfers := s.sch.transfers.filter fun h => !(h.core == x.core && h.idx == x.idx) }) rfl rfl rfl rfl).putSlot (hK.dma x _ hx)

theorem coreIdle (h : Runs K s₀ s) {core : Nat} : Runs K s₀ (s.coreIdle core) := by
  unfold State.coreIdle
  dsimp only
  split
  next x hx =>
    obtain ⟨i, -, hat⟩ := Option.bind_eq_some_iff.1 hx
    exact (ite (fun _ => h) fun _ => h.abortTransfers hK (h.of_slotAt hat)).accountRun.setBit
  · exact h.accountRun.setBit

theorem resubmit (h : Runs K s₀ s) {x : Slot} (hx : K x) : Runs K s₀ (s.resubmit x) :=
  ite (fun _ => h) fun _ => (h.putSlot (hK.calls x _ hx)).withBoxes.boxSchedule

theorem unstall (h : Runs K s₀ s) {x : Slot} (hx : K x) : Runs K s₀ (s.unstall x) := by
  unfold State.unstall
  dsimp only
  split
  · exact ite (fun _ => (h.putSlot (hK.wait x hx)).withBoxes.boxSchedule) fun _ => h
  · exact h

theorem boxAdmitSlot (h : Runs K s₀ s) {core i : Nat} : Runs K s₀ (s.boxAdmitSlot core i) := by
  have hcalls : Runs K s₀ (match s.slotAt core i with | some x => s.resubmit x | none => s) := by
    split
    next x hx => exact h.resubmit hK (h.of_slotAt hx)
    · exact h
  unfold State.boxAdmitSlot
  dsimp only
  split
  next x hx => exact hcalls.unstall hK (hcalls.of_slotAt hx)
  · exact hcalls

theorem boxAdmit (h : Runs K s₀ s) {d k : Nat} : Runs K s₀ (s.boxAdmit d k) := h.foldl fun _ _ _ ht => ht.boxAdmitSlot hK

theorem startSlot (h : Runs K s₀ s) {x : Slot} (hx : K x) : Runs K s₀ (s.startSlot x) :=
  have h := (ite (fun _ => h.count.trace) fun _ => h).setFld.setBit.ranSince.putSlot (hK.dma x _ hx) |>.boxAdmitSlot hK
  by
    unfold State.startSlot
    dsimp only
    split
    next t ht => exact ite (fun _ => (h.putCounts ht).account) fun _ => h
    · exact h

omit hK in
theorem notePreempt (h : Runs K s₀ s) {old new : Slot} : Runs K s₀ (s.notePreempt old new) := by
  unfold State.notePreempt
  split
  next a b ha hb =>
    exact ite (fun _ => (h.putCounts ha).account) fun _ => h
  · exact h

omit hK in
/-- The slot that a core chooses is one of its own. -/
theorem of_chooseSlot (h : Runs K s₀ s) {core : Nat} {x : Slot} (hx : s.chooseSlot core = some x) : K x := by
  have hmem := mem_of_leastBy hx
  unfold State.candidates at hmem
  dsimp only at hmem
  split at hmem
  · split at hmem
    · exact h.slots x (List.mem_of_mem_filter (List.mem_of_mem_filter hmem))
    · exact h.slots x (List.mem_of_mem_filter hmem)
  · exact h.slots x (List.mem_of_mem_filter hmem)

theorem switchCore (h : Runs K s₀ s) {core : Nat} : Runs K s₀ (s.switchCore core) := by
  unfold State.switchCore
  split
  next i x _ hx =>
    have hnote : Runs K s₀ (match s.slotAt core i with | some old => s.notePreempt old x | none => s) := by
      split
      · exact h.notePreempt
      · exact h
    exact ite (fun _ => h) fun _ => (hnote.coreIdle hK).startSlot hK (h.of_chooseSlot hx)
  · exact h.coreIdle hK
  next x _ hx => exact h.startSlot hK (h.of_chooseSlot hx)
  · exact h

theorem wakeCore (h : Runs K s₀ s) {core : Nat} : Runs K s₀ (s.wakeCore core) := ite (fun _ => h.switchCore hK) fun _ => h

end Runs

end Sys2Proof.Machine
end

section
/-! PROOFS. Event counters and halo flags (R94, R109, R163, R165). -/

namespace Sys2Proof.Machine

/-! ### Waits that a count ends -/

/-- An engine, once the counts of its slot are looked at. -/
def Engine.settled (x : Slot) (e : Engine) : Engine :=
  match e.waiting with
  | some (n, t) => if waitDone (x.eventCount n) t then { e with waiting := none } else e
  | none => e

/-- A hamper, once the counts of its slot are looked at. -/
def Hamper.settled (x : Slot) (h : Hamper) : Hamper :=
  match h.waiting with
  | some (n, t) => if waitDone (x.eventCount n) t then { h with waiting := none } else h
  | none => h

/-- A look at the counts settles the waits of engines and hampers. -/
theorem settleWaits_image (x : Slot) : x.settleWaits.image =
    { x.image with engines := x.image.engines.map (Engine.settled x), hampers := x.image.hampers.map (Hamper.settled x) } := by
  unfold Slot.settleWaits
  dsimp only
  split
  · split <;> rfl
  · rfl

/-- A look at the counts changes a slot in its image, and in its wait, with which its yielding ends. -/
theorem settleWaits_eq (x : Slot) :
    x.settleWaits = { x with image := x.settleWaits.image, wait := x.settleWaits.wait, yielded := x.settleWaits.yielded } := by
  unfold Slot.settleWaits
  dsimp only
  split
  · split <;> rfl
  · rfl

/-- What a slot waits for after a look at its counts. -/
theorem settleWaits_wait (x : Slot) {e t since : Nat} (h : x.wait = some (.event e t, since)) :
    x.settleWaits.wait = if waitDone (x.eventCount e) t then none else some (.event e t, since) := by
  unfold Slot.settleWaits
  rw [h]
  dsimp only
  split
  next hd => exact (if_pos hd).symm
  next hd => exact (if_neg hd).symm

theorem Hamper.settled_ident (x : Slot) (h : Hamper) : (h.settled x).ident = h.ident := by
  unfold Hamper.settled
  split
  · split <;> rfl
  · rfl

theorem Engine.settled_queue (x : Slot) (e : Engine) : (e.settled x).queue = e.queue := by
  unfold Engine.settled
  split
  · split <;> rfl
  · rfl

/-- A look at the counts leaves what the engines have queued. -/
theorem backlog_settleWaits (x : Slot) : x.settleWaits.backlog = x.backlog := by
  rw [Slot.backlog, settleWaits_image, Vector.toList_map, List.map_map]
  exact congrArg List.sum (List.map_congr_left fun e _ => congrArg List.length (Engine.settled_queue x e))

theorem eventCount_settleWaits (x : Slot) (k : Nat) : x.settleWaits.eventCount k = x.eventCount k := by
  rw [Slot.eventCount, settleWaits_image]
  rfl

theorem backlog_signal (x : Slot) (e : Nat) : (x.signal e).backlog = x.backlog := backlog_settleWaits _

/-- A signal adds 1 to its counter, and to no other. -/
theorem eventCount_signal (x : Slot) {e k : Nat} (he : e < 32) :
    (x.signal e).eventCount k = if k = e then x.eventCount e + 1 else x.eventCount k := by
  rw [Slot.signal, eventCount_settleWaits]
  split
  next h => rw [h]; exact vecGet_vecSet_self _ _ _ he
  next h => exact vecGet_vecSet_ne _ _ _ h

theorem regs_signal (x : Slot) (e : Nat) : (x.signal e).image.regs = x.image.regs := by
  rw [Slot.signal, settleWaits_image]

theorem dma_signal (x : Slot) (e : Nat) : (x.signal e).image.dma = x.image.dma := by
  rw [Slot.signal, settleWaits_image]

theorem settleWaits_place (x : Slot) : x.settleWaits.core = x.core ∧ x.settleWaits.idx = x.idx := by
  rw [settleWaits_eq]
  exact ⟨rfl, rfl⟩

theorem signal_place (x : Slot) (e : Nat) : (x.signal e).core = x.core ∧ (x.signal e).idx = x.idx := settleWaits_place _

/-- Engines that have nothing queued do nothing. -/
theorem drainEngines_of_backlog {s : State} {core i : Nat} {x : Slot} (hx : s.slotAt core i = some x) (hb : x.backlog = 0) :
    s.drainEngines core i = s := by
  rw [State.drainEngines, hx]
  exact if_pos hb

/-- A hamper written back is found in its place. -/
theorem find?_setHamper {x : Slot} {h g : Hamper} {k : Nat} (hx : x.image.hampers.find? (fun g => g.ident == k) = some h)
    (hg : g.ident = k) : (x.setHamper g).image.hampers.find? (fun g => g.ident == k) = some g := by
  subst hg
  refine (find?_replace_self (p := fun z : Hamper => z.ident == g.ident) (by simp) x.image.hampers).trans ?_
  rw [hx]
  rfl

/-! ### Signals and waits -/

section
variable {s : State} {n : SlotName} {x : Slot}

/-- A slot that is written back, and of which no engine has anything queued, is what an instruction leaves of it. -/
theorem completes_of_drained {c : Instr} {y : Slot} {post : State → Prop} (hx : s.slotNamed n = some x)
    (he : exec c s = .next (((s.putSlot y).drainEngines x.core x.idx).kept s)) (hy : y.core = x.core ∧ y.idx = x.idx)
    (hb : y.backlog = 0) (hpost : (s.putSlot y).slotAt (coreId n.at_) n.slot.val = some y → post (s.putSlot y)) :
    completes c s [.sch] post := by
  obtain ⟨hc, hi⟩ := slotAt_place (slotAt_of_slotNamed hx)
  have hput : (s.putSlot y).slotAt x.core x.idx = some y :=
    slotAt_putSlot (by rw [hc, hi, slotAt_of_slotNamed hx]; rfl) hy
  rw [drainEngines_of_backlog hput hb] at he
  exact completes_of_parts he (changesOnly_putSlot s y) (by decide) (hpost (by rw [← hc, ← hi]; exact hput))

/-- A signal adds 1 to its counter alone. -/
theorem eventSignal_completes (hs : s.isLive) (hx : s.slotNamed n = some x) (hb : x.backlog = 0) (ev : Fin 32) :
    completes (.eventSignal n ev) s [.sch] fun t => ∃ y, t.slotAt (coreId n.at_) n.slot.val = some y
      ∧ y.eventCount ev.val = x.eventCount ev.val + 1 ∧ y.image.regs = x.image.regs
      ∧ ∀ k, k < 32 → k ≠ ev.val → y.eventCount k = x.eventCount k := by
  have he : exec (.eventSignal n ev) s = .next (((s.putSlot (x.signal ev.val)).drainEngines x.core x.idx).kept s) := by
    change execEventSignal n ev s = _
    rw [execEventSignal, State.live_next s _ hs, hx]
  refine completes_of_drained hx he (signal_place x ev.val) ((backlog_signal x ev.val).trans hb) fun hput =>
    ⟨x.signal ev.val, hput, ?_, regs_signal x ev.val, fun k _ hk => ?_⟩
  · rw [eventCount_signal x ev.isLt, if_pos rfl]
  · rw [eventCount_signal x ev.isLt, if_neg hk]

/-- A wait of the control core goes on at once, or stalls the slot. -/
theorem eventWait_control_completes (hs : s.isLive) (hx : s.slotNamed n = some x) (hw : x.wait = none) (hb : x.backlog = 0)
    (ev : Fin 32) (target : BitVec 16) :
    completes (.eventWait n .control ev target) s [.sch] fun t => ∃ y, t.slotAt (coreId n.at_) n.slot.val = some y
      ∧ y.wait = (if waitDone (x.eventCount ev.val) target.toNat then none else some (.event ev.val target.toNat, s.now))
      ∧ y.image.regs = x.image.regs ∧ y.image.events = x.image.events := by
  let w : Slot := { x with wait := some (.event ev.val target.toNat, s.now) }
  have he : exec (.eventWait n .control ev target) s = .next (((s.putSlot w.settleWaits).drainEngines x.core x.idx).kept s) := by
    change execEventWait n .control ev target s = _
    rw [execEventWait, State.live_next s _ hs, hx]
    simp only [hw, Option.isSome_none, Bool.false_eq_true, if_false]
    rfl
  have himage := settleWaits_image w
  refine completes_of_drained hx he (settleWaits_place w) ((backlog_settleWaits w).trans hb) fun hput =>
    ⟨w.settleWaits, hput, settleWaits_wait w rfl, ?_, ?_⟩
  · rw [himage]
  · rw [himage]

/-- A wait of a hamper goes on at once, or stalls the hamper. -/
theorem eventWait_hamper_completes (hs : s.isLive) {k : Fin 32} {h : Hamper} (hh : s.atHamper { slot := n, hamper := k } x h)
    (ev : Fin 32) (target : BitVec 16) :
    completes (.eventWait n (.hamper k) ev target) s [.sch] fun t => ∃ y, t.slotAt (coreId n.at_) n.slot.val = some y
      ∧ y.image.hampers.find? (fun g => g.ident == k.val) = some { h with
          waiting := if waitDone (x.eventCount ev.val) target.toNat then none else some (ev.val, target.toNat) }
      ∧ y.image.regs = x.image.regs ∧ y.image.events = x.image.events := by
  obtain ⟨⟨hx, hf, hw⟩, -⟩ := hh
  have hat := slotAt_of_slotNamed hx
  have hplace := slotAt_place hat
  let g : Hamper := { h with waiting := some (ev.val, target.toNat) }
  let w : Slot := x.setHamper g
  have he : exec (.eventWait n (.hamper k) ev target) s = .next ((s.putSlot w.settleWaits).kept s) := by
    change execEventWait n (.hamper k) ev target s = _
    rw [execEventWait, State.live_next s _ hs, hx]
    simp only [hf, hw, Bool.false_eq_true, if_false]
    rfl
  have hident : g.ident = k.val := by simpa using List.find?_some hf
  have himage := settleWaits_image w
  refine completes_of_parts he (changesOnly_putSlot s _) (by decide) ⟨w.settleWaits, slotAt_putSlot ?_ ?_, ?_, ?_, ?_⟩
  · rw [hat]; rfl
  · obtain ⟨hc, hi⟩ := settleWaits_place w
    rw [hc, hi]
    exact hplace
  · have hsame : ((fun g : Hamper => g.ident == k.val) ∘ Hamper.settled w) = fun g => g.ident == k.val := by
      funext z
      simp [Hamper.settled_ident]
    rw [himage, List.find?_map, hsame, find?_setHamper hf hident]
    change some (if waitDone (x.eventCount ev.val) target.toNat then _ else _) = _
    split <;> rfl
  · rw [himage]; rfl
  · rw [himage]; rfl

/-! ### Flags -/

/-- The slot that waits on a flag is in its place. -/
theorem slotAt_of_flagWaiter {addr target : Nat} (h : s.flagWaiter n addr target = some x) :
    s.slotAt (coreId n.at_) n.slot.val = some x := by
  unfold State.flagWaiter at h
  split at h
  · cases h
  next z hz =>
    split at h
    · split at h
      · cases h
        exact hz
      · cases h
    · exact slotAt_of_slotNamed h

/-- A look at a flag that satisfies its target: the slot waits no more, and its core wakes. -/
theorem flagWait_goes_on (hs : s.isLive) {addr : BitVec 48} {target : Word}
    (hx : s.flagWaiter n addr.toNat target.toNat = some x) (hlow : (s.clusterShareOf x).1 ≤ addr.toNat)
    (hf : s.accessFault (s.clusterShareOf x) [addr.toNat - (s.clusterShareOf x).1] 4 false = none)
    (hdone : (BitVec.ofNat 32 (s.le addr.toNat 4) - target).toNat < 2 ^ 31) :
    completes (.flagWait n addr target) s [.free, .regs, .mem, .err, .sch, .boxes, .dbg] fun t => ∃ y,
      t.slotAt (coreId n.at_) n.slot.val = some y ∧ y.wait = none ∧ y.yielded = false ∧ y.image.regs = x.image.regs
        ∧ y.image.events = x.image.events := by
  have hat := slotAt_of_flagWaiter hx
  obtain ⟨hc, hi⟩ := slotAt_place hat
  have he : exec (.flagWait n addr target) s =
      .next ((((s.countHalo x).putSlot { x with wait := none, yielded := false }).wakeCore x.core).kept s) := by
    change execFlagWait n addr target s = _
    rw [execFlagWait, State.live_next s _ hs, hx]
    simp only [Nat.not_lt.2 hlow, if_false, hf, hdone, if_true]
  let goesOn (y : Slot) : Prop := y.core = x.core → y.idx = x.idx → y.wait = none ∧ y.yielded = false
    ∧ y.image.regs = x.image.regs ∧ y.image.events = x.image.events
  have hkept : KeptByRunning goesOn := ⟨fun _ _ h => h, fun _ h hc hi => ⟨rfl, (h hc hi).2⟩, fun _ _ h => h⟩
  have hhalo : changesOnly runParts s (s.countHalo x) ∧ (s.countHalo x).sch = s.sch := by
    unfold State.countHalo
    split
    · exact ⟨changesOnly_mono (changesOnly_count _ _ _ _) (by decide), rfl⟩
    · exact ⟨changesOnly_refl _ s, rfl⟩
  have hstart : changesOnly runParts s ((s.countHalo x).putSlot { x with wait := none, yielded := false }) :=
    changesOnly_trans hhalo.1 (changesOnly_mono (changesOnly_putSlot _ _) (by decide))
  have hput : ((s.countHalo x).putSlot { x with wait := none, yielded := false }).slotAt x.core x.idx =
      some { x with wait := none, yielded := false } := by
    refine slotAt_putSlot ?_ ⟨rfl, rfl⟩
    rw [State.slotAt, hhalo.2, hc, hi]
    exact Option.isSome_iff_exists.2 ⟨x, hat⟩
  have hall : ∀ y ∈ ((s.countHalo x).putSlot { x with wait := none, yielded := false }).sch.slots, goesOn y := by
    intro y hy hyc hyi
    obtain ⟨z, -, rfl⟩ := List.mem_map.1 hy
    split at hyc
    next hz => simp [hz]
    next hz => simp [hz] at hyi; simp_all
  have hwake := (Runs.refl hall).wakeCore hkept (core := x.core)
  refine completes_of_parts he (changesOnly_trans hstart hwake.parts) (by decide) ?_
  obtain ⟨y, hy⟩ := Option.isSome_iff_exists.1 (hwake.slotAt_isSome (by rw [hput]; rfl))
  obtain ⟨hyc, hyi⟩ := slotAt_place hy
  exact ⟨y, by rw [← hc, ← hi]; exact hy, hwake.of_slotAt hy hyc hyi⟩

/-- A look at a flag that does not satisfy its target leaves the slot waiting. -/
theorem flagWait_waits (hs : s.isLive) {addr : BitVec 48} {target : Word}
    (hx : s.flagWaiter n addr.toNat target.toNat = some x) (hlow : (s.clusterShareOf x).1 ≤ addr.toNat)
    (hf : s.accessFault (s.clusterShareOf x) [addr.toNat - (s.clusterShareOf x).1] 4 false = none)
    (hdone : 2 ^ 31 ≤ (BitVec.ofNat 32 (s.le addr.toNat 4) - target).toNat) (hw : x.wait = none) :
    completes (.flagWait n addr target) s [.sch] fun t =>
      t.slotAt (coreId n.at_) n.slot.val = some { x with wait := some (.flag addr.toNat target.toNat, s.now) } := by
  have hat := slotAt_of_flagWaiter hx
  have hplace := slotAt_place hat
  have he : exec (.flagWait n addr target) s =
      .next ((s.putSlot { x with wait := some (.flag addr.toNat target.toNat, s.now) }).kept s) := by
    change execFlagWait n addr target s = _
    rw [execFlagWait, State.live_next s _ hs, hx]
    simp only [Nat.not_lt.2 hlow, if_false, hf, Nat.not_lt.2 hdone, hw]
  exact completes_of_parts he (changesOnly_putSlot s _) (by decide) (slotAt_putSlot (by rw [hat]; rfl) hplace)

end

end Sys2Proof.Machine

open Sys2Proof Sys2Proof.Machine

/-- Settles O12: engines with nothing queued do nothing after a signal or a wait; when a core wakes, every slot at the place of the one
that waited has waited no more, which is kept by whatever a core does as it takes a slot. -/
theorem eventsAndFlags : Obligations.EventsAndFlags := by
  refine ⟨?signal, ?control, ?hamper, ?goesOn, ?waits⟩
  case signal => exact fun s n ev x hs hx hb => eventSignal_completes hs hx hb ev
  case control => exact fun s n ev target x hs hx hw hb => eventWait_control_completes hs hx hw hb ev target
  case hamper => exact fun s n k ev target x h hs hh => eventWait_hamper_completes hs hh ev target
  case goesOn => exact fun s n addr target x hs hx hlow hf hdone => flagWait_goes_on hs hx hlow hf hdone
  case waits => exact fun s n addr target x hs hx hlow hf hdone hw => flagWait_waits hs hx hlow hf hdone hw
end

section
/-! PROOFS. Token records, iterations and cancellation; slot counters and trace markers (R124–R126, R381, R388). -/

namespace Sys2Proof.Machine

/-! ### Token records -/

theorem tokenRecord_length (l : TokenLoop) (token : Word) (last : Bool) (reason : Nat) : (tokenRecord l token last reason).length = 16 := by
  simp [tokenRecord, zeros]

/-- A write access that is granted and that no word in error stops is made. -/
theorem writeFor_ok {s : State} {c a : Nat} {bs : List Byte} (hok : s.accessOk c a bs.length true = true)
    (he : s.writeError a bs.length = none) : s.writeFor c a bs = .ok (s.write a bs) := by
  rw [State.writeFor, if_pos hok, he]

/-- A range of memory after a write of it that no word in error stops. -/
theorem bytes_write {s : State} {a : Nat} {bs : List Byte} (he : s.writeError a bs.length = none) :
    (s.write a bs).bytes a bs.length = bs :=
  State.bytes_eq_of_byte fun i hi => by rw [State.byte_write s a _ bs he, if_pos (by omega), Nat.add_sub_cancel_left]

theorem sameMemBut_write (s : State) (a : Nat) (bs : List Byte) : sameMemBut a bs.length s (s.write a bs) :=
  fun b hb => State.byte_write_apart s a b bs (by omega)

/-- Where a context's next token record goes. -/
def State.tokenAt (s : State) (c : Nat) : Nat :=
  s.rdAddr R.SCT_RES_LO R.SCT_RES_HI [c] + 16 * ((s.rd R.SCT_RES_WR [c]).toNat % 2 ^ s.fld R.SCT_RES_CFG [c] 5 1)

/-- The state `t` once the record that it holds has been counted, and the wait that it ends. -/
def State.tokenCounted (t : State) (c : Nat) (l : TokenLoop) (wr : Word) : State :=
  let t := t.poke R.SCT_RES_WR [c] (wr + 1)
  let t := t.withSct { t.sct with
    resultWait := if t.sct.resultWait.any fun e => e.1 == c then t.sct.resultWait else t.sct.resultWait ++ [(c, t.now)] }
  match l.stalled with
  | some since => t.account c 4 (t.now - since)
  | none => t

/-- The state once a record has gone to the ring. -/
def State.tokenOut (s : State) (c : Nat) (l : TokenLoop) (rec : List Byte) : State :=
  (s.write (s.tokenAt c) rec).tokenCounted c l (s.rd R.SCT_RES_WR [c])

/-- The loop of a task once its iteration has written its record. -/
def TokenLoop.wrote (l : TokenLoop) (last : Bool) (reason : Nat) : TokenLoop :=
  { l with written := true, stalled := none, finished := if last then some reason else l.finished }

section
variable {s : State} {u : Task} {l : TokenLoop}

/-- A record that memory takes goes to the ring. The write is named before the match on it is opened: else the kernel would evaluate
it to compare two forms of the match. -/
theorem putToken_of_writeFor {token : Word} {last : Bool} {reason : Nat} {r : State}
    (hw : s.writeFor u.ctx (s.tokenAt u.ctx) (tokenRecord l token last reason) = .ok r) :
    s.putToken u l token last reason =
      (r.tokenCounted u.ctx l (s.rd R.SCT_RES_WR [u.ctx])).putTask { u with token := some (l.wrote last reason) } := by
  conv => lhs; fun; fun; fun; fun; fun; fun; delta State.putToken
  extract_lets c wr a
  have hw : s.writeFor c a (tokenRecord l token last reason) = .ok r := hw
  generalize s.writeFor c a (tokenRecord l token last reason) = w at hw ⊢
  subst hw
  rfl

/-- A record that the context may write goes to the ring. -/
theorem putToken_eq (token : Word) (last : Bool) (reason : Nat) (hok : s.accessOk u.ctx (s.tokenAt u.ctx) 16 true = true)
    (he : s.writeError (s.tokenAt u.ctx) 16 = none) :
    s.putToken u l token last reason =
      (s.tokenOut u.ctx l (tokenRecord l token last reason)).putTask { u with token := some (l.wrote last reason) } := by
  have hlen := tokenRecord_length l token last reason
  exact putToken_of_writeFor (writeFor_ok (by rw [hlen]; exact hok) (by rw [hlen]; exact he))

theorem tokenOut_parts (s : State) (c : Nat) (l : TokenLoop) (rec : List Byte) :
    changesOnly [.regs, .mem, .err, .sct] s (s.tokenOut c l rec) := by
  have hrec : changesOnly [.regs, .mem, .err, .sct] s
      ((s.write (s.tokenAt c) rec).poke R.SCT_RES_WR [c] (s.rd R.SCT_RES_WR [c] + 1)) :=
    changesOnly_trans (changesOnly_mono (changesOnly_write s _ rec) (by decide)) (changesOnly_mono (changesOnly_poke _ _ _ _) (by decide))
  have hsct := fun x => changesOnly_trans hrec (changesOnly_mono (changesOnly_withSct _ x) (by decide))
  unfold State.tokenOut State.tokenCounted
  dsimp only
  split
  · exact changesOnly_trans (hsct _) (changesOnly_trans (changesOnly_mono (changesOnly_poke _ _ _ _) (by decide))
      (changesOnly_mono (changesOnly_poke _ _ _ _) (by decide)))
  · exact hsct _

theorem tokenOut_mem (s : State) (c : Nat) (l : TokenLoop) (rec : List Byte) :
    (s.tokenOut c l rec).mem = (s.write (s.tokenAt c) rec).mem := by
  unfold State.tokenOut State.tokenCounted
  dsimp only
  split <;> rfl

/-- The count of a ring is no accounting counter. -/
theorem resWr_ne_acct (c : Nat) {k : Nat} (hk : k < 16) :
    regAddr R.SCT_RES_WR [c] ≠ regAddr R.SCH_CTX_ACCT [c, k] := by
  simp only [regAddr, regOffset, R.SCT_RES_WR, R.SCH_CTX_ACCT]
  omega

theorem rd_account_ne {s : State} {c k n : Nat} {r : Reg} {ix : List Nat} (hlow : regAddr r ix ≠ regAddr R.SCH_CTX_ACCT [c, 2 * k])
    (hhigh : regAddr r ix ≠ regAddr R.SCH_CTX_ACCT [c, 2 * k + 1]) : (s.account c k n).rd r ix = s.rd r ix :=
  (State.rd_poke_ne _ _ _ _ _ _ hhigh).trans (State.rd_poke_ne _ _ _ _ _ _ hlow)

theorem rd_tokenOut (c : Nat) (l : TokenLoop) (rec : List Byte) :
    (s.tokenOut c l rec).rd R.SCT_RES_WR [c] = s.rd R.SCT_RES_WR [c] + 1 := by
  have hcount (t : State) (x : SctState) :
      ((t.poke R.SCT_RES_WR [c] (s.rd R.SCT_RES_WR [c] + 1)).withSct x).rd R.SCT_RES_WR [c] = s.rd R.SCT_RES_WR [c] + 1 :=
    State.rd_poke_self t _ _ _
  unfold State.tokenOut State.tokenCounted
  dsimp only
  split
  · rw [rd_account_ne (resWr_ne_acct c (by omega)) (resWr_ne_acct c (by omega)), hcount]
  · exact hcount _ _

/-- What an instruction leaves that writes a token record for a task. -/
theorem completes_of_putToken {c : Instr} {q : Nat} {seq token : Word} {last : Bool} {reason : Nat} {post : State → Prop}
    (hu : s.task q seq = some u) (hok : s.accessOk u.ctx (s.tokenAt u.ctx) 16 true = true)
    (he : s.writeError (s.tokenAt u.ctx) 16 = none) (hexec : exec c s = .next ((s.putToken u l token last reason).kept s))
    (hpost : ∀ t : State, t.rd R.SCT_RES_WR [u.ctx] = s.rd R.SCT_RES_WR [u.ctx] + 1 →
      t.bytes (s.tokenAt u.ctx) 16 = tokenRecord l token last reason → sameMemBut (s.tokenAt u.ctx) 16 s t →
      t.task q seq = some { u with token := some (l.wrote last reason) } → post t) :
    completes c s [.regs, .mem, .err, .sct, .sch] post := by
  have hlen := tokenRecord_length l token last reason
  have hout := tokenOut_parts s u.ctx l (tokenRecord l token last reason)
  have hbyte (b : Nat) : (s.tokenOut u.ctx l (tokenRecord l token last reason)).byte b =
      (s.write (s.tokenAt u.ctx) (tokenRecord l token last reason)).byte b := by
    rw [State.byte, tokenOut_mem]
    rfl
  have htask : (s.tokenOut u.ctx l (tokenRecord l token last reason)).task q seq = some u := by
    rw [State.task, hout .sch (by decide)]
    exact hu
  rw [putToken_eq token last reason hok he] at hexec
  refine completes_of_parts hexec
    (changesOnly_trans (changesOnly_mono hout (by decide)) (changesOnly_mono (changesOnly_withSch _ _) (by decide))) (by decide)
    (hpost _ (rd_tokenOut u.ctx l _) ?_ ?_ (task_putTask htask rfl rfl))
  · have hrec := bytes_write (bs := tokenRecord l token last reason) (hlen.symm ▸ he)
    rw [hlen] at hrec
    exact (State.bytes_congr fun x _ _ => hbyte x).trans hrec
  · exact fun b hb => (hbyte b).trans (sameMemBut_write s _ _ b (hlen.symm ▸ hb))

end

/-! ### The instructions of a token loop -/

section
variable {s : State} {q : Fin 16384} {seq : Word} {u : Task} {l : TokenLoop}

/-- An instruction that leaves a task with another token loop completes. -/
theorem completes_of_putTask {c : Instr} {v : Task} (hu : s.task q.val seq = some u) (hexec : exec c s = .next ((s.putTask v).kept s))
    (hq : v.qid = u.qid) (hseq : v.entry.seq = u.entry.seq) : completes c s [.sch] fun t => t.task q.val seq = some v :=
  completes_of_parts hexec (changesOnly_withSch _ _) (by decide) (task_putTask hu hq hseq)

/-- The reason with which an iteration's token ends its loop, 0 if it does not (R126). -/
def Task.endReason (u : Task) (l : TokenLoop) (reason : Fin 6) : Nat :=
  if reason = 1 then 1 else if l.cancel then 3 else if reason = 5 then 5 else if l.index + 1 = u.launch.maxTokens then 2 else 0

/-- What an iteration does that emits its token, in a loop that goes on. -/
theorem exec_tokenRecordWrite (hs : s.isLive) (hu : s.task q.val seq = some u) (hstart : u.started = true) (hl : u.token = some l)
    (hw : l.written = false) (hf : l.finished = none) (token : Word) (reason : Fin 6) :
    exec (.tokenRecordWrite q seq token reason) s = .next
      ((if s.resultRoom u.ctx then s.putToken u l token (u.endReason l reason != 0) (u.endReason l reason) else s.stallToken u l).kept s) := by
  change execTokenRecordWrite q seq token reason s = _
  rw [execTokenRecordWrite, State.live_next s _ hs, hu]
  simp only [hl, hstart, hw, hf, Task.endReason]
  cases s.resultRoom u.ctx <;> simp

/-- What the end of an iteration does whose loop is over. -/
theorem exec_tokenIterationEnd (hs : s.isLive) (hu : s.task q.val seq = some u) (hstart : u.started = true) (hl : u.token = some l)
    (hend : l.written = false ∨ l.cancel = true) (hf : l.finished = none) :
    exec (.tokenIterationEnd q seq) s = .next
      ((if s.resultRoom u.ctx then s.lastToken u l (if l.cancel then 3 else 5) else s.stallToken u l).kept s) := by
  have hgo : (l.written && !l.cancel) = false := by
    obtain h | h := hend <;> simp [h]
  change execTokenIterationEnd q seq s = _
  rw [execTokenIterationEnd, State.live_next s _ hs, hu]
  simp only [hl, hstart, hgo, hf]
  cases s.resultRoom u.ctx <;> simp

theorem tokenRecordWrite_completes (hs : s.isLive) (hu : s.task q.val seq = some u) (hstart : u.started = true)
    (hl : u.token = some l) (hw : l.written = false) (hf : l.finished = none) (hroom : s.resultRoom u.ctx = true) (token : Word)
    (reason : Fin 6) {r : Nat} (hr : r = u.endReason l reason) (hok : s.accessOk u.ctx (s.tokenAt u.ctx) 16 true = true)
    (he : s.writeError (s.tokenAt u.ctx) 16 = none) :
    completes (.tokenRecordWrite q seq token reason) s [.regs, .mem, .err, .sct, .sch] fun t =>
      t.rd R.SCT_RES_WR [u.ctx] = s.rd R.SCT_RES_WR [u.ctx] + 1
      ∧ t.bytes (s.tokenAt u.ctx) 16 = tokenRecord l token (r != 0) r ∧ sameMemBut (s.tokenAt u.ctx) 16 s t
      ∧ t.task q.val seq = some { u with token := some { l with
          written := true, stalled := none, finished := if r = 0 then none else some r } } := by
  subst hr
  have hexec := exec_tokenRecordWrite hs hu hstart hl hw hf token reason
  rw [hroom, if_pos rfl] at hexec
  refine completes_of_putToken hu hok he hexec fun t hcount hbytes hmem htask =>
    ⟨hcount, hbytes, hmem, htask.trans ?_⟩
  by_cases h0 : u.endReason l reason = 0 <;> simp [TokenLoop.wrote, h0, hf]

theorem tokenIterationEnd_last (hs : s.isLive) (hu : s.task q.val seq = some u) (hstart : u.started = true)
    (hl : u.token = some l) (hend : l.written = false ∨ l.cancel = true) (hf : l.finished = none) (hroom : s.resultRoom u.ctx = true)
    (hok : s.accessOk u.ctx (s.tokenAt u.ctx) 16 true = true) (he : s.writeError (s.tokenAt u.ctx) 16 = none) :
    let m := if l.written then { l with index := l.index + 1 } else l
    completes (.tokenIterationEnd q seq) s [.regs, .mem, .err, .sct, .sch] fun t =>
      t.rd R.SCT_RES_WR [u.ctx] = s.rd R.SCT_RES_WR [u.ctx] + 1 ∧ sameMemBut (s.tokenAt u.ctx) 16 s t
      ∧ t.bytes (s.tokenAt u.ctx) 16 = tokenRecord m 0xFFFFFFFF true (if l.cancel then 3 else 5)
      ∧ t.task q.val seq = some { u with token := some { m with
          written := true, stalled := none, finished := some (if l.cancel then 3 else 5) } } := by
  have hexec := exec_tokenIterationEnd hs hu hstart hl hend hf
  rw [hroom, if_pos rfl, State.lastToken] at hexec
  exact completes_of_putToken hu hok he hexec fun t hcount hbytes hmem htask =>
    ⟨hcount, hmem, hbytes, htask⟩

/-- With a full ring, a loop stalls. -/
theorem token_stalls (hs : s.isLive) (hu : s.task q.val seq = some u) (hstart : u.started = true) (hl : u.token = some l)
    (hf : l.finished = none) (hroom : s.resultRoom u.ctx = false) {token : Word} {reason : Fin 6} {c : Instr}
    (hc : c = .tokenRecordWrite q seq token reason ∧ l.written = false
      ∨ c = .tokenIterationEnd q seq ∧ (l.written = false ∨ l.cancel = true)) :
    completes c s [.sch] fun t => t.task q.val seq = some { u with token := some { l with stalled := some (l.stalled.getD s.now) } } := by
  obtain ⟨rfl, hw⟩ | ⟨rfl, hend⟩ := hc
  · have hexec := exec_tokenRecordWrite hs hu hstart hl hw hf token reason
    rw [hroom, if_neg Bool.false_ne_true] at hexec
    exact completes_of_putTask hu hexec rfl rfl
  · have hexec := exec_tokenIterationEnd hs hu hstart hl hend hf
    rw [hroom, if_neg Bool.false_ne_true] at hexec
    exact completes_of_putTask hu hexec rfl rfl

/-- With a full ring, a timeout waits. -/
theorem taskTimeout_waits (hs : s.isLive) (hu : s.task q.val seq = some u) (hstart : u.started = true) (hl : u.token = some l)
    (hf : l.finished = none) (ht : u.launch.timeout ≠ 0) (hroom : s.resultRoom u.ctx = false) (hring : s.bit R.SCT_RES_CFG [u.ctx] 0 = true) :
    completes (.taskTimeout q seq) s [.sch] fun t =>
      t.task q.val seq = some { u with token := some { l with timedOut := true, stalled := some (l.stalled.getD s.now) } } := by
  have hexec : exec (.taskTimeout q seq) s = .next ((s.stallToken u { l with timedOut := true }).kept s) := by
    change execTaskTimeout q seq s = _
    rw [execTaskTimeout, State.live_next s _ hs, State.timeoutTask, hu]
    simp only [hl, hstart, hf, hring, hroom, ht]
    rfl
  exact completes_of_putTask hu hexec rfl rfl

/-- An iteration with its record written ends, and the next one starts. -/
theorem tokenIterationEnd_next (hs : s.isLive) (hu : s.task q.val seq = some u) (hstart : u.started = true) (hl : u.token = some l)
    (hw : l.written = true) (hc : l.cancel = false) (hf : l.finished = none) :
    completes (.tokenIterationEnd q seq) s [.sch] fun t => t.task q.val seq = some { u with
      timerStart := s.now, token := some { l with written := false, index := l.index + 1 } } := by
  refine completes_of_putTask hu ?_ rfl rfl
  change execTokenIterationEnd q seq s = _
  rw [execTokenIterationEnd, State.live_next s _ hs, hu]
  simp only [hl, hstart, hw, hc, hf]
  rfl

end

/-- Does a cancel name the queue of a task (R126)? -/
def Task.cancelled (u : Task) (c : Nat) (v : Word) : Bool := u.ctx == c && (bits v 8 8 == 1 || u.qid % 256 == bits v 7 0)

/-- The task, told to end its token loop. -/
def Task.toldToEnd (u : Task) : Task := { u with token := u.token.map fun l => { l with cancel := true } }

/-- A cancel reaches the loops of the queues that it names, and no other. -/
theorem tokenLoopCancel_completes {s : State} (hs : s.isLive) (c : Fin 64) (v : Word) :
    completes (.tokenLoopCancel c v) s [.sch] fun t => t.sch = { s.sch with tasks := t.sch.tasks }
      ∧ t.sch.tasks.length = s.sch.tasks.length
      ∧ (∀ u ∈ t.sch.tasks, u.ctx = c.val → (bits v 8 8 = 1 ∨ u.qid % 256 = bits v 7 0) → ∀ l, u.token = some l → l.cancel = true)
      ∧ ∀ u ∈ s.sch.tasks, (u.ctx ≠ c.val ∨ (bits v 8 8 = 0 ∧ u.qid % 256 ≠ bits v 7 0)) → u ∈ t.sch.tasks := by
  have hnamed (u : Task) : u.cancelled c.val v = true ↔ u.ctx = c.val ∧ (bits v 8 8 = 1 ∨ u.qid % 256 = bits v 7 0) := by
    simp [Task.cancelled]
  have hexec : exec (.tokenLoopCancel c v) s = .next ((s.withSch
      { s.sch with tasks := s.sch.tasks.map fun u => if u.cancelled c.val v then u.toldToEnd else u }).kept s) :=
    show execTokenLoopCancel c v s = _ from State.live_next s _ hs
  refine completes_of_parts hexec (changesOnly_withSch _ _) (by decide)
    ⟨rfl, List.length_map .., fun u hu hctx hq l hl => ?_, fun u hu hapart => ?_⟩
  · obtain ⟨w, -, rfl⟩ := List.mem_map.1 hu
    by_cases hw : w.cancelled c.val v = true
    · rw [if_pos hw] at hl
      obtain ⟨m, -, rfl⟩ := Option.map_eq_some_iff.1 hl
      rfl
    · rw [if_neg hw] at hctx hq
      exact absurd ((hnamed w).2 ⟨hctx, hq⟩) hw
  · refine List.mem_map.2 ⟨u, hu, if_neg fun h => ?_⟩
    obtain ⟨hctx, hq⟩ := (hnamed u).1 h
    omega

/-! ### Slot counters and markers -/

/-- A slot counter that a program reads is a free value. -/
theorem slotCounterRead_completes {s : State} {n : SlotName} {x : Slot} (hs : s.isLive) (hx : s.slotNamed n = some x) (k : Fin 4) :
    slotCompletes (.slotCounterRead n k) s n x [.free, .sch] fun y _ =>
      vecGet y.image.counters k.val 0 = s.drawn 32 ∧ y.image.regs = x.image.regs := by
  have hexec : exec (.slotCounterRead n k) s = .next ((s.draw.putSlot
      { x with image := { x.image with counters := vecSet x.image.counters k.val (s.drawn 32) } }).kept s) := by
    change execSlotCounterRead n k s = _
    rw [execSlotCounterRead, State.live_next s _ hs, hx]
  exact slotCompletes_of_putSlot hexec (changesOnly_mono (changesOnly_draw s) (by decide)) (by decide) (slotAt_of_slotNamed hx) rfl rfl
    ⟨vecGet_vecSet_self _ _ _ k.isLt, rfl⟩

/-- Both branches of a choice change no more than is allowed. -/
theorem ChangesWithin.ite {parts : List Part} {moved : Nat → Prop} {s t u : State} {c : Prop} [Decidable c] (ht : ChangesWithin parts moved s t)
    (hu : ChangesWithin parts moved s u) : ChangesWithin parts moved s (if c then t else u) := by
  split
  exacts [ht, hu]

/-- The parts that a trace record changes. -/
abbrev traceParts : List Part := [.regs, .mem, .err, .dbg]

/-- A record for trace ring 0: its count moves on, and what ring 1 takes stays. -/
theorem traceTo_zero (s : State) (source word : Nat) (payload : List Byte) :
    changesOnly traceParts s (s.traceTo 0 source word payload)
      ∧ (s.traceTo 0 source word payload).rd R.TRC_RING_WR [0] = s.rd R.TRC_RING_WR [0] + 1
      ∧ ∀ src ctx, (s.traceTo 0 source word payload).traceTakes 1 src ctx = s.traceTakes 1 src ctx := by
  have hcounted : ∃ a b, ChangesWithin traceParts (· ∈ [regAddr R.TRC_RING_LOSS [0], regAddr R.TRC_RING_CFG [0]])
      ((s.write a b).poke R.TRC_RING_WR [0] (s.rd R.TRC_RING_WR [0] + 1)) (s.traceTo 0 source word payload) := by
    unfold State.traceTo
    dsimp only
    exact ⟨_, _, .trans (.ite (.countSat _ _ _ _ _ _ _ (by decide) (by decide) (by decide)) (.refl _ _ _))
      (.of_cfg (fun p hp => by cases p <;> first | rfl | simp at hp) rfl rfl rfl)⟩
  obtain ⟨a, b, hafter⟩ := hcounted
  have hu : changesOnly traceParts s (s.write a b) := changesOnly_mono (changesOnly_write s _ _) (by decide)
  have hcfg : (s.write a b).cfg = s.cfg := changesOnly_write s _ _ .regs (by decide)
  have hrd {r : Reg} {ix : List Nat} (hwr : regAddr r ix ≠ regAddr R.TRC_RING_WR [0])
      (hrest : regAddr r ix ∉ [regAddr R.TRC_RING_LOSS [0], regAddr R.TRC_RING_CFG [0]]) :
      (s.traceTo 0 source word payload).rd r ix = s.rd r ix := by
    rw [hafter.rd hrest, State.rd_poke_ne _ _ _ _ _ _ hwr, State.rd, State.rd, hcfg]
  refine ⟨?parts, ?count, fun src ctx => ?takes⟩
  case parts => exact changesOnly_trans hu (changesOnly_trans (changesOnly_mono (changesOnly_poke _ _ _ _) (by decide)) hafter.parts)
  case count => rw [hafter.rd (by decide), State.rd_poke_self]
  case takes =>
    simp only [State.traceTakes.eq_def, State.bit, State.fld, State.rd64, hrd (r := R.TRC_RING_CFG) (ix := [1]) (by decide) (by decide),
      hrd (r := R.TRC_RING_CTX_LO) (ix := [1]) (by decide) (by decide), hrd (r := R.TRC_RING_CTX_HI) (ix := [1]) (by decide) (by decide)]

/-- A record that ring 0 alone takes. -/
theorem trace_zero {s : State} {source : Nat} {ctx : Option Nat} (h0 : s.traceTakes 0 source ctx = true)
    (h1 : s.traceTakes 1 source ctx = false) (word : Nat) (payload : List Byte) :
    s.trace source ctx word payload = s.traceTo 0 source word payload := by
  unfold State.trace
  rw [if_pos h0]
  dsimp only
  rw [(traceTo_zero s source word payload).2.2, h1, if_neg Bool.false_ne_true]

/-- A marker that ring 0 alone takes. -/
theorem traceMarker_completes {s : State} {source : Option SlotName} {ctx : Option Nat} {word : Nat} {v : BitVec 128} (hs : s.isLive)
    (he : exec (.traceMarker source v) s = s.live fun s => s.trace 9 ctx word (leBytes 16 v.toNat))
    (h0 : s.traceTakes 0 9 ctx = true) (h1 : s.traceTakes 1 9 ctx = false) :
    completes (.traceMarker source v) s [.regs, .mem, .err, .dbg] fun t => t.rd R.TRC_RING_WR [0] = s.rd R.TRC_RING_WR [0] + 1 := by
  obtain ⟨hparts, hcount, -⟩ := traceTo_zero s 9 word (leBytes 16 v.toNat)
  rw [State.live_next s _ hs, trace_zero h0 h1] at he
  exact completes_of_parts he hparts (by decide) hcount

end Sys2Proof.Machine

open Sys2Proof Sys2Proof.Machine

/-- Settles O30: a token record goes to memory and its ring's count moves on, which no accounting counter is; a loop that stalls, goes on
or is told to end changes nothing but its task; a marker goes to the ring that takes it. -/
theorem tokenLoops : Obligations.TokenLoops := by
  refine ⟨?write, ?stalls, ?timeout, ?next, ?last, ?cancel, ?counter, ?hostMarker, ?slotMarker, ?noMarker⟩
  case write =>
    exact fun s q seq token reason u l r hs _ hu hstart hl hw hf hroom hr hok he =>
      tokenRecordWrite_completes hs hu hstart hl hw hf hroom token reason hr hok he
  case stalls => exact fun s q seq token reason u l c hs hu hstart hl hf hroom hc => token_stalls hs hu hstart hl hf hroom hc
  case timeout =>
    exact fun s q seq u l hs hu hstart hl hf ht hroom hring => taskTimeout_waits hs hu hstart hl hf ht hroom hring
  case next => exact fun s q seq u l hs hu hstart hl hw hc hf => tokenIterationEnd_next hs hu hstart hl hw hc hf
  case last =>
    exact fun s q seq u l hs _ hu hstart hl hend hf hroom hok he => tokenIterationEnd_last hs hu hstart hl hend hf hroom hok he
  case cancel => exact fun s c v hs => tokenLoopCancel_completes hs c v
  case counter =>
    intro s n k x hs hx
    obtain ⟨t, he, hparts, y, hy, himage, hread, hregs⟩ := slotCounterRead_completes hs hx k
    exact ⟨t, he, hparts, y, hy, himage, hread, hregs⟩
  case hostMarker =>
    exact fun s v hs h0 h1 => traceMarker_completes hs (show execTraceMarker none v s = _ from rfl) h0 h1
  case slotMarker =>
    intro s n x v hs hx h0 h1
    refine traceMarker_completes hs (word := traceWord x.qid (x.qid / 256) x.core) ?_ h0 h1
    change execTraceMarker (some n) v s = _
    rw [execTraceMarker, State.live_next s _ hs, State.live_next s _ hs]
    dsimp only
    rw [hx]
  case noMarker =>
    intro s v hs h0 h1
    change execTraceMarker none v s = _
    rw [execTraceMarker, State.live_next s _ hs]
    simp [State.trace, h0, h1, State.kept]
end

section
/-! PROOFS. DMA: descriptors, transfers and the regulators that hold them (R114–R116, R280). -/

namespace Sys2Proof.Machine

/-! ### What the global counters change -/

/-- The registers of the global counters and of the loss of event records. -/
abbrev countRegs (a : Nat) : Prop := a = regAddr R.PMC_OVF [] ∨ (∃ i < 32, a = regAddr R.PMC_CNT [i]) ∨ a ∈ eventRegs

theorem pmcOne_counts (s : State) {i : Nat} (hi : i < 32) (n : Nat) : ChangesWithin [.free, .regs, .sct] countRegs s (s.pmcOne i n) := by
  have hcount := ChangesWithin.poke (parts := [.free, .regs, .sct]) (moved := countRegs) s R.PMC_CNT [i]
    (BitVec.ofNat 32 ((s.rd R.PMC_CNT [i]).toNat + n)) (by decide) (.inr (.inl ⟨i, hi, rfl⟩))
  unfold State.pmcOne
  dsimp only
  split
  · exact hcount
  · have hover := hcount.trans (.setBit _ R.PMC_OVF [] i true (by decide) (.inl rfl))
    split
    · exact hover.trans (event_within _ (by decide) (by decide) (fun a ha => .inr (.inr ha)) (by decide) _ _ _ _)
    · exact hover

theorem pmcAdd_counts (s : State) (kind unit event : Nat) (part : Option Nat) (n : Nat) :
    ChangesWithin [.free, .regs, .sct] countRegs s (s.pmcAdd kind unit event part n) := by
  unfold State.pmcAdd
  split
  · refine .foldl _ _ s fun s i hi => pmcOne_counts s ?_ n
    simpa [mem_rangeFrom] using (List.mem_filter.1 hi).1
  · exact .refl _ _ s

/-! ### What traffic changes of the scheduler -/

/-- Traffic has passed: of the scheduler the buckets alone have moved. -/
structure BucketsMoved (s t : State) : Prop where
  parts : changesOnly trafficParts s t
  sch : t.sch = { s.sch with buckets := t.sch.buckets }

namespace BucketsMoved
variable {s t u : State}

theorem refl (s : State) : BucketsMoved s s := ⟨changesOnly_refl _ s, rfl⟩

theorem trans (h : BucketsMoved s t) (k : BucketsMoved t u) : BucketsMoved s u :=
  ⟨changesOnly_trans h.parts k.parts, by rw [k.sch, h.sch]⟩

theorem foldl {α : Type} {f : State → α → State} (xs : List α) (h : ∀ s x, BucketsMoved s (f s x)) (s : State) :
    BucketsMoved s (xs.foldl f s) := by
  induction xs generalizing s with
  | nil => exact refl s
  | cons x xs ih => exact (h s x).trans (ih (f s x))

theorem of_parts {parts : List Part} (h : changesOnly parts s t) (hp : ∀ p ∈ parts, p ∈ trafficParts) (hsch : Part.sch ∉ parts) :
    BucketsMoved s t := by
  have hsame : t.sch = s.sch := h .sch hsch
  exact ⟨changesOnly_mono h hp, by rw [hsame]⟩

theorem poke (s : State) (r : Reg) (ix : List Nat) (v : Word) : BucketsMoved s (s.poke r ix v) :=
  of_parts (changesOnly_poke s r ix v) (by decide) (by decide)

theorem count64 (s : State) (lo hi : Reg) (ix : List Nat) (n : Nat) : BucketsMoved s (s.count64 lo hi ix n) :=
  (poke s _ _ _).trans (poke _ _ _ _)

theorem account (s : State) (ctx counter n : Nat) : BucketsMoved s (s.account ctx counter n) := (poke s _ _ _).trans (poke _ _ _ _)

theorem pmcAdd (s : State) (kind unit event : Nat) (part : Option Nat) (n : Nat) : BucketsMoved s (s.pmcAdd kind unit event part n) :=
  of_parts (pmcAdd_counts s kind unit event part n).parts (by decide) (by decide)

theorem putBucket (s : State) (b : Bucket) : BucketsMoved s (s.putBucket b) := ⟨changesOnly_mono (changesOnly_withSch _ _) (by decide), rfl⟩

theorem passOne (s : State) (p n : Nat) (borrowed : Bool) (g : Nat × Nat) : BucketsMoved s (s.passOne p n borrowed g) := by
  unfold State.passOne
  dsimp only
  split
  · split
    · exact ((count64 s _ _ _ n).trans (count64 _ _ _ _ n)).trans (pmcAdd _ _ _ _ _ _)
    · exact (count64 s _ _ _ n).trans (count64 _ _ _ _ n)
  · exact (count64 s _ _ _ n).trans (putBucket _ _)

theorem pass (s : State) (p n : Nat) (borrowed : Bool) (path : List (Nat × Nat)) : BucketsMoved s (s.pass p n borrowed path) :=
  foldl path (fun s g => passOne s p n borrowed g) s

theorem slots (h : BucketsMoved s t) : t.sch.slots = s.sch.slots := by rw [h.sch]

theorem slotAt (h : BucketsMoved s t) (core i : Nat) : t.slotAt core i = s.slotAt core i := by
  rw [State.slotAt, h.slots, State.slotAt]

theorem transfers (h : BucketsMoved s t) : t.sch.transfers = s.sch.transfers := by rw [h.sch]

theorem byte (h : BucketsMoved s t) (a : Nat) : t.byte a = s.byte a := by
  have hmem : t.mem = s.mem := h.parts .mem (by decide)
  rw [State.byte, State.byte, hmem]

end BucketsMoved

/-! ### Descriptors -/

/-- The end of a descriptor that has been put back is the end of it. -/
theorem putRun_none_putRun {channel : Nat} {r : DmaRun} (hr : r.channel = channel) (dma : List DmaRun) :
    putRun channel none (putRun channel (some r) dma) = putRun channel none dma := by
  induction dma with
  | nil => rfl
  | cons x xs ih =>
    by_cases hx : x.channel = channel
    · simp [putRun, hx, hr]
    · simp [putRun, hx, ih]

/-- A descriptor put back is the oldest of its channel. -/
theorem find?_putRun {channel : Nat} {r q : DmaRun} {dma : List DmaRun} (hr : r.channel = channel)
    (h : dma.find? (fun q => q.channel == channel) = some q) :
    (putRun channel (some r) dma).find? (fun q => q.channel == channel) = some r := by
  induction dma with
  | nil => cases h
  | cons x xs ih =>
    by_cases hx : x.channel = channel
    · simp [putRun, hx, hr]
    · simp only [List.find?_cons, beq_eq_false_iff_ne.2 hx] at h
      simp [putRun, hx, ih h]

theorem putRun_length (channel : Nat) (r : DmaRun) (dma : List DmaRun) : (putRun channel (some r) dma).length = dma.length := by
  induction dma with
  | nil => rfl
  | cons x xs ih =>
    by_cases hx : x.channel = channel <;> simp [putRun, hx, ih]

section
variable {s : State} {n : SlotName} {channel : Fin 4} {x : Slot} {r : DmaRun}

theorem dmaSubmit_completes (hs : s.isLive) (hx : s.slotNamed n = some x) (hst : s.stalls x = false) {desc : List Byte}
    (hgood : (decodeDma desc).good = true) :
    slotCompletes (.dmaSubmit n channel desc) s n x [.sch] fun y _ => y.image = { x.image with dma :=
      x.image.dma ++ [{ channel := channel.val, desc := decodeDma desc, next := 0, held := none, aborted := false }] } := by
  refine slotCompletes_of_putSlot (t := s) (y := { x with image := { x.image with dma := x.image.dma ++ [_] } }) ?_ (changesOnly_refl _ s)
    (by decide) (slotAt_of_slotNamed hx) rfl rfl rfl
  change execDmaSubmit n channel desc s = _
  rw [execDmaSubmit, State.live_next s _ hs, hx]
  simp only [hst, hgood, Bool.false_eq_true, if_false, Bool.not_true]

theorem dmaSubmit_bad (hs : s.isLive) (hx : s.slotNamed n = some x) (hst : s.stalls x = false) {desc : List Byte}
    (hbad : (decodeDma desc).good = false) : exec (.dmaSubmit n channel desc) s = .next ((s.endSlot x 0x10).kept s) := by
  change execDmaSubmit n channel desc s = _
  rw [execDmaSubmit, State.live_next s _ hs, hx]
  simp only [hst, hbad, Bool.false_eq_true, if_false, Bool.not_false, if_true]

/-! ### Transfers -/

/-- A result that there is is a result. -/
theorem eq_ok_of_toOption {ε α : Type} {e : Except ε α} {a : α} (h : e.toOption = some a) : e = .ok a := by
  cases e with
  | error e => cases h
  | ok b => exact congrArg _ (Option.some.inj h)

/-- A transfer that its context may make writes its bytes. -/
theorem makeMove_ok {ctx : Nat} {d : DmaDesc} {m : DmaMove} {bs : List Byte} (hb : (s.moveBytes ctx d m).toOption = some bs)
    (hok : s.accessOk ctx m.dst bs.length true = true) (he : s.writeError m.dst bs.length = none) :
    s.makeMove ctx d m = .ok (s.write m.dst bs) := by
  rw [State.makeMove, eq_ok_of_toOption hb]
  change s.tryWrite ctx m.dst bs = _
  rw [State.tryWrite, writeFor_ok hok he]

/-- A transfer that may proceed is made, and the next one asks. -/
theorem runDma_moves {core i channel fuel : Nat} {t : State} (hx : s.slotAt core i = some x)
    (hr : x.image.dma.find? (fun q => q.channel == channel) = some r) (hn : r.next < r.desc.transfers)
    (hw : s.moveWaits (x.core / 128) r.desc (r.desc.move r.next) = false) (hp : s.mayProceed (s.arriving x r) = some false)
    (hm : s.makeMove (x.qid / 256) r.desc (r.desc.move r.next) = .ok t) :
    ∃ u, BucketsMoved t u ∧ s.runDma core i channel (fuel + 1) =
      (u.putSlot (x.setRun channel (some { r with next := r.next + 1 }))).runDma core i channel fuel := by
  obtain ⟨rfl, rfl⟩ := slotAt_place hx
  obtain rfl : r.channel = channel := by simpa using List.find?_some hr
  refine ⟨?after, ?moved, ?eq⟩
  case eq =>
    rw [State.runDma, hx]
    dsimp only
    rw [hr]
    refine (if_neg (Nat.not_le.2 hn)).trans ((if_neg (by rw [hw]; decide)).trans ((if_pos (beq_iff_eq.2 hp)).trans ?_))
    rw [hm]
  case moved => exact ((BucketsMoved.pass t _ _ _ _).trans (.account _ _ _ _)).trans (.pmcAdd _ _ _ _ _ _)

/-- A descriptor with no transfer left leaves its channel, and signals. -/
theorem runDma_ends {core i channel fuel : Nat} (hx : s.slotAt core i = some x)
    (hr : x.image.dma.find? (fun q => q.channel == channel) = some r) (hn : r.desc.transfers ≤ r.next) :
    s.runDma core i channel (fuel + 1) =
      s.putSlot (if r.desc.signal then (x.setRun channel none).signal r.desc.event else x.setRun channel none) := by
  rw [State.runDma, hx]
  dsimp only
  rw [hr]
  exact if_pos hn

/-- A descriptor that has come to its end runs the transfers that are left of it. -/
theorem exec_dmaDescriptorComplete (hs : s.isLive) (h : s.atChannel n channel x r) :
    exec (.dmaDescriptorComplete n channel) s = .next (((s.runDma (coreId n.at_) n.slot.val channel.val
      (r.desc.transfers - r.next + 1)).drainEngines (coreId n.at_) n.slot.val).kept s) := by
  obtain ⟨hx, hlive, hhalt, -, hr, hheld, hab, -⟩ := h
  change execDmaDescriptorComplete n channel s = _
  rw [execDmaDescriptorComplete, State.live_next s _ hs]
  simp only [hx, hlive, hhalt, hr, hheld, hab, bne_self_eq_false, Bool.or_self, Bool.false_eq_true, if_false]

/-- The only transfer of a descriptor moves its bytes, and the descriptor leaves its channel. -/
theorem dmaDescriptorComplete_moves {bs : List Byte} (hs : s.isLive) (h : s.atChannel n channel x r) (hone : r.desc.transfers = 1)
    (hfirst : r.next = 0) (hev : r.desc.event < 32) (hp : s.mayProceed (s.arriving x r) = some false)
    (hb : (s.moveBytes (x.qid / 256) r.desc (r.desc.move 0)).toOption = some bs)
    (hok : s.accessOk (x.qid / 256) (r.desc.move 0).dst bs.length true = true) (he : s.writeError (r.desc.move 0).dst bs.length = none) :
    completes (.dmaDescriptorComplete n channel) s [.free, .regs, .mem, .err, .sct, .sch] fun t =>
      (∀ i, i < bs.length → t.byte ((r.desc.move 0).dst + i) = bs.getD i 0) ∧ sameMemBut (r.desc.move 0).dst bs.length s t
        ∧ ∃ y, t.slotAt (coreId n.at_) n.slot.val = some y ∧ y.image.dma = putRun channel.val none x.image.dma
          ∧ (r.desc.signal = true → y.eventCount r.desc.event = x.eventCount r.desc.event + 1)
          ∧ (r.desc.signal = false → y = { x with image := { x.image with dma := y.image.dma } }) := by
  have hexec := exec_dmaDescriptorComplete hs h
  obtain ⟨hx, -, -, hback, hr, -, -, hw⟩ := h
  have hplace := slotAt_place hx
  have hch : r.channel = channel.val := by simpa using List.find?_some hr
  obtain ⟨u, hu, hrun⟩ := runDma_moves (fuel := 1) hx hr (by omega) hw hp (by rw [hfirst]; exact makeMove_ok hb hok he)
  let moved := x.setRun channel.val (some { r with next := r.next + 1 })
  let y := if r.desc.signal then (x.setRun channel.val none).signal r.desc.event else x.setRun channel.val none
  have hmoved : (u.putSlot moved).slotAt (coreId n.at_) n.slot.val = some moved :=
    slotAt_putSlot (by rw [hu.slotAt, State.slotAt, (changesOnly_write s _ _ : changesOnly _ s (s.write _ bs)) .sch (by decide)]; exact
      Option.isSome_iff_exists.2 ⟨x, hx⟩) hplace
  have hgone : moved.setRun channel.val none = x.setRun channel.val none := by
    simp only [moved, Slot.setRun]
    rw [putRun_none_putRun (r := { r with next := r.next + 1 }) hch]
  have hends := runDma_ends (fuel := 0) hmoved (find?_putRun hch hr) (show r.desc.transfers ≤ r.next + 1 by omega)
  rw [hgone] at hends
  have hput : ((u.putSlot moved).putSlot y).slotAt (coreId n.at_) n.slot.val = some y := by
    refine slotAt_putSlot (by rw [hmoved]; rfl) ?_
    dsimp only [y]
    split
    · rw [(signal_place _ _).1, (signal_place _ _).2]; exact hplace
    · exact hplace
  have hidle : y.backlog = 0 := by
    dsimp only [y]
    split
    · exact (backlog_signal _ _).trans hback
    · exact hback
  rw [hone, hfirst, hrun, hends, drainEngines_of_backlog hput hidle] at hexec
  have hparts : changesOnly [.free, .regs, .mem, .err, .sct, .sch] s ((u.putSlot moved).putSlot y) :=
    changesOnly_trans (changesOnly_mono (changesOnly_write s _ bs) (by decide)) (changesOnly_trans (changesOnly_mono hu.parts (by decide))
      (changesOnly_trans (changesOnly_mono (changesOnly_putSlot _ _) (by decide)) (changesOnly_mono (changesOnly_putSlot _ _) (by decide))))
  refine completes_of_parts hexec hparts (by decide) ⟨fun i hi => ?_, fun b hb => ?_, y, hput, ?_, fun hsig => ?_, fun hsig => ?_⟩
  · exact (hu.byte _).trans (by rw [State.byte_write s _ _ bs he, if_pos (by omega), Nat.add_sub_cancel_left])
  · exact (hu.byte _).trans (sameMemBut_write s _ bs b hb)
  · dsimp only [y]
    split
    · exact dma_signal _ _
    · rfl
  · dsimp only [y]
    rw [if_pos hsig, eventCount_signal _ hev, if_pos rfl]
    rfl
  · dsimp only [y]
    rw [if_neg (by rw [hsig]; decide)]
    rfl

/-- Regulators that note a held transfer change the buckets alone. -/
theorem holdAt_foldl (p : Nat) (path : List (Nat × Nat)) (s : State) : ∃ bs, path.foldl (fun (s : State) g =>
    s.putBucket { s.bucket g p with heldNow := true }) s = s.withSch { s.sch with buckets := bs } := by
  induction path generalizing s with
  | nil => exact ⟨s.sch.buckets, rfl⟩
  | cons g path ih =>
    obtain ⟨bs, h⟩ := ih (s.putBucket { s.bucket g p with heldNow := true })
    exact ⟨bs, h⟩

/-- A transfer that may not proceed is held. -/
theorem runDma_held {core i channel fuel : Nat} (hx : s.slotAt core i = some x)
    (hr : x.image.dma.find? (fun q => q.channel == channel) = some r) (hn : r.next < r.desc.transfers)
    (hw : s.moveWaits (x.core / 128) r.desc (r.desc.move r.next) = false) (hp : s.mayProceed (s.arriving x r) ≠ some false) :
    ∃ bs, s.runDma core i channel (fuel + 1) = (s.withSch { s.sch with
        nextTransfer := s.sch.nextTransfer + 1, transfers := s.sch.transfers ++ [s.arriving x r], buckets := bs }).putSlot
      (x.setRun channel (some { r with held := some s.sch.nextTransfer })) := by
  obtain ⟨rfl, rfl⟩ := slotAt_place hx
  obtain rfl : r.channel = channel := by simpa using List.find?_some hr
  obtain ⟨bs, hbs⟩ := holdAt_foldl (s.ctxPart (x.qid / 256)) (s.movePath (x.core / 128) r.desc (r.desc.move r.next)) (s.withSch
    { s.sch with nextTransfer := s.sch.nextTransfer + 1, transfers := s.sch.transfers ++ [s.arriving x r] })
  refine ⟨bs, ?_⟩
  rw [State.runDma, hx]
  dsimp only
  rw [hr]
  refine (if_neg (Nat.not_le.2 hn)).trans ((if_neg (by rw [hw]; decide)).trans ((if_neg fun h => hp (beq_iff_eq.1 h)).trans ?_))
  exact congrArg (State.putSlot · _) hbs

/-- A transfer without its tokens, or behind one that has them, is held. -/
theorem dmaDescriptorComplete_held (hs : s.isLive) (h : s.atChannel n channel x r) (hn : r.next < r.desc.transfers)
    (hp : s.mayProceed (s.arriving x r) ≠ some false) :
    slotCompletes (.dmaDescriptorComplete n channel) s n x [.sch] fun y t =>
      t.sch.transfers = s.sch.transfers ++ [s.arriving x r] ∧ y.image.dma.length = x.image.dma.length
        ∧ y.image.dma.find? (fun q => q.channel == channel.val) = some { r with held := some s.sch.nextTransfer }
        ∧ y.image = { x.image with dma := y.image.dma } := by
  have hexec := exec_dmaDescriptorComplete hs h
  obtain ⟨hx, -, -, hback, hr, -, -, hw⟩ := h
  have hplace := slotAt_place hx
  have hch : r.channel = channel.val := by simpa using List.find?_some hr
  obtain ⟨bs, hrun⟩ := runDma_held (fuel := r.desc.transfers - r.next) hx hr hn hw hp
  let y := x.setRun channel.val (some { r with held := some s.sch.nextTransfer })
  have hat : (s.withSch { s.sch with
      nextTransfer := s.sch.nextTransfer + 1, transfers := s.sch.transfers ++ [s.arriving x r], buckets := bs }).slotAt
        (coreId n.at_) n.slot.val = some x := hx
  have hput := slotAt_putSlot (y := y) (by rw [hat]; rfl) hplace
  rw [hrun, drainEngines_of_backlog hput hback] at hexec
  exact slotCompletes_of_putSlot (y := y) hexec (changesOnly_withSch _ _) (by decide) hx rfl rfl
    ⟨rfl, putRun_length _ _ _, find?_putRun hch hr, rfl⟩

/-! ### Held transfers -/

/-- What memory a context may access the registers, the device and its image say. -/
theorem accessOk_of_cfg {t : State} (hcfg : t.cfg = s.cfg) (hdev : t.dev = s.dev) (himg : t.img = s.img) (ctx a m : Nat) (write : Bool) :
    t.accessOk ctx a m write = s.accessOk ctx a m write := by
  have ht : t = { t with cfg := s.cfg, dev := s.dev, img := s.img } := by rw [← hcfg, ← hdev, ← himg]
  have hregion : t.regionOk ctx a m write = s.regionOk ctx a m write := by
    unfold State.regionOk
    rw [hdev]
    generalize placeOf s.dev.assembly a = pl
    rw [ht]
    cases pl <;> rfl
  have hready : t.dramReady a m = s.dramReady a m := by rw [ht]; rfl
  rw [State.accessOk, State.accessOk, hregion, hready, hdev]

theorem accessOk_withSch (x : SchState) (ctx a m : Nat) (write : Bool) :
    (s.withSch x).accessOk ctx a m write = s.accessOk ctx a m write := by
  have hcfg : (s.withSch x).cfg = s.cfg := rfl
  exact accessOk_of_cfg hcfg rfl rfl ctx a m write

theorem tryRead_withSch (x : SchState) (ctx a m : Nat) : (s.withSch x).tryRead ctx a m = s.tryRead ctx a m := by
  have hok := accessOk_withSch (s := s) x ctx a m false
  have herr : (s.withSch x).readError a m = s.readError a m := rfl
  have hbytes : (s.withSch x).bytes a m = s.bytes a m := rfl
  rw [State.tryRead, State.readFor, hok, herr, hbytes, State.tryRead, State.readFor]

theorem gather_withSch (x : SchState) (ctx : Nat) (d : DmaDesc) (fuel o m : Nat) :
    (s.withSch x).gather ctx d fuel o m = s.gather ctx d fuel o m := by
  induction fuel generalizing o m with
  | zero => rfl
  | succ fuel ih =>
    rw [State.gather, State.gather]
    simp only [ih, State.gatherAt, tryRead_withSch]

theorem moveBytes_withSch (x : SchState) (ctx : Nat) (d : DmaDesc) (m : DmaMove) :
    (s.withSch x).moveBytes ctx d m = s.moveBytes ctx d m := by
  rw [State.moveBytes, State.moveBytes, gather_withSch, tryRead_withSch]

section
variable {k : Nat} {h : HeldTransfer}

/-- A held transfer that may not proceed yet, or whose module retrains, stays. -/
theorem transferRelease_stays (hs : s.isLive) (hk : s.sch.transfers.find? (fun t => t.ident == k) = some h)
    (hx : s.slotAt h.core h.idx = some x) (hr : x.image.dma.find? (fun q => q.channel == h.channel && q.held == some h.ident) = some r)
    (hwait : s.moveWaits (h.core / 128) r.desc (r.desc.move r.next) = true ∨ s.mayProceed h = none) :
    exec (.transferRelease k) s = .next s := by
  change execTransferRelease k s = _
  rw [execTransferRelease, State.live_next s _ hs, hk]
  simp only [hx, Option.bind_some, hr, Option.map_some]
  obtain hw | hp := hwait
  · rw [if_pos hw]; rfl
  · rw [hp, ite_self]; rfl

/-- A held transfer that may proceed moves its bytes and no longer waits. -/
theorem transferRelease_moves {borrowed : Bool} {bs : List Byte} (hs : s.isLive)
    (hk : s.sch.transfers.find? (fun t => t.ident == k) = some h)
    (hx : s.slotAt h.core h.idx = some x) (hr : x.image.dma.find? (fun q => q.channel == h.channel && q.held == some h.ident) = some r)
    (hp : s.mayProceed h = some borrowed) (hw : s.moveWaits (h.core / 128) r.desc (r.desc.move r.next) = false)
    (hb : (s.moveBytes (x.qid / 256) r.desc (r.desc.move r.next)).toOption = some bs)
    (hok : s.accessOk (x.qid / 256) (r.desc.move r.next).dst bs.length true = true)
    (he : s.writeError (r.desc.move r.next).dst bs.length = none) :
    completes (.transferRelease k) s [.free, .regs, .mem, .err, .sct, .sch] fun t =>
      (∀ i, i < bs.length → t.byte ((r.desc.move r.next).dst + i) = bs.getD i 0) ∧ sameMemBut (r.desc.move r.next).dst bs.length s t
        ∧ t.sch.transfers = s.sch.transfers.filter (fun q => q.ident != k)
        ∧ ∃ y, t.slotAt h.core h.idx = some y
            ∧ y.image.dma = putRun h.channel (some { r with next := r.next + 1, held := none }) x.image.dma := by
  let gone := s.withSch { s.sch with transfers := s.sch.transfers.filter fun t => t.ident != k }
  let written := gone.write (r.desc.move r.next).dst bs
  let passed := (written.pass h.part h.bytes borrowed h.path).account (x.qid / 256) 1 h.bytes
  let y := x.setRun h.channel (some { r with next := r.next + 1, held := none })
  have hmake : gone.makeMove (x.qid / 256) r.desc (r.desc.move r.next) = .ok written :=
    makeMove_ok (by rw [moveBytes_withSch]; exact hb) (by rw [accessOk_withSch]; exact hok) he
  have hexec : exec (.transferRelease k) s = .next ((passed.putSlot y).kept s) := by
    change execTransferRelease k s = _
    rw [execTransferRelease, State.live_next s _ hs, hk]
    simp only [hx, Option.bind_some, hr, Option.map_some, hw, Bool.false_eq_true, if_false, hp]
    exact congrArg (fun m : Try State => Host.Outcome.next (State.kept (match m with
      | .error (st, loc) => gone.endSlot x st loc
      | .ok t => ((t.pass h.part h.bytes borrowed h.path).account (x.qid / 256) 1 h.bytes).putSlot y) s)) hmake
  have hplace := slotAt_place hx
  have hgone : changesOnly [.sch] s gone := changesOnly_withSch _ _
  have hwritten : changesOnly [.mem, .err] gone written := changesOnly_write gone _ bs
  have hpassed : BucketsMoved written passed := (BucketsMoved.pass _ _ _ _ _).trans (.account _ _ _ _)
  have hsch : written.sch = gone.sch := hwritten .sch (by decide)
  have hparts : changesOnly [.free, .regs, .mem, .err, .sct, .sch] s (passed.putSlot y) :=
    changesOnly_trans (changesOnly_mono hgone (by decide)) (changesOnly_trans (changesOnly_mono hwritten (by decide))
      (changesOnly_trans (changesOnly_mono hpassed.parts (by decide)) (changesOnly_mono (changesOnly_putSlot _ _) (by decide))))
  have hat : passed.slotAt h.core h.idx = some x := by rw [hpassed.slotAt, State.slotAt, hsch]; exact hx
  refine completes_of_parts hexec hparts (by decide) ⟨fun i hi => ?_, fun b hb => ?_, ?_, y, ?_, rfl⟩
  · exact (hpassed.byte _).trans (by rw [State.byte_write gone _ _ bs he, if_pos (by omega), Nat.add_sub_cancel_left])
  · exact (hpassed.byte _).trans (sameMemBut_write gone _ bs b hb)
  · exact hpassed.transfers.trans (congrArg SchState.transfers hsch)
  · exact slotAt_putSlot (by rw [hat]; rfl) hplace

end

end

/-! ### Refills -/

/-- A bucket is found under its own name. -/
theorem bucket_key (s : State) (g : Nat × Nat) (p : Nat) :
    (s.bucket g p).kind = g.1 ∧ (s.bucket g p).index = g.2 ∧ (s.bucket g p).part = p := by
  unfold State.bucket
  cases h : s.sch.buckets.find? fun b => b.kind == g.1 && b.index == g.2 && b.part == p with
  | none => exact ⟨rfl, rfl, rfl⟩
  | some b => simpa [and_assoc] using List.find?_some h

/-- A bucket written back is found. -/
theorem bucket_putBucket_self (s : State) {g : Nat × Nat} {p : Nat} {b : Bucket} (hb : b.kind = g.1 ∧ b.index = g.2 ∧ b.part = p) :
    (s.putBucket b).bucket g p = b := by
  obtain ⟨hk, hi, hp⟩ := hb
  have hfound := find?_upsert_self (p := fun x : Bucket => x.kind == b.kind && x.index == b.index && x.part == b.part) (new := b)
    (by simp) s.sch.buckets
  rw [hk, hi, hp] at hfound
  rw [State.bucket, State.putBucket, hk, hi, hp]
  exact congrArg (Option.getD · _) hfound

/-- A bucket written back leaves every other. -/
theorem bucket_putBucket_ne (s : State) {g : Nat × Nat} {p : Nat} {b : Bucket} (hb : ¬(b.kind = g.1 ∧ b.index = g.2 ∧ b.part = p)) :
    (s.putBucket b).bucket g p = s.bucket g p := by
  refine congrArg (Option.getD · _) (find?_upsert_of_apart (Bool.eq_false_iff.2 fun h => hb (by simpa [and_assoc] using h)) (fun z hz => ?_) _)
  obtain ⟨⟨hk, hi⟩, hp⟩ : (z.kind = b.kind ∧ z.index = b.index) ∧ z.part = b.part := by simpa using hz
  exact Bool.eq_false_iff.2 fun h => hb (by simpa [hk, hi, hp, and_assoc] using h)

theorem passRegs_cfg : PassRegs R.BWR_REG_CFG R.DIE_REG_CFG R.SCH_REG_CFG 0 := ⟨⟨rfl, rfl⟩, ⟨rfl, rfl⟩, ⟨rfl, rfl⟩, by decide⟩

theorem passRegs_held : PassRegs R.BWR_REG_HELD R.DIE_REG_HELD R.SCH_REG_HELD 20 := ⟨⟨rfl, rfl⟩, ⟨rfl, rfl⟩, ⟨rfl, rfl⟩, by decide⟩

/-- Where a register of a regulator lies: at its place of 32 bytes, on the page of the hub's regulators or in a die's block. -/
theorem regAddr_regOf {bwr die sch : Reg} {place : Nat} (h : PassRegs bwr die sch place) (s : State) {g : Nat × Nat}
    (hg : IsRegulator g) {p : Nat} (hp : p < 16) :
    regAddr (s.regOf bwr die sch g p).1 (s.regOf bwr die sch g p).2 % 32 = place ∧
      ((0xB0000 ≤ regAddr (s.regOf bwr die sch g p).1 (s.regOf bwr die sch g p).2
        ∧ regAddr (s.regOf bwr die sch g p).1 (s.regOf bwr die sch g p).2 < 0xB1000)
        ∨ 0x1F004000 ≤ regAddr (s.regOf bwr die sch g p).1 (s.regOf bwr die sch g p).2) := by
  obtain ⟨⟨hbb, hbd⟩, ⟨hdb, hdd⟩, ⟨hsb, hsd⟩, hplace⟩ := h
  cases hg with
  | stack hi => simp only [State.regOf, if_true, regAddr, hbb, hbd, regOffset]; omega
  | link hi => simp only [State.regOf, one_ne_zero, if_false, if_true, regAddr, hdb, hdd, regOffset]; omega
  | hub hi => simp only [State.regOf, OfNat.ofNat_ne_zero, OfNat.ofNat_ne_one, if_false, regAddr, hsb, hsd, regOffset]; omega

/-- The registers that a refill moves. -/
abbrev refillRegs (a : Nat) : Prop := countRegs a ∨ a % 32 = 20

/-- The configuration of a regulator lies apart from every register that a refill moves. -/
theorem regCfg_apart (s : State) {g : Nat × Nat} (hg : IsRegulator g) {p : Nat} (hp : p < 16) :
    ¬refillRegs (regAddr (s.regOf R.BWR_REG_CFG R.DIE_REG_CFG R.SCH_REG_CFG g p).1
      (s.regOf R.BWR_REG_CFG R.DIE_REG_CFG R.SCH_REG_CFG g p).2) := by
  obtain ⟨hplace, hpage⟩ := regAddr_regOf passRegs_cfg s hg hp
  rintro ((h | ⟨i, hi, h⟩ | h) | h)
  · rw [h] at hpage
    revert hpage
    decide
  · rw [h] at hpage
    simp only [regAddr, R.PMC_CNT, regOffset] at hpage
    omega
  · have hevent : ∀ a ∈ eventRegs, ¬((0xB0000 ≤ a ∧ a < 0xB1000) ∨ 0x1F004000 ≤ a) := by decide
    exact hevent _ h hpage
  · omega

theorem regOf_congr {s t : State} (h : t.dev = s.dev) (bwr die sch : Reg) (g : Nat × Nat) (p : Nat) :
    t.regOf bwr die sch g p = s.regOf bwr die sch g p := by
  rw [State.regOf, State.regOf, State.stackPlace, State.stackPlace, h]

/-- What a regulator holds in a period of a partition, of what it held before (R280). -/
def refilled (cfg : Word) (tokens : Nat) : Nat := min (bits cfg 15 0 * (bits cfg 19 16 + 1)) (tokens + bits cfg 15 0)

/-- `t` is `s` after a period of the regulators of some partitions. -/
structure Refilled (keys : List ((Nat × Nat) × Nat)) (s t : State) : Prop where
  parts : changesOnly trafficParts s t
  sch : t.sch = { s.sch with buckets := t.sch.buckets }
  cfg : ∀ {g p}, IsRegulator g → p < 16 → t.regCfg g p = s.regCfg g p
  done : ∀ k ∈ keys, (t.bucket k.1 k.2).tokens = refilled (s.regCfg k.1 k.2) (s.bucket k.1 k.2).tokens
  rest : ∀ g p, (g, p) ∉ keys → t.bucket g p = s.bucket g p

/-- A held transfer is counted at a regulator (R280). -/
theorem heldCounted_within (s : State) {g : Nat × Nat} (hg : IsRegulator g) {p : Nat} (hp : p < 16) (heldNow : Bool) :
    ChangesWithin [.free, .regs, .sct] refillRegs s (if heldNow then
      let t := s.count (s.regOf R.BWR_REG_HELD R.DIE_REG_HELD R.SCH_REG_HELD g p).1 (s.regOf R.BWR_REG_HELD R.DIE_REG_HELD R.SCH_REG_HELD g p).2 1
      if g.1 = 0 then t.pmcAdd 5 g.2 0 (some p) 1 else t
    else s) := by
  have hcount := ChangesWithin.count (parts := [.free, .regs, .sct]) (moved := refillRegs) s _ _ 1 (by decide)
    (.inr (regAddr_regOf passRegs_held s hg hp).1)
  exact .ite (.ite (hcount.trans ((pmcAdd_counts _ _ _ _ _ _).mono (by simp) fun _ => .inl)) hcount) (.refl _ _ s)

theorem refillOne_refilled (s : State) {g : Nat × Nat} (hg : IsRegulator g) {p : Nat} (hp : p < 16) :
    Refilled [(g, p)] s (s.refillOne g p) := by
  have hwithin := heldCounted_within s hg hp (s.bucket g p).heldNow
  unfold State.refillOne
  dsimp only at hwithin ⊢
  generalize (if (s.bucket g p).heldNow = true then _ else _ : State) = u at hwithin ⊢
  have hsch : u.sch = s.sch := hwithin.parts .sch (by decide)
  have hbucket (g p) : u.bucket g p = s.bucket g p := by rw [State.bucket, hsch, State.bucket]
  have hcfg {g : Nat × Nat} {p : Nat} (hg : IsRegulator g) (hp : p < 16) : u.regCfg g p = s.regCfg g p := by
    rw [State.regCfg, regOf_congr (hwithin.dev (by decide)), State.regCfg]
    exact hwithin.rd (regCfg_apart s hg hp)
  split
  next h =>
    obtain ⟨hnone, -, hzero⟩ := h
    refine ⟨changesOnly_trans (changesOnly_mono hwithin.parts (by decide)) (changesOnly_mono (changesOnly_withSch _ _) (by decide)),
      by rw [hsch]; rfl, hcfg, fun k hk => ?_, fun g' p' hne => ?_⟩
    · obtain rfl := List.mem_singleton.1 hk
      rw [refilled, hnone, State.bucket]
      dsimp only [State.withSch]
      rw [List.find?_filter, List.find?_eq_none.2 fun z _ => by grind]
      rfl
    · rw [← hbucket, State.bucket, State.bucket]
      dsimp only [State.withSch]
      rw [List.find?_filter]
      refine congrArg (Option.getD · _) (congrArg (List.find? · _) (funext fun z => Bool.eq_iff_iff.2 ?_))
      simp only [decide_eq_true_eq, Bool.not_eq_true', Bool.and_eq_true, beq_iff_eq, Bool.eq_false_iff, ne_eq]
      refine ⟨fun hz => hz.2, fun hz => ⟨fun hz' => hne ?_, hz⟩⟩
      rw [List.mem_singleton]
      exact Prod.ext (Prod.ext (hz.1.1.symm.trans hz'.1.1) (hz.1.2.symm.trans hz'.1.2)) (hz.2.symm.trans hz'.2)
  next h =>
    have hkey := bucket_key s g p
    refine ⟨changesOnly_trans (changesOnly_mono hwithin.parts (by decide)) (changesOnly_mono (changesOnly_withSch _ _) (by decide)),
      by rw [State.putBucket, hsch]; rfl, hcfg, fun k hk => ?_, fun g' p' hne => ?_⟩
    · obtain rfl := List.mem_singleton.1 hk
      rw [bucket_putBucket_self u]
      exacts [rfl, hkey]
    · rw [bucket_putBucket_ne u fun hb => hne ?_, hbucket]
      obtain ⟨hk, hi, hpart⟩ := hkey
      rw [List.mem_singleton, ← hb.2.2, hpart]
      exact Prod.ext (Prod.ext (hb.1.symm.trans hk) (hb.2.1.symm.trans hi)) rfl

theorem Refilled.cons {k : (Nat × Nat) × Nat} {ks : List ((Nat × Nat) × Nat)} {s t u : State} (h : Refilled [k] s t) (h' : Refilled ks t u)
    (hk : k ∉ ks) (hks : ∀ k ∈ ks, IsRegulator k.1 ∧ k.2 < 16) : Refilled (k :: ks) s u where
  parts := changesOnly_trans h.parts h'.parts
  sch := by rw [h'.sch, h.sch]
  cfg hg hp := (h'.cfg hg hp).trans (h.cfg hg hp)
  done j hj := by
    obtain rfl | hj := List.mem_cons.1 hj
    · rw [h'.rest _ _ hk]
      exact h.done j List.mem_cons_self
    · obtain ⟨hg, hp⟩ := hks j hj
      rw [h'.done j hj, h.cfg hg hp, h.rest _ _ fun hmem => hk (List.mem_singleton.1 hmem ▸ hj)]
  rest g p hne := by
    rw [h'.rest _ _ fun hmem => hne (List.mem_cons_of_mem _ hmem), h.rest _ _ fun hmem => hne (List.mem_singleton.1 hmem ▸ List.mem_cons_self)]

theorem foldl_refillOne_refilled {ks : List ((Nat × Nat) × Nat)} (hd : ks.Nodup) (hks : ∀ k ∈ ks, IsRegulator k.1 ∧ k.2 < 16) (s : State) :
    Refilled ks s (ks.foldl (fun s k => s.refillOne k.1 k.2) s) := by
  induction ks generalizing s with
  | nil => exact ⟨changesOnly_refl _ s, rfl, fun _ _ => rfl, fun _ h => absurd h List.not_mem_nil, fun _ _ _ => rfl⟩
  | cons k ks ih =>
    obtain ⟨hk, hd⟩ := List.nodup_cons.1 hd
    obtain ⟨hg, hp⟩ := hks k List.mem_cons_self
    have hrest := fun j hj => hks j (List.mem_cons_of_mem _ hj)
    exact (refillOne_refilled s hg hp).cons (ih hd hrest _) hk hrest

theorem isRegulator_of_mem_regulators {s : State} {g : Nat × Nat} (h : g ∈ s.regulators) : IsRegulator g := by
  obtain ⟨-, hstacks⟩ := stacks_bounds s.dev.assembly
  simp only [State.regulators, List.mem_append, List.mem_map, mem_rangeFrom] at h
  obtain (⟨i, hi, rfl⟩ | ⟨i, hi, rfl⟩) | ⟨i, hi, rfl⟩ := h
  · exact .stack (by omega)
  · exact .link (by omega)
  · exact .hub (by omega)

theorem nodup_rangeFrom (n : Nat) : (rangeFrom 0 n).Nodup := by
  rw [rangeFrom_eq_range']
  exact List.nodup_range'

theorem regulators_nodup (s : State) : s.regulators.Nodup := by
  have hone (k n : Nat) : ((rangeFrom 0 n).map fun i => (k, i)).Nodup :=
    List.Nodup.map (fun i j h => (Prod.mk.inj h).2) (nodup_rangeFrom n)
  rw [State.regulators]
  refine List.Nodup.append (List.Nodup.append (hone 0 _) (hone 1 8) ?_) (hone 2 2) ?_
  all_goals
    intro g h h'
    simp only [List.mem_append, List.mem_map] at h h'
    grind

/-- A period of TIMEBASE gives every regulator its budget. -/
theorem regulatorRefill_completes {s : State} (hs : s.isLive) :
    completes .regulatorRefill s [.free, .regs, .sct, .sch] fun t => t.sch = { s.sch with buckets := t.sch.buckets }
      ∧ ∀ g ∈ s.regulators, ∀ p, p < 16 → (t.bucket g p).tokens =
          min (bits (s.regCfg g p) 15 0 * (bits (s.regCfg g p) 19 16 + 1)) ((s.bucket g p).tokens + bits (s.regCfg g p) 15 0) := by
  let keys := s.regulators ×ˢ rangeFrom 0 16
  have hkeys : ∀ k ∈ keys, IsRegulator k.1 ∧ k.2 < 16 := fun k hk => by
    obtain ⟨hg, hp⟩ := List.mem_product.1 hk
    exact ⟨isRegulator_of_mem_regulators hg, by simpa [mem_rangeFrom] using hp⟩
  have hdone := foldl_refillOne_refilled ((regulators_nodup s).product (nodup_rangeFrom 16)) hkeys s
  have hexec : exec .regulatorRefill s = .next ((keys.foldl (fun s k => s.refillOne k.1 k.2) s).kept s) := by
    change execRegulatorRefill s = _
    rw [execRegulatorRefill, State.live_next s _ hs]
    have hkeys : keys = s.regulators.flatMap fun g => (rangeFrom 0 16).map (Prod.mk g) := rfl
    simp only [hkeys, List.foldl_flatMap, List.foldl_map]
  refine completes_of_parts hexec hdone.parts (by decide) ⟨hdone.sch, fun g hg p hp => hdone.done (g, p) (List.mem_product.2 ⟨hg, ?_⟩)⟩
  simpa [mem_rangeFrom] using hp

end Sys2Proof.Machine

open Sys2Proof Sys2Proof.Machine

/-- Settles O13: a transfer that may proceed writes its bytes, and what it passes moves buckets and counters alone; one that may not joins
those that wait; a period of TIMEBASE fills each bucket once, by a configuration that no counter of the period aliases. -/
theorem dmaMovesData : Obligations.DmaMovesData := by
  refine ⟨?submit, ?bad, ?moves, ?held, ?released, ?stays, ?refill⟩
  case submit => exact fun s n channel desc x hs hx hst hgood => dmaSubmit_completes hs hx hst hgood
  case bad => exact fun s n channel desc x hs hx hst hbad => dmaSubmit_bad hs hx hst hbad
  case moves =>
    exact fun s n channel x r bs hs h hone hfirst hev hp hb hok he => dmaDescriptorComplete_moves hs h hone hfirst hev hp hb hok he
  case held => exact fun s n channel x r hs h hn hp => dmaDescriptorComplete_held hs h hn hp
  case released =>
    exact fun s k h x r borrowed bs hs hk hx hr hp hw hb hok he => transferRelease_moves hs hk hx hr hp hw hb hok he
  case stays => exact fun s k h x r hs hk hx hr hwait => transferRelease_stays hs hk hx hr hwait
  case refill => exact fun s hs => regulatorRefill_completes hs
end

section
/-! PROOFS. The matrix engines: tiles, and the products that activations and tiles add to rows (R90–R93, R131, R154, R157). -/

namespace Sys2Proof.Machine

/-! ### Engines of a slot -/

theorem engine_setEngine_self (x : Slot) {n : Nat} (hn : n < 4) (e : Engine) : (x.setEngine n e).engine n = e := vecGet_vecSet_self _ _ _ hn

theorem engine_setEngine_ne (x : Slot) {n k : Nat} (e : Engine) (hk : k ≠ n) : (x.setEngine n e).engine k = x.engine k :=
  vecGet_vecSet_ne _ _ _ hk

/-- An engine written back free leaves no engine ready that was not. -/
theorem readyEngine_setEngine {x : Slot} {n : Nat} {e : Engine} (hx : x.readyEngine = none) (he : e.free = true) :
    (x.setEngine n e).readyEngine = none := by
  rw [Slot.readyEngine, List.find?_eq_none] at *
  intro k hk
  by_cases hkn : k = n
  · subst hkn
    have hlt : k < 4 := by simpa [mem_rangeFrom] using hk
    obtain ⟨-, hq⟩ := Bool.and_eq_true_iff.1 he
    simp [engine_setEngine_self x hlt, hq]
  · rw [engine_setEngine_ne x e hkn]
    exact hx k hk

/-- Engines of which none is ready do nothing. -/
theorem drainEngines_of_readyEngine {s : State} {core i : Nat} {x : Slot} (hx : s.slotAt core i = some x) (hr : x.readyEngine = none) :
    s.drainEngines core i = s := by
  rw [State.drainEngines, hx]
  dsimp only
  split
  · rfl
  · rw [State.runQueues]
    cases hrun : s.runningSlot core i with
    | none => rfl
    | some y =>
      obtain rfl := Option.some.inj ((slotAt_of_running hrun).symm.trans hx)
      simp only [hr]

/-! ### Rows of the accumulator memory -/

theorem row_setRow_self (e : Engine) (r : Nat) (v : List Word) : (e.setRow r v).row r = v := by
  rw [Engine.row, Engine.setRow, find?_upsert_self (by simp)]

theorem row_setRow_ne (e : Engine) {r q : Nat} (v : List Word) (h : q ≠ r) : (e.setRow r v).row q = e.row q := by
  rw [Engine.row, Engine.setRow, find?_upsert_of_apart (by simpa using h.symm) (fun z hz => ?_), Engine.row]
  obtain rfl : z.1 = r := by simpa using hz
  simpa using h.symm

/-- The row that activations leave, of what was there (R131). -/
def Engine.fed (e : Engine) (m : Mapping) (f : AFmt) (row : Nat) (overwrite : Bool) (acts : List Nat) : List Word :=
  (rangeFrom 0 16).map fun c =>
    (accumulate e.current f (if overwrite then none else some ((e.row row).getD c 0)) (m.products e.current acts c)).getD 0

/-- The engine differs from `e` in its rows and their errors at most. -/
def RowsAlone (e d : Engine) : Prop := d = { e with acc := d.acc, bad := d.bad }

theorem feedRows_rowsAlone (e : Engine) (m : Mapping) (f : AFmt) (row : Nat) (overwrite : Bool) (rows : List (List Nat)) :
    RowsAlone e (e.feedRows m f row overwrite rows) := by
  induction rows generalizing e row with
  | nil => rfl
  | cons a rows ih =>
    rw [Engine.feedRows, RowsAlone, ih (e.feed m f row overwrite a) (row + 1)]
    rfl

theorem row_feedRows_apart (e : Engine) (m : Mapping) (f : AFmt) (overwrite : Bool) {row q : Nat} (rows : List (List Nat))
    (h : q < row ∨ row + rows.length ≤ q) : (e.feedRows m f row overwrite rows).row q = e.row q := by
  induction rows generalizing e row with
  | nil => rfl
  | cons a rows ih =>
    rw [List.length_cons] at h
    rw [Engine.feedRows, ih _ (by omega)]
    exact row_setRow_ne e _ (by omega)

/-- Each row of activations goes to its own row. -/
theorem row_feedRows (e : Engine) (m : Mapping) (f : AFmt) (overwrite : Bool) (row : Nat) {rows : List (List Nat)} {r : Nat}
    (hr : r < rows.length) : (e.feedRows m f row overwrite rows).row (row + r) = e.fed m f (row + r) overwrite (rows.getD r []) := by
  induction rows generalizing e row r with
  | nil => exact absurd hr (Nat.not_lt_zero r)
  | cons a rows ih =>
    rw [Engine.feedRows]
    cases r with
    | zero =>
      rw [row_feedRows_apart _ _ _ _ _ (by omega)]
      exact row_setRow_self e row _
    | succ r =>
      have hr : r < rows.length := by simpa using hr
      rw [show row + (r + 1) = row + 1 + r by omega, ih _ _ hr, List.getD_cons_succ]
      have hrow : (e.feed m f row overwrite a).row (row + 1 + r) = e.row (row + 1 + r) := row_setRow_ne e _ (by omega)
      rw [Engine.fed, hrow]
      rfl

/-! ### Products -/

/-- Integer products of a channel, added clock by clock, are the sum of them all. -/
theorem accumulate_int {tile : Tile} (hint : tile.fp = false) (f : AFmt) (start : Option Word) (clocks : List (List (Nat × Word))) :
    (accumulate tile f start clocks).getD 0 =
      start.getD 0 + (clocks.flatten.map fun p => BitVec.ofInt 32 (signedOf 8 p.1) * p.2).sum := by
  induction clocks generalizing start with
  | nil => simp [accumulate]
  | cons clock clocks ih =>
    rw [accumulate, ih]
    simp only [hint, Bool.false_eq_true, if_false, Option.getD_some, List.flatten_cons, List.map_append, List.sum_append,
      ← List.sum_eq_foldl]
    exact BitVec.add_assoc _ _ _

/-- Cutting a list into pieces loses nothing. -/
theorem flatten_chunks {α : Type} {n fuel : Nat} {xs : List α} (hn : n = 0 → xs = []) (hf : xs.length ≤ fuel) :
    (chunks n fuel xs).flatten = xs := by
  induction fuel generalizing xs with
  | zero => simpa [chunks] using hf
  | succ fuel ih =>
    rw [chunks]
    by_cases hx : xs = []
    · simp [hx]
    · have hpos : n ≠ 0 := fun h => hx (hn h)
      have hlen : 0 < xs.length := List.length_pos_iff.2 hx
      rw [if_neg (by simp [hx, hpos]), List.flatten_cons, ih (fun h => absurd h hpos) (by rw [List.length_drop]; omega), List.take_append_drop]

theorem dotInt_eq_sum (tile : Tile) (acts : List Nat) (c : Nat) (ks : List Nat) : dotInt tile acts c ks =
    (ks.map fun k => BitVec.ofInt 32 (signedOf 8 (acts.getD k 0)) * tile.weights.getD (c * tile.depth + k % tile.depth) 0).sum :=
  List.sum_eq_foldl.symm

/-- The products of every reduction element. -/
theorem sum_products_full {tile : Tile} {per : Nat} (hper : per = 0 → tile.depth = 0) (acts : List Nat) (c : Nat) :
    (((Mapping.full per).products tile acts c).flatten.map fun p => BitVec.ofInt 32 (signedOf 8 p.1) * p.2).sum =
      dotInt tile acts c (rangeFrom 0 tile.depth) := by
  rw [Mapping.products, flatten_chunks (fun h => by rw [hper h]; rfl) (by simp [rangeFrom_eq_range']), dotInt_eq_sum, List.map_map]
  refine congrArg List.sum (List.map_congr_left fun k hk => ?_)
  have hlt : k < tile.depth := by simpa [mem_rangeFrom] using hk
  simp only [Function.comp_apply, Nat.mod_eq_of_lt hlt]

/-- The products of the channels of a diagonal block (R157). -/
theorem sum_products_blocks (tile : Tile) (g : Nat) (acts : List Nat) (c : Nat) :
    (((Mapping.blocks g).products tile acts c).flatten.map fun p => BitVec.ofInt 32 (signedOf 8 p.1) * p.2).sum =
      dotInt tile acts c (rangeFrom (c / g * g) g) := by
  rw [Mapping.products, List.flatten_singleton, dotInt_eq_sum, List.map_map]
  rfl

/-- Table 4.1: a tile that takes nothing in a clock is empty. -/
theorem perClock_eq_zero {tile : Tile} (h : tile.perClock = 0) : tile.depth = 0 := by
  unfold Tile.perClock at h
  split at h
  · cases h
  · exact h

/-! ### Commands -/

/-- What the task has moved is counted in the two registers of its context. -/
theorem sameRegsBut_movedBy (s : State) (x : Slot) (n : Nat) : sameRegsBut (bytesRegs x) s (s.movedBy x n) := by
  intro a ha
  obtain ⟨hlo, hhi⟩ : a ≠ regAddr R.SCH_CTX_ACCT [x.qid / 256, 2] ∧ a ≠ regAddr R.SCH_CTX_ACCT [x.qid / 256, 3] := by
    simpa [bytesRegs] using ha
  exact (State.cfgGet_poke_ne _ _ _ _ _ hhi).trans (State.cfgGet_poke_ne _ _ _ _ _ hlo)

theorem swapTile_eq (e : Engine) : e.swapTile = { e with current := e.swapTile.current, idle := none } := by
  unfold Engine.swapTile
  cases h : e.idle with
  | none => simp [← h]
  | some t => rfl

/-- A slot whose engines' streams are others. -/
def Slot.withStreams (x : Slot) (v : List ActStream) : Slot := { x with image := { x.image with streams := v } }

section
variable {s : State} {n : EngineName} {x : Slot} {e : Engine} {q : EngineCmd} {c : Instr}

/-- A command that a free engine executes, and that counts bytes and writes that engine back, free, completes. -/
theorem slotCompletes_of_engineDo {v : List ActStream} {d : Engine} {b : Nat} {post : Slot → State → Prop} (h : s.atEngine n x e)
    (he : exec c s = .next ((s.issue n q).kept s))
    (hdo : s.engineDo n.engine.val q x = .ok ((s.movedBy x b).putSlot ((x.withStreams v).setEngine n.engine.val d))) (hd : d.free = true)
    (hpost : ∀ t, engineStream n x ((x.withStreams v).setEngine n.engine.val d) → sameRegsBut (bytesRegs x) s t →
      post ((x.withStreams v).setEngine n.engine.val d) t) : slotCompletes c s n.slot x [.regs, .sch] post := by
  obtain ⟨hx, rfl, hfree, -, hready, hst⟩ := h
  have hat := slotAt_of_slotNamed hx
  obtain ⟨hc, hi⟩ := slotAt_place hat
  let y := (x.withStreams v).setEngine n.engine.val d
  have hput : ((s.movedBy x b).putSlot y).slotAt x.core x.idx = some y := by
    refine slotAt_putSlot ?_ ⟨rfl, rfl⟩
    rw [hc, hi]
    exact Option.isSome_iff_exists.2 ⟨x, hat⟩
  have hissue : s.issue n q = (s.movedBy x b).putSlot y := by
    rw [State.issue, hx]
    simp only [hst, hfree, Bool.false_eq_true, if_false, if_true, hdo]
    exact drainEngines_of_readyEngine hput (readyEngine_setEngine (x := x.withStreams v) hready hd)
  rw [hissue] at he
  have hmoved : changesOnly [.regs, .sch] s (s.movedBy x b) :=
    changesOnly_trans (changesOnly_mono (changesOnly_poke s _ _ _) (by decide)) (changesOnly_mono (changesOnly_poke _ _ _ _) (by decide))
  refine slotCompletes_of_putSlot he hmoved (by decide) hat rfl rfl (hpost _ ⟨rfl, fun i _ hne => ?_, ?_⟩ (sameRegsBut_movedBy s x b))
  · exact engine_setEngine_ne _ d hne
  · rw [engine_setEngine_self _ n.engine.isLt]
    simpa using (Bool.and_eq_true_iff.1 hd).1

theorem exec_engineLdw (hs : s.isLive) (cmd : LdwCmd) : exec (.engineLdw n cmd) s = .next ((s.issue n (.ldw cmd)).kept s) :=
  show execEngineLdw n cmd s = _ from State.live_next s _ hs

/-- LDW loads its tile beside the one in use. -/
theorem engineLdw_completes (hs : s.isLive) (h : s.atEngine n x e) {cmd : LdwCmd} {tile : Tile} {b : Nat}
    (hdo : s.ldw n.engine.val cmd x = .ok ((s.movedBy x b).putSlot (x.setEngine n.engine.val { x.engine n.engine.val with idle := some tile }))) :
    slotCompletes (.engineLdw n cmd) s n.slot x [.regs, .sch] fun y t => engineOnly n x y ∧ sameRegsBut (bytesRegs x) s t
      ∧ y.engine n.engine.val = { e with idle := some tile } := by
  have hfree := h.2.2.1
  obtain rfl := h.2.1
  exact slotCompletes_of_engineDo (v := x.image.streams) h (exec_engineLdw hs cmd) hdo hfree fun t hy ht =>
    ⟨hy, ht, engine_setEngine_self x n.engine.isLt _⟩

theorem ldw_plain {cmd : LdwCmd} {bs : List Byte} (hcb : cbOf cmd.fmt = none)
    (hb : (s.readShare x cmd.addr.toNat (plainBytes cmd.fmt)).toOption = some bs) (i : Nat) :
    s.ldw i cmd x = .ok ((s.movedBy x (ldwBytes cmd.fmt)).putSlot (x.setEngine i { x.engine i with
      idle := some (plainTile cmd.fmt bs) })) := by
  rw [State.ldw, hcb, eq_ok_of_toOption hb]
  rfl

theorem ldw_codebook {cmd : LdwCmd} {nb : Nat} {k : ElemKind} {tile : Tile} (hcb : cbOf cmd.fmt = some (nb, k))
    (ht : (s.codebookTile x cmd nb k).toOption = some tile) (i : Nat) :
    s.ldw i cmd x = .ok ((s.movedBy x (ldwBytes cmd.fmt)).putSlot (x.setEngine i { x.engine i with idle := some tile })) := by
  rw [State.ldw, hcb]
  dsimp only
  rw [eq_ok_of_toOption ht]
  rfl

/-! ### Streams of activations -/

/-- Rows that a command reads for itself, with a tag of its own or none. -/
theorem streamRows_own {bcast : Option Byte} (hown : ownStream bcast x) (i count : Nat) (rows : List (List Nat)) :
    ∃ v, x.streamRows i bcast count (.ok rows) = .ok (x.withStreams v, rows, true) ∧ (bcast = none → v = x.image.streams) := by
  cases bcast with
  | none => exact ⟨x.image.streams, rfl, fun _ => rfl⟩
  | some tag =>
    have hnone : (x.image.streams.find? fun t => t.tag == tag && !t.taken.contains i && t.rows.length == count) = none := by
      refine List.find?_eq_none.2 fun t ht htag => hown t ht ?_
      simp only [Bool.and_eq_true, beq_iff_eq] at htag
      rw [htag.1.1]
    refine ⟨upsert (fun u => u.tag == tag) { tag := tag, rows := rows, taken := [i] } x.image.streams, ?_, fun h => by cases h⟩
    rw [Slot.streamRows]
    simp only [hnone]
    rfl

/-- Rows that another engine has read under the tag. -/
theorem streamRows_shared {i count : Nat} {tag : Byte} {u : ActStream}
    (hu : x.image.streams.find? (fun v => v.tag == tag && !v.taken.contains i && v.rows.length == count) = some u)
    (own : Try (List (List Nat))) : ∃ v, x.streamRows i (some tag) count own = .ok (x.withStreams v, u.rows, false) := by
  refine ⟨upsert (fun v => v.tag == u.tag) { u with taken := i :: u.taken } x.image.streams, ?_⟩
  rw [Slot.streamRows]
  simp only [hu]
  rfl

/-- What a command that streams activations into rows leaves of its slot: the tile is in use, and the rows hold what the tile's products
make of them. -/
def streamed (n : EngineName) (x : Slot) (e : Engine) (m : Mapping) (f : AFmt) (bcast : Option Byte) (row : Nat) (overwrite : Bool)
    (rows : List (List Nat)) (y : Slot) : Prop :=
  engineStream n x y ∧ (bcast = none → y.image.streams = x.image.streams)
    ∧ (y.engine n.engine.val).current = e.swapTile.current ∧ (y.engine n.engine.val).idle = none
    ∧ sameRowsBut row rows.length e (y.engine n.engine.val)
    ∧ ∀ r, r < rows.length → (y.engine n.engine.val).row (row + r) = e.swapTile.fed m f (row + r) overwrite (rows.getD r [])

/-- A command that streams activations, with rows that are there to stream. -/
theorem stream_completes {f : AFmt} {bcast : Option Byte} {row count : Nat} {overwrite : Bool} {refused : Tile → Bool}
    {mapping : Tile → Mapping} {width : Tile → Nat} {own : Nat → Try (List (List Nat))} {v : List ActStream} {rows : List (List Nat)}
    {read : Bool} (h : s.atEngine n x e) (he : exec c s = .next ((s.issue n q).kept s))
    (hdo : s.engineDo n.engine.val q x = s.stream n.engine.val x f bcast row count overwrite refused mapping width own)
    (hheld : s.rowsHeld x row count = true) (hact : e.swapTile.current.act = aCls f) (hform : refused e.swapTile.current = false)
    (hrows : x.streamRows n.engine.val bcast count (own (width e.swapTile.current)) =
      .ok (x.withStreams v, rows, read)) (hv : bcast = none → v = x.image.streams) :
    slotCompletes c s n.slot x [.regs, .sch] fun y t => streamed n x e (mapping e.swapTile.current) f bcast row overwrite rows y
      ∧ sameRegsBut (bytesRegs x) s t := by
  have hfree := h.2.2.1
  have hbad := h.2.2.2.1
  obtain rfl := h.2.1
  let e := x.engine n.engine.val
  let d := e.swapTile.feedRows (mapping e.swapTile.current) f row overwrite rows
  have hd : RowsAlone e.swapTile d := feedRows_rowsAlone _ _ _ _ _ _
  have hswap : e.swapTile = { e with current := e.swapTile.current, idle := none } := swapTile_eq e
  have hstream : s.stream n.engine.val x f bcast row count overwrite refused mapping width own =
      .ok ((s.movedBy x (if read then count * width e.swapTile.current * aSize f else 0)).putSlot
        ((x.withStreams v).setEngine n.engine.val d)) := by
    have hreads : e.swapTile.reads row (if overwrite then 0 else count) = .ok () := by
      rw [Engine.reads, hswap]
      simp [e, hbad]
    rw [State.stream]
    simp only [hheld, hact, hform, bne_self_eq_false, Bool.not_true, Bool.or_self, Bool.false_eq_true, if_false]
    change (e.swapTile.reads row _ >>= fun _ => _) = _
    rw [hreads]
    change (x.streamRows n.engine.val bcast count (own (width e.swapTile.current)) >>= _) = _
    rw [hrows]
    rfl
  have hfreed : d.free = true := by
    rw [hd, hswap]
    exact hfree
  refine slotCompletes_of_engineDo h he (hdo.trans hstream) hfreed fun t hy ht => ⟨⟨hy, hv, ?_, ?_, fun r hr => ?_, fun r hr => ?_⟩, ht⟩
  · rw [engine_setEngine_self _ n.engine.isLt, hd]
  · rw [engine_setEngine_self _ n.engine.isLt, hd, hswap]
  · rw [engine_setEngine_self _ n.engine.isLt, row_feedRows_apart _ _ _ _ _ hr, hswap]
    rfl
  · rw [engine_setEngine_self _ n.engine.isLt]
    exact row_feedRows _ _ _ _ _ hr

/-- The entries that integer activations leave. -/
theorem streamed_int {m : Mapping} {f : AFmt} {bcast : Option Byte} {row : Nat} {overwrite : Bool} {rows : List (List Nat)} {y : Slot}
    (h : streamed n x e m f bcast row overwrite rows y) (hint : e.swapTile.current.fp = false) {r k : Nat} (hr : r < rows.length)
    (hk : k < 16) : ((y.engine n.engine.val).row (row + r)).getD k 0 = (if overwrite then 0 else (e.row (row + r)).getD k 0)
      + ((m.products e.swapTile.current (rows.getD r []) k).flatten.map fun p => BitVec.ofInt 32 (signedOf 8 p.1) * p.2).sum := by
  obtain ⟨-, -, -, -, -, hrows⟩ := h
  have hacc : e.swapTile.row (row + r) = e.row (row + r) := by rw [swapTile_eq]; rfl
  have hlt : k < (rangeFrom 0 16).length := by simpa [rangeFrom_eq_range'] using hk
  rw [hrows r hr, Engine.fed, List.getD_eq_getElem _ _ (by simpa using hlt), List.getElem_map, accumulate_int hint, hacc]
  have hentry : (rangeFrom 0 16)[k]'hlt = k := by simp [rangeFrom_eq_range']
  rw [hentry]
  cases overwrite <;> simp

/-- Rows that can be read one by one are read together. -/
theorem mapM_rangeFrom_eq_ok {α : Type} {g : Nat → Try α} {v : Nat → α} (a k : Nat) (h : ∀ r, r < k → g (a + r) = .ok (v r)) :
    (rangeFrom a k).mapM g = .ok ((List.range k).map v) := by
  induction k generalizing a v with
  | zero => rfl
  | succ k ih =>
    have hrest := ih (a + 1) (v := fun r => v (r + 1)) fun r hr => by rw [Nat.add_right_comm, Nat.add_assoc]; exact h (r + 1) (by omega)
    have hfirst : g a = .ok (v 0) := h 0 (by omega)
    rw [rangeFrom, List.mapM_cons, hfirst, hrest, List.range_succ_eq_map, List.map_cons, List.map_map]
    rfl

theorem getD_map_range {α : Type} (v : Nat → α) {k r : Nat} (hr : r < k) (d : α) : ((List.range k).map v).getD r d = v r := by
  rw [List.getD_eq_getElem _ _ (by simpa using hr), List.getElem_map, List.getElem_range]

theorem slotCompletes_mono {a : SlotName} {parts : List Part} {post wanted : Slot → State → Prop} (h : slotCompletes c s a x parts post)
    (hpost : ∀ y t, post y t → wanted y t) : slotCompletes c s a x parts wanted := by
  obtain ⟨t, he, hparts, y, hy, himage, hp⟩ := h
  exact ⟨t, he, hparts, y, hy, himage, hpost y t hp⟩

/-- MMA, with rows that are there to stream. -/
theorem engineMma_streams (hs : s.isLive) (h : s.atEngine n x e) {cmd : MmaCmd} {v : List ActStream} {rows : List (List Nat)} {read : Bool}
    (hheld : s.rowsHeld x cmd.accRow.toNat cmd.rows.toNat = true) (hact : e.swapTile.current.act = aCls cmd.afmt)
    (hrows : x.streamRows n.engine.val cmd.bcast cmd.rows.toNat (s.mmaRows x cmd e.swapTile.current.depth) =
      .ok (x.withStreams v, rows, read)) (hv : cmd.bcast = none → v = x.image.streams) :
    slotCompletes (.engineMma n cmd) s n.slot x [.regs, .sch] fun y t =>
      streamed n x e (.full e.swapTile.current.perClock) cmd.afmt cmd.bcast cmd.accRow.toNat cmd.overwrite rows y
        ∧ sameRegsBut (bytesRegs x) s t :=
  stream_completes (c := .engineMma n cmd) (q := .mma cmd) (refused := fun _ => false) (mapping := fun t => .full t.perClock)
    (width := (·.depth)) (own := s.mmaRows x cmd) h (show execEngineMma n cmd s = _ from State.live_next s _ hs) rfl hheld hact rfl hrows hv

/-- MMA of rows that it reads itself. -/
theorem engineMma_own (hs : s.isLive) (h : s.atEngine n x e) {cmd : MmaCmd} {acts : Nat → List Byte}
    (hheld : s.rowsHeld x cmd.accRow.toNat cmd.rows.toNat = true) (hact : e.swapTile.current.act = aCls cmd.afmt)
    (hread : ∀ r, r < cmd.rows.toNat → (s.readShare x (cmd.addr.toNat + r * cmd.pitch.toNat)
      (e.swapTile.current.depth * aSize cmd.afmt)).toOption = some (acts r)) (hown : ownStream cmd.bcast x) :
    slotCompletes (.engineMma n cmd) s n.slot x [.regs, .sch] fun y t => streamed n x e (.full e.swapTile.current.perClock) cmd.afmt
        cmd.bcast cmd.accRow.toNat cmd.overwrite ((List.range cmd.rows.toNat).map fun r =>
          (rangeFrom 0 e.swapTile.current.depth).map (aElem cmd.afmt (acts r))) y ∧ sameRegsBut (bytesRegs x) s t := by
  have hrows : s.mmaRows x cmd e.swapTile.current.depth = .ok ((List.range cmd.rows.toNat).map fun r =>
      (rangeFrom 0 e.swapTile.current.depth).map (aElem cmd.afmt (acts r))) := by
    refine mapM_rangeFrom_eq_ok 0 _ fun r hr => ?_
    rw [Nat.zero_add, eq_ok_of_toOption (hread r hr)]
    rfl
  obtain ⟨v, hstream, hv⟩ := streamRows_own hown n.engine.val cmd.rows.toNat _
  exact engineMma_streams hs h hheld hact (hrows ▸ hstream) hv

/-- The rows of a convolution, read one by one. -/
theorem convRows_own {cmd : ConvCmd} {acts : Nat → List Nat} {w : Nat}
    (hread : ∀ p, p < cmd.rows.toNat → (s.convInput x cmd w (cmd.first.toNat + p)).toOption = some (acts p)) (hown : ownStream cmd.bcast x) :
    ∃ v, x.streamRows n.engine.val cmd.bcast cmd.rows.toNat ((rangeFrom cmd.first.toNat cmd.rows.toNat).mapM (s.convInput x cmd w)) =
      .ok (x.withStreams v, (List.range cmd.rows.toNat).map acts, true) ∧ (cmd.bcast = none → v = x.image.streams) := by
  rw [mapM_rangeFrom_eq_ok _ _ fun p hp => eq_ok_of_toOption (hread p hp)]
  exact streamRows_own hown _ _ _

/-- How CONV meets its tile (R157). -/
def convMapping (cmd : ConvCmd) (tile : Tile) : Mapping :=
  if cmd.blkdiag.val ≠ 0 ∧ cmd.blkdiag.val ≠ 4 then .blocks (2 ^ cmd.blkdiag.val)
  else .full (if cmd.cb32 then tile.perClock else min tile.perClock 16)

/-- The products of CONV: of the channels of a diagonal block, or of every reduction element (R157). -/
theorem sum_products_conv (cmd : ConvCmd) (tile : Tile) (acts : List Nat) (k : Nat) :
    (((convMapping cmd tile).products tile acts k).flatten.map fun p => BitVec.ofInt 32 (signedOf 8 p.1) * p.2).sum =
      dotInt tile acts k (if cmd.blkdiag.val ≠ 0 ∧ cmd.blkdiag.val ≠ 4 then rangeFrom (k / 2 ^ cmd.blkdiag.val * 2 ^ cmd.blkdiag.val)
        (2 ^ cmd.blkdiag.val) else rangeFrom 0 tile.depth) := by
  unfold convMapping
  split
  · exact sum_products_blocks tile _ acts k
  · refine sum_products_full (fun h => perClock_eq_zero ?_) acts k
    split at h
    · exact h
    · omega

/-- CONV of pixels that it reads itself. -/
theorem engineConv_own (hs : s.isLive) (h : s.atEngine n x e) {cmd : ConvCmd} {acts : Nat → List Nat}
    (hheld : s.rowsHeld x cmd.accRow.toNat cmd.rows.toNat = true) (hact : e.swapTile.current.act = aCls cmd.afmt)
    (hform : cmd.blkdiag.val = 0 ∨ e.swapTile.current.plain = true)
    (hread : ∀ p, p < cmd.rows.toNat → (s.convInput x cmd (if cmd.blkdiag.val ≠ 0 ∧ cmd.blkdiag.val ≠ 4 then 16
      else e.swapTile.current.depth) (cmd.first.toNat + p)).toOption = some (acts p)) (hown : ownStream cmd.bcast x) :
    slotCompletes (.engineConv n cmd) s n.slot x [.regs, .sch] fun y t => streamed n x e (convMapping cmd e.swapTile.current) cmd.afmt
        cmd.bcast cmd.accRow.toNat cmd.overwrite ((List.range cmd.rows.toNat).map acts) y ∧ sameRegsBut (bytesRegs x) s t := by
  obtain ⟨v, hrows, hv⟩ := convRows_own (n := n) hread hown
  have hblock : (cmd.blkdiag.val != 0 && cmd.blkdiag.val != 4) = decide (cmd.blkdiag.val ≠ 0 ∧ cmd.blkdiag.val ≠ 4) := by
    rw [Bool.eq_iff_iff]
    simp only [Bool.and_eq_true, bne_iff_ne, decide_eq_true_eq]
  have hdo : s.engineDo n.engine.val (.conv cmd) x = s.stream n.engine.val x cmd.afmt cmd.bcast cmd.accRow.toNat cmd.rows.toNat
      cmd.overwrite (fun t => cmd.blkdiag.val != 0 && !t.plain) (convMapping cmd)
      (fun t => if cmd.blkdiag.val ≠ 0 ∧ cmd.blkdiag.val ≠ 4 then 16 else t.depth)
      (fun w => (rangeFrom cmd.first.toNat cmd.rows.toNat).mapM (s.convInput x cmd w)) := by
    rw [State.engineDo, State.conv, State.convolve, hblock]
    simp only [decide_eq_true_eq]
    rfl
  refine stream_completes (c := .engineConv n cmd) (q := .conv cmd) h (show execEngineConv n cmd s = _ from State.live_next s _ hs)
    hdo hheld hact ?_ hrows hv
  obtain h0 | hplain := hform
  · simp [h0]
  · simp [hplain]

/-- DWC of pixels that it reads itself. -/
theorem engineDwc_own (hs : s.isLive) (h : s.atEngine n x e) {cmd : ConvCmd} {acts : Nat → List Nat}
    (hheld : s.rowsHeld x cmd.accRow.toNat cmd.rows.toNat = true) (hact : e.swapTile.current.act = aCls cmd.afmt)
    (hplain : e.swapTile.current.plain = true) (hcb : cmd.cb32 = false)
    (hread : ∀ p, p < cmd.rows.toNat → (s.convInput x cmd 16 (cmd.first.toNat + p)).toOption = some (acts p))
    (hown : ownStream cmd.bcast x) :
    slotCompletes (.engineDwc n cmd) s n.slot x [.regs, .sch] fun y t => streamed n x e (.blocks 1) cmd.afmt cmd.bcast
        cmd.accRow.toNat cmd.overwrite ((List.range cmd.rows.toNat).map acts) y ∧ sameRegsBut (bytesRegs x) s t := by
  obtain ⟨v, hrows, hv⟩ := convRows_own (n := n) hread hown
  exact stream_completes (c := .engineDwc n cmd) (q := .dwc cmd) (refused := fun t => cmd.cb32 || !t.plain) (mapping := fun _ => .blocks 1)
    (width := fun _ => 16) (own := fun w => (rangeFrom cmd.first.toNat cmd.rows.toNat).mapM (s.convInput x cmd w)) h
    (show execEngineDwc n cmd s = _ from State.live_next s _ hs) rfl hheld hact (by simp [hcb, hplain]) hrows hv

end

end Sys2Proof.Machine

open Sys2Proof Sys2Proof.Machine

/-- Settles O8: a row of the accumulator memory receives its own row of activations and no other, and the products that enter an entry
clock by clock are, as integers, the products that the mapping of the tile names. -/
theorem enginesMultiply : Obligations.EnginesMultiply := by
  refine ⟨?plain, ?codebook, ?mma, ?shared, ?conv, ?dwc⟩
  case plain => exact fun s n cmd x e bs hs h hcb hb => engineLdw_completes hs h (ldw_plain hcb hb _)
  case codebook => exact fun s n cmd x e nb k tile hs h hcb ht => engineLdw_completes hs h (ldw_codebook hcb ht _)
  case mma =>
    intro s n cmd x e acts hs h tile hheld hact hread hown
    refine slotCompletes_mono (engineMma_own hs h hheld hact hread hown) fun y t ⟨hstr, hregs⟩ => ?_
    have hint := fun hfp r c hr hc => streamed_int hstr hfp (r := r) (k := c) hr hc
    obtain ⟨honly, hstreams, hcurrent, hidle, hrows, -⟩ := hstr
    simp only [List.length_map, List.length_range] at hrows hint
    refine ⟨honly, hstreams, hregs, hcurrent, hidle, hrows, fun hfp r c hr hc => ?_⟩
    rw [hint hfp r c hr hc, sum_products_full perClock_eq_zero, getD_map_range _ hr]
  case shared =>
    intro s n cmd x e tag u hs h tile hheld hact hb hu
    have hlen : u.rows.length = cmd.rows.toNat := by
      have := List.find?_some hu
      simp only [Bool.and_eq_true, beq_iff_eq] at this
      exact this.2
    obtain ⟨v, hrows⟩ := streamRows_shared hu (s.mmaRows x cmd e.swapTile.current.depth)
    refine slotCompletes_mono (engineMma_streams hs h hheld hact (hb ▸ hrows) fun hnone => by rw [hb] at hnone; cases hnone)
      fun y t ⟨hstr, hregs⟩ => ?_
    have hint := fun hfp r c hr hc => streamed_int hstr hfp (r := r) (k := c) hr hc
    obtain ⟨honly, -, -, -, hrows, -⟩ := hstr
    rw [hlen] at hrows hint
    refine ⟨honly, hregs, hrows, fun hfp r c hr hc => ?_⟩
    rw [hint hfp r c hr hc, sum_products_full perClock_eq_zero]
  case conv =>
    intro s n cmd x e acts hs h tile block g hheld hact hform hread hown
    refine slotCompletes_mono (engineConv_own hs h hheld hact hform hread hown) fun y t ⟨hstr, hregs⟩ => ?_
    have hint := fun hfp r c hr hc => streamed_int hstr hfp (r := r) (k := c) hr hc
    obtain ⟨honly, hstreams, hcurrent, hidle, hrows, -⟩ := hstr
    simp only [List.length_map, List.length_range] at hrows hint
    refine ⟨honly, hstreams, hregs, hcurrent, hidle, hrows, fun hfp r c hr hc => ?_⟩
    rw [hint hfp r c hr hc, getD_map_range _ hr, sum_products_conv]
  case dwc =>
    intro s n cmd x e acts hs h tile hheld hact hplain hcb hread hown
    refine slotCompletes_mono (engineDwc_own hs h hheld hact hplain hcb hread hown) fun y t ⟨hstr, hregs⟩ => ?_
    have hint := fun hfp r c hr hc => streamed_int hstr hfp (r := r) (k := c) hr hc
    obtain ⟨honly, hstreams, hcurrent, hidle, hrows, -⟩ := hstr
    simp only [List.length_map, List.length_range] at hrows hint
    refine ⟨honly, hstreams, hregs, hcurrent, hidle, hrows, fun hfp r c hr hc => ?_⟩
    rw [hint hfp r c hr hc, getD_map_range _ hr, sum_products_blocks, Nat.div_one, Nat.mul_one]
    rfl
end

section
/-! PROOFS. The end of a task: its slots, its lay-by records and its completion record (R113, R261, R262, R271); the end of a step of a
layer (R149–R151). -/

namespace Sys2Proof.Machine

/-! ### A task leaves its cores -/

section
variable {K : Slot → Prop} {s₀ s : State}

namespace Runs

theorem applyStores (h : Runs K s₀ s) {stores : List Unfenced} : Runs K s₀ (s.applyStores stores) := h.foldl fun _ _ _ h => h.write

theorem countHalo (h : Runs K s₀ s) {x : Slot} : Runs K s₀ (s.countHalo x) := by
  unfold State.countHalo
  split
  · exact h.count
  · exact h

theorem keepImage (h : Runs K s₀ s) {x : Slot} : Runs K s₀ (s.keepImage x) :=
  h.same_slots (x := { s.sch with
    rest := upsert (fun e => e.1 == s.siteAt x.core && e.2.1 == x.idx) (s.siteAt x.core, x.idx, x.image) s.sch.rest }) rfl rfl rfl rfl

theorem putSem (h : Runs K s₀ s) {x : Sem} : Runs K s₀ (s.putSem x) :=
  (h.same_slots (x := { s.sch with
    sems := if x.holders.isEmpty && x.waiters.isEmpty then s.sch.sems.filter fun y => y.ident != x.ident
      else upsert (fun y => y.ident == x.ident) x s.sch.sems }) rfl rfl rfl rfl).setFld

theorem dropWaits (h : Runs K s₀ s) {t : Task} : Runs K s₀ (s.dropWaits t) :=
  h.foldl fun _ _ _ h => h.putSem.foldl fun _ _ _ h => h.account

end Runs

/-- What a task leaves: no slot and no lay-by record is its own, and queues, and tasks but for their counts, are as they were. -/
structure Left (t : Task) (s u : State) : Prop where
  parts : changesOnly runParts s u
  slots : ∀ y ∈ u.sch.slots, ¬(y.qid = t.qid ∧ y.seq = t.entry.seq)
  layby : ∀ l ∈ u.sch.layby, ¬(l.slot.qid = t.qid ∧ l.slot.seq = t.entry.seq)
  queues : u.sch.queues = s.sch.queues
  tasks : ∀ q seq, (u.task q seq).map Task.still = (s.task q seq).map Task.still

theorem holds_iff (t : Task) (q : Nat) (seq : Word) : t.holds q seq = true ↔ q = t.qid ∧ seq = t.entry.seq := by simp [Task.holds]

/-- A task that has left its cores: up to when its slots go every slot is where it was; from then on none is the task's. -/
theorem leaveCores_left (s : State) (t : Task) : Left t s ((s.dropWaits t).leaveCores t) := by
  have hany : KeptByRunning fun _ => True := ⟨fun _ _ _ => trivial, fun _ _ => trivial, fun _ _ _ => trivial⟩
  have hothers : KeptByRunning fun y => ¬(y.qid = t.qid ∧ y.seq = t.entry.seq) := ⟨fun _ _ h => h, fun _ h => h, fun _ _ h => h⟩
  have hwaits := (Runs.refl (K := fun _ => True) (s := s) fun _ _ => trivial).dropWaits (t := t)
  unfold State.leaveCores
  extract_lets mine stored counted idle fewer gone
  have hidle : Runs (fun _ => True) s idle :=
    ((hwaits.foldl fun _ _ _ h => h.applyStores).foldl fun _ _ _ h => h.countHalo).foldl fun _ x _ h =>
      (Runs.ite (fun _ => h.coreIdle hany) fun _ => h).keepImage
  have hgone : ∀ y ∈ gone.sch.slots, ¬(y.qid = t.qid ∧ y.seq = t.entry.seq) := fun y hy hmine => by
    have hnot := (List.mem_filter.1 hy).2
    rw [(holds_iff t y.qid y.seq).2 hmine] at hnot
    cases hnot
  have hend := (Runs.refl hgone).foldl (xs := mine) (f := fun s x => (s.wakeCore x.core).boxAdmit (x.core / 128) (x.core / 16 % 8))
    fun _ _ _ h => (h.wakeCore hothers).boxAdmit hothers
  refine ⟨changesOnly_trans hidle.parts (changesOnly_trans (changesOnly_mono (changesOnly_withSch idle _) (by decide)) hend.parts),
    hend.slots, fun l hl hmine => ?_, hend.queues.trans hidle.queues, fun q seq => (hend.tasks q seq).trans (hidle.tasks q seq)⟩
  rw [hend.layby] at hl
  have hnot := (List.mem_filter.1 hl).2
  rw [(holds_iff t l.slot.qid l.slot.seq).2 hmine] at hnot
  cases hnot

end

/-! ### What the end of a task leaves alone -/

/-- The parts that the end of a task may change. -/
abbrev endParts : List Part := [.free, .regs, .mem, .syn, .boxes, .passes, .vis, .brg, .sct, .err, .sch, .dbg]

/-- Of the scheduler, slots, lay-by records and queues are as they were. -/
structure PlacesKept (s₀ s : State) : Prop where
  parts : changesOnly endParts s₀ s
  slots : s.sch.slots = s₀.sch.slots
  layby : s.sch.layby = s₀.sch.layby
  queues : s.sch.queues = s₀.sch.queues

namespace PlacesKept
variable {s₀ s t : State}

theorem refl (s : State) : PlacesKept s s := ⟨changesOnly_refl _ s, rfl, rfl, rfl⟩

/-- A change outside the scheduler. -/
theorem of_parts {parts : List Part} (h : PlacesKept s₀ s) (hc : changesOnly parts s t) (hp : ∀ p ∈ parts, p ∈ endParts)
    (hsch : Part.sch ∉ parts) : PlacesKept s₀ t := by
  have hsame : t.sch = s.sch := hc .sch hsch
  exact ⟨changesOnly_trans h.parts (changesOnly_mono hc hp), by rw [hsame, h.slots], by rw [hsame, h.layby], by rw [hsame, h.queues]⟩

/-- A change of the scheduler that leaves slots, lay-by records and queues alone. -/
theorem withSch (h : PlacesKept s₀ s) {x : SchState} (hs : x.slots = s.sch.slots) (hl : x.layby = s.sch.layby)
    (hq : x.queues = s.sch.queues) : PlacesKept s₀ (s.withSch x) :=
  ⟨changesOnly_trans h.parts (changesOnly_mono (changesOnly_withSch s x) (by decide)), hs.trans h.slots, hl.trans h.layby, hq.trans h.queues⟩

theorem ite {c : Prop} [Decidable c] (hs : PlacesKept s₀ s) (ht : PlacesKept s₀ t) : PlacesKept s₀ (if c then s else t) := by
  split
  exacts [hs, ht]

theorem foldl {α : Type} {f : State → α → State} {xs : List α} (hf : ∀ s x, PlacesKept s₀ s → PlacesKept s₀ (f s x))
    (h : PlacesKept s₀ s) : PlacesKept s₀ (xs.foldl f s) := by
  induction xs generalizing s with
  | nil => exact h
  | cons x xs ih => exact ih (hf s x h)

theorem poke (h : PlacesKept s₀ s) {r ix v} : PlacesKept s₀ (s.poke r ix v) := h.of_parts (changesOnly_poke s r ix v) (by decide) (by decide)

theorem setFld (h : PlacesKept s₀ s) {r ix hi lo v} : PlacesKept s₀ (s.setFld r ix hi lo v) := h.poke

theorem setBit (h : PlacesKept s₀ s) {r ix b v} : PlacesKept s₀ (s.setBit r ix b v) := h.poke

theorem count (h : PlacesKept s₀ s) {r ix n} : PlacesKept s₀ (s.count r ix n) := h.poke

theorem countSat (h : PlacesKept s₀ s) {r ix n ovf oix b} : PlacesKept s₀ (s.countSat r ix n ovf oix b) :=
  h.of_parts (changesOnly_countSat s r ix n ovf oix b) (by decide) (by decide)

theorem event (h : PlacesKept s₀ s) {cls inst code payload} : PlacesKept s₀ (s.event cls inst code payload) :=
  h.of_parts (changesOnly_event s cls inst code payload) (by decide) (by decide)

theorem write (h : PlacesKept s₀ s) {a bs} : PlacesKept s₀ (s.write a bs) := h.of_parts (changesOnly_write s a bs) (by decide) (by decide)

theorem withDbg (h : PlacesKept s₀ s) {x} : PlacesKept s₀ (s.withDbg x) :=
  h.of_parts (parts := [.dbg]) (fun p hp => by cases p <;> first | rfl | simp at hp) (by decide) (by decide)

theorem withBrg (h : PlacesKept s₀ s) {x} : PlacesKept s₀ (s.withBrg x) := h.of_parts (changesOnly_withBrg s x) (by decide) (by decide)

theorem setOut (h : PlacesKept s₀ s) {o x} : PlacesKept s₀ (s.setOut o x) :=
  h.of_parts (parts := [.syn]) (fun p hp => by cases p <;> first | rfl | simp at hp) (by decide) (by decide)

theorem traceTo (h : PlacesKept s₀ s) {ring source word payload} : PlacesKept s₀ (s.traceTo ring source word payload) :=
  (ite h.write.poke.countSat h.write.poke).withDbg

theorem trace (h : PlacesKept s₀ s) {source ctx word payload} : PlacesKept s₀ (s.trace source ctx word payload) :=
  ite (ite h.traceTo h).traceTo (ite h.traceTo h)

/-! ### SYN, the rambler and lendings -/

theorem adpStatus (h : PlacesKept s₀ s) {o} : PlacesKept s₀ (s.adpStatus o) := h.setBit.setBit.setBit.setFld

theorem adpGiveUp (h : PlacesKept s₀ s) {o} : PlacesKept s₀ (s.adpGiveUp o) := h.setOut.setBit

theorem adpRevert (h : PlacesKept s₀ s) {o ref cause} : PlacesKept s₀ (s.adpRevert o ref cause) :=
  have h := h.setOut.setBit.countSat.adpStatus
  ite h.event h

theorem adpFail (h : PlacesKept s₀ s) {o ref cause status} : PlacesKept s₀ (s.adpFail o ref cause status) :=
  have h := h.adpGiveUp.setOut.countSat.adpStatus
  have h := ite h.event h
  ite h.adpRevert h

theorem synTaskEndAt (h : PlacesKept s₀ s) {o qid seq status} : PlacesKept s₀ (s.synTaskEndAt o qid seq status) := by
  unfold State.synTaskEndAt
  extract_lets x t
  have ht : PlacesKept s₀ t := by
    dsimp only [t]
    split
    · exact h.setOut.adpStatus
    · exact h
  split
  · exact ite (ite ht.setOut.setBit.setBit.adpStatus (ite ht ht.adpFail)) ht
  · exact ht

theorem synTaskEnd (h : PlacesKept s₀ s) {qid seq status} : PlacesKept s₀ (s.synTaskEnd qid seq status) :=
  h.synTaskEndAt.synTaskEndAt.synTaskEndAt.synTaskEndAt

theorem donorResume (h : PlacesKept s₀ s) : PlacesKept s₀ s.donorResume := by
  unfold State.donorResume
  dsimp only
  split
  · exact ite (foldl (fun _ _ h => h.poke.poke) h).setBit.setBit.withBrg h
  · exact h

theorem relend (h : PlacesKept s₀ s) {old} : PlacesKept s₀ (s.relend old) :=
  foldl (fun _ _ h => h.trace) (foldl (fun _ _ h => h.trace) (h.withSch (x := { s.sch with
    tasks := s.sch.tasks.map fun t => { t with eff := s.lendEff t.qid t.entry.seq } }) rfl rfl rfl).count)

end PlacesKept

/-! ### The completion record (R262) -/

/-- A queue once it has posted the record of its next entry. -/
def Queue.afterPost (x : Queue) (c : Completion) : Queue :=
  { x with posted := x.posted + 1, ended := [], statuses := ((c.seq, c.status) :: x.statuses).take 256 }

/-- A record has been posted: queue `q` is `y`, and slots and lay-by records are as they were. -/
structure Posted (s : State) (q : Nat) (y : Queue) (t : State) : Prop where
  parts : changesOnly endParts s t
  slots : t.sch.slots = s.sch.slots
  layby : t.sch.layby = s.sch.layby
  queue : t.queue q = some y

/-- The record that a queue may post next is posted, and nothing else is. -/
theorem complete_posts {s : State} {q : Nat} {x : Queue} {c : Completion} (hx : s.queue q = some x) (hended : x.ended = [])
    (hcq : x.desc.cqOnly = false) (hdis : x.disabling = false) (hseq : c.seq = x.posted) (hnote : c.note = .none) :
    Posted s q (x.afterPost c) (s.complete q c) := by
  obtain rfl : x.ident = q := by simpa using List.find?_some hx
  let y : Queue := { x with ended := [c] }
  have hy : (s.putQueue y).queue x.ident = some y := queue_putQueue s y
  have hnext : y.nextRecord = some c := by simp [Queue.nextRecord, y, hcq, hseq]
  have hpost : ∃ a bs, (s.putQueue y).postOne y c = ((s.putQueue y).write a bs).putQueue (x.afterPost c) := by
    unfold State.postOne
    simp only [y, hcq, Bool.false_eq_true, if_false, hnote]
    refine ⟨_, _, congrArg (State.putQueue _) ?_⟩
    simp [Queue.afterPost]
  obtain ⟨a, bs, hpost⟩ := hpost
  have hloop : (s.putQueue y).flushLoop x.ident y.ended.length = (s.putQueue y).postOne y c := by
    change (s.putQueue y).flushLoop x.ident 1 = _
    rw [State.flushLoop, hy]
    simp only [hnext]
    rfl
  have hcomplete : s.complete x.ident c = ((s.putQueue y).write a bs).putQueue (x.afterPost c) := by
    rw [State.complete, hx]
    dsimp only
    rw [hended, List.nil_append, State.flushQueue, hy]
    dsimp only
    rw [hloop, hpost, State.finishDisable, show (State.putQueue _ (x.afterPost c)).queue x.ident = some (x.afterPost c) from queue_putQueue _ _]
    exact if_neg (by simp [Queue.afterPost, hdis])
  have hwritten := changesOnly_write (s.putQueue y) a bs
  have hsch : ((s.putQueue y).write a bs).sch = (s.putQueue y).sch := hwritten .sch (by decide)
  have hslots := congrArg SchState.slots hsch
  have hlayby := congrArg SchState.layby hsch
  rw [hcomplete]
  exact ⟨changesOnly_trans (changesOnly_mono (changesOnly_withSch s _) (by decide)) (changesOnly_trans (changesOnly_mono hwritten (by decide))
    (changesOnly_mono (changesOnly_withSch _ _) (by decide))), hslots, hlayby, queue_putQueue _ (x.afterPost c)⟩

/-! ### The end of a task -/

theorem abort_nothing {s : State} (hb : s.boxes = []) (hp : s.passes = []) (p : BoxCall → Bool) (f : Pass → Bool) :
    (s.abortCalls p).abortPasses f = (s.withBoxes []).withPasses [] := by
  have hcalls : s.abortCalls p = s.withBoxes [] := by rw [State.abortCalls, hb]; rfl
  have hpasses : (s.withBoxes []).passes = [] := hp
  rw [hcalls, State.abortPasses, hpasses]
  rfl

section
variable {s : State} {q : Nat} {seq : Word} {u : Task} {x : Queue}

/-- A task without box calls and passes ends: its places are free, and its queue has posted its record. -/
theorem finishTask_ends (hu : s.task q seq = some u) (hx : s.queue q = some x) (hturn : s.inTurn x seq) (hb : s.boxes = [])
    (hp : s.passes = []) (hr : u.render = none) (st : Nat) :
    changesOnly endParts s (s.finishTask u st)
      ∧ (∀ y ∈ (s.finishTask u st).sch.slots, ¬(y.qid = q ∧ y.seq = seq))
      ∧ (∀ l ∈ (s.finishTask u st).sch.layby, ¬(l.slot.qid = q ∧ l.slot.seq = seq))
      ∧ ∃ y, (s.finishTask u st).queue q = some y ∧ y.posted = x.posted + 1 ∧ y.statuses.head? = some (seq, u.endStatus st) := by
  obtain ⟨hended, hcq, hdis, hseq, -⟩ := hturn
  obtain ⟨rfl, rfl⟩ := task_key hu
  unfold State.finishTask
  extract_lets old status halted aborted vis gone left y fewer unlisted brg away resumed posted traced told
  have haborted : aborted = (s.withBoxes []).withPasses [] := abort_nothing hb hp _ _
  have hgone : changesOnly [.boxes, .passes, .vis] s gone := by
    dsimp only [gone]
    rw [haborted]
    exact fun p hp => by cases p <;> first | rfl | simp at hp
  have hsch : gone.sch = s.sch := hgone .sch (by decide)
  have hleft : Left u gone left := leaveCores_left gone u
  obtain ⟨hqid, hyseq, hyr⟩ : y.qid = u.qid ∧ y.entry.seq = u.entry.seq ∧ y.render = none := by
    have htask := hleft.tasks u.qid u.entry.seq
    rw [show gone.task u.qid u.entry.seq = some u by rw [State.task, hsch]; exact hu] at htask
    obtain ⟨v, hv, hstill⟩ := Option.map_eq_some_iff.1 htask
    have hy : y = v := by dsimp only [y]; rw [hv]; rfl
    rw [hy]
    exact ⟨congrArg (·.qid) hstill, congrArg (·.entry.seq) hstill, (congrArg (·.render) hstill).trans hr⟩
  have hresumed : PlacesKept left resumed := by
    refine PlacesKept.relend (.donorResume (.withBrg (.withSch (.refl left) ?_ ?_ ?_)))
    all_goals rfl
  have hqueue : resumed.queue u.qid = some x := by
    rw [State.queue, hresumed.queues, hleft.queues, hsch]
    exact hx
  obtain ⟨hparts, hslots, hlayby, hqposted⟩ : Posted resumed u.qid (x.afterPost (y.completion status resumed.now)) posted := by
    dsimp only [posted]
    rw [hqid]
    exact complete_posts hqueue hended hcq hdis (hyseq.trans hseq) (by rw [Task.completion, hyr])
  have hfinal : PlacesKept posted (if halted = true then told.event 14 0 9 (leBytes 1 y.ctx ++ leBytes 1 status) else told) :=
    have htold : PlacesKept posted told := (PlacesKept.refl posted).trace.synTaskEnd
    .ite htold.event htold
  refine ⟨?_, fun z hz => hleft.slots z ?_, fun l hl => hleft.layby l ?_, x.afterPost (y.completion status resumed.now), ?_, rfl, ?_⟩
  · exact changesOnly_trans (changesOnly_mono hgone (by decide)) (changesOnly_trans (changesOnly_mono hleft.parts (by decide))
      (changesOnly_trans hresumed.parts (changesOnly_trans hparts hfinal.parts)))
  · rw [← hresumed.slots, ← hslots, ← hfinal.slots]
    exact hz
  · rw [← hresumed.layby, ← hlayby, ← hfinal.layby]
    exact hl
  · rw [State.queue, hfinal.queues]
    exact hqposted
  · rw [← hyseq]
    rfl

end

/-! ### Scale history records (Table 5.7) -/

theorem putAt_length {rec bs : List Byte} {o : Nat} (hr : rec.length = 128) (h : o + bs.length ≤ 128) : (putAt rec o bs).length = 128 := by
  simp only [putAt, List.length_append, List.length_take, List.length_drop]
  omega

theorem countIn_length {rec : List Byte} (hr : rec.length = 128) {which : Nat} (hw : which < 4) (n : Nat) :
    (countIn rec which n).length = 128 := by
  have hcount : (putAt rec (0x68 + 4 * which) (leBytes 4 (min (2 ^ 32 - 1) (leAt rec (0x68 + 4 * which) 4 + n)))).length = 128 :=
    putAt_length hr (by simp; omega)
  unfold countIn
  dsimp only
  split
  · exact putAt_length hcount (by simp)
  · exact hcount

theorem setStepFlag_length {rec : List Byte} (hr : rec.length = 128) (b : Nat) : (setStepFlag rec b).length = 128 :=
  putAt_length hr (by simp)

theorem clearStep_length {rec : List Byte} (hr : rec.length = 128) : (clearStep rec).length = 128 :=
  putAt_length (putAt_length hr (by simp [zeros])) (by simp [zeros])

theorem startStep_length {rec : List Byte} (hr : rec.length = 128) : (startStep rec).length = 128 :=
  clearStep_length (putAt_length (putAt_length hr (by simp [zeros])) (by simp))

theorem mergeRecords_length {rec : List Byte} (hr : rec.length = 128) (copies : List (List Byte)) : (mergeRecords rec copies).length = 128 :=
  putAt_length (putAt_length (putAt_length hr (by simp)) (by simp)) (by simp)

theorem pushStep_length {rec : List Byte} (hr : rec.length = 128) : (pushStep rec).length = 128 := by
  have hhead : 4 * (leAt rec 0x48 1 % 16) + (sliceBytes rec 0x50 4).length ≤ 128 := by
    have : (sliceBytes rec 0x50 4).length ≤ 4 := by simp [sliceBytes]
    omega
  exact putAt_length (countIn_length (countIn_length (putAt_length (putAt_length hr hhead) (by simp)) (by decide) _) (by decide) _) (by simp)

/-- What the policy makes of a record is a record. -/
theorem stepPolicy_length {rec : List Byte} (hr : rec.length = 128) (again deadline : Bool) : (stepPolicy rec again deadline).1.length = 128 := by
  unfold stepPolicy
  dsimp only
  have hcounted := setStepFlag_length (countIn_length hr (which := 2) (by decide) 1) 0
  split
  · exact pushStep_length hr
  · split
    · split
      · exact setStepFlag_length hr 2
      · exact pushStep_length (setStepFlag_length hr 2)
    · split
      · exact hcounted
      · split
        · exact clearStep_length (setStepFlag_length (countIn_length (putAt_length hcounted (by simp)) (by decide) _) 1)
        · exact pushStep_length hcounted

/-- Records that a context may write are written. -/
theorem writeRecords_ok {s : State} {ctx : Nat} {rec : List Byte} (hr : rec.length = 128) {as : List Nat}
    (has : ∀ a ∈ as, s.accessOk ctx a 128 true = true ∧ s.writeError a 128 = none) :
    ∃ t, s.writeRecords ctx rec as = .ok t ∧ changesOnly [.mem, .err] s t ∧ ∀ w ∈ t.err.bad, w ∈ s.err.bad := by
  induction as generalizing s with
  | nil => exact ⟨s, rfl, changesOnly_refl _ s, fun _ hw => hw⟩
  | cons a as ih =>
    obtain ⟨hok, herr⟩ := has a List.mem_cons_self
    have hwrite := changesOnly_write s a rec
    have hdev : (s.write a rec).dev = s.dev := hwrite .dev (by decide)
    obtain ⟨t, ht, hparts, hbad⟩ := ih (s := s.write a rec) fun b hb => by
      obtain ⟨hok, herr⟩ := has b (List.mem_cons_of_mem a hb)
      exact ⟨(accessOk_of_cfg (hwrite .regs (by decide)) hdev (hwrite .img (by decide)) ctx b 128 true).trans hok,
        writeError_congr hdev (bad_write s a rec) herr⟩
    refine ⟨t, ?_, changesOnly_trans hwrite hparts, fun w hw => bad_write s a rec w (hbad w hw)⟩
    rw [State.writeRecords, State.tryWrite, writeFor_ok (by rw [hr]; exact hok) (by rw [hr]; exact herr)]
    exact ht

section
variable {s : State} {q : Fin 16384} {seq : Word} {t : Task} {rec : List Byte} {cs : List (List Byte)} {m : Nat} {copies : List Nat}

/-- The merged record of a step of a layer, as the policy finds it (R146). -/
def mergedStep (t : Task) (m : Nat) (rec : List Byte) (cs : List (List Byte)) : List Byte :=
  mergeRecords (if t.replays.contains m then rec else startStep rec) cs

/-- What a step of a layer comes to (R149–R151). -/
def stepResult (t : Task) (m : Nat) (rec : List Byte) (cs : List (List Byte)) : StepResult :=
  (stepPolicy (mergedStep t m rec cs) (t.replays.contains m) t.entry.dlValid).2

theorem mergedStep_length {rec : List Byte} (hr : rec.length = 128) (t : Task) (m : Nat) (cs : List (List Byte)) :
    (mergedStep t m rec cs).length = 128 := by
  refine mergeRecords_length ?_ cs
  split
  · exact hr
  · exact startStep_length hr

theorem tryRead_length {ctx a k : Nat} {bs : List Byte} (h : s.tryRead ctx a k = .ok bs) : bs.length = k := by
  rw [State.tryRead, State.readFor] at h
  by_cases hok : s.accessOk ctx a k false = true
  · rw [if_pos hok] at h
    cases herr : s.readError a k with
    | none =>
      rw [herr] at h
      cases h
      exact State.bytes_length s a k
    | some w => rw [herr] at h; cases h
  · rw [if_neg hok] at h
    cases h

/-- A step whose records can be read and written is merged; of the registers it can move those of event records alone. -/
theorem mergeStep_ok (hrec : (s.tryRead t.ctx m 128).toOption = some rec) (hcs : (s.readRecords t.ctx copies).toOption = some cs)
    (hfit : ∀ a ∈ m :: copies, s.accessOk t.ctx a 128 true = true ∧ s.writeError a 128 = none) :
    ∃ u, s.mergeStep t m copies = .ok (u, stepResult t m rec cs)
      ∧ ChangesWithin [.free, .regs, .mem, .err, .sct] (· ∈ eventRegs) s u := by
  have hrec := eq_ok_of_toOption hrec
  have hlen : rec.length = 128 := tryRead_length hrec
  have hpolicy := stepPolicy_length (mergedStep_length hlen t m cs) (t.replays.contains m) t.entry.dlValid
  rw [stepResult]
  rcases hp : stepPolicy (mergedStep t m rec cs) (t.replays.contains m) t.entry.dlValid with ⟨after, what⟩
  rw [hp] at hpolicy
  obtain ⟨s₁, hs₁, hparts₁, hbad₁⟩ := writeRecords_ok (s := s) hpolicy (as := [m]) fun a ha =>
    hfit a (List.mem_singleton.1 ha ▸ List.mem_cons_self)
  have hready : (if what == .replay then after else startStep after).length = 128 := by
    split
    · exact hpolicy
    · exact startStep_length hpolicy
  obtain ⟨s₂, hs₂, hparts₂, -⟩ := writeRecords_ok (s := s₁) hready (as := copies) fun a ha => by
    obtain ⟨hok, herr⟩ := hfit a (List.mem_cons_of_mem m ha)
    exact ⟨(accessOk_of_cfg (hparts₁ .regs (by decide)) (hparts₁ .dev (by decide)) (hparts₁ .img (by decide)) t.ctx a 128 true).trans hok,
      writeError_congr (hparts₁ .dev (by decide)) hbad₁ herr⟩
  have hwritten : changesOnly [.mem, .err] s s₂ := changesOnly_trans hparts₁ hparts₂
  have htold : ∀ c : Bool, ChangesWithin [.free, .regs, .sct] (· ∈ eventRegs) s₂
      (if c then s₂.mismatchEvent t (mergedStep t m rec cs) else s₂) :=
    fun c => told_within _ _ _ _ _ _
  refine ⟨_, ?_, .trans (.of_cfg (changesOnly_mono hwritten (by decide)) (hwritten .regs (by decide))
    (congrArg SctState.held (hwritten .sct (by decide))) (congrArg SctState.cache (hwritten .sct (by decide))))
    ((htold (mismatches (mergedStep t m rec cs) && !t.replays.contains m && natBit (leAt rec 0x4C 1) 3)).mono (by decide) fun _ => id)⟩
  rw [State.mergeStep, hrec, eq_ok_of_toOption hcs]
  simp only [bind, Except.bind]
  rw [← mergedStep, hp]
  simp only [hs₁, hs₂]

/-- Whether a task is of a slice the registers of SYN say, which no event record moves. -/
theorem sliceTag_of_events {u : State} {parts : List Part} (h : ChangesWithin parts (· ∈ eventRegs) s u) : u.sliceTag t = s.sliceTag t := by
  have hqueue : u.isSliceQueue t.qid = s.isSliceQueue t.qid := by
    rw [State.isSliceQueue, State.isSliceQueue, Bool.eq_iff_iff, List.any_eq_true, List.any_eq_true]
    refine exists_congr fun o => and_congr_right fun ho => ?_
    have hlt : o < 4 := by simpa [mem_rangeFrom] using ho
    have hapart : ∀ o < 4, regAddr R.SYN_CTRL [o] ∉ eventRegs ∧ regAddr R.SYN_QUEUE [o] ∉ eventRegs := by decide
    obtain ⟨hctrl, hq⟩ := hapart o hlt
    rw [h.bit hctrl, h.bit hq, h.fld hq]
  rw [State.sliceTag, State.sliceTag, hqueue]

theorem task_kept (s t : State) (q : Nat) (seq : Word) : (t.kept s).task q seq = t.task q seq := rfl

/-- The end of a step: its task goes on, runs the layer again, fails once its slice is done, or ends. -/
theorem layerStepEnd_next {a : BitVec 48} {as : List (BitVec 48)} (hs : s.isLive) (ht : s.task q.val seq = some t) (hstart : t.started = true)
    (hf : t.forced = none) (hrec : (s.tryRead t.ctx a.toNat 128).toOption = some rec)
    (hcs : (s.readRecords t.ctx (as.map (·.toNat))).toOption = some cs)
    (hfit : ∀ b ∈ a :: as, s.accessOk t.ctx b.toNat 128 true = true ∧ s.writeError b.toNat 128 = none) :
    ∃ u, exec (.layerStepEnd q seq a as) s = .next u ∧
      match stepResult t a.toNat rec cs with
      | .kept => ∃ v, u.task q.val seq = some v ∧ v = { t with replays := v.replays, stepBefore := v.stepBefore }
          ∧ v.replays.contains a.toNat = false
      | .replay => ∃ v, u.task q.val seq = some v ∧ v = { t with replays := v.replays, stepBefore := v.stepBefore }
          ∧ v.replays.contains a.toNat = true
      | .failed => u.task q.val seq = if (s.sliceTag t).isSome then some { t with forced := some 0x15 } else none
      | .aborted => u.task q.val seq = none := by
  obtain ⟨u, hmerge, hwithin⟩ := mergeStep_ok hrec hcs fun b hb => by
    rw [← List.map_cons, List.mem_map] at hb
    obtain ⟨c, hc, rfl⟩ := hb
    exact hfit c hc
  have hu : u.task q.val seq = some t := by
    rw [State.task, show u.sch = s.sch from hwithin.parts .sch (by decide)]
    exact ht
  have hend (st : Nat) : (u.endTask t st).task q.val seq = none := by
    obtain ⟨hq, hseq⟩ := task_key ht
    rw [← hq, ← hseq]
    exact task_endTask u t st none
  refine ⟨_, show execLayerStepEnd q seq a as s = _ from State.live_next s _ hs, ?_⟩
  simp only [ht, hstart, hf, hmerge, Option.isSome_none, Bool.not_true, Bool.or_self, Bool.false_eq_true, if_false, task_kept]
  cases stepResult t a.toNat rec cs with
  | kept => exact ⟨_, task_putTask hu rfl rfl, rfl, by simp⟩
  | replay => exact ⟨_, task_putTask hu rfl rfl, rfl, by simp⟩
  | failed =>
    dsimp only
    rw [sliceTag_of_events hwithin]
    split
    · exact task_putTask hu rfl rfl
    · exact hend 0x15
  | aborted => exact hend 0x15

/-! ### The commands that end a task -/

/-- A completion, a deadline and a timeout that are due end their task. -/
theorem exec_ends {c : Instr} {st : Byte} (hs : s.isLive) (ht : s.task q.val seq = some t) (hstart : t.started = true)
    (hc : c = .taskComplete q seq st ∧ statusCodes.contains st.toNat = true ∧ (st = 0 → s.taskDone t = true)
      ∨ c = .deadlineAbort q seq ∧ st = 0x14 ∧ t.entry.dlValid = true ∧ t.entry.dlAbort = true
      ∨ c = .taskTimeout q seq ∧ st = 0x12 ∧ t.launch.timeout ≠ 0
        ∧ ∀ l, t.token = some l → l.finished.isSome = true ∨ s.bit R.SCT_RES_CFG [t.ctx] 0 = false) :
    exec c s = .next ((s.endTask t st.toNat).kept s) := by
  obtain ⟨rfl, hcode, hdone⟩ | ⟨rfl, rfl, hvalid, habort⟩ | ⟨rfl, rfl, htime, htoken⟩ := hc
  · change execTaskComplete q seq st s = _
    rw [execTaskComplete, State.live_next s _ hs, ht]
    have hwork : (st != 0 || s.taskDone t) = true := by
      by_cases h : st = 0
      · rw [hdone h, Bool.or_true]
      · rw [bne_iff_ne.2 h, Bool.true_or]
    simp only [hstart, hcode, hwork, Bool.and_self, if_true]
  · change execDeadlineAbort q seq s = _
    rw [execDeadlineAbort, State.live_next s _ hs, ht]
    simp only [hstart, hvalid, habort, Bool.and_self, if_true]
    rfl
  · change execTaskTimeout q seq s = _
    rw [execTaskTimeout, State.live_next s _ hs, State.timeoutTask, ht]
    simp only [hstart, htime, Bool.not_true]
    cases hl : t.token with
    | none => rfl
    | some l =>
      have hover : (l.finished.isSome || !s.bit R.SCT_RES_CFG [t.ctx] 0) = true := by
        obtain h | h := htoken l hl <;> simp [h]
      simp only [hover, if_true]
      rfl

end

end Sys2Proof.Machine

open Sys2Proof Sys2Proof.Machine

/-- Settles O28: no slot or lay-by record of the task is left once it has left its cores, and nothing that follows brings one back; the
queue whose turn it is posts the one record. A step of a layer moves registers of event records alone before its task goes on or ends. -/
theorem tasksEnd : Obligations.TasksEnd := by
  refine ⟨?ends, ?step⟩
  case ends =>
    intro s q seq u x st c hs hu hstart hx hturn hb hp hsyn hr htear hc
    obtain ⟨hparts, hslots, hlayby, y, hy, hposted, hstatus⟩ := finishTask_ends hu hx hturn hb hp hr st.toNat
    have hend : s.endTask u st.toNat = s.finishTask u st.toNat := if_neg (by rw [htear]; decide)
    have hnone : (s.endTask u st.toNat).task q.val seq = none := by
      obtain ⟨hq, hseq⟩ := task_key hu
      rw [← hq, ← hseq]
      exact task_endTask s u st.toNat none
    rw [hend] at hnone
    have himg : (s.finishTask u st.toNat).img = s.img := hparts .img (by decide)
    have htim : (s.finishTask u st.toNat).tim = s.tim := hparts .tim (by decide)
    refine ⟨_, exec_ends hs hu hstart hc, rfl, ?_⟩
    rw [hend]
    exact ⟨rfl, himg, htim, hnone, hslots, hlayby, y, hy, hposted, hstatus⟩
  case step => exact fun s q seq m copies t rec cs hs ht hstart hf hrec hcs hfit => layerStepEnd_next hs ht hstart hf hrec hcs hfit
end

section
/-! PROOFS. Loads, stores, atomics and fences of the SIMT unit (R97, R98, R118). -/

namespace Sys2Proof.Machine

/-! ### Consecutive registers -/

/-- Every active thread writes `k` registers from `rd` on. -/
def Slot.lanewises (x : Slot) (h : Hamper) (rd k : Nat) (f : Nat → Nat → Word) : Slot :=
  (rangeFrom 0 k).foldl (fun (y : Slot) i => y.lanewise h (rd + i) (f i)) x

theorem rangeFrom_zero_succ (k : Nat) : rangeFrom 0 (k + 1) = rangeFrom 0 k ++ [k] := by
  rw [rangeFrom_eq_range', rangeFrom_eq_range', List.range'_1_concat, Nat.zero_add]

theorem lanewises_succ (x : Slot) (h : Hamper) (rd k : Nat) (f : Nat → Nat → Word) :
    x.lanewises h rd (k + 1) f = (x.lanewises h rd k f).lanewise h (rd + k) (f k) := by
  rw [Slot.lanewises, rangeFrom_zero_succ, List.foldl_append]
  rfl

theorem RegsAlone.lanewises {x : Slot} (hb : x.image.badRegs = []) (h : Hamper) (rd k : Nat) (f : Nat → Nat → Word) :
    RegsAlone x (x.lanewises h rd k f) := by
  induction k with
  | zero => exact .refl x
  | succ k ih =>
    rw [lanewises_succ]
    exact ih.trans (.lanewise (ih.badRegs.trans hb) h _ _)

/-- What a thread register holds after every active thread has written `k` from `rd` on. -/
theorem reg_lanewises (x : Slot) (h : Hamper) {rd k g l r : Nat} (f : Nat → Nat → Word) (hl : l < 32) (hr : r < 64) (hk : rd + k ≤ 64) :
    (x.lanewises h rd k f).reg g l r = if g = h.ident ∧ l ∈ h.lanes ∧ rd ≤ r ∧ r < rd + k then f (r - rd) l else x.reg g l r := by
  induction k with
  | zero => rw [if_neg (by omega)]; rfl
  | succ k ih =>
    rw [lanewises_succ, reg_lanewise _ h _ hl hr (by omega), ih (by omega)]
    by_cases hlast : r = rd + k
    · subst hlast
      by_cases hon : g = h.ident ∧ l ∈ h.lanes <;> simp [hon]
    · have hwindow : (rd ≤ r ∧ r < rd + (k + 1)) ↔ (rd ≤ r ∧ r < rd + k) := by omega
      rw [if_neg fun hh => hlast hh.2.2]
      simp only [hwindow]

/-- The words that a thread stores. -/
def storedBytes (x : Slot) (h : Hamper) (rd k l : Nat) : List Byte :=
  ((rangeFrom rd k).map fun r => leBytes 4 (x.reg h.ident l r).toNat).flatten

theorem storedBytes_length (x : Slot) (h : Hamper) (rd k l : Nat) : (storedBytes x h rd k l).length = 4 * k := by
  induction k generalizing rd with
  | zero => rfl
  | succ k ih =>
    have hrest := ih (rd + 1)
    rw [storedBytes] at hrest ⊢
    rw [rangeFrom, List.map_cons, List.flatten_cons, List.length_append, hrest]
    simp
    omega

/-- Each word is stored in its place. -/
theorem storedBytes_word (x : Slot) (h : Hamper) (rd : Nat) {k i : Nat} (l : Nat) (hi : i < k) :
    ((storedBytes x h rd k l).drop (4 * i)).take 4 = leBytes 4 (x.reg h.ident l (rd + i)).toNat := by
  induction k generalizing rd i with
  | zero => exact absurd hi (Nat.not_lt_zero i)
  | succ k ih =>
    have hcut : storedBytes x h rd (k + 1) l = leBytes 4 (x.reg h.ident l rd).toNat ++ storedBytes x h (rd + 1) k l := rfl
    have hlen : (leBytes 4 (x.reg h.ident l rd).toNat).length = 4 := by simp
    cases i with
    | zero => rw [hcut, Nat.mul_zero, List.drop_zero, List.take_append_of_le_length (by omega), List.take_of_length_le (by omega)]; rfl
    | succ i =>
      rw [hcut, List.drop_append, List.drop_of_length_le (by omega), List.nil_append, hlen,
        show 4 * (i + 1) - 4 = 4 * i by omega, ih (rd + 1) (by omega), show rd + 1 + i = rd + (i + 1) by omega]

/-! ### Accesses -/

section
variable {s : State} {n : HamperName} {x : Slot} {h : Hamper} {l : Nat}

/-- An access of one thread that meets no fault meets no error. -/
theorem error_of_accessFault {share : Nat × Nat} {o k : Nat} {write : Bool} (hf : s.accessFault share [o] k write = none) :
    (if write then s.writeError (share.1 + o) k else s.readError (share.1 + o) k) = none := by
  unfold State.accessFault at hf
  dsimp only at hf
  split at hf
  · cases hf
  next herr =>
    by_cases hin : o + k ≤ share.2
    · simpa [hin] using herr
    · simp [hin] at hf

/-- What a thread reads where none of its stores waits. -/
theorem threadBytes_of_none (s : State) (x : Slot) (thread a k : Nat)
    (h : ∀ i < k, ∀ u ∈ x.image.unfenced, ¬(u.thread = thread ∧ u.addr = a + i)) : s.threadBytes x thread a k = s.bytes a k := by
  refine List.ext_getElem? fun i => ?_
  rw [State.threadBytes, getElem?_mapPlaces]
  cases hb : (s.bytes a k)[i]? with
  | none => rfl
  | some b =>
    have hi : i < k := by
      obtain ⟨hlt, -⟩ := List.getElem?_eq_some_iff.1 hb
      rwa [State.bytes_length] at hlt
    have hnone : x.image.unfenced.find? (fun u => u.thread == thread && u.addr == a + (0 + i)) = none :=
      List.find?_eq_none.2 fun u hu hmine => h i hi u hu (by simpa using hmine)
    simp only [Option.map_some, hnone]

theorem simtLoad_completes (hs : s.isLive) (hh : s.atHamper n x h) {space : SimtSpace} {words : Fin 4} {rd ra : Fin 64}
    (hform : words.val ≠ 2) (hrd : rd.val + words.val < 64)
    (hf : s.accessFault (s.spaceShare x space) (h.lanes.map fun l => (x.reg h.ident l ra.val).toNat) (4 * (words.val + 1)) false = none) :
    slotCompletes (.simtLoadStore n false space words rd ra) s n.slot x [.sch] fun y _ => regsOnly x y
      ∧ ∀ l ∈ h.lanes, ∀ i, i ≤ words.val → y.reg h.ident l (rd.val + i) =
          BitVec.ofNat 32 (ofLe (s.threadBytes x (h.thread l) ((s.spaceShare x space).1 + (x.reg h.ident l ra.val).toNat + 4 * i) 4)) := by
  let value (i l : Nat) : Word :=
    BitVec.ofNat 32 (ofLe (s.threadBytes x (h.thread l) ((s.spaceShare x space).1 + (x.reg h.ident l ra.val).toNat + 4 * i) 4))
  have halone := RegsAlone.lanewises hh.2 h rd.val (words.val + 1) value
  refine slotCompletes_of_regs (t := s) (y := x.lanewises h rd.val (words.val + 1) value) hs hh
    (show execSimtLoadStore n false space words rd ra s = _ from rfl) ?_ (changesOnly_refl _ s) (by decide) rfl halone
    ⟨halone.regsOnly, fun l hl i hi => ?_⟩
  · simp only [show ¬(words.val + 1 = 3 ∨ 64 < rd.val + (words.val + 1)) by omega, if_false, hf, Bool.false_eq_true]
    rfl
  · rw [reg_lanewises x h value (lane_lt hl) (by omega) (by omega), if_pos ⟨rfl, hl, by omega, by omega⟩, Nat.add_sub_cancel_left]

/-- The state once a thread has stored bytes: to core memory at once, to cluster memory up to its fence. -/
def State.storedIn (s : State) (x : Slot) (thread a : Nat) (bs : List Byte) : SimtSpace → State
  | .core => s.write a bs
  | .cluster => s.putSlot (x.holdStore thread a bs)

/-- A store of one thread. -/
theorem exec_simtStore (hs : s.isLive) (hh : s.atHamper n x h) {space : SimtSpace} {words : Fin 4} {rd ra : Fin 64}
    (hform : words.val ≠ 2) (hrd : rd.val + words.val < 64) (hone : h.lanes = [l])
    (hf : s.accessFault (s.spaceShare x space) [(x.reg h.ident l ra.val).toNat] (4 * (words.val + 1)) true = none) :
    exec (.simtLoadStore n true space words rd ra) s = .next ((s.storedIn x (h.thread l)
      ((s.spaceShare x space).1 + (x.reg h.ident l ra.val).toNat) (storedBytes x h rd.val (words.val + 1) l) space).kept s) := by
  rw [exec_reading (c := .simtLoadStore n true space words rd ra) hs hh (show execSimtLoadStore n true space words rd ra s = _ from rfl)]
  simp only [show ¬(words.val + 1 = 3 ∨ 64 < rd.val + (words.val + 1)) by omega, if_false, if_true, hone, List.map_cons, List.map_nil, hf]
  cases space <;> rfl

theorem simtStore_core_completes (hs : s.isLive) (hh : s.atHamper n x h) {words : Fin 4} {rd ra : Fin 64}
    (hform : words.val ≠ 2) (hrd : rd.val + words.val < 64) (hone : h.lanes = [l])
    (hf : s.accessFault (s.spaceShare x .core) [(x.reg h.ident l ra.val).toNat] (4 * (words.val + 1)) true = none) :
    completes (.simtLoadStore n true .core words rd ra) s [.mem, .err] fun t =>
      sameMemBut ((s.spaceShare x .core).1 + (x.reg h.ident l ra.val).toNat) (4 * (words.val + 1)) s t
        ∧ ∀ i, i ≤ words.val → t.le ((s.spaceShare x .core).1 + (x.reg h.ident l ra.val).toNat + 4 * i) 4 =
            (x.reg h.ident l (rd.val + i)).toNat := by
  have hlen := storedBytes_length x h rd.val (words.val + 1) l
  have herr := error_of_accessFault hf
  rw [if_pos rfl, ← hlen] at herr
  refine completes_of_parts (exec_simtStore hs hh hform hrd hone hf) (changesOnly_write s _ _) (by decide) ⟨?_, fun i hi => ?_⟩
  · rw [← hlen]
    exact sameMemBut_write s _ _
  · have hword := State.le_of_bytes (k := 4 * i) (m := 4) (bytes_write herr) (by omega) (storedBytes_word x h rd.val l (by omega))
    refine hword.trans ?_
    exact Nat.mod_eq_of_lt (x.reg h.ident l (rd.val + i)).isLt

/-! ### Stores that wait for a fence (R98) -/

/-- What waits for a fence once a thread has stored `bs` at `a`. -/
theorem mem_holdStore (x : Slot) (thread a : Nat) (bs : List Byte) (u : Unfenced) : u ∈ (x.holdStore thread a bs).image.unfenced ↔
    (u ∈ x.image.unfenced ∧ ¬(u.thread = thread ∧ a ≤ u.addr ∧ u.addr < a + bs.length))
      ∨ ∃ i, bs[i]? = some u.byte ∧ u.thread = thread ∧ u.addr = a + i := by
  simp only [Slot.holdStore, List.mem_append, List.mem_filter, List.mem_iff_getElem? (a := u) (l := mapPlaces _ _ _), getElem?_mapPlaces,
    Option.map_eq_some_iff]
  refine or_congr (and_congr_right fun _ => ?_) (exists_congr fun i => ?_)
  · simp only [Bool.not_eq_true', ← Bool.not_eq_true, Bool.and_eq_true, beq_iff_eq, decide_eq_true_eq, and_assoc]
  · constructor
    · rintro ⟨b, hb, rfl⟩
      exact ⟨hb, rfl, by rw [Nat.zero_add]⟩
    · rintro ⟨hb, hthread, haddr⟩
      refine ⟨u.byte, hb, ?_⟩
      rw [Nat.zero_add, ← hthread, ← haddr]

/-- A thread reads what it has stored. -/
theorem threadBytes_holdStore (s : State) (x : Slot) (thread a : Nat) (bs : List Byte) {k m : Nat} (hk : k + m ≤ bs.length) :
    s.threadBytes (x.holdStore thread a bs) thread (a + k) m = (bs.drop k).take m := by
  refine List.ext_getElem? fun i => ?_
  rw [State.threadBytes, getElem?_mapPlaces, List.getElem?_take, List.getElem?_drop]
  by_cases hi : i < m
  · have hbyte : (s.bytes (a + k) m)[i]? = some ((s.bytes (a + k) m)[i]' (by rwa [State.bytes_length])) := List.getElem?_eq_getElem _
    have hstored : bs[k + i]? = some bs[k + i] := List.getElem?_eq_getElem _
    rw [hbyte, if_pos hi, hstored, Option.map_some, Nat.zero_add]
    obtain ⟨u, hu⟩ : ∃ u, (x.holdStore thread a bs).image.unfenced.find? (fun u => u.thread == thread && u.addr == a + k + i) = some u :=
      Option.isSome_iff_exists.1 (List.find?_isSome.2 ⟨{ thread := thread, addr := a + (k + i), byte := bs[k + i] },
        (mem_holdStore x thread a bs _).2 (.inr ⟨k + i, hstored, rfl, rfl⟩), by simp [Nat.add_assoc]⟩)
    obtain ⟨hthread, haddr⟩ : u.thread = thread ∧ u.addr = a + k + i := by simpa using List.find?_some hu
    obtain ⟨-, hold⟩ | ⟨j, hj, -, hplace⟩ := (mem_holdStore x thread a bs u).1 (List.mem_of_find?_eq_some hu)
    · exact absurd ⟨hthread, by omega, by omega⟩ hold
    · obtain rfl : j = k + i := by omega
      rw [hu]
      exact (hj.symm.trans hstored)
  · have hnone : (s.bytes (a + k) m)[i]? = none := List.getElem?_eq_none (by rw [State.bytes_length]; omega)
    rw [hnone, if_neg hi, Option.map_none]

theorem simtStore_cluster_completes (hs : s.isLive) (hh : s.atHamper n x h) {words : Fin 4} {rd ra : Fin 64}
    (hform : words.val ≠ 2) (hrd : rd.val + words.val < 64) (hone : h.lanes = [l])
    (hf : s.accessFault (s.spaceShare x .cluster) [(x.reg h.ident l ra.val).toNat] (4 * (words.val + 1)) true = none) :
    slotCompletes (.simtLoadStore n true .cluster words rd ra) s n.slot x [.sch] fun y t =>
      y.image = { x.image with unfenced := y.image.unfenced }
        ∧ (∀ i, i ≤ words.val → ofLe (t.threadBytes y (h.thread l) ((s.spaceShare x .cluster).1 + (x.reg h.ident l ra.val).toNat + 4 * i) 4) =
            (x.reg h.ident l (rd.val + i)).toNat)
        ∧ ∀ u : Unfenced, u.thread ≠ h.thread l → (u ∈ y.image.unfenced ↔ u ∈ x.image.unfenced) := by
  have hlen := storedBytes_length x h rd.val (words.val + 1) l
  refine slotCompletes_of_putSlot (exec_simtStore hs hh hform hrd hone hf) (changesOnly_refl _ s) (by decide)
    (slotAt_of_slotNamed hh.1.1) rfl rfl ⟨rfl, fun i hi => ?_, fun u hu => ?_⟩
  · rw [threadBytes_holdStore _ x _ _ _ (by omega), storedBytes_word x h rd.val l (by omega), ofLe_leBytes_word]
  · rw [mem_holdStore]
    constructor
    · rintro (⟨hmem, -⟩ | ⟨-, -, hthread, -⟩)
      · exact hmem
      · exact absurd hthread hu
    · exact fun hmem => .inl ⟨hmem, fun hmine => hu hmine.1⟩

/-! ### Atomics (R97, R118) -/

/-- Stores that no test picks stay. -/
theorem acceptStores_none {p : Unfenced → Bool} (h : ∀ u ∈ x.image.unfenced, p u = false) : s.acceptStores x p = s.putSlot x
    ∧ x.image.unfenced.filter (fun u => !p u) = x.image.unfenced := by
  have hnone : x.image.unfenced.filter p = [] := List.filter_eq_nil_iff.2 fun u hu => by simp [h u hu]
  have hall : x.image.unfenced.filter (fun u => !p u) = x.image.unfenced := List.filter_eq_self.2 fun u hu => by simp [h u hu]
  rw [State.acceptStores, hnone, hall]
  exact ⟨rfl, rfl⟩

/-- A store that a thread of the hamper has made to the word of an atomic operation of its own. -/
def ownStore (s : State) (x : Slot) (h : Hamper) (space : SimtSpace) (ra : Nat) (u : Unfenced) : Bool :=
  h.lanes.any fun l => u.thread == h.thread l && u.addr / 4 == ((s.spaceShare x space).1 + (x.reg h.ident l ra).toNat) / 4

/-- An atomic operation that need not wait and meets no fault: the threads' own stores go before it (R98). -/
theorem exec_simtAtomic (hs : s.isLive) (hh : s.atHamper n x h) (op : AtomicOp) {space : SimtSpace} {rd ra rb rc : Fin 64}
    (hwait : s.atomicWaits x h = false)
    (hf : s.accessFault (s.spaceShare x space) (h.lanes.map fun l => (x.reg h.ident l ra.val).toNat) 4 true = none) :
    exec (.simtAtomic n op space rd ra rb rc) s = .next (State.kept (
      let t := if space = .cluster then s.acceptStores x (ownStore s x h space ra.val) else s
      let y := if space = .cluster then { x with image := { x.image with
        unfenced := x.image.unfenced.filter fun u => !ownStore s x h space ra.val u } } else x
      let r := t.atomics y h op (s.spaceShare x space).1 rd ra rb rc
      r.1.putSlot r.2) s) := by
  change execSimtAtomic n op space rd ra rb rc s = _
  rw [execSimtAtomic, State.live_next s _ hs, onHamper_eq hh.1]
  simp only [hwait, Bool.false_eq_true, if_false, regsSound_of_none hh.2, Bool.not_true, hf]
  rfl

/-- The atomic operation of a hamper with one active thread. -/
theorem atomics_one (hone : h.lanes = [l]) (op : AtomicOp) (base : Nat) (rd ra rb rc : Fin 64) :
    s.atomics x h op base rd ra rb rc = s.atomicLane x op (base + (x.reg h.ident l ra.val).toNat) (x.reg h.ident l rb.val)
      (x.reg h.ident l rc.val) h.ident l rd.val := by
  rw [State.atomics, hone, List.foldl_cons, List.foldl_nil]

/-- What an atomic operation of one thread, none of whose stores waits, leaves. -/
theorem exec_simtAtomic_one (hs : s.isLive) (hh : s.atHamper n x h) (op : AtomicOp) {space : SimtSpace} {rd ra rb rc : Fin 64}
    (hone : h.lanes = [l]) (hwait : s.atomicWaits x h = false)
    (hf : s.accessFault (s.spaceShare x space) [(x.reg h.ident l ra.val).toNat] 4 true = none)
    (hown : space = .core ∨ ∀ u ∈ x.image.unfenced, u.thread ≠ h.thread l) :
    ∃ t, (t = s ∨ t = s.putSlot x) ∧ exec (.simtAtomic n op space rd ra rb rc) s = .next (State.kept
      (let r := t.atomicLane x op ((s.spaceShare x space).1 + (x.reg h.ident l ra.val).toNat) (x.reg h.ident l rb.val)
        (x.reg h.ident l rc.val) h.ident l rd.val
      r.1.putSlot r.2) s) := by
  rw [exec_simtAtomic hs hh op hwait (by rw [hone]; exact hf)]
  dsimp only
  by_cases hspace : space = .cluster
  · have hnone := acceptStores_none (s := s) (x := x) (p := ownStore s x h space ra.val) fun u hu => by
      obtain hcore | hno := hown
      · rw [hspace] at hcore; cases hcore
      · simp [ownStore, hone, hno u hu]
    rw [if_pos hspace, if_pos hspace, hnone.1, hnone.2]
    exact ⟨s.putSlot x, .inr rfl, by rw [atomics_one hone]⟩
  · rw [if_neg hspace, if_neg hspace]
    exact ⟨s, .inl rfl, by rw [atomics_one hone]⟩

theorem simtAtomic_completes (hs : s.isLive) (hh : s.atHamper n x h) (op : AtomicOp) {space : SimtSpace} {rd ra rb rc : Fin 64}
    (hone : h.lanes = [l]) (hwait : s.atomicWaits x h = false)
    (hf : s.accessFault (s.spaceShare x space) [(x.reg h.ident l ra.val).toNat] 4 true = none)
    (hown : space = .core ∨ ∀ u ∈ x.image.unfenced, u.thread ≠ h.thread l) :
    let a := (s.spaceShare x space).1 + (x.reg h.ident l ra.val).toNat
    slotCompletes (.simtAtomic n op space rd ra rb rc) s n.slot x [.mem, .err, .sch] fun y t => sameMemBut a 4 s t
      ∧ regWritten h rd.val (fun _ => BitVec.ofNat 32 (s.le a 4)) x y ∧ regsOnly x y
      ∧ t.le a 4 = (atomicOp op (BitVec.ofNat 32 (s.le a 4)) (x.reg h.ident l rb.val) (x.reg h.ident l rc.val)).toNat := by
  intro a
  let old := BitVec.ofNat 32 (s.le a 4)
  let new := atomicOp op old (x.reg h.ident l rb.val) (x.reg h.ident l rc.val)
  let y := x.setReg h.ident l rd.val old
  have herr : s.writeError a 4 = none := error_of_accessFault hf
  have hat := slotAt_of_slotNamed hh.1.1
  have hplace := slotAt_place hat
  have hl : l < 32 := lane_lt (h := h) (by rw [hone]; exact List.mem_singleton_self l)
  obtain ⟨t, ht, hexec⟩ := exec_simtAtomic_one hs hh op (rd := rd) (rb := rb) (rc := rc) hone hwait hf hown
  have hat' : t.slotAt (coreId n.slot.at_) n.slot.slot.val = some x := by
    obtain rfl | rfl := ht
    · exact hat
    · exact slotAt_putSlot (by rw [hat]; rfl) hplace
  have hparts : changesOnly [.sch] s t := by
    obtain rfl | rfl := ht
    · exact changesOnly_refl _ _
    · exact changesOnly_putSlot s x
  have hmem : t.mem = s.mem := hparts .mem (by decide)
  have hsame : ∀ b, t.byte b = s.byte b := fun b => by rw [State.byte, hmem, State.byte]
  have hle : t.le a 4 = s.le a 4 := congrArg ofLe (State.bytes_congr fun b _ _ => hsame b)
  have hexec : exec (.simtAtomic n op space rd ra rb rc) s = .next (((t.writeLe a 4 new.toNat).putSlot y).kept s) := by
    rw [hexec, State.atomicLane]
    dsimp only
    rw [hle]
  have hterr : t.writeError a (leBytes 4 new.toNat).length = none := by
    have hlen : (leBytes 4 new.toNat).length = 4 := by simp
    have hsame : t.err = s.err := hparts .err (by decide)
    rw [hlen]
    exact writeError_congr (hparts .dev (by decide)) (fun w hw => by rw [← hsame]; exact hw) herr
  have hwritten : changesOnly [.mem, .err] t (t.writeLe a 4 new.toNat) := changesOnly_write t a _
  have hsch : (t.writeLe a 4 new.toNat).sch = t.sch := hwritten .sch (by decide)
  have halone := RegsAlone.setReg hh.2 h.ident l rd.val old
  refine completes_of_parts hexec (changesOnly_trans (changesOnly_mono hparts (by decide)) (changesOnly_trans
    (changesOnly_mono hwritten (by decide)) (changesOnly_mono (changesOnly_putSlot _ _) (by decide)))) (by decide)
    ⟨y, slotAt_putSlot (by rw [State.slotAt, hsch, ← State.slotAt, hat']; rfl) hplace, halone.image,
      fun b hb => ?_, ⟨fun k hk => ?_, fun g k r hk hr hne => ?_⟩, halone.regsOnly, ?_⟩
  · have hbyte := State.byte_write_apart t a b (leBytes 4 new.toNat) (by simp; omega)
    exact hbyte.trans (hsame b)
  · obtain rfl : k = l := by rw [hone] at hk; exact List.mem_singleton.1 hk
    rw [reg_setReg x old hl hl rd.isLt rd.isLt, if_pos ⟨rfl, rfl, rfl⟩]
  · rw [reg_setReg x old hk hl hr rd.isLt, if_neg fun hsame => hne ⟨hsame.1, by rw [hone]; exact List.mem_singleton.2 hsame.2.1, hsame.2.2⟩]
  · have hbytes : (t.writeLe a 4 new.toNat).bytes a 4 = leBytes 4 new.toNat := by
      have hwrite := bytes_write hterr
      rwa [show (leBytes 4 new.toNat).length = 4 by simp] at hwrite
    refine (congrArg ofLe hbytes).trans ?_
    rw [ofLe_leBytes_word]

/-- An atomic operation that waits for the hampers before its own does nothing (R118). -/
theorem simtAtomic_waits (hs : s.isLive) (hh : s.onHamperOf n x h) (hwait : s.atomicWaits x h = true) (op : AtomicOp) (space : SimtSpace)
    (rd ra rb rc : Fin 64) : exec (.simtAtomic n op space rd ra rb rc) s = .next s := by
  change execSimtAtomic n op space rd ra rb rc s = _
  rw [execSimtAtomic, State.live_next s _ hs, onHamper_eq hh]
  simp only [hwait, if_true]
  rfl

/-! ### Fences (R98) -/

/-- Stores that become visible: each goes to its place, unless the word is in error. -/
theorem applyStores_spec {ws : List Unfenced} (hd : (ws.map (·.addr)).Nodup) (s : State) :
    changesOnly [.mem, .err] s (s.applyStores ws)
      ∧ (∀ u ∈ ws, s.writeError u.addr 1 = none → (s.applyStores ws).byte u.addr = u.byte)
      ∧ ∀ b, (∀ u ∈ ws, u.addr ≠ b) → (s.applyStores ws).byte b = s.byte b := by
  induction ws generalizing s with
  | nil => exact ⟨changesOnly_refl _ s, fun _ hu => absurd hu List.not_mem_nil, fun _ _ => rfl⟩
  | cons w ws ih =>
    obtain ⟨hw, hd⟩ := List.nodup_cons.1 hd
    obtain ⟨hparts, hmade, hrest⟩ := ih hd (s.write w.addr [w.byte])
    have hwrite := changesOnly_write s w.addr [w.byte]
    refine ⟨changesOnly_trans hwrite hparts, fun u hu herr => ?_, fun b hb => ?_⟩
    · obtain rfl | hu := List.mem_cons.1 hu
      · refine (hrest u.addr fun v hv heq => hw (List.mem_map.2 ⟨v, hv, heq⟩)).trans ?_
        rw [State.byte_write s u.addr u.addr [u.byte] herr, if_pos (by simp), Nat.sub_self]
        rfl
      · exact hmade u hu (writeError_congr (hwrite .dev (by decide)) (bad_write s _ _) herr)
    · refine (hrest b fun u hu => hb u (List.mem_cons_of_mem w hu)).trans (State.byte_write_apart s w.addr b [w.byte] ?_)
      have hne := hb w List.mem_cons_self
      simp only [List.length_singleton]
      omega

theorem simtFence_completes (hs : s.isLive) (hh : s.onHamperOf n x h)
    (hd : ((x.image.unfenced.filter fun u => h.lanes.any fun l => u.thread == h.thread l).map (·.addr)).Nodup) :
    slotCompletes (.simtFence n) s n.slot x [.mem, .err, .sch] fun y t =>
      y.image = { x.image with unfenced := x.image.unfenced.filter fun u => !h.lanes.any fun l => u.thread == h.thread l }
        ∧ (∀ u ∈ x.image.unfenced, (h.lanes.any fun l => u.thread == h.thread l) = true → s.writeError u.addr 1 = none →
            t.byte u.addr = u.byte)
        ∧ ∀ b, (∀ u ∈ x.image.unfenced, (h.lanes.any fun l => u.thread == h.thread l) = true → u.addr ≠ b) → t.byte b = s.byte b := by
  have hexec : exec (.simtFence n) s = .next ((s.acceptStores x fun u => h.lanes.any fun l => u.thread == h.thread l).kept s) := by
    change execSimtFence n s = _
    rw [execSimtFence, State.live_next s _ hs, onHamper_eq hh]
    rfl
  obtain ⟨hparts, hmade, hrest⟩ := applyStores_spec hd s
  have hsch : (s.applyStores (x.image.unfenced.filter fun u => h.lanes.any fun l => u.thread == h.thread l)).sch = s.sch :=
    hparts .sch (by decide)
  exact slotCompletes_of_putSlot hexec (changesOnly_mono hparts (by decide)) (by decide) (slotAt_of_slotNamed hh.1)
    (congrArg SchState.slots hsch) rfl ⟨rfl, fun u hu hmine herr => hmade u (List.mem_filter.2 ⟨hu, hmine⟩) herr,
      fun b hb => hrest b fun u hu => hb u (List.mem_filter.1 hu).1 (List.mem_filter.1 hu).2⟩

end

end Sys2Proof.Machine
end

section
/-! PROOFS. Control, barriers and samples of the SIMT unit (R95, R98, R112, R187). -/

namespace Sys2Proof.Machine

/-! ### Hampers whose group goes on -/

/-- A word other than all ones has a bit that is 0. -/
theorem exists_natBit_false {w : Word} (h : w ≠ 0xFFFFFFFF) : ∃ l < 32, natBit w.toNat l = false := by
  by_contra hall
  refine h (BitVec.eq_of_getLsbD_eq fun i hi => ?_)
  have hones : ∀ i < 32, (0xFFFFFFFF : Word).getLsbD i = true := by decide
  have hbit : natBit w.toNat i = true := Bool.not_eq_false _ ▸ fun hbit => hall ⟨i, hi, hbit⟩
  rw [hones i hi]
  simpa [natBit, BitVec.getLsbD, Nat.testBit_eq_decide_div_mod_eq] using hbit

/-- A hamper with a thread that has not exited keeps its group. -/
theorem groupThreads_ne_nil {x : Slot} {h : Hamper} (hmem : h ∈ x.image.hampers) (hlive : h.exited ≠ 0xFFFFFFFF) :
    x.groupThreads h.group ≠ [] := by
  obtain ⟨l, hl, hbit⟩ := exists_natBit_false hlive
  have hthread : h.rank * 32 + l ∈ x.groupThreads h.group := by
    rw [Slot.groupThreads, List.mem_flatten]
    refine ⟨_, List.mem_map.2 ⟨h, List.mem_filter.2 ⟨hmem, by simp⟩, rfl⟩,
      List.mem_map.2 ⟨l, List.mem_filter.2 ⟨?_, by simp [hbit]⟩, rfl⟩⟩
    simpa [mem_rangeFrom] using hl
  exact List.ne_nil_of_mem hthread

/-- The threads that a control instruction looks at: those whose register is not 0, or all that are active. -/
def branchMask (x : Slot) (h : Hamper) (op : BranchOp) : Word :=
  match branchCond op with
  | some c => maskOf (h.lanes.filter fun l => x.reg h.ident l c != 0)
  | none => h.active

section
variable {s : State} {n : HamperName} {x : Slot} {h : Hamper}

/-- A group with a thread that has not exited goes on. -/
theorem endGroup_of_ne_nil {g : Nat} (hgoes : x.groupThreads g ≠ []) : s.endGroup x g = s.putSlot x := by
  rw [State.endGroup, if_neg (by simpa using hgoes)]

/-- A control instruction that leaves its hamper as `g`, with a thread that has not exited. -/
theorem simtBranch_completes (hs : s.isLive) (hh : s.atHamper n x h) {op : BranchOp} {g : Hamper}
    (hop : branchOp op (branchMask x h op) h = .ok g) (hident : g.ident = h.ident) (hgroup : g.group = h.group)
    (hlive : g.exited ≠ 0xFFFFFFFF) :
    slotCompletes (.simtBranch n op) s n.slot x [.sch] fun y _ => y.image.regs = x.image.regs
      ∧ y.image.hampers.find? (fun g => g.ident == n.hamper.val) = some g := by
  have hfound : (x.setHamper g).image.hampers.find? (fun g => g.ident == n.hamper.val) = some g := by
    have hname : h.ident = n.hamper.val := by simpa using List.find?_some hh.1.2.1
    exact find?_setHamper hh.1.2.1 (hident.trans hname)
  have hgoes : (x.setHamper g).settleBarriers.groupThreads h.group ≠ [] := by
    rw [← hgroup]
    exact groupThreads_ne_nil (x := (x.setHamper g).settleBarriers) (List.mem_of_find?_eq_some hfound) hlive
  have hexec : exec (.simtBranch n op) s = .next ((s.putSlot (x.setHamper g).settleBarriers).kept s) := by
    rw [exec_reading (c := .simtBranch n op) hs hh (show execSimtBranch n op s = _ from rfl)]
    change Host.Outcome.next (State.kept (s.orEnd x (Except.bind (branchOp op (branchMask x h op) h) fun g =>
      .ok (s.endGroup (x.setHamper g).settleBarriers h.group))) s) = _
    rw [hop, Except.bind, endGroup_of_ne_nil hgoes]
    rfl
  exact slotCompletes_of_putSlot hexec (changesOnly_refl _ s) (by decide) (slotAt_of_slotNamed hh.1.1) rfl rfl ⟨rfl, hfound⟩

/-- A branch on which the active threads disagree runs its taken side and stacks the other (R95). -/
theorem branchOp_branch {c : Fin 64} {on : Word} (hon : on ≠ 0) (hoff : h.active &&& ~~~on ≠ 0) (hstack : h.stack.length < 32) :
    branchOp (.branch c) on h =
      .ok { h with active := on, stack := { other := h.active &&& ~~~on, mask := h.active } :: h.stack } := by
  simp only [branchOp]
  rw [if_neg (not_or.2 ⟨hon, hoff⟩), if_neg (by omega)]

/-- The exit of a hamper that has stacked nothing (R95). -/
theorem branchOp_exit (hstack : h.stack = []) (on : Word) :
    branchOp .exit on h = .ok { h with exited := h.exited ||| h.active, active := 0 } := by
  simp only [branchOp]
  rw [Hamper.resume, if_pos (by simp [hstack])]

/-! ### Barriers (R98) -/

/-- Where nobody waits, an arrival is a new barrier at the end. -/
theorem upsert_of_none {α : Type} {p : α → Bool} {xs : List α} (new : α) (h : xs.find? p = none) : upsert p new xs = xs ++ [new] := by
  induction xs with
  | nil => rfl
  | cons y ys ih =>
    obtain ⟨hy, hys⟩ : p y = false ∧ ys.find? p = none := by
      cases hp : p y
      · exact ⟨rfl, by simpa [hp] using h⟩
      · simp [hp] at h
    rw [upsert, hy, if_neg Bool.false_ne_true, ih hys, List.cons_append]

/-- A first arrival at a barrier of the group: the slot once the threads of the hamper wait there. -/
def Slot.arrived (x : Slot) (h : Hamper) (unit : Nat) : Slot :=
  { x with image := { x.image with barriers := x.image.barriers ++
      [{ group := h.group, unit := unit, arrived := h.lanes.map fun l => h.rank * 32 + l }] } }

theorem exec_simtBarrier (hs : s.isLive) (hh : s.atHamper n x h) {k : Fin 16} {u : Task} (hu : s.slotTask x = some u)
    (hk : k.val < u.launch.barriers) (hfirst : ∀ b ∈ x.image.barriers, ¬(b.group = h.group ∧ b.unit = k.val)) :
    exec (.simtBarrier n k) s = .next ((s.putSlot (x.arrived h k.val).settleBarriers).kept s) := by
  have hnone : x.image.barriers.find? (fun b => b.group == h.group && b.unit == k.val) = none :=
    List.find?_eq_none.2 fun b hb hmine => hfirst b hb (by simpa using hmine)
  change execSimtBarrier n k s = _
  rw [execSimtBarrier, State.live_next s _ hs, onHamper_eq hh.1]
  simp only [hu, if_neg (Nat.not_le.2 hk), hnone, upsert_of_none _ hnone, List.nil_append]
  rfl

theorem simtBarrier_completes (hs : s.isLive) (hh : s.atHamper n x h) {k : Fin 16} {u : Task} (hu : s.slotTask x = some u)
    (hk : k.val < u.launch.barriers) (hfirst : ∀ b ∈ x.image.barriers, ¬(b.group = h.group ∧ b.unit = k.val)) :
    slotCompletes (.simtBarrier n k) s n.slot x [.sch] fun y _ => y.image.regs = x.image.regs ∧ y.image.hampers = x.image.hampers
      ∧ ((∀ j ∈ x.groupThreads h.group, j ∈ h.lanes.map fun l => h.rank * 32 + l) →
          ∀ b ∈ y.image.barriers, ¬(b.group = h.group ∧ b.unit = k.val))
      ∧ ((∃ j ∈ x.groupThreads h.group, j ∉ h.lanes.map fun l => h.rank * 32 + l) →
          ({ group := h.group, unit := k.val, arrived := h.lanes.map fun l => h.rank * 32 + l } : Barrier) ∈ y.image.barriers) := by
  let new : Barrier := { group := h.group, unit := k.val, arrived := h.lanes.map fun l => h.rank * 32 + l }
  have hstays (b : Barrier) : b ∈ (x.arrived h k.val).settleBarriers.image.barriers ↔
      (b ∈ x.image.barriers ∨ b = new) ∧ ∃ j ∈ x.groupThreads b.group, j ∉ b.arrived := by
    refine List.mem_filter.trans (and_congr (List.mem_append.trans (or_congr_right List.mem_singleton)) ?_)
    rw [show (x.arrived h k.val).groupThreads b.group = x.groupThreads b.group from rfl]
    simp
  refine slotCompletes_of_putSlot (exec_simtBarrier hs hh hu hk hfirst) (changesOnly_refl _ s) (by decide)
    (slotAt_of_slotNamed hh.1.1) rfl rfl ⟨rfl, rfl, fun hall b hb hmine => ?_, fun hmissing => (hstays new).2 ⟨.inr rfl, hmissing⟩⟩
  obtain ⟨hold | rfl, j, hj, hnot⟩ := (hstays b).1 hb
  · exact hfirst b hold hmine
  · exact hnot (hall j hj)

end

end Sys2Proof.Machine
end

section
/-! PROOFS. Samples of the SIMT unit (R187, R112), and the obligation on memory and control. -/

namespace Sys2Proof.Machine

/-! ### What the traffic of a sample moves -/

/-- What a compute die reads passes regulators of the device. -/
theorem isRegulator_of_mem_readPath {s : State} {d a n : Nat} (hd : d < 2) {g : Nat × Nat} (h : g ∈ s.readPath d a n) : IsRegulator g := by
  have hremote {e : Nat} (he : e < 2) (h : g ∈ if e = d then [] else [(1, 4 * e + 3)]) : IsRegulator g := by
    split at h
    · exact absurd h List.not_mem_nil
    · obtain rfl := List.mem_singleton.1 h
      exact .link (by omega)
  rw [readPath_eq] at h
  generalize hpl : placeOf s.dev.assembly a = pl at h
  cases pl with
  | dram => exact isRegulator_of_mem_stacks hd (.inl h)
  | hub =>
    obtain rfl := List.mem_singleton.1 h
    exact .hub hd
  | cluster e k => exact hremote (placeOf_die_lt.1 hpl).1 h
  | core e k c => exact hremote (placeOf_die_lt.2 hpl).1 h
  | unpopulated => exact absurd h List.not_mem_nil

theorem dieRead_within (s : State) {p d : Nat} (hp : p < 16) (hd : d < 2) (a n : Nat) :
    ChangesWithin trafficParts trafficRegs s (s.dieRead p d a n) :=
  traffic_within s hp (path := fun s => s.readPath d) (fun _ _ _ _ h => isRegulator_of_mem_readPath hd h) (n / 4096 + 2) a n

namespace BucketsMoved

theorem passNow (s : State) (p n : Nat) (path : List (Nat × Nat)) : BucketsMoved s (s.passNow p n path) := by
  unfold State.passNow
  split
  · exact pass s p n false path
  · split
    · exact pass s p n true path
    · exact (pass s p n false path).trans (foldl path (fun s _ => putBucket s _) _)

theorem traffic (p : Nat) (path : State → Nat → Nat → List (Nat × Nat)) (fuel : Nat) (s : State) (a n : Nat) :
    BucketsMoved s (s.traffic p path fuel a n) := by
  induction fuel generalizing s a n with
  | zero => exact refl s
  | succ fuel ih =>
    rw [State.traffic]
    split
    · exact refl s
    · exact (passNow s p _ _).trans (ih _ _ _)

theorem dieRead (s : State) (p d a n : Nat) : BucketsMoved s (s.dieRead p d a n) := traffic p _ _ s a n

end BucketsMoved

/-- The counter of samples lies on no page of traffic. -/
theorem samples_not_traffic {d k : Nat} (hd : d < 2) (hk : k < 8) : ¬trafficRegs (regAddr R.SKU_CNT_SAMPLES [d, k]) :=
  not_trafficRegs (by simp only [regAddr, R.SKU_CNT_SAMPLES, regOffset]; omega)

/-- The counter of samples is none of the counters of a context. -/
theorem samples_ne_account (d k ctx i : Nat) (hi : i < 8) : regAddr R.SKU_CNT_SAMPLES [d, k] ≠ regAddr R.SCH_CTX_ACCT [ctx, i] := by
  simp only [regAddr, R.SKU_CNT_SAMPLES, R.SCH_CTX_ACCT, regOffset]
  omega

/-- The traffic of a sample leaves the counter of samples. -/
theorem samples_account_dieRead (s : State) {p d k : Nat} (hp : p < 16) (hd : d < 2) (hk : k < 8) (ctx a n : Nat) :
    ((s.dieRead p d a n).account ctx 1 n).rd R.SKU_CNT_SAMPLES [d, k] = s.rd R.SKU_CNT_SAMPLES [d, k] := by
  rw [State.account, State.rd_poke_ne _ _ _ _ _ _ (samples_ne_account d k ctx (2 * 1 + 1) (by decide)),
    State.rd_poke_ne _ _ _ _ _ _ (samples_ne_account d k ctx (2 * 1) (by decide)),
    (dieRead_within s hp hd a n).rd (samples_not_traffic hd hk)]

/-! ### Samples -/

section
variable {s : State} {n : HamperName} {x : Slot} {h : Hamper}

/-- An instruction that writes its slot back, after which traffic passes and samples are counted, completes. -/
theorem slotCompletes_counting {c : Instr} {t : State} {y : Slot} {post : Slot → State → Prop}
    (he : exec c s = .next (t.kept s)) (hx : s.slotAt (coreId n.slot.at_) n.slot.slot.val = some x)
    {free : Nat} (hmoved : BucketsMoved ((s.withFree free).putSlot y) t) (hy : RegsAlone x y) (hpost : post y t) :
    slotCompletes c s n.slot x [.free, .regs, .sct, .sch] post := by
  have hplace : y.core = coreId n.slot.at_ ∧ y.idx = n.slot.slot.val := hy.image ▸ slotAt_place (s := s) (x := x) hx
  have hparts : changesOnly trafficParts s t :=
    changesOnly_trans (changesOnly_mono (changesOnly_withFree s free) (by decide))
      (changesOnly_trans (changesOnly_mono (changesOnly_putSlot _ y) (by decide)) hmoved.parts)
  refine completes_of_parts he hparts (by decide) ⟨y, ?_, hy.image, hpost⟩
  rw [hmoved.slotAt]
  exact slotAt_putSlot (Option.isSome_iff_exists.2 ⟨x, hx⟩) hplace

theorem coreId_lt (c : CoreName) : coreId c / 128 < 2 := by
  rw [coreId]
  omega

/-- The samples of a hamper are counted. -/
def State.samplesCounted (s : State) (x : Slot) (h : Hamper) : State :=
  s.count R.SKU_CNT_SAMPLES [x.core / 128, x.core / 16 % 8] h.lanes.length

/-- The registers that a sample writes are not those of other threads, nor others of its own. -/
theorem reg_lanewises_other {f : Nat → Nat → Word} {rd k : Nat} (hk : rd + k ≤ 64) : ∀ g l r, l < 32 → r < 64 →
    ¬(g = h.ident ∧ l ∈ h.lanes ∧ rd ≤ r ∧ r < rd + k) → (x.lanewises h rd k f).reg g l r = x.reg g l r := by
  intro g l r hl hr hne
  rw [reg_lanewises x h f hl hr hk, if_neg hne]

/-- What a sample that is no fixed function returns in a channel to a lane: a free value. -/
def freeSample (s : State) (c l : Nat) : Word := Config.freeBits 32 (s.free + 1 + 4 * l + c)

theorem freeSamples_eq (s : State) (x : Slot) (h : Hamper) (rd : Nat) :
    s.freeSamples x h rd = (s.withFree (s.free + 129)).putSlot (x.lanewises h rd 4 (freeSample s)) := rfl

/-- A sample through a descriptor that is no fixed function, or through a slot with no texture. -/
theorem exec_simtSample_free (hs : s.isLive) (hh : s.atHamper n x h) {texture : TexRef} {rd ra : Fin 64} (hrd : rd.val ≤ 60)
    (hra : ra.val ≤ 62) (htex : ∀ d, s.textureOf x texture = some d → textureGood d = true ∧ sampleFixed d = false
      ∧ s.accessOk (x.qid / 256) (leAt d 0 8) (textureBytes d) false = true ∧ s.readError (leAt d 0 8) (textureBytes d) = none) :
    exec (.simtSample n texture rd ra) s = .next (((s.freeSamples x h rd.val).samplesCounted x h).kept s) := by
  rw [exec_reading (c := .simtSample n texture rd ra) hs hh (show execSimtSample n texture rd ra s = _ from rfl),
    if_neg (by omega)]
  cases hd : s.textureOf x texture with
  | none => rfl
  | some d =>
    obtain ⟨hgood, hfree, hok, herr⟩ := htex d hd
    simp only [hgood, hfree, hok, herr, Bool.not_true, Bool.false_eq_true, if_false]
    rfl

theorem simtSample_free_completes (hs : s.isLive) (hh : s.atHamper n x h) {texture : TexRef} {rd ra : Fin 64} (hrd : rd.val ≤ 60)
    (hra : ra.val ≤ 62) (htex : ∀ d, s.textureOf x texture = some d → textureGood d = true ∧ sampleFixed d = false
      ∧ s.accessOk (x.qid / 256) (leAt d 0 8) (textureBytes d) false = true ∧ s.readError (leAt d 0 8) (textureBytes d) = none) :
    slotCompletes (.simtSample n texture rd ra) s n.slot x [.free, .regs, .sct, .sch] fun y t => regsOnly x y
      ∧ t.rd R.SKU_CNT_SAMPLES [x.core / 128, x.core / 16 % 8] =
          s.rd R.SKU_CNT_SAMPLES [x.core / 128, x.core / 16 % 8] + BitVec.ofNat 32 h.lanes.length
      ∧ sameRegsBut [regAddr R.SKU_CNT_SAMPLES [x.core / 128, x.core / 16 % 8]] s t
      ∧ ∀ g l r, l < 32 → r < 64 → ¬(g = h.ident ∧ l ∈ h.lanes ∧ rd.val ≤ r ∧ r < rd.val + 4) → y.reg g l r = x.reg g l r := by
  have halone := RegsAlone.lanewises hh.2 h rd.val 4 (freeSample s)
  have hmoved : BucketsMoved ((s.withFree (s.free + 129)).putSlot (x.lanewises h rd.val 4 (freeSample s)))
      ((s.freeSamples x h rd.val).samplesCounted x h) := by
    rw [freeSamples_eq]
    exact .poke _ _ _ _
  exact slotCompletes_counting (exec_simtSample_free hs hh hrd hra htex) (slotAt_of_slotNamed hh.1.1) hmoved halone
    ⟨halone.regsOnly, State.rd_poke_self _ _ _ _, sameRegsBut_poke (s.freeSamples x h rd.val) _ _ _, reg_lanewises_other (by omega)⟩

/-- What a fixed sample returns in a channel to a lane. -/
def sampleValue (h : Hamper) (values : List (List Word)) (c l : Nat) : Word :=
  (values.getD (placeIn (fun k => k == l) h.lanes) []).getD c 0

/-- The bytes that a fixed sample of a hamper reads. -/
def sampleTraffic (d : List Byte) (h : Hamper) : Nat :=
  (if leAt d 18 1 % 4 = 0 then 1 else 4) * texelSize (leAt d 16 1) * h.lanes.length

/-- The state once a hamper has sampled a texture that is a fixed function. -/
def State.sampled (s : State) (x y : Slot) (d : List Byte) (bytes : Nat) : State :=
  (((s.withFree (s.free + 129)).putSlot y).dieRead (((s.withFree (s.free + 129)).putSlot y).ctxPart (x.qid / 256)) (x.core / 128)
    (leAt d 0 8) bytes).account (x.qid / 256) 1 bytes

theorem exec_simtSample_fixed (hs : s.isLive) (hh : s.atHamper n x h) {texture : TexRef} {d : List Byte} {values : List (List Word)}
    {rd ra : Fin 64} (hrd : rd.val ≤ 60) (hra : ra.val ≤ 62) (htex : s.textureOf x texture = some d) (hgood : textureGood d = true)
    (hfixed : sampleFixed d = true) (hvalues : (s.laneSamples x h d ra.val h.lanes).toOption = some values) :
    exec (.simtSample n texture rd ra) s = .next ((State.samplesCounted
      (s.sampled x (x.lanewises h rd.val 4 (sampleValue h values)) d (sampleTraffic d h)) x h).kept s) := by
  rw [exec_reading (c := .simtSample n texture rd ra) hs hh (show execSimtSample n texture rd ra s = _ from rfl),
    if_neg (by omega)]
  simp only [htex, hgood, hfixed, eq_ok_of_toOption hvalues, Bool.not_true, Bool.false_eq_true, if_false, if_true]
  rfl

/-- The place of a lane among those of its hamper. -/
theorem placeIn_getElem {xs : List Nat} (hd : xs.Nodup) {i : Nat} (hi : i < xs.length) : placeIn (fun k => k == xs[i]) xs = i := by
  induction xs generalizing i with
  | nil => exact absurd hi (Nat.not_lt_zero i)
  | cons z zs ih =>
    obtain ⟨hz, hd⟩ := List.nodup_cons.1 hd
    cases i with
    | zero => simp [placeIn]
    | succ i =>
      have hi : i < zs.length := by simpa using hi
      have hne : z ≠ zs[i] := fun heq => hz (heq ▸ List.getElem_mem hi)
      rw [List.getElem_cons_succ, placeIn, if_neg (by simpa using hne), ih hd hi]

theorem lanes_nodup (h : Hamper) : h.lanes.Nodup := by
  rw [lanes_eq]
  exact List.nodup_range.filter _

theorem simtSample_fixed_completes (hs : s.isLive) (hh : s.atHamper n x h) {texture : TexRef} {d : List Byte}
    {values : List (List Word)} {rd ra : Fin 64} (hrd : rd.val ≤ 60) (hra : ra.val ≤ 62) (htex : s.textureOf x texture = some d)
    (hgood : textureGood d = true) (hfixed : sampleFixed d = true)
    (hvalues : (s.laneSamples x h d ra.val h.lanes).toOption = some values) :
    slotCompletes (.simtSample n texture rd ra) s n.slot x [.free, .regs, .sct, .sch] fun y t => regsOnly x y
      ∧ t.rd R.SKU_CNT_SAMPLES [x.core / 128, x.core / 16 % 8] =
          s.rd R.SKU_CNT_SAMPLES [x.core / 128, x.core / 16 % 8] + BitVec.ofNat 32 h.lanes.length
      ∧ (∀ i c, i < h.lanes.length → c < 4 → y.reg h.ident (h.lanes.getD i 0) (rd.val + c) = (values.getD i []).getD c 0)
      ∧ ∀ g l r, l < 32 → r < 64 → ¬(g = h.ident ∧ l ∈ h.lanes ∧ rd.val ≤ r ∧ r < rd.val + 4) → y.reg g l r = x.reg g l r := by
  let y := x.lanewises h rd.val 4 (sampleValue h values)
  let u := (s.withFree (s.free + 129)).putSlot y
  have halone := RegsAlone.lanewises hh.2 h rd.val 4 (sampleValue h values)
  have hat := slotAt_of_slotNamed hh.1.1
  have hdie : x.core / 128 < 2 := (slotAt_place hat).1 ▸ coreId_lt n.slot.at_
  have hmoved : BucketsMoved u (s.sampled x y d (sampleTraffic d h)) := (BucketsMoved.dieRead u _ _ _ _).trans (.account _ _ _ _)
  refine slotCompletes_counting (exec_simtSample_fixed hs hh hrd hra htex hgood hfixed hvalues) hat
    (hmoved.trans (.poke _ _ _ _)) halone ⟨halone.regsOnly, ?counted, fun i c hi hc => ?value, reg_lanewises_other (by omega)⟩
  case counted =>
    refine (State.rd_poke_self _ _ _ _).trans (congrArg (· + BitVec.ofNat 32 h.lanes.length) ?_)
    exact samples_account_dieRead u (ctxPart_lt u _) hdie (Nat.mod_lt _ (by decide)) _ _ _
  case value =>
    have hlane : h.lanes.getD i 0 = h.lanes[i] := by simp [hi]
    have hmem : h.lanes[i] ∈ h.lanes := List.getElem_mem hi
    rw [hlane, reg_lanewises x h _ (lane_lt hmem) (by omega) (by omega), if_pos ⟨rfl, hmem, by omega, by omega⟩,
      Nat.add_sub_cancel_left, sampleValue, placeIn_getElem (lanes_nodup h) hi]

end

end Sys2Proof.Machine

open Sys2Proof Sys2Proof.Machine

/-- Settles O11: each clause is the rule of its instruction. -/
theorem simtMemoryAndControl : Obligations.SimtMemoryAndControl := by
  unfold Obligations.SimtMemoryAndControl
  refine ⟨fun s n space words rd ra x h hs hh hform hrd hf => simtLoad_completes hs hh hform hrd hf,
    fun s x thread a k hnone => threadBytes_of_none s x thread a k fun _ _ u hu hmine => hnone u hu hmine.1,
    fun s n words rd ra x h l hs hh hform hrd hone hf => simtStore_cluster_completes hs hh hform hrd hone hf,
    fun s n words rd ra x h l hs hh hform hrd hone hf => simtStore_core_completes hs hh hform hrd hone hf,
    fun s n op space rd ra rb rc x h l hs hh hone hwait hf hown => simtAtomic_completes hs hh op hone hwait hf hown,
    fun s n op space rd ra rb rc x h hs hh hwait => simtAtomic_waits hs hh hwait op space rd ra rb rc,
    fun s n c x h hs hh hlive hon hoff hstack => simtBranch_completes hs hh (branchOp_branch hon hoff hstack) rfl rfl hlive,
    fun s n c x h hs hh hlive => simtBranch_completes hs hh rfl rfl rfl hlive,
    fun s n x h hs hh hstack hlive => slotCompletes_mono (simtBranch_completes hs hh (branchOp_exit hstack _) rfl rfl hlive)
      fun _ _ hpost => hpost.2,
    fun s n k x h u hs hh hu hk hfirst => simtBarrier_completes hs hh hu hk hfirst,
    fun s n x h hs hh hd => simtFence_completes hs hh hd,
    fun s n texture d values rd ra x h hs hh hrd hra htex hgood hfixed hvalues =>
      simtSample_fixed_completes hs hh hrd hra htex hgood hfixed hvalues,
    fun s n texture rd ra x h hs hh hrd hra htex => simtSample_free_completes hs hh hrd hra htex⟩

end
